-- ==== Sys2Proof/Word.lean ====
section
/-! DEFINITION. The machine's word types. -/
namespace Sys2Proof

/-- One byte of memory. -/
abbrev Byte := BitVec 8
/-- A 32-bit register (R12). -/
abbrev W32 := BitVec 32
/-- A 64-bit value: a register pair, a latch or a uniform register (R13, R18, R22). -/
abbrev W64 := BitVec 64

end Sys2Proof
end

