-- ==== Sys2Proof/Syntax.lean ====
section
/-! DEFINITION. The instructions and events of the Q12: one constructor for each row of the opcode table.

Rows with an encoding carry the operand fields of "Instruction formats and the opcode map" (R51 to R77), with
operation and type codes turned into named values. Rows without an encoding are the device's own events and what the
outside world does to it; their parameters name the thing the event happens to (a gang key `g`, a wave index `w`, a
stack `st`, a queue number `q`, ...). -/
namespace Sys2Proof

/-- A raw register field of an instruction word; its class (per-lane source, destination, uniform, queue) is fixed by
the instruction (R53). -/
abbrev Reg := BitVec 7

/-- Rounding modes of the FP32, FP64 and FPH majors (R69). -/
inductive Rm | rn | rz | rd | ru
  deriving DecidableEq, Repr

/-- Rounding field of the CVT major (R72, R94). -/
inductive Rounding | rn | rna | rz | rd | ru | rs
  deriving DecidableEq, Repr

/-- Conditions of CMP and CMPI (R66). -/
inductive Cond | eq | ne | lt | le | gt | ge
  deriving DecidableEq, Repr

/-- Conditions of FCMP (R66, R145). -/
inductive FCond | eq | ne | lt | le | gt | ge | un | ord
  deriving DecidableEq, Repr

/-- Number types of CVT, and of the ordinary tensor element formats (R72, R85). -/
inductive NumTy | f64 | f32 | f16 | bf16 | e4m3 | e5m2 | i8 | i16 | i32 | i64 | n8 | n16 | n32 | n64
  deriving DecidableEq, Repr

/-- Access types of loads and stores (R73). -/
inductive MemTy | n8 | i8 | n16 | i16 | b32 | b64
  deriving DecidableEq, Repr

/-- Spaces of loads (R74, R176). -/
inductive Space | gen | glb | spd | cst
  deriving DecidableEq, Repr

/-- Spaces of stores, prefetches and ordinary atomics (R74, R76). -/
inductive WSpace | gen | glb | spd
  deriving DecidableEq, Repr

/-- Scopes of an access; `none` is an access without a scope (R2, R73). -/
inductive Scope | none | wave | gang | stack | pkg | sys
  deriving DecidableEq, Repr

/-- Order field of FENCE (R74, R194). -/
inductive FenceOrder | acq | rel | both
  deriving DecidableEq, Repr

/-- Order field of atomics (R76). -/
inductive AtomOrder | rlx | acq | rel
  deriving DecidableEq, Repr

/-- Typed atomic operations (R76). -/
inductive AtomOp
  | add32 | add64 | sub32 | sub64 | minI32 | minN32 | minI64 | minN64 | maxI32 | maxN32 | maxI64 | maxN64
  | and32 | and64 | or32 | or64 | xor32 | xor64 | exch32 | exch64 | cas32 | cas64
  | faddF32 | faddF64 | fminF32 | fminF64 | fmaxF32 | fmaxF64
  deriving DecidableEq, Repr

/-- Compares of MON (R195). -/
inductive MonCmp | ne | eq | ge
  deriving DecidableEq, Repr

/-- Kinds of BAR (R199). -/
inductive BarKind | arv | wait | sync | drop | join
  deriving DecidableEq, Repr

/-- Scopes of BAR (R199). -/
inductive BarScope | wave | gang | stack | pkg
  deriving DecidableEq, Repr

/-- Operations of XEN and XFLG (R234). -/
inductive MaskOp | write | set | clear
  deriving DecidableEq, Repr

/-- Validity of a wave or gang, from lowest to highest (R173, R174). -/
inductive Validity | none | part | full
  deriving DecidableEq, Repr

/-- What a completion timeout ends (R350, R354): pending load or store k of a wave, a back-invalidation of a stack, a
read of an engine's command, or the write-back of a line of the device cache. -/
inductive Outstanding
  | load (g w k : Nat)
  | store (g w k : Nat)
  | snoop (st line : Nat)
  | engine (k : Nat)
  | line (n : Nat)
  deriving DecidableEq, Repr

/-- What a sub-array self-test finds: a pass, a failure of one physical row, or any other failure (R314, R315). -/
inductive SelfTest | pass | row (r : Nat) | array
  deriving DecidableEq, Repr

/-- Every instruction and event of spec/opcode_table.json, one constructor a row. The words come first, then the events
that `Machine.State.nextMove` itself brings about, then the others. -/
inductive Instr
  /-- NOP (R231). -/
  | nop
  /-- TRAP (R235). -/
  | trap (n : BitVec 7)
  /-- TRET (R242). -/
  | tret
  /-- BRK (R235). -/
  | brk (n : BitVec 7)
  /-- GETS (R232). -/
  | gets (nw : Bool) (d : Reg) (a : Reg)
  /-- SETS (R233). -/
  | sets (a : Reg) (b : Reg)
  /-- XEN (R234). -/
  | xen (o : MaskOp) (m : BitVec 5)
  /-- XFLG (R234). -/
  | xflg (o : MaskOp) (m : BitVec 5)
  /-- EXIT (R162). -/
  | exit
  /-- RET (R158). -/
  | ret
  /-- BRX (R157). -/
  | brx (a : Reg) (p : BitVec 6)
  /-- CALLX (R157). -/
  | callx (a : Reg) (p : BitVec 6)
  /-- PRIO (R164). -/
  | prio (p : BitVec 6)
  /-- JMSK (R168). -/
  | jmsk (j : BitVec 3)
  /-- JOIN (R169). -/
  | join (j : BitVec 3)
  /-- WINB (R171). -/
  | winb (b : BitVec 6)
  /-- VALID (R173). -/
  | valid (v : Validity)
  /-- YIELD (R175). -/
  | yield
  /-- GUARD (R165). -/
  | guard (n : BitVec 7) (s : Bool) (q : BitVec 4)
  /-- BRA (R158). -/
  | bra (p : BitVec 4) (s : Bool) (t : BitVec 6) (o : BitVec 16)
  /-- CALL (R158). -/
  | call (p : BitVec 4) (s : Bool) (t : BitVec 6) (o : BitVec 16)
  /-- ADD (R111). -/
  | add32 (nw : Bool) (d : Reg) (a : Reg) (b : Reg)
  /-- SUB (R111). -/
  | sub32 (nw : Bool) (d : Reg) (a : Reg) (b : Reg)
  /-- MULL (R111). -/
  | mull (nw : Bool) (d : Reg) (a : Reg) (b : Reg)
  /-- MULH_I32 (R111). -/
  | mulhI32 (nw : Bool) (d : Reg) (a : Reg) (b : Reg)
  /-- MULH_N32 (R111). -/
  | mulhN32 (nw : Bool) (d : Reg) (a : Reg) (b : Reg)
  /-- MAD (R111). -/
  | mad (nw : Bool) (d : Reg) (a : Reg) (b : Reg)
  /-- DIV (R112). -/
  | div32 (t : Bool) (nw : Bool) (d : Reg) (a : Reg) (b : Reg)
  /-- REM (R112). -/
  | rem32 (t : Bool) (nw : Bool) (d : Reg) (a : Reg) (b : Reg)
  /-- MIN (R113). -/
  | min32 (t : Bool) (nw : Bool) (d : Reg) (a : Reg) (b : Reg)
  /-- MAX (R113). -/
  | max32 (t : Bool) (nw : Bool) (d : Reg) (a : Reg) (b : Reg)
  /-- SADD (R113). -/
  | sadd (t : Bool) (nw : Bool) (d : Reg) (a : Reg) (b : Reg)
  /-- SSUB (R113). -/
  | ssub (t : Bool) (nw : Bool) (d : Reg) (a : Reg) (b : Reg)
  /-- AND (R110). -/
  | and32 (nw : Bool) (d : Reg) (a : Reg) (b : Reg)
  /-- OR (R110). -/
  | or32 (nw : Bool) (d : Reg) (a : Reg) (b : Reg)
  /-- XOR (R110). -/
  | xor32 (nw : Bool) (d : Reg) (a : Reg) (b : Reg)
  /-- SHL (R114). -/
  | shl (nw : Bool) (d : Reg) (a : Reg) (b : Reg)
  /-- SHR (R114). -/
  | shr (nw : Bool) (d : Reg) (a : Reg) (b : Reg)
  /-- SAR (R114). -/
  | sar (nw : Bool) (d : Reg) (a : Reg) (b : Reg)
  /-- ROTL (R114). -/
  | rotl (nw : Bool) (d : Reg) (a : Reg) (b : Reg)
  /-- SHLI (R114). -/
  | shli (nw : Bool) (d : Reg) (a : Reg) (n : BitVec 5)
  /-- SHRI (R114). -/
  | shri (nw : Bool) (d : Reg) (a : Reg) (n : BitVec 5)
  /-- SARI (R114). -/
  | sari (nw : Bool) (d : Reg) (a : Reg) (n : BitVec 5)
  /-- BFX (R115). -/
  | bfx (t : Bool) (nw : Bool) (d : Reg) (a : Reg) (b : Reg)
  /-- BFI (R115). -/
  | bfi (nw : Bool) (d : Reg) (a : Reg) (b : Reg)
  /-- PERMB (R116). -/
  | permb (nw : Bool) (d : Reg) (a : Reg) (b : Reg)
  /-- MOV (R117). -/
  | mov (nw : Bool) (d : Reg) (a : Reg)
  /-- NOT (R117). -/
  | not32 (nw : Bool) (d : Reg) (a : Reg)
  /-- NEG (R117). -/
  | neg32 (nw : Bool) (d : Reg) (a : Reg)
  /-- ABS (R117). -/
  | abs32 (nw : Bool) (d : Reg) (a : Reg)
  /-- POPC (R117). -/
  | popc (nw : Bool) (d : Reg) (a : Reg)
  /-- CLZ (R117). -/
  | clz (nw : Bool) (d : Reg) (a : Reg)
  /-- CTZ (R117). -/
  | ctz (nw : Bool) (d : Reg) (a : Reg)
  /-- BREV (R117). -/
  | brev (nw : Bool) (d : Reg) (a : Reg)
  /-- ADD_INT64 (R111). -/
  | addInt64 (nw : Bool) (d : Reg) (a : Reg) (b : Reg)
  /-- SUB_INT64 (R111). -/
  | subInt64 (nw : Bool) (d : Reg) (a : Reg) (b : Reg)
  /-- MULL_INT64 (R111). -/
  | mullInt64 (nw : Bool) (d : Reg) (a : Reg) (b : Reg)
  /-- MIN_I64 (R113). -/
  | minI64 (nw : Bool) (d : Reg) (a : Reg) (b : Reg)
  /-- MIN_N64 (R113). -/
  | minN64 (nw : Bool) (d : Reg) (a : Reg) (b : Reg)
  /-- MAX_I64 (R113). -/
  | maxI64 (nw : Bool) (d : Reg) (a : Reg) (b : Reg)
  /-- MAX_N64 (R113). -/
  | maxN64 (nw : Bool) (d : Reg) (a : Reg) (b : Reg)
  /-- AND_INT64 (R110). -/
  | andInt64 (nw : Bool) (d : Reg) (a : Reg) (b : Reg)
  /-- OR_INT64 (R110). -/
  | orInt64 (nw : Bool) (d : Reg) (a : Reg) (b : Reg)
  /-- XOR_INT64 (R110). -/
  | xorInt64 (nw : Bool) (d : Reg) (a : Reg) (b : Reg)
  /-- SHL_INT64 (R114). -/
  | shlInt64 (nw : Bool) (d : Reg) (a : Reg) (b : Reg)
  /-- SHR_INT64 (R114). -/
  | shrInt64 (nw : Bool) (d : Reg) (a : Reg) (b : Reg)
  /-- SAR_INT64 (R114). -/
  | sarInt64 (nw : Bool) (d : Reg) (a : Reg) (b : Reg)
  /-- SHLI_INT64 (R114). -/
  | shliInt64 (nw : Bool) (d : Reg) (a : Reg) (n : BitVec 6)
  /-- SHRI_INT64 (R114). -/
  | shriInt64 (nw : Bool) (d : Reg) (a : Reg) (n : BitVec 6)
  /-- SARI_INT64 (R114). -/
  | sariInt64 (nw : Bool) (d : Reg) (a : Reg) (n : BitVec 6)
  /-- MOV_INT64 (R120). -/
  | movInt64 (nw : Bool) (d : Reg) (a : Reg)
  /-- NOT_INT64 (R117). -/
  | notInt64 (nw : Bool) (d : Reg) (a : Reg)
  /-- NEG_INT64 (R117). -/
  | negInt64 (nw : Bool) (d : Reg) (a : Reg)
  /-- ABS_INT64 (R117). -/
  | absInt64 (nw : Bool) (d : Reg) (a : Reg)
  /-- POPC_INT64 (R117). -/
  | popcInt64 (nw : Bool) (d : Reg) (a : Reg)
  /-- CLZ_INT64 (R117). -/
  | clzInt64 (nw : Bool) (d : Reg) (a : Reg)
  /-- CTZ_INT64 (R117). -/
  | ctzInt64 (nw : Bool) (d : Reg) (a : Reg)
  /-- BREV_INT64 (R117). -/
  | brevInt64 (nw : Bool) (d : Reg) (a : Reg)
  /-- LEA_I32 (R118). -/
  | leaI32 (nw : Bool) (d : Reg) (a : Reg) (b : Reg)
  /-- LEA_N32 (R118). -/
  | leaN32 (nw : Bool) (d : Reg) (a : Reg) (b : Reg)
  /-- ADD_UINT (R111). -/
  | addUint (d : Reg) (a : Reg) (b : Reg)
  /-- SUB_UINT (R111). -/
  | subUint (d : Reg) (a : Reg) (b : Reg)
  /-- MULL_UINT (R111). -/
  | mullUint (d : Reg) (a : Reg) (b : Reg)
  /-- MULH_I64 (R111). -/
  | mulhI64 (d : Reg) (a : Reg) (b : Reg)
  /-- MULH_N64 (R111). -/
  | mulhN64 (d : Reg) (a : Reg) (b : Reg)
  /-- MAD_UINT (R111). -/
  | madUint (d : Reg) (a : Reg) (b : Reg)
  /-- MIN_UINT (R113). -/
  | minUint (t : Bool) (d : Reg) (a : Reg) (b : Reg)
  /-- MAX_UINT (R113). -/
  | maxUint (t : Bool) (d : Reg) (a : Reg) (b : Reg)
  /-- AND_UINT (R110). -/
  | andUint (d : Reg) (a : Reg) (b : Reg)
  /-- OR_UINT (R110). -/
  | orUint (d : Reg) (a : Reg) (b : Reg)
  /-- XOR_UINT (R110). -/
  | xorUint (d : Reg) (a : Reg) (b : Reg)
  /-- SHL_UINT (R114). -/
  | shlUint (d : Reg) (a : Reg) (b : Reg)
  /-- SHR_UINT (R114). -/
  | shrUint (d : Reg) (a : Reg) (b : Reg)
  /-- SAR_UINT (R114). -/
  | sarUint (d : Reg) (a : Reg) (b : Reg)
  /-- SHLI_UINT (R114). -/
  | shliUint (d : Reg) (a : Reg) (n : BitVec 6)
  /-- SHRI_UINT (R114). -/
  | shriUint (d : Reg) (a : Reg) (n : BitVec 6)
  /-- SARI_UINT (R114). -/
  | sariUint (d : Reg) (a : Reg) (n : BitVec 6)
  /-- BFX_I64 (R115). -/
  | bfxI64 (d : Reg) (a : Reg) (b : Reg)
  /-- BFX_N64 (R115). -/
  | bfxN64 (d : Reg) (a : Reg) (b : Reg)
  /-- BFI_UINT (R115). -/
  | bfiUint (d : Reg) (a : Reg) (b : Reg)
  /-- MOV_UINT (R120). -/
  | movUint (d : Reg) (a : Reg)
  /-- NOT_UINT (R117). -/
  | notUint (d : Reg) (a : Reg)
  /-- NEG_UINT (R117). -/
  | negUint (d : Reg) (a : Reg)
  /-- ABS_UINT (R117). -/
  | absUint (d : Reg) (a : Reg)
  /-- POPC_UINT (R117). -/
  | popcUint (d : Reg) (a : Reg)
  /-- CLZ_UINT (R117). -/
  | clzUint (d : Reg) (a : Reg)
  /-- CTZ_UINT (R117). -/
  | ctzUint (d : Reg) (a : Reg)
  /-- BREV_UINT (R117). -/
  | brevUint (d : Reg) (a : Reg)
  /-- CMP (R123). -/
  | cmp (t : Bool) (c : Cond) (q : BitVec 4) (a : Reg) (b : Reg)
  /-- CMP_64 (R123). -/
  | cmp64 (t : Bool) (c : Cond) (q : BitVec 4) (a : Reg) (b : Reg)
  /-- PAND (R124). -/
  | pand (q : BitVec 4) (x : Bool) (p : BitVec 4) (y : Bool) (r : BitVec 4)
  /-- POR (R124). -/
  | por (q : BitVec 4) (x : Bool) (p : BitVec 4) (y : Bool) (r : BitVec 4)
  /-- PXOR (R124). -/
  | pxor (q : BitVec 4) (x : Bool) (p : BitVec 4) (y : Bool) (r : BitVec 4)
  /-- PNOT (R124). -/
  | pnot (q : BitVec 4) (x : Bool) (p : BitVec 4)
  /-- PMOV (R124). -/
  | pmov (q : BitVec 4) (x : Bool) (p : BitVec 4)
  /-- VOTE_ALL (R126). -/
  | voteAll (q : BitVec 4) (x : Bool) (p : BitVec 4)
  /-- VOTE_ANY (R126). -/
  | voteAny (q : BitVec 4) (x : Bool) (p : BitVec 4)
  /-- VOTE_BALLOT (R126). -/
  | voteBallot (nw : Bool) (d : Reg) (x : Bool) (p : BitVec 4)
  /-- SHFL_IDX (R127). -/
  | shflIdx (nw : Bool) (d : Reg) (a : Reg) (b : Reg)
  /-- SHFL_UP (R127). -/
  | shflUp (nw : Bool) (d : Reg) (a : Reg) (b : Reg)
  /-- SHFL_DOWN (R127). -/
  | shflDown (nw : Bool) (d : Reg) (a : Reg) (b : Reg)
  /-- SHFL_XOR (R127). -/
  | shflXor (nw : Bool) (d : Reg) (a : Reg) (b : Reg)
  /-- BCST (R128). -/
  | bcst (z : Bool) (d : Reg) (a : Reg)
  /-- ELECT (R129). -/
  | elect (q : BitVec 4)
  /-- MOV_FROM_UNIFORM (R120). -/
  | movFromUniform (nw : Bool) (d : Reg) (a : Reg) (z : Bool)
  /-- SEL_B32 (R122). -/
  | selB32 (p : BitVec 4) (nw : Bool) (d : Reg) (a : Reg) (b : Reg)
  /-- SEL_B64 (R122). -/
  | selB64 (p : BitVec 4) (nw : Bool) (d : Reg) (a : Reg) (b : Reg)
  /-- ADDC (R121). -/
  | addc (p : BitVec 4) (nw : Bool) (d : Reg) (a : Reg) (b : Reg)
  /-- SUBC (R121). -/
  | subc (p : BitVec 4) (nw : Bool) (d : Reg) (a : Reg) (b : Reg)
  /-- ADDI (R119). -/
  | addi (i : BitVec 12) (nw : Bool) (d : Reg) (a : Reg)
  /-- ANDI (R119). -/
  | andi (i : BitVec 12) (nw : Bool) (d : Reg) (a : Reg)
  /-- ORI (R119). -/
  | ori (i : BitVec 12) (nw : Bool) (d : Reg) (a : Reg)
  /-- XORI (R119). -/
  | xori (i : BitVec 12) (nw : Bool) (d : Reg) (a : Reg)
  /-- CMPI (R123). -/
  | cmpi (i : BitVec 12) (t : Bool) (c : Cond) (q : BitVec 4) (a : Reg)
  /-- LUI (R119). -/
  | lui (i : BitVec 19) (nw : Bool) (d : Reg)
  /-- MOVI (R119). -/
  | movi (i : BitVec 19) (nw : Bool) (d : Reg)
  /-- UADDI (R119). -/
  | uaddi (i : BitVec 12) (d : Reg) (a : Reg)
  /-- UMOVI (R119). -/
  | umovi (i : BitVec 19) (d : Reg)
  /-- UMOVI_LUI (R119). -/
  | umoviLui (i : BitVec 19) (d : Reg)
  /-- FADD_FP32 (R136). -/
  | faddFp32 (r : Rm) (nw : Bool) (d : Reg) (a : Reg) (b : Reg)
  /-- FSUB_FP32 (R136). -/
  | fsubFp32 (r : Rm) (nw : Bool) (d : Reg) (a : Reg) (b : Reg)
  /-- FMUL_FP32 (R136). -/
  | fmulFp32 (r : Rm) (nw : Bool) (d : Reg) (a : Reg) (b : Reg)
  /-- FDIV_FP32 (R136). -/
  | fdivFp32 (r : Rm) (nw : Bool) (d : Reg) (a : Reg) (b : Reg)
  /-- FMA_FP32 (R136). -/
  | fmaFp32 (r : Rm) (nw : Bool) (d : Reg) (a : Reg) (b : Reg)
  /-- FNMA_FP32 (R136). -/
  | fnmaFp32 (r : Rm) (nw : Bool) (d : Reg) (a : Reg) (b : Reg)
  /-- FSCL_FP32 (R138). -/
  | fsclFp32 (r : Rm) (nw : Bool) (d : Reg) (a : Reg) (b : Reg)
  /-- FSQRT_FP32 (R140). -/
  | fsqrtFp32 (r : Rm) (nw : Bool) (d : Reg) (a : Reg)
  /-- FRCP (R140). -/
  | frcp (r : Rm) (nw : Bool) (d : Reg) (a : Reg)
  /-- FRSQ (R140). -/
  | frsq (r : Rm) (nw : Bool) (d : Reg) (a : Reg)
  /-- FEXP2 (R140). -/
  | fexp2 (r : Rm) (nw : Bool) (d : Reg) (a : Reg)
  /-- FLOG2 (R140). -/
  | flog2 (r : Rm) (nw : Bool) (d : Reg) (a : Reg)
  /-- FRND_FP32 (R141). -/
  | frndFp32 (r : Rm) (nw : Bool) (d : Reg) (a : Reg)
  /-- FRND_RNA_FP32 (R141). -/
  | frndRnaFp32 (nw : Bool) (d : Reg) (a : Reg)
  /-- FADD_FP64 (R136). -/
  | faddFp64 (r : Rm) (nw : Bool) (d : Reg) (a : Reg) (b : Reg)
  /-- FSUB_FP64 (R136). -/
  | fsubFp64 (r : Rm) (nw : Bool) (d : Reg) (a : Reg) (b : Reg)
  /-- FMUL_FP64 (R136). -/
  | fmulFp64 (r : Rm) (nw : Bool) (d : Reg) (a : Reg) (b : Reg)
  /-- FDIV_FP64 (R136). -/
  | fdivFp64 (r : Rm) (nw : Bool) (d : Reg) (a : Reg) (b : Reg)
  /-- FMA_FP64 (R136). -/
  | fmaFp64 (r : Rm) (nw : Bool) (d : Reg) (a : Reg) (b : Reg)
  /-- FNMA_FP64 (R136). -/
  | fnmaFp64 (r : Rm) (nw : Bool) (d : Reg) (a : Reg) (b : Reg)
  /-- FSCL_FP64 (R138). -/
  | fsclFp64 (r : Rm) (nw : Bool) (d : Reg) (a : Reg) (b : Reg)
  /-- FSQRT_FP64 (R140). -/
  | fsqrtFp64 (r : Rm) (nw : Bool) (d : Reg) (a : Reg)
  /-- FRND_FP64 (R141). -/
  | frndFp64 (r : Rm) (nw : Bool) (d : Reg) (a : Reg)
  /-- FRND_RNA_FP64 (R141). -/
  | frndRnaFp64 (nw : Bool) (d : Reg) (a : Reg)
  /-- HADD2 (R146). -/
  | hadd2 (t : Bool) (r : Rm) (nw : Bool) (d : Reg) (a : Reg) (b : Reg)
  /-- HMUL2 (R146). -/
  | hmul2 (t : Bool) (r : Rm) (nw : Bool) (d : Reg) (a : Reg) (b : Reg)
  /-- HFMA2 (R146). -/
  | hfma2 (t : Bool) (r : Rm) (nw : Bool) (d : Reg) (a : Reg) (b : Reg)
  /-- HMIN2 (R146). -/
  | hmin2 (t : Bool) (nw : Bool) (d : Reg) (a : Reg) (b : Reg)
  /-- HMAX2 (R146). -/
  | hmax2 (t : Bool) (nw : Bool) (d : Reg) (a : Reg) (b : Reg)
  /-- FMIN (R142). -/
  | fmin (t : Bool) (nw : Bool) (d : Reg) (a : Reg) (b : Reg)
  /-- FMAX (R142). -/
  | fmax (t : Bool) (nw : Bool) (d : Reg) (a : Reg) (b : Reg)
  /-- FMINN (R142). -/
  | fminn (t : Bool) (nw : Bool) (d : Reg) (a : Reg) (b : Reg)
  /-- FMAXN (R142). -/
  | fmaxn (t : Bool) (nw : Bool) (d : Reg) (a : Reg) (b : Reg)
  /-- FABS (R143). -/
  | fabs (t : Bool) (nw : Bool) (d : Reg) (a : Reg)
  /-- FNEG (R143). -/
  | fneg (t : Bool) (nw : Bool) (d : Reg) (a : Reg)
  /-- FCPYS (R143). -/
  | fcpys (t : Bool) (nw : Bool) (d : Reg) (a : Reg) (b : Reg)
  /-- FCLASS (R144). -/
  | fclass (t : Bool) (nw : Bool) (d : Reg) (a : Reg)
  /-- FEXT (R139). -/
  | fext (t : Bool) (nw : Bool) (d : Reg) (a : Reg)
  /-- FCMP (R145). -/
  | fcmp (t : Bool) (c : FCond) (q : BitVec 4) (a : Reg) (b : Reg)
  /-- CVT (R148). -/
  | cvt (r : Rounding) (y : NumTy) (nw : Bool) (d : Reg) (a : Reg) (s : NumTy)
  /-- PACK4 (R150). -/
  | pack4 (r : Rounding) (y : NumTy) (nw : Bool) (d : Reg) (a : Reg) (s : NumTy)
  /-- LDO (R75). -/
  | ldo (i : BitVec 12) (z : Bool) (d : Reg) (a : Reg)
  /-- STO (R75). -/
  | sto (i : BitVec 12) (z : Bool) (d : Reg) (a : Reg)
  /-- LD (R182). -/
  | ld (s : Space) (o : Bool) (d : Reg) (a : Reg) (t : MemTy) (c : Scope) (n : Bool)
  /-- LDV (R182). -/
  | ldv (s : Space) (o : Bool) (d : Reg) (a : Reg) (c : Scope) (n : Bool)
  /-- ST (R182). -/
  | st (s : WSpace) (o : Bool) (d : Reg) (a : Reg) (t : MemTy) (c : Scope) (n : Bool)
  /-- STV (R182). -/
  | stv (s : WSpace) (o : Bool) (d : Reg) (a : Reg) (c : Scope) (n : Bool)
  /-- LDX (R186). -/
  | ldx (z : Bool) (d : Reg) (a : Reg) (b : Reg)
  /-- STX (R186). -/
  | stx (z : Bool) (d : Reg) (a : Reg) (b : Reg)
  /-- PREF (R187). -/
  | pref (a : Reg) (s : WSpace) (n : Bool)
  /-- FENCE (R194). -/
  | fence (c : Scope) (o : FenceOrder) (m : Bool)
  /-- MON (R195). -/
  | mon (k : MonCmp) (z : Bool) (a : Reg) (b : Reg)
  /-- MWAIT (R196). -/
  | mwait (d : Reg) (a : Reg)
  /-- ATOM (R189). -/
  | atom (f : AtomOp) (d : Reg) (a : Reg) (c : Scope) (o : AtomOrder) (s : WSpace)
  /-- ATOMR (R189). -/
  | atomr (f : AtomOp) (d : Reg) (a : Reg) (c : Scope) (o : AtomOrder) (s : WSpace)
  /-- MATOM (R192). -/
  | matom (f : AtomOp) (d : Reg) (a : Reg) (c : Scope) (o : AtomOrder)
  /-- MATOMR (R192). -/
  | matomr (f : AtomOp) (d : Reg) (a : Reg) (c : Scope) (o : AtomOrder)
  /-- BAR (R201). -/
  | bar (n : BitVec 4) (k : BarKind) (c : BarScope) (x : Bool)
  /-- SPECX (R205). -/
  | specx
  /-- QW (R206). -/
  | qw (q : BitVec 7) (a : Reg)
  /-- QR (R206). -/
  | qr (d : Reg) (q : BitVec 7)
  /-- QRT (R206). -/
  | qrt (d : Reg) (q : BitVec 7) (p : BitVec 4)
  /-- QST (R207). -/
  | qst (d : Reg) (q : BitVec 7)
  /-- TKW_SRC (R209). -/
  | tkwSrc (a : Reg)
  /-- TKW_VIS (R209). -/
  | tkwVis (a : Reg)
  /-- CPY (R210). -/
  | cpy (nw : Bool) (d : Reg) (a : Reg) (h : Bool)
  /-- GAT (R210). -/
  | gat (nw : Bool) (d : Reg) (a : Reg) (h : Bool)
  /-- SCT (R210). -/
  | sct (nw : Bool) (d : Reg) (a : Reg) (h : Bool)
  /-- BIN (R217). -/
  | bin (nw : Bool) (d : Reg) (a : Reg)
  /-- COLL (R212). -/
  | coll (nw : Bool) (d : Reg) (a : Reg) (h : Bool)
  /-- SHAPE (R220). -/
  | shape (d : Reg) (a : Reg)
  /-- MXLS (R223). -/
  | mxls (nw : Bool) (d : Reg) (a : Reg)
  /-- MXSW (R223). -/
  | mxsw
  /-- MXGO (R224). -/
  | mxgo (nw : Bool) (d : Reg) (a : Reg)
  /-- MXRD (R225). -/
  | mxrd (d : Reg) (a : Reg)
  /-- MXZ (R225). -/
  | mxz (a : Reg)
  /-- MXST (R225). -/
  | mxst (nw : Bool) (d : Reg) (a : Reg)
  /-- TIDW (R229). -/
  | tidw (a : Reg) (b : Reg)
  /-- TIDR (R227). -/
  | tidr (a : Reg) (b : Reg)
  /-- HANDLER_ENTRY (R238). -/
  | handlerEntry (g : Nat) (w : Nat)
  /-- JOIN_RELEASE (R170). -/
  | joinRelease (g : Nat) (w : Nat) (e : Nat)
  /-- ILLEGAL_INSTRUCTION (R78). -/
  | illegalInstruction (w : BitVec 32)
  /-- FETCH_FAULT (R395). -/
  | fetchFault (g : Nat) (w : Nat)
  /-- FLAG_FALL (R323). -/
  | flagFall (l : Nat) (st : Nat)
  /-- DEADLINE_KILL (R329). -/
  | deadlineKill (l : Nat) (st : Nat)
  /-- DISPATCHER_FLAG_FALL (R321). -/
  | dispatcherFlagFall (l : Nat)
  /-- WAVE_RETIRE (R163). -/
  | waveRetire (g : Nat) (w : Nat)
  /-- GANG_RETIRE (R163). -/
  | gangRetire (g : Nat)
  /-- YIELD_HOLD_EXPIRY (R175). -/
  | yieldHoldExpiry (g : Nat) (w : Nat)
  /-- ISSUE_AGE_PROMOTION (R264). -/
  | issueAgePromotion (g : Nat) (w : Nat)
  /-- PARK_WAVE (R265). -/
  | parkWave (g : Nat) (w : Nat)
  /-- RECALL_WAVE (R265). -/
  | recallWave (g : Nat) (w : Nat)
  /-- WATCHDOG_EXPIRY (R392). -/
  | watchdogExpiry (g : Nat) (w : Nat)
  /-- LOAD_REPLY (R198). -/
  | loadReply (g : Nat) (w : Nat) (k : Nat)
  /-- STORE_ACK (R198). -/
  | storeAck (g : Nat) (w : Nat)
  /-- MATOM_PERFORM (R192). -/
  | matomPerform (k : Nat)
  /-- MWAIT_RECHECK (R196). -/
  | mwaitRecheck (g : Nat) (w : Nat) (e : Nat)
  /-- MWAIT_TIMEOUT (R196). -/
  | mwaitTimeout (g : Nat) (w : Nat) (e : Nat)
  /-- HALT_LINE_ARRIVAL (R411). -/
  | haltLineArrival (st : Nat)
  /-- HALT_CLEAR (R415). -/
  | haltClear (st : Nat)
  /-- DISPATCH_ROUND (R258). -/
  | dispatchRound (p : Nat := 0)
  /-- STACK_DISPATCH_GANG (R261). -/
  | stackDispatchGang (st : Nat)
  /-- RESERVATION_ATTEMPT (R262). -/
  | reservationAttempt (r : Nat)
  /-- RESERVATION_BACKOFF_EXPIRY (R262). -/
  | reservationBackoffExpiry (r : Nat)
  /-- POOL_RECORD_TAKE (R269). -/
  | poolRecordTake (p : Nat)
  /-- POOL_DRAIN_FLUSH (R270). -/
  | poolDrainFlush (p : Nat)
  /-- COMPLETION_RECORD_WRITE (R331). -/
  | completionRecordWrite (l : Nat)
  /-- ENGINE_COMMAND_START (R303). -/
  | engineCommandStart (c : Nat)
  /-- ENGINE_SOURCE_READ (R214). -/
  | engineSourceRead (c : Nat)
  /-- ENGINE_COMPLETE (R214). -/
  | engineComplete (c : Nat)
  /-- COLL_CHUNK_DELIVERED (R212). -/
  | collChunkDelivered (c : Nat)
  /-- MATRIX_OP_START (R318). -/
  | matrixOpStart (m : Nat)
  /-- MATRIX_FETCH_PAGE_MISS (R224). -/
  | matrixFetchPageMiss (m : Nat)
  /-- MATRIX_OP_COMPLETE (R224). -/
  | matrixOpComplete (m : Nat) (t : SelfTest)
  /-- SELF_TEST_PERIODIC (R314). -/
  | selfTestPeriodic (st : Nat) (sub : Nat) (t : SelfTest)
  /-- KICK (R362). -/
  | kick (port : Nat) (q : Nat) (bytes : Nat) (v : Nat)
  /-- PACKET_FETCH (R364). -/
  | packetFetch (q : Nat)
  /-- MARK_REREAD (R364). -/
  | markReread (q : Nat)
  /-- BODY_CHECK_RETRY (R366). -/
  | bodyCheckRetry (q : Nat)
  /-- LAUNCH_PACKET (R372). -/
  | launchPacket (q : Nat)
  /-- CONTINUATION_PACKET (R373). -/
  | continuationPacket (q : Nat)
  /-- ENGINE_PACKET (R370). -/
  | enginePacket (q : Nat)
  /-- WAIT_PACKET (R370). -/
  | waitPacket (q : Nat)
  /-- WAIT_REREAD (R370). -/
  | waitReread (q : Nat) (i : Nat)
  /-- SIGNAL_PACKET (R370). -/
  | signalPacket (q : Nat)
  /-- GRAPH_PACKET (R374). -/
  | graphPacket (q : Nat)
  /-- GRAPH_NODE_START (R374). -/
  | graphNodeStart (q : Nat) (i : Nat)
  /-- NOTIFY_PACKET (R379). -/
  | notifyPacket (q : Nat)
  /-- NOTIFY_TAKEN_REREAD (R379). -/
  | notifyTakenReread (q : Nat) (i : Nat)
  /-- NOTIFY_TIME_INTERRUPT (R379). -/
  | notifyTimeInterrupt (ring : Nat)
  /-- DEPENDENCE_REREAD (R372). -/
  | dependenceReread (l : Nat)
  /-- EVRING_WRITE (R381). -/
  | evringWrite (st : Nat) (n : Nat) (v : Nat)
  /-- SDMODE_WRITE (R383). -/
  | sdmodeWrite (st : Nat) (v : Nat)
  /-- SDMODE_TAKE_EFFECT (R383). -/
  | sdmodeTakeEffect (st : Nat)
  /-- CP_LOAD (R384). -/
  | cpLoad (cp : Nat) (done : Bool := false)
  /-- CP_CASTLE (R385). -/
  | cpCastle
  /-- CP_POWER_OFF (R384). -/
  | cpPowerOff
  /-- CASTLING_IMPORT (R385). -/
  | castlingImport (errors : Nat)
  /-- CASTLING_TIMEOUT (R385). -/
  | castlingTimeout
  /-- CREATE_CONTEXT (R391). -/
  | createContext (q : Nat)
  /-- DESTROY_CONTEXT (R390). -/
  | destroyContext (q : Nat)
  /-- REGISTER_QUEUE (R361). -/
  | registerQueue (q : Nat)
  /-- RESET_QUEUE (R390). -/
  | resetQueue (q : Nat)
  /-- PREEMPT (R402). -/
  | preempt (q : Nat)
  /-- DRAIN_BOUND_EXPIRY (R402). -/
  | drainBoundExpiry (ctx : Nat)
  /-- EVICT_BOUND_EXPIRY (R402). -/
  | evictBoundExpiry (ctx : Nat)
  /-- RESUME (R410). -/
  | resume (q : Nat)
  /-- GANG_RESTORE (R410). -/
  | gangRestore (g : Nat) (st : Nat)
  /-- INVALIDATE (R397). -/
  | invalidate (q : Nat)
  /-- INVALIDATION_ACK (R397). -/
  | invalidationAck (q : Nat) (st : Nat)
  /-- RESOLVE (R398). -/
  | resolve (q : Nat)
  /-- REFUSE (R398). -/
  | refuse (q : Nat)
  /-- MIGRATE_PAGE (R401). -/
  | migratePage (q : Nat)
  /-- REBUILD_CHANNEL (R435). -/
  | rebuildChannel (q : Nat)
  /-- REBUILD_STEP (R435). -/
  | rebuildStep (st : Nat) (errors : List (Nat × Nat) := [])
  /-- BEGIN_LAYER_MAP_OUT (R437). -/
  | beginLayerMapOut (q : Nat)
  /-- CONFIRM_LAYER_REMOVAL (R437). -/
  | confirmLayerRemoval (q : Nat)
  /-- MAP_OUT_COPY_STEP (R437). -/
  | mapOutCopyStep (st : Nat) (errors : List (Nat × Nat) := [])
  /-- PATROL_SCRUB (R433). -/
  | patrolScrub (st : Nat) (blk : Nat) (errors : List (Nat × Nat))
  /-- BANK_MODE_WRITE (R278). -/
  | bankModeWrite (st : Nat) (cl : Nat) (bank : Nat) (v : Nat)
  /-- BANK_MODE_CHANGE_COMPLETE (R278). -/
  | bankModeChangeComplete (st : Nat) (cl : Nat) (bank : Nat)
  /-- PARTITION_ENABLE (R389). -/
  | partitionEnable (st : Nat) (v : Nat)
  /-- SCRUB_COMPLETE (R389). -/
  | scrubComplete (st : Nat) (aq : Nat) (desc : Nat)
  /-- RING_TRANSFER (R388). -/
  | ringTransfer (src : Nat) (dst : Nat)
  /-- HOST_MEM_REQUEST (R349). -/
  | hostMemRequest (st : Nat) (wr : Bool) (own : Bool) (addr : Nat) (size : Nat) (data : Nat)
    (poison : Bool := false)
  /-- BACK_INVALIDATION_RESPONSE (R350). -/
  | backInvalidationResponse (st : Nat) (line : Nat) (dirty : Bool) (data : Nat) (poison : Bool := false)
  /-- HOST_SNOOP (R352). -/
  | hostSnoop (st : Nat) (line : Nat) (inv : Bool) (off : Nat := 0) (size : Nat := 0) (data : Nat := 0)
    (poison : Bool := false)
  /-- LINK_DOWN (R354). -/
  | linkDown (st : Nat)
  /-- VIRAL_RECEIVED (R354). -/
  | viralReceived (st : Nat)
  /-- COMPLETION_TIMEOUT (R354). -/
  | completionTimeout (x : Outstanding)
  /-- ROUTE_FREEZE (R357). -/
  | routeFreeze (st : Nat)
  /-- ROUTE_UNFREEZE (R357). -/
  | routeUnfreeze (st : Nat) (retired : Nat)
  /-- PTM_EXCHANGE (R360). -/
  | ptmExchange (st : Nat) (master : Nat)
  /-- PTM_HOLDOVER_TIMEOUT (R360). -/
  | ptmHoldoverTimeout (st : Nat)
  /-- GOVERNOR_TICK (R440). -/
  | governorTick (st : Nat) (td : Nat) (tl : Nat)
  /-- POWER_UP (R420). -/
  | powerUp (st : Nat)
  /-- BOOT_LOAD_CONFIG (R423). -/
  | bootLoadConfig (st : Nat) (done : Bool := false)
  /-- IDPUB_RECEIVED (R425). -/
  | idpubReceived (st : Nat)
  /-- IDPUB_TIMEOUT (R425). -/
  | idpubTimeout (st : Nat)
  /-- BOOT_PRODUCE_QUOTE (R428). -/
  | bootProduceQuote (st : Nat)
  /-- QUOTE_WRITE_COMPLETE (R428). -/
  | quoteWriteComplete (st : Nat) (ok : Bool)
  /-- CAPBASE_WRITE (R444). -/
  | capbaseWrite (st : Nat) (v : Nat)
  /-- REGISTER_WRITE (R6). -/
  | registerWrite (st : Nat) (off : Nat) (v : Nat)
  /-- SAVED_GANG_DEADLINE (R330). -/
  | savedGangDeadline (g : Nat)
  /-- LINK_UP (R360). -/
  | linkUp (st : Nat)
  deriving DecidableEq, Repr

end Sys2Proof
end

