-- ==== Sys2Proof/Config.lean ====
section
/-! DEFINITION. What an implementation fixes, and the free values: choices and values the manual leaves open. A free
value is an opaque constant, so no proof can see what it is; it is applied to the counter `State.tick`, which every
use advances or which differs at every step, so two uses need not agree. -/
namespace Sys2Proof

/-- DESIGN CHOICE (assumption 3). The free choice behind every latitude of R10: the tick and a key of the use give a
number of which the user takes what it needs. -/
opaque Config.choice : Nat → List Nat → Nat

/-- DESIGN CHOICE (assumption 4). How many nanoseconds pass with one step, for each clock: R449 states no latency for
anything. -/
opaque Config.elapsed : Nat → Nat → Nat

/-- DESIGN CHOICE (assumption 2). The event that may come next at a tick, with its parameters: what the outside world
does, and when the device's own units finish what they have begun, which R449 leaves open. -/
opaque Config.event : Nat → Option Instr

/-- DESIGN CHOICE (assumption 5). Bytes the manual leaves open: what a failed system store left in remote memory
(R354). -/
opaque Config.freeByte : Nat → Nat → Byte

/-- DESIGN CHOICE (assumption 5). The AES-XTS-256 key pair of 64 bytes that the random-bit generator gives at a tick
(R389). -/
opaque Config.keyPair : Nat → List Byte

/-- DESIGN CHOICE (assumption 31). The 256-bit seed that a stack's fingerprint and helper data give, if the correction
succeeds (R425): the fingerprint is silicon's, and the manual gives no code for its correction. -/
opaque Config.seed : Nat → List Byte → Option (BitVec 256)

/-- DESIGN CHOICE (assumption 31). The secret numbers that a signature made at a tick draws, one after another (R428, FIPS
186-5). -/
opaque Config.secret : Nat → Nat → Nat

/-- DESIGN CHOICE (assumption 31). The helper data that enrolment makes from a stack's fingerprint (R426). -/
opaque Config.helper : Nat → List Byte

/-- DESIGN CHOICE (assumption 31). SHA-256 of the Kryec root public key, held in the boot ROM (R422). -/
opaque Config.rootDigest : BitVec 256

/-- DESIGN CHOICE (assumption 69). The layout version, major and minor, of the state table that a firmware version
writes (R386). -/
opaque Config.tableVersion : BitVec 32 → Nat × Nat

/-- DESIGN CHOICE (assumption 69). A firmware version lists a major version as importable (R386). -/
opaque Config.tableImports : BitVec 32 → Nat → Bool

/-- DESIGN CHOICE (assumption 69). A firmware version knows a section type (R386). -/
opaque Config.tableKnows : BitVec 32 → Nat → Bool

/-- DESIGN CHOICE (assumption 69). The contents and the version of a section that a firmware version writes at a tick:
their layout is the firmware's (R386). -/
opaque Config.tableSection : BitVec 32 → Nat → Nat → Nat × List Byte

/-- Number of stacks of a package (R1). -/
def Config.stacks : Nat := 12
/-- Lanes of a wave (R2). -/
def Config.lanes : Nat := 32
/-- Architectural registers of a thread (R12). -/
def Config.regs : Nat := 512
/-- Window registers (R12). -/
def Config.window : Nat := 120
/-- Clusters of a stack and cores of a cluster (R1). -/
def Config.clusters : Nat := 4
/-- Wave slots of a core (R249). -/
def Config.slots : Nat := 32
/-- Banks of cluster SRAM of a cluster (R274). -/
def Config.banks : Nat := 64

end Sys2Proof
end

