-- ==== Sys2Proof/Machine/State.lean ====
section
/-! DEFINITION. The machine's state as plain data: everything the manual gives the package that an instruction, an
engine, a record or a register can show, and the model's own bookkeeping of what is in flight.

Tables keyed by a number (registers, memory, gangs, ...) are association lists: `Sparse` lists leave out the keys
that hold the default value and keep their keys rising, so that equal tables are equal data. -/
namespace Sys2Proof.Machine

/-- A table from numbers to values in rising key order, listing no key that holds the default value. -/
abbrev Sparse (α : Type) := List (Nat × α)

/-! ### Happens-before (R282 to R289) -/

/-- What happens before a point of a thread (R284): by thread number, every store of that thread whose place in
`State.history`, counted from the oldest, is below the number. -/
abbrev Seen := Sparse Nat

/-- Where a thread stands when it makes an access (R282, R283): its wave and gang, its stack, whether it is an agent
outside the package, and the gangs that share the stack with it. -/
structure Place where
  gang : Option Nat
  wave : Nat
  stack : Nat
  outside : Bool
  peers : List Nat
  deriving DecidableEq, Repr

/-- A release that a store carries (R288, R289): its scope, the scope of the store that first carried it, the place of the
releasing thread and what happens before the release. -/
structure Head where
  scope : Scope
  storeScope : Scope
  place : Place
  view : Seen
  deriving DecidableEq, Repr

/-- What orders a thread's accesses (R284 to R290): what happens before its next access, its release fences so far,
the releases that its scoped reads have met since and that an acquire fence would take, and the bytes of stores that
its matched loads have returned, each by the store's stamp and the byte's place in it (R286). -/
structure Know where
  view : Seen
  fenced : List (Scope × Seen)
  met : List (Scope × Head)
  floor : List (Nat × Nat)
  deriving DecidableEq, Repr

/-- A thread before its first access. -/
def Know.start (view : Seen) : Know := { view := view, fenced := [], met := [], floor := [] }

/-- What a store goes to: memory, the scratchpad of a gang, or a tensor-identifier entry of a context (R229). -/
inductive Region
  | mem
  | spad (g : Nat)
  | entry (ctx id : Nat)
  deriving DecidableEq, Repr

/-- A store that has been performed, as far as it lies in one 16-byte sector (R285), or a whole entry (R229): where,
the bytes before and after, the sector's poison before, and the poison that the store gives it, if it changes it
(R180); the thread and its place and scope (R283), what happens before it, the releases it carries, the point that
performed it (R190), and whether it is an atomic's. `stamp` is its place in `State.history`, counted from the oldest.
-/
structure Stored where
  space : Region
  addr : Nat
  old : List Byte
  oldMark : Bool
  new : List Byte
  mark : Option Bool
  stamp : Nat
  thread : Nat
  place : Place
  scope : Scope
  view : Seen
  heads : List Head
  point : Nat
  atomic : Bool
  deriving DecidableEq, Repr

/-- What has happened to memory: a store; the move of a 64 KiB page with all it holds (R297, R401); or new contents of a
range that no thread wrote, such as a scrub (R389). -/
inductive Past
  | store (x : Stored)
  | move (src dst : Nat)
  | fresh (space : Region) (lo hi : Nat)
  deriving DecidableEq, Repr

/-! ### Threads -/

/-- A bypass latch: up to 64 bits and a poison mark (R18, R109). -/
structure Latch where
  val : W64
  mark : Bool
  deriving DecidableEq, Repr

/-- The items held for a lane that waits in the deferred path (R236). -/
structure TrapItem where
  cause : BitVec 8
  detail : BitVec 8
  resume : W64
  prio : BitVec 6
  guardCount : Nat
  guardIn : Bool
  deriving DecidableEq, Repr

/-- What a lane that executed TRET read from its trap record (R242). -/
structure TrapReturn where
  resume : W64
  prio : BitVec 6
  guardCount : Nat
  guardIn : Bool
  deriving DecidableEq, Repr

/-- A lane's monitor (R195). -/
structure Monitor where
  addr : W64
  wide : Bool
  cmp : MonCmp
  expected : W64
  deriving DecidableEq, Repr

/-- The state of one thread (R12 to R27, R160, R195). Register and mark tables are keyed by the architectural
register, 0 to 511. -/
structure Lane where
  regs : Sparse W32
  marks : Sparse Bool
  winbase : W32
  latches : List Latch
  preds : BitVec 16
  predMarks : BitVec 16
  xflags : BitVec 5
  xenable : BitVec 5
  seed : W32
  ffpc : W64
  ffwhy : W32
  exited : Bool
  trap : Option TrapItem
  returned : Option TrapReturn
  stack : List (BitVec 56 × BitVec 6)
  monitor : Option Monitor
  mwait : Option W32
  know : Know
  deriving DecidableEq, Repr

/-! ### Waves -/

/-- A guard run: the instructions left and the lanes it covers (R165). -/
structure Guard where
  count : Nat
  mask : BitVec 32
  deriving DecidableEq, Repr

/-- What a blocked entry waits for (R155, R408). -/
inductive Wait
  /-- a barrier: its scope and number, and the phase that must be passed (R201) -/
  | bar (scope : BarScope) (n : Nat) (phase : W32)
  /-- MWAIT: destination register and expiry, none for no expiry (R196) -/
  | mwait (d : Reg) (expiry : Option Nat)
  /-- QR: uniform destination and queue (R206) -/
  | qr (d q : Reg)
  /-- QW: queue and uniform source (R206) -/
  | qw (q a : Reg)
  /-- TKW: bit 0 or bit 1 of a token (R209) -/
  | tkw (vis : Bool) (a : Reg)
  /-- an instruction fetch held on a page that is not present (R395) -/
  | fetch (va : W64)
  deriving DecidableEq, Repr

/-- The state of a frontier entry (R152); `joining` holds the rejoin mask and the lanes that have arrived (R169). -/
inductive EntryState
  | ready
  | blocked (w : Wait)
  | joining (j : BitVec 3) (arrived : BitVec 32)
  deriving DecidableEq, Repr

/-- A frontier entry (R152). -/
structure Entry where
  lanes : BitVec 32
  pc : W64
  prio : BitVec 6
  state : EntryState
  guard : Guard
  aside : Bool
  deriving DecidableEq, Repr

/-- A barrier instance (R200); the sets hold lane, wave or gang numbers. `gathered` is what happens before the arrivals
of this phase, and `passed` the same of the phase before (R202). -/
structure Barrier where
  phase : W32
  expected : List Nat
  arrived : List Nat
  drops : List Nat
  joins : List Nat
  gathered : Seen
  passed : Seen
  deriving DecidableEq, Repr

/-- A word of a queue with its poison mark (R206), and what happens before its push (R208, R292). -/
structure QWord where
  val : W64
  mark : Bool
  view : Seen
  deriving DecidableEq, Repr

/-- What one lane writes when an issued load lands: architectural register, value and mark. -/
structure RegWrite where
  lane : Nat
  reg : Nat
  val : W32
  mark : Bool
  deriving DecidableEq, Repr

/-- A load or returning atomic whose data has not landed (R198): `port` is the CXL port it went out on, if any, and
`spec` says that it was issued while the wave speculated. `requests` counts the requests to memory (R1), `lines` are
the lines of the device cache that it fills (R354), by number and stack, `addr` is a system address it goes to,
`returned` says that the request was never sent and waits in its origin stack for a new route (R356), and `lanes` are
the lanes that made it; `atomic` tells a returning atomic from a load. -/
structure PendingLoad where
  writes : List RegWrite
  port : Option Nat
  spec : Bool
  requests : Nat
  lines : List (Nat × Nat)
  addr : Nat
  returned : Bool
  lanes : BitVec 32
  atomic : Bool
  deriving DecidableEq, Repr

/-- A store or atomic that is not acknowledged yet (R198, R354): the port it went out on, if any, its bytes, the lane that
made it, and whether it waits in its origin stack for a new route (R356). -/
structure PendingStore where
  port : Option Nat
  pa : Nat
  size : Nat
  lane : Nat
  returned : Bool
  deriving DecidableEq, Repr

/-- The part of a wave that a gambit checkpoint saves and a rollback restores (R30, R161, R332). `tokenWait` names, by
lanes and PC, the instruction that has stalled on a pending token: a Stall switch point when it issues (R17, R19). -/
structure WaveCore where
  lanes : List Lane
  frontier : List Entry
  trapmask : BitVec 32
  handler : Bool
  s : Sparse W64
  sMarks : Sparse Bool
  j : Sparse W32
  latchCount : Nat
  stallV : Sparse Bool
  stallS : BitVec 64
  stallP : BitVec 16
  last : Option (BitVec 32 × BitVec 6)
  tokenWait : Option (BitVec 32 × W64)
  validity : Validity
  bars : List Barrier
  deriving DecidableEq, Repr

/-- An access that pages which are not present hold (R179): the instruction, the lanes that wait, the pages, and the tick
since which they have been held. -/
structure HeldAccess where
  instr : Instr
  lanes : BitVec 32
  pages : List Nat
  since : Nat
  deriving DecidableEq, Repr

/-- An access that flag fall left held (R198): it keeps the core that its lanes issued with, whose operands it uses. -/
structure LeftAccess where
  access : HeldAccess
  core : WaveCore
  deriving DecidableEq, Repr

/-- A store that a speculating wave has buffered (R334): its lane, whether it goes to the scratchpad, its address there or
in memory, its bytes and its mark, and its scope and order. -/
structure Buffered where
  lane : Nat
  spad : Bool
  addr : Nat
  bytes : List Byte
  mark : Bool
  scope : Scope
  release : Bool
  deriving DecidableEq, Repr

/-- A speculating wave (R332): the barrier it passed, its checkpoint with the lost bits of its queues (R30), its read set,
its buffered stores in program order and a held fault (R333, R334, R337); a flag tells scratchpad addresses apart from
memory. `entries` are the tensor identifiers that its LDX and STX used, and `pages` the virtual pages whose translation it
used (R301), and `fences` the acquire-and-release fences that it made (R290). `stalled` says that its stall before an
instruction is already counted (R443). -/
structure Spec where
  barrier : Nat
  phase : W32
  checkpoint : WaveCore
  lost : List Bool
  reads : List (Bool × Nat)
  stores : List Buffered
  entries : List Nat
  pages : List Nat
  fences : List (Place × Scope × Seen)
  fault : Option (Nat × W64)
  stalled : Bool
  deriving DecidableEq, Repr

/-- A wave's tokens, queues, accesses and place; `held` is the access that it waits for and `left` are those that flag
fall left behind (R198); `entering` says that handler entry has begun and its record store waits (R239). `progress` is
when it last issued or made progress (R392), `lastPc` the PC it last issued at (R414), `reading` an MXRD that waits:
lanes, PC, and the key below which the operations it waits for are queued (R225). `tokens` keeps, by token register,
what happens before its operation's completion, and `matoms` the same of the wave's performed MATOMs (R192, R194,
R292); `matomMet` keeps by lane the releases that their reads have met (R288). A wave is the checkpointed core, and
the tokens, queues and accesses in flight that a rollback leaves alone. -/
structure Wave where
  core : WaveCore
  pending : List Nat
  push : List (List QWord)
  pop : List (List QWord)
  lost : List Bool
  loads : List PendingLoad
  stores : List PendingStore
  held : Option HeldAccess
  left : List LeftAccess
  entering : Bool
  tokens : List (Nat × Seen)
  matoms : Seen
  matomMet : List (Nat × Scope × Head)
  spec : Option Spec
  slot : Nat
  coreId : Nat
  parked : Bool
  yieldHold : Bool
  aged : Bool
  issued : Nat
  diverted : Bool
  retired : Bool
  lastNow : Nat
  progress : Nat
  lastPc : W64
  reading : Option (BitVec 32 × W64 × Nat)
  deriving DecidableEq, Repr

/-! ### Tensors, engines and the matrix unit -/

/-- A tensor-identifier entry (R227). `raw` is the 128-byte image. -/
structure Tensor where
  format : Nat
  sparsity : Nat
  layout : Nat
  dims : Nat
  fill : W64
  base : W64
  extents : List Nat
  strides : List Nat
  scale : W64
  codebook : W64
  deriving DecidableEq, Repr

/-- The engines (R302). -/
inductive EngineKind | cpy | gat | sct | bin | coll
  deriving DecidableEq, Repr

/-- Progress of an engine command (R218, R310): held, queued, in progress, with every source byte read, and with its
writes visible while its counter's rise is due. -/
inductive CmdState | held | queued | started | read | wrote
  deriving DecidableEq, Repr

/-- Who submitted a command: a wave of a gang, or a packet of a queue (R210, R370). -/
inductive Owner
  | wave (g w : Nat)
  | queue (q index : Nat)
  deriving DecidableEq, Repr

/-- An engine command (R210 to R218): captured tensor entries, token register, counter address, its index list once
read, by move the bytes it has read and, in `put`, the moves it has written (R293), the chunks that a COLL has still
to deliver and those that have reached their stack without a rise of its counter yet, whether it met poison, and a
page it is held on. `view` is what happens before its accesses (R292), `late` says that an engine read got no answer
in time (R354). -/
structure Command where
  kind : EngineKind
  owner : Owner
  ctx : Nat
  stack : Nat
  cluster : Nat
  header : W64
  params : List W64
  entries : List (Option Tensor)
  token : Option Nat
  counter : W64
  length : Nat
  state : CmdState
  order : Nat
  idx : Option (List (Nat × Bool))
  got : List (Nat × List (Byte × Bool))
  put : List Nat
  chunks : List (Nat × Nat)
  landed : List (Nat × Nat)
  poison : Bool
  late : Bool
  heldPage : Option Nat
  view : Seen
  deriving DecidableEq, Repr

/-- An exact value at a matrix port (R93): NaN (with the flag that it raises invalid), an infinity, or
(-1)^neg * mant * 2^exp. -/
inductive XVal
  | nan (raises : Bool)
  | inf (neg : Bool)
  | fin (neg : Bool) (mant : Nat) (exp : Int)
  deriving DecidableEq, Repr

/-- An element of a weight plane as it was loaded (R93): its bits, its scale byte (127 where it has none), its index
in its group of 12 (12 where the tensor is dense), and the value that it has whatever its bits are: a NaN of R91, R92
or R452, or the +0 of a position without a kept value. -/
structure Weight where
  bits : Nat
  scale : Nat
  index : Nat
  fixed : Option XVal
  deriving DecidableEq, Repr

/-- A weight plane: its K x N tile, row k at index k*N (R309), and its codebook as read (R89). -/
structure Plane where
  format : Nat
  sparsity : Nat
  k : Nat
  n : Nat
  elems : List Weight
  codebook : List Nat
  deriving DecidableEq, Repr

/-- A matrix unit of a grant (R220): geometry, accumulators (f32, keyed by row*N + column), planes. -/
structure MxUnit where
  subs : List Nat
  kMax : Nat
  nMax : Nat
  acc : Sparse W32
  cur : Plane
  next : Plane
  lost : Bool
  deriving DecidableEq, Repr

/-- A matrix grant (R219, R220). -/
structure Grant where
  mode : Nat
  units : List MxUnit
  deriving DecidableEq, Repr

/-- What an operation has made of the operands that it has read (R292, R307): the plane of an MXLS, or the
accumulators and exceptions of an MXGO; and whether it met poison. -/
structure MxRead where
  plane : Plane
  acc : Sparse W32
  exc : BitVec 5
  poison : Bool
  deriving DecidableEq, Repr

/-- Matrix operations that queue on a unit (R222). -/
inductive MxFn | mxls | mxsw | mxgo | mxz | mxst
  deriving DecidableEq, Repr

/-- A queued matrix operation (R222 to R225): the parameter block as read at issue, the captured tensor entries, the
A handles popped so far (R308), the shadow copy of the accumulators once started (R318), the codebook as bound (R89), what
it has read of its operands, whether vis is set (R310), and for an operation of a lost unit the units it counts (R316). -/
structure MxOp where
  fn : MxFn
  gang : Nat
  wave : Nat
  unit : Nat
  block : List Byte
  offset : Nat
  aEntry : Option Tensor
  bEntry : Option Tensor
  cEntry : Option Tensor
  token : Option Nat
  started : Bool
  shadow : Sparse W32
  popped : List QWord
  book : List Nat
  read : Option MxRead
  vis : Bool
  status : Nat
  lost : Option Nat
  heldPage : Option Nat
  view : Seen
  deriving DecidableEq, Repr

/-! ### Gangs and launches -/

/-- A return-free memory-side atomic that is not yet performed (R192): its physical address, operation, operand and
issuer, the point that performs it (R190, R400), its scope, what happens before it, whether it is a release, and the
number of the thread that it is. -/
structure Matom where
  gang : Nat
  wave : Nat
  lane : Nat
  pa : Nat
  op : AtomOp
  operand : W64
  cas : W64
  mark : Bool
  point : Nat
  scope : Scope
  view : Seen
  heads : List Head
  thread : Nat
  deriving DecidableEq, Repr

/-- Where a gang is in its life (R251, R260, R329, R403): `dying` while a killed gang's started work finishes. -/
inductive GangState | batched | resident | dying | saved | done
  deriving DecidableEq, Repr

/-- A gang: its place (R249), scratchpad (R250), FIFOs, barriers (R199) and grant. `arrivals` lists, by barrier number
(16 more for package barriers), the waves that have arrived at a stack or package barrier in its current phase (R200);
`batchStack` is the stack whose batch took the gang, which fixes its stack barriers (R199). `image` and `imageSize` tell
where the save area holds a saved gang (R406). -/
structure Gang where
  launch : Nat
  x : Nat
  y : Nat
  z : Nat
  state : GangState
  stack : Nat
  core0 : Nat
  bankList : List Nat
  waves : List Wave
  spad : Sparse Byte
  spadPoison : Sparse Bool
  fifos : List (List QWord)
  bars : List Barrier
  arrivals : List (Nat × List Nat)
  batchStack : Nat
  grant : Option Grant
  diverted : Bool
  lastNow : Nat
  image : Nat
  imageSize : Nat
  deriving DecidableEq, Repr

/-- A tensor slot of a launch (R44, R48): slot, argument word, access, extents, coefficients (c, ax, ay, az each). -/
structure TileSpec where
  slot : Nat
  arg : Nat
  access : Nat
  extents : List Nat
  coefs : List Int
  deriving DecidableEq, Repr

/-- The fields of an accepted launch descriptor (R372). -/
structure Desc where
  code : W64
  codeSize : Nat
  entry : Nat
  wrapup : Nat
  spad : Nat
  regs : Nat
  waves : Nat
  cores : Nat
  fifos : List Nat
  entryPrio : BitVec 6
  wrapPrio : BitVec 6
  tiles : List TileSpec
  nx : Nat
  ny : Nat
  nz : Nat
  cls : Nat
  allResident : Bool
  spill : Bool
  capture : Bool
  deadline : Nat
  budget : Nat
  cost : Nat
  record : W64
  launchid : W64
  dep : W64
  depValue : W64
  done : W64
  args : List W64
  deriving DecidableEq, Repr

/-- Who waits for a launch's completion (R370, R374): a queue's packet, or its running graph. -/
structure LaunchOwner where
  queue : Nat
  index : Nat
  inGraph : Bool
  deriving DecidableEq, Repr

/-- A launch from its acceptance to its completion record (R253, R321, R331). `next` is the lowest gang not yet
dispatched; `stackBars` keys the stack barriers by 16*stack + n; `pkgBars` are the package barriers; `wasReset` says
that a reset of its context ended it (R405), `ffEarly` that flag fall occurred before any gang started (R331).
`cstFrom` is the length of `State.history` as the launch began and `codeFrom` the same, by stack, as it started there
(R177, R299); `start` is what happens before its threads and `finish` what its waves that have retired had done or
seen (R291). -/
structure Launch where
  desc : Desc
  ctx : Nat
  owner : LaunchOwner
  seq : Nat
  depMet : Bool
  next : Nat
  normal : Nat
  wrapped : Nat
  killed : Nat
  unstarted : Nat
  started : Bool
  ff : Bool
  ffEarly : Bool
  ffStacks : List Nat
  dispatchFf : Bool
  validity : Validity
  anyRetired : Bool
  stackBars : List (Nat × Barrier)
  pkgBars : List Barrier
  pool : Option Nat
  recorded : Bool
  cstFrom : Nat
  codeFrom : List (Nat × Nat)
  start : Seen
  finish : Seen
  heldPage : Option Nat
  wasReset : Bool
  deriving DecidableEq, Repr

/-- A record of a continuation pool held in a bin (R267); `marks` tells which payload words came from a poisoned
sector. -/
structure PoolRecord where
  pc : W64
  prio : BitVec 6
  payload : List W32
  marks : List Bool
  deriving DecidableEq, Repr

/-- A continuation pool's front end (R266 to R271): its launch, home stack, control block, producers, the next claim
index, the open bins oldest first, the waves formed and, in `raised`, those that have started (R271), the malformed
records dropped, the claim value seen when the last slot was taken (R270), and a page it waits for. `know` orders its
accesses (R282). -/
structure Pool where
  launch : Nat
  home : Nat
  block : W64
  producers : List W64
  taken : Nat
  bins : List (List PoolRecord)
  formed : Nat
  raised : Nat
  dropped : Nat
  lastClaim : Nat
  stopped : Bool
  heldPage : Option Nat
  know : Know
  deriving DecidableEq, Repr

/-! ### Queues, graphs, rings -/

/-- What the queue processor does with the packet it is at (R364 to R368): nothing yet; re-reading the mark; re-reading a
packet whose check failed; holding a copied packet that has not started. -/
inductive QPhase
  | idle
  | marking
  | checking (tries : Nat)
  | fetched
  deriving DecidableEq, Repr

/-- A running command graph (R374 to R377): the node array, the state block, the pass, the node it is at, whether that
node has started and not completed, its 64 bytes as read, and the rings the graph wrote. -/
structure Graph where
  nodes : W64
  count : Nat
  limit : Nat
  state : W64
  pass : Nat
  node : Nat
  busy : Bool
  current : List Byte
  rings : List Nat
  deriving DecidableEq, Repr

/-- A started packet that has not completed: its index, kind and bytes, its graph if it runs one (R368, R370), and
what happens before its accesses (R291, R368). -/
structure OpenPacket where
  index : Nat
  kind : Nat
  bytes : List Byte
  graph : Option Graph
  view : Seen
  deriving DecidableEq, Repr

/-- A queue (R361 to R368). `admin` is the partition of an administrative queue (R390); `statusDue` says that the
status block is behind, because a page of it is not present (R451); `resetting` that the queue is reset once its
started packets have completed, and which administrative packet waits for that (R390); `refusedPage` is a page whose
held access counts as refused (R451). `view` is what happens before the packet that the queue holds, by its mark
(R364), and `after` the same of a packet whose after flag waits for all that completed (R368). -/
structure Queue where
  ring : W64
  size : Nat
  check : Bool
  ctx : Nat
  home : Nat
  status : W64
  admin : Option Nat
  kicked : Nat
  consumed : Nat
  completed : Nat
  error : Nat
  detail : Nat
  index : Nat
  phase : QPhase
  packet : List Byte
  openPackets : List OpenPacket
  doneAhead : List Nat
  stopped : Bool
  statusDue : Bool
  heldPage : Option Nat
  resetting : Option (Option (Nat × Nat))
  refusedPage : Option Nat
  view : Seen
  after : Seen
  deriving DecidableEq, Repr

/-- The coalescing state of a notify or event ring (R379), keyed by the control block's physical address. -/
structure Ring where
  block : Nat
  pending : Nat
  first : Nat
  deriving DecidableEq, Repr

/-! ### Contexts -/

/-- The pre-emption ladder of a context (R402). -/
inductive Rung
  | none
  | drain (queue index evictBound expiry : Nat)
  | evict (queue index expiry : Nat)
  deriving DecidableEq, Repr

/-- A context (R391): the descriptor's copy, its 1024 tensor identifiers (R227), the pages with accesses held and an
event pending (R398), its ladder, and the resume requests that are under way: queue and packet index (R410), and a
page that is refused at this moment (R398). -/
structure Context where
  root : Nat
  placeBase : Nat
  placeTable : Nat
  placeCount : Nat
  breakNotify : Bool
  captureOk : Bool
  trapEntry : W64
  trapArea : W64
  saveArea : Nat
  saveSize : Nat
  watchdog : Nat
  partition : Nat
  tensors : Sparse (Option Tensor)
  requested : List Nat
  rung : Rung
  fetchStopped : Bool
  resuming : List (Nat × Nat)
  refusing : Option Nat
  deriving DecidableEq, Repr

/-! ### Stacks and partitions -/

/-- What a translation gives beside the address: the leaf entry, and whether the page is a memory-side page as the device
saw it then (R394, R399). -/
structure Leaf where
  bits : W64
  side : Bool
  deriving DecidableEq, Repr

/-- One cached translation of a 64 KiB page (R396): context, page, physical page and leaf. -/
structure TlbEntry where
  ctx : Nat
  vbase : Nat
  pbase : Nat
  leaf : Leaf
  deriving DecidableEq, Repr

/-- The translation caches of a stack (R396): its own, one for each of 4 clusters and one for each of 16 cores. -/
structure Tlb where
  stack : List TlbEntry
  clusters : List (List TlbEntry)
  cores : List (List TlbEntry)
  deriving DecidableEq, Repr

/-- A cluster SRAM bank (R277): 0 cache ways, 1 free scratchpad, 2 and 3 held; and its target mode. -/
structure Bank where
  state : Nat
  mode : Nat
  owner : Option Nat
  deriving DecidableEq, Repr

/-- A reservation attempt sequence (R262); `due` is when its back-off ends. -/
structure Reservation where
  gang : Nat
  stack : Nat
  core0 : Nat
  x : W32
  attempt : Nat
  waiting : Bool
  due : Nat
  deriving DecidableEq, Repr

/-- A line of system memory in the device cache (R352): its address and the stacks that hold it with their states. -/
inductive Moesi | m | o | e | s | i
  deriving DecidableEq, Repr

structure DevLine where
  line : Nat
  copies : List (Nat × Moesi)
  deriving DecidableEq, Repr

/-- A host-cached line of a stack's HBM in its snoop filter (R350): `dirty` when the host holds it in M; `waiting`
while a back-invalidation is outstanding. -/
structure SnoopLine where
  line : Nat
  dirty : Bool
  waiting : Bool
  deriving DecidableEq, Repr

/-- The control-space registers and units of one stack. Register fields hold their architectural bits; reserved bits
are never stored. `scrubbing` says that the scrub of R389 is under way, and `joins` that it ends with enable set. -/
structure Stack where
  now : Nat
  -- partition and dispatch (R387, R383)
  enable : Bool
  partNum : Nat
  partMask : BitVec 12
  scrubbing : Bool
  joins : Bool
  sdMode : Bool
  sdState : Bool
  -- time (R358, R359); `slew` is how far the clock may still leave its rate, in millionths of a nanosecond (R360)
  timeInterval : Nat
  timeEnable : Bool
  timeOffset : Int
  timeState : Nat
  goodRun : Nat
  badRun : Nat
  lastExchange : Nat
  slew : Nat
  linkTimeout : Nat
  linkUp : Bool
  -- routing (R355, R357) and host windows (R388)
  routes : List (W64 × W64)
  freeze : Bool
  frozen : Bool
  windows : List (W64 × W64)
  -- halt (R413)
  haltArrived : Bool
  stopBase : Nat
  -- event rings (R381)
  evring : List W64
  -- complex (R384), present in stacks 0 and 6
  cpVersion : W32
  cpAbort : Nat
  cpState : Nat
  cpRole : Bool
  cpArg : W64
  cpImage : List Byte
  -- boot (R421); `secret` is the identity's private key, which nothing shows (R425), and `bootMap` the stack's section of the
  -- accepted image, until its repair map is applied (R427)
  bootConfig : W32
  bootQuote : Bool
  bootError : Nat
  bootState : Nat
  bootSince : Nat
  bootArg : W64
  attArg : W64
  attNonce : List Byte
  idpub : List Byte
  secret : Nat
  helper : List Byte
  configHash : BitVec 256
  configDigest : BitVec 256
  minFirmware : Nat
  bootMap : List Byte
  quote : List Byte
  -- repair (R429): REPSTAT, the blocks that a rebuild poisoned, the blocks that a map-out copied, the next place of the patrol
  -- and the places of poisoned parity blocks (R433), the packet under way
  capacity : Nat
  repMode : Nat
  repChannel : Nat
  repLayer : Nat
  cursor : Nat
  poisonedBlocks : Nat
  mapCopied : Nat
  patrolAt : Nat
  parityLost : List Nat
  repairQueue : Option (Nat × Nat)
  layersOut : BitVec 16
  spareRows : List Nat
  -- heat (R440, R441): the registers, the run of evaluations with a lower target, the time of the last evaluation
  policy : Bool
  heat : Nat
  tl : Int
  td : Int
  coolRuns : Nat
  governorAt : Nat
  -- capture (R444)
  capSize : Nat
  capLost : Bool
  capDiverged : Bool
  capMode : Nat
  capBase : Nat
  capPos : Nat
  -- counters (R443), keyed by offset
  counters : Sparse W64
  droppedKicks : Nat
  droppedTransfers : Nat
  -- cluster SRAM (R277), 64 banks for each of 4 clusters
  banks : List Bank
  -- translation caches (R396); the lines that its instruction memories hold outside code ranges, with the length of
  -- `State.history` as they took each in (R299)
  tlb : Tlb
  lines : List (Nat × Nat)
  -- matrix sub-arrays fenced (R317)
  fenced : BitVec 4
  -- dispatch batches waiting in the stack dispatcher (R260), gang keys in order
  batch : List Nat
  -- host's cached lines (R350)
  snoops : List SnoopLine
  deriving DecidableEq, Repr

/-- A fault that raised the halt line (R411): what its stop record says (R414), and whether that record is written. `src`
names the faulting wave, if a wave raised it. -/
structure Halt where
  src : Option (Nat × Nat)
  reason : Nat
  stack : Nat
  slot : Nat
  ctx : Nat
  launch : W64
  pc : W64
  addr : W64
  wave : Nat
  performed : BitVec 32
  skipped : BitVec 32
  written : Bool
  deriving DecidableEq, Repr

/-- A partition (R387): its halt faults, oldest first, when its key pair was made, counted from 1, or 0 for none
(R389), and the dispatcher's round counter with whether a round is to start (R253). -/
structure Partition where
  faults : List Halt
  halted : Bool
  adminQueue : Option Nat
  evValid : Bool
  evBlock : Nat
  evDropped : Nat
  keys : Nat
  round : Nat
  roundDue : Bool
  deriving DecidableEq, Repr

/-- An event waiting to be numbered while castling runs (R385), and the shape of every event record (R381). -/
structure Event where
  code : Nat
  partition : Nat
  stack : Nat
  ctx : Nat
  time : Nat
  detail : List Byte
  deriving DecidableEq, Repr

/-- A castling handover in progress (R385): when it began, and the state table in the standby's memory, once it is
written. -/
structure Castling where
  start : Nat
  table : Option (List Byte)
  deriving DecidableEq, Repr

/-- A translation change that waits for stacks to acknowledge (R397): the administrative packet, the context and
range, and the stacks still to answer. -/
structure Invalidation where
  queue : Nat
  index : Nat
  ctx : Nat
  lo : Nat
  hi : Nat
  waiting : List Nat
  deriving DecidableEq, Repr

/-- The whole package. `agenda` holds the events that come next, in order; while it is empty the step chooses among
what the device can do on its own. `cur` names the gang, wave and frontier entry that issue. `master` is the host's
clock (R358). `history` is what has happened to memory and scratchpads, newest first; `fences` are the
acquire-and-release fences so far (R290); `cpKnow` and `hostKnow` are those of the active complex and of the host as
threads (R282). -/
structure State where
  agenda : List Instr
  tick : Nat
  master : Nat
  cur : Option (Nat × Nat × Nat)
  mem : Sparse Byte
  poison : Sparse Bool
  history : List Past
  fences : List (Place × Scope × Seen)
  cpKnow : Know
  hostKnow : Know
  stackTab : List Stack
  partitions : List Partition
  contexts : List (Nat × Context)
  queues : List (Nat × Queue)
  launches : List (Nat × Launch)
  gangs : List (Nat × Gang)
  commands : List (Nat × Command)
  mxops : List (Nat × MxOp)
  matoms : List Matom
  pools : List (Nat × Pool)
  rings : List Ring
  devLines : List DevLine
  reservations : List (Nat × Reservation)
  invalidations : List Invalidation
  nextId : Nat
  seq : Nat
  castling : Option Castling
  waitingEvents : List Event
  msix : List (Nat × Nat)
  deriving DecidableEq, Repr

/-- A free scratchpad bank (R277). -/
def Bank.reset : Bank := { state := 1, mode := 1, owner := none }

/-- Translation caches that hold nothing. -/
def Tlb.empty : Tlb := { stack := [], clusters := List.replicate 4 [], cores := List.replicate 16 [] }

/-- A stack right after power-up: every register at its reset value (R420 and the register tables); `now` starts at 0
(R360), no key, no link history. Byte strings at reset are all zero and are kept as the empty list. -/
def Stack.reset : Stack :=
  { now := 0, enable := false, partNum := 0, partMask := 0, scrubbing := false, joins := false,
    sdMode := true, sdState := true,
    timeInterval := 1000, timeEnable := false, timeOffset := 0, timeState := 0, goodRun := 0, badRun := 0,
    lastExchange := 0, slew := 0, linkTimeout := 10000, linkUp := true,
    routes := List.replicate 32 (0, 0), freeze := false, frozen := false,
    windows := List.replicate 8 (0, 0),
    haltArrived := false, stopBase := 0, evring := List.replicate 12 0,
    cpVersion := 0, cpAbort := 0, cpState := 0, cpRole := false, cpArg := 0, cpImage := [],
    bootConfig := 0, bootQuote := false, bootError := 0, bootState := 0, bootSince := 0, bootArg := 0, attArg := 0, attNonce := [],
    idpub := [], secret := 0, helper := [], configHash := 0, configDigest := 0, minFirmware := 0, bootMap := [], quote := [],
    capacity := 0xF80000000, repMode := 0, repChannel := 0, repLayer := 0, cursor := 0, poisonedBlocks := 0, mapCopied := 0,
    patrolAt := 0, parityLost := [],
    repairQueue := none, layersOut := 0, spareRows := List.replicate 16 0xFFFF,
    policy := false, heat := 0, tl := 0, td := 0, coolRuns := 0, governorAt := 0,
    capSize := 0, capLost := false, capDiverged := false, capMode := 0, capBase := 0, capPos := 0,
    counters := [], droppedKicks := 0, droppedTransfers := 0,
    banks := List.replicate 256 Bank.reset, tlb := Tlb.empty, lines := [], fenced := 0, batch := [], snoops := [] }

/-- A partition number that no stack serves. -/
def Partition.reset : Partition :=
  { faults := [], halted := false, adminQueue := none, evValid := false, evBlock := 0, evDropped := 0, keys := 0,
    round := 0, roundDue := false }

/-- The package right after power-up (R420): twelve stacks at reset, nothing resident, nothing queued. Event sequence
numbers start at 1 (R380) and round counters at 0 (R253). What memory reads as before anything is written is 0
(assumption 1). -/
def State.reset : State :=
  { agenda := [], tick := 0, master := 0, cur := none, mem := [], poison := [], history := [], fences := [],
    cpKnow := Know.start [], hostKnow := Know.start [],
    stackTab := List.replicate 12 Stack.reset, partitions := List.replicate 12 Partition.reset,
    contexts := [], queues := [], launches := [], gangs := [], commands := [], mxops := [], matoms := [],
    pools := [], rings := [], devLines := [], reservations := [], invalidations := [],
    nextId := 0, seq := 1, castling := none, waitingEvents := [],
    msix := [] }

/-- Why the model stops outside the manual's own outcomes. Every one is safe: the device never reaches it. -/
inductive Fault
  /-- Raised by every instruction word when `State.cur` names no ready entry of a resident wave: no hardware issues an
  instruction without one. Safe. -/
  | noIssuingWave
  deriving DecidableEq, Repr

/-- Why the model gives an instruction no meaning. -/
inductive Refusal
  /-- Raised by an arm of `exec` that has no meaning yet. Safe. -/
  | notModelled (mnemonic : String)
  deriving DecidableEq, Repr

end Sys2Proof.Machine
end

