-- ==== Sys2Proof/WellFormed.lean ====
section
/-! DEFINITION. When an instruction is well formed: the operand-class and encoding rules of "Instruction formats and
the opcode map" that a word must meet beyond selecting an opcode (R53 to R77). A word that breaks one raises the
illegal-instruction trap (R56, R78); the name of the broken rule is kept. -/
namespace Sys2Proof

/-- Why a word is not an instruction. -/
inductive DecodeError
  /-- major 0x1F or SYS function 0x00 (R78) -/
  | permanentlyIllegal
  /-- major 0x1C to 0x1E (R78) -/
  | reservedMajor
  /-- a function code that the tables do not list (R78) -/
  | reservedFunction
  /-- a subfield value that the row marks illegal: sub-operation, type, scope, order, compare (R56) -/
  | illegalCode
  /-- a bit that the row shows as 0 is 1 (R56) -/
  | reservedBits
  /-- a destination field of 120 to 127 (R53) -/
  | latchDestination
  /-- nw set with a d field that is not 0 (R54) -/
  | nwDestination
  /-- an odd window register in a 64-bit field (R13) -/
  | oddPair
  /-- a quad field that is not a multiple of 4 from 0 to 116 (R53) -/
  | notQuad
  /-- a uniform field above 63 (R53) -/
  | notUniform
  /-- a queue field above 15 (R53) -/
  | notQueue
  /-- a token-form field: bit 21 set with d not 0 (R77) -/
  | tokenForm
  /-- GETS or SETS of a number that it cannot name (R28) -/
  | specialRegister
  /-- a GUARD count outside 1 to 16 (R59) -/
  | guardCount
  /-- BRA or CALL with p0 and sense 1 (R60) -/
  | neverBranch
  /-- a WINB base of 50 or more (R59) -/
  | windowBase
  /-- an order, scope, space or type combination that R73, R177 or R185 forbids -/
  | access
  /-- a conversion that R72 forbids -/
  | conversion
  /-- an atomic that R76 or R193 forbids -/
  | atomic
  /-- a FENCE that R74 or R194 forbids -/
  | fence
  /-- a BAR that R77 forbids -/
  | barrier
  deriving DecidableEq, Repr

/-- Types that occupy a register pair (R72, R83). -/
def NumTy.is64 : NumTy → Bool
  | .f64 | .i64 | .n64 => true
  | _ => false

/-- Floating-point types of CVT (R97). -/
def NumTy.isFloat : NumTy → Bool
  | .f64 | .f32 | .f16 | .bf16 | .e4m3 | .e5m2 => true
  | _ => false

/-- Significand bits of the floating-point types (R72); 0 for integer types. -/
def NumTy.sigBits : NumTy → Nat
  | .f64 => 53 | .f32 => 24 | .f16 => 11 | .bf16 => 8 | .e4m3 => 4 | .e5m2 => 3
  | _ => 0

/-- Operations on 64-bit data (R76). -/
def AtomOp.is64 : AtomOp → Bool
  | .add64 | .sub64 | .minI64 | .minN64 | .maxI64 | .maxN64 | .and64 | .or64 | .xor64 | .exch64 | .cas64
  | .faddF64 | .fminF64 | .fmaxF64 => true
  | _ => false

/-- Special registers that are 64 bits wide: gangdim, launchid, now, ffpc (R27). -/
def special64 (a : Reg) : Bool := a.toNat == 5 || a.toNat == 9 || a.toNat == 10 || a.toNat == 12

section Checks

/-- The named error when the condition for it holds. -/
def failIf (c : Bool) (e : DecodeError) : Option DecodeError := if c then some e else none

/-- Per-lane 32-bit destination with nw (R53, R54). -/
def ckDst (nw : Bool) (d : Reg) : Option DecodeError :=
  (failIf (nw && d.toNat != 0) .nwDestination).or (failIf (120 ≤ d.toNat) .latchDestination)
/-- Per-lane 64-bit destination with nw (R13, R53, R54). -/
def ckDstPair (nw : Bool) (d : Reg) : Option DecodeError := (ckDst nw d).or (failIf (d.toNat % 2 == 1) .oddPair)
/-- A destination that is a pair exactly when `wide` is set. -/
def ckDstWide (wide nw : Bool) (d : Reg) : Option DecodeError := if wide then ckDstPair nw d else ckDst nw d
/-- A destination that is also read (R54). -/
def ckDstRead (d : Reg) : Option DecodeError := failIf (120 ≤ d.toNat) .latchDestination
/-- A 64-bit per-lane source: an even window register or any latch (R53). -/
def ckSrcPair (a : Reg) : Option DecodeError := failIf (a.toNat < 120 && a.toNat % 2 == 1) .oddPair
/-- The d field of a row marked d read: under nw it is a source only and may name a latch (R53, R54; DEDUCED, assumption
7). -/
def ckAddend (nw : Bool) (d : Reg) : Option DecodeError := if nw then none else ckDstRead d
/-- The same field where it is 64-bit. -/
def ckAddendPair (nw : Bool) (d : Reg) : Option DecodeError := (ckAddend nw d).or (ckSrcPair d)
/-- A per-lane source that is a pair exactly when `wide` is set. -/
def ckPairIf (wide : Bool) (a : Reg) : Option DecodeError := if wide then ckSrcPair a else none
/-- Four consecutive window registers (R53). -/
def ckQuad (d : Reg) : Option DecodeError := failIf (d.toNat % 4 != 0 || 116 < d.toNat) .notQuad
/-- A uniform register (R53). -/
def ckUni (a : Reg) : Option DecodeError := failIf (64 ≤ a.toNat) .notUniform
/-- A queue register (R53). -/
def ckQueue (q : Reg) : Option DecodeError := failIf (16 ≤ q.toNat) .notQueue
/-- The token form of R77: no token means d = 0. -/
def ckToken (none : Bool) (d : Reg) : Option DecodeError :=
  (failIf (none && d.toNat != 0) .tokenForm).or (ckUni d)
/-- GETS: an assigned number, and an even destination for a 64-bit register (R28, R248). -/
def ckGets (nw : Bool) (d a : Reg) : Option DecodeError :=
  (failIf (0x12 < a.toNat) .specialRegister).or (ckDstWide (special64 a) nw d)
/-- SETS: xflags, xenable or seed (R28, R233). -/
def ckSets (a : Reg) : Option DecodeError :=
  failIf (!(a.toNat == 0x0E || a.toNat == 0x0F || a.toNat == 0x12)) .specialRegister
/-- WINB base over 8, 0 to 49 (R59). -/
def ckWinb (b : BitVec 6) : Option DecodeError := failIf (50 ≤ b.toNat) .windowBase
/-- GUARD count 1 to 16 (R59). -/
def ckGuard (n : Reg) : Option DecodeError := failIf (n.toNat == 0 || 16 < n.toNat) .guardCount
/-- p0 with sense 1 never transfers and is illegal (R60). -/
def ckBranch (p : BitVec 4) (sense : Bool) : Option DecodeError := failIf (p.toNat == 0 && sense) .neverBranch
/-- Order 1 needs a scope (R73). -/
def ckOrderScope (o : Bool) (c : Scope) : Option DecodeError := failIf (o && c == .none) .access
/-- Loads: as `ckOrderScope`, and `.cst` takes neither order nor scope (R177). -/
def ckLoad (s : Space) (o : Bool) (c : Scope) : Option DecodeError :=
  (ckOrderScope o c).or (failIf (s == .cst && (o || c != .none)) .access)
/-- Stores have no sign-extending types (R73). -/
def ckStoreTy (t : MemTy) : Option DecodeError := failIf (t == .i8 || t == .i16) .access
/-- CVT: no identity, `.rs` only narrowing between floats, no rounding between integers (R72). -/
def ckCvt (r : Rounding) (y s : NumTy) : Option DecodeError :=
  failIf (y == s || (r == .rs && !(y.isFloat && s.isFloat && y.sigBits < s.sigBits))
    || (r != .rn && !y.isFloat && !s.isFloat)) .conversion
/-- PACK4: from f32 to e4m3, e5m2, i8 or n8; no `.rs` to the integers (R72). -/
def ckPack4 (r : Rounding) (y s : NumTy) : Option DecodeError :=
  failIf (s != .f32 || !(y == .e4m3 || y == .e5m2 || y == .i8 || y == .n8)
    || (r == .rs && (y == .i8 || y == .n8))) .conversion
/-- A FENCE without scope is only the plain `fence.ms` (R74, R194). -/
def ckFence (c : Scope) (o : FenceOrder) (ms : Bool) : Option DecodeError :=
  failIf (c == .none && !(ms && o == .acq)) .fence
/-- Atomics require a scope (R76). -/
def ckAtomScope (c : Scope) : Option DecodeError := failIf (c == .none) .atomic
/-- MATOM and MATOMR cannot acquire (R76). -/
def ckMatomOrder (o : AtomOrder) : Option DecodeError := failIf (o == .acq) .atomic
/-- The operand of an atomic: a pair for 64-bit operations, an even number for cas.32, a quad for cas.64 (R76, R193). -/
def ckAtomOperand (f : AtomOp) (d : Reg) : Option DecodeError :=
  match f with
  | .cas32 => failIf (d.toNat % 2 == 1) .atomic
  | .cas64 => ckQuad d
  | _ => ckPairIf f.is64 d
/-- The spec bit belongs to `bar.sync.gang` only (R77). -/
def ckBar (k : BarKind) (c : BarScope) (spec : Bool) : Option DecodeError :=
  failIf (spec && !(k == .sync && c == .gang)) .barrier

end Checks

/-- The first rule that the instruction's operands break; events have no operand rules. DESIGN CHOICE (assumption
106): the a field of BCST is a per-lane source and may name a latch (R53, R67), although R106 calls BCST uniform. -/
def Instr.formError : Instr → Option DecodeError
  | .nop => none
  | .trap _ => none
  | .tret => none
  | .brk _ => none
  | .gets nw d a => ckGets nw d a
  | .sets a _ => ckSets a
  | .xen _ _ => none
  | .xflg _ _ => none
  | .exit => none
  | .ret => none
  | .brx a _ => ckSrcPair a
  | .callx a _ => ckSrcPair a
  | .prio _ => none
  | .jmsk _ => none
  | .join _ => none
  | .winb b => ckWinb b
  | .valid _ => none
  | .yield => none
  | .guard n _ _ => ckGuard n
  | .bra p s _ _ => ckBranch p s
  | .call p s _ _ => ckBranch p s
  | .add32 nw d _ _ => ckDst nw d
  | .sub32 nw d _ _ => ckDst nw d
  | .mull nw d _ _ => ckDst nw d
  | .mulhI32 nw d _ _ => ckDst nw d
  | .mulhN32 nw d _ _ => ckDst nw d
  | .mad nw d _ _ => ckAddend nw d
  | .div32 _ nw d _ _ => ckDst nw d
  | .rem32 _ nw d _ _ => ckDst nw d
  | .min32 _ nw d _ _ => ckDst nw d
  | .max32 _ nw d _ _ => ckDst nw d
  | .sadd _ nw d _ _ => ckDst nw d
  | .ssub _ nw d _ _ => ckDst nw d
  | .and32 nw d _ _ => ckDst nw d
  | .or32 nw d _ _ => ckDst nw d
  | .xor32 nw d _ _ => ckDst nw d
  | .shl nw d _ _ => ckDst nw d
  | .shr nw d _ _ => ckDst nw d
  | .sar nw d _ _ => ckDst nw d
  | .rotl nw d _ _ => ckDst nw d
  | .shli nw d _ _ => ckDst nw d
  | .shri nw d _ _ => ckDst nw d
  | .sari nw d _ _ => ckDst nw d
  | .bfx _ nw d _ _ => ckDst nw d
  | .bfi nw d _ _ => ckAddend nw d
  | .permb nw d _ _ => ckAddend nw d
  | .mov nw d _ => ckDst nw d
  | .not32 nw d _ => ckDst nw d
  | .neg32 nw d _ => ckDst nw d
  | .abs32 nw d _ => ckDst nw d
  | .popc nw d _ => ckDst nw d
  | .clz nw d _ => ckDst nw d
  | .ctz nw d _ => ckDst nw d
  | .brev nw d _ => ckDst nw d
  | .addInt64 nw d a b => ((ckDstPair nw d).or (ckSrcPair a)).or (ckSrcPair b)
  | .subInt64 nw d a b => ((ckDstPair nw d).or (ckSrcPair a)).or (ckSrcPair b)
  | .mullInt64 nw d a b => ((ckDstPair nw d).or (ckSrcPair a)).or (ckSrcPair b)
  | .minI64 nw d a b => ((ckDstPair nw d).or (ckSrcPair a)).or (ckSrcPair b)
  | .minN64 nw d a b => ((ckDstPair nw d).or (ckSrcPair a)).or (ckSrcPair b)
  | .maxI64 nw d a b => ((ckDstPair nw d).or (ckSrcPair a)).or (ckSrcPair b)
  | .maxN64 nw d a b => ((ckDstPair nw d).or (ckSrcPair a)).or (ckSrcPair b)
  | .andInt64 nw d a b => ((ckDstPair nw d).or (ckSrcPair a)).or (ckSrcPair b)
  | .orInt64 nw d a b => ((ckDstPair nw d).or (ckSrcPair a)).or (ckSrcPair b)
  | .xorInt64 nw d a b => ((ckDstPair nw d).or (ckSrcPair a)).or (ckSrcPair b)
  | .shlInt64 nw d a _ => (ckDstPair nw d).or (ckSrcPair a)
  | .shrInt64 nw d a _ => (ckDstPair nw d).or (ckSrcPair a)
  | .sarInt64 nw d a _ => (ckDstPair nw d).or (ckSrcPair a)
  | .shliInt64 nw d a _ => (ckDstPair nw d).or (ckSrcPair a)
  | .shriInt64 nw d a _ => (ckDstPair nw d).or (ckSrcPair a)
  | .sariInt64 nw d a _ => (ckDstPair nw d).or (ckSrcPair a)
  | .movInt64 nw d a => (ckDstPair nw d).or (ckSrcPair a)
  | .notInt64 nw d a => (ckDstPair nw d).or (ckSrcPair a)
  | .negInt64 nw d a => (ckDstPair nw d).or (ckSrcPair a)
  | .absInt64 nw d a => (ckDstPair nw d).or (ckSrcPair a)
  | .popcInt64 nw d a => (ckDstPair nw d).or (ckSrcPair a)
  | .clzInt64 nw d a => (ckDstPair nw d).or (ckSrcPair a)
  | .ctzInt64 nw d a => (ckDstPair nw d).or (ckSrcPair a)
  | .brevInt64 nw d a => (ckDstPair nw d).or (ckSrcPair a)
  | .leaI32 nw d a _ => (ckDstPair nw d).or (ckSrcPair a)
  | .leaN32 nw d a _ => (ckDstPair nw d).or (ckSrcPair a)
  | .addUint d a b => ((ckUni d).or (ckUni a)).or (ckUni b)
  | .subUint d a b => ((ckUni d).or (ckUni a)).or (ckUni b)
  | .mullUint d a b => ((ckUni d).or (ckUni a)).or (ckUni b)
  | .mulhI64 d a b => ((ckUni d).or (ckUni a)).or (ckUni b)
  | .mulhN64 d a b => ((ckUni d).or (ckUni a)).or (ckUni b)
  | .madUint d a b => ((ckUni d).or (ckUni a)).or (ckUni b)
  | .minUint _ d a b => ((ckUni d).or (ckUni a)).or (ckUni b)
  | .maxUint _ d a b => ((ckUni d).or (ckUni a)).or (ckUni b)
  | .andUint d a b => ((ckUni d).or (ckUni a)).or (ckUni b)
  | .orUint d a b => ((ckUni d).or (ckUni a)).or (ckUni b)
  | .xorUint d a b => ((ckUni d).or (ckUni a)).or (ckUni b)
  | .shlUint d a b => ((ckUni d).or (ckUni a)).or (ckUni b)
  | .shrUint d a b => ((ckUni d).or (ckUni a)).or (ckUni b)
  | .sarUint d a b => ((ckUni d).or (ckUni a)).or (ckUni b)
  | .shliUint d a _ => (ckUni d).or (ckUni a)
  | .shriUint d a _ => (ckUni d).or (ckUni a)
  | .sariUint d a _ => (ckUni d).or (ckUni a)
  | .bfxI64 d a b => ((ckUni d).or (ckUni a)).or (ckUni b)
  | .bfxN64 d a b => ((ckUni d).or (ckUni a)).or (ckUni b)
  | .bfiUint d a b => ((ckUni d).or (ckUni a)).or (ckUni b)
  | .movUint d a => (ckUni d).or (ckUni a)
  | .notUint d a => (ckUni d).or (ckUni a)
  | .negUint d a => (ckUni d).or (ckUni a)
  | .absUint d a => (ckUni d).or (ckUni a)
  | .popcUint d a => (ckUni d).or (ckUni a)
  | .clzUint d a => (ckUni d).or (ckUni a)
  | .ctzUint d a => (ckUni d).or (ckUni a)
  | .brevUint d a => (ckUni d).or (ckUni a)
  | .cmp _ _ _ _ _ => none
  | .cmp64 _ _ _ a b => (ckSrcPair a).or (ckSrcPair b)
  | .pand _ _ _ _ _ => none
  | .por _ _ _ _ _ => none
  | .pxor _ _ _ _ _ => none
  | .pnot _ _ _ => none
  | .pmov _ _ _ => none
  | .voteAll _ _ _ => none
  | .voteAny _ _ _ => none
  | .voteBallot nw d _ _ => ckDst nw d
  | .shflIdx nw d _ _ => ckDst nw d
  | .shflUp nw d _ _ => ckDst nw d
  | .shflDown nw d _ _ => ckDst nw d
  | .shflXor nw d _ _ => ckDst nw d
  | .bcst z d a => (ckUni d).or (ckPairIf z a)
  | .elect _ => none
  | .movFromUniform nw d a z => (ckDstWide z nw d).or (ckUni a)
  | .selB32 _ nw d _ _ => ckDst nw d
  | .selB64 _ nw d a b => ((ckDstPair nw d).or (ckSrcPair a)).or (ckSrcPair b)
  | .addc _ nw d _ _ => ckDst nw d
  | .subc _ nw d _ _ => ckDst nw d
  | .addi _ nw d _ => ckDst nw d
  | .andi _ nw d _ => ckDst nw d
  | .ori _ nw d _ => ckDst nw d
  | .xori _ nw d _ => ckDst nw d
  | .cmpi _ _ _ _ _ => none
  | .lui _ nw d => ckDst nw d
  | .movi _ nw d => ckDst nw d
  | .uaddi _ d a => (ckUni d).or (ckUni a)
  | .umovi _ d => ckUni d
  | .umoviLui _ d => ckUni d
  | .faddFp32 _ nw d _ _ => ckDst nw d
  | .fsubFp32 _ nw d _ _ => ckDst nw d
  | .fmulFp32 _ nw d _ _ => ckDst nw d
  | .fdivFp32 _ nw d _ _ => ckDst nw d
  | .fmaFp32 _ nw d _ _ => ckAddend nw d
  | .fnmaFp32 _ nw d _ _ => ckAddend nw d
  | .fsclFp32 _ nw d _ _ => ckDst nw d
  | .fsqrtFp32 _ nw d _ => ckDst nw d
  | .frcp _ nw d _ => ckDst nw d
  | .frsq _ nw d _ => ckDst nw d
  | .fexp2 _ nw d _ => ckDst nw d
  | .flog2 _ nw d _ => ckDst nw d
  | .frndFp32 _ nw d _ => ckDst nw d
  | .frndRnaFp32 nw d _ => ckDst nw d
  | .faddFp64 _ nw d a b => ((ckDstPair nw d).or (ckSrcPair a)).or (ckSrcPair b)
  | .fsubFp64 _ nw d a b => ((ckDstPair nw d).or (ckSrcPair a)).or (ckSrcPair b)
  | .fmulFp64 _ nw d a b => ((ckDstPair nw d).or (ckSrcPair a)).or (ckSrcPair b)
  | .fdivFp64 _ nw d a b => ((ckDstPair nw d).or (ckSrcPair a)).or (ckSrcPair b)
  | .fmaFp64 _ nw d a b => ((ckAddendPair nw d).or (ckSrcPair a)).or (ckSrcPair b)
  | .fnmaFp64 _ nw d a b => ((ckAddendPair nw d).or (ckSrcPair a)).or (ckSrcPair b)
  | .fsclFp64 _ nw d a _ => (ckDstPair nw d).or (ckSrcPair a)
  | .fsqrtFp64 _ nw d a => (ckDstPair nw d).or (ckSrcPair a)
  | .frndFp64 _ nw d a => (ckDstPair nw d).or (ckSrcPair a)
  | .frndRnaFp64 nw d a => (ckDstPair nw d).or (ckSrcPair a)
  | .hadd2 _ _ nw d _ _ => ckDst nw d
  | .hmul2 _ _ nw d _ _ => ckDst nw d
  | .hfma2 _ _ nw d _ _ => ckAddend nw d
  | .hmin2 _ nw d _ _ => ckDst nw d
  | .hmax2 _ nw d _ _ => ckDst nw d
  | .fmin t nw d a b => ((ckDstWide t nw d).or (ckPairIf t a)).or (ckPairIf t b)
  | .fmax t nw d a b => ((ckDstWide t nw d).or (ckPairIf t a)).or (ckPairIf t b)
  | .fminn t nw d a b => ((ckDstWide t nw d).or (ckPairIf t a)).or (ckPairIf t b)
  | .fmaxn t nw d a b => ((ckDstWide t nw d).or (ckPairIf t a)).or (ckPairIf t b)
  | .fabs t nw d a => (ckDstWide t nw d).or (ckPairIf t a)
  | .fneg t nw d a => (ckDstWide t nw d).or (ckPairIf t a)
  | .fcpys t nw d a b => ((ckDstWide t nw d).or (ckPairIf t a)).or (ckPairIf t b)
  | .fclass t nw d a => (ckDst nw d).or (ckPairIf t a)
  | .fext t nw d a => (ckDst nw d).or (ckPairIf t a)
  | .fcmp t _ _ a b => (ckPairIf t a).or (ckPairIf t b)
  | .cvt r y nw d a s => ((ckCvt r y s).or (ckDstWide y.is64 nw d)).or (ckPairIf s.is64 a)
  | .pack4 r y nw d a s => ((ckPack4 r y s).or (ckDst nw d)).or (ckQuad a)
  | .ldo _ z d a => (ckDstWide z false d).or (ckSrcPair a)
  | .sto _ z d a => (ckPairIf z d).or (ckSrcPair a)
  | .ld s o d a t c _ => ((ckLoad s o c).or (ckDstWide (t == .b64) false d)).or (ckSrcPair a)
  | .ldv s o d a c _ => ((ckLoad s o c).or (ckQuad d)).or (ckSrcPair a)
  | .st _ o d a t c _ => (((ckOrderScope o c).or (ckStoreTy t)).or (ckPairIf (t == .b64) d)).or (ckSrcPair a)
  | .stv _ o d a c _ => ((ckOrderScope o c).or (ckQuad d)).or (ckSrcPair a)
  | .ldx z d a b => ((ckDstWide z false d).or (ckSrcPair a)).or (ckUni b)
  | .stx z d a b => ((ckPairIf z d).or (ckSrcPair a)).or (ckUni b)
  | .pref a _ _ => ckSrcPair a
  | .fence c o m => ckFence c o m
  | .mon _ z a b => (ckSrcPair a).or (ckPairIf z b)
  | .mwait d _ => ckDstRead d
  | .atom f d a c _ _ => ((ckAtomScope c).or (ckSrcPair a)).or (ckAtomOperand f d)
  | .atomr f d a c _ _ => (((ckAtomScope c).or (ckSrcPair a)).or (ckAtomOperand f d)).or (ckDstRead d)
  | .matom f d a c o => (((ckAtomScope c).or (ckMatomOrder o)).or (ckSrcPair a)).or (ckAtomOperand f d)
  | .matomr f d a c o => ((((ckAtomScope c).or (ckMatomOrder o)).or (ckSrcPair a)).or (ckAtomOperand f d)).or (ckDstRead d)
  | .bar _ k c x => ckBar k c x
  | .specx => none
  | .qw q a => (ckQueue q).or (ckUni a)
  | .qr d q => (ckUni d).or (ckQueue q)
  | .qrt d q _ => (ckUni d).or (ckQueue q)
  | .qst d q => (ckUni d).or (ckQueue q)
  | .tkwSrc a => ckUni a
  | .tkwVis a => ckUni a
  | .cpy nw d a _ => (ckToken nw d).or (ckUni a)
  | .gat nw d a _ => (ckToken nw d).or (ckUni a)
  | .sct nw d a _ => (ckToken nw d).or (ckUni a)
  | .bin nw d a => (ckToken nw d).or (ckUni a)
  | .coll nw d a _ => (ckToken nw d).or (ckUni a)
  | .shape d a => (ckUni d).or (ckUni a)
  | .mxls nw d a => (ckToken nw d).or (ckUni a)
  | .mxsw => none
  | .mxgo nw d a => (ckToken nw d).or (ckUni a)
  | .mxrd d a => (ckQuad d).or (ckUni a)
  | .mxz a => ckUni a
  | .mxst nw d a => (ckToken nw d).or (ckUni a)
  | .tidw a b => (ckUni a).or (ckUni b)
  | .tidr a b => (ckUni a).or (ckUni b)
  | .handlerEntry _ _ => none
  | .joinRelease _ _ _ => none
  | .waveRetire _ _ => none
  | .gangRetire _ => none
  | .yieldHoldExpiry _ _ => none
  | .issueAgePromotion _ _ => none
  | .parkWave _ _ => none
  | .recallWave _ _ => none
  | .watchdogExpiry _ _ => none
  | .loadReply _ _ _ => none
  | .storeAck _ _ => none
  | .matomPerform _ => none
  | .mwaitRecheck _ _ _ => none
  | .mwaitTimeout _ _ _ => none
  | .haltLineArrival _ => none
  | .haltClear _ => none
  | .dispatchRound _ => none
  | .dispatcherFlagFall _ => none
  | .stackDispatchGang _ => none
  | .reservationAttempt _ => none
  | .reservationBackoffExpiry _ => none
  | .poolRecordTake _ => none
  | .poolDrainFlush _ => none
  | .flagFall _ _ => none
  | .deadlineKill _ _ => none
  | .completionRecordWrite _ => none
  | .engineCommandStart _ => none
  | .engineSourceRead _ => none
  | .engineComplete _ => none
  | .collChunkDelivered _ => none
  | .matrixOpStart _ => none
  | .matrixFetchPageMiss _ => none
  | .matrixOpComplete _ _ => none
  | .selfTestPeriodic _ _ _ => none
  | .kick _ _ _ _ => none
  | .packetFetch _ => none
  | .markReread _ => none
  | .bodyCheckRetry _ => none
  | .launchPacket _ => none
  | .continuationPacket _ => none
  | .enginePacket _ => none
  | .waitPacket _ => none
  | .waitReread _ _ => none
  | .signalPacket _ => none
  | .graphPacket _ => none
  | .graphNodeStart _ _ => none
  | .notifyPacket _ => none
  | .notifyTakenReread _ _ => none
  | .notifyTimeInterrupt _ => none
  | .dependenceReread _ => none
  | .evringWrite _ _ _ => none
  | .sdmodeWrite _ _ => none
  | .sdmodeTakeEffect _ => none
  | .cpLoad _ _ => none
  | .cpCastle => none
  | .cpPowerOff => none
  | .castlingImport _ => none
  | .castlingTimeout => none
  | .createContext _ => none
  | .destroyContext _ => none
  | .registerQueue _ => none
  | .resetQueue _ => none
  | .preempt _ => none
  | .drainBoundExpiry _ => none
  | .evictBoundExpiry _ => none
  | .resume _ => none
  | .gangRestore _ _ => none
  | .invalidate _ => none
  | .invalidationAck _ _ => none
  | .resolve _ => none
  | .refuse _ => none
  | .migratePage _ => none
  | .rebuildChannel _ => none
  | .rebuildStep _ _ => none
  | .beginLayerMapOut _ => none
  | .confirmLayerRemoval _ => none
  | .mapOutCopyStep _ _ => none
  | .patrolScrub _ _ _ => none
  | .bankModeWrite _ _ _ _ => none
  | .bankModeChangeComplete _ _ _ => none
  | .partitionEnable _ _ => none
  | .scrubComplete _ _ _ => none
  | .ringTransfer _ _ => none
  | .hostMemRequest _ _ _ _ _ _ _ => none
  | .backInvalidationResponse _ _ _ _ _ => none
  | .hostSnoop _ _ _ _ _ _ _ => none
  | .linkDown _ => none
  | .viralReceived _ => none
  | .completionTimeout _ => none
  | .routeFreeze _ => none
  | .routeUnfreeze _ _ => none
  | .ptmExchange _ _ => none
  | .ptmHoldoverTimeout _ => none
  | .governorTick _ _ _ => none
  | .powerUp _ => none
  | .bootLoadConfig _ _ => none
  | .idpubReceived _ => none
  | .idpubTimeout _ => none
  | .bootProduceQuote _ => none
  | .quoteWriteComplete _ _ => none
  | .capbaseWrite _ _ => none
  | .registerWrite _ _ _ => none
  | .illegalInstruction _ => none
  | .fetchFault _ _ => none
  | .savedGangDeadline _ => none
  | .linkUp _ => none

/-- The instruction's operands meet every rule of its row. -/
def Instr.wellFormed (i : Instr) : Bool := i.formError.isNone

/-- The instruction stands for a word; the other constructors are the device's events. -/
def Instr.isWord : Instr → Bool
  | .handlerEntry _ _ => false
  | .joinRelease _ _ _ => false
  | .waveRetire _ _ => false
  | .gangRetire _ => false
  | .yieldHoldExpiry _ _ => false
  | .issueAgePromotion _ _ => false
  | .parkWave _ _ => false
  | .recallWave _ _ => false
  | .watchdogExpiry _ _ => false
  | .loadReply _ _ _ => false
  | .storeAck _ _ => false
  | .matomPerform _ => false
  | .mwaitRecheck _ _ _ => false
  | .mwaitTimeout _ _ _ => false
  | .haltLineArrival _ => false
  | .haltClear _ => false
  | .dispatchRound _ => false
  | .dispatcherFlagFall _ => false
  | .stackDispatchGang _ => false
  | .reservationAttempt _ => false
  | .reservationBackoffExpiry _ => false
  | .poolRecordTake _ => false
  | .poolDrainFlush _ => false
  | .flagFall _ _ => false
  | .deadlineKill _ _ => false
  | .completionRecordWrite _ => false
  | .engineCommandStart _ => false
  | .engineSourceRead _ => false
  | .engineComplete _ => false
  | .collChunkDelivered _ => false
  | .matrixOpStart _ => false
  | .matrixFetchPageMiss _ => false
  | .matrixOpComplete _ _ => false
  | .selfTestPeriodic _ _ _ => false
  | .kick _ _ _ _ => false
  | .packetFetch _ => false
  | .markReread _ => false
  | .bodyCheckRetry _ => false
  | .launchPacket _ => false
  | .continuationPacket _ => false
  | .enginePacket _ => false
  | .waitPacket _ => false
  | .waitReread _ _ => false
  | .signalPacket _ => false
  | .graphPacket _ => false
  | .graphNodeStart _ _ => false
  | .notifyPacket _ => false
  | .notifyTakenReread _ _ => false
  | .notifyTimeInterrupt _ => false
  | .dependenceReread _ => false
  | .evringWrite _ _ _ => false
  | .sdmodeWrite _ _ => false
  | .sdmodeTakeEffect _ => false
  | .cpLoad _ _ => false
  | .cpCastle => false
  | .cpPowerOff => false
  | .castlingImport _ => false
  | .castlingTimeout => false
  | .createContext _ => false
  | .destroyContext _ => false
  | .registerQueue _ => false
  | .resetQueue _ => false
  | .preempt _ => false
  | .drainBoundExpiry _ => false
  | .evictBoundExpiry _ => false
  | .resume _ => false
  | .gangRestore _ _ => false
  | .invalidate _ => false
  | .invalidationAck _ _ => false
  | .resolve _ => false
  | .refuse _ => false
  | .migratePage _ => false
  | .rebuildChannel _ => false
  | .rebuildStep _ _ => false
  | .beginLayerMapOut _ => false
  | .confirmLayerRemoval _ => false
  | .mapOutCopyStep _ _ => false
  | .patrolScrub _ _ _ => false
  | .bankModeWrite _ _ _ _ => false
  | .bankModeChangeComplete _ _ _ => false
  | .partitionEnable _ _ => false
  | .scrubComplete _ _ _ => false
  | .ringTransfer _ _ => false
  | .hostMemRequest _ _ _ _ _ _ _ => false
  | .backInvalidationResponse _ _ _ _ _ => false
  | .hostSnoop _ _ _ _ _ _ _ => false
  | .linkDown _ => false
  | .viralReceived _ => false
  | .completionTimeout _ => false
  | .routeFreeze _ => false
  | .routeUnfreeze _ _ => false
  | .ptmExchange _ _ => false
  | .ptmHoldoverTimeout _ => false
  | .governorTick _ _ _ => false
  | .powerUp _ => false
  | .bootLoadConfig _ _ => false
  | .idpubReceived _ => false
  | .idpubTimeout _ => false
  | .bootProduceQuote _ => false
  | .quoteWriteComplete _ _ => false
  | .capbaseWrite _ _ => false
  | .registerWrite _ _ _ => false
  | .illegalInstruction _ => false
  | .fetchFault _ _ => false
  | .savedGangDeadline _ => false
  | .linkUp _ => false
  | _ => true

end Sys2Proof
end

