-- ==== Sys2Proof/Machine/Operands.lean ====
section
/-! DEFINITION. What registers each instruction names, read from the encoding tables (R52 to R77): the lists behind
the scoreboard, the stall marks of R19 and the stale-latch check of R20; the switch-point classes of R19, the
instructions a GUARD run must not cover (R167) and the non-speculable ones (R336). -/
namespace Sys2Proof

/-- Registers an atomic's operand field names: two for 64-bit operations and for cas.32, four for cas.64 (R76). -/
def AtomOp.regs : AtomOp → Nat
  | .cas64 => 4
  | .cas32 => 2
  | f => if f.is64 then 2 else 1

namespace Machine

/-- The registers an instruction names: per-lane sources and destinations with their register counts, uniform sources
and destinations, predicate sources and destinations. -/
structure Operands where
  vr : List (Reg × Nat)
  vw : List (Reg × Nat)
  ur : List Reg
  uw : List Reg
  pr : List (BitVec 4)
  pw : List (BitVec 4)
  deriving DecidableEq, Repr

/-- A destination list that is empty under nw (R54). -/
def dstUnless (nw : Bool) (l : List (Reg × Nat)) : List (Reg × Nat) := if nw then [] else l

/-- The token register of a submit, if it names one (R77). -/
def tokenOf (none : Bool) (d : Reg) : List Reg := if none then [] else [d]

/-- The registers each instruction names. Events name none. -/
def operands : Instr → Operands
  | .nop => ⟨[], [], [], [], [], []⟩
  | .trap _ => ⟨[], [], [], [], [], []⟩
  | .tret => ⟨[], [], [], [], [], []⟩
  | .brk _ => ⟨[], [], [], [], [], []⟩
  | .gets nw d a => ⟨[], dstUnless nw [(d, if special64 a then 2 else 1)], [], [], [], []⟩
  | .sets _ b => ⟨[(b, 1)], [], [], [], [], []⟩
  | .xen _ _ => ⟨[], [], [], [], [], []⟩
  | .xflg _ _ => ⟨[], [], [], [], [], []⟩
  | .exit => ⟨[], [], [], [], [], []⟩
  | .ret => ⟨[], [], [], [], [], []⟩
  | .brx a _ => ⟨[(a, 2)], [], [], [], [], []⟩
  | .callx a _ => ⟨[(a, 2)], [], [], [], [], []⟩
  | .prio _ => ⟨[], [], [], [], [], []⟩
  | .jmsk _ => ⟨[], [], [], [], [], []⟩
  | .join _ => ⟨[], [], [], [], [], []⟩
  | .winb _ => ⟨[], [], [], [], [], []⟩
  | .valid _ => ⟨[], [], [], [], [], []⟩
  | .yield => ⟨[], [], [], [], [], []⟩
  | .guard _ _ q => ⟨[], [], [], [], [q], []⟩
  | .bra p _ _ _ => ⟨[], [], [], [], [p], []⟩
  | .call p _ _ _ => ⟨[], [], [], [], [p], []⟩
  | .add32 nw d a b => ⟨[(a, 1), (b, 1)], dstUnless nw [(d, 1)], [], [], [], []⟩
  | .sub32 nw d a b => ⟨[(a, 1), (b, 1)], dstUnless nw [(d, 1)], [], [], [], []⟩
  | .mull nw d a b => ⟨[(a, 1), (b, 1)], dstUnless nw [(d, 1)], [], [], [], []⟩
  | .mulhI32 nw d a b => ⟨[(a, 1), (b, 1)], dstUnless nw [(d, 1)], [], [], [], []⟩
  | .mulhN32 nw d a b => ⟨[(a, 1), (b, 1)], dstUnless nw [(d, 1)], [], [], [], []⟩
  | .mad nw d a b => ⟨[(a, 1), (b, 1), (d, 1)], dstUnless nw [(d, 1)], [], [], [], []⟩
  | .div32 _ nw d a b => ⟨[(a, 1), (b, 1)], dstUnless nw [(d, 1)], [], [], [], []⟩
  | .rem32 _ nw d a b => ⟨[(a, 1), (b, 1)], dstUnless nw [(d, 1)], [], [], [], []⟩
  | .min32 _ nw d a b => ⟨[(a, 1), (b, 1)], dstUnless nw [(d, 1)], [], [], [], []⟩
  | .max32 _ nw d a b => ⟨[(a, 1), (b, 1)], dstUnless nw [(d, 1)], [], [], [], []⟩
  | .sadd _ nw d a b => ⟨[(a, 1), (b, 1)], dstUnless nw [(d, 1)], [], [], [], []⟩
  | .ssub _ nw d a b => ⟨[(a, 1), (b, 1)], dstUnless nw [(d, 1)], [], [], [], []⟩
  | .and32 nw d a b => ⟨[(a, 1), (b, 1)], dstUnless nw [(d, 1)], [], [], [], []⟩
  | .or32 nw d a b => ⟨[(a, 1), (b, 1)], dstUnless nw [(d, 1)], [], [], [], []⟩
  | .xor32 nw d a b => ⟨[(a, 1), (b, 1)], dstUnless nw [(d, 1)], [], [], [], []⟩
  | .shl nw d a b => ⟨[(a, 1), (b, 1)], dstUnless nw [(d, 1)], [], [], [], []⟩
  | .shr nw d a b => ⟨[(a, 1), (b, 1)], dstUnless nw [(d, 1)], [], [], [], []⟩
  | .sar nw d a b => ⟨[(a, 1), (b, 1)], dstUnless nw [(d, 1)], [], [], [], []⟩
  | .rotl nw d a b => ⟨[(a, 1), (b, 1)], dstUnless nw [(d, 1)], [], [], [], []⟩
  | .shli nw d a _ => ⟨[(a, 1)], dstUnless nw [(d, 1)], [], [], [], []⟩
  | .shri nw d a _ => ⟨[(a, 1)], dstUnless nw [(d, 1)], [], [], [], []⟩
  | .sari nw d a _ => ⟨[(a, 1)], dstUnless nw [(d, 1)], [], [], [], []⟩
  | .bfx _ nw d a b => ⟨[(a, 1), (b, 1)], dstUnless nw [(d, 1)], [], [], [], []⟩
  | .bfi nw d a b => ⟨[(a, 1), (b, 1), (d, 1)], dstUnless nw [(d, 1)], [], [], [], []⟩
  | .permb nw d a b => ⟨[(a, 1), (b, 1), (d, 1)], dstUnless nw [(d, 1)], [], [], [], []⟩
  | .mov nw d a => ⟨[(a, 1)], dstUnless nw [(d, 1)], [], [], [], []⟩
  | .not32 nw d a => ⟨[(a, 1)], dstUnless nw [(d, 1)], [], [], [], []⟩
  | .neg32 nw d a => ⟨[(a, 1)], dstUnless nw [(d, 1)], [], [], [], []⟩
  | .abs32 nw d a => ⟨[(a, 1)], dstUnless nw [(d, 1)], [], [], [], []⟩
  | .popc nw d a => ⟨[(a, 1)], dstUnless nw [(d, 1)], [], [], [], []⟩
  | .clz nw d a => ⟨[(a, 1)], dstUnless nw [(d, 1)], [], [], [], []⟩
  | .ctz nw d a => ⟨[(a, 1)], dstUnless nw [(d, 1)], [], [], [], []⟩
  | .brev nw d a => ⟨[(a, 1)], dstUnless nw [(d, 1)], [], [], [], []⟩
  | .addInt64 nw d a b => ⟨[(a, 2), (b, 2)], dstUnless nw [(d, 2)], [], [], [], []⟩
  | .subInt64 nw d a b => ⟨[(a, 2), (b, 2)], dstUnless nw [(d, 2)], [], [], [], []⟩
  | .mullInt64 nw d a b => ⟨[(a, 2), (b, 2)], dstUnless nw [(d, 2)], [], [], [], []⟩
  | .minI64 nw d a b => ⟨[(a, 2), (b, 2)], dstUnless nw [(d, 2)], [], [], [], []⟩
  | .minN64 nw d a b => ⟨[(a, 2), (b, 2)], dstUnless nw [(d, 2)], [], [], [], []⟩
  | .maxI64 nw d a b => ⟨[(a, 2), (b, 2)], dstUnless nw [(d, 2)], [], [], [], []⟩
  | .maxN64 nw d a b => ⟨[(a, 2), (b, 2)], dstUnless nw [(d, 2)], [], [], [], []⟩
  | .andInt64 nw d a b => ⟨[(a, 2), (b, 2)], dstUnless nw [(d, 2)], [], [], [], []⟩
  | .orInt64 nw d a b => ⟨[(a, 2), (b, 2)], dstUnless nw [(d, 2)], [], [], [], []⟩
  | .xorInt64 nw d a b => ⟨[(a, 2), (b, 2)], dstUnless nw [(d, 2)], [], [], [], []⟩
  | .shlInt64 nw d a b => ⟨[(a, 2), (b, 1)], dstUnless nw [(d, 2)], [], [], [], []⟩
  | .shrInt64 nw d a b => ⟨[(a, 2), (b, 1)], dstUnless nw [(d, 2)], [], [], [], []⟩
  | .sarInt64 nw d a b => ⟨[(a, 2), (b, 1)], dstUnless nw [(d, 2)], [], [], [], []⟩
  | .shliInt64 nw d a _ => ⟨[(a, 2)], dstUnless nw [(d, 2)], [], [], [], []⟩
  | .shriInt64 nw d a _ => ⟨[(a, 2)], dstUnless nw [(d, 2)], [], [], [], []⟩
  | .sariInt64 nw d a _ => ⟨[(a, 2)], dstUnless nw [(d, 2)], [], [], [], []⟩
  | .movInt64 nw d a => ⟨[(a, 2)], dstUnless nw [(d, 2)], [], [], [], []⟩
  | .notInt64 nw d a => ⟨[(a, 2)], dstUnless nw [(d, 2)], [], [], [], []⟩
  | .negInt64 nw d a => ⟨[(a, 2)], dstUnless nw [(d, 2)], [], [], [], []⟩
  | .absInt64 nw d a => ⟨[(a, 2)], dstUnless nw [(d, 2)], [], [], [], []⟩
  | .popcInt64 nw d a => ⟨[(a, 2)], dstUnless nw [(d, 2)], [], [], [], []⟩
  | .clzInt64 nw d a => ⟨[(a, 2)], dstUnless nw [(d, 2)], [], [], [], []⟩
  | .ctzInt64 nw d a => ⟨[(a, 2)], dstUnless nw [(d, 2)], [], [], [], []⟩
  | .brevInt64 nw d a => ⟨[(a, 2)], dstUnless nw [(d, 2)], [], [], [], []⟩
  | .leaI32 nw d a b => ⟨[(a, 2), (b, 1)], dstUnless nw [(d, 2)], [], [], [], []⟩
  | .leaN32 nw d a b => ⟨[(a, 2), (b, 1)], dstUnless nw [(d, 2)], [], [], [], []⟩
  | .addUint d a b => ⟨[], [], [a, b], [d], [], []⟩
  | .subUint d a b => ⟨[], [], [a, b], [d], [], []⟩
  | .mullUint d a b => ⟨[], [], [a, b], [d], [], []⟩
  | .mulhI64 d a b => ⟨[], [], [a, b], [d], [], []⟩
  | .mulhN64 d a b => ⟨[], [], [a, b], [d], [], []⟩
  | .madUint d a b => ⟨[], [], [a, b, d], [d], [], []⟩
  | .minUint _ d a b => ⟨[], [], [a, b], [d], [], []⟩
  | .maxUint _ d a b => ⟨[], [], [a, b], [d], [], []⟩
  | .andUint d a b => ⟨[], [], [a, b], [d], [], []⟩
  | .orUint d a b => ⟨[], [], [a, b], [d], [], []⟩
  | .xorUint d a b => ⟨[], [], [a, b], [d], [], []⟩
  | .shlUint d a b => ⟨[], [], [a, b], [d], [], []⟩
  | .shrUint d a b => ⟨[], [], [a, b], [d], [], []⟩
  | .sarUint d a b => ⟨[], [], [a, b], [d], [], []⟩
  | .shliUint d a _ => ⟨[], [], [a], [d], [], []⟩
  | .shriUint d a _ => ⟨[], [], [a], [d], [], []⟩
  | .sariUint d a _ => ⟨[], [], [a], [d], [], []⟩
  | .bfxI64 d a b => ⟨[], [], [a, b], [d], [], []⟩
  | .bfxN64 d a b => ⟨[], [], [a, b], [d], [], []⟩
  | .bfiUint d a b => ⟨[], [], [a, b, d], [d], [], []⟩
  | .movUint d a => ⟨[], [], [a], [d], [], []⟩
  | .notUint d a => ⟨[], [], [a], [d], [], []⟩
  | .negUint d a => ⟨[], [], [a], [d], [], []⟩
  | .absUint d a => ⟨[], [], [a], [d], [], []⟩
  | .popcUint d a => ⟨[], [], [a], [d], [], []⟩
  | .clzUint d a => ⟨[], [], [a], [d], [], []⟩
  | .ctzUint d a => ⟨[], [], [a], [d], [], []⟩
  | .brevUint d a => ⟨[], [], [a], [d], [], []⟩
  | .cmp _ _ q a b => ⟨[(a, 1), (b, 1)], [], [], [], [], [q]⟩
  | .cmp64 _ _ q a b => ⟨[(a, 2), (b, 2)], [], [], [], [], [q]⟩
  | .pand q _ p _ r => ⟨[], [], [], [], [p, r], [q]⟩
  | .por q _ p _ r => ⟨[], [], [], [], [p, r], [q]⟩
  | .pxor q _ p _ r => ⟨[], [], [], [], [p, r], [q]⟩
  | .pnot q _ p => ⟨[], [], [], [], [p], [q]⟩
  | .pmov q _ p => ⟨[], [], [], [], [p], [q]⟩
  | .voteAll q _ p => ⟨[], [], [], [], [p], [q]⟩
  | .voteAny q _ p => ⟨[], [], [], [], [p], [q]⟩
  | .voteBallot nw d _ p => ⟨[], dstUnless nw [(d, 1)], [], [], [p], []⟩
  | .shflIdx nw d a b => ⟨[(a, 1), (b, 1)], dstUnless nw [(d, 1)], [], [], [], []⟩
  | .shflUp nw d a b => ⟨[(a, 1), (b, 1)], dstUnless nw [(d, 1)], [], [], [], []⟩
  | .shflDown nw d a b => ⟨[(a, 1), (b, 1)], dstUnless nw [(d, 1)], [], [], [], []⟩
  | .shflXor nw d a b => ⟨[(a, 1), (b, 1)], dstUnless nw [(d, 1)], [], [], [], []⟩
  | .bcst z d a => ⟨[(a, if z then 2 else 1)], [], [], [d], [], []⟩
  | .elect q => ⟨[], [], [], [], [], [q]⟩
  | .movFromUniform nw d a z => ⟨[], dstUnless nw [(d, if z then 2 else 1)], [a], [], [], []⟩
  | .selB32 p nw d a b => ⟨[(a, 1), (b, 1)], dstUnless nw [(d, 1)], [], [], [p], []⟩
  | .selB64 p nw d a b => ⟨[(a, 2), (b, 2)], dstUnless nw [(d, 2)], [], [], [p], []⟩
  | .addc p nw d a b => ⟨[(a, 1), (b, 1)], dstUnless nw [(d, 1)], [], [], [p], [p]⟩
  | .subc p nw d a b => ⟨[(a, 1), (b, 1)], dstUnless nw [(d, 1)], [], [], [p], [p]⟩
  | .addi _ nw d a => ⟨[(a, 1)], dstUnless nw [(d, 1)], [], [], [], []⟩
  | .andi _ nw d a => ⟨[(a, 1)], dstUnless nw [(d, 1)], [], [], [], []⟩
  | .ori _ nw d a => ⟨[(a, 1)], dstUnless nw [(d, 1)], [], [], [], []⟩
  | .xori _ nw d a => ⟨[(a, 1)], dstUnless nw [(d, 1)], [], [], [], []⟩
  | .cmpi _ _ _ q a => ⟨[(a, 1)], [], [], [], [], [q]⟩
  | .lui _ nw d => ⟨[], dstUnless nw [(d, 1)], [], [], [], []⟩
  | .movi _ nw d => ⟨[], dstUnless nw [(d, 1)], [], [], [], []⟩
  | .uaddi _ d a => ⟨[], [], [a], [d], [], []⟩
  | .umovi _ d => ⟨[], [], [], [d], [], []⟩
  | .umoviLui _ d => ⟨[], [], [], [d], [], []⟩
  | .faddFp32 _ nw d a b => ⟨[(a, 1), (b, 1)], dstUnless nw [(d, 1)], [], [], [], []⟩
  | .fsubFp32 _ nw d a b => ⟨[(a, 1), (b, 1)], dstUnless nw [(d, 1)], [], [], [], []⟩
  | .fmulFp32 _ nw d a b => ⟨[(a, 1), (b, 1)], dstUnless nw [(d, 1)], [], [], [], []⟩
  | .fdivFp32 _ nw d a b => ⟨[(a, 1), (b, 1)], dstUnless nw [(d, 1)], [], [], [], []⟩
  | .fmaFp32 _ nw d a b => ⟨[(a, 1), (b, 1), (d, 1)], dstUnless nw [(d, 1)], [], [], [], []⟩
  | .fnmaFp32 _ nw d a b => ⟨[(a, 1), (b, 1), (d, 1)], dstUnless nw [(d, 1)], [], [], [], []⟩
  | .fsclFp32 _ nw d a b => ⟨[(a, 1), (b, 1)], dstUnless nw [(d, 1)], [], [], [], []⟩
  | .fsqrtFp32 _ nw d a => ⟨[(a, 1)], dstUnless nw [(d, 1)], [], [], [], []⟩
  | .frcp _ nw d a => ⟨[(a, 1)], dstUnless nw [(d, 1)], [], [], [], []⟩
  | .frsq _ nw d a => ⟨[(a, 1)], dstUnless nw [(d, 1)], [], [], [], []⟩
  | .fexp2 _ nw d a => ⟨[(a, 1)], dstUnless nw [(d, 1)], [], [], [], []⟩
  | .flog2 _ nw d a => ⟨[(a, 1)], dstUnless nw [(d, 1)], [], [], [], []⟩
  | .frndFp32 _ nw d a => ⟨[(a, 1)], dstUnless nw [(d, 1)], [], [], [], []⟩
  | .frndRnaFp32 nw d a => ⟨[(a, 1)], dstUnless nw [(d, 1)], [], [], [], []⟩
  | .faddFp64 _ nw d a b => ⟨[(a, 2), (b, 2)], dstUnless nw [(d, 2)], [], [], [], []⟩
  | .fsubFp64 _ nw d a b => ⟨[(a, 2), (b, 2)], dstUnless nw [(d, 2)], [], [], [], []⟩
  | .fmulFp64 _ nw d a b => ⟨[(a, 2), (b, 2)], dstUnless nw [(d, 2)], [], [], [], []⟩
  | .fdivFp64 _ nw d a b => ⟨[(a, 2), (b, 2)], dstUnless nw [(d, 2)], [], [], [], []⟩
  | .fmaFp64 _ nw d a b => ⟨[(a, 2), (b, 2), (d, 2)], dstUnless nw [(d, 2)], [], [], [], []⟩
  | .fnmaFp64 _ nw d a b => ⟨[(a, 2), (b, 2), (d, 2)], dstUnless nw [(d, 2)], [], [], [], []⟩
  | .fsclFp64 _ nw d a b => ⟨[(a, 2), (b, 1)], dstUnless nw [(d, 2)], [], [], [], []⟩
  | .fsqrtFp64 _ nw d a => ⟨[(a, 2)], dstUnless nw [(d, 2)], [], [], [], []⟩
  | .frndFp64 _ nw d a => ⟨[(a, 2)], dstUnless nw [(d, 2)], [], [], [], []⟩
  | .frndRnaFp64 nw d a => ⟨[(a, 2)], dstUnless nw [(d, 2)], [], [], [], []⟩
  | .hadd2 _ _ nw d a b => ⟨[(a, 1), (b, 1)], dstUnless nw [(d, 1)], [], [], [], []⟩
  | .hmul2 _ _ nw d a b => ⟨[(a, 1), (b, 1)], dstUnless nw [(d, 1)], [], [], [], []⟩
  | .hfma2 _ _ nw d a b => ⟨[(a, 1), (b, 1), (d, 1)], dstUnless nw [(d, 1)], [], [], [], []⟩
  | .hmin2 _ nw d a b => ⟨[(a, 1), (b, 1)], dstUnless nw [(d, 1)], [], [], [], []⟩
  | .hmax2 _ nw d a b => ⟨[(a, 1), (b, 1)], dstUnless nw [(d, 1)], [], [], [], []⟩
  | .fmin t nw d a b => ⟨[(a, if t then 2 else 1), (b, if t then 2 else 1)], dstUnless nw [(d, if t then 2 else 1)], [], [], [], []⟩
  | .fmax t nw d a b => ⟨[(a, if t then 2 else 1), (b, if t then 2 else 1)], dstUnless nw [(d, if t then 2 else 1)], [], [], [], []⟩
  | .fminn t nw d a b => ⟨[(a, if t then 2 else 1), (b, if t then 2 else 1)], dstUnless nw [(d, if t then 2 else 1)], [], [], [], []⟩
  | .fmaxn t nw d a b => ⟨[(a, if t then 2 else 1), (b, if t then 2 else 1)], dstUnless nw [(d, if t then 2 else 1)], [], [], [], []⟩
  | .fabs t nw d a => ⟨[(a, if t then 2 else 1)], dstUnless nw [(d, if t then 2 else 1)], [], [], [], []⟩
  | .fneg t nw d a => ⟨[(a, if t then 2 else 1)], dstUnless nw [(d, if t then 2 else 1)], [], [], [], []⟩
  | .fcpys t nw d a b => ⟨[(a, if t then 2 else 1), (b, if t then 2 else 1)], dstUnless nw [(d, if t then 2 else 1)], [], [], [], []⟩
  | .fclass t nw d a => ⟨[(a, if t then 2 else 1)], dstUnless nw [(d, 1)], [], [], [], []⟩
  | .fext t nw d a => ⟨[(a, if t then 2 else 1)], dstUnless nw [(d, 1)], [], [], [], []⟩
  | .fcmp t _ q a b => ⟨[(a, if t then 2 else 1), (b, if t then 2 else 1)], [], [], [], [], [q]⟩
  | .cvt _ y nw d a s => ⟨[(a, if s.is64 then 2 else 1)], dstUnless nw [(d, if y.is64 then 2 else 1)], [], [], [], []⟩
  | .pack4 _ _ nw d a _ => ⟨[(a, 4)], dstUnless nw [(d, 1)], [], [], [], []⟩
  | .ldo _ z d a => ⟨[(a, 2)], [(d, if z then 2 else 1)], [], [], [], []⟩
  | .sto _ z d a => ⟨[(a, 2), (d, if z then 2 else 1)], [], [], [], [], []⟩
  | .ld _ _ d a t _ _ => ⟨[(a, 2)], [(d, if t == .b64 then 2 else 1)], [], [], [], []⟩
  | .ldv _ _ d a _ _ => ⟨[(a, 2)], [(d, 4)], [], [], [], []⟩
  | .st _ _ d a t _ _ => ⟨[(a, 2), (d, if t == .b64 then 2 else 1)], [], [], [], [], []⟩
  | .stv _ _ d a _ _ => ⟨[(a, 2), (d, 4)], [], [], [], [], []⟩
  | .ldx z d a b => ⟨[(a, 2)], [(d, if z then 2 else 1)], [b], [], [], []⟩
  | .stx z d a b => ⟨[(a, 2), (d, if z then 2 else 1)], [], [b], [], [], []⟩
  | .pref a _ _ => ⟨[(a, 2)], [], [], [], [], []⟩
  | .fence _ _ _ => ⟨[], [], [], [], [], []⟩
  | .mon _ z a b => ⟨[(a, 2), (b, if z then 2 else 1)], [], [], [], [], []⟩
  | .mwait d a => ⟨[(a, 1)], [(d, 1)], [], [], [], []⟩
  | .atom f d a _ _ _ => ⟨[(a, 2), (d, f.regs)], [], [], [], [], []⟩
  | .atomr f d a _ _ _ => ⟨[(a, 2), (d, f.regs)], [(d, if f.is64 then 2 else 1)], [], [], [], []⟩
  | .matom f d a _ _ => ⟨[(a, 2), (d, f.regs)], [], [], [], [], []⟩
  | .matomr f d a _ _ => ⟨[(a, 2), (d, f.regs)], [(d, if f.is64 then 2 else 1)], [], [], [], []⟩
  | .bar _ _ _ _ => ⟨[], [], [], [], [], []⟩
  | .specx => ⟨[], [], [], [], [], []⟩
  | .qw _ a => ⟨[], [], [a], [], [], []⟩
  | .qr d _ => ⟨[], [], [], [d], [], []⟩
  | .qrt d _ p => ⟨[], [], [], [d], [], [p]⟩
  | .qst d _ => ⟨[], [], [], [d], [], []⟩
  | .tkwSrc a => ⟨[], [], [a], [], [], []⟩
  | .tkwVis a => ⟨[], [], [a], [], [], []⟩
  | .cpy nw d a _ => ⟨[], [], [a], tokenOf nw d, [], []⟩
  | .gat nw d a _ => ⟨[], [], [a], tokenOf nw d, [], []⟩
  | .sct nw d a _ => ⟨[], [], [a], tokenOf nw d, [], []⟩
  | .bin nw d a => ⟨[], [], [a], tokenOf nw d, [], []⟩
  | .coll nw d a _ => ⟨[], [], [a], tokenOf nw d, [], []⟩
  | .shape d a => ⟨[], [], [a], [d], [], []⟩
  | .mxls nw d a => ⟨[], [], [a], tokenOf nw d, [], []⟩
  | .mxsw => ⟨[], [], [], [], [], []⟩
  | .mxgo nw d a => ⟨[], [], [a], tokenOf nw d, [], []⟩
  | .mxrd d a => ⟨[], [(d, 4)], [a], [], [], []⟩
  | .mxz a => ⟨[], [], [a], [], [], []⟩
  | .mxst nw d a => ⟨[], [], [a], tokenOf nw d, [], []⟩
  | .tidw a b => ⟨[], [], [a, b], [], [], []⟩
  | .tidr a b => ⟨[], [], [a, b], [], [], []⟩
  | .handlerEntry _ _ => ⟨[], [], [], [], [], []⟩
  | .joinRelease _ _ _ => ⟨[], [], [], [], [], []⟩
  | .waveRetire _ _ => ⟨[], [], [], [], [], []⟩
  | .gangRetire _ => ⟨[], [], [], [], [], []⟩
  | .yieldHoldExpiry _ _ => ⟨[], [], [], [], [], []⟩
  | .issueAgePromotion _ _ => ⟨[], [], [], [], [], []⟩
  | .parkWave _ _ => ⟨[], [], [], [], [], []⟩
  | .recallWave _ _ => ⟨[], [], [], [], [], []⟩
  | .watchdogExpiry _ _ => ⟨[], [], [], [], [], []⟩
  | .loadReply _ _ _ => ⟨[], [], [], [], [], []⟩
  | .storeAck _ _ => ⟨[], [], [], [], [], []⟩
  | .matomPerform _ => ⟨[], [], [], [], [], []⟩
  | .mwaitRecheck _ _ _ => ⟨[], [], [], [], [], []⟩
  | .mwaitTimeout _ _ _ => ⟨[], [], [], [], [], []⟩
  | .haltLineArrival _ => ⟨[], [], [], [], [], []⟩
  | .haltClear _ => ⟨[], [], [], [], [], []⟩
  | .dispatchRound _ => ⟨[], [], [], [], [], []⟩
  | .dispatcherFlagFall _ => ⟨[], [], [], [], [], []⟩
  | .stackDispatchGang _ => ⟨[], [], [], [], [], []⟩
  | .reservationAttempt _ => ⟨[], [], [], [], [], []⟩
  | .reservationBackoffExpiry _ => ⟨[], [], [], [], [], []⟩
  | .poolRecordTake _ => ⟨[], [], [], [], [], []⟩
  | .poolDrainFlush _ => ⟨[], [], [], [], [], []⟩
  | .flagFall _ _ => ⟨[], [], [], [], [], []⟩
  | .deadlineKill _ _ => ⟨[], [], [], [], [], []⟩
  | .completionRecordWrite _ => ⟨[], [], [], [], [], []⟩
  | .engineCommandStart _ => ⟨[], [], [], [], [], []⟩
  | .engineSourceRead _ => ⟨[], [], [], [], [], []⟩
  | .engineComplete _ => ⟨[], [], [], [], [], []⟩
  | .collChunkDelivered _ => ⟨[], [], [], [], [], []⟩
  | .matrixOpStart _ => ⟨[], [], [], [], [], []⟩
  | .matrixFetchPageMiss _ => ⟨[], [], [], [], [], []⟩
  | .matrixOpComplete _ _ => ⟨[], [], [], [], [], []⟩
  | .selfTestPeriodic _ _ _ => ⟨[], [], [], [], [], []⟩
  | .kick _ _ _ _ => ⟨[], [], [], [], [], []⟩
  | .packetFetch _ => ⟨[], [], [], [], [], []⟩
  | .markReread _ => ⟨[], [], [], [], [], []⟩
  | .bodyCheckRetry _ => ⟨[], [], [], [], [], []⟩
  | .launchPacket _ => ⟨[], [], [], [], [], []⟩
  | .continuationPacket _ => ⟨[], [], [], [], [], []⟩
  | .enginePacket _ => ⟨[], [], [], [], [], []⟩
  | .waitPacket _ => ⟨[], [], [], [], [], []⟩
  | .waitReread _ _ => ⟨[], [], [], [], [], []⟩
  | .signalPacket _ => ⟨[], [], [], [], [], []⟩
  | .graphPacket _ => ⟨[], [], [], [], [], []⟩
  | .graphNodeStart _ _ => ⟨[], [], [], [], [], []⟩
  | .notifyPacket _ => ⟨[], [], [], [], [], []⟩
  | .notifyTakenReread _ _ => ⟨[], [], [], [], [], []⟩
  | .notifyTimeInterrupt _ => ⟨[], [], [], [], [], []⟩
  | .dependenceReread _ => ⟨[], [], [], [], [], []⟩
  | .evringWrite _ _ _ => ⟨[], [], [], [], [], []⟩
  | .sdmodeWrite _ _ => ⟨[], [], [], [], [], []⟩
  | .sdmodeTakeEffect _ => ⟨[], [], [], [], [], []⟩
  | .cpLoad _ _ => ⟨[], [], [], [], [], []⟩
  | .cpCastle => ⟨[], [], [], [], [], []⟩
  | .cpPowerOff => ⟨[], [], [], [], [], []⟩
  | .castlingImport _ => ⟨[], [], [], [], [], []⟩
  | .castlingTimeout => ⟨[], [], [], [], [], []⟩
  | .createContext _ => ⟨[], [], [], [], [], []⟩
  | .destroyContext _ => ⟨[], [], [], [], [], []⟩
  | .registerQueue _ => ⟨[], [], [], [], [], []⟩
  | .resetQueue _ => ⟨[], [], [], [], [], []⟩
  | .preempt _ => ⟨[], [], [], [], [], []⟩
  | .drainBoundExpiry _ => ⟨[], [], [], [], [], []⟩
  | .evictBoundExpiry _ => ⟨[], [], [], [], [], []⟩
  | .resume _ => ⟨[], [], [], [], [], []⟩
  | .gangRestore _ _ => ⟨[], [], [], [], [], []⟩
  | .invalidate _ => ⟨[], [], [], [], [], []⟩
  | .invalidationAck _ _ => ⟨[], [], [], [], [], []⟩
  | .resolve _ => ⟨[], [], [], [], [], []⟩
  | .refuse _ => ⟨[], [], [], [], [], []⟩
  | .migratePage _ => ⟨[], [], [], [], [], []⟩
  | .rebuildChannel _ => ⟨[], [], [], [], [], []⟩
  | .rebuildStep _ _ => ⟨[], [], [], [], [], []⟩
  | .beginLayerMapOut _ => ⟨[], [], [], [], [], []⟩
  | .confirmLayerRemoval _ => ⟨[], [], [], [], [], []⟩
  | .mapOutCopyStep _ _ => ⟨[], [], [], [], [], []⟩
  | .patrolScrub _ _ _ => ⟨[], [], [], [], [], []⟩
  | .bankModeWrite _ _ _ _ => ⟨[], [], [], [], [], []⟩
  | .bankModeChangeComplete _ _ _ => ⟨[], [], [], [], [], []⟩
  | .partitionEnable _ _ => ⟨[], [], [], [], [], []⟩
  | .scrubComplete _ _ _ => ⟨[], [], [], [], [], []⟩
  | .ringTransfer _ _ => ⟨[], [], [], [], [], []⟩
  | .hostMemRequest _ _ _ _ _ _ _ => ⟨[], [], [], [], [], []⟩
  | .backInvalidationResponse _ _ _ _ _ => ⟨[], [], [], [], [], []⟩
  | .hostSnoop _ _ _ _ _ _ _ => ⟨[], [], [], [], [], []⟩
  | .linkDown _ => ⟨[], [], [], [], [], []⟩
  | .viralReceived _ => ⟨[], [], [], [], [], []⟩
  | .completionTimeout _ => ⟨[], [], [], [], [], []⟩
  | .routeFreeze _ => ⟨[], [], [], [], [], []⟩
  | .routeUnfreeze _ _ => ⟨[], [], [], [], [], []⟩
  | .ptmExchange _ _ => ⟨[], [], [], [], [], []⟩
  | .ptmHoldoverTimeout _ => ⟨[], [], [], [], [], []⟩
  | .governorTick _ _ _ => ⟨[], [], [], [], [], []⟩
  | .powerUp _ => ⟨[], [], [], [], [], []⟩
  | .bootLoadConfig _ _ => ⟨[], [], [], [], [], []⟩
  | .idpubReceived _ => ⟨[], [], [], [], [], []⟩
  | .idpubTimeout _ => ⟨[], [], [], [], [], []⟩
  | .bootProduceQuote _ => ⟨[], [], [], [], [], []⟩
  | .quoteWriteComplete _ _ => ⟨[], [], [], [], [], []⟩
  | .capbaseWrite _ _ => ⟨[], [], [], [], [], []⟩
  | .registerWrite _ _ _ => ⟨[], [], [], [], [], []⟩
  | .illegalInstruction _ => ⟨[], [], [], [], [], []⟩
  | .fetchFault _ _ => ⟨[], [], [], [], [], []⟩
  | .savedGangDeadline _ => ⟨[], [], [], [], [], []⟩
  | .linkUp _ => ⟨[], [], [], [], [], []⟩

/-- Switch points by the first three Stall rows of R19, GETS of now apart. -/
def stallListed : Instr → Bool
  | .trap _ => true
  | .tret => true
  | .brk _ => true
  | .ret => true
  | .callx _ _ => true
  | .join _ => true
  | .winb _ => true
  | .yield => true
  | .call _ _ _ _ => true
  | .ldo _ _ _ _ => true
  | .sto _ _ _ _ => true
  | .ld _ _ _ _ _ _ _ => true
  | .ldv _ _ _ _ _ _ => true
  | .st _ _ _ _ _ _ _ => true
  | .stv _ _ _ _ _ _ => true
  | .ldx _ _ _ _ => true
  | .stx _ _ _ _ => true
  | .pref _ _ _ => true
  | .fence _ _ _ => true
  | .mon _ _ _ _ => true
  | .mwait _ _ => true
  | .atom _ _ _ _ _ _ => true
  | .atomr _ _ _ _ _ _ => true
  | .matom _ _ _ _ _ => true
  | .matomr _ _ _ _ _ => true
  | .bar _ _ _ _ => true
  | .specx => true
  | .qw _ _ => true
  | .qr _ _ => true
  | .qrt _ _ _ => true
  | .qst _ _ => true
  | .tkwSrc _ => true
  | .tkwVis _ => true
  | .cpy _ _ _ _ => true
  | .gat _ _ _ _ => true
  | .sct _ _ _ _ => true
  | .bin _ _ _ => true
  | .coll _ _ _ _ => true
  | .shape _ _ => true
  | .mxls _ _ _ => true
  | .mxsw => true
  | .mxgo _ _ _ => true
  | .mxrd _ _ => true
  | .mxz _ => true
  | .mxst _ _ _ => true
  | .tidw _ _ => true
  | .tidr _ _ => true
  | _ => false

/-- Non-speculable instructions of R336, wide fences apart. -/
def nonSpecListed : Instr → Bool
  | .trap _ => true
  | .tret => true
  | .brk _ => true
  | .exit => true
  | .mwait _ _ => true
  | .atom _ _ _ _ _ _ => true
  | .atomr _ _ _ _ _ _ => true
  | .matom _ _ _ _ _ => true
  | .matomr _ _ _ _ _ => true
  | .bar _ _ _ _ => true
  | .specx => true
  | .qw _ _ => true
  | .qr _ _ => true
  | .qrt _ _ _ => true
  | .cpy _ _ _ _ => true
  | .gat _ _ _ _ => true
  | .sct _ _ _ _ => true
  | .bin _ _ _ => true
  | .coll _ _ _ _ => true
  | .shape _ _ => true
  | .mxls _ _ _ => true
  | .mxsw => true
  | .mxgo _ _ _ => true
  | .mxrd _ _ => true
  | .mxz _ => true
  | .mxst _ _ _ => true
  | .tidw _ _ => true
  | .tidr _ _ => true
  | _ => false

/-- Instructions that a GUARD run must not cover (R167). -/
def guardForbidden : Instr → Bool
  | .trap _ => true
  | .tret => true
  | .brk _ => true
  | .exit => true
  | .ret => true
  | .brx _ _ => true
  | .callx _ _ => true
  | .prio _ => true
  | .join _ => true
  | .guard _ _ _ => true
  | .bra _ _ _ _ => true
  | .call _ _ _ _ => true
  | _ => false

/-- Switch points by the first three Stall rows of R19. -/
def stallClass (i : Instr) : Bool :=
  match i with
  | .gets _ _ a => a.toNat == 0x0A
  | _ => stallListed i

/-- Instructions before which a speculating wave stalls whatever they access (R194, R336). -/
def nonSpec (i : Instr) : Bool :=
  match i with
  | .fence c _ ms => ms || !(c == .wave || c == .gang)
  | _ => nonSpecListed i

end Machine
end Sys2Proof
end

