-- ==== Sys2Proof/Machine/Base.lean ====
section
/-! DEFINITION. The named operations that every meaning is built from: tables, registers, latches, predicates, uniform
registers, byte tables, the parts of the state, and how an instruction issues and completes (R8, R17 to R20, R79,
R106, R153 to R156, R165). Memory and the taking of traps and faults stand in Ops.lean. -/
namespace Sys2Proof.Machine

/-! ### Tables -/

/-- The value at a key; a key that is not listed holds the default. -/
def Sparse.get {α : Type} (dflt : α) : Sparse α → Nat → α
  | [], _ => dflt
  | (a, v) :: m, k => if a = k then v else Sparse.get dflt m k

/-- Put a new key in its place in rising order. -/
def Sparse.insert {α : Type} (k : Nat) (v : α) : Sparse α → Sparse α
  | [] => [(k, v)]
  | (a, w) :: m => if k < a then (k, v) :: (a, w) :: m else (a, w) :: Sparse.insert k v m

/-- Write a key; writing the default removes it, so equal tables stay equal lists. -/
def Sparse.set {α : Type} [DecidableEq α] (dflt : α) (m : Sparse α) (k : Nat) (v : α) : Sparse α :=
  let m' := m.filter (fun p => p.1 ≠ k)
  if v = dflt then m' else Sparse.insert k v m'

/-- Keys strictly rise and no key holds the default. -/
def Sparse.wf {α : Type} [DecidableEq α] (dflt : α) (m : Sparse α) : Bool :=
  decide (m.Pairwise (fun p q => p.1 < q.1)) && m.all (fun p => p.2 ≠ dflt)

/-- The entry of an association table. -/
def aget {α : Type} : List (Nat × α) → Nat → Option α
  | [], _ => none
  | (a, v) :: m, k => if a = k then some v else aget m k

/-- Replace the entry of a key, or add it at the end. -/
def aput {α : Type} : List (Nat × α) → Nat → α → List (Nat × α)
  | [], k, v => [(k, v)]
  | (a, w) :: m, k, v => if a = k then (a, v) :: m else (a, w) :: aput m k v

/-- Remove the entries of a key. -/
def adel {α : Type} (m : List (Nat × α)) (k : Nat) : List (Nat × α) := m.filter (fun p => p.1 ≠ k)

/-- Change the entry of a key, if there is one. -/
def amod {α : Type} (m : List (Nat × α)) (k : Nat) (f : α → α) : List (Nat × α) :=
  m.map (fun p => if p.1 = k then (p.1, f p.2) else p)

/-! ### Bit masks and byte strings -/

/-- Bit n of a mask. -/
def has {w : Nat} (m : BitVec w) (n : Nat) : Bool := m.getLsbD n

/-- The mask with bit n set to a value. -/
def setBit {w : Nat} (m : BitVec w) (n : Nat) (v : Bool) : BitVec w :=
  let one : BitVec w := BitVec.ofNat w 1 <<< n
  if v then m ||| one else m &&& ~~~one

/-- The numbers below 32 whose bit is set, ascending. -/
def bitsOf (m : BitVec 32) : List Nat := (List.range 32).filter (fun n => has m n)

/-- A little-endian number (R4). -/
def leNat : List Byte → Nat
  | [] => 0
  | b :: bs => b.toNat + 256 * leNat bs

/-- The n low bytes of a number, little-endian (R4). -/
def natLe : Nat → Nat → List Byte
  | 0, _ => []
  | n + 1, v => BitVec.ofNat 8 v :: natLe n (v / 256)

/-- Sign-extended reading of an n-bit number. -/
def sInt (n v : Nat) : Int := if v % 2 ^ n < 2 ^ (n - 1) then (v % 2 ^ n : Nat) else (v % 2 ^ n : Nat) - (2 ^ n : Nat)

/-- Bytes of a table of bytes. -/
def readBytes (m : Sparse Byte) (a : Nat) : Nat → List Byte
  | 0 => []
  | n + 1 => Sparse.get 0 m a :: readBytes m (a + 1) n

/-- Write bytes at rising addresses. -/
def writeBytes (m : Sparse Byte) (a : Nat) : List Byte → Sparse Byte
  | [] => m
  | b :: bs => writeBytes (Sparse.set 0 m a b) (a + 1) bs

/-- The 16-byte sectors that n bytes at an address touch (R180). -/
def sectors (a n : Nat) : List Nat :=
  if n = 0 then [] else (List.range ((a + n - 1) / 16 - a / 16 + 1)).map (fun i => a / 16 + i)

/-- Some sector that the bytes touch is poisoned (R180). -/
def poisoned (p : Sparse Bool) (a n : Nat) : Bool := (sectors a n).any (fun x => Sparse.get false p x)

/-- Poison after a store of n bytes: a marked store poisons every sector it touches; an unmarked write that covers a
whole sector clears it; any other unmarked store leaves poison as it is (R180). -/
def storePoison (p : Sparse Bool) (a n : Nat) (mark : Bool) : Sparse Bool :=
  (sectors a n).foldl (fun q x =>
    if mark then Sparse.set false q x true
    else if decide (a ≤ 16 * x) && decide (16 * x + 16 ≤ a + n) then Sparse.set false q x false
    else q) p

/-! ### Threads and what happens before them (R282 to R284) -/

/-- The number of a lane as a thread. -/
def laneThread (g w n : Nat) : Nat := 8 * ((g * 256 + w) * 32 + n)
/-- The number of a wave as the thread that writes its trap records. -/
def waveThread (g w : Nat) : Nat := 8 * (g * 256 + w) + 6
/-- The number of an engine or matrix operation as a thread, by its key. -/
def opThread (k : Nat) : Nat := 8 * k + 1
/-- The number of a return-free atomic as a thread, by its key. -/
def matomThread (k : Nat) : Nat := 8 * k + 2
/-- The number of the front end of a launch's pool. -/
def poolThread (l : Nat) : Nat := 8 * l + 3
/-- The number of the active command-processor complex. -/
def cpThread : Nat := 4
/-- The number of the host. -/
def hostThread : Nat := 5

/-- What happens before both points, or either. -/
def Seen.join (a b : Seen) : Seen :=
  b.foldl (fun (m : Seen) p => Sparse.set 0 m p.1 (max (Sparse.get 0 m p.1) p.2)) a

/-- The scope's instance for the thread at t contains the thread at u (R2, R283). -/
def Scope.spans (sc : Scope) (t u : Place) : Bool :=
  match sc with
  | .none => false
  | .wave => t.gang.isSome && t.gang == u.gang && t.wave == u.wave
  | .gang => t.gang.isSome && t.gang == u.gang
  | .stack => !t.outside && !u.outside && (match u.gang with
    | some g => t.peers.contains g
    | none => t.stack == u.stack)
  | .pkg => !t.outside && !u.outside
  | .sys => true

/-- The releases that a scoped load or read at `sc` from place `at_` can take from a store, for an acquire at `acq`
(R288). -/
def Head.meets (h : Head) (acq sc : Scope) (at_ : Place) : Bool :=
  Scope.spans h.scope h.place at_ && Scope.spans acq at_ h.place && Scope.spans h.storeScope h.place at_ &&
  Scope.spans sc at_ h.place

/-! ### Lanes: registers, latches and predicates -/

/-- The lane at a number; lanes beyond the wave read as a thread that has exited. -/
def Lane.gone : Lane :=
  { regs := [], marks := [], winbase := 0, latches := [], preds := 0, predMarks := 0, xflags := 0, xenable := 0,
    seed := 1, ffpc := 0, ffwhy := 0, exited := true, trap := none, returned := none, stack := [], monitor := none,
    mwait := none, know := Know.start [] }

/-- Architectural register of a window register (R12). -/
def Lane.arch (l : Lane) (f : Nat) : Nat := l.winbase.toNat + f

/-- Latch k, 0 to 7 (R18). -/
def Lane.latch (l : Lane) (k : Nat) : Latch := l.latches.getD k ⟨0, false⟩

/-- A 32-bit per-lane source (R18, R53). -/
def Lane.src32 (l : Lane) (f : Reg) : W32 :=
  if f.toNat < 120 then Sparse.get 0 l.regs (l.arch f.toNat) else (l.latch (f.toNat - 120)).val.setWidth 32

/-- A 64-bit per-lane source: the pair, or the latch (R13, R18). -/
def Lane.src64 (l : Lane) (f : Reg) : W64 :=
  if f.toNat < 120 then Sparse.get 0 l.regs (l.arch (f.toNat + 1)) ++ Sparse.get 0 l.regs (l.arch f.toNat)
  else (l.latch (f.toNat - 120)).val

/-- Some of the n registers at f is marked, or the latch is (R109). -/
def Lane.marked (l : Lane) (f : Reg) (n : Nat) : Bool :=
  if f.toNat < 120 then (List.range n).any (fun i => Sparse.get false l.marks (l.arch (f.toNat + i)))
  else (l.latch (f.toNat - 120)).mark

/-- Write one window register with its mark. -/
def Lane.put32 (l : Lane) (f : Nat) (v : W32) (mark : Bool) : Lane :=
  { l with regs := Sparse.set 0 l.regs (l.arch f) v, marks := Sparse.set false l.marks (l.arch f) mark }

/-- Write a pair, low half in the even register (R13). -/
def Lane.put64 (l : Lane) (f : Nat) (v : W64) (mark : Bool) : Lane :=
  (l.put32 f (v.setWidth 32) mark).put32 (f + 1) (v.extractLsb' 32 32) mark

/-- Write a destination of one register or of a pair. -/
def Lane.put (l : Lane) (wide : Bool) (f : Reg) (v : W64) (mark : Bool) : Lane :=
  if wide then l.put64 f.toNat v mark else l.put32 f.toNat (v.setWidth 32) mark

/-- Enter a result into b0 and shift the others (R18). -/
def Lane.pushLatch (l : Lane) (v : W64) (mark : Bool) : Lane :=
  { l with latches := (⟨v, mark⟩ :: l.latches).take 8 }

/-- What enters b0 in a lane that keeps its destination: the destination's value, or 0 under nw (R18, R133). -/
def Lane.keepLatch (l : Lane) (nw wide : Bool) (d : Reg) : Lane :=
  if nw then l.pushLatch 0 false
  else if wide then l.pushLatch (l.src64 d) (l.marked d 2)
  else l.pushLatch ((l.src32 d).setWidth 64) (l.marked d 1)

/-- A predicate; p0 reads 1 (R21). -/
def Lane.pred (l : Lane) (p : BitVec 4) : Bool := p == 0 || has l.preds p.toNat

/-- The poison mark of a predicate; p0 has none. -/
def Lane.predMark (l : Lane) (p : BitVec 4) : Bool := p != 0 && has l.predMarks p.toNat

/-- Write a predicate; a write to p0 is ignored (R21). -/
def Lane.putPred (l : Lane) (p : BitVec 4) (v mark : Bool) : Lane :=
  if p == 0 then l
  else { l with preds := setBit l.preds p.toNat v, predMarks := setBit l.predMarks p.toNat mark }

/-! ### Waves -/

/-- Lane n of a wave. -/
def WaveCore.lane (c : WaveCore) (n : Nat) : Lane := c.lanes.getD n Lane.gone

/-- A uniform register (R22). -/
def WaveCore.uni (c : WaveCore) (r : Reg) : W64 := Sparse.get 0 c.s r.toNat

/-- The poison mark of a uniform register (R109). -/
def WaveCore.uniMark (c : WaveCore) (r : Reg) : Bool := Sparse.get false c.sMarks r.toNat

/-- Write a uniform register with its mark. -/
def WaveCore.putUni (c : WaveCore) (r : Nat) (v : W64) (mark : Bool) : WaveCore :=
  { c with s := Sparse.set 0 c.s r v, sMarks := Sparse.set false c.sMarks r mark }

/-- The lanes that have not exited. -/
def WaveCore.live (c : WaveCore) : BitVec 32 :=
  (List.range 32).foldl (fun m n => setBit m n (!(c.lane n).exited)) 0

/-- Change each lane by its number. -/
def WaveCore.mapLanes (c : WaveCore) (f : Nat → Lane → Lane) : WaveCore := { c with lanes := c.lanes.mapIdx f }

/-- Change the core of a wave. -/
def Wave.modCore (w : Wave) (f : WaveCore → WaveCore) : Wave := { w with core := f w.core }

/-! ### The parts of the state -/

/-- Stack st; beyond the twelve, a stack at reset. -/
def State.stack (s : State) (st : Nat) : Stack := s.stackTab.getD st Stack.reset

/-- Change one stack. -/
def State.modStack (s : State) (st : Nat) (f : Stack → Stack) : State :=
  { s with stackTab := s.stackTab.modify st f }

/-- Partition p. -/
def State.partition (s : State) (p : Nat) : Partition := s.partitions.getD p Partition.reset

/-- Change one partition. -/
def State.modPartition (s : State) (p : Nat) (f : Partition → Partition) : State :=
  { s with partitions := s.partitions.modify p f }

/-- The stacks of a partition: enabled, with its number (R387). -/
def State.members (s : State) (p : Nat) : List Nat :=
  (List.range 12).filter (fun st => (s.stack st).enable && (s.stack st).partNum == p)

/-- Change one gang. -/
def State.modGang (s : State) (g : Nat) (f : Gang → Gang) : State := { s with gangs := amod s.gangs g f }

/-- Wave w of gang g. -/
def State.wave (s : State) (g w : Nat) : Option Wave := (aget s.gangs g).bind (fun x => x.waves[w]?)

/-- The waves of every gang. -/
def State.allWaves (s : State) : List (Nat × Nat) :=
  s.gangs.flatMap (fun p => (List.range p.2.waves.length).map (fun w => (p.1, w)))

/-- Change one wave. -/
def State.modWave (s : State) (g w : Nat) (f : Wave → Wave) : State :=
  s.modGang g (fun x => { x with waves := x.waves.modify w f })

/-- Put a wave in its place. -/
def State.setWave (s : State) (g w : Nat) (v : Wave) : State := s.modWave g w (fun _ => v)

/-- Change one launch. -/
def State.modLaunch (s : State) (l : Nat) (f : Launch → Launch) : State := { s with launches := amod s.launches l f }

/-- Change one context. -/
def State.modContext (s : State) (c : Nat) (f : Context → Context) : State := { s with contexts := amod s.contexts c f }

/-- Change one queue. -/
def State.modQueue (s : State) (q : Nat) (f : Queue → Queue) : State := { s with queues := amod s.queues q f }

/-- The launch of a gang. -/
def State.launchOf (s : State) (g : Gang) : Option Launch := aget s.launches g.launch

/-- The context of a gang; 4096, which no context has, when the gang has no launch. -/
def State.ctxOf (s : State) (g : Gang) : Nat := ((aget s.launches g.launch).map Launch.ctx).getD 4096

/-- A choice among n outcomes of a latitude (R10), by the key of its use; with one outcome nothing is chosen. -/
def State.chooseAt (s : State) (key : List Nat) (n : Nat) : Nat := if n ≤ 1 then 0 else Config.choice s.tick key % n

/-- The same for a use that has one key a step. -/
def State.choose (s : State) (label n : Nat) : Nat := s.chooseAt [label] n

/-- Add to a counter of R443. -/
def Stack.count (t : Stack) (offset n : Nat) : Stack :=
  { t with counters := Sparse.set 0 t.counters offset (Sparse.get 0 t.counters offset + BitVec.ofNat 64 n) }

/-! ### Issue -/

/-- An instruction at issue: its gang, wave and frontier entry, the lanes in which it is active (R106), whether it is
a switch point through a Stall row of R19, which enters no latch (R17), and whether it splits its entry or changes the
entry's priority, so that the next instruction is a switch point (R156). -/
structure Issue where
  g : Nat
  w : Nat
  k : Nat
  gang : Gang
  wave : Wave
  entry : Entry
  active : BitVec 32
  quiet : Bool
  parts : Bool
  deriving DecidableEq, Repr

/-- The lanes of an entry that its guard run leaves active (R106, R165). -/
def Entry.active (e : Entry) : BitVec 32 := if e.guard.count = 0 then e.lanes else e.lanes &&& e.guard.mask

/-- Some fault of the halt line names this wave as its source (R411). -/
def State.faulted (s : State) (g w : Nat) : Bool :=
  s.partitions.any (fun p => p.faults.any (fun h => h.src == some (g, w)))

/-- The gang's context is on the evict rung (R402, R403). -/
def State.evicting (s : State) (gang : Gang) : Bool :=
  match aget s.contexts (s.ctxOf gang) with
  | none => false
  | some c => match c.rung with | .evict _ _ _ => true | _ => false

/-- The wave may issue: resident and not parked, not retired, and stopped neither by the halt line nor for its eviction
(R16, R163, R403, R411). -/
def State.waveRuns (s : State) (g w : Nat) (gang : Gang) (wave : Wave) : Bool :=
  gang.state == .resident && !wave.retired && !wave.parked && !(s.stack gang.stack).haltArrived && !s.faulted g w &&
  !s.evicting gang

/-- The issuing wave and entry that `cur` names: ready and not set aside, in a wave that may issue. -/
def State.issuing (s : State) : Option Issue :=
  match s.cur with
  | none => none
  | some (g, w, k) =>
    match aget s.gangs g with
    | none => none
    | some gang =>
      match gang.waves[w]? with
      | none => none
      | some wave =>
        match wave.core.frontier[k]? with
        | none => none
        | some e => if e.state == .ready && !e.aside && s.waveRuns g w gang wave then
            some ⟨g, w, k, gang, wave, e, e.active, false, false⟩ else none

/-- Some per-lane field of the list names architectural register r in some lane of the entry. -/
def namesArch (c : WaveCore) (lanes : BitVec 32) (fs : List (Reg × Nat)) (r : Nat) : Bool :=
  fs.any (fun p => decide (p.1.toNat < 120) && (bitsOf lanes).any (fun n =>
    let a := (c.lane n).arch p.1.toNat
    decide (a ≤ r) && decide (r < a + p.2)))

/-- Some pending result of an earlier instruction still writes a register the instruction names (R19, R198): a load in
flight, an access that a diversion left held, in the registers that its lanes issued with, or a QR blocked in another
entry. -/
def scoreboardHolds (i : Instr) (w : Wave) (e : Entry) : Bool :=
  let o := operands i
  let one := fun (n r : Nat) => has e.lanes n && namesArch w.core (setBit 0 n true) (o.vr ++ o.vw) r
  w.loads.any (fun p => p.writes.any (fun x => one x.lane x.reg)) ||
  w.left.any (fun h => (operands h.access.instr).vw.any (fun p => (bitsOf h.access.lanes).any (fun n =>
    (List.range p.2).any (fun j => one n ((h.core.lane n).arch (p.1.toNat + j)))))) ||
  w.core.frontier.any (fun f => match f.state with
    | .blocked (.qr d _) => (o.ur ++ o.uw).contains d
    | _ => false)

/-- The instruction is TKW. -/
def isTkw (i : Instr) : Bool := match i with | .tkwSrc _ => true | .tkwVis _ => true | _ => false

/-- The instruction reads or writes a uniform register that holds a pending token; TKW reads its token without waiting
(R23, R209). -/
def tokenHolds (i : Instr) (w : Wave) : Bool :=
  let o := operands i
  !isTkw i && (o.ur ++ o.uw).any (fun r => w.pending.contains r.toNat)

/-- The instruction reads or writes a register that a stall-class instruction wrote (fourth row of R19). DESIGN CHOICE
(assumption 103): a per-lane register counts as named in every lane of the issuing entry, also in those that a GUARD
run masks off. -/
def stallMarked (i : Instr) (c : WaveCore) (e : Entry) : Bool :=
  let o := operands i
  c.stallV.any (fun p => namesArch c e.lanes (o.vr ++ o.vw) p.1) ||
  (o.ur ++ o.uw).any (fun r => has c.stallS r.toNat) || (o.pr ++ o.pw).any (fun p => has c.stallP p.toNat)

/-- The issuing entry's lanes or priority differ from those of the wave's previous instruction (R19, R156). -/
def frontierSwitch (c : WaveCore) (e : Entry) : Bool := c.last != some (e.lanes, e.prio)

/-- The instruction has stalled on a pending token before (fifth row of R19). -/
def tokenStalled (c : WaveCore) (e : Entry) : Bool := c.tokenWait == some (e.lanes, e.pc)

/-- The instruction is a switch point through a Stall row of R19. -/
def stallSwitch (i : Instr) (c : WaveCore) (e : Entry) : Bool :=
  stallClass i || stallMarked i c e || tokenStalled c e

/-- The wave's core as the instruction issues: a switch point empties the latches; the fourth row of R19 also clears
every stall mark. -/
def atIssue (i : Instr) (c : WaveCore) (e : Entry) : WaveCore :=
  let marked := stallMarked i c e
  let c := if marked then { c with stallV := [], stallS := 0, stallP := 0 } else c
  if stallClass i || marked || tokenStalled c e || frontierSwitch c e then { c with latchCount := 0 } else c

/-- The lowest stale latch the instruction names as a source (R20, R57): bk with k at or above the latch count. A
32-bit compare-and-swap names two latches (R76). -/
def staleLatch (i : Instr) (count : Nat) : Option Nat :=
  let ks := (operands i).vr.filterMap (fun p => if 120 ≤ p.1.toNat then some (p.1.toNat - 120) else none)
  (ks.filter (fun k => count ≤ k)).foldl (fun m k => match m with
    | none => some k
    | some j => some (min j k)) none

/-- Queue register q is bound for the gang: q0 to q5 always, q8 to q15 by the kernel's FIFO declarations (R25). -/
def queueBound (g : Gang) (q : Nat) : Bool :=
  decide (q < 6) || (decide (8 ≤ q) && decide (q - 8 < g.fifos.length))

/-- The step-1 checks that depend on where a word issues (R25, R51, R167, R242). -/
def illegalHere (i : Instr) (g : Gang) (c : WaveCore) (e : Entry) : Bool :=
  (decide (0 < e.guard.count) && guardForbidden i) ||
  (match i with
   | .tret => !c.handler
   | .qw q _ => !queueBound g q.toNat
   | .qr _ q => !queueBound g q.toNat
   | .qrt _ q _ => !queueBound g q.toNat
   | .qst _ q => !queueBound g q.toNat
   | .illegalInstruction _ => true
   | _ => false)

/-- An instruction that a GUARD run must not cover ends the run as it traps: nothing of it is left to resume (R167;
DEDUCED, assumption 13). -/
def Issue.endRun (c : Issue) (i : Instr) : Issue :=
  if guardForbidden i then { c with entry := { c.entry with guard := ⟨0, 0⟩ } } else c

/-- What happens to an instruction as it comes to issue, in the order of R79. -/
inductive Decision
  /-- no ready entry of a resident wave issues -/
  | absent
  /-- the wave stalls: nothing issues, and a pending token has emptied the latches -/
  | hold (s : State)
  /-- the illegal-instruction trap of the whole word -/
  | illegal (c : Issue)
  /-- the stale-latch trap, with the lowest latch -/
  | stale (c : Issue) (k : Nat)
  /-- the instruction executes -/
  | go (c : Issue)
  deriving DecidableEq, Repr

/-- A speculating wave stalls before an instruction (R336); the stall is counted once (R443). -/
def Issue.specStall (c : Issue) (s : State) (counter : Nat) : State :=
  match c.wave.spec with
  | none => s
  | some sp =>
    if sp.stalled then s
    else (s.modStack c.gang.stack (fun t => t.count counter 1)).modWave c.g c.w
      (fun x => { x with spec := x.spec.map (fun y => { y with stalled := true }) })

/-- The wave waits for an access that is held, or for its handler entry (R179, R239). -/
def Wave.waits (w : Wave) : Bool := w.held.isSome || w.entering

/-- These lanes of a wave come after these stores too. -/
def WaveCore.learnIn (c : WaveCore) (lanes : BitVec 32) (v : Seen) : WaveCore :=
  if v.isEmpty then c
  else c.mapLanes (fun n l =>
    if has lanes n then { l with know := { l.know with view := Seen.join l.know.view v } } else l)

/-- Every lane of a wave comes after these stores too. -/
def WaveCore.learn (c : WaveCore) (v : Seen) : WaveCore := c.learnIn 0xFFFFFFFF v

/-- What the wave learns by observing vis in the tokens that an instruction reads (R292); TKW.src observes srcfree
alone. -/
def Wave.observed (w : Wave) (i : Instr) : Seen :=
  match i with
  | .tkwSrc _ => []
  | _ => ((operands i).ur.filterMap (fun r => aget w.tokens r.toNat)).foldl Seen.join []

/-- The issue as the word comes to execute: a switch point has emptied the latches, and whether it is one through a Stall
row is noted (R17, R19); the wave has observed the tokens it reads, and a register that it writes is no token any more. -/
def Issue.issues (c : Issue) (i : Instr) : Issue :=
  { c with
    wave := { c.wave with
      core := (atIssue i c.wave.core c.entry).learn (c.wave.observed i)
      tokens := c.wave.tokens.filter (fun p => !(operands i).uw.any (fun r => r.toNat == p.1)) }
    quiet := stallSwitch i c.wave.core c.entry }

/-- A speculating wave stalls before a non-speculable instruction, and after a held fault before every one (R336,
R337). -/
def Issue.unlessSpec (c : Issue) (i : Instr) (s : State) : Decision :=
  match c.wave.spec with
  | some sp =>
    if sp.fault.isSome then .hold s
    else if nonSpec i then .hold (c.specStall s 0x0C8)
    else .go c
  | none => .go c

/-- The wave as an instruction stalls on a pending token: its latches are lost (R17, R19, R23). -/
def Issue.tokenStall (c : Issue) (s : State) : State :=
  s.setWave c.g c.w (c.wave.modCore (fun x =>
    { x with latchCount := 0, tokenWait := some (c.entry.lanes, c.entry.pc) }))

/-- The checks before execution: stalls (R19, R23, R179, R336), then step 1 and step 2 of R79. -/
def decideIssue (i : Instr) (s : State) : Decision :=
  match s.issuing with
  | none => .absent
  | some c =>
    if c.wave.waits then .hold s
    else if illegalHere i c.gang c.wave.core c.entry then .illegal (c.endRun i)
    else if tokenHolds i c.wave then .hold (c.tokenStall s)
    else if scoreboardHolds i c.wave c.entry then .hold s
    else match staleLatch i (c.issues i).wave.core.latchCount with
      | some k => .stale (c.issues i) k
      | none => (c.issues i).unlessSpec i s

/-! ### Completion -/

/-- Registers that a stall-class instruction writes in these lanes are marked for the fourth row of R19; in no lane it
writes none. -/
def markStalls (i : Instr) (c : WaveCore) (lanes : BitVec 32) : WaveCore :=
  if stallClass i && lanes != 0 then
    let o := operands i
    let vs := (bitsOf lanes).flatMap (fun n => o.vw.flatMap (fun p =>
      (List.range p.2).map (fun j => (c.lane n).arch (p.1.toNat + j))))
    { c with
      stallV := vs.foldl (fun m r => Sparse.set false m r true) c.stallV,
      stallS := o.uw.foldl (fun m r => setBit m r.toNat true) c.stallS,
      stallP := o.pw.foldl (fun m p => if p == 0 then m else setBit m p.toNat true) c.stallP }
  else c

/-- The entry after an instruction that does not transfer control: PC + 4, and one instruction less of its guard run
(R154, R165). -/
def Entry.next (e : Entry) : Entry :=
  { e with pc := e.pc + 4, guard := if e.guard.count ≤ 1 then ⟨0, 0⟩ else { e.guard with count := e.guard.count - 1 } }

/-- Replace entry k, or remove it when it holds no lane. -/
def putEntry (f : List Entry) (k : Nat) (e : Entry) : List Entry := if e.lanes = 0 then f.eraseIdx k else f.set k e

/-- An MXRD of this entry has waited since: the key of the first operation queued after it (R225). -/
def Issue.readFrom (c : Issue) : Option Nat :=
  match c.wave.reading with
  | some (lanes, pc, n) => if lanes = c.entry.lanes ∧ pc = c.entry.pc then some n else none
  | none => none

/-- The wave records what it issued, for the frontier row of R19 and for the issue order of R264. -/
def Issue.note (c : Issue) (s : State) (w : Wave) : Wave :=
  { w with
    core := { w.core with last := if c.parts then none else some (c.entry.lanes, c.entry.prio), tokenWait := none }
    issued := s.tick
    aged := false
    progress := (s.stack c.gang.stack).now
    lastPc := c.entry.pc
    reading := if c.readFrom.isSome then none else w.reading }

/-- The wave after the instruction completed in place: the entry advances. -/
def Issue.advance (c : Issue) (i : Instr) (s : State) (core : WaveCore) : Wave :=
  c.note s { c.wave with
    core := markStalls i { core with frontier := putEntry core.frontier c.k c.entry.next } c.active }

/-- The state after the instruction completed in place with this core. -/
def Issue.done (c : Issue) (i : Instr) (s : State) (core : WaveCore) : State :=
  s.setWave c.g c.w (c.advance i s core)

/-- Lane n is active. -/
def Issue.on (c : Issue) (n : Nat) : Bool := has c.active n

/-- A lane of the issuing entry that a guard run masks off. -/
def Issue.masked (c : Issue) (n : Nat) : Bool := has c.entry.lanes n && !has c.active n

/-- The lowest-numbered active lane. -/
def Issue.first (c : Issue) : Nat := (bitsOf c.active).headD 0

/-- Some lane is active; a uniform instruction acts only then (R106). -/
def Issue.any (c : Issue) : Bool := c.active != 0

/-- A lane takes a result: under nw it goes to no register, and at a Stall switch point to no latch (R17, R18, R54). -/
def Issue.take (c : Issue) (nw wide : Bool) (d : Reg) (v : W64) (mark : Bool) (l : Lane) : Lane :=
  let l := if nw then l else l.put wide d v mark
  if c.quiet then l else l.pushLatch v mark

/-- A lane that takes no result: its destination's value enters b0 (R18, R133), but for a Stall switch point (R17). -/
def Issue.keep (c : Issue) (nw wide : Bool) (d : Reg) (l : Lane) : Lane :=
  if c.quiet then l else l.keepLatch nw wide d

/-- The latch count after the instruction: it rises when a result entered the latches (R17, R18). -/
def Issue.latchesAfter (c : Issue) : Nat :=
  if c.quiet then c.wave.core.latchCount else min 8 (c.wave.core.latchCount + 1)

/-- The core after an instruction with a per-lane result that traps in no lane: active lanes write the result and take it
into b0, masked lanes keep their destination in b0, and the count rises (R17, R18, R54). -/
def Issue.valued (c : Issue) (nw wide : Bool) (d : Reg) (f : Nat → Lane → W64 × Bool) : WaveCore :=
  { c.wave.core.mapLanes (fun n l =>
      if c.on n then c.take nw wide d (f n l).1 (f n l).2 l
      else if c.masked n then c.keep nw wide d l
      else l) with
    latchCount := c.latchesAfter }

/-- The core after an instruction that writes a predicate in each active lane. -/
def Issue.predicated (c : Issue) (q : BitVec 4) (f : Nat → Lane → Bool × Bool) : WaveCore :=
  c.wave.core.mapLanes (fun n l => if c.on n then l.putPred q (f n l).1 (f n l).2 else l)

/-- The core after an instruction that writes a uniform register once for the wave (R106). -/
def Issue.uniform (c : Issue) (d : Reg) (f : WaveCore → W64 × Bool) : WaveCore :=
  if c.any then c.wave.core.putUni d.toNat (f c.wave.core).1 (f c.wave.core).2 else c.wave.core

end Sys2Proof.Machine
end

