-- ==== Sys2Proof/Machine/Memory.lean ====
section
/-! DEFINITION. Where an access goes and what it finds: the spaces of R176, the scratchpad aperture of R275, natural
alignment and pieces (R178), the page-table walk and its refusals (R393 to R395), the translation caches (R396), the
placement table (R399), the routing of system addresses (R355), what a read may return (R285, R286), and writes of bytes
with poison (R180). -/
namespace Sys2Proof.Machine

/-- Kinds of access, with the codes of event 0x0101 (R416). -/
inductive Access | load | store | atomic | fetch | engine | matrix | trapRecord | command
  deriving DecidableEq, Repr

/-- The code of an access kind in a page request (R416). -/
def Access.code : Access → Nat
  | .load => 0 | .store => 1 | .atomic => 2 | .fetch => 3 | .engine => 4 | .matrix => 5 | .trapRecord => 6 | .command => 7

/-- Stop-record reasons (R414). -/
def reasonProtection : Nat := 1
def reasonPoison : Nat := 2
def reasonTranslation : Nat := 3
def reasonWatchdog : Nat := 4
def reasonDoubleTrap : Nat := 5
def reasonNoHandler : Nat := 6
def reasonBadReturn : Nat := 7
def reasonReset : Nat := 8

/-! ### Physical addresses -/

/-- Bytes of HBM behind one stack number in a physical address (R274). -/
def stackSpan : Nat := 2 ^ 36

/-- PA[51:36] at most 11 is local HBM (R355). -/
def isLocal (pa : Nat) : Bool := decide (pa < 12 * stackSpan)

/-- The stack that owns a local physical address (R274). -/
def homeStack (pa : Nat) : Nat := pa / stackSpan

/-- A route entry that is in use: valid, class not 3, egress not above 11 (R355). -/
def routeValid (e : W64 × W64) : Bool :=
  has e.1 0 && e.1.extractLsb' 1 2 != 3 && decide ((e.2.extractLsb' 4 4).toNat < 12)

/-- The window of a route entry or host window holds the address: base to limit in units of 1 GiB (R355, R388). -/
def windowHolds (e : W64 × W64) (pa : Nat) : Bool :=
  decide ((e.1.extractLsb' 30 22).toNat ≤ pa / 2 ^ 30) && decide (pa / 2 ^ 30 ≤ (e.2.extractLsb' 30 22).toNat)

/-- The egress stack of a system address: the valid route entry of lowest index that holds it (R355). -/
def Stack.egress (t : Stack) (pa : Nat) : Option Nat :=
  (t.routes.find? (fun e => routeValid e && windowHolds e pa)).map (fun e => (e.2.extractLsb' 4 4).toNat)

/-- A stack takes part in its partition: its mask names the partition's stacks (R387), and they hold one configuration
(R427). -/
def State.maskAgrees (s : State) (st : Nat) : Bool :=
  let t := s.stack st
  let all := s.members t.partNum
  t.partMask == all.foldl (fun m k => setBit m k true) 0 && all.all (fun k => (s.stack k).configHash == t.configHash)

/-- A ring transfer between two stacks is accepted: a stack whose mask disagrees takes part in none (R387, R427), and the
partition numbers are equal (R388). -/
def State.ringOpen (s : State) (src dst : Nat) : Bool :=
  src == dst || (s.maskAgrees src && s.maskAgrees dst && (s.stack src).partNum == (s.stack dst).partNum)

/-- A physical address that the partition can reach from a stack: backed local HBM of a member stack over an open ring, or
a routed system address (R355, R387, R395, R429). DESIGN CHOICE (assumption 104): an access that the ring refuses is a
protection violation. -/
def State.reachable (s : State) (part st pa : Nat) : Bool :=
  if isLocal pa then
    let t := s.stack (homeStack pa)
    t.enable && t.partNum == part && decide (pa % stackSpan < t.capacity) && s.ringOpen st (homeStack pa)
  else ((s.stack st).egress pa).isSome && decide (pa < 2 ^ 52)

/-- The CXL port that a physical address uses from a stack, if it is a system address (R355). -/
def State.port (s : State) (st pa : Nat) : Option Nat := if isLocal pa then none else (s.stack st).egress pa

/-- The port is down for the accesses of stack st to pa (R354). A request to an egress stack that the ring does not
reach is dropped (R388) and ends in the same way (DESIGN CHOICE, assumption 104). -/
def State.portDown (s : State) (st pa : Nat) : Bool :=
  match s.port st pa with
  | none => false
  | some p => !(s.stack p).linkUp || !s.ringOpen st p

/-- A new system request of a frozen stack waits in its origin queue (R357). -/
def State.frozenFor (s : State) (st pa : Nat) : Bool := !isLocal pa && (s.stack st).freeze

/-- The numbers of the 128-byte lines that n bytes touch (R1). -/
def linesOf (pa n : Nat) : List Nat :=
  if n = 0 then [] else (List.range ((pa + n - 1) / 128 - pa / 128 + 1)).map (fun i => pa / 128 + i)

/-- The host lines that an access of n bytes must first recall (R350): any copy for a write, an M copy for a read. -/
def State.snoopLines (s : State) (pa n : Nat) (write : Bool) : List Nat :=
  if !isLocal pa then []
  else (linesOf pa n).filter (fun line =>
    (s.stack (homeStack pa)).snoops.any (fun x => x.line == line && (write || x.dirty)))

/-! ### The placement table -/

/-- The placement-table entry of a virtual page; a reserved bit or a home above 11 makes it absent (R399). -/
def State.placement (s : State) (ctx va : Nat) : Option (BitVec 16) :=
  match aget s.contexts ctx with
  | none => none
  | some c =>
    let page := va - va % 65536
    let idx := (page - c.placeBase) / 65536
    if page < c.placeBase ∨ c.placeCount ≤ idx then none
    else
      let e : BitVec 16 := BitVec.ofNat 16 (leNat (readBytes s.mem (c.placeTable + 2 * idx) 2))
      if !has e 15 || has e 12 || e.extractLsb' 4 4 != 0 || decide (11 < (e.extractLsb' 0 4).toNat) then none else some e

/-- The table makes the page a memory-side page (R280, R399). -/
def State.memorySide (s : State) (ctx va : Nat) : Bool := ((s.placement ctx va).map (fun e => has e 13)).getD false

/-! ### Translation -/

/-- What the device takes the memory-side bit of a page to be (R399): as it found it when it first translated the
page, until an invalidation drops that. -/
def State.sideOf (s : State) (ctx va : Nat) : Bool :=
  (s.stackTab.findSome? (fun t =>
    (t.tlb.stack.find? (fun e => e.ctx == ctx && e.vbase == va - va % 65536)).map (fun e => e.leaf.side))).getD (s.memorySide ctx va)

/-- The end of a walk or of a translation: a physical address with the leaf, a hold on a demand-faulted page, a wait
for host lines or for a frozen route, or a refusal with its stop-record reason. -/
inductive Trans
  | ok (pa : Nat) (leaf : Leaf)
  | hold
  | wait (lines : List Nat)
  | refused (reason : Nat)
  deriving DecidableEq, Repr

/-- The levels of a walk: index shift, index bits, alignment of the next table, leaf size if a leaf may stand there
(R393). -/
def walkLevels : List (Nat × Nat × Nat × Option Nat) :=
  [(48, 8, 4096, none), (39, 9, 4096, none), (30, 9, 4096, some (2 ^ 30)), (21, 9, 256, some (2 ^ 21)),
   (16, 5, 1, some (2 ^ 16))]

/-- Reserved bits of a table or leaf entry: [61], [60:52], [6:4] and [0] (R394). -/
def entryReserved (e : W64) : Bool := e.extractLsb' 52 10 != 0 || e.extractLsb' 4 3 != 0 || has e 0

/-- PA[51:8] of an entry (R394). -/
def entryAddress (e : W64) : Nat := (e.extractLsb' 8 44).toNat * 256

/-- The walk from a table (R393 to R395). A poisoned or unreachable entry ends it as an unrecoverable failure; its
reads wait for the host's dirty lines and for a frozen route like any other (R350, R357). -/
def walk (s : State) (ctx part st va table : Nat) : List (Nat × Nat × Nat × Option Nat) → Trans
  | [] => .refused reasonTranslation
  | (shift, width, nextAlign, leaf) :: rest =>
    let at_ := table + 8 * (va / 2 ^ shift % 2 ^ width)
    if !s.reachable part st at_ || s.portDown st at_ || poisoned s.poison at_ 8 then .refused reasonTranslation
    else if s.frozenFor st at_ then .wait []
    else if !(s.snoopLines at_ 8 false).isEmpty then .wait (s.snoopLines at_ 8 false)
    else
      let e : W64 := BitVec.ofNat 64 (leNat (readBytes s.mem at_ 8))
      match (e.extractLsb' 62 2).toNat with
      | 0 => if has e 61 then .hold else .refused reasonTranslation
      | 1 =>
        if rest.isEmpty || entryReserved e || entryAddress e % nextAlign != 0 then .refused reasonTranslation
        else walk s ctx part st va (entryAddress e) rest
      | 2 =>
        match leaf with
        | none => .refused reasonTranslation
        | some size =>
          if entryReserved e || entryAddress e % size != 0 then .refused reasonTranslation
          else .ok (entryAddress e + va % size) ⟨e, s.sideOf ctx va⟩
      | _ => .refused reasonTranslation

/-- The leaf grants the access (R394, R395): loads r, stores w, atomics both, fetches x. -/
def leafAllows (leaf : W64) (a : Access) (write : Bool) : Bool :=
  match a with
  | .fetch => has leaf 3
  | .atomic => has leaf 1 && has leaf 2
  | _ => if write then has leaf 2 else has leaf 1

/-- The cached translation of a page in one level (R396). -/
def cachedIn (l : List TlbEntry) (ctx va : Nat) : Option TlbEntry :=
  l.find? (fun e => e.ctx == ctx && e.vbase == va - va % 65536)

/-- The levels that an access from a core, or of an engine, looks up (R396). -/
def Tlb.levels (t : Tlb) (core : Option Nat) : List (List TlbEntry) :=
  (match core with | none => [] | some c => [t.cores.getD c [], t.clusters.getD (c / 4 % 4) []]) ++ [t.stack]

/-- Translate a virtual address for a context, from a core of a stack. A level that has not dropped its entry may be
used or not (R298): that choice is free for each piece of each lane. -/
def State.translate (s : State) (ctx st : Nat) (core : Option Nat) (lane va : Nat) (a : Access) (write : Bool) : Trans :=
  match aget s.contexts ctx with
  | none => .refused reasonTranslation
  | some c =>
    let found : List Trans := walk s ctx c.partition st va c.root walkLevels ::
      ((s.stack st).tlb.levels core).filterMap (fun l =>
        (cachedIn l ctx va).map (fun e => Trans.ok (e.pbase + va % 65536) e.leaf))
    match found.getD (s.chooseAt [1, st, lane, va] found.length) (.refused reasonTranslation) with
    | .ok pa leaf =>
      if !leafAllows leaf.bits a write || !s.reachable c.partition st pa then .refused reasonProtection
      else .ok pa leaf
    | x => x

/-- Keep an entry in a level of so many entries; the oldest leaves (R396). -/
def fillLevel (n : Nat) (e : TlbEntry) (l : List TlbEntry) : List TlbEntry :=
  if (cachedIn l e.ctx e.vbase).isSome then l else (e :: l).take n

/-- Keep a translation in the caches that the access used: 128 entries for each core, 2048 for each cluster, 16,384
for the stack (R396). -/
def State.fillTlb (s : State) (ctx st : Nat) (core : Option Nat) (va pa : Nat) (leaf : Leaf) : State :=
  let e : TlbEntry := ⟨ctx, va - va % 65536, pa - pa % 65536, leaf⟩
  s.modStack st (fun t => { t with tlb := match core with
    | none => { t.tlb with stack := fillLevel 16384 e t.tlb.stack }
    | some c => { stack := fillLevel 16384 e t.tlb.stack
                  clusters := t.tlb.clusters.modify (c / 4 % 4) (fillLevel 2048 e)
                  cores := t.tlb.cores.modify c (fillLevel 128 e) } })

/-- The caches drop what a range of a context has in them (R397). -/
def Tlb.drop (t : Tlb) (ctx lo hi : Nat) : Tlb :=
  let keep := fun (l : List TlbEntry) =>
    l.filter (fun e => !(e.ctx == ctx && decide (e.vbase < hi) && decide (lo < e.vbase + 65536)))
  { stack := keep t.stack, clusters := t.clusters.map keep, cores := t.cores.map keep }

/-! ### Virtual addresses and spaces -/

/-- Where one naturally aligned piece of an access goes. -/
inductive Target
  | spd (off : Nat)
  | mem (pa : Nat) (leaf : Leaf) (va : Nat)
  deriving DecidableEq, Repr

/-- What the checks of R179 make of one lane's access; `wait` names the host lines to recall, if any. -/
inductive Fate
  | ok (pieces : List (Target × Nat))
  | trap
  | hold (page : Nat)
  | wait (lines : List Nat)
  | fault (reason : Nat) (va : Nat)
  deriving DecidableEq, Repr

/-- First address of the scratchpad aperture (R275). -/
def apertureBase : Nat := 0x00FE000000000000
/-- Size of the scratchpad aperture (R275). -/
def apertureSize : Nat := 0x400000
/-- The address lies in the aperture (R275). -/
def inAperture (va : Nat) : Bool := decide (apertureBase ≤ va) && decide (va < apertureBase + apertureSize)

/-- The spaces an address is read in (R176). -/
inductive Sp | gen | glb | spd | cst | ms
  deriving DecidableEq, Repr

end Sys2Proof.Machine

namespace Sys2Proof

/-- The space of a load. -/
def Space.sp : Space → Machine.Sp
  | .gen => .gen | .glb => .glb | .spd => .spd | .cst => .cst
/-- The space of a store or ordinary atomic. -/
def WSpace.sp : WSpace → Machine.Sp
  | .gen => .gen | .glb => .glb | .spd => .spd

end Sys2Proof

namespace Sys2Proof.Machine

/-- The size of the naturally aligned pieces of an access: the largest power of two that divides the address and does
not exceed the size (R178). Sizes are powers of two up to 16. -/
def pieceSize (addr size : Nat) : Nat :=
  if addr % size = 0 then size
  else if 8 ≤ size ∧ addr % 8 = 0 then 8
  else if 4 ≤ size ∧ addr % 4 = 0 then 4
  else if 2 ≤ size ∧ addr % 2 = 0 then 2
  else 1

/-- One request of a lane: space, 64-bit address, size, whether R178 demands alignment, kind of access, and whether it
writes. `marked` is the poison mark of its address (check 1 of R179); `core` and `lane` say who translates. -/
structure Request where
  sp : Sp
  addr : Nat
  size : Nat
  aligned : Bool
  access : Access
  write : Bool
  marked : Bool
  core : Option Nat
  lane : Nat
  deriving DecidableEq, Repr

/-- Checks 3 and 4 of R179 for one aligned piece. `spad` is the kernel's scratchpad size. -/
def State.pieceFate (s : State) (ctx st spad : Nat) (r : Request) (addr n : Nat) : Fate :=
  let scratch := fun off => if off + n ≤ spad then Fate.ok [(.spd off, n)] else .fault reasonProtection r.addr
  match r.sp with
  | .spd => scratch addr
  | sp =>
    if 2 ^ 56 ≤ addr then .fault reasonProtection r.addr
    else if inAperture addr then
      (if sp = .gen then scratch (addr - apertureBase) else .fault reasonProtection r.addr)
    else match s.translate ctx st r.core r.lane addr r.access r.write with
      | .hold =>
        let page := addr - addr % 65536
        -- a held access whose page is refused is an unrecoverable translation failure (R398)
        if (aget s.contexts ctx).any (fun c => c.refusing == some page) then .fault reasonTranslation r.addr else .hold page
      | .wait lines => .wait lines
      | .refused reason => .fault reason r.addr
      | .ok pa leaf =>
        if sp = .ms && !isLocal pa then .fault reasonProtection r.addr
        -- an atomic on an uncached system page is a protection violation (R353)
        else if r.access = .atomic && !isLocal pa && !has leaf.bits 7 then .fault reasonProtection r.addr
        else .ok [(.mem pa leaf addr, n)]

/-- The pieces of an access in rising order; the first piece that fails decides. -/
def State.piecesFate (s : State) (ctx st spad : Nat) (r : Request) (n : Nat) : Nat → Nat → Fate
  | _, 0 => .ok []
  | addr, k + 1 =>
    match s.pieceFate ctx st spad r addr n with
    | .ok ps =>
      match s.piecesFate ctx st spad r n (addr + n) k with
      | .ok qs => .ok (ps ++ qs)
      | f => f
    | f => f

/-- The checks of R179 for one lane, in their order. -/
def State.fate (s : State) (ctx st spad : Nat) (r : Request) : Fate :=
  if r.marked then .fault reasonPoison r.addr
  else if r.aligned && r.addr % r.size != 0 then .trap
  else
    let n := pieceSize r.addr r.size
    s.piecesFate ctx st spad r n r.addr (r.size / n)

/-! ### What has happened at a location (R284 to R286) -/

/-- Engine and matrix operations have no program order among their own accesses (R284), and CXL.mem gives the requests
of agents outside none among different lines (R349). -/
def forkedThread (t : Nat) : Bool := t % 8 == 1 || t == hostThread

/-- The first store happens before the second: by program order or by what the second's thread knew (R284). -/
def Stored.before (y x : Stored) : Bool :=
  (y.thread == x.thread && !forkedThread y.thread && decide (y.stamp < x.stamp)) ||
  decide (y.stamp < Sparse.get 0 x.view y.thread)

/-- A store covers a byte. -/
def Stored.covers (x : Stored) (a : Nat) : Bool := decide (x.addr ≤ a) && decide (a < x.addr + x.new.length)

/-- Who makes an access (R282, R283): its wave, its number as a thread, where it stands, its scope, and what orders it. -/
structure Agent where
  own : Option (Nat × Nat)
  thread : Nat
  place : Place
  scope : Scope
  know : Know
  deriving DecidableEq, Repr

/-- The store happens before the agent's next access. -/
def Agent.knows (a : Agent) (x : Stored) : Bool :=
  (x.thread == a.thread && !forkedThread a.thread) || decide (x.stamp < Sparse.get 0 a.know.view x.thread)

/-- The agent's access and the store are matched (R283). -/
def Agent.meets (a : Agent) (x : Stored) : Bool := Scope.spans a.scope a.place x.place && Scope.spans x.scope x.place a.place

/-- The agent's load comes after the store in coherence order at some byte: an earlier matched load of the agent returned
it or a later one there (R286). -/
def Agent.passed (a : Agent) (xs : List Stored) (x : Stored) : Bool :=
  a.meets x && a.know.floor.any (fun f => xs.any (fun y =>
    y.stamp == f.1 && decide (x.stamp ≤ y.stamp) && x.covers (y.addr + f.2)))

/-- The earlier store cannot lie on top of the later one for this agent: happens-before, or coherence of matched stores
(R285, R286). -/
def Agent.orders (a : Agent) (y x : Stored) : Bool :=
  y.before x || (a.meets y && a.meets x && decide (y.stamp < x.stamp))

/-- The records of one sector, newest first, wherever the page has been (R297); contents that no thread wrote end them. -/
def pastIn (space : Region) : Nat → List Past → List Stored
  | _, [] => []
  | a, .store x :: h => if x.space = space ∧ x.addr / 16 = a / 16 then x :: pastIn space a h else pastIn space a h
  | a, .move src dst :: h =>
    if space = .mem ∧ a / 65536 = dst / 65536 then
      (pastIn space (src + a % 65536) h).map (fun x => { x with addr := dst + x.addr % 65536 })
    else if space = .mem ∧ a / 65536 = src / 65536 then []
    else pastIn space a h
  | a, .fresh sp lo hi :: h => if sp = space ∧ lo ≤ a ∧ a < hi then [] else pastIn space a h

/-- The records of the sector of an address. -/
def State.past (s : State) (space : Region) (a : Nat) : List Stored := pastIn space (16 * (a / 16)) s.history

/-- What a read of a piece finds: its bytes, the poison of its sector, and the store that gave each byte, by address. -/
structure Got where
  bytes : List Byte
  mark : Bool
  tops : List (Nat × Stored)
  deriving DecidableEq, Repr

/-- Bytes of a piece at an address with those of a store laid over them. -/
def layOver (addr : Nat) (bs : List Byte) (at_ : Nat) (new : List Byte) : List Byte :=
  bs.mapIdx (fun i b => if at_ ≤ addr + i then new.getD (addr + i - at_) b else b)

/-- A store laid over what was found. -/
def Got.apply (addr : Nat) (g : Got) (x : Stored) : Got :=
  let mine := ((List.range g.bytes.length).map (fun i => addr + i)).filter x.covers
  { bytes := layOver addr g.bytes x.addr x.new
    mark := x.mark.getD g.mark
    tops := g.tops.filter (fun p => !x.covers p.1) ++ mine.map (fun a => (a, x)) }

/-- A store taken back. -/
def Got.undo (addr : Nat) (g : Got) (x : Stored) : Got :=
  { g with bytes := layOver addr g.bytes x.addr x.old, mark := x.oldMark }

/-- What stands at a place now, by the bytes and the poison of its table. -/
def presentIn (m : Sparse Byte) (p : Sparse Bool) (addr n : Nat) : Got := ⟨readBytes m addr n, poisoned p addr n, []⟩

/-- Extent of dimension k. -/
def Tensor.extent (t : Tensor) (k : Nat) : Nat := t.extents.getD k 1

/-- Stride of dimension k, 1 to 4. -/
def Tensor.stride (t : Tensor) (k : Nat) : Nat := t.strides.getD (k - 1) 0

/-- The image of an entry (R227). -/
def Tensor.image (t : Tensor) : List Byte :=
  natLe 1 t.format ++ natLe 1 t.sparsity ++ natLe 1 t.layout ++ natLe 1 t.dims ++ natLe 4 0 ++
  natLe 8 t.fill.toNat ++ natLe 8 t.base.toNat ++ (List.range 5).flatMap (fun k => natLe 4 (t.extent k)) ++ natLe 4 0 ++
  (List.range 4).flatMap (fun k => natLe 8 (t.stride (k + 1))) ++ natLe 8 t.scale.toNat ++ natLe 8 t.codebook.toNat ++
  List.replicate 32 0

/-- The image of an invalid entry: format 0xFF and zeros (R229). -/
def invalidImage : List Byte := natLe 1 0xFF ++ List.replicate 127 0

/-- The identifier entry of a context (R227); an invalid one is none. -/
def State.entry (s : State) (ctx id : Nat) : Option Tensor :=
  match aget s.contexts ctx with
  | none => none
  | some c => Sparse.get none c.tensors id

/-- The image of an entry that stands in the table. -/
def State.entryImage (s : State) (ctx id : Nat) : List Byte :=
  match s.entry ctx id with
  | some t => t.image
  | none => invalidImage

/-- The bytes and the poison of a region: memory, a gang's scratchpad, or the image of an entry. -/
def State.tables (s : State) (space : Region) : Sparse Byte × Sparse Bool :=
  match space with
  | .mem => (s.mem, s.poison)
  | .spad g => match aget s.gangs g with
    | none => ([], [])
    | some x => (x.spad, x.spadPoison)
  | .entry ctx id => (writeBytes [] 0 (s.entryImage ctx id), [])

/-- What stands at a place now, with the stores that it comes from: what an access finds that its order pins to the
present, such as an atomic (R286). -/
def State.present (s : State) (space : Region) (addr n : Nat) : Got :=
  let t := s.tables space
  { presentIn t.1 t.2 addr n with tops := ((s.past space addr).foldr (fun x g => Got.apply addr g x)
      ⟨List.replicate n 0, false, []⟩).tops }

/-- The stores in an order that the device chooses among those the agent's order allows; the key tells uses apart. -/
def State.sequence (s : State) (a : Agent) (key : List Nat) : Nat → List Stored → List Stored
  | 0, _ => []
  | n + 1, xs =>
    let free := xs.filter (fun x => !xs.any (fun y => a.orders y x))
    match free[s.chooseAt (key ++ [0, n]) free.length]? with
    | none => []
    | some x => x :: s.sequence a key n (xs.filter (fun y => y.stamp != x.stamp))

/-- What a read may find of some stores over what stood before them: those it needs, and any of the others. -/
def State.draw (s : State) (a : Agent) (key : List Nat) (addr : Nat) (base : Got) (xs : List Stored)
    (need : Stored → Bool) : Got :=
  let ys := xs.filter (fun x => need x || s.chooseAt (key ++ [1, x.stamp]) 2 == 1)
  (s.sequence a key ys.length ys).foldl (Got.apply addr) (xs.foldl (Got.undo addr) base)

/-- What a load of a piece finds (R285, R286): every store that happens before it or that coherence puts before it, any of
the others, in any order that happens-before and coherence allow. -/
def State.observe (s : State) (a : Agent) (key : List Nat) (space : Region) (addr n : Nat) : Got :=
  let t := s.tables space
  let xs := s.past space addr
  s.draw a key addr (presentIn t.1 t.2 addr n) xs (fun x => a.knows x || a.passed xs x)

/-- What a load of constant space finds (R177): the bytes at launch start, when the history was so long, or any stores
since. -/
def State.observeConst (s : State) (a : Agent) (key : List Nat) (since addr n : Nat) : Got :=
  s.draw a key addr (presentIn s.mem s.poison addr n) ((s.past .mem addr).filter (fun x => decide (since ≤ x.stamp)))
    (fun _ => false)

/-- What the agent's thread knows after a read (R286, R288): an acquire takes the releases that the read meets; any scoped
read keeps them for an acquire fence; a matched read sets the coherence floor. -/
def Agent.learn (a : Agent) (acquire : Bool) (tops : List (Nat × Stored)) : Know :=
  let heads := (tops.flatMap (fun p => p.2.heads)).eraseDups
  let k := a.know
  if a.scope == .none then k
  else
    { view := if acquire then heads.foldl (fun v h =>
        if h.meets a.scope a.scope a.place then Seen.join v h.view else v) k.view else k.view
      fenced := k.fenced
      met := (k.met ++ heads.map (fun h => (a.scope, h))).eraseDups
      floor := (k.floor ++ (tops.filter (fun p => a.meets p.2)).map (fun p => (p.2.stamp, p.1 - p.2.addr))).eraseDups }

/-! ### Writing -/

/-- Who writes, and what the write carries (R284, R288): the point that performs it (R190), the releases it brings, and
whether it is an atomic's. -/
structure Author where
  own : Option (Nat × Nat)
  thread : Nat
  place : Place
  scope : Scope
  view : Seen
  heads : List Head
  point : Nat
  atomic : Bool
  deriving DecidableEq, Repr

/-- The releases of a scoped store: its own, and those of the fences before it (R288). `here` is the history's length. -/
def Agent.heads (a : Agent) (release : Bool) (here : Nat) : List Head :=
  if a.scope == .none then []
  else
    (if release then [⟨a.scope, a.scope, a.place, Seen.join a.know.view [(a.thread, here)]⟩] else []) ++
    a.know.fenced.map (fun f => ⟨f.1, a.scope, a.place, f.2⟩)

/-- The author of an agent's store at a point. -/
def Agent.author (a : Agent) (release : Bool) (here point : Nat) : Author :=
  ⟨a.own, a.thread, a.place, a.scope, a.know.view, a.heads release here, point, false⟩

/-- Bytes cut at sector boundaries. -/
def sectorRuns : Nat → Nat → List Byte → List (Nat × List Byte)
  | 0, _, _ => []
  | fuel + 1, a, bs =>
    if bs.isEmpty then [] else (a, bs.take (16 - a % 16)) :: sectorRuns fuel (a + (16 - a % 16)) (bs.drop (16 - a % 16))

/-- What a write of bytes does to the poison of a sector (R180). -/
def runMark (mark : Bool) (bs : List Byte) : Option Bool :=
  if mark then some true else if bs.length = 16 then some false else none

/-- The record of a write within one sector. -/
def Author.stored (au : Author) (space : Region) (t : Sparse Byte × Sparse Bool) (stamp addr : Nat) (bs : List Byte)
    (mark : Option Bool) : Stored :=
  { space := space, addr := addr, old := readBytes t.1 addr bs.length, oldMark := Sparse.get false t.2 (addr / 16), new := bs
    mark := mark, stamp := stamp, thread := au.thread, place := au.place, scope := au.scope, view := au.view
    heads := au.heads, point := au.point, atomic := au.atomic }

/-- The history after a write: one record for each sector. -/
def State.recorded (s : State) (au : Author) (space : Region) (addr : Nat) (bs : List Byte) (mark : Bool) : List Past :=
  ((sectorRuns bs.length addr bs).mapIdx (fun i r =>
    Past.store (au.stored space (s.tables space) (s.history.length + i) r.1 r.2 (runMark mark r.2)))).reverse ++ s.history

/-- Write bytes at a physical address. -/
def State.writeMem (s : State) (au : Author) (pa : Nat) (bs : List Byte) (mark : Bool) : State :=
  { s with
    mem := writeBytes s.mem pa bs
    poison := storePoison s.poison pa bs.length mark
    history := s.recorded au .mem pa bs mark }

/-- Write bytes at a scratchpad offset of a gang. -/
def State.writeSpad (s : State) (au : Author) (g off : Nat) (bs : List Byte) (mark : Bool) : State :=
  { s with
    gangs := amod s.gangs g (fun x => { x with
      spad := writeBytes x.spad off bs, spadPoison := storePoison x.spadPoison off bs.length mark })
    history := s.recorded au (.spad g) off bs mark }

/-- Poison that one element of an engine's writes gives its sector: the operation's last element of a sector that its
unpoisoned data covers clears it (R180). -/
def setPoison (p : Sparse Bool) (a : Nat) (mark : Option Bool) : Sparse Bool :=
  match mark with
  | none => p
  | some v => Sparse.set false p (a / 16) v

/-- Write one element of an operation at a physical address. -/
def State.writeElement (s : State) (au : Author) (pa : Nat) (bs : List Byte) (mark : Option Bool) : State :=
  { s with
    mem := writeBytes s.mem pa bs
    poison := setPoison s.poison pa mark
    history := .store (au.stored .mem (s.tables .mem) s.history.length pa bs mark) :: s.history }

/-- Write one element of an operation at a scratchpad offset. -/
def State.writeSpadElement (s : State) (au : Author) (g off : Nat) (bs : List Byte) (mark : Option Bool) : State :=
  { s with
    gangs := amod s.gangs g (fun x => { x with
      spad := writeBytes x.spad off bs, spadPoison := setPoison x.spadPoison off mark })
    history := .store (au.stored (.spad g) (s.tables (.spad g)) s.history.length off bs mark) :: s.history }

/-- The sectors of a target, told apart by whether they are scratchpad sectors of the gang (R333). -/
def targetSectors (t : Target) (n : Nat) : List (Bool × Nat) :=
  match t with
  | .spd off => (sectors off n).map (fun x => (true, x))
  | .mem pa _ _ => (sectors pa n).map (fun x => (false, x))

/-! ### The agents (R282, R283) -/

/-- The gangs that are resident on a stack (R283). -/
def State.peers (s : State) (st : Nat) : List Nat :=
  (s.gangs.filter (fun p => p.2.stack == st && p.2.state == .resident)).map (fun p => p.1)

/-- Where wave w of gang g stands. -/
def State.placeOf (s : State) (g w : Nat) : Place :=
  let st := ((aget s.gangs g).map Gang.stack).getD 0
  ⟨some g, w, st, false, s.peers st⟩

/-- Lane n of a wave as an agent. -/
def State.laneAgent (s : State) (g w n : Nat) (l : Lane) (sc : Scope) : Agent :=
  ⟨some (g, w), laneThread g w n, s.placeOf g w, sc, l.know⟩

/-- What happens before the next access of all these lanes: their views with their own stores (R284). -/
def State.lanesView (s : State) (g w : Nat) (core : WaveCore) (lanes : BitVec 32) : Seen :=
  (bitsOf lanes).foldl (fun v n =>
    Seen.join (Seen.join v (core.lane n).know.view) [(laneThread g w n, s.history.length)]) []

/-- An operation that a wave forked, or a packet of a queue, as an agent (R282, R292). -/
def State.opAgent (s : State) (k : Nat) (o : Owner) (st : Nat) (sc : Scope) (view : Seen) : Agent :=
  match o with
  | .wave g w => ⟨none, opThread k, s.placeOf g w, sc, Know.start view⟩
  | .queue _ _ => ⟨none, opThread k, ⟨none, 0, st, false, s.peers st⟩, sc, Know.start view⟩

/-- The stack that holds the active complex (R384, R450): stack 6 when its role bit is set, stack 0 otherwise. -/
def State.activeStack (s : State) : Nat := if (s.stack 6).cpRole then 6 else 0

/-- The active complex as an agent: its accesses are at `.sys` (R282, R291, R451). -/
def State.cpAgent (s : State) : Agent :=
  ⟨none, cpThread, ⟨none, 0, s.activeStack, false, s.peers s.activeStack⟩, .sys, s.cpKnow⟩

/-- The host as an agent (R282, R349). -/
def State.hostAgent (s : State) : Agent := ⟨none, hostThread, ⟨none, 0, 0, true, []⟩, .sys, s.hostKnow⟩

/-- The front end of a launch's pool as an agent (R282). -/
def State.poolAgent (s : State) (l : Nat) (p : Pool) (sc : Scope) : Agent :=
  ⟨none, poolThread l, ⟨none, 0, p.home, false, s.peers p.home⟩, sc, p.know⟩

end Sys2Proof.Machine
end

