-- ==== Sys2Proof/Machine/Ops.lean ====
section
/-! DEFINITION. The shared operations of the device: numbering and writing events (R380, R381), raising the halt line
(R247, R411), recording lanes in the deferred path (R236), entering a trap handler, returning from it and leaving
handler mode (R238 to R243), the gambit's conflicts and rollbacks (R335, R339), and the performing of lane accesses
(R179 to R198). -/
namespace Sys2Proof.Machine

/-! ### Places and times -/

/-- now of the active complex's stack (R450). -/
def State.activeNow (s : State) : Nat := (s.stack s.activeStack).now

/-- The partition of a context. -/
def State.partitionOf (s : State) (ctx : Nat) : Nat := ((aget s.contexts ctx).map Context.partition).getD 12

/-- The launch identity of a gang. -/
def State.launchid (s : State) (g : Gang) : W64 := ((s.launchOf g).map (fun l => l.desc.launchid)).getD 0

/-- A little-endian number in memory. -/
def State.readNat (s : State) (pa n : Nat) : Nat := leNat (readBytes s.mem pa n)

/-! ### Writes and the gambit -/

/-- A rolled-back wave (R339): buffered stores, read set, held fault and held access go, the checkpoint and the
queues' lost bits return, loads that speculation issued are dropped (R198). -/
def Wave.rollback (w : Wave) : Wave :=
  match w.spec with
  | none => w
  | some sp =>
    { w with core := sp.checkpoint, lost := sp.lost, spec := none, held := none, loads := w.loads.filter (fun p => !p.spec) }

/-- Rolling back a wave and counting it: offset 0x0B0 for a conflict, 0x0B8 otherwise (R443). -/
def State.rollbackWave (s : State) (g w counter : Nat) : State :=
  match aget s.gangs g, s.wave g w with
  | some gang, some wave =>
    if wave.spec.isSome then
      (s.modStack gang.stack (fun t => t.count counter 1)).modWave g w Wave.rollback
    else s
  | _, _ => s

/-- The speculating waves whose read set holds one of these sectors, other than the writer (R335). A scratchpad sector
concerns the waves of its gang only. -/
def State.conflicting (s : State) (own : Option (Nat × Nat)) (spadOf : Option Nat) (secs : List Nat) :
    List (Nat × Nat) :=
  s.gangs.flatMap (fun p =>
    if (match spadOf with | some g => g != p.1 | none => false) then []
    else (p.2.waves.mapIdx (fun w x => (w, x))).filterMap (fun q =>
      match q.2.spec with
      | none => none
      | some sp =>
        if own != some (p.1, q.1) && secs.any (fun n => sp.reads.contains (spadOf.isSome, n)) then some (p.1, q.1)
        else none))

/-- A write has reached these sectors: every conflicting wave rolls back (R335). -/
def State.conflicts (s : State) (own : Option (Nat × Nat)) (spadOf : Option Nat) (secs : List Nat) : State :=
  (s.conflicting own spadOf secs).foldl (fun t p => t.rollbackWave p.1 p.2 0x0B0) s

/-- A write at a physical address. -/
def State.put (s : State) (au : Author) (pa : Nat) (bs : List Byte) (mark : Bool) : State :=
  (s.writeMem au pa bs mark).conflicts au.own none (sectors pa bs.length)

/-- A write to a gang's scratchpad. -/
def State.putSpad (s : State) (au : Author) (g off : Nat) (bs : List Byte) (mark : Bool) : State :=
  (s.writeSpad au g off bs mark).conflicts au.own (some g) (sectors off bs.length)

/-- The device, with the active complex's order, writes as a release at `.sys` (R291, R381). -/
def State.deviceAuthor (s : State) : Author := s.cpAgent.author true s.history.length 2

/-- A record or a field that the device writes. -/
def State.putDevice (s : State) (pa : Nat) (bs : List Byte) : State := s.put s.deviceAuthor pa bs false

/-- Send the back-invalidations that accesses to these lines need (R350); they reach the read sets of speculating
waves like writes (R335). -/
def State.backInvalidate (s : State) (lines : List Nat) : State :=
  let t : State := { s with stackTab := s.stackTab.map (fun t => { t with snoops := t.snoops.map (fun x =>
    if lines.contains x.line then { x with waiting := true } else x) }) }
  t.conflicts none none (lines.flatMap (fun n => sectors (128 * n) 128))

/-- Do something with memory once the host gives back the lines it needs; until then only the back-invalidations
happen (R350). -/
def State.snooped (s : State) (accesses : List (Nat × Nat × Bool)) (next : State) : State :=
  let lines := accesses.flatMap (fun a => s.snoopLines a.1 a.2.1 a.2.2)
  if lines.isEmpty then next else s.backInvalidate lines

/-! ### Events -/

/-- The fields of a ring's control block (R378). -/
structure RingBlock where
  ring : Nat
  entries : Nat
  vector : Nat
  count : Nat
  time : Nat
  produced : Nat
  taken : Nat
  ok : Bool
  deriving DecidableEq, Repr

/-- Powers of two. -/
def isPow2 (n : Nat) : Bool := n != 0 && n == 2 ^ Nat.log2 n

/-- Read a control block; `ok` says that it passes the check of R379. -/
def State.ringBlock (s : State) (pa : Nat) : RingBlock :=
  let ring := s.readNat pa 8
  let entries := s.readNat (pa + 8) 4
  let count := s.readNat (pa + 14) 2
  let time := s.readNat (pa + 16) 4
  { ring := ring, entries := entries, vector := s.readNat (pa + 12) 2, count := count, time := time
    produced := s.readNat (pa + 24) 8, taken := s.readNat (pa + 32) 8
    ok := decide (16 ≤ entries) && decide (entries ≤ 65536) && isPow2 entries && count != 0 &&
      decide (time ≤ 1000000) && ring % 64 == 0 && s.readNat (pa + 20) 4 == 0 && s.readNat (pa + 48) 16 == 0 }

/-- The port that sends a ring's interrupts (R379); a control block in local HBM uses its own stack's port. -/
def State.ringPort (s : State) (pa : Nat) : Nat :=
  if isLocal pa then homeStack pa else ((s.stack s.activeStack).egress pa).getD s.activeStack

/-- The coalescing state of a ring (R379). -/
def State.coalesce (s : State) (pa : Nat) : Ring := (s.rings.find? (fun r => r.block == pa)).getD ⟨pa, 0, 0⟩

/-- Replace the coalescing state of a ring; a ring with nothing pending is not listed. -/
def State.setRing (s : State) (r : Ring) : State :=
  let rest := s.rings.filter (fun x => x.block != r.block)
  { s with rings := if r.pending = 0 then rest else rest ++ [r] }

/-- Send the interrupt of a ring and clear its pending count (R379). -/
def State.interrupt (s : State) (pa vector : Nat) : State :=
  { s.setRing ⟨pa, 0, 0⟩ with msix := s.msix ++ [(s.ringPort pa, vector)] }

/-- One more record pends on a ring (R379). -/
def State.ringAdd (s : State) (pa : Nat) (b : RingBlock) : State :=
  let r := s.coalesce pa
  let r' : Ring := ⟨pa, r.pending + 1, if r.pending = 0 then s.activeNow else r.first⟩
  if b.count ≤ r'.pending then s.interrupt pa b.vector else s.setRing r'

/-- Write one record of 64 bytes into a ring, its sequence number last, and advance it (R379, R381). -/
def State.ringWrite (s : State) (pa recordPa : Nat) (b : RingBlock) (record : List Byte) : State :=
  (((s.putDevice (recordPa + 8) (record.drop 8)).putDevice recordPa (record.take 8)).putDevice (pa + 24)
    (natLe 8 (b.produced + 1))).ringAdd pa b

/-- Take the next sequence number (R380). -/
def State.nextSeq (s : State) : State := { s with seq := s.seq + 1 }

/-- The 64-byte event record (R381). -/
def Event.record (e : Event) (seq : Nat) : List Byte :=
  natLe 8 seq ++ natLe 2 e.code ++ natLe 1 e.partition ++ natLe 1 e.stack ++ natLe 2 e.ctx ++ natLe 2 0 ++
  natLe 8 e.time ++ (e.detail ++ List.replicate 40 0).take 40

/-- The arbiter numbers an event and writes it to its partition's ring; a ring whose control block breaks R378 is
unregistered from then on, without a ring it is dropped, and a full ring drops it and counts it (R381). -/
def State.number (s : State) (e : Event) : State :=
  let p := s.partition e.partition
  let seq := s.seq
  let s := s.nextSeq
  let b := s.ringBlock p.evBlock
  if !p.evValid || !b.ok then
    s.modPartition e.partition (fun x => { x with evValid := false, evDropped := x.evDropped + 1 })
  else if b.entries ≤ b.produced - b.taken then
    s.putDevice (p.evBlock + 40) (natLe 8 (s.readNat (p.evBlock + 40) 8 + 1))
  else s.ringWrite p.evBlock (b.ring + 64 * (b.produced % b.entries)) b (e.record seq)

/-- The host lines that the next record of a partition's ring needs: its control block and its slot (R350). -/
def State.ringLines (s : State) (p : Nat) : List Nat :=
  let block := (s.partition p).evBlock
  if !(s.partition p).evValid then []
  else
    let b := s.ringBlock block
    s.snoopLines block 64 true ++
      (if b.ok then s.snoopLines (b.ring + 64 * (b.produced % b.entries)) 64 true else [])

/-- The ring of a partition lies behind a frozen route (R357). -/
def State.ringFrozen (s : State) (p : Nat) : Bool :=
  (s.partition p).evValid && (s.frozenFor s.activeStack (s.partition p).evBlock ||
    s.frozenFor s.activeStack (s.ringBlock (s.partition p).evBlock).ring)

/-- The arbiter can number an event now: no castling runs (R385), no route is frozen, and no host copy stands in the
way. -/
def State.arbiterFree (s : State) (e : Event) : Bool :=
  s.castling.isNone && (s.ringLines e.partition).isEmpty && !s.ringFrozen e.partition

/-- Number the events that wait in their stacks, in arrival order, as far as the arbiter can; the host lines that the next
one needs are recalled. -/
def State.numberWaiting : Nat → State → State
  | 0, s => s
  | fuel + 1, s =>
    match s.waitingEvents with
    | [] => s
    | e :: rest =>
      if s.arbiterFree e then State.numberWaiting fuel (({ s with waitingEvents := rest }).number e)
      else if s.castling.isSome then s
      else s.backInvalidate (s.ringLines e.partition)

/-- Send an event through the arbiter, behind those that wait. -/
def State.send (s : State) (e : Event) : State :=
  State.numberWaiting (s.waitingEvents.length + 1) { s with waitingEvents := s.waitingEvents ++ [e] }

/-- An event of a stack's partition. -/
def State.event (s : State) (code st ctx : Nat) (detail : List Byte) : State :=
  s.send { code := code, partition := (s.stack st).partNum, stack := st, ctx := ctx, time := (s.stack st).now,
           detail := detail }

/-- Ask for a page (event 0x0101): once for each context and 64 KiB page until the page is answered (R398). -/
def State.pageRequest (s : State) (ctx st page : Nat) (a : Access) : State :=
  match aget s.contexts ctx with
  | none => s
  | some c =>
    if c.requested.contains page then s
    else (s.modContext ctx (fun x => { x with requested := page :: x.requested })).event 0x0101 st ctx
      (natLe 8 page ++ natLe 1 a.code)

/-! ### Castling that ends early -/

/-- The complex that is not active. -/
def State.standbyStack (s : State) : Nat := 6 - s.activeStack

/-- Castling aborts: the old active goes on, and the standby is back in state 2 (R385). -/
def State.castlingAborts (s : State) (reason : Nat) : State :=
  let a := s.activeStack
  let t := (s.modStack s.standbyStack (fun t => { t with cpState := 2 })).modStack a (fun t => { t with cpAbort := reason })
  ({ t with castling := none }).event 0x0008 a 0xFFFF (natLe 1 reason)

/-! ### The halt line -/

/-- Raise the halt line of the faulting context's partition (R247, R411); a line that rises while castling runs aborts it
(R385). -/
def State.raiseHalt (s : State) (h : Halt) : State :=
  let rises := s.castling.isSome && !(s.partition (s.partitionOf h.ctx)).halted && (aget s.contexts h.ctx).isSome
  (if rises then s.castlingAborts 3 else s).modPartition (s.partitionOf h.ctx) (fun p => { p with faults := p.faults ++ [h], halted := true })

/-- The stop-record facts of a fault that an instruction of a wave raises. -/
def Issue.halt (c : Issue) (s : State) (reason va : Nat) (performed skipped : BitVec 32) : Halt :=
  { src := some (c.g, c.w), reason := reason, stack := c.gang.stack, slot := c.wave.coreId, ctx := s.ctxOf c.gang
    launch := s.launchid c.gang, pc := c.entry.pc, addr := BitVec.ofNat 64 va, wave := c.w
    performed := performed, skipped := skipped, written := false }

/-- A fault at an instruction: raised at once, or held while the wave speculates (R337). -/
def Issue.fault (c : Issue) (s : State) (reason va : Nat) (performed skipped : BitVec 32) : State :=
  match c.wave.spec with
  | some _ => s.modWave c.g c.w (fun w =>
      { w with spec := w.spec.map (fun y => { y with fault := some (reason, BitVec.ofNat 64 va) }) })
  | none => s.raiseHalt (c.halt s reason va performed skipped)

/-! ### The deferred path -/

/-- Why a lane is recorded: cause and detail of R240. -/
structure Cause where
  cause : BitVec 8
  detail : BitVec 8
  deriving DecidableEq, Repr

def causeArithmetic (x : BitVec 5) : Cause := ⟨1, x.setWidth 8⟩
def causeStale (k : Nat) : Cause := ⟨2, BitVec.ofNat 8 k⟩
def causeIllegalWord : Cause := ⟨3, 0⟩
def causeIllegalLane : Cause := ⟨3, 1⟩
def causeTrap (n : Nat) : Cause := ⟨4, BitVec.ofNat 8 n⟩
def causeBrk (n : Nat) : Cause := ⟨5, BitVec.ofNat 8 n⟩

/-- The items recording holds for lane n of an entry (R236, R240). -/
def Entry.item (e : Entry) (n : Nat) (x : Cause) (resume : W64) : TrapItem :=
  { cause := x.cause, detail := x.detail, resume := resume, prio := e.prio
    guardCount := e.guard.count, guardIn := decide (0 < e.guard.count) && has e.guard.mask n }

/-- Record lanes (R236): their items are held and their bits enter trapmask. -/
def WaveCore.recordItems (core : WaveCore) (e : Entry) (lanes : BitVec 32) (why : Nat → Cause) (resume : W64) :
    WaveCore :=
  { core.mapLanes (fun n l => if has lanes n then { l with trap := some (e.item n (why n) resume) } else l) with
    trapmask := core.trapmask ||| lanes }

/-- Record lanes of an entry; what remains of the entry is `e` without them. -/
def WaveCore.record (core : WaveCore) (k : Nat) (old e : Entry) (lanes : BitVec 32) (why : Nat → Cause)
    (resume : W64) : WaveCore :=
  let core := core.recordItems old lanes why resume
  { core with frontier := putEntry core.frontier k { e with lanes := e.lanes &&& ~~~lanes } }

/-- The end of an instruction whose effect is in `s` and `core`, whose frontier already holds the lanes that go on:
lanes in `traps` are recorded at `resume` (R236). A speculating wave records nothing and stalls with no effect (R244);
`s0` is the state before the instruction. A recording in handler mode is a double trap (R241). -/
def Issue.finishAt (c : Issue) (i : Instr) (s0 s : State) (core : WaveCore) (traps : BitVec 32) (why : Nat → Cause)
    (resume : W64) : State :=
  if traps = 0 then s.setWave c.g c.w (c.note s { c.wave with core := markStalls i core c.active })
  else if c.wave.spec.isSome then c.specStall s0 0x0C8
  else if core.handler then s0.raiseHalt (c.halt s0 reasonDoubleTrap 0 0 0)
  else
    let marked := markStalls i core (c.active &&& ~~~traps)
    s.setWave c.g c.w (c.note s { c.wave with core := marked.recordItems c.entry traps why resume })

/-- The end of an instruction that completes in place: the entry advances without its recorded lanes. -/
def Issue.finish (c : Issue) (i : Instr) (s0 s : State) (core : WaveCore) (traps : BitVec 32) (why : Nat → Cause)
    (resume : W64) : State :=
  let e := c.entry.next
  c.finishAt i s0 s { core with frontier := putEntry core.frontier c.k { e with lanes := e.lanes &&& ~~~traps } }
    traps why resume

/-- The whole entry traps at step 1 or step 2 of R79: every lane of it, masked lanes too, is recorded at the
instruction, which has no other effect. -/
def Issue.trapWhole (c : Issue) (i : Instr) (s : State) (x : Cause) : State :=
  c.finish i s s c.wave.core c.entry.lanes (fun _ => x) c.entry.pc

/-- How a word issues (R79): with no wave to issue it there is nothing to model; stalls change nothing but what the
decision says; whole-word and stale-latch traps are recorded; otherwise the effect happens. -/
def issueWord (i : Instr) (s : State) (effect : Issue → State) : Host.Outcome State Fault Refusal :=
  match decideIssue i s with
  | .absent => .fault .noIssuingWave
  | .hold t => .next t
  | .illegal c => .next (c.trapWhole i s causeIllegalWord)
  | .stale c k => .next (c.trapWhole i s (causeStale k))
  | .go c => .next (effect c)

/-! ### Trap entry and return -/

/-- The lanes that wait in the deferred path (R237). -/
def WaveCore.waiting (core : WaveCore) : BitVec 32 := if core.handler then 0 else core.trapmask

/-- Handler entry is due (R238): lanes wait and no entry is ready. -/
def WaveCore.handlerDue (core : WaveCore) : Bool :=
  core.waiting != 0 && core.frontier.all (fun e => e.state != .ready)

/-- Handler mode is over (R243): no handler lane remains in the frontier. -/
def WaveCore.handlerOver (core : WaveCore) : Bool := core.handler && core.frontier.all (fun e => e.aside)

/-- The trap record's address (R239). -/
def trapRecordAddress (c : Context) (l : Launch) (g : Gang) (w : Nat) : Nat :=
  let n := g.x + l.desc.nx * (g.y + l.desc.ny * g.z)
  (c.trapArea.toNat + 512 * (l.desc.launchid.toNat % 2 ^ 32 + n * l.desc.waves + w)) % 2 ^ 64

/-- One byte per lane, 0 for a lane that is not in the mask. -/
def perLane (lanes : BitVec 32) (f : Nat → Nat) (size : Nat) : List Byte :=
  (List.range 32).flatMap (fun n => natLe size (if has lanes n then f n else 0))

/-- The trap record (R240). -/
def trapRecord (core : WaveCore) (now : Nat) (launchid : W64) : List Byte :=
  let m := core.trapmask
  let item := fun n => ((core.lane n).trap.getD ⟨0, 0, 0, 0, 0, false⟩)
  natLe 4 m.toNat ++ natLe 4 0 ++ natLe 8 now ++ natLe 8 launchid.toNat ++ natLe 8 0 ++
  perLane m (fun n => (item n).cause.toNat) 1 ++ perLane m (fun n => (item n).detail.toNat) 1 ++
  perLane m (fun n => (item n).prio.toNat) 1 ++
  perLane m (fun n => (item n).guardCount + if (item n).guardIn then 32 else 0) 1 ++
  List.replicate 96 0 ++ perLane m (fun n => (item n).resume.toNat % 2 ^ 56) 8

/-- The core after handler entry (R238): the frontier set aside, one handler entry at priority 63, latches lost. -/
def WaveCore.enterHandler (core : WaveCore) (entry : W64) : WaveCore :=
  { core with
    frontier := core.frontier.map (fun e => { e with aside := true }) ++
      [{ lanes := core.trapmask, pc := entry, prio := 63, state := .ready, guard := ⟨0, 0⟩, aside := false }]
    handler := true
    latchCount := 0
    last := none }

/-- The core at the end of handler mode (R243): set-aside entries return, returned lanes form ready entries at their
resume PC and priority, trapmask is 0. -/
def WaveCore.leaveHandler (core : WaveCore) : WaveCore :=
  let back := (List.range 32).filterMap (fun n => ((core.lane n).returned).map (fun r =>
    ({ lanes := setBit 0 n true, pc := r.resume, prio := r.prio, state := .ready
       guard := if r.guardCount = 0 then ⟨0, 0⟩ else ⟨r.guardCount, if r.guardIn then setBit 0 n true else 0⟩
       aside := false } : Entry)))
  { core.mapLanes (fun _ l => { l with trap := none, returned := none }) with
    frontier := core.frontier.map (fun e => { e with aside := false }) ++ back
    handler := false
    trapmask := 0
    latchCount := 0
    last := none }

/-- Handler mode ends at the boundary where it is over. -/
def WaveCore.endHandlerIfOver (core : WaveCore) : WaveCore := if core.handlerOver then core.leaveHandler else core

/-! ### Ports, caches of the package and host copies -/

/-- What an access of a stack makes of the package's copies of a system line (R352). -/
def touchLine (l : DevLine) (st : Nat) (write : Bool) : DevLine :=
  if write then { l with copies := [(st, .m)] }
  else if (l.copies.any (fun p => p.1 == st)) then l
  else
    let others := l.copies.map (fun p => (p.1, match p.2 with | .m => Moesi.o | .e => .s | x => x))
    { l with copies := others ++ [(st, if l.copies.isEmpty then .e else .s)] }

/-- Bring a line of system memory into the device cache, or write it there (R352). -/
def State.touch (s : State) (st pa : Nat) (write : Bool) : State :=
  let line := pa / 128
  match s.devLines.find? (fun l => l.line == line) with
  | some _ => { s with devLines := s.devLines.map (fun l => if l.line == line then touchLine l st write else l) }
  | none => { s with devLines := s.devLines ++ [touchLine ⟨line, []⟩ st write] }

/-- The lines of the device cache that reads of a stack's pieces fill: cached system lines over a port that is up,
which the stack does not hold yet (R352 to R354). -/
def State.fillLines (s : State) (st : Nat) (ps : List (Target × Nat)) : List (Nat × Nat) :=
  ((ps.filterMap (fun p => match p.1 with
    | .spd _ => none
    | .mem pa leaf _ => if !isLocal pa && has leaf.bits 7 && !s.portDown st pa then some (pa / 128, st) else none)).filter
      (fun q => !s.devLines.any (fun l => l.line == q.1 && l.copies.any (fun c => c.1 == q.2)))).eraseDups

/-! ### Accesses of lanes -/

/-- The verdicts of R179 on the lanes of an instruction; `waits` names the host lines that stand in the way of lanes that
wait. -/
structure Judged where
  ok : List (Nat × List (Target × Nat))
  traps : BitVec 32
  holds : List (Nat × Nat)
  waits : List (List Nat)
  faults : List (Nat × Nat × Nat)
  deriving DecidableEq, Repr

/-- Judge the request of each lane (R179). -/
def State.judge (s : State) (ctx st spad : Nat) (rs : List (Nat × Request)) : Judged :=
  rs.foldr (fun r j =>
    match s.fate ctx st spad r.2 with
    | .ok ps => { j with ok := (r.1, ps) :: j.ok }
    | .trap => { j with traps := setBit j.traps r.1 true }
    | .hold page => { j with holds := (r.1, page) :: j.holds }
    | .wait lines => { j with waits := lines :: j.waits }
    | .fault reason va => { j with faults := (r.1, reason, va) :: j.faults }) ⟨[], 0, [], [], []⟩

/-- The mask of the listed lanes. -/
def maskOf (ns : List Nat) : BitVec 32 := ns.foldl (fun m n => setBit m n true) 0

/-- Fill the translation caches with what the accesses used (R396). -/
def State.fillFrom (s : State) (ctx st : Nat) (core : Option Nat) (ps : List (Target × Nat)) : State :=
  ps.foldl (fun t p => match p.1 with
    | .spd _ => t
    | .mem pa leaf va => t.fillTlb ctx st core va pa leaf) s

/-- An access that a speculating wave must not make: to a memory-side page or to system memory (R336). -/
def unspeculable (ps : List (Target × Nat)) : Bool :=
  ps.any (fun p => match p.1 with
    | .spd _ => false
    | .mem pa leaf _ => !isLocal pa || leaf.side)

/-- Sectors of a list of stores, without repeats. -/
def bufferSectors (xs : List Buffered) : List (Bool × Nat) :=
  (xs.flatMap (fun x => (sectors x.addr x.bytes.length).map (fun n => (x.spad, n)))).eraseDups

/-- The access would overfill the read set or the gang's store buffer (R333, R334, R336). -/
def Issue.overfull (c : Issue) (ps : List (Target × Nat)) (write : Bool) : Bool :=
  let secs := (ps.flatMap (fun p => targetSectors p.1 p.2)).eraseDups
  match c.wave.spec with
  | none => false
  | some sp =>
    if write then
      let mine := bufferSectors sp.stores
      let used := c.gang.waves.foldl (fun n w => n + (match w.spec with
        | some x => (bufferSectors x.stores).length
        | none => 0)) 0
      decide (1024 < used + (secs.filter (fun x => !mine.contains x)).length)
    else decide (2048 < sp.reads.length + (secs.filter (fun x => !sp.reads.contains x)).length)

/-- What an instruction asks of memory: the request of each active lane, lanes that trap for another reason, whether
the instruction writes, and whether a speculating wave must not make it whatever its target. -/
structure Ask where
  reqs : List (Nat × Request)
  traps : BitVec 32
  write : Bool
  unspec : Bool
  access : Access
  deriving DecidableEq, Repr

/-- The pieces in memory, with their sizes. -/
def physical (write : Bool) (ps : List (Target × Nat)) : List (Nat × Nat × Bool) :=
  ps.filterMap (fun p => match p.1 with | .spd _ => none | .mem pa _ _ => some (pa, p.2, write))

/-- Some piece lies behind a route that is frozen (R357). -/
def State.frozenPieces (s : State) (st : Nat) (ps : List (Target × Nat)) : Bool :=
  (physical false ps).any (fun p => s.frozenFor st p.1)

/-- The host lines that pieces must first recall (R350). -/
def State.recallLines (s : State) (write : Bool) (ps : List (Target × Nat)) : List Nat :=
  (physical write ps).flatMap (fun a => s.snoopLines a.1 a.2.1 a.2.2)

/-- The memory requests that the waves of a core have outstanding (R1). -/
def State.coreRequests (s : State) (st core : Nat) : Nat :=
  s.gangs.foldl (fun n p => if p.2.stack = st ∧ p.2.state = .resident then
    p.2.waves.foldl (fun n w => if w.coreId = core then
      w.loads.foldl (fun n l => n + l.requests) (n + w.stores.length) else n) n else n) 0

/-- A core has room for the requests of an instruction among its 512 (R1). -/
def State.requestRoom (s : State) (st core : Nat) (ps : List (Target × Nat)) : Bool :=
  decide (s.coreRequests st core + (physical false ps).length ≤ 512)

/-- The pages that a speculating wave's accesses have used (R301). -/
def Wave.usedPages (w : Wave) (ps : List (Target × Nat)) : Wave :=
  { w with spec := w.spec.map (fun sp => { sp with
      pages := (sp.pages ++ ps.filterMap (fun p => match p.1 with
        | .spd _ => none
        | .mem _ _ va => some (va - va % 65536))).eraseDups }) }

/-- The next record of a stack's capture log would stand in a line that the host holds: it is recalled (R350, R445). -/
def State.recallLog (s : State) (st : Nat) : State :=
  let t := s.stack st
  let lines := s.snoopLines (t.capBase + t.capPos) 1024 true
  if t.capMode = 0 ∧ !lines.isEmpty then s.backInvalidate lines else s

/-- The lanes that an instruction with a fault in some lane performs: any of those that could go on at once (R179). -/
def State.faultLanes (s : State) (st : Nat) (write : Bool) (oks : List (Nat × List (Target × Nat))) :
    List (Nat × List (Target × Nat)) :=
  oks.filter (fun p => s.chooseAt [11, p.1] 2 == 1 && !s.frozenPieces st p.2 && (s.recallLines write p.2).isEmpty)

/-- Perform an instruction's accesses (R179, R198). `perform` makes the accesses of the listed lanes in state and
wave, or makes none while a replayed log holds one back (R446). Faults come first, before a double trap (R179, R241);
then stalls of speculation; then holds; then the accesses, once host lines, routes and the core's requests allow. -/
def Issue.access (c : Issue) (i : Instr) (s : State) (a : Ask)
    (perform : List (Nat × List (Target × Nat)) → State → Wave → Option (State × Wave)) : State :=
  let ctx := s.ctxOf c.gang
  let st := c.gang.stack
  let spad := ((s.launchOf c.gang).map (fun l => l.desc.spad)).getD 0
  let j := s.judge ctx st spad a.reqs
  let traps := j.traps ||| a.traps
  let double := traps != 0 && c.wave.core.handler
  let faults := if j.faults.isEmpty && double then [(0, reasonDoubleTrap, 0)] else j.faults
  match faults[s.choose 10 faults.length]? with
  | some (_, reason, va) =>
    match c.wave.spec with
    | some _ => c.fault s reason va 0 0
    | none =>
      let chosen := s.faultLanes st a.write j.ok
      let done := maskOf (chosen.map (fun p => p.1))
      (((perform chosen s c.wave).map (fun r => r.1)).getD s).raiseHalt
        (c.halt s reason va done (c.active &&& ~~~done))
  | none =>
    let pieces := j.ok.flatMap (fun p => p.2)
    let lines := j.waits.flatten ++ s.recallLines a.write pieces
    if c.wave.spec.isSome && traps != 0 then c.specStall s 0x0C8
    else if !j.holds.isEmpty then
      let core := c.wave.core.record c.k c.entry c.entry traps (fun _ => causeIllegalLane) c.entry.pc
      let s1 := j.holds.foldl (fun t h => t.pageRequest ctx st h.2 a.access) s
      s1.setWave c.g c.w (c.note s1 { c.wave with
        core := core
        held := some ⟨i, c.active &&& ~~~traps, (j.holds.map (fun h => h.2)).eraseDups, s.tick⟩ })
    else if c.wave.spec.isSome && (a.unspec || unspeculable pieces) then c.specStall s 0x0C8
    else if c.overfull pieces a.write then c.specStall s 0x0C0
    else if !j.waits.isEmpty || s.frozenPieces st pieces || !lines.isEmpty then s.backInvalidate lines
    else if !s.requestRoom st c.wave.coreId pieces then s
    else
      match perform j.ok (s.fillFrom ctx st (some c.wave.coreId) pieces) (c.wave.usedPages pieces) with
      | none => if (s.launchOf c.gang).any (fun l => l.desc.capture) then s.recallLog st else s
      | some r => { c with wave := r.2 }.finish i s r.1 r.2.core traps (fun _ => causeIllegalLane) c.entry.pc

/-- A scope of `.wave` or `.gang`, or none (R190, R279). -/
def Scope.narrow : Sys2Proof.Scope → Bool
  | .none => true | .wave => true | .gang => true
  | _ => false

/-- The point that performs an access of a core (R190, R279, R280): 0 cluster SRAM, 2 home slice, 3 channel, 4 device
cache, 8 and above the cache ways of cluster c of stack st, as 8 + 4 * st + c. -/
def State.pointOf (s : State) (core st : Nat) (t : Target) (narrow : Bool) : Nat :=
  let c := core / 4 % 4
  match t with
  | .spd _ => 0
  | .mem pa leaf _ =>
    if !isLocal pa then 4
    else if leaf.side then 3
    else if narrow && (((s.stack st).banks.drop (64 * c)).take 64).any (fun b => b.state == 0) then 8 + 4 * st + c
    else 2

/-- Two points that are not one: the cache ways of a cluster and another point of the same page (R294). -/
def pointsRace (a b : Nat) : Bool := a != b && (a == 2 || decide (8 ≤ a)) && (b == 2 || decide (8 ≤ b))

/-- The store that an access to the same bytes at another point races, when one of the two is an atomic (R294). -/
def State.racing (s : State) (a : Agent) (point pa n : Nat) (atomic : Bool) : Option Stored :=
  match (s.past .mem pa).find? (fun x => (List.range n).any (fun i => x.covers (pa + i))) with
  | some x => if x.addr = pa ∧ x.new.length = n ∧ pointsRace x.point point ∧ (atomic || x.atomic) ∧ !a.knows x then some x
      else none
  | none => none

/-- A write goes to a port that is down: it is acknowledged with error and the remote bytes are unknown (R354); a
request that the ring drops is counted where it is dropped (R388). -/
def State.failedWrite (s : State) (au : Author) (st pa : Nat) (n : Nat) (mark : Bool) : State :=
  let p := (s.port st pa).getD 0
  let t := if s.ringOpen st p then s else s.modStack p (fun x => { x with droppedTransfers := x.droppedTransfers + 1 })
  (t.put au pa ((List.range n).map (fun k => Config.freeByte s.tick (pa + k))) mark).event 0x0222 st
    0xFFFF (natLe 8 pa ++ natLe 1 p)

/-- Store one piece of an access of an agent's wave on a core. A store that races an atomic at another point may be lost
(R294). `dir` takes a cached system line at its directory stack, as an atomic does (R351). -/
def State.storePiece (s : State) (a : Agent) (au : Author) (st : Nat) (dir : Bool) (bs : List Byte) (mark : Bool) :
    Target → State
  | .spd off => s.putSpad au (a.place.gang.getD 0) off bs mark
  | .mem pa leaf _ =>
    if s.portDown st pa then s.failedWrite au st pa bs.length mark
    else
      let s := if !isLocal pa && has leaf.bits 7 then s.touch (if dir then (s.port st pa).getD st else st) pa true else s
      s.put au pa bs mark

/-- Store bytes at the pieces of an access, in rising order. -/
def State.storePieces (s : State) (a : Agent) (release : Bool) (st core : Nat) (bs : List Byte) (mark : Bool) :
    List (Target × Nat) → State
  | [] => s
  | (t, n) :: ps =>
    let point := s.pointOf core st t (Scope.narrow a.scope)
    let lost := match t with
      | .spd _ => false
      | .mem pa _ _ => (s.racing a point pa n false).isSome && s.chooseAt [13, a.thread, pa] 2 == 1
    let s' := if lost then s else s.storePiece a (a.author release s.history.length point) st false (bs.take n) mark t
    s'.storePieces a release st core (bs.drop n) mark ps

/-- The buffered form of the stores of an access of lane n (R334). -/
def bufferPieces (n : Nat) (bs : List Byte) (mark : Bool) (sc : Scope) (release : Bool) : List (Target × Nat) → List Buffered
  | [] => []
  | (.spd off, k) :: ps => ⟨n, true, off, bs.take k, mark, sc, release⟩ :: bufferPieces n (bs.drop k) mark sc release ps
  | (.mem pa _ _, k) :: ps => ⟨n, false, pa, bs.take k, mark, sc, release⟩ :: bufferPieces n (bs.drop k) mark sc release ps

/-- The port of the first system piece. -/
def State.portOf (s : State) (st : Nat) (ps : List (Target × Nat)) : Option Nat :=
  ps.findSome? (fun p => match p.1 with | .spd _ => none | .mem pa _ _ => s.port st pa)

/-- Stores that wait for their acknowledgement (R198): one for each piece in memory whose port is up (R354). -/
def State.acksOf (s : State) (st lane : Nat) (ps : List (Target × Nat)) : List PendingStore :=
  ps.filterMap (fun p => match p.1 with
    | .spd _ => none
    | .mem pa _ _ => if s.portDown st pa then none else some ⟨s.port st pa, pa, p.2, lane, false⟩)

/-- A load or returning atomic of these lanes and pieces, on its way (R198). -/
def State.inFlight (s : State) (st : Nat) (writes : List RegWrite) (spec atomic : Bool) (lines : List (Nat × Nat)) (lanes : List Nat)
    (ps : List (Target × Nat)) : PendingLoad :=
  { writes := writes, port := s.portOf st ps, spec := spec, requests := (physical false ps).length, lines := lines
    addr := (ps.findSome? (fun p => match p.1 with
      | .spd _ => none
      | .mem pa _ _ => if isLocal pa then none else some pa)).getD 0
    returned := false, lanes := maskOf lanes, atomic := atomic }

/-- Things in an order that the device chooses (R191, R293); the key tells uses apart. -/
def State.shuffle {α : Type} (s : State) (key : List Nat) : Nat → List α → List α
  | 0, xs => xs
  | fuel + 1, xs =>
    let k := s.chooseAt (key ++ [fuel]) xs.length
    match xs[k]? with
    | some x => x :: s.shuffle key fuel (xs.eraseIdx k)
    | none => xs

/-- The order in which the device performs the lanes of one atomic instruction (R191). -/
def State.laneOrder {α : Type} (s : State) (xs : List α) : List α := s.shuffle [12] xs.length xs

end Sys2Proof.Machine
end

