-- ==== Sys2Proof/Machine/Flags.lean ====
section
/-! DEFINITION. Number formats, exact arithmetic, rounding and the exception flags (R80 to R99), the conversions of R97,
and the floating-point functions of R136 to R150, all on bit strings held as natural numbers. -/
namespace Sys2Proof.Machine

/-! ### Formats and exact values -/

/-- How a format treats its top exponent (R80, R81): infinities and NaNs; as that but every NaN quiet and conversions
saturate (E5M2); only all-ones is NaN (E4M3); no infinity and no NaN (E2M1). -/
inductive Special | ieee | e5m2 | e4m3 | finite
  deriving DecidableEq, Repr

/-- A floating-point format (R80): exponent bits and trailing bits. -/
structure Fmt where
  eb : Nat
  tb : Nat
  sp : Special
  deriving DecidableEq, Repr

def fmtF64 : Fmt := ⟨11, 52, .ieee⟩
def fmtF32 : Fmt := ⟨8, 23, .ieee⟩
def fmtF16 : Fmt := ⟨5, 10, .ieee⟩
def fmtBf16 : Fmt := ⟨8, 7, .ieee⟩
def fmtE5m2 : Fmt := ⟨5, 2, .e5m2⟩
def fmtE4m3 : Fmt := ⟨4, 3, .e4m3⟩
def fmtE2m1 : Fmt := ⟨2, 1, .finite⟩

/-- Exponent bias (R80). -/
def Fmt.bias (f : Fmt) : Int := (2 ^ (f.eb - 1) : Nat) - 1
/-- Exponent of the smallest normal. -/
def Fmt.emin (f : Fmt) : Int := 1 - f.bias
/-- Exponent of the last bit of a subnormal. -/
def Fmt.qmin (f : Fmt) : Int := f.emin - f.tb
/-- The sign bit of an encoding. -/
def Fmt.signBit (f : Fmt) : Nat := 2 ^ (f.eb + f.tb)
/-- The encoding of +infinity, where the format has one (R80). -/
def Fmt.inf (f : Fmt) : Nat := (2 ^ f.eb - 1) * 2 ^ f.tb
/-- The canonical NaN (R80, R82). -/
def Fmt.nan (f : Fmt) : Nat :=
  match f.sp with
  | .e4m3 => 0x7F
  | _ => f.inf + 2 ^ (f.tb - 1)
/-- The encoding of the largest finite value (R80). -/
def Fmt.max (f : Fmt) : Nat :=
  match f.sp with
  | .e4m3 => 0x7E
  | .finite => f.signBit - 1
  | _ => f.inf - 1

/-- The exact value of an encoding (R80, R81). -/
def Fmt.decode (f : Fmt) (bits : Nat) : XVal :=
  let neg := decide (bits / f.signBit % 2 = 1)
  let m := bits % f.signBit
  let e := m / 2 ^ f.tb
  let t := m % 2 ^ f.tb
  let fin := if e = 0 then XVal.fin neg t f.qmin else XVal.fin neg (2 ^ f.tb + t) ((e : Int) - f.bias - f.tb)
  match f.sp with
  | .finite => fin
  | .e4m3 => if m = 0x7F then .nan false else fin
  | .e5m2 => if e = 2 ^ f.eb - 1 then (if t = 0 then .inf neg else .nan false) else fin
  | .ieee =>
    if e = 2 ^ f.eb - 1 then (if t = 0 then .inf neg else .nan (decide (t < 2 ^ (f.tb - 1)))) else fin

/-- A signed encoding. -/
def Fmt.signed (f : Fmt) (neg : Bool) (m : Nat) : Nat := if neg then m + f.signBit else m

/-- A signalling NaN. -/
def XVal.signalling : XVal → Bool
  | .nan x => x
  | _ => false

/-- Any NaN. -/
def XVal.isNan : XVal → Bool
  | .nan _ => true
  | _ => false

/-- Either zero. -/
def XVal.isZero : XVal → Bool
  | .fin _ m _ => m == 0
  | _ => false

/-- The sign of a value. -/
def XVal.neg : XVal → Bool
  | .nan _ => false
  | .inf n => n
  | .fin n _ _ => n

/-- The value with its sign turned round. -/
def XVal.flip : XVal → XVal
  | .nan x => .nan x
  | .inf n => .inf (!n)
  | .fin n m e => .fin (!n) m e

/-! ### Exceptions -/

/-- Exceptions in the bit positions of xflags (R27, R99). -/
abbrev Exc := BitVec 5
def excInvalid : Exc := 1
def excDivZero : Exc := 2
def excOverflow : Exc := 4
def excUnderflow : Exc := 8
def excInexact : Exc := 16

/-- A result with the exceptions it raises. -/
structure Res where
  bits : Nat
  exc : Exc
  deriving DecidableEq, Repr

/-- One exception when a condition holds. -/
def excIf (c : Bool) (x : Exc) : Exc := if c then x else 0

/-! ### Rounding -/

/-- A nonzero magnitude m * 2^e, or one strictly between m and m + 1 units of 2^e when `sticky`. -/
structure Mag where
  m : Nat
  e : Int
  sticky : Bool
  deriving DecidableEq, Repr

/-- Exponent of the leading bit. -/
def Mag.top (x : Mag) : Int := (Nat.log2 x.m : Nat) + x.e

/-- Round up a remainder of r units out of 2^k above an integer part n (R94, R96). `draw` is the stochastic draw. -/
def roundUp (mode : Rounding) (neg odd : Bool) (r k : Nat) (sticky : Bool) (draw : Nat) : Bool :=
  let inexact := r != 0 || sticky
  match mode with
  | .rn => decide (2 ^ k < 2 * r) || (2 * r == 2 ^ k && (sticky || odd))
  | .rna => decide (2 ^ k ≤ 2 * r)
  | .rz => false
  | .rd => neg && inexact
  | .ru => !neg && inexact
  | .rs =>
    let fb := r * 2 ^ 32 / 2 ^ k
    inexact && fb != 0 && decide (draw ≤ fb)

/-- Round a magnitude to a multiple of 2^q: the multiple, and whether it differs from the magnitude. -/
def Mag.roundAt (x : Mag) (mode : Rounding) (neg : Bool) (draw : Nat) (q : Int) : Nat × Bool :=
  if q ≤ x.e then (x.m * 2 ^ (x.e - q).toNat, x.sticky)
  else
    let k := (q - x.e).toNat
    let n := x.m / 2 ^ k
    let r := x.m % 2 ^ k
    (if roundUp mode neg (n % 2 == 1) r k x.sticky draw then n + 1 else n, r != 0 || x.sticky)

/-- n * 2^q lies below 2^e. -/
def below (n : Nat) (q e : Int) : Bool := n == 0 || decide ((Nat.log2 n : Nat) + q < e)

/-- The encoding of n * 2^q, a representable magnitude of the format or one above its largest exponent. -/
def Fmt.encodeMag (f : Fmt) (n : Nat) (q : Int) : Nat :=
  if n = 0 then 0
  else
    let top : Int := (Nat.log2 n : Nat) + q
    if top < f.emin then n * 2 ^ (q - f.qmin).toNat
    else
      let sig := if f.tb ≤ Nat.log2 n then n / 2 ^ (Nat.log2 n - f.tb) else n * 2 ^ (f.tb - Nat.log2 n)
      ((top + f.bias).toNat * 2 ^ f.tb) + (sig - 2 ^ f.tb)

/-- What an overflow gives (R97). -/
def Fmt.overflow (f : Fmt) (mode : Rounding) (neg : Bool) : Nat :=
  match f.sp with
  | .ieee =>
    match mode with
    | .rz => f.max
    | .rd => if neg then f.inf else f.max
    | .ru => if neg then f.max else f.inf
    | _ => f.inf
  | _ => f.max

/-- Round a nonzero magnitude to the format (R94 to R97), with overflow, underflow and inexact. Underflow looks at the
rounding with an unbounded exponent (R95). -/
def Fmt.roundMag (f : Fmt) (mode : Rounding) (neg : Bool) (draw : Nat) (x : Mag) : Res :=
  let qFree := x.top - f.tb
  let free := x.roundAt mode neg draw qFree
  let q := if qFree < f.qmin then f.qmin else qFree
  let r := x.roundAt mode neg draw q
  let tiny := below free.1 qFree f.emin
  let bits := f.encodeMag r.1 q
  if f.max < bits then ⟨f.signed neg (f.overflow mode neg), excOverflow ||| excInexact⟩
  else ⟨f.signed neg bits, excIf (tiny && r.2) excUnderflow ||| excIf r.2 excInexact⟩

end Sys2Proof.Machine

namespace Sys2Proof

/-- The draw-free rounding of an instruction's mode (R69). -/
def Rm.rounding : Rm → Rounding
  | .rn => .rn
  | .rz => .rz
  | .rd => .rd
  | .ru => .ru

end Sys2Proof

namespace Sys2Proof.Machine

/-- A NaN result, invalid when asked. -/
def Fmt.nanRes (f : Fmt) (invalid : Bool) : Res := ⟨f.nan, excIf invalid excInvalid⟩

/-- An infinity. -/
def Fmt.infRes (f : Fmt) (neg : Bool) (exc : Exc) : Res := ⟨f.signed neg f.inf, exc⟩

/-- A zero. -/
def Fmt.zeroRes (f : Fmt) (neg : Bool) : Res := ⟨f.signed neg 0, 0⟩

/-- Round an exact value that is no NaN made by the operation; a NaN operand gives the canonical NaN. -/
def Fmt.round (f : Fmt) (mode : Rounding) : XVal → Res
  | .nan s => f.nanRes s
  | .inf n => f.infRes n 0
  | .fin n m e => if m = 0 then f.zeroRes n else f.roundMag mode n 0 ⟨m, e, false⟩

/-! ### Exact operations -/

/-- A signed dyadic number m * 2^e. -/
structure Dy where
  m : Int
  e : Int
  deriving DecidableEq, Repr

/-- The dyadic number of a finite value. -/
def XVal.dy : XVal → Dy
  | .fin n m e => ⟨if n then -(m : Int) else m, e⟩
  | _ => ⟨0, 0⟩

/-- Exact sum. -/
def Dy.add (x y : Dy) : Dy :=
  if x.m = 0 then y else if y.m = 0 then x
  else
    let e := min x.e y.e
    ⟨x.m * 2 ^ (x.e - e).toNat + y.m * 2 ^ (y.e - e).toNat, e⟩

/-- Exact product. -/
def Dy.mul (x y : Dy) : Dy := ⟨x.m * y.m, x.e + y.e⟩

/-- x is below y. -/
def Dy.lt (x y : Dy) : Bool := decide ((x.add ⟨-y.m, y.e⟩).m < 0)

/-- The value of a dyadic number, with the sign a zero takes. -/
def Dy.val (x : Dy) (zeroNeg : Bool) : XVal := .fin (if x.m = 0 then zeroNeg else decide (x.m < 0)) x.m.natAbs x.e

/-- The sign of an exact zero sum of two terms with these signs (R137). -/
def zeroSign (mode : Rounding) (a b : Bool) : Bool := if a == b then a else mode == .rd

/-- The exact product of R136: NaN of 0 times infinity is invalid. -/
def xmul (a b : XVal) : XVal :=
  match a, b with
  | .nan s, y => .nan (s || y.signalling)
  | x, .nan s => .nan (s || x.signalling)
  | .inf n, y => if y.isZero then .nan true else .inf (n != y.neg)
  | x, .inf n => if x.isZero then .nan true else .inf (n != x.neg)
  | x, y => (x.dy.mul y.dy).val (x.neg != y.neg)

/-- The exact sum of R136: opposite infinities are invalid. -/
def xadd (mode : Rounding) (a b : XVal) : XVal :=
  match a, b with
  | .nan s, y => .nan (s || y.signalling)
  | x, .nan s => .nan (s || x.signalling)
  | .inf n, .inf k => if n == k then .inf n else .nan true
  | .inf n, _ => .inf n
  | _, .inf n => .inf n
  | x, y => (x.dy.add y.dy).val (zeroSign mode x.neg y.neg)

/-- FADD, FSUB and FMUL (R136). -/
def Fmt.add (f : Fmt) (mode : Rounding) (a b : Nat) : Res := f.round mode (xadd mode (f.decode a) (f.decode b))
def Fmt.sub (f : Fmt) (mode : Rounding) (a b : Nat) : Res := f.round mode (xadd mode (f.decode a) (f.decode b).flip)
def Fmt.mul (f : Fmt) (mode : Rounding) (a b : Nat) : Res := f.round mode (xmul (f.decode a) (f.decode b))

/-- FMA and FNMA (R136): the exact product, negated for FNMA, plus the addend. -/
def Fmt.fma (f : Fmt) (mode : Rounding) (negate : Bool) (a b d : Nat) : Res :=
  let p := xmul (f.decode a) (f.decode b)
  f.round mode (xadd mode (if negate then p.flip else p) (f.decode d))

/-- The magnitude of a quotient of naturals with more than 64 significant bits. -/
def quotient (a b : Nat) (e : Int) : Mag :=
  let k := 66 + Nat.log2 b
  ⟨a * 2 ^ k / b, e - k, a * 2 ^ k % b != 0⟩

/-- FDIV (R136, R99). -/
def Fmt.div (f : Fmt) (mode : Rounding) (a b : Nat) : Res :=
  match f.decode a, f.decode b with
  | .nan s, y => f.nanRes (s || y.signalling)
  | x, .nan s => f.nanRes (s || x.signalling)
  | .inf n, y => if y.isZero then f.infRes (n != y.neg) 0 else
      match y with
      | .inf _ => f.nanRes true
      | _ => f.infRes (n != y.neg) 0
  | x, .inf n => f.zeroRes (x.neg != n)
  | .fin n m e, .fin k p q =>
    if p = 0 then (if m = 0 then f.nanRes true else f.infRes (n != k) excDivZero)
    else if m = 0 then f.zeroRes (n != k)
    else f.roundMag mode (n != k) 0 (quotient m p (e - q))

/-- The integer square root, one bit at a time from bit k - 1 down. -/
def isqrtFrom : Nat → Nat → Nat → Nat
  | 0, _, r => r
  | k + 1, n, r => if (r + 2 ^ k) * (r + 2 ^ k) ≤ n then isqrtFrom k n (r + 2 ^ k) else isqrtFrom k n r

/-- floor(sqrt n). -/
def isqrt (n : Nat) : Nat := isqrtFrom (Nat.log2 n / 2 + 1) n 0

/-- The square root of m * 2^e as a magnitude with more than 64 significant bits; `rest` says that m itself is already
rounded down. -/
def rootMag (m : Nat) (e : Int) (rest : Bool) : Mag :=
  let k : Nat := 140 + (if (e - 140) % 2 = 0 then 0 else 1)
  let n := m * 2 ^ k
  ⟨isqrt n, (e - k) / 2, isqrt n * isqrt n != n || rest⟩

/-- FSQRT (R140). -/
def Fmt.sqrt (f : Fmt) (mode : Rounding) (a : Nat) : Res :=
  match f.decode a with
  | .nan s => f.nanRes s
  | .inf n => if n then f.nanRes true else f.infRes false 0
  | .fin n m e => if m = 0 then f.zeroRes n else if n then f.nanRes true else f.roundMag mode false 0 (rootMag m e false)

/-- FRCP (R140). -/
def Fmt.rcp (f : Fmt) (mode : Rounding) (a : Nat) : Res :=
  match f.decode a with
  | .nan s => f.nanRes s
  | .inf n => f.zeroRes n
  | .fin n m e => if m = 0 then f.infRes n excDivZero else f.roundMag mode n 0 (quotient 1 m (-e))

/-- FRSQ (R140): the square root of 1 / (m * 2^e), the quotient taken to 400 bits first. -/
def Fmt.rsq (f : Fmt) (mode : Rounding) (a : Nat) : Res :=
  match f.decode a with
  | .nan s => f.nanRes s
  | .inf n => if n then f.nanRes true else f.zeroRes false
  | .fin n m e =>
    if m = 0 then f.infRes n excDivZero
    else if n then f.nanRes true
    else f.roundMag mode false 0 (rootMag (2 ^ 400 / m) (-e - 400) (2 ^ 400 % m != 0))

/-! ### 2^x and log2 x

Both are irrational unless the operand is an integer (2^x) or a power of two (log2 x). The value is computed to 320
fraction bits from the series of atanh and exp, of which 240 are kept; the last bits of the work, which hold the error
of the series, are cut off. DEDUCED (assumption 6): no f32 operand brings the value closer than that to a rounding
boundary. -/

/-- Fraction bits of the work. -/
def workBits : Nat := 320

/-- Terms z^(2k+1)/(2k+1) from the k-th on, p = z^(2k+1) scaled by 2^320, z = num/den. -/
def atanhTerms (num den : Nat) : Nat → Nat → Nat → Nat
  | 0, _, _ => 0
  | fuel + 1, p, k => p / (2 * k + 1) + atanhTerms num den fuel (p * num * num / (den * den)) (k + 1)

/-- 2 * atanh(num/den) scaled by 2^320, for num/den at most 1/3. -/
def atanh2 (num den : Nat) : Nat := 2 * atanhTerms num den 110 (num * 2 ^ workBits / den) 0

/-- ln 2 scaled by 2^320. -/
def ln2 : Nat := atanh2 1 3

/-- Terms x^k/k! from the k-th on, t the last term, all scaled by 2^320. -/
def expTerms (x : Nat) : Nat → Nat → Nat → Nat
  | 0, _, _ => 0
  | fuel + 1, t, k => t + expTerms x fuel (t * x / (2 ^ workBits * k)) (k + 1)

/-- Keep 240 fraction bits of a value scaled by 2^320. -/
def cut (n : Nat) (e : Int) : Mag := ⟨n / 2 ^ 80, e - 240, true⟩

/-- FEXP2 (R140). Operands of large magnitude overflow or lie far below every subnormal. -/
def Fmt.exp2 (f : Fmt) (mode : Rounding) (a : Nat) : Res :=
  match f.decode a with
  | .nan s => f.nanRes s
  | .inf n => if n then f.zeroRes false else f.infRes false 0
  | .fin n m e =>
    if m = 0 then f.round mode (.fin false 1 0)
    else if decide (9 ≤ (Nat.log2 m : Nat) + e) then
      f.roundMag mode false 0 (if n then ⟨1, -1000, true⟩ else ⟨1, 1000, true⟩)
    else
      let k := (-e).toNat
      -- the operand is v / 2^k
      let v : Int := (if n then -(m : Int) else m) * 2 ^ (e.toNat)
      let whole := v / (2 ^ k : Nat)
      let frac := (v % (2 ^ k : Nat)).toNat
      if frac = 0 then f.roundMag mode false 0 ⟨1, whole, false⟩
      else f.roundMag mode false 0 (cut (expTerms (frac * ln2 / 2 ^ k) 100 (2 ^ workBits) 1) whole)

/-- FLOG2 (R140). -/
def Fmt.log2 (f : Fmt) (mode : Rounding) (a : Nat) : Res :=
  match f.decode a with
  | .nan s => f.nanRes s
  | .inf n => if n then f.nanRes true else f.infRes false 0
  | .fin n m e =>
    if m = 0 then f.infRes true excDivZero
    else if n then f.nanRes true
    else
      let k := Nat.log2 m
      let whole : Int := k + e
      if m = 2 ^ k then f.round mode (.fin (decide (whole < 0)) whole.natAbs 0)
      else
        let part := atanh2 (m - 2 ^ k) (m + 2 ^ k) * 2 ^ workBits / ln2
        let v : Int := whole * (2 ^ workBits : Nat) + part
        f.roundMag mode (decide (v < 0)) 0 (cut v.natAbs 0)

/-- FSCL (R138): multiply by 2^n. -/
def Fmt.scl (f : Fmt) (mode : Rounding) (a : Nat) (n : Int) : Res :=
  match f.decode a with
  | .nan s => f.nanRes s
  | .inf k => f.infRes k 0
  | .fin k m e => if m = 0 then f.zeroRes k else
      -- beyond 2^5000 either way the result no longer depends on the amount
      let n := if 5000 < n then 5000 else if n < -5000 then -5000 else n
      f.roundMag mode k 0 ⟨m, e + n, false⟩

/-- FEXT (R139). -/
def Fmt.ext (f : Fmt) (a : Nat) : W32 :=
  match f.decode a with
  | .nan _ => 0x80000001
  | .inf _ => 0x7FFFFFFF
  | .fin _ m e => if m = 0 then 0x80000000 else BitVec.ofInt 32 ((Nat.log2 m : Nat) + e)

/-- FRND (R141): to an integral value; no inexact. -/
def Fmt.rnd (f : Fmt) (mode : Rounding) (a : Nat) : Res :=
  match f.decode a with
  | .nan s => f.nanRes s
  | .inf n => f.infRes n 0
  | .fin n m e =>
    if m = 0 ∨ 0 ≤ e then ⟨a, 0⟩
    else
      let r := ((⟨m, e, false⟩ : Mag).roundAt mode n 0 0).1
      if r = 0 then f.zeroRes n else ⟨(f.roundMag .rn n 0 ⟨r, 0, false⟩).bits, 0⟩

/-- a is below b, neither a NaN; −0 counts as below +0 when `zeros` is set (R142). -/
def xlt (zeros : Bool) (a b : XVal) : Bool :=
  match a, b with
  | .inf n, .inf k => n && !k
  | .inf n, _ => n
  | _, .inf k => !k
  | x, y => if zeros && x.isZero && y.isZero then x.neg && !y.neg else x.dy.lt y.dy

/-- FMIN, FMAX, FMINN and FMAXN (R142): `number` passes the operand that is not a NaN. -/
def Fmt.pick (f : Fmt) (isMax number : Bool) (a b : Nat) : Res :=
  let x := f.decode a
  let y := f.decode b
  let exc := excIf (x.signalling || y.signalling) excInvalid
  if x.isNan && y.isNan then ⟨f.nan, exc⟩
  else if x.isNan then ⟨if number then b else f.nan, exc⟩
  else if y.isNan then ⟨if number then a else f.nan, exc⟩
  else if isMax then ⟨if xlt true x y then b else a, exc⟩
  else ⟨if xlt true y x then b else a, exc⟩

/-- FCLASS (R144). -/
def Fmt.classify (f : Fmt) (a : Nat) : W32 :=
  match f.decode a with
  | .nan s => if s then 0x100 else 0x200
  | .inf n => if n then 0x001 else 0x080
  | .fin n m e =>
    if m = 0 then (if n then 0x008 else 0x010)
    else if decide ((Nat.log2 m : Nat) + e < f.emin) then (if n then 0x004 else 0x020)
    else (if n then 0x002 else 0x040)

/-- FCMP (R145): the condition and whether it raises invalid. -/
def Fmt.compare (f : Fmt) (c : FCond) (a b : Nat) : Bool × Exc :=
  let x := f.decode a
  let y := f.decode b
  let un := x.isNan || y.isNan
  let lt := !un && xlt false x y
  let gt := !un && xlt false y x
  let quiet := excIf (x.signalling || y.signalling) excInvalid
  let loud := excIf un excInvalid
  match c with
  | .eq => (!un && !lt && !gt, quiet)
  | .ne => (un || lt || gt, quiet)
  | .lt => (lt, loud)
  | .le => (!un && !gt, loud)
  | .gt => (gt, loud)
  | .ge => (!un && !lt, loud)
  | .un => (un, quiet)
  | .ord => (!un, quiet)

/-! ### Conversions -/

/-- The floating-point format of a type. -/
def fmtOf : NumTy → Option Fmt
  | .f64 => some fmtF64 | .f32 => some fmtF32 | .f16 => some fmtF16 | .bf16 => some fmtBf16
  | .e4m3 => some fmtE4m3 | .e5m2 => some fmtE5m2
  | _ => none

end Sys2Proof.Machine

namespace Sys2Proof

/-- Width of a type in bits (R83, R85). -/
def NumTy.bits : NumTy → Nat
  | .f64 | .i64 | .n64 => 64
  | .f32 | .i32 | .n32 => 32
  | .f16 | .bf16 | .i16 | .n16 => 16
  | .e4m3 | .e5m2 | .i8 | .n8 => 8

/-- Signed integer types. -/
def NumTy.signed : NumTy → Bool
  | .i8 | .i16 | .i32 | .i64 => true
  | _ => false

/-- Smallest and largest value of an integer type. -/
def NumTy.lo (t : NumTy) : Int := if t.signed then -(2 ^ (t.bits - 1) : Nat) else 0
def NumTy.hi (t : NumTy) : Int := if t.signed then (2 ^ (t.bits - 1) : Nat) - 1 else (2 ^ t.bits : Nat) - 1

/-- The integer that a type reads from bits. -/
def NumTy.int (t : NumTy) (b : Nat) : Int := if t.signed then Machine.sInt t.bits b else (b % 2 ^ t.bits : Nat)

/-- The bits of an integer in a type. -/
def NumTy.ofInt (t : NumTy) (v : Int) : Nat := (v % (2 ^ t.bits : Nat)).toNat

/-- An integer saturated to a type. -/
def NumTy.sat (t : NumTy) (v : Int) : Int := if v < t.lo then t.lo else if t.hi < v then t.hi else v

end Sys2Proof

namespace Sys2Proof.Machine

/-- Float to float and integer to float rounding with the saturation rows of R97; `draw` is used by .rs. -/
def Fmt.convert (f : Fmt) (mode : Rounding) (draw : Nat) (x : XVal) : Res :=
  match x with
  | .nan s => f.nanRes s
  | .inf n =>
    match f.sp with
    | .e4m3 => ⟨f.signed n f.max, excOverflow ||| excInexact⟩
    | _ => f.infRes n 0
  | .fin n m e => if m = 0 then f.zeroRes n else f.roundMag mode n draw ⟨m, e, false⟩

/-- Float to integer (R97). -/
def toInteger (t : NumTy) (mode : Rounding) (x : XVal) : Res :=
  match x with
  | .nan _ => ⟨0, excInvalid⟩
  | .inf n => ⟨t.ofInt (if n then t.lo else t.hi), excInvalid⟩
  | .fin n m e =>
    let r := (⟨m, e, false⟩ : Mag).roundAt mode n 0 0
    let v : Int := if n then -(r.1 : Int) else r.1
    if v < t.lo then ⟨t.ofInt t.lo, excInvalid⟩
    else if t.hi < v then ⟨t.ofInt t.hi, excInvalid⟩
    else ⟨t.ofInt v, excIf r.2 excInexact⟩

/-- One conversion (R97). -/
def convert (dst src : NumTy) (mode : Rounding) (draw : Nat) (b : Nat) : Res :=
  match fmtOf src, fmtOf dst with
  | some f, some g => g.convert mode draw (f.decode b)
  | some f, none => toInteger dst mode (f.decode b)
  | none, some g => g.convert mode draw (.fin (decide (src.int b < 0)) (src.int b).natAbs 0)
  | none, none => ⟨dst.ofInt (dst.sat (src.int b)), 0⟩

/-- The 64-bit register image of a value of a type (R84): small signed integers extend to 32 bits. -/
def image (t : NumTy) (b : Nat) : W64 :=
  if t.signed && decide (t.bits < 32) then BitVec.ofNat 64 ((sInt t.bits b % (2 ^ 32 : Nat)).toNat)
  else BitVec.ofNat 64 (b % 2 ^ t.bits)

/-- One step of the stochastic-rounding generator (R96). -/
def xorshift (x : W32) : W32 :=
  let x := x ^^^ (x <<< 13)
  let x := x ^^^ (x >>> 17)
  x ^^^ (x <<< 5)

/-! ### Matrix products -/

/-- The exceptions of one block and the accumulator after it (R101, R104). -/
def blockSum (acc : Nat) (pairs : List (XVal × XVal)) : Res :=
  let a := fmtF32.decode acc
  let ps := pairs.map (fun p => xmul p.1 p.2)
  let special := ps.any (fun p => match p with | .fin _ _ _ => false | _ => true)
  let s := ps.foldl (fun t p => t.add p.dy) (⟨0, 0⟩ : Dy)
  let both := a :: ps
  let raised := pairs.any (fun p => p.1.signalling || p.2.signalling) || both.any XVal.signalling ||
    (both.contains (.inf true) && both.contains (.inf false))
  let base := excIf raised excInvalid
  if special || a.isNan || (match a with | .inf _ => true | _ => false) then
    let sum := ps.foldl (fun t p => xadd .rn t (match p with | .fin _ _ _ => .fin false 0 0 | q => q)) a
    match sum with
    | .inf n => ⟨fmtF32.signed n fmtF32.inf, base⟩
    | x => ⟨fmtF32.nan, base ||| excIf x.signalling excInvalid⟩
  else if s.m = 0 then ⟨acc, base⟩
  else
    let r := fmtF32.round .rn ((a.dy.add s).val false)
    ⟨r.bits, base ||| r.exc⟩

/-! ### Bit counting -/

/-- Number of set bits among the n low bits. -/
def popCount (v : Nat) : Nat → Nat
  | 0 => 0
  | n + 1 => (if v.testBit n then 1 else 0) + popCount v n

/-- Leading zeros of an n-bit value. -/
def leadingZeros (n v : Nat) : Nat := if v = 0 then n else n - 1 - Nat.log2 v

/-- Trailing zeros counted from bit k of an n-bit value. -/
def trailingZeros (v : Nat) : Nat → Nat → Nat
  | 0, k => k
  | fuel + 1, k => if v.testBit k then k else trailingZeros v fuel (k + 1)

/-- The bits of a word in reverse order. -/
def reverseBits {w : Nat} (v : BitVec w) : BitVec w :=
  (List.range w).foldl (fun m n => setBit m (w - 1 - n) (v.getLsbD n)) 0

end Sys2Proof.Machine
end

