-- ==== Sys2Proof/Machine/Integer.lean ====
section
/-! DEFINITION. The integer, address, predicate and lane instructions (R106 to R129): the INT, INT64, UINT, LANE, SEL,
CARRY and immediate majors. Each meaning is a shared shape (what is read, what is written, what carries a poison mark)
around the arithmetic of its entry. -/
namespace Sys2Proof.Machine

/-! ### Arithmetic -/

/-- MULH on w bits (R111): the high half of the exact product. -/
def mulHigh {w : Nat} (signed : Bool) (a b : BitVec w) : BitVec w :=
  BitVec.ofInt w ((if signed then a.toInt * b.toInt else (a.toNat : Int) * b.toNat) / (2 ^ w : Nat))

/-- DIV (R112): `n` selects the unsigned form. -/
def divide (n : Bool) (a b : W32) : W32 :=
  if b = 0 then 0xFFFFFFFF
  else if n then a / b
  else if a = 0x80000000 ∧ b = 0xFFFFFFFF then 0x80000000
  else a.sdiv b

/-- REM (R112). -/
def remainder (n : Bool) (a b : W32) : W32 :=
  if b = 0 then a
  else if n then a % b
  else if a = 0x80000000 ∧ b = 0xFFFFFFFF then 0
  else a.srem b

/-- a is below b, unsigned when n (R113, R123). -/
def lessThan {w : Nat} (n : Bool) (a b : BitVec w) : Bool := if n then BitVec.ult a b else BitVec.slt a b

/-- MIN and MAX (R113). -/
def minimum {w : Nat} (n : Bool) (a b : BitVec w) : BitVec w := if lessThan n b a then b else a
def maximum {w : Nat} (n : Bool) (a b : BitVec w) : BitVec w := if lessThan n a b then b else a

/-- Clamp an exact sum or difference to 32 bits, unsigned when n (R113). -/
def clamp (n : Bool) (v : Int) : W32 :=
  let t : NumTy := if n then .n32 else .i32
  BitVec.ofInt 32 (t.sat v)

/-- The integer that a 32-bit value stands for. -/
def intOf (n : Bool) (a : W32) : Int := if n then a.toNat else a.toInt

/-- Shifts by an unsigned amount (R114). -/
def shiftLeft {w : Nat} (a : BitVec w) (amt : Nat) : BitVec w := if w ≤ amt then 0 else a <<< amt
def shiftRight {w : Nat} (a : BitVec w) (amt : Nat) : BitVec w := if w ≤ amt then 0 else a >>> amt
def shiftArith {w : Nat} (a : BitVec w) (amt : Nat) : BitVec w :=
  if w ≤ amt then (if a.msb then BitVec.allOnes w else 0) else a.sshiftRight amt

/-- The position and length in a bit-field control word (R115). -/
def fieldPos {w : Nat} (b : BitVec w) : Nat := b.toNat % 256
def fieldLen {w : Nat} (b : BitVec w) : Nat := min (b.toNat / 256 % 256) w

/-- BFX (R115); bits above the width read as the extension. -/
def extractField {w : Nat} (n : Bool) (a b : BitVec w) : BitVec w :=
  let x : Int := if n then a.toNat else a.toInt
  let len := fieldLen b
  let f := (x / (2 ^ fieldPos b : Nat)) % (2 ^ len : Nat)
  if len = 0 then 0 else if n then BitVec.ofInt w f else BitVec.ofInt w (sInt len f.toNat)

/-- BFI (R115). -/
def insertField {w : Nat} (a b d : BitVec w) : BitVec w :=
  let m : BitVec w := BitVec.ofNat w ((2 ^ fieldLen b - 1) * 2 ^ fieldPos b)
  (d &&& ~~~m) ||| (BitVec.ofNat w (a.toNat * 2 ^ fieldPos b) &&& m)

/-- Byte i of the result of PERMB (R116). -/
def permByte (pool : W64) (b : W32) (i : Nat) : Byte :=
  let c := b.toNat / 16 ^ i % 16
  let y : Byte := pool.extractLsb' (8 * (c % 8)) 8
  if 8 ≤ c then (if y.msb then 0xFF else 0) else y

/-- PERMB (R116). -/
def permuteBytes (a b d : W32) : W32 :=
  let pool : W64 := d ++ a
  permByte pool b 3 ++ permByte pool b 2 ++ permByte pool b 1 ++ permByte pool b 0

/-- ABS (R117). -/
def absolute {w : Nat} (a : BitVec w) : BitVec w := if a.msb then -a else a

/-- The counts of R117. -/
def countOnes {w : Nat} (a : BitVec w) : BitVec w := BitVec.ofNat w (popCount a.toNat w)
def countLeading {w : Nat} (a : BitVec w) : BitVec w := BitVec.ofNat w (leadingZeros w a.toNat)
def countTrailing {w : Nat} (a : BitVec w) : BitVec w := BitVec.ofNat w (trailingZeros a.toNat w 0)

/-- A condition of CMP (R123). -/
def holds {w : Nat} (n : Bool) (c : Cond) (a b : BitVec w) : Bool :=
  match c with
  | .eq => a == b
  | .ne => a != b
  | .lt => lessThan n a b
  | .le => !lessThan n b a
  | .gt => lessThan n b a
  | .ge => !lessThan n a b

/-! ### Shapes -/

/-- A per-lane instruction with a 32-bit result (R106, R109). -/
def lane32 (i : Instr) (nw : Bool) (d : Reg) (f : Lane → W32) (m : Lane → Bool) (s : State) :
    Host.Outcome State Fault Refusal :=
  issueWord i s (fun c => c.done i s (c.valued nw false d (fun _ l => ((f l).setWidth 64, m l))))

/-- A per-lane instruction with a 64-bit result. -/
def lane64 (i : Instr) (nw : Bool) (d : Reg) (f : Lane → W64) (m : Lane → Bool) (s : State) :
    Host.Outcome State Fault Refusal :=
  issueWord i s (fun c => c.done i s (c.valued nw true d (fun _ l => (f l, m l))))

/-- A uniform instruction (R106). -/
def uniform64 (i : Instr) (d : Reg) (f : WaveCore → W64) (m : WaveCore → Bool) (s : State) :
    Host.Outcome State Fault Refusal :=
  issueWord i s (fun c => c.done i s (c.uniform d (fun w => (f w, m w))))

/-- A per-lane instruction that writes a predicate. -/
def lanePred (i : Instr) (q : BitVec 4) (f : Issue → Nat → Lane → Bool) (m : Issue → Nat → Lane → Bool) (s : State) :
    Host.Outcome State Fault Refusal :=
  issueWord i s (fun c => c.done i s (c.predicated q (fun n l => (f c n l, m c n l))))

/-! ### INT: 32-bit (R110) -/

/-- ADD (R111). -/
def execAdd32 (nw : Bool) (d : Reg) (a : Reg) (b : Reg) (s : State) : Host.Outcome State Fault Refusal :=
  lane32 (.add32 nw d a b) nw d (fun l => l.src32 a + l.src32 b) (fun l => l.marked a 1 || l.marked b 1) s

/-- SUB (R111). -/
def execSub32 (nw : Bool) (d : Reg) (a : Reg) (b : Reg) (s : State) : Host.Outcome State Fault Refusal :=
  lane32 (.sub32 nw d a b) nw d (fun l => l.src32 a - l.src32 b) (fun l => l.marked a 1 || l.marked b 1) s

/-- MULL (R111). -/
def execMull (nw : Bool) (d : Reg) (a : Reg) (b : Reg) (s : State) : Host.Outcome State Fault Refusal :=
  lane32 (.mull nw d a b) nw d (fun l => l.src32 a * l.src32 b) (fun l => l.marked a 1 || l.marked b 1) s

/-- MULH_I32 (R111). -/
def execMulhI32 (nw : Bool) (d : Reg) (a : Reg) (b : Reg) (s : State) : Host.Outcome State Fault Refusal :=
  lane32 (.mulhI32 nw d a b) nw d (fun l => mulHigh true (l.src32 a) (l.src32 b))
    (fun l => l.marked a 1 || l.marked b 1) s

/-- MULH_N32 (R111). -/
def execMulhN32 (nw : Bool) (d : Reg) (a : Reg) (b : Reg) (s : State) : Host.Outcome State Fault Refusal :=
  lane32 (.mulhN32 nw d a b) nw d (fun l => mulHigh false (l.src32 a) (l.src32 b))
    (fun l => l.marked a 1 || l.marked b 1) s

/-- MAD (R111, d read). -/
def execMad (nw : Bool) (d : Reg) (a : Reg) (b : Reg) (s : State) : Host.Outcome State Fault Refusal :=
  lane32 (.mad nw d a b) nw d (fun l => l.src32 a * l.src32 b + l.src32 d)
    (fun l => l.marked a 1 || l.marked b 1 || l.marked d 1) s

/-- DIV (R112). -/
def execDiv32 (t : Bool) (nw : Bool) (d : Reg) (a : Reg) (b : Reg) (s : State) : Host.Outcome State Fault Refusal :=
  lane32 (.div32 t nw d a b) nw d (fun l => divide t (l.src32 a) (l.src32 b))
    (fun l => l.marked a 1 || l.marked b 1) s

/-- REM (R112). -/
def execRem32 (t : Bool) (nw : Bool) (d : Reg) (a : Reg) (b : Reg) (s : State) : Host.Outcome State Fault Refusal :=
  lane32 (.rem32 t nw d a b) nw d (fun l => remainder t (l.src32 a) (l.src32 b))
    (fun l => l.marked a 1 || l.marked b 1) s

/-- MIN (R113). -/
def execMin32 (t : Bool) (nw : Bool) (d : Reg) (a : Reg) (b : Reg) (s : State) : Host.Outcome State Fault Refusal :=
  lane32 (.min32 t nw d a b) nw d (fun l => minimum t (l.src32 a) (l.src32 b))
    (fun l => l.marked a 1 || l.marked b 1) s

/-- MAX (R113). -/
def execMax32 (t : Bool) (nw : Bool) (d : Reg) (a : Reg) (b : Reg) (s : State) : Host.Outcome State Fault Refusal :=
  lane32 (.max32 t nw d a b) nw d (fun l => maximum t (l.src32 a) (l.src32 b))
    (fun l => l.marked a 1 || l.marked b 1) s

/-- SADD (R113). -/
def execSadd (t : Bool) (nw : Bool) (d : Reg) (a : Reg) (b : Reg) (s : State) : Host.Outcome State Fault Refusal :=
  lane32 (.sadd t nw d a b) nw d (fun l => clamp t (intOf t (l.src32 a) + intOf t (l.src32 b)))
    (fun l => l.marked a 1 || l.marked b 1) s

/-- SSUB (R113). -/
def execSsub (t : Bool) (nw : Bool) (d : Reg) (a : Reg) (b : Reg) (s : State) : Host.Outcome State Fault Refusal :=
  lane32 (.ssub t nw d a b) nw d (fun l => clamp t (intOf t (l.src32 a) - intOf t (l.src32 b)))
    (fun l => l.marked a 1 || l.marked b 1) s

/-- AND (R110). -/
def execAnd32 (nw : Bool) (d : Reg) (a : Reg) (b : Reg) (s : State) : Host.Outcome State Fault Refusal :=
  lane32 (.and32 nw d a b) nw d (fun l => l.src32 a &&& l.src32 b) (fun l => l.marked a 1 || l.marked b 1) s

/-- OR (R110). -/
def execOr32 (nw : Bool) (d : Reg) (a : Reg) (b : Reg) (s : State) : Host.Outcome State Fault Refusal :=
  lane32 (.or32 nw d a b) nw d (fun l => l.src32 a ||| l.src32 b) (fun l => l.marked a 1 || l.marked b 1) s

/-- XOR (R110). -/
def execXor32 (nw : Bool) (d : Reg) (a : Reg) (b : Reg) (s : State) : Host.Outcome State Fault Refusal :=
  lane32 (.xor32 nw d a b) nw d (fun l => l.src32 a ^^^ l.src32 b) (fun l => l.marked a 1 || l.marked b 1) s

/-- SHL (R114). -/
def execShl (nw : Bool) (d : Reg) (a : Reg) (b : Reg) (s : State) : Host.Outcome State Fault Refusal :=
  lane32 (.shl nw d a b) nw d (fun l => shiftLeft (l.src32 a) (l.src32 b).toNat)
    (fun l => l.marked a 1 || l.marked b 1) s

/-- SHR (R114). -/
def execShr (nw : Bool) (d : Reg) (a : Reg) (b : Reg) (s : State) : Host.Outcome State Fault Refusal :=
  lane32 (.shr nw d a b) nw d (fun l => shiftRight (l.src32 a) (l.src32 b).toNat)
    (fun l => l.marked a 1 || l.marked b 1) s

/-- SAR (R114). -/
def execSar (nw : Bool) (d : Reg) (a : Reg) (b : Reg) (s : State) : Host.Outcome State Fault Refusal :=
  lane32 (.sar nw d a b) nw d (fun l => shiftArith (l.src32 a) (l.src32 b).toNat)
    (fun l => l.marked a 1 || l.marked b 1) s

/-- ROTL (R114). -/
def execRotl (nw : Bool) (d : Reg) (a : Reg) (b : Reg) (s : State) : Host.Outcome State Fault Refusal :=
  lane32 (.rotl nw d a b) nw d (fun l => (l.src32 a).rotateLeft ((l.src32 b).toNat % 32))
    (fun l => l.marked a 1 || l.marked b 1) s

/-- SHLI (R114). -/
def execShli (nw : Bool) (d : Reg) (a : Reg) (n : BitVec 5) (s : State) : Host.Outcome State Fault Refusal :=
  lane32 (.shli nw d a n) nw d (fun l => shiftLeft (l.src32 a) n.toNat) (fun l => l.marked a 1) s

/-- SHRI (R114). -/
def execShri (nw : Bool) (d : Reg) (a : Reg) (n : BitVec 5) (s : State) : Host.Outcome State Fault Refusal :=
  lane32 (.shri nw d a n) nw d (fun l => shiftRight (l.src32 a) n.toNat) (fun l => l.marked a 1) s

/-- SARI (R114). -/
def execSari (nw : Bool) (d : Reg) (a : Reg) (n : BitVec 5) (s : State) : Host.Outcome State Fault Refusal :=
  lane32 (.sari nw d a n) nw d (fun l => shiftArith (l.src32 a) n.toNat) (fun l => l.marked a 1) s

/-- BFX (R115). -/
def execBfx (t : Bool) (nw : Bool) (d : Reg) (a : Reg) (b : Reg) (s : State) : Host.Outcome State Fault Refusal :=
  lane32 (.bfx t nw d a b) nw d (fun l => extractField t (l.src32 a) (l.src32 b))
    (fun l => l.marked a 1 || l.marked b 1) s

/-- BFI (R115, d read). -/
def execBfi (nw : Bool) (d : Reg) (a : Reg) (b : Reg) (s : State) : Host.Outcome State Fault Refusal :=
  lane32 (.bfi nw d a b) nw d (fun l => insertField (l.src32 a) (l.src32 b) (l.src32 d))
    (fun l => l.marked a 1 || l.marked b 1 || l.marked d 1) s

/-- PERMB (R116, d read). -/
def execPermb (nw : Bool) (d : Reg) (a : Reg) (b : Reg) (s : State) : Host.Outcome State Fault Refusal :=
  lane32 (.permb nw d a b) nw d (fun l => permuteBytes (l.src32 a) (l.src32 b) (l.src32 d))
    (fun l => l.marked a 1 || l.marked b 1 || l.marked d 1) s

/-- MOV (R117). -/
def execMov (nw : Bool) (d : Reg) (a : Reg) (s : State) : Host.Outcome State Fault Refusal :=
  lane32 (.mov nw d a) nw d (fun l => l.src32 a) (fun l => l.marked a 1) s

/-- NOT (R117). -/
def execNot32 (nw : Bool) (d : Reg) (a : Reg) (s : State) : Host.Outcome State Fault Refusal :=
  lane32 (.not32 nw d a) nw d (fun l => ~~~(l.src32 a)) (fun l => l.marked a 1) s

/-- NEG (R117). -/
def execNeg32 (nw : Bool) (d : Reg) (a : Reg) (s : State) : Host.Outcome State Fault Refusal :=
  lane32 (.neg32 nw d a) nw d (fun l => -(l.src32 a)) (fun l => l.marked a 1) s

/-- ABS (R117). -/
def execAbs32 (nw : Bool) (d : Reg) (a : Reg) (s : State) : Host.Outcome State Fault Refusal :=
  lane32 (.abs32 nw d a) nw d (fun l => absolute (l.src32 a)) (fun l => l.marked a 1) s

/-- POPC (R117). -/
def execPopc (nw : Bool) (d : Reg) (a : Reg) (s : State) : Host.Outcome State Fault Refusal :=
  lane32 (.popc nw d a) nw d (fun l => countOnes (l.src32 a)) (fun l => l.marked a 1) s

/-- CLZ (R117). -/
def execClz (nw : Bool) (d : Reg) (a : Reg) (s : State) : Host.Outcome State Fault Refusal :=
  lane32 (.clz nw d a) nw d (fun l => countLeading (l.src32 a)) (fun l => l.marked a 1) s

/-- CTZ (R117). -/
def execCtz (nw : Bool) (d : Reg) (a : Reg) (s : State) : Host.Outcome State Fault Refusal :=
  lane32 (.ctz nw d a) nw d (fun l => countTrailing (l.src32 a)) (fun l => l.marked a 1) s

/-- BREV (R117). -/
def execBrev (nw : Bool) (d : Reg) (a : Reg) (s : State) : Host.Outcome State Fault Refusal :=
  lane32 (.brev nw d a) nw d (fun l => reverseBits (l.src32 a)) (fun l => l.marked a 1) s

/-! ### INT64: pairs (R110) -/

/-- ADD_INT64 (R111). -/
def execAddInt64 (nw : Bool) (d : Reg) (a : Reg) (b : Reg) (s : State) : Host.Outcome State Fault Refusal :=
  lane64 (.addInt64 nw d a b) nw d (fun l => l.src64 a + l.src64 b) (fun l => l.marked a 2 || l.marked b 2) s

/-- SUB_INT64 (R111). -/
def execSubInt64 (nw : Bool) (d : Reg) (a : Reg) (b : Reg) (s : State) : Host.Outcome State Fault Refusal :=
  lane64 (.subInt64 nw d a b) nw d (fun l => l.src64 a - l.src64 b) (fun l => l.marked a 2 || l.marked b 2) s

/-- MULL_INT64 (R111). -/
def execMullInt64 (nw : Bool) (d : Reg) (a : Reg) (b : Reg) (s : State) : Host.Outcome State Fault Refusal :=
  lane64 (.mullInt64 nw d a b) nw d (fun l => l.src64 a * l.src64 b) (fun l => l.marked a 2 || l.marked b 2) s

/-- MIN_I64 (R113). -/
def execMinI64 (nw : Bool) (d : Reg) (a : Reg) (b : Reg) (s : State) : Host.Outcome State Fault Refusal :=
  lane64 (.minI64 nw d a b) nw d (fun l => minimum false (l.src64 a) (l.src64 b))
    (fun l => l.marked a 2 || l.marked b 2) s

/-- MIN_N64 (R113). -/
def execMinN64 (nw : Bool) (d : Reg) (a : Reg) (b : Reg) (s : State) : Host.Outcome State Fault Refusal :=
  lane64 (.minN64 nw d a b) nw d (fun l => minimum true (l.src64 a) (l.src64 b))
    (fun l => l.marked a 2 || l.marked b 2) s

/-- MAX_I64 (R113). -/
def execMaxI64 (nw : Bool) (d : Reg) (a : Reg) (b : Reg) (s : State) : Host.Outcome State Fault Refusal :=
  lane64 (.maxI64 nw d a b) nw d (fun l => maximum false (l.src64 a) (l.src64 b))
    (fun l => l.marked a 2 || l.marked b 2) s

/-- MAX_N64 (R113). -/
def execMaxN64 (nw : Bool) (d : Reg) (a : Reg) (b : Reg) (s : State) : Host.Outcome State Fault Refusal :=
  lane64 (.maxN64 nw d a b) nw d (fun l => maximum true (l.src64 a) (l.src64 b))
    (fun l => l.marked a 2 || l.marked b 2) s

/-- AND_INT64 (R110). -/
def execAndInt64 (nw : Bool) (d : Reg) (a : Reg) (b : Reg) (s : State) : Host.Outcome State Fault Refusal :=
  lane64 (.andInt64 nw d a b) nw d (fun l => l.src64 a &&& l.src64 b) (fun l => l.marked a 2 || l.marked b 2) s

/-- OR_INT64 (R110). -/
def execOrInt64 (nw : Bool) (d : Reg) (a : Reg) (b : Reg) (s : State) : Host.Outcome State Fault Refusal :=
  lane64 (.orInt64 nw d a b) nw d (fun l => l.src64 a ||| l.src64 b) (fun l => l.marked a 2 || l.marked b 2) s

/-- XOR_INT64 (R110). -/
def execXorInt64 (nw : Bool) (d : Reg) (a : Reg) (b : Reg) (s : State) : Host.Outcome State Fault Refusal :=
  lane64 (.xorInt64 nw d a b) nw d (fun l => l.src64 a ^^^ l.src64 b) (fun l => l.marked a 2 || l.marked b 2) s

/-- SHL_INT64 (R114). -/
def execShlInt64 (nw : Bool) (d : Reg) (a : Reg) (b : Reg) (s : State) : Host.Outcome State Fault Refusal :=
  lane64 (.shlInt64 nw d a b) nw d (fun l => shiftLeft (l.src64 a) (l.src32 b).toNat)
    (fun l => l.marked a 2 || l.marked b 1) s

/-- SHR_INT64 (R114). -/
def execShrInt64 (nw : Bool) (d : Reg) (a : Reg) (b : Reg) (s : State) : Host.Outcome State Fault Refusal :=
  lane64 (.shrInt64 nw d a b) nw d (fun l => shiftRight (l.src64 a) (l.src32 b).toNat)
    (fun l => l.marked a 2 || l.marked b 1) s

/-- SAR_INT64 (R114). -/
def execSarInt64 (nw : Bool) (d : Reg) (a : Reg) (b : Reg) (s : State) : Host.Outcome State Fault Refusal :=
  lane64 (.sarInt64 nw d a b) nw d (fun l => shiftArith (l.src64 a) (l.src32 b).toNat)
    (fun l => l.marked a 2 || l.marked b 1) s

/-- SHLI_INT64 (R114). -/
def execShliInt64 (nw : Bool) (d : Reg) (a : Reg) (n : BitVec 6) (s : State) : Host.Outcome State Fault Refusal :=
  lane64 (.shliInt64 nw d a n) nw d (fun l => shiftLeft (l.src64 a) n.toNat) (fun l => l.marked a 2) s

/-- SHRI_INT64 (R114). -/
def execShriInt64 (nw : Bool) (d : Reg) (a : Reg) (n : BitVec 6) (s : State) : Host.Outcome State Fault Refusal :=
  lane64 (.shriInt64 nw d a n) nw d (fun l => shiftRight (l.src64 a) n.toNat) (fun l => l.marked a 2) s

/-- SARI_INT64 (R114). -/
def execSariInt64 (nw : Bool) (d : Reg) (a : Reg) (n : BitVec 6) (s : State) : Host.Outcome State Fault Refusal :=
  lane64 (.sariInt64 nw d a n) nw d (fun l => shiftArith (l.src64 a) n.toNat) (fun l => l.marked a 2) s

/-- MOV_INT64 (R117). -/
def execMovInt64 (nw : Bool) (d : Reg) (a : Reg) (s : State) : Host.Outcome State Fault Refusal :=
  lane64 (.movInt64 nw d a) nw d (fun l => l.src64 a) (fun l => l.marked a 2) s

/-- NOT_INT64 (R117). -/
def execNotInt64 (nw : Bool) (d : Reg) (a : Reg) (s : State) : Host.Outcome State Fault Refusal :=
  lane64 (.notInt64 nw d a) nw d (fun l => ~~~(l.src64 a)) (fun l => l.marked a 2) s

/-- NEG_INT64 (R117). -/
def execNegInt64 (nw : Bool) (d : Reg) (a : Reg) (s : State) : Host.Outcome State Fault Refusal :=
  lane64 (.negInt64 nw d a) nw d (fun l => -(l.src64 a)) (fun l => l.marked a 2) s

/-- ABS_INT64 (R117). -/
def execAbsInt64 (nw : Bool) (d : Reg) (a : Reg) (s : State) : Host.Outcome State Fault Refusal :=
  lane64 (.absInt64 nw d a) nw d (fun l => absolute (l.src64 a)) (fun l => l.marked a 2) s

/-- POPC_INT64 (R117). -/
def execPopcInt64 (nw : Bool) (d : Reg) (a : Reg) (s : State) : Host.Outcome State Fault Refusal :=
  lane64 (.popcInt64 nw d a) nw d (fun l => countOnes (l.src64 a)) (fun l => l.marked a 2) s

/-- CLZ_INT64 (R117). -/
def execClzInt64 (nw : Bool) (d : Reg) (a : Reg) (s : State) : Host.Outcome State Fault Refusal :=
  lane64 (.clzInt64 nw d a) nw d (fun l => countLeading (l.src64 a)) (fun l => l.marked a 2) s

/-- CTZ_INT64 (R117). -/
def execCtzInt64 (nw : Bool) (d : Reg) (a : Reg) (s : State) : Host.Outcome State Fault Refusal :=
  lane64 (.ctzInt64 nw d a) nw d (fun l => countTrailing (l.src64 a)) (fun l => l.marked a 2) s

/-- BREV_INT64 (R117). -/
def execBrevInt64 (nw : Bool) (d : Reg) (a : Reg) (s : State) : Host.Outcome State Fault Refusal :=
  lane64 (.brevInt64 nw d a) nw d (fun l => reverseBits (l.src64 a)) (fun l => l.marked a 2) s

/-- LEA_I32 (R118). -/
def execLeaI32 (nw : Bool) (d : Reg) (a : Reg) (b : Reg) (s : State) : Host.Outcome State Fault Refusal :=
  lane64 (.leaI32 nw d a b) nw d (fun l => l.src64 a + (l.src32 b).signExtend 64)
    (fun l => l.marked a 2 || l.marked b 1) s

/-- LEA_N32 (R118). -/
def execLeaN32 (nw : Bool) (d : Reg) (a : Reg) (b : Reg) (s : State) : Host.Outcome State Fault Refusal :=
  lane64 (.leaN32 nw d a b) nw d (fun l => l.src64 a + (l.src32 b).setWidth 64)
    (fun l => l.marked a 2 || l.marked b 1) s

/-! ### UINT: uniform registers (R106, R110) -/

/-- ADD_UINT (R111). -/
def execAddUint (d : Reg) (a : Reg) (b : Reg) (s : State) : Host.Outcome State Fault Refusal :=
  uniform64 (.addUint d a b) d (fun w => w.uni a + w.uni b)
    (fun w => w.uniMark a || w.uniMark b) s

/-- SUB_UINT (R111). -/
def execSubUint (d : Reg) (a : Reg) (b : Reg) (s : State) : Host.Outcome State Fault Refusal :=
  uniform64 (.subUint d a b) d (fun w => w.uni a - w.uni b)
    (fun w => w.uniMark a || w.uniMark b) s

/-- MULL_UINT (R111). -/
def execMullUint (d : Reg) (a : Reg) (b : Reg) (s : State) : Host.Outcome State Fault Refusal :=
  uniform64 (.mullUint d a b) d (fun w => w.uni a * w.uni b)
    (fun w => w.uniMark a || w.uniMark b) s

/-- MULH_I64 (R111). -/
def execMulhI64 (d : Reg) (a : Reg) (b : Reg) (s : State) : Host.Outcome State Fault Refusal :=
  uniform64 (.mulhI64 d a b) d (fun w => mulHigh true (w.uni a) (w.uni b))
    (fun w => w.uniMark a || w.uniMark b) s

/-- MULH_N64 (R111). -/
def execMulhN64 (d : Reg) (a : Reg) (b : Reg) (s : State) : Host.Outcome State Fault Refusal :=
  uniform64 (.mulhN64 d a b) d (fun w => mulHigh false (w.uni a) (w.uni b))
    (fun w => w.uniMark a || w.uniMark b) s

/-- MAD_UINT (R111, d read). -/
def execMadUint (d : Reg) (a : Reg) (b : Reg) (s : State) : Host.Outcome State Fault Refusal :=
  uniform64 (.madUint d a b) d (fun w => w.uni a * w.uni b + w.uni d)
    (fun w => w.uniMark a || w.uniMark b || w.uniMark d) s

/-- MIN_UINT (R113). -/
def execMinUint (t : Bool) (d : Reg) (a : Reg) (b : Reg) (s : State) : Host.Outcome State Fault Refusal :=
  uniform64 (.minUint t d a b) d (fun w => minimum t (w.uni a) (w.uni b))
    (fun w => w.uniMark a || w.uniMark b) s

/-- MAX_UINT (R113). -/
def execMaxUint (t : Bool) (d : Reg) (a : Reg) (b : Reg) (s : State) : Host.Outcome State Fault Refusal :=
  uniform64 (.maxUint t d a b) d (fun w => maximum t (w.uni a) (w.uni b))
    (fun w => w.uniMark a || w.uniMark b) s

/-- AND_UINT (R110). -/
def execAndUint (d : Reg) (a : Reg) (b : Reg) (s : State) : Host.Outcome State Fault Refusal :=
  uniform64 (.andUint d a b) d (fun w => w.uni a &&& w.uni b)
    (fun w => w.uniMark a || w.uniMark b) s

/-- OR_UINT (R110). -/
def execOrUint (d : Reg) (a : Reg) (b : Reg) (s : State) : Host.Outcome State Fault Refusal :=
  uniform64 (.orUint d a b) d (fun w => w.uni a ||| w.uni b)
    (fun w => w.uniMark a || w.uniMark b) s

/-- XOR_UINT (R110). -/
def execXorUint (d : Reg) (a : Reg) (b : Reg) (s : State) : Host.Outcome State Fault Refusal :=
  uniform64 (.xorUint d a b) d (fun w => w.uni a ^^^ w.uni b)
    (fun w => w.uniMark a || w.uniMark b) s

/-- SHL_UINT (R114). -/
def execShlUint (d : Reg) (a : Reg) (b : Reg) (s : State) : Host.Outcome State Fault Refusal :=
  uniform64 (.shlUint d a b) d (fun w => shiftLeft (w.uni a) (w.uni b).toNat)
    (fun w => w.uniMark a || w.uniMark b) s

/-- SHR_UINT (R114). -/
def execShrUint (d : Reg) (a : Reg) (b : Reg) (s : State) : Host.Outcome State Fault Refusal :=
  uniform64 (.shrUint d a b) d (fun w => shiftRight (w.uni a) (w.uni b).toNat)
    (fun w => w.uniMark a || w.uniMark b) s

/-- SAR_UINT (R114). -/
def execSarUint (d : Reg) (a : Reg) (b : Reg) (s : State) : Host.Outcome State Fault Refusal :=
  uniform64 (.sarUint d a b) d (fun w => shiftArith (w.uni a) (w.uni b).toNat)
    (fun w => w.uniMark a || w.uniMark b) s

/-- SHLI_UINT (R114). -/
def execShliUint (d : Reg) (a : Reg) (n : BitVec 6) (s : State) : Host.Outcome State Fault Refusal :=
  uniform64 (.shliUint d a n) d (fun w => shiftLeft (w.uni a) n.toNat) (fun w => w.uniMark a) s

/-- SHRI_UINT (R114). -/
def execShriUint (d : Reg) (a : Reg) (n : BitVec 6) (s : State) : Host.Outcome State Fault Refusal :=
  uniform64 (.shriUint d a n) d (fun w => shiftRight (w.uni a) n.toNat) (fun w => w.uniMark a) s

/-- SARI_UINT (R114). -/
def execSariUint (d : Reg) (a : Reg) (n : BitVec 6) (s : State) : Host.Outcome State Fault Refusal :=
  uniform64 (.sariUint d a n) d (fun w => shiftArith (w.uni a) n.toNat) (fun w => w.uniMark a) s

/-- BFX_I64 (R115). -/
def execBfxI64 (d : Reg) (a : Reg) (b : Reg) (s : State) : Host.Outcome State Fault Refusal :=
  uniform64 (.bfxI64 d a b) d (fun w => extractField false (w.uni a) (w.uni b))
    (fun w => w.uniMark a || w.uniMark b) s

/-- BFX_N64 (R115). -/
def execBfxN64 (d : Reg) (a : Reg) (b : Reg) (s : State) : Host.Outcome State Fault Refusal :=
  uniform64 (.bfxN64 d a b) d (fun w => extractField true (w.uni a) (w.uni b))
    (fun w => w.uniMark a || w.uniMark b) s

/-- BFI_UINT (R115, d read). -/
def execBfiUint (d : Reg) (a : Reg) (b : Reg) (s : State) : Host.Outcome State Fault Refusal :=
  uniform64 (.bfiUint d a b) d (fun w => insertField (w.uni a) (w.uni b) (w.uni d))
    (fun w => w.uniMark a || w.uniMark b || w.uniMark d) s

/-- MOV_UINT (R117). -/
def execMovUint (d : Reg) (a : Reg) (s : State) : Host.Outcome State Fault Refusal :=
  uniform64 (.movUint d a) d (fun w => w.uni a) (fun w => w.uniMark a) s

/-- NOT_UINT (R117). -/
def execNotUint (d : Reg) (a : Reg) (s : State) : Host.Outcome State Fault Refusal :=
  uniform64 (.notUint d a) d (fun w => ~~~(w.uni a)) (fun w => w.uniMark a) s

/-- NEG_UINT (R117). -/
def execNegUint (d : Reg) (a : Reg) (s : State) : Host.Outcome State Fault Refusal :=
  uniform64 (.negUint d a) d (fun w => -(w.uni a)) (fun w => w.uniMark a) s

/-- ABS_UINT (R117). -/
def execAbsUint (d : Reg) (a : Reg) (s : State) : Host.Outcome State Fault Refusal :=
  uniform64 (.absUint d a) d (fun w => absolute (w.uni a)) (fun w => w.uniMark a) s

/-- POPC_UINT (R117). -/
def execPopcUint (d : Reg) (a : Reg) (s : State) : Host.Outcome State Fault Refusal :=
  uniform64 (.popcUint d a) d (fun w => countOnes (w.uni a)) (fun w => w.uniMark a) s

/-- CLZ_UINT (R117). -/
def execClzUint (d : Reg) (a : Reg) (s : State) : Host.Outcome State Fault Refusal :=
  uniform64 (.clzUint d a) d (fun w => countLeading (w.uni a)) (fun w => w.uniMark a) s

/-- CTZ_UINT (R117). -/
def execCtzUint (d : Reg) (a : Reg) (s : State) : Host.Outcome State Fault Refusal :=
  uniform64 (.ctzUint d a) d (fun w => countTrailing (w.uni a)) (fun w => w.uniMark a) s

/-- BREV_UINT (R117). -/
def execBrevUint (d : Reg) (a : Reg) (s : State) : Host.Outcome State Fault Refusal :=
  uniform64 (.brevUint d a) d (fun w => reverseBits (w.uni a)) (fun w => w.uniMark a) s

/-! ### Compares and predicates (R123, R124) -/

/-- CMP (R123). -/
def execCmp (t : Bool) (c : Cond) (q : BitVec 4) (a : Reg) (b : Reg) (s : State) : Host.Outcome State Fault Refusal :=
  lanePred (.cmp t c q a b) q (fun _ _ l => holds t c (l.src32 a) (l.src32 b))
    (fun _ _ l => l.marked a 1 || l.marked b 1) s

/-- CMP_64 (R123). -/
def execCmp64 (t : Bool) (c : Cond) (q : BitVec 4) (a : Reg) (b : Reg) (s : State) : Host.Outcome State Fault Refusal :=
  lanePred (.cmp64 t c q a b) q (fun _ _ l => holds t c (l.src64 a) (l.src64 b))
    (fun _ _ l => l.marked a 2 || l.marked b 2) s

/-- PAND (R124). -/
def execPand (q : BitVec 4) (x : Bool) (p : BitVec 4) (y : Bool) (r : BitVec 4) (s : State) : Host.Outcome State Fault Refusal :=
  lanePred (.pand q x p y r) q (fun _ _ l => (l.pred p != x) && (l.pred r != y))
    (fun _ _ l => l.predMark p || l.predMark r) s

/-- POR (R124). -/
def execPor (q : BitVec 4) (x : Bool) (p : BitVec 4) (y : Bool) (r : BitVec 4) (s : State) : Host.Outcome State Fault Refusal :=
  lanePred (.por q x p y r) q (fun _ _ l => (l.pred p != x) || (l.pred r != y))
    (fun _ _ l => l.predMark p || l.predMark r) s

/-- PXOR (R124). -/
def execPxor (q : BitVec 4) (x : Bool) (p : BitVec 4) (y : Bool) (r : BitVec 4) (s : State) : Host.Outcome State Fault Refusal :=
  lanePred (.pxor q x p y r) q (fun _ _ l => (l.pred p != x) != (l.pred r != y))
    (fun _ _ l => l.predMark p || l.predMark r) s

/-- PNOT (R124). -/
def execPnot (q : BitVec 4) (x : Bool) (p : BitVec 4) (s : State) : Host.Outcome State Fault Refusal :=
  lanePred (.pnot q x p) q (fun _ _ l => !(l.pred p != x)) (fun _ _ l => l.predMark p) s

/-- PMOV (R124). -/
def execPmov (q : BitVec 4) (x : Bool) (p : BitVec 4) (s : State) : Host.Outcome State Fault Refusal :=
  lanePred (.pmov q x p) q (fun _ _ l => l.pred p != x) (fun _ _ l => l.predMark p) s

/-! ### Lane exchange (R125 to R129) -/

/-- Some active lane has the property. -/
def Issue.anyLane (c : Issue) (f : Lane → Bool) : Bool := (bitsOf c.active).any (fun n => f (c.wave.core.lane n))

/-- Every active lane has the property. -/
def Issue.allLanes (c : Issue) (f : Lane → Bool) : Bool := (bitsOf c.active).all (fun n => f (c.wave.core.lane n))

/-- The active lanes that have the property (R126). -/
def Issue.ballot (c : Issue) (f : Lane → Bool) : W32 :=
  (bitsOf c.active).foldl (fun m n => if f (c.wave.core.lane n) then setBit m n true else m) 0

/-- VOTE_ALL (R126). -/
def execVoteAll (q : BitVec 4) (x : Bool) (p : BitVec 4) (s : State) : Host.Outcome State Fault Refusal :=
  lanePred (.voteAll q x p) q (fun c _ _ => c.allLanes (fun l => l.pred p != x)) (fun c _ _ => c.anyLane
    (fun l => l.predMark p)) s

/-- VOTE_ANY (R126). -/
def execVoteAny (q : BitVec 4) (x : Bool) (p : BitVec 4) (s : State) : Host.Outcome State Fault Refusal :=
  lanePred (.voteAny q x p) q (fun c _ _ => c.anyLane (fun l => l.pred p != x)) (fun c _ _ => c.anyLane
    (fun l => l.predMark p)) s

/-- VOTE_BALLOT (R126). -/
def execVoteBallot (nw : Bool) (d : Reg) (x : Bool) (p : BitVec 4) (s : State) : Host.Outcome State Fault Refusal :=
  issueWord (.voteBallot nw d x p) s (fun c => c.done (.voteBallot nw d x p) s (c.valued nw false d (fun _ _ =>
    ((c.ballot (fun l => l.pred p != x)).setWidth 64, c.anyLane (fun l => l.predMark p)))))

/-- SHFL (R127): the value and mark of the lane that `source` names, when it is active; the lane's own otherwise. -/
def shuffle (i : Instr) (nw : Bool) (d a b : Reg) (source : Nat → Nat → Int) (s : State) :
    Host.Outcome State Fault Refusal :=
  issueWord i s (fun c => c.done i s (c.valued nw false d (fun n l =>
    let j := source n (l.src32 b).toNat
    let l' := if 0 ≤ j ∧ j ≤ 31 ∧ c.on j.toNat then c.wave.core.lane j.toNat else l
    ((l'.src32 a).setWidth 64, l'.marked a 1))))

/-- SHFL_IDX (R127). -/
def execShflIdx (nw : Bool) (d : Reg) (a : Reg) (b : Reg) (s : State) : Host.Outcome State Fault Refusal :=
  shuffle (.shflIdx nw d a b) nw d a b (fun _ n => n) s

/-- SHFL_UP (R127). -/
def execShflUp (nw : Bool) (d : Reg) (a : Reg) (b : Reg) (s : State) : Host.Outcome State Fault Refusal :=
  shuffle (.shflUp nw d a b) nw d a b (fun k n => (k : Int) - n) s

/-- SHFL_DOWN (R127). -/
def execShflDown (nw : Bool) (d : Reg) (a : Reg) (b : Reg) (s : State) : Host.Outcome State Fault Refusal :=
  shuffle (.shflDown nw d a b) nw d a b (fun k n => (k : Int) + n) s

/-- SHFL_XOR (R127). -/
def execShflXor (nw : Bool) (d : Reg) (a : Reg) (b : Reg) (s : State) : Host.Outcome State Fault Refusal :=
  shuffle (.shflXor nw d a b) nw d a b (fun k n => (k ^^^ n : Nat)) s

/-- BCST (R128). -/
def execBcst (z : Bool) (d : Reg) (a : Reg) (s : State) : Host.Outcome State Fault Refusal :=
  issueWord (.bcst z d a) s (fun c => c.done (.bcst z d a) s (c.uniform d (fun w =>
    let l := w.lane c.first
    (if z then l.src64 a else (l.src32 a).setWidth 64, l.marked a (if z then 2 else 1)))))

/-- ELECT (R129). -/
def execElect (q : BitVec 4) (s : State) : Host.Outcome State Fault Refusal :=
  lanePred (.elect q) q (fun c n _ => n == c.first) (fun _ _ _ => false) s

/-- MOV_FROM_UNIFORM (R120). -/
def execMovFromUniform (nw : Bool) (d : Reg) (a : Reg) (z : Bool) (s : State) : Host.Outcome State Fault Refusal :=
  issueWord (.movFromUniform nw d a z) s (fun c => c.done (.movFromUniform nw d a z) s (c.valued nw z d (fun _ _ =>
    let v := c.wave.core.uni a
    (if z then v else (v.setWidth 32).setWidth 64, c.wave.core.uniMark a))))

/-! ### Selection and carry chains (R121, R122) -/

/-- SEL_B32 (R122). -/
def execSelB32 (p : BitVec 4) (nw : Bool) (d : Reg) (a : Reg) (b : Reg) (s : State) : Host.Outcome State Fault Refusal :=
  lane32 (.selB32 p nw d a b) nw d (fun l => if l.pred p then l.src32 a else l.src32 b)
    (fun l => l.predMark p || (if l.pred p then l.marked a 1 else l.marked b 1)) s

/-- SEL_B64 (R122). -/
def execSelB64 (p : BitVec 4) (nw : Bool) (d : Reg) (a : Reg) (b : Reg) (s : State) : Host.Outcome State Fault Refusal :=
  lane64 (.selB64 p nw d a b) nw d (fun l => if l.pred p then l.src64 a else l.src64 b)
    (fun l => l.predMark p || (if l.pred p then l.marked a 2 else l.marked b 2)) s

/-- ADDC and SUBC (R121): the exact sum or difference `t` gives the result and, when it leaves 32 bits, the carry. -/
def carryChain (i : Instr) (p : BitVec 4) (nw : Bool) (d a b : Reg) (t : Int → Int → Int → Int) (s : State) :
    Host.Outcome State Fault Refusal :=
  issueWord i s (fun c =>
    let sum := fun (l : Lane) => t (l.src32 a).toNat (l.src32 b).toNat (if l.pred p then 1 else 0)
    let mark := fun (l : Lane) => l.marked a 1 || l.marked b 1 || l.predMark p
    let core := c.valued nw false d (fun _ l => ((BitVec.ofInt 32 (sum l)).setWidth 64, mark l))
    c.done i s (core.mapLanes (fun n l =>
      let old := c.wave.core.lane n
      if c.on n then l.putPred p (decide (sum old < 0) || decide (2 ^ 32 ≤ sum old)) (mark old) else l)))

/-- ADDC (R121). -/
def execAddc (p : BitVec 4) (nw : Bool) (d : Reg) (a : Reg) (b : Reg) (s : State) : Host.Outcome State Fault Refusal :=
  carryChain (.addc p nw d a b) p nw d a b (fun x y k => x + y + k) s

/-- SUBC (R121). -/
def execSubc (p : BitVec 4) (nw : Bool) (d : Reg) (a : Reg) (b : Reg) (s : State) : Host.Outcome State Fault Refusal :=
  carryChain (.subc p nw d a b) p nw d a b (fun x y k => x - y - k) s

/-! ### Immediate forms (R55, R119) -/

/-- ADDI (R119). -/
def execAddi (i : BitVec 12) (nw : Bool) (d : Reg) (a : Reg) (s : State) : Host.Outcome State Fault Refusal :=
  lane32 (.addi i nw d a) nw d (fun l => l.src32 a + i.signExtend 32) (fun l => l.marked a 1) s

/-- ANDI (R119). -/
def execAndi (i : BitVec 12) (nw : Bool) (d : Reg) (a : Reg) (s : State) : Host.Outcome State Fault Refusal :=
  lane32 (.andi i nw d a) nw d (fun l => l.src32 a &&& i.signExtend 32) (fun l => l.marked a 1) s

/-- ORI (R119). -/
def execOri (i : BitVec 12) (nw : Bool) (d : Reg) (a : Reg) (s : State) : Host.Outcome State Fault Refusal :=
  lane32 (.ori i nw d a) nw d (fun l => l.src32 a ||| i.signExtend 32) (fun l => l.marked a 1) s

/-- XORI (R119). -/
def execXori (i : BitVec 12) (nw : Bool) (d : Reg) (a : Reg) (s : State) : Host.Outcome State Fault Refusal :=
  lane32 (.xori i nw d a) nw d (fun l => l.src32 a ^^^ i.signExtend 32) (fun l => l.marked a 1) s

/-- CMPI (R123). -/
def execCmpi (i : BitVec 12) (t : Bool) (c : Cond) (q : BitVec 4) (a : Reg) (s : State) : Host.Outcome State Fault Refusal :=
  lanePred (.cmpi i t c q a) q (fun _ _ l => holds t c (l.src32 a) (i.signExtend 32)) (fun _ _ l => l.marked a 1) s

/-- LUI (R119). -/
def execLui (i : BitVec 19) (nw : Bool) (d : Reg) (s : State) : Host.Outcome State Fault Refusal :=
  lane32 (.lui i nw d) nw d (fun _ => i.signExtend 32 * 4096) (fun _ => false) s

/-- MOVI (R119). -/
def execMovi (i : BitVec 19) (nw : Bool) (d : Reg) (s : State) : Host.Outcome State Fault Refusal :=
  lane32 (.movi i nw d) nw d (fun _ => i.signExtend 32) (fun _ => false) s

/-- UADDI (R119). -/
def execUaddi (i : BitVec 12) (d : Reg) (a : Reg) (s : State) : Host.Outcome State Fault Refusal :=
  uniform64 (.uaddi i d a) d (fun w => w.uni a + i.signExtend 64) (fun w => w.uniMark a) s

/-- UMOVI (R119). -/
def execUmovi (i : BitVec 19) (d : Reg) (s : State) : Host.Outcome State Fault Refusal :=
  uniform64 (.umovi i d) d (fun _ => i.signExtend 64) (fun _ => false) s

/-- UMOVI_LUI (R119). -/
def execUmoviLui (i : BitVec 19) (d : Reg) (s : State) : Host.Outcome State Fault Refusal :=
  uniform64 (.umoviLui i d) d (fun _ => i.signExtend 64 * 4096) (fun _ => false) s

end Sys2Proof.Machine
end

