-- ==== Sys2Proof/Machine/Float.lean ====
section
/-! DEFINITION. The floating-point and conversion instructions (R130 to R151): the FP32, FP64, FPH, FMISC and CVT majors.
Each lane evaluates its exceptions and either writes its result or takes the precise trap (R133). -/
namespace Sys2Proof.Machine

/-! ### Shapes -/

/-- What a lane makes of a floating-point instruction: result, exceptions and the seed after its draws. -/
structure FpOut where
  val : W64
  exc : Exc
  seed : W32
  deriving DecidableEq, Repr

/-- A result that draws nothing. -/
def fpOut (l : Lane) (r : Res) : FpOut := ⟨BitVec.ofNat 64 r.bits, r.exc, l.seed⟩

/-- The active lanes in which an enabled exception is raised (R133). -/
def Issue.fpTraps (c : Issue) (exc : Lane → Exc) : BitVec 32 :=
  (bitsOf c.active).foldl (fun m n =>
    let l := c.wave.core.lane n
    if exc l &&& l.xenable != 0 then setBit m n true else m) 0

/-- A value-producing floating-point instruction (R132, R133). -/
def fpLane (i : Instr) (nw wide : Bool) (d : Reg) (f : Lane → FpOut) (m : Lane → Bool) (s : State) :
    Host.Outcome State Fault Refusal :=
  issueWord i s (fun c =>
    let traps := c.fpTraps (fun l => (f l).exc)
    let core := { c.wave.core.mapLanes (fun n l =>
        if c.on n && !has traps n then
          let r := f l
          { c.take nw wide d r.val (m l) l with xflags := l.xflags ||| r.exc, seed := r.seed }
        else if has c.entry.lanes n then c.keep nw wide d l
        else l) with
      latchCount := c.latchesAfter }
    c.finish i s s core traps (fun n => causeArithmetic (f (c.wave.core.lane n)).exc) c.entry.pc)

/-- A source of one register or of a pair. -/
def Lane.srcOf (l : Lane) (wide : Bool) (f : Reg) : Nat := if wide then (l.src64 f).toNat else (l.src32 f).toNat

/-- The mark of a source of one register or of a pair. -/
def Lane.markOf (l : Lane) (wide : Bool) (f : Reg) : Bool := l.marked f (if wide then 2 else 1)

/-- A binary instruction in f32 or f64. -/
def fpBinary (i : Instr) (nw wide : Bool) (d a b : Reg) (f : Nat → Nat → Res) (s : State) :
    Host.Outcome State Fault Refusal :=
  fpLane i nw wide d (fun l => fpOut l (f (l.srcOf wide a) (l.srcOf wide b)))
    (fun l => l.markOf wide a || l.markOf wide b) s

/-- A fused instruction, d read. -/
def fpFused (i : Instr) (nw wide : Bool) (d a b : Reg) (f : Nat → Nat → Nat → Res) (s : State) :
    Host.Outcome State Fault Refusal :=
  fpLane i nw wide d (fun l => fpOut l (f (l.srcOf wide a) (l.srcOf wide b) (l.srcOf wide d)))
    (fun l => l.markOf wide a || l.markOf wide b || l.markOf wide d) s

/-- A unary instruction in f32 or f64. -/
def fpUnary (i : Instr) (nw wide : Bool) (d a : Reg) (f : Nat → Res) (s : State) :
    Host.Outcome State Fault Refusal :=
  fpLane i nw wide d (fun l => fpOut l (f (l.srcOf wide a))) (fun l => l.markOf wide a) s

/-- The format of a width. -/
def fmtOfWidth (wide : Bool) : Fmt := if wide then fmtF64 else fmtF32

/-- A packed operation (R146, R147): on the elements 0 and 1 of three registers, exceptions ORed. -/
def packed (f : Nat → Nat → Nat → Res) (a b d : W32) : Res :=
  let lo := f (a.toNat % 65536) (b.toNat % 65536) (d.toNat % 65536)
  let hi := f (a.toNat / 65536) (b.toNat / 65536) (d.toNat / 65536)
  ⟨lo.bits % 65536 + 65536 * (hi.bits % 65536), lo.exc ||| hi.exc⟩

/-- A packed binary instruction. -/
def fpPacked (i : Instr) (nw : Bool) (d a b : Reg) (f : Nat → Nat → Res) (s : State) :
    Host.Outcome State Fault Refusal :=
  fpLane i nw false d (fun l => fpOut l (packed (fun x y _ => f x y) (l.src32 a) (l.src32 b) 0))
    (fun l => l.marked a 1 || l.marked b 1) s

/-- The format of a packed instruction (R70). -/
def fmtOfHalf (t : Bool) : Fmt := if t then fmtBf16 else fmtF16

/-- A value-producing instruction that raises no exception, with a result of one register. -/
def fpQuiet (i : Instr) (nw wide : Bool) (d : Reg) (f : Lane → W64) (m : Lane → Bool) (s : State) :
    Host.Outcome State Fault Refusal :=
  issueWord i s (fun c => c.done i s (c.valued nw wide d (fun _ l => (f l, m l))))

/-! ### FP32 -/

/-- FADD_FP32 (R136). -/
def execFaddFp32 (r : Rm) (nw : Bool) (d : Reg) (a : Reg) (b : Reg) (s : State) :
    Host.Outcome State Fault Refusal :=
  fpBinary (.faddFp32 r nw d a b) nw false d a b (fmtF32.add r.rounding) s

/-- FSUB_FP32 (R136). -/
def execFsubFp32 (r : Rm) (nw : Bool) (d : Reg) (a : Reg) (b : Reg) (s : State) :
    Host.Outcome State Fault Refusal :=
  fpBinary (.fsubFp32 r nw d a b) nw false d a b (fmtF32.sub r.rounding) s

/-- FMUL_FP32 (R136). -/
def execFmulFp32 (r : Rm) (nw : Bool) (d : Reg) (a : Reg) (b : Reg) (s : State) :
    Host.Outcome State Fault Refusal :=
  fpBinary (.fmulFp32 r nw d a b) nw false d a b (fmtF32.mul r.rounding) s

/-- FDIV_FP32 (R136). -/
def execFdivFp32 (r : Rm) (nw : Bool) (d : Reg) (a : Reg) (b : Reg) (s : State) :
    Host.Outcome State Fault Refusal :=
  fpBinary (.fdivFp32 r nw d a b) nw false d a b (fmtF32.div r.rounding) s

/-- FMA_FP32 (R136). -/
def execFmaFp32 (r : Rm) (nw : Bool) (d : Reg) (a : Reg) (b : Reg) (s : State) :
    Host.Outcome State Fault Refusal :=
  fpFused (.fmaFp32 r nw d a b) nw false d a b (fmtF32.fma r.rounding false) s

/-- FNMA_FP32 (R136). -/
def execFnmaFp32 (r : Rm) (nw : Bool) (d : Reg) (a : Reg) (b : Reg) (s : State) :
    Host.Outcome State Fault Refusal :=
  fpFused (.fnmaFp32 r nw d a b) nw false d a b (fmtF32.fma r.rounding true) s

/-- FSCL_FP32 (R138). -/
def execFsclFp32 (r : Rm) (nw : Bool) (d : Reg) (a : Reg) (b : Reg) (s : State) :
    Host.Outcome State Fault Refusal :=
  fpLane (.fsclFp32 r nw d a b) nw false d (fun l => fpOut l (fmtF32.scl r.rounding (l.srcOf false a) (l.src32 b).toInt))
    (fun l => l.markOf false a || l.marked b 1) s

/-- FSQRT_FP32 (R140). -/
def execFsqrtFp32 (r : Rm) (nw : Bool) (d : Reg) (a : Reg) (s : State) :
    Host.Outcome State Fault Refusal :=
  fpUnary (.fsqrtFp32 r nw d a) nw false d a (fmtF32.sqrt r.rounding) s

/-- FRCP (R140). -/
def execFrcp (r : Rm) (nw : Bool) (d : Reg) (a : Reg) (s : State) :
    Host.Outcome State Fault Refusal :=
  fpUnary (.frcp r nw d a) nw false d a (fmtF32.rcp r.rounding) s

/-- FRSQ (R140). -/
def execFrsq (r : Rm) (nw : Bool) (d : Reg) (a : Reg) (s : State) :
    Host.Outcome State Fault Refusal :=
  fpUnary (.frsq r nw d a) nw false d a (fmtF32.rsq r.rounding) s

/-- FEXP2 (R140). -/
def execFexp2 (r : Rm) (nw : Bool) (d : Reg) (a : Reg) (s : State) :
    Host.Outcome State Fault Refusal :=
  fpUnary (.fexp2 r nw d a) nw false d a (fmtF32.exp2 r.rounding) s

/-- FLOG2 (R140). -/
def execFlog2 (r : Rm) (nw : Bool) (d : Reg) (a : Reg) (s : State) :
    Host.Outcome State Fault Refusal :=
  fpUnary (.flog2 r nw d a) nw false d a (fmtF32.log2 r.rounding) s

/-- FRND_FP32 (R141). -/
def execFrndFp32 (r : Rm) (nw : Bool) (d : Reg) (a : Reg) (s : State) :
    Host.Outcome State Fault Refusal :=
  fpUnary (.frndFp32 r nw d a) nw false d a (fmtF32.rnd r.rounding) s

/-- FRND_RNA_FP32 (R141). -/
def execFrndRnaFp32 (nw : Bool) (d : Reg) (a : Reg) (s : State) :
    Host.Outcome State Fault Refusal :=
  fpUnary (.frndRnaFp32 nw d a) nw false d a (fmtF32.rnd .rna) s

/-! ### FP64 -/

/-- FADD_FP64 (R136). -/
def execFaddFp64 (r : Rm) (nw : Bool) (d : Reg) (a : Reg) (b : Reg) (s : State) :
    Host.Outcome State Fault Refusal :=
  fpBinary (.faddFp64 r nw d a b) nw true d a b (fmtF64.add r.rounding) s

/-- FSUB_FP64 (R136). -/
def execFsubFp64 (r : Rm) (nw : Bool) (d : Reg) (a : Reg) (b : Reg) (s : State) :
    Host.Outcome State Fault Refusal :=
  fpBinary (.fsubFp64 r nw d a b) nw true d a b (fmtF64.sub r.rounding) s

/-- FMUL_FP64 (R136). -/
def execFmulFp64 (r : Rm) (nw : Bool) (d : Reg) (a : Reg) (b : Reg) (s : State) :
    Host.Outcome State Fault Refusal :=
  fpBinary (.fmulFp64 r nw d a b) nw true d a b (fmtF64.mul r.rounding) s

/-- FDIV_FP64 (R136). -/
def execFdivFp64 (r : Rm) (nw : Bool) (d : Reg) (a : Reg) (b : Reg) (s : State) :
    Host.Outcome State Fault Refusal :=
  fpBinary (.fdivFp64 r nw d a b) nw true d a b (fmtF64.div r.rounding) s

/-- FMA_FP64 (R136). -/
def execFmaFp64 (r : Rm) (nw : Bool) (d : Reg) (a : Reg) (b : Reg) (s : State) :
    Host.Outcome State Fault Refusal :=
  fpFused (.fmaFp64 r nw d a b) nw true d a b (fmtF64.fma r.rounding false) s

/-- FNMA_FP64 (R136). -/
def execFnmaFp64 (r : Rm) (nw : Bool) (d : Reg) (a : Reg) (b : Reg) (s : State) :
    Host.Outcome State Fault Refusal :=
  fpFused (.fnmaFp64 r nw d a b) nw true d a b (fmtF64.fma r.rounding true) s

/-- FSCL_FP64 (R138). -/
def execFsclFp64 (r : Rm) (nw : Bool) (d : Reg) (a : Reg) (b : Reg) (s : State) :
    Host.Outcome State Fault Refusal :=
  fpLane (.fsclFp64 r nw d a b) nw true d (fun l => fpOut l (fmtF64.scl r.rounding (l.srcOf true a) (l.src32 b).toInt))
    (fun l => l.markOf true a || l.marked b 1) s

/-- FSQRT_FP64 (R140). -/
def execFsqrtFp64 (r : Rm) (nw : Bool) (d : Reg) (a : Reg) (s : State) :
    Host.Outcome State Fault Refusal :=
  fpUnary (.fsqrtFp64 r nw d a) nw true d a (fmtF64.sqrt r.rounding) s

/-- FRND_FP64 (R141). -/
def execFrndFp64 (r : Rm) (nw : Bool) (d : Reg) (a : Reg) (s : State) :
    Host.Outcome State Fault Refusal :=
  fpUnary (.frndFp64 r nw d a) nw true d a (fmtF64.rnd r.rounding) s

/-- FRND_RNA_FP64 (R141). -/
def execFrndRnaFp64 (nw : Bool) (d : Reg) (a : Reg) (s : State) :
    Host.Outcome State Fault Refusal :=
  fpUnary (.frndRnaFp64 nw d a) nw true d a (fmtF64.rnd .rna) s

/-! ### FPH: packed halves -/

/-- HADD2 (R146). -/
def execHadd2 (t : Bool) (r : Rm) (nw : Bool) (d : Reg) (a : Reg) (b : Reg) (s : State) :
    Host.Outcome State Fault Refusal :=
  fpPacked (.hadd2 t r nw d a b) nw d a b ((fmtOfHalf t).add r.rounding) s

/-- HMUL2 (R146). -/
def execHmul2 (t : Bool) (r : Rm) (nw : Bool) (d : Reg) (a : Reg) (b : Reg) (s : State) :
    Host.Outcome State Fault Refusal :=
  fpPacked (.hmul2 t r nw d a b) nw d a b ((fmtOfHalf t).mul r.rounding) s

/-- HFMA2 (R146). -/
def execHfma2 (t : Bool) (r : Rm) (nw : Bool) (d : Reg) (a : Reg) (b : Reg) (s : State) :
    Host.Outcome State Fault Refusal :=
  fpLane (.hfma2 t r nw d a b) nw false d
    (fun l => fpOut l (packed ((fmtOfHalf t).fma r.rounding false) (l.src32 a) (l.src32 b) (l.src32 d)))
    (fun l => l.marked a 1 || l.marked b 1 || l.marked d 1) s

/-- HMIN2 (R146). -/
def execHmin2 (t : Bool) (nw : Bool) (d : Reg) (a : Reg) (b : Reg) (s : State) :
    Host.Outcome State Fault Refusal :=
  fpPacked (.hmin2 t nw d a b) nw d a b ((fmtOfHalf t).pick false false) s

/-- HMAX2 (R146). -/
def execHmax2 (t : Bool) (nw : Bool) (d : Reg) (a : Reg) (b : Reg) (s : State) :
    Host.Outcome State Fault Refusal :=
  fpPacked (.hmax2 t nw d a b) nw d a b ((fmtOfHalf t).pick true false) s

/-! ### FMISC: operations that never round -/

/-- FMIN (R142). -/
def execFmin (t : Bool) (nw : Bool) (d : Reg) (a : Reg) (b : Reg) (s : State) :
    Host.Outcome State Fault Refusal :=
  fpBinary (.fmin t nw d a b) nw t d a b ((fmtOfWidth t).pick false false) s

/-- FMAX (R142). -/
def execFmax (t : Bool) (nw : Bool) (d : Reg) (a : Reg) (b : Reg) (s : State) :
    Host.Outcome State Fault Refusal :=
  fpBinary (.fmax t nw d a b) nw t d a b ((fmtOfWidth t).pick true false) s

/-- FMINN (R142). -/
def execFminn (t : Bool) (nw : Bool) (d : Reg) (a : Reg) (b : Reg) (s : State) :
    Host.Outcome State Fault Refusal :=
  fpBinary (.fminn t nw d a b) nw t d a b ((fmtOfWidth t).pick false true) s

/-- FMAXN (R142). -/
def execFmaxn (t : Bool) (nw : Bool) (d : Reg) (a : Reg) (b : Reg) (s : State) :
    Host.Outcome State Fault Refusal :=
  fpBinary (.fmaxn t nw d a b) nw t d a b ((fmtOfWidth t).pick true true) s

/-- The sign bit of a width, as a 64-bit mask. -/
def signMask (wide : Bool) : W64 := if wide then 0x8000000000000000 else 0x80000000

/-- A source widened to 64 bits. -/
def Lane.srcWord (l : Lane) (wide : Bool) (f : Reg) : W64 := if wide then l.src64 f else (l.src32 f).setWidth 64

/-- FABS (R143). -/
def execFabs (t : Bool) (nw : Bool) (d : Reg) (a : Reg) (s : State) :
    Host.Outcome State Fault Refusal :=
  fpQuiet (.fabs t nw d a) nw t d (fun l => l.srcWord t a &&& ~~~signMask t) (fun l => l.markOf t a) s

/-- FNEG (R143). -/
def execFneg (t : Bool) (nw : Bool) (d : Reg) (a : Reg) (s : State) :
    Host.Outcome State Fault Refusal :=
  fpQuiet (.fneg t nw d a) nw t d (fun l => l.srcWord t a ^^^ signMask t) (fun l => l.markOf t a) s

/-- FCPYS (R143). -/
def execFcpys (t : Bool) (nw : Bool) (d : Reg) (a : Reg) (b : Reg) (s : State) :
    Host.Outcome State Fault Refusal :=
  fpQuiet (.fcpys t nw d a b) nw t d
    (fun l => (l.srcWord t a &&& ~~~signMask t) ||| (l.srcWord t b &&& signMask t))
    (fun l => l.markOf t a || l.markOf t b) s

/-- FCLASS (R144). -/
def execFclass (t : Bool) (nw : Bool) (d : Reg) (a : Reg) (s : State) :
    Host.Outcome State Fault Refusal :=
  fpQuiet (.fclass t nw d a) nw false d (fun l => ((fmtOfWidth t).classify (l.srcOf t a)).setWidth 64) (fun l => l.markOf t a) s

/-- FEXT (R139). -/
def execFext (t : Bool) (nw : Bool) (d : Reg) (a : Reg) (s : State) :
    Host.Outcome State Fault Refusal :=
  fpQuiet (.fext t nw d a) nw false d (fun l => ((fmtOfWidth t).ext (l.srcOf t a)).setWidth 64) (fun l => l.markOf t a) s

/-- FCMP (R145). -/
def execFcmp (t : Bool) (c : FCond) (q : BitVec 4) (a : Reg) (b : Reg) (s : State) :
    Host.Outcome State Fault Refusal :=
  issueWord (.fcmp t c q a b) s (fun k =>
    let f := fun (l : Lane) => (fmtOfWidth t).compare c (l.srcOf t a) (l.srcOf t b)
    let traps := k.fpTraps (fun l => (f l).2)
    let core := k.wave.core.mapLanes (fun n l =>
      if k.on n && !has traps n then
        { l.putPred q (f l).1 (l.markOf t a || l.markOf t b) with xflags := l.xflags ||| (f l).2 }
      else l)
    k.finish (.fcmp t c q a b) s s core traps (fun n => causeArithmetic (f (k.wave.core.lane n)).2) k.entry.pc)

/-! ### Conversions -/

/-- The draw of one .rs conversion, and the seed after it (R96); other modes draw nothing. -/
def drawFor (mode : Rounding) (seed : W32) : W32 := if mode = .rs then xorshift seed else seed

/-- CVT (R148). -/
def execCvt (r : Rounding) (y : NumTy) (nw : Bool) (d : Reg) (a : Reg) (x : NumTy) (s : State) :
    Host.Outcome State Fault Refusal :=
  fpLane (.cvt r y nw d a x) nw y.is64 d
    (fun l =>
      let seed := drawFor r l.seed
      let q := convert y x r seed.toNat (l.srcOf x.is64 a)
      ⟨image y q.bits, q.exc, seed⟩)
    (fun l => l.markOf x.is64 a) s

/-- PACK4's four conversions from the k-th on, least significant byte first (R150). -/
def pack (y : NumTy) (r : Rounding) (seed : W32) : List W32 → Res × W32
  | [] => (⟨0, 0⟩, seed)
  | v :: vs =>
    let seed := drawFor r seed
    let q := convert y .f32 r seed.toNat v.toNat
    let rest := pack y r seed vs
    (⟨q.bits % 256 + 256 * rest.1.bits, q.exc ||| rest.1.exc⟩, rest.2)

/-- The four registers of a quad. -/
def Lane.quad (l : Lane) (a : Reg) : List W32 :=
  (List.range 4).map (fun k => Sparse.get 0 l.regs (l.arch (a.toNat + k)))

/-- PACK4 (R150); its source type is always f32. -/
def execPack4 (r : Rounding) (y : NumTy) (nw : Bool) (d : Reg) (a : Reg) (x : NumTy) (s : State) :
    Host.Outcome State Fault Refusal :=
  fpLane (.pack4 r y nw d a x) nw false d
    (fun l => let q := pack y r l.seed (l.quad a); ⟨BitVec.ofNat 64 q.1.bits, q.1.exc, q.2⟩)
    (fun l => l.marked a 4) s

end Sys2Proof.Machine
end

