-- ==== Sys2Proof/Machine/Sync.lean ====
section
/-! DEFINITION. Barriers and the gambit's commit (R199 to R205, R332, R338), queue access (R206 to R208), tokens and TKW
(R23, R209), and the meanings of BAR, SPECX, QW, QR, QRT, QST and TKW. -/
namespace Sys2Proof.Machine

/-! ### Barrier instances -/

/-- A barrier instance (R199): of a wave, of a gang, of a launch on a stack, or of a launch. -/
inductive Inst
  | wave (g w n : Nat)
  | gang (g n : Nat)
  | stack (l st n : Nat)
  | pkg (l n : Nat)
  deriving DecidableEq, Repr

/-- An instance that expects these participants at phase 0 (R200). -/
def Barrier.fresh (expected : List Nat) : Barrier :=
  { phase := 0, expected := expected, arrived := [], drops := [], joins := [], gathered := [], passed := [] }

/-- Every expected participant has arrived, and one has (R201). -/
def Barrier.due (b : Barrier) : Bool := !b.arrived.isEmpty && b.expected.all (fun p => b.arrived.contains p)

/-- The flip (R201); what its arrivals have released is what its waits acquire (R202). -/
def Barrier.flip (b : Barrier) : Barrier :=
  { phase := b.phase + 1
    expected := (b.expected.filter (fun p => !b.drops.contains p)) ++
      b.joins.filter (fun p => b.drops.contains p || !b.expected.contains p)
    arrived := [], drops := [], joins := [], gathered := [], passed := b.gathered }

/-- Add to a set. -/
def insertOnce (xs : List Nat) (x : Nat) : List Nat := if xs.contains x then xs else xs ++ [x]

/-- Arrival of a participant, whose lanes release this (R202); a second one in a phase is none (R200). -/
def Barrier.arrive (b : Barrier) (v : Seen) (p : Nat) : Barrier :=
  if b.arrived.contains p then b else { b with arrived := b.arrived ++ [p], gathered := Seen.join b.gathered v }

/-- The participant will leave at the flip. -/
def Barrier.drop (b : Barrier) (p : Nat) : Barrier := { b with drops := insertOnce b.drops p }

/-- The participant will be expected after the flip; a member's join has no effect (R201). -/
def Barrier.join (b : Barrier) (p : Nat) : Barrier :=
  if b.expected.contains p then b else { b with joins := insertOnce b.joins p }

/-- The participant leaves the expected set at once (R201). -/
def Barrier.leave (b : Barrier) (p : Nat) : Barrier := { b with expected := b.expected.filter (fun q => q != p) }

/-- Read an instance. -/
def State.getBar (s : State) : Inst → Barrier
  | .wave g w n => ((s.wave g w).bind (fun x => x.core.bars[n]?)).getD (Barrier.fresh [])
  | .gang g n => ((aget s.gangs g).bind (fun x => x.bars[n]?)).getD (Barrier.fresh [])
  | .stack l st n => ((aget s.launches l).bind (fun x => aget x.stackBars (16 * st + n))).getD (Barrier.fresh [])
  | .pkg l n => ((aget s.launches l).bind (fun x => x.pkgBars[n]?)).getD (Barrier.fresh [])

/-- Write an instance. -/
def State.setBar (s : State) (i : Inst) (b : Barrier) : State :=
  match i with
  | .wave g w n => s.modWave g w (fun x => x.modCore (fun c => { c with bars := c.bars.set n b }))
  | .gang g n => s.modGang g (fun x => { x with bars := x.bars.set n b })
  | .stack l st n => s.modLaunch l (fun x => { x with stackBars := aput x.stackBars (16 * st + n) b })
  | .pkg l n => s.modLaunch l (fun x => { x with pkgBars := x.pkgBars.set n b })

/-- The scope and number of an instance, as a blocked entry names it. -/
def Inst.name : Inst → BarScope × Nat
  | .wave _ _ n => (.wave, n)
  | .gang _ n => (.gang, n)
  | .stack _ _ n => (.stack, n)
  | .pkg _ n => (.pkg, n)

/-- An entry that a flip to `phase` wakes (R201). -/
def Entry.barEnds (e : Entry) (name : BarScope × Nat) (phase : W32) : Bool :=
  match e.state with
  | .blocked (.bar sc n mine) => (sc, n) == name && decide (mine.toNat < phase.toNat)
  | _ => false

/-- Wake the entries of a wave: each completes its BAR (R155), and its lanes acquire what the arrivals released (R202). -/
def Wave.wakeBar (w : Wave) (name : BarScope × Nat) (phase : W32) (v : Seen) : Wave :=
  let lanes := (w.core.frontier.filter (fun e => e.barEnds name phase)).foldl (fun m e => m ||| e.active) (0 : BitVec 32)
  w.modCore (fun c =>
    let c : WaveCore := c.learnIn lanes v
    { c with frontier := c.frontier.map (fun e => if e.barEnds name phase then { e.next with state := .ready } else e) })

/-- The gang waits at instances of this kind. -/
def Inst.covers (i : Inst) (g : Nat) (gang : Gang) : Bool :=
  match i with
  | .wave k _ _ => k == g
  | .gang k _ => k == g
  | .stack l st _ => gang.launch == l && gang.batchStack == st
  | .pkg l _ => gang.launch == l

/-- Wake every entry that waits for the instance, and forget the arrivals counted for it. -/
def State.wakeAll (s : State) (i : Inst) (phase : W32) (v : Seen) : State :=
  let key := match i with | .stack _ _ n => some n | .pkg _ n => some (16 + n) | _ => none
  { s with gangs := s.gangs.map (fun p =>
      if i.covers p.1 p.2 then
        (p.1, { p.2 with
          waves := p.2.waves.mapIdx (fun w x =>
            if (match i with | .wave _ v _ => v == w | _ => true) then x.wakeBar i.name phase v else x)
          arrivals := match key with | some k => adel p.2.arrivals k | none => p.2.arrivals })
      else p) }

/-! ### The gambit's commit (R338) -/

/-- Drain one buffered store of wave w, on the core that the gang gives it. -/
def State.drain (s : State) (g w st core : Nat) (x : Buffered) : State :=
  match s.wave g w with
  | none => s
  | some wave =>
    let a := s.laneAgent g w x.lane (wave.core.lane x.lane) x.scope
    let t : Target := if x.spad then .spd x.addr else .mem x.addr ⟨0, false⟩ 0
    s.storePieces a x.release st core x.bytes x.mark [(t, x.bytes.length)]

/-- Drain the buffered stores of waves, each in its program order; which wave goes next is free (R338). -/
def State.drainAll (s : State) (g st : Nat) : Nat → List (Nat × Nat × List Buffered) → State
  | 0, _ => s
  | fuel + 1, xs =>
    let ys := xs.filter (fun p => !p.2.2.isEmpty)
    match ys[s.chooseAt [14, fuel] ys.length]? with
    | none => s
    | some (w, core, bs) =>
      let t := match bs.head? with | some x => s.drain g w st core x | none => s
      t.drainAll g st fuel (ys.map (fun p => if p.1 = w then (w, core, bs.tail) else p))

/-- The stop-record facts of a fault held under speculation (R337): the faulting instruction is the one the highest
ready entry is at. -/
def heldHalt (s : State) (gang : Gang) (g w : Nat) (wave : Wave) (f : Nat × W64) : Halt :=
  { src := some (g, w), reason := f.1, stack := gang.stack, slot := wave.coreId, ctx := s.ctxOf gang
    launch := s.launchid gang, pc := ((wave.core.frontier.head?).map (fun e => e.pc)).getD 0, addr := f.2, wave := w
    performed := 0, skipped := 0, written := false }

/-- A fault that a speculating wave held is raised (R337). -/
def State.heldFault (s : State) (g w : Nat) (sp : Spec) : State :=
  match aget s.gangs g, s.wave g w, sp.fault with
  | some gang, some wave, some f => s.raiseHalt (heldHalt s gang g w wave f)
  | _, _, _ => s

/-- Commit every speculating wave of a gang that passed barrier n (R338): speculation ends in all of them before any
store drains, so that a drain causes no conflict in the gang; each acquires what the barrier's arrivals released
(R202). -/
def State.commit (s : State) (g n : Nat) (v : Seen) : State :=
  match aget s.gangs g with
  | none => s
  | some gang =>
    let specs := (gang.waves.mapIdx (fun w x => (w, x))).filterMap (fun p =>
      match p.2.spec with
      | some sp => if sp.barrier = n then some (p.1, p.2.coreId, sp) else none
      | none => none)
    let acks := fun (sp : Spec) => (sp.stores.filter (fun x => !x.spad)).map (fun x =>
      (⟨s.port gang.stack x.addr, x.addr, x.bytes.length, x.lane, false⟩ : PendingStore))
    let s := specs.foldl (fun t p => (t.modStack gang.stack (fun k => k.count 0x0A8 1)).modWave g p.1 (fun x =>
      { x with core := x.core.learn v, spec := none, loads := x.loads.map (fun q => { q with spec := false })
               stores := x.stores ++ acks p.2.2 })) s
    let s : State := { s with fences := s.fences ++ specs.flatMap (fun p => p.2.2.fences) }
    let s := s.drainAll g gang.stack (specs.foldl (fun n p => n + p.2.2.stores.length) 0)
      (specs.map (fun p => (p.1, p.2.1, p.2.2.stores)))
    specs.foldl (fun t p => t.heldFault g p.1 p.2.2) s

/-- Judge an instance: flip it when it is due, wake and commit (R201, R338). -/
def State.settle (s : State) (i : Inst) : State :=
  let b := s.getBar i
  if b.due then
    let s := (s.setBar i b.flip).wakeAll i b.flip.phase b.flip.passed
    match i with
    | .gang g n => s.commit g n b.flip.passed
    | _ => s
  else s

/-- A change of an instance, judged again. -/
def State.modBar (s : State) (i : Inst) (f : Barrier → Barrier) : State := (s.setBar i (f (s.getBar i))).settle i

/-- Lanes that exit leave every wave barrier at once (R201). -/
def State.exitLanes (s : State) (g w : Nat) (lanes : BitVec 32) : State :=
  (List.range 16).foldl (fun t n =>
    t.modBar (.wave g w n) (fun b => (bitsOf lanes).foldl (fun x l => x.leave l) b)) s

/-- The waves of a gang that have not retired. -/
def Gang.liveWaves (x : Gang) : List Nat := (List.range x.waves.length).filter (fun w =>
  match x.waves[w]? with | some v => !v.retired | none => false)

/-- The stack or package instance of a gang. -/
def Gang.groupInst (x : Gang) (pkg : Bool) (n : Nat) : Inst :=
  if pkg then .pkg x.launch n else .stack x.launch x.batchStack n

/-- The gang arrives at a stack or package barrier once its last live wave has (R200). DESIGN CHOICE (assumption 111):
a gang in which a wave that has retired had arrived, and whose last live wave retires without arriving, has arrived
too. What its waves released is gathered as each arrives. -/
def State.gangArrival (s : State) (g : Nat) (pkg : Bool) (n : Nat) : State :=
  match aget s.gangs g with
  | none => s
  | some x =>
    let key := if pkg then 16 + n else n
    let waves := (aget x.arrivals key).getD []
    if !waves.isEmpty && x.liveWaves.all (fun w => waves.contains w) then
      s.modBar (x.groupInst pkg n) (fun b => b.arrive [] g)
    else s

/-- A wave that retires leaves every gang barrier, and the gang's arrivals are judged again (R200, R201). -/
def State.retireFromBarriers (s : State) (g w : Nat) : State :=
  let s := (List.range 16).foldl (fun t n => t.modBar (.gang g n) (fun b => b.leave w)) s
  (List.range 16).foldl (fun t n => (t.gangArrival g false n).gangArrival g true n) s

/-- A gang leaves the stack and package barriers of its launch (R201). -/
def State.gangLeaves (s : State) (g : Nat) : State :=
  match aget s.gangs g with
  | none => s
  | some x => (List.range 16).foldl (fun t n =>
      (t.modBar (x.groupInst false n) (fun b => b.leave g)).modBar (x.groupInst true n) (fun b => b.leave g)) s

/-! ### Blocking -/

/-- The issuing entry blocks (R155); the registers that its instruction writes are marked as it issues (R19). -/
def Issue.block (c : Issue) (i : Instr) (s : State) (core : WaveCore) (x : Wait) : State :=
  s.setWave c.g c.w (c.note s { c.wave with
    core := markStalls i { core with frontier := core.frontier.set c.k { c.entry with state := .blocked x } } c.active })

/-- An illegal-instruction trap in every active lane, at execution. -/
def Issue.trapActive (c : Issue) (i : Instr) (s : State) : State :=
  c.finish i s s c.wave.core c.active (fun _ => causeIllegalLane) c.entry.pc

/-! ### BAR and SPECX -/

/-- The instance a BAR names. -/
def Issue.inst (c : Issue) (sc : BarScope) (n : Nat) : Inst :=
  match sc with
  | .wave => .wave c.g c.w n
  | .gang => .gang c.g n
  | .stack => c.gang.groupInst false n
  | .pkg => c.gang.groupInst true n

/-- The participants that a BAR stands for, as the instance numbers them. -/
def Issue.participants (c : Issue) (sc : BarScope) : List Nat :=
  match sc with
  | .wave => bitsOf c.active
  | .gang => [c.w]
  | .stack => [c.g]
  | .pkg => [c.g]

/-- What the active lanes release (R202, R208). -/
def Issue.released (c : Issue) (s : State) : Seen := s.lanesView c.g c.w c.wave.core c.active

/-- Arrive at an instance (R200), and judge it. -/
def Issue.arrive (c : Issue) (s : State) (sc : BarScope) (n : Nat) : State :=
  let v := c.released s
  match sc with
  | .wave => s.modBar (c.inst sc n) (fun b => (bitsOf c.active).foldl (fun b l => b.arrive v l) b)
  | .gang => s.modBar (c.inst sc n) (fun b => b.arrive v c.w)
  | _ =>
    let pkg := sc == .pkg
    let key := if pkg then 16 + n else n
    let before := (aget c.gang.arrivals key).getD []
    let i := c.inst sc n
    let b := s.getBar i
    let t := if before.contains c.w then s else s.setBar i { b with gathered := Seen.join b.gathered v }
    (t.modGang c.g (fun x => { x with
      arrivals := aput x.arrivals key (insertOnce ((aget x.arrivals key).getD []) c.w) })).gangArrival c.g pkg n

/-- The state after an instruction that touched more than its own wave: the wave is read back before it advances. -/
def Issue.advanceIn (c : Issue) (i : Instr) (s : State) : State :=
  s.modWave c.g c.w (fun w => c.note s { w with
    core := markStalls i { w.core with frontier := putEntry w.core.frontier c.k c.entry.next } c.active })

/-- The issuing entry blocks, in a state in which its wave may have changed. -/
def Issue.blockIn (c : Issue) (i : Instr) (s : State) (x : Wait) : State :=
  s.modWave c.g c.w (fun w => c.note s { w with
    core := markStalls i { w.core with frontier := w.core.frontier.set c.k { c.entry with state := .blocked x } } c.active })

/-- The active lanes acquire something, in a state in which the wave may have changed. -/
def Issue.acquires (c : Issue) (s : State) (v : Seen) : State :=
  s.modWave c.g c.w (fun w => w.modCore (fun k => k.learnIn c.active v))

/-- The wave may pass the barrier speculatively (R204, R327): its entry holds every lane that has not exited, the
launch is not captured, and flag fall has not diverted it. -/
def Issue.maySpeculate (c : Issue) (s : State) : Bool :=
  !c.wave.diverted && !c.wave.core.handler && c.entry.lanes == c.wave.core.live &&
  !((s.launchOf c.gang).map (fun l => l.desc.capture)).getD true

/-- The wave goes on speculatively past gang barrier n, blocked in its checkpoint (R332). -/
def Issue.speculate (c : Issue) (i : Instr) (s : State) (n : Nat) (mine : W32) : State :=
  (s.modStack c.gang.stack (fun t => t.count 0x0A0 1)).modWave c.g c.w (fun w =>
    let blocked := { w.core with
      frontier := w.core.frontier.set c.k { c.entry with state := .blocked (.bar .gang n mine) }, latchCount := 0 }
    c.note s { w with
      core := markStalls i { w.core with frontier := putEntry w.core.frontier c.k c.entry.next } c.active
      spec := some { barrier := n, phase := mine, checkpoint := blocked, lost := w.lost, reads := [], stores := []
                     entries := [], pages := [], fences := [], fault := none, stalled := false } })

/-- BAR (R199 to R204). DESIGN CHOICE (assumptions 109 and 110): a .wait at .wave blocks its whole entry when any of
the active lanes has arrived in the phase, since the rule speaks of one participant; and a .drop at .stack or .pkg by
one wave puts its gang among the pending drops, whatever the gang's other waves issue. -/
def execBar (n : BitVec 4) (k : BarKind) (sc : BarScope) (x : Bool) (s : State) : Host.Outcome State Fault Refusal :=
  issueWord (.bar n k sc x) s (fun c =>
    let i := Instr.bar n k sc x
    let wide := sc == .stack || sc == .pkg
    let all := ((s.launchOf c.gang).map (fun l => l.desc.allResident)).getD false
    let inst := c.inst sc n.toNat
    let b := s.getBar inst
    let mine := b.phase
    -- the wave as it issues, with its latches emptied
    let s1 := s.setWave c.g c.w c.wave
    if !c.any then c.done i s c.wave.core
    else if wide && (!all || c.wave.diverted) then c.trapActive i s
    else match k with
    | .arv => c.advanceIn i (c.arrive s1 sc n.toNat)
    | .drop => c.advanceIn i (c.arrive (s1.setBar inst ((c.participants sc).foldl Barrier.drop b)) sc n.toNat)
    | .join => c.advanceIn i (s1.setBar inst ((c.participants sc).foldl Barrier.join b))
    | .wait =>
      if (c.participants sc).any (fun p => b.arrived.contains p) then c.blockIn i s1 (.bar sc n.toNat mine)
      else c.advanceIn i (c.acquires s1 b.passed)
    | .sync =>
      let s2 := c.arrive s1 sc n.toNat
      if mine.toNat < (s2.getBar inst).phase.toNat then c.advanceIn i (c.acquires s2 (s2.getBar inst).passed)
      else if x && sc == .gang && c.maySpeculate s then c.speculate i s2 n.toNat mine
      else c.blockIn i s2 (.bar sc n.toNat mine))

/-- SPECX (R205): outside speculation it has no effect; a speculating wave stalls before it. -/
def execSpecx (s : State) : Host.Outcome State Fault Refusal :=
  issueWord .specx s (fun c => c.done .specx s c.wave.core)

/-! ### Queues -/

/-- Depth of a FIFO in words: 8192 a bank (R206). -/
def State.fifoDepth (s : State) (x : Gang) (f : Nat) : Nat :=
  8192 * (((s.launchOf x).bind (fun l => l.desc.fifos[f]?)).getD 0)

/-- The words a queue register can pop (R206). -/
def popSide (x : Gang) (w : Wave) (q : Nat) : List QWord := if q < 8 then w.pop.getD q [] else x.fifos.getD (q - 8) []

/-- Free words on the push side (R206). -/
def State.pushFree (s : State) (x : Gang) (w : Wave) (q : Nat) : Nat :=
  if q < 8 then 16 - (w.push.getD q []).length else s.fifoDepth x (q - 8) - (x.fifos.getD (q - 8) []).length

/-- Drop the oldest word of a queue register. -/
def State.popWord (s : State) (g w q : Nat) : State :=
  if q < 8 then s.modWave g w (fun x => { x with pop := x.pop.modify q List.tail })
  else s.modGang g (fun x => { x with fifos := x.fifos.modify (q - 8) List.tail })

/-- Push a word. -/
def State.pushWord (s : State) (g w q : Nat) (v : QWord) : State :=
  if q < 8 then s.modWave g w (fun x => { x with push := x.push.modify q (fun l => l ++ [v]) })
  else s.modGang g (fun x => { x with fifos := x.fifos.modify (q - 8) (fun l => l ++ [v]) })

/-- A report word enters the pop side; when that is full it is lost (R207, R215). -/
def State.report (s : State) (g w q : Nat) (v : QWord) : State :=
  s.modWave g w (fun x =>
    if 16 ≤ (x.pop.getD q []).length then { x with lost := x.lost.set q true }
    else { x with pop := x.pop.modify q (fun l => l ++ [v]) })

/-- A wave whose uniform register takes a popped word; the popping lanes acquire what its push released (R208, R292). -/
def WaveCore.takeWord (c : WaveCore) (lanes : BitVec 32) (d : Reg) (v : QWord) : WaveCore :=
  (c.putUni d.toNat v.val v.mark).learnIn lanes v.view

/-- Entry e of wave w finishes a queue wait, if it can: the state after it. -/
def State.queueStep (s : State) (g w k : Nat) : Option State :=
  match aget s.gangs g with
  | none => none
  | some x =>
    match x.waves[w]? with
    | none => none
    | some v =>
      match v.core.frontier[k]? with
      | none => none
      | some e =>
        let ready := fun (t : State) => t.modWave g w (fun u => u.modCore (fun c =>
          { c with frontier := c.frontier.set k { e.next with state := .ready } }))
        match e.state with
        | .blocked (.qr d q) =>
          match popSide x v q.toNat with
          | [] => none
          | word :: _ =>
            some (ready ((s.popWord g w q.toNat).modWave g w (fun u => u.modCore (fun c => c.takeWord e.active d word))))
        | .blocked (.qw q a) =>
          if s.pushFree x v q.toNat = 0 then none
          else some (ready (s.pushWord g w q.toNat ⟨v.core.uni a, v.core.uniMark a, s.lanesView g w v.core e.active⟩))
        | _ => none

/-- The blocked queue entries of a gang. -/
def Gang.queueWaits (x : Gang) : List (Nat × Nat) :=
  (x.waves.mapIdx (fun w v => (w, v))).flatMap (fun p =>
    ((p.2.core.frontier.mapIdx (fun k e => (k, e))).filter (fun q =>
      match q.2.state with | .blocked (.qr _ _) => true | .blocked (.qw _ _) => true | _ => false)).map
      (fun q => (p.1, q.1)))

/-- Let blocked QW and QR entries of a gang finish while any can; which goes first is free. -/
def State.settleQueues (s : State) (g : Nat) : Nat → State
  | 0 => s
  | fuel + 1 =>
    match aget s.gangs g with
    | none => s
    | some x =>
      let can := x.queueWaits.filter (fun p => (s.queueStep g p.1 p.2).isSome)
      match can[s.choose 13 can.length]? with
      | none => s
      | some p => ((s.queueStep g p.1 p.2).getD s).settleQueues g fuel

/-- Settle after a change of a gang's queues: every wait ends at most once. -/
def State.settleGangQueues (s : State) (g : Nat) : State :=
  match aget s.gangs g with
  | none => s
  | some x => s.settleQueues g x.queueWaits.length

/-- QW (R206). -/
def execQw (q : BitVec 7) (a : Reg) (s : State) : Host.Outcome State Fault Refusal :=
  issueWord (.qw q a) s (fun c =>
    let s1 := s.setWave c.g c.w c.wave
    if !c.any then c.done (.qw q a) s c.wave.core
    else if s.pushFree c.gang c.wave q.toNat = 0 then
      (if q.toNat < 5 then c.trapActive (.qw q a) s else c.blockIn (.qw q a) s1 (.qw q a))
    else
      let t := s1.pushWord c.g c.w q.toNat ⟨c.wave.core.uni a, c.wave.core.uniMark a, c.released s⟩
      (c.advanceIn (.qw q a) t).settleGangQueues c.g)

/-- QR (R206). -/
def execQr (d : Reg) (q : BitVec 7) (s : State) : Host.Outcome State Fault Refusal :=
  issueWord (.qr d q) s (fun c =>
    let s1 := s.setWave c.g c.w c.wave
    if !c.any then c.done (.qr d q) s c.wave.core
    else match popSide c.gang c.wave q.toNat with
    | [] => c.blockIn (.qr d q) s1 (.qr d q)
    | word :: _ =>
      let t := (s1.popWord c.g c.w q.toNat).modWave c.g c.w (fun u => u.modCore (fun k => k.takeWord c.active d word))
      (c.advanceIn (.qr d q) t).settleGangQueues c.g)

/-- QRT (R206): the predicate is written in every active lane; a failed try leaves sd as it is. -/
def execQrt (d : Reg) (q : BitVec 7) (p : BitVec 4) (s : State) : Host.Outcome State Fault Refusal :=
  issueWord (.qrt d q p) s (fun c =>
    let s1 := s.setWave c.g c.w c.wave
    let flag := fun (v : Bool) (k : WaveCore) => k.mapLanes (fun n l => if c.on n then l.putPred p v false else l)
    let mark := fun (k : WaveCore) => if p == 0 then k else { k with stallP := setBit k.stallP p.toNat true }
    if !c.any then c.done (.qrt d q p) s c.wave.core
    else match popSide c.gang c.wave q.toNat with
    | [] => c.advanceIn .nop (s1.modWave c.g c.w (fun u => u.modCore (fun k => mark (flag false k))))
    | word :: _ =>
      let t := (s1.popWord c.g c.w q.toNat).modWave c.g c.w (fun u => u.modCore (fun k => flag true (k.takeWord c.active d word)))
      (c.advanceIn (.qrt d q p) t).settleGangQueues c.g)

/-- The status word of QST (R207). -/
def State.queueStatus (s : State) (x : Gang) (w : Wave) (q : Nat) : W64 :=
  BitVec.ofNat 64 ((if q < 8 && w.lost.getD q false then 2 ^ 56 else 0) + s.pushFree x w q * 2 ^ 32 +
    (popSide x w q).length)

/-- QST (R207); reading clears the lost bit. -/
def execQst (d : Reg) (q : BitVec 7) (s : State) : Host.Outcome State Fault Refusal :=
  issueWord (.qst d q) s (fun c =>
    if !c.any then c.done (.qst d q) s c.wave.core
    else
      let v := s.queueStatus c.gang c.wave q.toNat
      { c with wave := { c.wave with lost := c.wave.lost.set q.toNat false } }.done (.qst d q) s
        (c.wave.core.putUni d.toNat v false))

/-! ### Tokens -/

/-- Bit 0 or bit 1 of a token is set, or the token is not pending (R209). -/
def Wave.tokenReady (w : Wave) (vis : Bool) (a : Reg) : Bool :=
  !w.pending.contains a.toNat || has (w.core.uni a) (if vis then 1 else 0)

/-- An entry blocked at TKW whose bit is set (R209). -/
def Wave.tokenEnds (w : Wave) (e : Entry) : Bool :=
  match e.state with
  | .blocked (.tkw vis a) => w.tokenReady vis a
  | _ => false

/-- Entries blocked at TKW whose bit is set go on (R209); the wave has observed vis where it waited for it (R292). -/
def Wave.wakeTokens (w : Wave) : Wave :=
  let seen := w.core.frontier.foldl (fun v e =>
    match e.state with
    | .blocked (.tkw true a) => if w.tokenEnds e then Seen.join v ((aget w.tokens a.toNat).getD []) else v
    | _ => v) []
  w.modCore (fun c =>
    let c : WaveCore := c.learn seen
    { c with frontier := c.frontier.map (fun e => if w.tokenEnds e then { e.next with state := .ready } else e) })

/-- An operation sets bits of its token (R23): status, vis and srcfree. It is no longer pending once both bits are set.
The checkpoint of a speculating wave keeps its tokens (R30). `v` is what happens before vis (R292). -/
def Wave.setToken (w : Wave) (t : Nat) (status : Nat) (vis src : Bool) (v : Seen) : Wave :=
  let upd := fun (c : WaveCore) =>
    let old := Sparse.get 0 c.s t
    let v : W64 := BitVec.ofNat 64 (status * 16 + (if vis || has old 1 then 2 else 0) + (if src || has old 0 then 1 else 0))
    c.putUni t v false
  let core := upd w.core
  let done := has (Sparse.get 0 core.s t) 0 && has (Sparse.get 0 core.s t) 1
  Wave.wakeTokens { w with
    core := core
    spec := w.spec.map (fun sp => { sp with checkpoint := upd sp.checkpoint })
    pending := if done then w.pending.filter (fun x => x != t) else w.pending
    tokens := if vis then aput w.tokens t v else w.tokens }

/-- Set bits of the token of wave w of gang g. -/
def State.setToken (s : State) (g w : Nat) (t : Option Nat) (status : Nat) (vis src : Bool) (v : Seen) : State :=
  match t with
  | none => s
  | some n => s.modWave g w (fun x => x.setToken n status vis src v)

/-- Name sn as the token of a new operation (R23): it becomes 0 and pending. -/
def Wave.newToken (w : Wave) (t : Option Nat) : Wave :=
  match t with
  | none => w
  | some n => { w with core := w.core.putUni n 0 false, pending := insertOnce w.pending n, tokens := adel w.tokens n }

/-- The token field of a submit: none when bit 21 is set (R77). -/
def tokenField (none : Bool) (d : Reg) : Option Nat := if none then Option.none else some d.toNat

/-- TKW.src and TKW.vis (R209). -/
def tokenWait (i : Instr) (vis : Bool) (a : Reg) (s : State) : Host.Outcome State Fault Refusal :=
  issueWord i s (fun c =>
    if !c.any || c.wave.tokenReady vis a then c.done i s c.wave.core else c.block i s c.wave.core (.tkw vis a))

/-- TKW_SRC (R209). -/
def execTkwSrc (a : Reg) (s : State) : Host.Outcome State Fault Refusal := tokenWait (.tkwSrc a) false a s

/-- TKW_VIS (R209). -/
def execTkwVis (a : Reg) (s : State) : Host.Outcome State Fault Refusal := tokenWait (.tkwVis a) true a s

end Sys2Proof.Machine
end

