-- ==== Sys2Proof/Machine/Capture.lean ====
section
/-! DEFINITION. Deterministic capture and replay (R444 to R446): the log of each stack, appending a record in mode 0,
matching one in mode 1, and system reads through the log. -/
namespace Sys2Proof.Machine

/-- The gang's index within its launch. -/
def gangIndex (l : Launch) (g : Gang) : Nat := g.x + l.desc.nx * (g.y + l.desc.ny * g.z)

/-- Bytes of a payload padded to 16 (R445). -/
def padTo16 (bs : List Byte) : List Byte := bs ++ List.replicate ((16 - bs.length % 16) % 16) 0

/-- A capture record: 16-byte header and padded payload (R445). -/
def captureRecord (type ctx core slot launchid : Nat) (payload : List Byte) : List Byte :=
  let p := padTo16 payload
  natLe 1 type ++ natLe 1 (1 + p.length / 16) ++ natLe 2 ctx ++ natLe 1 core ++ natLe 1 slot ++ natLe 2 0 ++
  natLe 8 launchid ++ p

/-- Bytes of the log (R444). -/
def Stack.logBytes (t : Stack) : Nat := 4096 * t.capSize

/-- Append a record in mode 0; a full log stops capture (R445). The host's copies of its lines have been recalled. -/
def State.logAppend (s : State) (st ctx : Nat) (record : List Byte) : State :=
  let t := s.stack st
  if t.capLost then s
  else if t.logBytes < t.capPos + record.length then
    (s.modStack st (fun x => { x with capLost := true })).event 0x0230 st ctx (natLe 8 t.capPos)
  else (s.putDevice (t.capBase + t.capPos) record).modStack st (fun x =>
    { x.count 0x0E0 record.length with capPos := x.capPos + record.length })

/-- What the log makes of an event: it happens, with the payload to use, or it waits for records before it. -/
inductive Logged
  | go (payload : List Byte) (s : State)
  | hold
  deriving DecidableEq, Repr

/-- The record at a position of the log matches an event of a type and launch whose payload begins with these bytes. -/
def State.recordMatches (s : State) (pa type launchid : Nat) (key : List Byte) : Bool :=
  s.readNat pa 1 == type && s.readNat (pa + 8) 8 == launchid && readBytes s.mem (pa + 16) key.length == key

/-- Some record from a position on matches (fuel bounds the records left). -/
def State.recordAhead (s : State) (last type launchid : Nat) (key : List Byte) : Nat → Nat → Bool
  | _, 0 => false
  | pa, fuel + 1 =>
    let len := 16 * s.readNat (pa + 1) 1
    if last ≤ pa || len = 0 then false
    else s.recordMatches pa type launchid key || s.recordAhead last type launchid key (pa + len) fuel

/-- An event of a launch meets its stack's log (R445, R446). The first `keyLen` bytes of the payload name the event;
the rest is data that replay takes from the log. A launch without the capture flag leaves the log alone. In replay an
event whose record is not next, but comes later, waits; one with no record diverges. A record whose line the host
holds waits for it (R350). -/
def State.logged (s : State) (st : Nat) (l : Launch) (type core slot keyLen : Nat) (payload : List Byte) : Logged :=
  let t := s.stack st
  let id := l.desc.launchid.toNat
  let pa := t.capBase + t.capPos
  let last := t.capBase + t.logBytes
  let key := payload.take keyLen
  let record := captureRecord type l.ctx core slot id payload
  if !l.desc.capture then .go payload s
  else if t.capMode = 0 then
    (if !t.capLost && !(s.snoopLines pa record.length true).isEmpty then .hold else .go payload (s.logAppend st l.ctx record))
  else if t.capDiverged then .go payload s
  else if decide (pa < last) && s.recordMatches pa type id key then
    .go (readBytes s.mem (pa + 16) payload.length)
      (s.modStack st (fun x => { x with capPos := x.capPos + 16 * s.readNat (pa + 1) 1 }))
  else if s.recordAhead last type id key pa (t.logBytes / 16) then .hold
  else .go payload ((s.modStack st (fun x => { x with capDiverged := true })).event 0x0231 st l.ctx
    (natLe 1 type ++ List.replicate 7 0 ++ natLe 8 t.capPos))

/-- A read of now by a wave (record type 2): the value to return, or none while replay holds it. -/
def State.readNow (s : State) (c : Issue) : Option (Nat × State) :=
  let st := c.gang.stack
  let now := (s.stack st).now
  match s.launchOf c.gang with
  | none => some (now, s)
  | some l =>
    match s.logged st l 2 c.wave.coreId c.wave.slot 9
        (natLe 8 (gangIndex l c.gang) ++ natLe 1 c.w ++ natLe 8 now) with
    | .hold => none
    | .go p t => some (leNat (p.drop 9), t)

/-- The stack replays its log (R446). -/
def Stack.replays (t : Stack) : Bool := t.capMode == 1 && !t.capDiverged

/-- A read that a port which is down completes: zeros, poisoned (R354). -/
def Got.lost (n : Nat) : Got := ⟨List.replicate n 0, true, []⟩

/-- What a read of one piece finds, a system piece through the log of its launch (record type 3): none while it must wait.
`look` says what memory shows. -/
def State.readPiece (s : State) (look : State → Target → Nat → Got) (st core slot : Nat) (l : Option Launch) (t : Target)
    (n : Nat) : Option (Got × State) :=
  match t with
  | .spd _ => some (look s t n, s)
  | .mem pa _ _ =>
    let live := if s.portDown st pa then Got.lost n else look s t n
    match l with
    | none => some (live, s)
    | some launch =>
      if isLocal pa then some (live, s)
      else match s.logged st launch 3 core slot 10
          (natLe 8 pa ++ natLe 2 n ++ natLe 2 (if live.mark then 0xFFFF else 0) ++ live.bytes) with
        | .hold => none
        | .go p u =>
          some (if launch.desc.capture && (u.stack st).replays then
            ⟨p.drop 12, leNat ((p.drop 10).take 2) != 0, []⟩ else live, u)

/-- The reads of pieces, in order. -/
def State.readThrough (look : State → Target → Nat → Got) (st core slot : Nat) (l : Option Launch) :
    List (Target × Nat) → State → Option (List Got × State)
  | [], s => some ([], s)
  | (t, n) :: ps, s =>
    match s.readPiece look st core slot l t n with
    | none => none
    | some (x, u) =>
      match State.readThrough look st core slot l ps u with
      | none => none
      | some (xs, v) => some (x :: xs, v)

/-- The region and address of a target, for an agent whose scratchpad is its gang's. -/
def Target.place (t : Target) (g : Nat) : Region × Nat :=
  match t with
  | .spd off => (.spad g, off)
  | .mem pa _ _ => (.mem, pa)

/-- What an agent's loads find (R285, R286). -/
def Agent.look (a : Agent) (key : List Nat) (s : State) (t : Target) (n : Nat) : Got :=
  let p := t.place (a.place.gang.getD 0)
  s.observe a (key ++ [p.2]) p.1 p.2 n

end Sys2Proof.Machine
end

