-- ==== Sys2Proof/Machine/Atomic.lean ====
section
/-! DEFINITION. The arithmetic of atomics and their performing (R188 to R192), and return-free atomics that are not yet
performed. -/
namespace Sys2Proof

/-- The new value of a 32-bit integer atomic; none when a failed cas writes nothing (R189). -/
def AtomOp.apply32 (op : AtomOp) (old d cas : W32) : Option W32 :=
  match op with
  | .add32 => some (old + d)
  | .sub32 => some (old - d)
  | .minI32 => some (if d.slt old then d else old)
  | .minN32 => some (if d.ult old then d else old)
  | .maxI32 => some (if old.slt d then d else old)
  | .maxN32 => some (if old.ult d then d else old)
  | .and32 => some (old &&& d)
  | .or32 => some (old ||| d)
  | .xor32 => some (old ^^^ d)
  | .exch32 => some d
  | .cas32 => if old = d then some cas else none
  | .faddF32 => some (BitVec.ofNat 32 (Machine.fmtF32.add .rn old.toNat d.toNat).bits)
  | .fminF32 => some (BitVec.ofNat 32 (Machine.fmtF32.pick false true old.toNat d.toNat).bits)
  | .fmaxF32 => some (BitVec.ofNat 32 (Machine.fmtF32.pick true true old.toNat d.toNat).bits)
  | _ => none

/-- The new value of a 64-bit atomic; none when a failed cas writes nothing (R189). -/
def AtomOp.apply64 (op : AtomOp) (old d cas : W64) : Option W64 :=
  match op with
  | .add64 => some (old + d)
  | .sub64 => some (old - d)
  | .minI64 => some (if d.slt old then d else old)
  | .minN64 => some (if d.ult old then d else old)
  | .maxI64 => some (if old.slt d then d else old)
  | .maxN64 => some (if old.ult d then d else old)
  | .and64 => some (old &&& d)
  | .or64 => some (old ||| d)
  | .xor64 => some (old ^^^ d)
  | .exch64 => some d
  | .cas64 => if old = d then some cas else none
  | .faddF64 => some (BitVec.ofNat 64 (Machine.fmtF64.add .rn old.toNat d.toNat).bits)
  | .fminF64 => some (BitVec.ofNat 64 (Machine.fmtF64.pick false true old.toNat d.toNat).bits)
  | .fmaxF64 => some (BitVec.ofNat 64 (Machine.fmtF64.pick true true old.toNat d.toNat).bits)
  | _ => none

/-- Bytes of an atomic's location. -/
def AtomOp.size (op : AtomOp) : Nat := if op.is64 then 8 else 4

/-- The new value of an atomic over 64-bit carriers; 32-bit operations use the low halves. -/
def AtomOp.apply (op : AtomOp) (old d cas : W64) : Option W64 :=
  if op.is64 then op.apply64 old d cas
  else (op.apply32 (old.setWidth 32) (d.setWidth 32) (cas.setWidth 32)).map (fun v => v.setWidth 64)

/-- A floating-point atomic. -/
def AtomOp.float : AtomOp → Bool
  | .faddF32 => true | .faddF64 => true | .fminF32 => true | .fminF64 => true | .fmaxF32 => true | .fmaxF64 => true
  | _ => false

namespace Machine

/-- The code of a performing point in a capture record (R190, R445; the codes are this model's, assumption 10): 0 cluster
SRAM, 1 cache ways, 2 home slice, 3 channel, 4 device cache. -/
def pointCode (point : Nat) : Nat := if 8 ≤ point then 1 else point

/-- One atomic of a lane, ready to be performed. -/
structure LaneAtomic where
  lane : Nat
  target : Target
  op : AtomOp
  operand : W64
  cas : W64
  mark : Bool
  returns : Bool
  point : Nat
  deriving DecidableEq, Repr

/-- The payload of a type 5 capture record (R445). -/
def LaneAtomic.payload (a : LaneAtomic) (index w : Nat) : List Byte :=
  let pa := match a.target with | .spd off => apertureBase + off | .mem pa _ _ => pa
  natLe 8 pa ++ natLe 8 index ++ natLe 1 w ++ natLe 1 a.lane ++ natLe 1 (pointCode a.point)

/-- Capture records this atomic (R445). -/
def LaneAtomic.recorded (a : LaneAtomic) : Bool := a.op.float || a.returns

/-- What an atomic reads and whether it writes: the state after it, the old value with its mark, and the stores read. -/
structure Performed where
  state : State
  old : W64
  mark : Bool
  tops : List (Nat × Stored)
  deriving DecidableEq, Repr

/-- The releases of the stores that an atomic follows at its own point: their release sequence goes on (R289). -/
def carried (point : Nat) (tops : List (Nat × Stored)) : List Head :=
  ((tops.filter (fun p => p.2.point == point)).flatMap (fun p => p.2.heads)).eraseDups

/-- An atomic of an agent on n bytes (R189, R190): old is what stands there, or, where another store races it at
another point, what R294 allows. `f` gives the new value, none where nothing is written. `heads` are the releases that
it brings if it writes. A system line is taken at its directory stack (R351); a port that is down gives a poisoned old
value, and takes a return-free atomic as a failed store (R354). -/
def State.atomicAt (s : State) (a : Agent) (heads : List Head) (st point : Nat) (returns : Bool) (t : Target) (n : Nat)
    (mark : Bool) (f : W64 → Option W64) : Performed :=
  let q := t.place (a.place.gang.getD 0)
  let down := match t with | .spd _ => false | .mem pa _ _ => s.portDown st pa
  let found := s.present q.1 q.2 n
  let race := match t with | .spd _ => none | .mem pa _ _ => s.racing a point pa n true
  -- the cases of R294 that are not the two orders: 1 writes over the other's store, 2 loses its own
  let outcome := if race.isSome then s.chooseAt [16, a.thread, q.2] 3 else 0
  let got := match race with
    | some x => if outcome = 0 then found else ⟨x.old, x.oldMark, []⟩
    | none => found
  let old : W64 := if got.mark then 0 else BitVec.ofNat 64 (leNat got.bytes)
  let au : Author := ⟨a.own, a.thread, a.place, a.scope, a.know.view, (heads ++ carried point got.tops).eraseDups, point, true⟩
  if down && returns then ⟨s, 0, true, []⟩
  else if down then ⟨s.storePiece a au st true (List.replicate n 0) mark t, 0, true, []⟩
  else match f old with
    | none =>
      let s' := match t with
        | .spd _ => s
        | .mem pa leaf _ => if !isLocal pa && has leaf.bits 7 then s.touch ((s.port st pa).getD st) pa true else s
      ⟨s', old, got.mark, got.tops⟩
    | some v =>
      ⟨if outcome = 2 then s else s.storePiece a au st true (natLe n v.toNat) mark t, old, got.mark, got.tops⟩

/-- Perform one atomic of a lane of wave (g, w) as agent `a` (R189): none while replay holds it. -/
def State.performAtomic (s : State) (a : Agent) (heads : List Head) (g w : Nat) (x : LaneAtomic) : Option Performed :=
  match aget s.gangs g with
  | none => some ⟨s, 0, false, []⟩
  | some gang =>
    let st := gang.stack
    let log := match s.launchOf gang with
      | some l => if x.recorded then
          s.logged st l 5 (((gang.waves[w]?).map Wave.coreId).getD 0) (((gang.waves[w]?).map Wave.slot).getD 0) 19
            (x.payload (gangIndex l gang) w)
          else .go [] s
      | none => .go [] s
    match log with
    | .hold => none
    | .go _ s =>
      some (s.atomicAt a heads st x.point x.returns x.target x.op.size x.mark (fun old => x.op.apply old x.operand x.cas))

/-- The lane whose record replay expects next comes first; without replay the given order stands. -/
def State.nextAtomic (s : State) (g w : Nat) (xs : List LaneAtomic) : Nat :=
  match aget s.gangs g with
  | none => 0
  | some gang =>
    match s.launchOf gang with
    | none => 0
    | some l =>
      let t := s.stack gang.stack
      if l.desc.capture && t.replays then
        ((xs.mapIdx (fun k a => (k, a))).find? (fun p =>
          s.recordMatches (t.capBase + t.capPos) 5 l.desc.launchid.toNat (p.2.payload (gangIndex l gang) w))
          |>.map (fun p => p.1)).getD 0
      else 0

/-- Perform the atomics of an instruction one after another (R191), each as its lane's agent: the state, and what each
lane read. -/
def State.performAtomics (s : State) (g w : Nat) (agent : Nat → Agent) (release : Bool) :
    Nat → List LaneAtomic → Option (State × List (Nat × W64 × Bool × List (Nat × Stored)))
  | 0, _ => some (s, [])
  | fuel + 1, xs =>
    let k := s.nextAtomic g w xs
    match xs[k]? with
    | none => some (s, [])
    | some x =>
      let a := agent x.lane
      match s.performAtomic a (a.heads release s.history.length) g w x with
      | none => none
      | some r =>
        match r.state.performAtomics g w agent release fuel (xs.eraseIdx k) with
        | none => none
        | some (u, rest) => some (u, (x.lane, r.old, r.mark, r.tops) :: rest)

/-! ### Return-free memory-side atomics (R192) -/

/-- The atomic of a pending MATOM; its page is in local HBM, and the point is the one that held at issue (R400). -/
def Matom.atomic (m : Matom) : LaneAtomic :=
  { lane := m.lane, target := .mem m.pa ⟨0, m.point == 3⟩ 0, op := m.op, operand := m.operand, cas := m.cas, mark := m.mark
    returns := false, point := m.point }

/-- A pending MATOM as an agent: a thread of its own, since nothing later of its lane waits for it (R192). -/
def State.matomAgent (s : State) (m : Matom) : Agent :=
  ⟨some (m.gang, m.wave), m.thread, s.placeOf m.gang m.wave, m.scope, Know.start m.view⟩

/-- Perform pending MATOM k, with the host's copies recalled first (R350): none while it must wait. Its lane is
ordered after it only where R192 or R194 says so. -/
def State.performMatom (s : State) (k : Nat) : Option State :=
  match s.matoms[k]? with
  | none => none
  | some m =>
    let t := { s with matoms := s.matoms.eraseIdx k }
    if (s.snoopLines m.pa m.op.size true).isEmpty then
      (t.performAtomic (s.matomAgent m) m.heads m.gang m.wave m.atomic).map (fun r =>
        r.state.modWave m.gang m.wave (fun v => { v with
          matoms := Seen.join v.matoms [(m.thread, r.state.history.length)]
          matomMet := v.matomMet ++ (r.tops.flatMap (fun p => p.2.heads)).map (fun h => (m.lane, m.scope, h)) }))
    else none

/-- The first pending MATOM of a lane that touches these bytes. -/
def State.pendingMatom (s : State) (g w lane pa n : Nat) : Option Nat :=
  s.matoms.findIdx? (fun m => m.gang == g && m.wave == w && m.lane == lane && decide (m.pa < pa + n) &&
    decide (pa < m.pa + m.op.size))

/-- Perform the MATOMs that the same lane issued to these bytes before a later access of it, which comes after them
(R192). -/
def State.flushMatoms (s : State) (g w lane pa n : Nat) : Nat → Option State
  | 0 => some s
  | fuel + 1 =>
    match s.pendingMatom g w lane pa n with
    | none => some s
    | some k =>
      match s.performMatom k with
      | none => none
      | some t =>
        (t.modWave g w (fun v => v.modCore (fun c => c.learnIn (maskOf [lane])
          [(((s.matoms[k]?).map Matom.thread).getD 0, t.history.length)]))).flushMatoms g w lane pa n fuel

/-- The first pending MATOM of a wave that was issued before key k was given out. -/
def State.matomBefore (s : State) (g w k : Nat) : Option Nat :=
  s.matoms.findIdx? (fun m => m.gang == g && m.wave == w && decide (m.thread < matomThread k))

/-- Perform the MATOMs that a wave issued before it forked operation k (R192, R292): the state, and what then happens
before the operation's accesses. None while one must wait. -/
def State.flushBefore (s : State) (g w k : Nat) : Nat → Seen → Option (State × Seen)
  | 0, v => some (s, v)
  | fuel + 1, v =>
    match s.matomBefore g w k with
    | none => some (s, v)
    | some i =>
      match s.performMatom i with
      | none => none
      | some t => t.flushBefore g w k fuel (Seen.join v [(((s.matoms[i]?).map Matom.thread).getD 0, t.history.length)])

/-- The host lines in the way of a wave's pending MATOMs (R350). -/
def State.matomLines (s : State) (g w : Nat) : List Nat :=
  (s.matoms.filter (fun m => m.gang == g && m.wave == w)).flatMap (fun m => s.snoopLines m.pa m.op.size true)

/-- The same for every piece of every lane of an instruction. -/
def State.flushLanes (s : State) (g w : Nat) (oks : List (Nat × List (Target × Nat))) : Option State :=
  (oks.flatMap (fun p => p.2.map (fun q => (p.1, q)))).foldl (fun t p => t.bind (fun u =>
    match p.2.1 with
    | .spd _ => some u
    | .mem pa _ _ => u.flushMatoms g w p.1 pa p.2.2 u.matoms.length)) (some s)

end Machine
end Sys2Proof
end

