-- ==== Sys2Proof/Machine/Crypto.lean ====
section
/-! DEFINITION. The digests and signatures that R422, R425 and R428 name: SHA-256 of FIPS 180-4, the curve P-256, and
ECDSA of FIPS 186-5 over both. -/
namespace Sys2Proof.Machine

/-! ### Byte strings of keys and digests -/

/-- The n bytes of a number, most significant first (R421, R422). -/
def beBytes (n v : Nat) : List Byte := (natLe n v).reverse

/-- A number from bytes, most significant first. -/
def beNat (bs : List Byte) : Nat := leNat bs.reverse

/-- A byte string of n bytes; the empty list stands for zeros. -/
def padded (n : Nat) (bs : List Byte) : List Byte := (bs ++ List.replicate n 0).take n

/-! ### SHA-256 -/

/-- The constants of the rounds. -/
def shaK : List W32 :=
  [0x428A2F98, 0x71374491, 0xB5C0FBCF, 0xE9B5DBA5, 0x3956C25B, 0x59F111F1, 0x923F82A4, 0xAB1C5ED5,
   0xD807AA98, 0x12835B01, 0x243185BE, 0x550C7DC3, 0x72BE5D74, 0x80DEB1FE, 0x9BDC06A7, 0xC19BF174] ++
  [0xE49B69C1, 0xEFBE4786, 0x0FC19DC6, 0x240CA1CC, 0x2DE92C6F, 0x4A7484AA, 0x5CB0A9DC, 0x76F988DA,
   0x983E5152, 0xA831C66D, 0xB00327C8, 0xBF597FC7, 0xC6E00BF3, 0xD5A79147, 0x06CA6351, 0x14292967] ++
  [0x27B70A85, 0x2E1B2138, 0x4D2C6DFC, 0x53380D13, 0x650A7354, 0x766A0ABB, 0x81C2C92E, 0x92722C85,
   0xA2BFE8A1, 0xA81A664B, 0xC24B8B70, 0xC76C51A3, 0xD192E819, 0xD6990624, 0xF40E3585, 0x106AA070] ++
  [0x19A4C116, 0x1E376C08, 0x2748774C, 0x34B0BCB5, 0x391C0CB3, 0x4ED8AA4A, 0x5B9CCA4F, 0x682E6FF3,
   0x748F82EE, 0x78A5636F, 0x84C87814, 0x8CC70208, 0x90BEFFFA, 0xA4506CEB, 0xBEF9A3F7, 0xC67178F2]

/-- The eight words of the hash. -/
structure Sha where
  a : W32
  b : W32
  c : W32
  d : W32
  e : W32
  f : W32
  g : W32
  h : W32
  deriving DecidableEq, Repr

/-- The hash before the first block. -/
def Sha.start : Sha :=
  ⟨0x6A09E667, 0xBB67AE85, 0x3C6EF372, 0xA54FF53A, 0x510E527F, 0x9B05688C, 0x1F83D9AB, 0x5BE0CD19⟩

/-- The word rotated right by n. -/
def rotr (x : W32) (n : Nat) : W32 := x >>> n ||| x <<< (32 - n)

/-- One round, with its constant and its word of the schedule. -/
def Sha.round (x : Sha) (k w : W32) : Sha :=
  let s1 := rotr x.e 6 ^^^ rotr x.e 11 ^^^ rotr x.e 25
  let ch := (x.e &&& x.f) ^^^ (~~~x.e &&& x.g)
  let t1 := x.h + s1 + ch + k + w
  let s0 := rotr x.a 2 ^^^ rotr x.a 13 ^^^ rotr x.a 22
  let maj := (x.a &&& x.b) ^^^ (x.a &&& x.c) ^^^ (x.b &&& x.c)
  ⟨t1 + (s0 + maj), x.a, x.b, x.c, x.d + t1, x.e, x.f, x.g⟩

/-- The rounds of a block: `ws` are the next sixteen words of the schedule, of which each round takes one and adds one. -/
def Sha.rounds : List W32 → List W32 → Sha → Sha
  | [], _, x => x
  | k :: ks, ws, x =>
    let w := fun n => ws.getD n 0
    let s0 := rotr (w 1) 7 ^^^ rotr (w 1) 18 ^^^ (w 1) >>> 3
    let s1 := rotr (w 14) 17 ^^^ rotr (w 14) 19 ^^^ (w 14) >>> 10
    Sha.rounds ks (ws.drop 1 ++ [w 0 + s0 + w 9 + s1]) (x.round k (w 0))

/-- The sum of two hashes, word by word. -/
def Sha.plus (x y : Sha) : Sha := ⟨x.a + y.a, x.b + y.b, x.c + y.c, x.d + y.d, x.e + y.e, x.f + y.f, x.g + y.g, x.h + y.h⟩

/-- The words of a block, most significant byte first. -/
def blockWords (bs : List Byte) : List W32 :=
  (List.range 16).map (fun i => BitVec.ofNat 32 (beNat ((bs.drop (4 * i)).take 4)))

/-- The hash over so many blocks of bytes. -/
def Sha.over : Nat → List Byte → Sha → Sha
  | 0, _, x => x
  | n + 1, bs, x => Sha.over n (bs.drop 64) (x.plus (Sha.rounds shaK (blockWords (bs.take 64)) x))

/-- A message padded to whole blocks: a 1 bit, zeros, and its length in bits. -/
def shaPadded (bs : List Byte) : List Byte :=
  bs ++ [0x80] ++ List.replicate ((119 - bs.length % 64) % 64) 0 ++ beBytes 8 (8 * bs.length)

/-- SHA-256 of a byte string. -/
def sha256 (bs : List Byte) : BitVec 256 :=
  let m := shaPadded bs
  let x := Sha.over (m.length / 64) m Sha.start
  x.a ++ x.b ++ x.c ++ x.d ++ x.e ++ x.f ++ x.g ++ x.h

/-! ### The curve P-256 -/

/-- The prime of the field. -/
def p256Prime : Nat := 0xFFFFFFFF00000001000000000000000000000000FFFFFFFFFFFFFFFFFFFFFFFF
/-- The order of the base point, n of R425. -/
def p256Order : Nat := 0xFFFFFFFF00000000FFFFFFFFFFFFFFFFBCE6FAADA7179E84F3B9CAC2FC632551
/-- The constant term of the curve, whose other coefficient is -3. -/
def p256B : Nat := 0x5AC635D8AA3A93E7B3EBBD55769886BC651D06B0CC53B0F63BCE3C3E27D2604B

/-- A point of the curve; none is the point at infinity. -/
abbrev Point := Option (Nat × Nat)

/-- The base point G. -/
def p256Base : Point :=
  some (0x6B17D1F2E12C4247F8BCE6E563A440F277037D812DEB33A0F4A13945D898C296,
        0x4FE342E2FE1A7F9B8EE7EB4A7C0F9E162BCE33576B315ECECBB6406837BF51F5)

/-- a to the power e modulo m, over so many bits of e. -/
def powMod (m : Nat) : Nat → Nat → Nat → Nat
  | 0, _, _ => 1
  | bits + 1, a, e =>
    let r := powMod m bits (a * a % m) (e / 2)
    if e % 2 = 1 then r * a % m else r

/-- The inverse modulo a prime. -/
def invMod (m a : Nat) : Nat := powMod m 256 (a % m) (m - 2)

/-- The point with slope l through (x1, y1) and a point at x2. -/
def chord (l x1 y1 x2 : Nat) : Point :=
  let p := p256Prime
  let x := (l * l + (p - x1) + (p - x2)) % p
  some (x, (l * (x1 + (p - x)) + (p - y1)) % p)

/-- Addition on the curve. -/
def Point.add (a b : Point) : Point :=
  let p := p256Prime
  match a, b with
  | none, q => q
  | q, none => q
  | some (x1, y1), some (x2, y2) =>
    if x1 = x2 then
      if (y1 + y2) % p = 0 then none
      else chord ((3 * x1 * x1 + (p - 3)) * invMod p (2 * y1) % p) x1 y1 x2
    else chord ((y2 + (p - y1)) * invMod p (x2 + (p - x1)) % p) x1 y1 x2

/-- The multiple k·P, over so many bits of k. -/
def Point.times : Nat → Nat → Point → Point
  | 0, _, _ => none
  | bits + 1, k, q =>
    let r := Point.times bits (k / 2) (q.add q)
    if k % 2 = 1 then r.add q else r

/-- The multiple k·P of a scalar of 256 bits. -/
def scale (k : Nat) (q : Point) : Point := Point.times 256 k q

/-- The point lies on the curve and is not at infinity. -/
def Point.onCurve : Point → Bool
  | none => false
  | some (x, y) =>
    let p := p256Prime
    decide (x < p) && decide (y < p) && (y * y) % p == (x * x * x + (p - 3) * x + p256B) % p

/-! ### Keys and signatures -/

/-- The 64 bytes of two numbers, X then Y or r then s. -/
def pairBytes (a b : Nat) : List Byte := beBytes 32 a ++ beBytes 32 b

/-- The public key d·G as X then Y. -/
def publicKey (d : Nat) : List Byte :=
  match scale d p256Base with
  | some (x, y) => pairBytes x y
  | none => pairBytes 0 0

/-- The private key that a seed gives (R425). -/
def privateKey (seed : BitVec 256) : Nat := (sha256 (beBytes 32 seed.toNat)).toNat % (p256Order - 1) + 1

/-- The signature over a digest by private key d with secret number k. -/
def signWith (d k digest : Nat) : Nat × Nat :=
  let n := p256Order
  let r := match scale k p256Base with | some (x, _) => x % n | none => 0
  (r, invMod n k * ((digest + r * d) % n) % n)

/-- Sign a message: the first of some secret numbers that gives a signature with no part 0. -/
def ecdsaSign (d : Nat) (ks : List Nat) (message : List Byte) : List Byte :=
  let digest := (sha256 message).toNat
  let drawn := ks.map (fun k => signWith d (k % (p256Order - 1) + 1) digest)
  let x := ((drawn.find? (fun x => x.1 != 0 && x.2 != 0)).orElse (fun _ => drawn.getLast?)).getD (0, 0)
  pairBytes x.1 x.2

/-- A signature by a key verifies over a message. -/
def ecdsaVerifies (key signature message : List Byte) : Bool :=
  let n := p256Order
  let q : Point := some (beNat (key.take 32), beNat ((key.drop 32).take 32))
  let r := beNat (signature.take 32)
  let v := beNat ((signature.drop 32).take 32)
  let w := invMod n v
  let u := (sha256 message).toNat * w % n
  q.onCurve && decide (0 < r) && decide (r < n) && decide (0 < v) && decide (v < n) &&
  (match (scale u p256Base).add (scale (r * w % n) q) with
   | none => false
   | some (x, _) => x % n == r)

end Sys2Proof.Machine
end

