-- ==== Sys2Proof/Decode.lean ====
section
/-! DEFINITION. Decoding an instruction word, total on any 32 bits and refusing by name, and after it the encoder.
A word is read as the number of its bits (R4); a field [hi:lo] of it is `bits hi lo`. Formats and tables: R51 to R77. -/
namespace Sys2Proof

/-- Field [hi:lo] of a word, both ends included (R4). -/
def bits (hi lo w : Nat) : Nat := w / 2 ^ lo % 2 ^ (hi + 1 - lo)

/-- A one-bit field. -/
def flag (i w : Nat) : Bool := bits i i w == 1

/-- The code of the named value in the word. -/
def Rm.code : Rm → Nat
  | .rn => 0
  | .rz => 1
  | .rd => 2
  | .ru => 3
/-- The value a code names, if any. -/
def Rm.ofCode : Nat → Option Rm
  | 0 => some .rn
  | 1 => some .rz
  | 2 => some .rd
  | 3 => some .ru
  | _ => none

/-- The code of the named value in the word. -/
def Rounding.code : Rounding → Nat
  | .rn => 0
  | .rna => 1
  | .rz => 2
  | .rd => 3
  | .ru => 4
  | .rs => 5
/-- The value a code names, if any. -/
def Rounding.ofCode : Nat → Option Rounding
  | 0 => some .rn
  | 1 => some .rna
  | 2 => some .rz
  | 3 => some .rd
  | 4 => some .ru
  | 5 => some .rs
  | _ => none

/-- The code of the named value in the word. -/
def Cond.code : Cond → Nat
  | .eq => 0
  | .ne => 1
  | .lt => 2
  | .le => 3
  | .gt => 4
  | .ge => 5
/-- The value a code names, if any. -/
def Cond.ofCode : Nat → Option Cond
  | 0 => some .eq
  | 1 => some .ne
  | 2 => some .lt
  | 3 => some .le
  | 4 => some .gt
  | 5 => some .ge
  | _ => none

/-- The code of the named value in the word. -/
def FCond.code : FCond → Nat
  | .eq => 0
  | .ne => 1
  | .lt => 2
  | .le => 3
  | .gt => 4
  | .ge => 5
  | .un => 6
  | .ord => 7
/-- The value a code names, if any. -/
def FCond.ofCode : Nat → Option FCond
  | 0 => some .eq
  | 1 => some .ne
  | 2 => some .lt
  | 3 => some .le
  | 4 => some .gt
  | 5 => some .ge
  | 6 => some .un
  | 7 => some .ord
  | _ => none

/-- The code of the named value in the word. -/
def NumTy.code : NumTy → Nat
  | .f64 => 0
  | .f32 => 1
  | .f16 => 2
  | .bf16 => 3
  | .e4m3 => 4
  | .e5m2 => 5
  | .i8 => 6
  | .i16 => 7
  | .i32 => 8
  | .i64 => 9
  | .n8 => 10
  | .n16 => 11
  | .n32 => 12
  | .n64 => 13
/-- The value a code names, if any. -/
def NumTy.ofCode : Nat → Option NumTy
  | 0 => some .f64
  | 1 => some .f32
  | 2 => some .f16
  | 3 => some .bf16
  | 4 => some .e4m3
  | 5 => some .e5m2
  | 6 => some .i8
  | 7 => some .i16
  | 8 => some .i32
  | 9 => some .i64
  | 10 => some .n8
  | 11 => some .n16
  | 12 => some .n32
  | 13 => some .n64
  | _ => none

/-- The code of the named value in the word. -/
def MemTy.code : MemTy → Nat
  | .n8 => 0
  | .i8 => 1
  | .n16 => 2
  | .i16 => 3
  | .b32 => 4
  | .b64 => 5
/-- The value a code names, if any. -/
def MemTy.ofCode : Nat → Option MemTy
  | 0 => some .n8
  | 1 => some .i8
  | 2 => some .n16
  | 3 => some .i16
  | 4 => some .b32
  | 5 => some .b64
  | _ => none

/-- The code of the named value in the word. -/
def Space.code : Space → Nat
  | .gen => 0
  | .glb => 1
  | .spd => 2
  | .cst => 3
/-- The value a code names, if any. -/
def Space.ofCode : Nat → Option Space
  | 0 => some .gen
  | 1 => some .glb
  | 2 => some .spd
  | 3 => some .cst
  | _ => none

/-- The code of the named value in the word. -/
def WSpace.code : WSpace → Nat
  | .gen => 0
  | .glb => 1
  | .spd => 2
/-- The value a code names, if any. -/
def WSpace.ofCode : Nat → Option WSpace
  | 0 => some .gen
  | 1 => some .glb
  | 2 => some .spd
  | _ => none

/-- The code of the named value in the word. -/
def Scope.code : Scope → Nat
  | .none => 0
  | .wave => 1
  | .gang => 2
  | .stack => 3
  | .pkg => 4
  | .sys => 5
/-- The value a code names, if any. -/
def Scope.ofCode : Nat → Option Scope
  | 0 => some .none
  | 1 => some .wave
  | 2 => some .gang
  | 3 => some .stack
  | 4 => some .pkg
  | 5 => some .sys
  | _ => none

/-- The code of the named value in the word. -/
def FenceOrder.code : FenceOrder → Nat
  | .acq => 0
  | .rel => 1
  | .both => 2
/-- The value a code names, if any. -/
def FenceOrder.ofCode : Nat → Option FenceOrder
  | 0 => some .acq
  | 1 => some .rel
  | 2 => some .both
  | _ => none

/-- The code of the named value in the word. -/
def AtomOrder.code : AtomOrder → Nat
  | .rlx => 0
  | .acq => 1
  | .rel => 2
/-- The value a code names, if any. -/
def AtomOrder.ofCode : Nat → Option AtomOrder
  | 0 => some .rlx
  | 1 => some .acq
  | 2 => some .rel
  | _ => none

/-- The code of the named value in the word. -/
def MonCmp.code : MonCmp → Nat
  | .ne => 0
  | .eq => 1
  | .ge => 2
/-- The value a code names, if any. -/
def MonCmp.ofCode : Nat → Option MonCmp
  | 0 => some .ne
  | 1 => some .eq
  | 2 => some .ge
  | _ => none

/-- The code of the named value in the word. -/
def BarKind.code : BarKind → Nat
  | .arv => 0
  | .wait => 1
  | .sync => 2
  | .drop => 3
  | .join => 4
/-- The value a code names, if any. -/
def BarKind.ofCode : Nat → Option BarKind
  | 0 => some .arv
  | 1 => some .wait
  | 2 => some .sync
  | 3 => some .drop
  | 4 => some .join
  | _ => none

/-- The code of the named value in the word. -/
def BarScope.code : BarScope → Nat
  | .wave => 0
  | .gang => 1
  | .stack => 2
  | .pkg => 3
/-- The value a code names, if any. -/
def BarScope.ofCode : Nat → Option BarScope
  | 0 => some .wave
  | 1 => some .gang
  | 2 => some .stack
  | 3 => some .pkg
  | _ => none

/-- The code of the named value in the word. -/
def MaskOp.code : MaskOp → Nat
  | .write => 0
  | .set => 1
  | .clear => 2
/-- The value a code names, if any. -/
def MaskOp.ofCode : Nat → Option MaskOp
  | 0 => some .write
  | 1 => some .set
  | 2 => some .clear
  | _ => none

/-- The code of the named value in the word. -/
def Validity.code : Validity → Nat
  | .none => 0
  | .part => 1
  | .full => 2
/-- The value a code names, if any. -/
def Validity.ofCode : Nat → Option Validity
  | 0 => some .none
  | 1 => some .part
  | 2 => some .full
  | _ => none

/-- The code of the named value in the word. -/
def AtomOp.code : AtomOp → Nat
  | .add32 => 0
  | .add64 => 1
  | .sub32 => 2
  | .sub64 => 3
  | .minI32 => 4
  | .minN32 => 5
  | .minI64 => 6
  | .minN64 => 7
  | .maxI32 => 8
  | .maxN32 => 9
  | .maxI64 => 10
  | .maxN64 => 11
  | .and32 => 12
  | .and64 => 13
  | .or32 => 14
  | .or64 => 15
  | .xor32 => 16
  | .xor64 => 17
  | .exch32 => 18
  | .exch64 => 19
  | .cas32 => 20
  | .cas64 => 21
  | .faddF32 => 22
  | .faddF64 => 23
  | .fminF32 => 24
  | .fminF64 => 25
  | .fmaxF32 => 26
  | .fmaxF64 => 27
/-- The value a code names, if any. -/
def AtomOp.ofCode : Nat → Option AtomOp
  | 0 => some .add32
  | 1 => some .add64
  | 2 => some .sub32
  | 3 => some .sub64
  | 4 => some .minI32
  | 5 => some .minN32
  | 6 => some .minI64
  | 7 => some .minN64
  | 8 => some .maxI32
  | 9 => some .maxN32
  | 10 => some .maxI64
  | 11 => some .maxN64
  | 12 => some .and32
  | 13 => some .and64
  | 14 => some .or32
  | 15 => some .or64
  | 16 => some .xor32
  | 17 => some .xor64
  | 18 => some .exch32
  | 19 => some .exch64
  | 20 => some .cas32
  | 21 => some .cas64
  | 22 => some .faddF32
  | 23 => some .faddF64
  | 24 => some .fminF32
  | 25 => some .fminF64
  | 26 => some .fmaxF32
  | 27 => some .fmaxF64
  | _ => none

/-- A code that must name a value. -/
def need {α : Type} : Option α → Except DecodeError α
  | some x => .ok x
  | none => .error .illegalCode

/-- Function codes of the SYS major (0x00). -/
def decodeSys (w : Nat) : Except DecodeError Instr :=
  match bits 26 22 w with
  | 0 => .error .permanentlyIllegal
  | 1 => .ok .nop
  | 2 => .ok (.trap (.ofNat 7 (bits 6 0 w)))
  | 3 => .ok .tret
  | 4 => .ok (.brk (.ofNat 7 (bits 6 0 w)))
  | 5 => .ok (.gets (flag 21 w) (.ofNat 7 (bits 20 14 w)) (.ofNat 7 (bits 13 7 w)))
  | 6 => .ok (.sets (.ofNat 7 (bits 13 7 w)) (.ofNat 7 (bits 6 0 w)))
  | 7 => do let o_ ← need (MaskOp.ofCode (bits 6 5 w)); return .xen o_ (.ofNat 5 (bits 4 0 w))
  | 8 => do let o_ ← need (MaskOp.ofCode (bits 6 5 w)); return .xflg o_ (.ofNat 5 (bits 4 0 w))
  | 9 => .ok .exit
  | 10 => .ok .ret
  | 11 => .ok (.brx (.ofNat 7 (bits 13 7 w)) (.ofNat 6 (bits 5 0 w)))
  | 12 => .ok (.callx (.ofNat 7 (bits 13 7 w)) (.ofNat 6 (bits 5 0 w)))
  | 13 => .ok (.prio (.ofNat 6 (bits 5 0 w)))
  | 14 => .ok (.jmsk (.ofNat 3 (bits 16 14 w)))
  | 15 => .ok (.join (.ofNat 3 (bits 16 14 w)))
  | 16 => .ok (.winb (.ofNat 6 (bits 5 0 w)))
  | 17 => do let v_ ← need (Validity.ofCode (bits 1 0 w)); return .valid v_
  | 18 => .ok .yield
  | 19 => .ok (.guard (.ofNat 7 (bits 20 14 w)) (flag 4 w) (.ofNat 4 (bits 3 0 w)))
  | _ => .error .reservedFunction

/-- Function codes of the INT major (0x03). -/
def decodeInt (w : Nat) : Except DecodeError Instr :=
  match bits 26 22 w with
  | 0 => .ok (.add32 (flag 21 w) (.ofNat 7 (bits 20 14 w)) (.ofNat 7 (bits 13 7 w)) (.ofNat 7 (bits 6 0 w)))
  | 1 => .ok (.sub32 (flag 21 w) (.ofNat 7 (bits 20 14 w)) (.ofNat 7 (bits 13 7 w)) (.ofNat 7 (bits 6 0 w)))
  | 2 => .ok (.mull (flag 21 w) (.ofNat 7 (bits 20 14 w)) (.ofNat 7 (bits 13 7 w)) (.ofNat 7 (bits 6 0 w)))
  | 3 => .ok (.mulhI32 (flag 21 w) (.ofNat 7 (bits 20 14 w)) (.ofNat 7 (bits 13 7 w)) (.ofNat 7 (bits 6 0 w)))
  | 4 => .ok (.mulhN32 (flag 21 w) (.ofNat 7 (bits 20 14 w)) (.ofNat 7 (bits 13 7 w)) (.ofNat 7 (bits 6 0 w)))
  | 5 => .ok (.mad (flag 21 w) (.ofNat 7 (bits 20 14 w)) (.ofNat 7 (bits 13 7 w)) (.ofNat 7 (bits 6 0 w)))
  | 6 => .ok (.div32 (flag 22 w) (flag 21 w) (.ofNat 7 (bits 20 14 w)) (.ofNat 7 (bits 13 7 w)) (.ofNat 7 (bits 6 0 w)))
  | 7 => .ok (.div32 (flag 22 w) (flag 21 w) (.ofNat 7 (bits 20 14 w)) (.ofNat 7 (bits 13 7 w)) (.ofNat 7 (bits 6 0 w)))
  | 8 => .ok (.rem32 (flag 22 w) (flag 21 w) (.ofNat 7 (bits 20 14 w)) (.ofNat 7 (bits 13 7 w)) (.ofNat 7 (bits 6 0 w)))
  | 9 => .ok (.rem32 (flag 22 w) (flag 21 w) (.ofNat 7 (bits 20 14 w)) (.ofNat 7 (bits 13 7 w)) (.ofNat 7 (bits 6 0 w)))
  | 10 => .ok (.min32 (flag 22 w) (flag 21 w) (.ofNat 7 (bits 20 14 w)) (.ofNat 7 (bits 13 7 w)) (.ofNat 7 (bits 6 0 w)))
  | 11 => .ok (.min32 (flag 22 w) (flag 21 w) (.ofNat 7 (bits 20 14 w)) (.ofNat 7 (bits 13 7 w)) (.ofNat 7 (bits 6 0 w)))
  | 12 => .ok (.max32 (flag 22 w) (flag 21 w) (.ofNat 7 (bits 20 14 w)) (.ofNat 7 (bits 13 7 w)) (.ofNat 7 (bits 6 0 w)))
  | 13 => .ok (.max32 (flag 22 w) (flag 21 w) (.ofNat 7 (bits 20 14 w)) (.ofNat 7 (bits 13 7 w)) (.ofNat 7 (bits 6 0 w)))
  | 14 => .ok (.sadd (flag 22 w) (flag 21 w) (.ofNat 7 (bits 20 14 w)) (.ofNat 7 (bits 13 7 w)) (.ofNat 7 (bits 6 0 w)))
  | 15 => .ok (.sadd (flag 22 w) (flag 21 w) (.ofNat 7 (bits 20 14 w)) (.ofNat 7 (bits 13 7 w)) (.ofNat 7 (bits 6 0 w)))
  | 16 => .ok (.ssub (flag 22 w) (flag 21 w) (.ofNat 7 (bits 20 14 w)) (.ofNat 7 (bits 13 7 w)) (.ofNat 7 (bits 6 0 w)))
  | 17 => .ok (.ssub (flag 22 w) (flag 21 w) (.ofNat 7 (bits 20 14 w)) (.ofNat 7 (bits 13 7 w)) (.ofNat 7 (bits 6 0 w)))
  | 18 => .ok (.and32 (flag 21 w) (.ofNat 7 (bits 20 14 w)) (.ofNat 7 (bits 13 7 w)) (.ofNat 7 (bits 6 0 w)))
  | 19 => .ok (.or32 (flag 21 w) (.ofNat 7 (bits 20 14 w)) (.ofNat 7 (bits 13 7 w)) (.ofNat 7 (bits 6 0 w)))
  | 20 => .ok (.xor32 (flag 21 w) (.ofNat 7 (bits 20 14 w)) (.ofNat 7 (bits 13 7 w)) (.ofNat 7 (bits 6 0 w)))
  | 21 => .ok (.shl (flag 21 w) (.ofNat 7 (bits 20 14 w)) (.ofNat 7 (bits 13 7 w)) (.ofNat 7 (bits 6 0 w)))
  | 22 => .ok (.shr (flag 21 w) (.ofNat 7 (bits 20 14 w)) (.ofNat 7 (bits 13 7 w)) (.ofNat 7 (bits 6 0 w)))
  | 23 => .ok (.sar (flag 21 w) (.ofNat 7 (bits 20 14 w)) (.ofNat 7 (bits 13 7 w)) (.ofNat 7 (bits 6 0 w)))
  | 24 => .ok (.rotl (flag 21 w) (.ofNat 7 (bits 20 14 w)) (.ofNat 7 (bits 13 7 w)) (.ofNat 7 (bits 6 0 w)))
  | 25 => match bits 6 5 w with
    | 0 => .ok (.shli (flag 21 w) (.ofNat 7 (bits 20 14 w)) (.ofNat 7 (bits 13 7 w)) (.ofNat 5 (bits 4 0 w)))
    | 1 => .ok (.shri (flag 21 w) (.ofNat 7 (bits 20 14 w)) (.ofNat 7 (bits 13 7 w)) (.ofNat 5 (bits 4 0 w)))
    | 2 => .ok (.sari (flag 21 w) (.ofNat 7 (bits 20 14 w)) (.ofNat 7 (bits 13 7 w)) (.ofNat 5 (bits 4 0 w)))
    | _ => .error .illegalCode
  | 26 => .ok (.bfx (flag 22 w) (flag 21 w) (.ofNat 7 (bits 20 14 w)) (.ofNat 7 (bits 13 7 w)) (.ofNat 7 (bits 6 0 w)))
  | 27 => .ok (.bfx (flag 22 w) (flag 21 w) (.ofNat 7 (bits 20 14 w)) (.ofNat 7 (bits 13 7 w)) (.ofNat 7 (bits 6 0 w)))
  | 28 => .ok (.bfi (flag 21 w) (.ofNat 7 (bits 20 14 w)) (.ofNat 7 (bits 13 7 w)) (.ofNat 7 (bits 6 0 w)))
  | 29 => .ok (.permb (flag 21 w) (.ofNat 7 (bits 20 14 w)) (.ofNat 7 (bits 13 7 w)) (.ofNat 7 (bits 6 0 w)))
  | 30 => match bits 6 0 w with
    | 0 => .ok (.mov (flag 21 w) (.ofNat 7 (bits 20 14 w)) (.ofNat 7 (bits 13 7 w)))
    | 1 => .ok (.not32 (flag 21 w) (.ofNat 7 (bits 20 14 w)) (.ofNat 7 (bits 13 7 w)))
    | 2 => .ok (.neg32 (flag 21 w) (.ofNat 7 (bits 20 14 w)) (.ofNat 7 (bits 13 7 w)))
    | 3 => .ok (.abs32 (flag 21 w) (.ofNat 7 (bits 20 14 w)) (.ofNat 7 (bits 13 7 w)))
    | 4 => .ok (.popc (flag 21 w) (.ofNat 7 (bits 20 14 w)) (.ofNat 7 (bits 13 7 w)))
    | 5 => .ok (.clz (flag 21 w) (.ofNat 7 (bits 20 14 w)) (.ofNat 7 (bits 13 7 w)))
    | 6 => .ok (.ctz (flag 21 w) (.ofNat 7 (bits 20 14 w)) (.ofNat 7 (bits 13 7 w)))
    | 7 => .ok (.brev (flag 21 w) (.ofNat 7 (bits 20 14 w)) (.ofNat 7 (bits 13 7 w)))
    | _ => .error .illegalCode
  | _ => .error .reservedFunction

/-- Function codes of the INT64 major (0x04). -/
def decodeInt64 (w : Nat) : Except DecodeError Instr :=
  match bits 26 22 w with
  | 0 => .ok (.addInt64 (flag 21 w) (.ofNat 7 (bits 20 14 w)) (.ofNat 7 (bits 13 7 w)) (.ofNat 7 (bits 6 0 w)))
  | 1 => .ok (.subInt64 (flag 21 w) (.ofNat 7 (bits 20 14 w)) (.ofNat 7 (bits 13 7 w)) (.ofNat 7 (bits 6 0 w)))
  | 2 => .ok (.mullInt64 (flag 21 w) (.ofNat 7 (bits 20 14 w)) (.ofNat 7 (bits 13 7 w)) (.ofNat 7 (bits 6 0 w)))
  | 3 => .ok (.minI64 (flag 21 w) (.ofNat 7 (bits 20 14 w)) (.ofNat 7 (bits 13 7 w)) (.ofNat 7 (bits 6 0 w)))
  | 4 => .ok (.minN64 (flag 21 w) (.ofNat 7 (bits 20 14 w)) (.ofNat 7 (bits 13 7 w)) (.ofNat 7 (bits 6 0 w)))
  | 5 => .ok (.maxI64 (flag 21 w) (.ofNat 7 (bits 20 14 w)) (.ofNat 7 (bits 13 7 w)) (.ofNat 7 (bits 6 0 w)))
  | 6 => .ok (.maxN64 (flag 21 w) (.ofNat 7 (bits 20 14 w)) (.ofNat 7 (bits 13 7 w)) (.ofNat 7 (bits 6 0 w)))
  | 7 => .ok (.andInt64 (flag 21 w) (.ofNat 7 (bits 20 14 w)) (.ofNat 7 (bits 13 7 w)) (.ofNat 7 (bits 6 0 w)))
  | 8 => .ok (.orInt64 (flag 21 w) (.ofNat 7 (bits 20 14 w)) (.ofNat 7 (bits 13 7 w)) (.ofNat 7 (bits 6 0 w)))
  | 9 => .ok (.xorInt64 (flag 21 w) (.ofNat 7 (bits 20 14 w)) (.ofNat 7 (bits 13 7 w)) (.ofNat 7 (bits 6 0 w)))
  | 10 => .ok (.shlInt64 (flag 21 w) (.ofNat 7 (bits 20 14 w)) (.ofNat 7 (bits 13 7 w)) (.ofNat 7 (bits 6 0 w)))
  | 11 => .ok (.shrInt64 (flag 21 w) (.ofNat 7 (bits 20 14 w)) (.ofNat 7 (bits 13 7 w)) (.ofNat 7 (bits 6 0 w)))
  | 12 => .ok (.sarInt64 (flag 21 w) (.ofNat 7 (bits 20 14 w)) (.ofNat 7 (bits 13 7 w)) (.ofNat 7 (bits 6 0 w)))
  | 13 => .ok (.shliInt64 (flag 21 w) (.ofNat 7 (bits 20 14 w)) (.ofNat 7 (bits 13 7 w)) (.ofNat 6 (bits 5 0 w)))
  | 14 => .ok (.shriInt64 (flag 21 w) (.ofNat 7 (bits 20 14 w)) (.ofNat 7 (bits 13 7 w)) (.ofNat 6 (bits 5 0 w)))
  | 15 => .ok (.sariInt64 (flag 21 w) (.ofNat 7 (bits 20 14 w)) (.ofNat 7 (bits 13 7 w)) (.ofNat 6 (bits 5 0 w)))
  | 16 => match bits 6 0 w with
    | 0 => .ok (.movInt64 (flag 21 w) (.ofNat 7 (bits 20 14 w)) (.ofNat 7 (bits 13 7 w)))
    | 1 => .ok (.notInt64 (flag 21 w) (.ofNat 7 (bits 20 14 w)) (.ofNat 7 (bits 13 7 w)))
    | 2 => .ok (.negInt64 (flag 21 w) (.ofNat 7 (bits 20 14 w)) (.ofNat 7 (bits 13 7 w)))
    | 3 => .ok (.absInt64 (flag 21 w) (.ofNat 7 (bits 20 14 w)) (.ofNat 7 (bits 13 7 w)))
    | 4 => .ok (.popcInt64 (flag 21 w) (.ofNat 7 (bits 20 14 w)) (.ofNat 7 (bits 13 7 w)))
    | 5 => .ok (.clzInt64 (flag 21 w) (.ofNat 7 (bits 20 14 w)) (.ofNat 7 (bits 13 7 w)))
    | 6 => .ok (.ctzInt64 (flag 21 w) (.ofNat 7 (bits 20 14 w)) (.ofNat 7 (bits 13 7 w)))
    | 7 => .ok (.brevInt64 (flag 21 w) (.ofNat 7 (bits 20 14 w)) (.ofNat 7 (bits 13 7 w)))
    | _ => .error .illegalCode
  | 17 => .ok (.leaI32 (flag 21 w) (.ofNat 7 (bits 20 14 w)) (.ofNat 7 (bits 13 7 w)) (.ofNat 7 (bits 6 0 w)))
  | 18 => .ok (.leaN32 (flag 21 w) (.ofNat 7 (bits 20 14 w)) (.ofNat 7 (bits 13 7 w)) (.ofNat 7 (bits 6 0 w)))
  | _ => .error .reservedFunction

/-- Function codes of the UINT major (0x05). -/
def decodeUint (w : Nat) : Except DecodeError Instr :=
  match bits 26 22 w with
  | 0 => .ok (.addUint (.ofNat 7 (bits 20 14 w)) (.ofNat 7 (bits 13 7 w)) (.ofNat 7 (bits 6 0 w)))
  | 1 => .ok (.subUint (.ofNat 7 (bits 20 14 w)) (.ofNat 7 (bits 13 7 w)) (.ofNat 7 (bits 6 0 w)))
  | 2 => .ok (.mullUint (.ofNat 7 (bits 20 14 w)) (.ofNat 7 (bits 13 7 w)) (.ofNat 7 (bits 6 0 w)))
  | 3 => .ok (.mulhI64 (.ofNat 7 (bits 20 14 w)) (.ofNat 7 (bits 13 7 w)) (.ofNat 7 (bits 6 0 w)))
  | 4 => .ok (.mulhN64 (.ofNat 7 (bits 20 14 w)) (.ofNat 7 (bits 13 7 w)) (.ofNat 7 (bits 6 0 w)))
  | 5 => .ok (.madUint (.ofNat 7 (bits 20 14 w)) (.ofNat 7 (bits 13 7 w)) (.ofNat 7 (bits 6 0 w)))
  | 6 => .ok (.minUint (flag 22 w) (.ofNat 7 (bits 20 14 w)) (.ofNat 7 (bits 13 7 w)) (.ofNat 7 (bits 6 0 w)))
  | 7 => .ok (.minUint (flag 22 w) (.ofNat 7 (bits 20 14 w)) (.ofNat 7 (bits 13 7 w)) (.ofNat 7 (bits 6 0 w)))
  | 8 => .ok (.maxUint (flag 22 w) (.ofNat 7 (bits 20 14 w)) (.ofNat 7 (bits 13 7 w)) (.ofNat 7 (bits 6 0 w)))
  | 9 => .ok (.maxUint (flag 22 w) (.ofNat 7 (bits 20 14 w)) (.ofNat 7 (bits 13 7 w)) (.ofNat 7 (bits 6 0 w)))
  | 10 => .ok (.andUint (.ofNat 7 (bits 20 14 w)) (.ofNat 7 (bits 13 7 w)) (.ofNat 7 (bits 6 0 w)))
  | 11 => .ok (.orUint (.ofNat 7 (bits 20 14 w)) (.ofNat 7 (bits 13 7 w)) (.ofNat 7 (bits 6 0 w)))
  | 12 => .ok (.xorUint (.ofNat 7 (bits 20 14 w)) (.ofNat 7 (bits 13 7 w)) (.ofNat 7 (bits 6 0 w)))
  | 13 => .ok (.shlUint (.ofNat 7 (bits 20 14 w)) (.ofNat 7 (bits 13 7 w)) (.ofNat 7 (bits 6 0 w)))
  | 14 => .ok (.shrUint (.ofNat 7 (bits 20 14 w)) (.ofNat 7 (bits 13 7 w)) (.ofNat 7 (bits 6 0 w)))
  | 15 => .ok (.sarUint (.ofNat 7 (bits 20 14 w)) (.ofNat 7 (bits 13 7 w)) (.ofNat 7 (bits 6 0 w)))
  | 16 => .ok (.shliUint (.ofNat 7 (bits 20 14 w)) (.ofNat 7 (bits 13 7 w)) (.ofNat 6 (bits 5 0 w)))
  | 17 => .ok (.shriUint (.ofNat 7 (bits 20 14 w)) (.ofNat 7 (bits 13 7 w)) (.ofNat 6 (bits 5 0 w)))
  | 18 => .ok (.sariUint (.ofNat 7 (bits 20 14 w)) (.ofNat 7 (bits 13 7 w)) (.ofNat 6 (bits 5 0 w)))
  | 19 => .ok (.bfxI64 (.ofNat 7 (bits 20 14 w)) (.ofNat 7 (bits 13 7 w)) (.ofNat 7 (bits 6 0 w)))
  | 20 => .ok (.bfxN64 (.ofNat 7 (bits 20 14 w)) (.ofNat 7 (bits 13 7 w)) (.ofNat 7 (bits 6 0 w)))
  | 21 => .ok (.bfiUint (.ofNat 7 (bits 20 14 w)) (.ofNat 7 (bits 13 7 w)) (.ofNat 7 (bits 6 0 w)))
  | 22 => match bits 6 0 w with
    | 0 => .ok (.movUint (.ofNat 7 (bits 20 14 w)) (.ofNat 7 (bits 13 7 w)))
    | 1 => .ok (.notUint (.ofNat 7 (bits 20 14 w)) (.ofNat 7 (bits 13 7 w)))
    | 2 => .ok (.negUint (.ofNat 7 (bits 20 14 w)) (.ofNat 7 (bits 13 7 w)))
    | 3 => .ok (.absUint (.ofNat 7 (bits 20 14 w)) (.ofNat 7 (bits 13 7 w)))
    | 4 => .ok (.popcUint (.ofNat 7 (bits 20 14 w)) (.ofNat 7 (bits 13 7 w)))
    | 5 => .ok (.clzUint (.ofNat 7 (bits 20 14 w)) (.ofNat 7 (bits 13 7 w)))
    | 6 => .ok (.ctzUint (.ofNat 7 (bits 20 14 w)) (.ofNat 7 (bits 13 7 w)))
    | 7 => .ok (.brevUint (.ofNat 7 (bits 20 14 w)) (.ofNat 7 (bits 13 7 w)))
    | _ => .error .illegalCode
  | _ => .error .reservedFunction

/-- Function codes of the LANE major (0x06). -/
def decodeLane (w : Nat) : Except DecodeError Instr :=
  match bits 26 22 w with
  | 0 => do let c_ ← need (Cond.ofCode (bits 20 18 w)); return .cmp (flag 21 w) c_ (.ofNat 4 (bits 17 14 w)) (.ofNat 7 (bits 13 7 w)) (.ofNat 7 (bits 6 0 w))
  | 1 => do let c_ ← need (Cond.ofCode (bits 20 18 w)); return .cmp64 (flag 21 w) c_ (.ofNat 4 (bits 17 14 w)) (.ofNat 7 (bits 13 7 w)) (.ofNat 7 (bits 6 0 w))
  | 2 => .ok (.pand (.ofNat 4 (bits 17 14 w)) (flag 11 w) (.ofNat 4 (bits 10 7 w)) (flag 4 w) (.ofNat 4 (bits 3 0 w)))
  | 3 => .ok (.por (.ofNat 4 (bits 17 14 w)) (flag 11 w) (.ofNat 4 (bits 10 7 w)) (flag 4 w) (.ofNat 4 (bits 3 0 w)))
  | 4 => .ok (.pxor (.ofNat 4 (bits 17 14 w)) (flag 11 w) (.ofNat 4 (bits 10 7 w)) (flag 4 w) (.ofNat 4 (bits 3 0 w)))
  | 5 => .ok (.pnot (.ofNat 4 (bits 17 14 w)) (flag 11 w) (.ofNat 4 (bits 10 7 w)))
  | 6 => .ok (.pmov (.ofNat 4 (bits 17 14 w)) (flag 11 w) (.ofNat 4 (bits 10 7 w)))
  | 7 => .ok (.voteAll (.ofNat 4 (bits 17 14 w)) (flag 11 w) (.ofNat 4 (bits 10 7 w)))
  | 8 => .ok (.voteAny (.ofNat 4 (bits 17 14 w)) (flag 11 w) (.ofNat 4 (bits 10 7 w)))
  | 9 => .ok (.voteBallot (flag 21 w) (.ofNat 7 (bits 20 14 w)) (flag 11 w) (.ofNat 4 (bits 10 7 w)))
  | 10 => .ok (.shflIdx (flag 21 w) (.ofNat 7 (bits 20 14 w)) (.ofNat 7 (bits 13 7 w)) (.ofNat 7 (bits 6 0 w)))
  | 11 => .ok (.shflUp (flag 21 w) (.ofNat 7 (bits 20 14 w)) (.ofNat 7 (bits 13 7 w)) (.ofNat 7 (bits 6 0 w)))
  | 12 => .ok (.shflDown (flag 21 w) (.ofNat 7 (bits 20 14 w)) (.ofNat 7 (bits 13 7 w)) (.ofNat 7 (bits 6 0 w)))
  | 13 => .ok (.shflXor (flag 21 w) (.ofNat 7 (bits 20 14 w)) (.ofNat 7 (bits 13 7 w)) (.ofNat 7 (bits 6 0 w)))
  | 14 => .ok (.bcst (flag 21 w) (.ofNat 7 (bits 20 14 w)) (.ofNat 7 (bits 13 7 w)))
  | 15 => .ok (.elect (.ofNat 4 (bits 17 14 w)))
  | 16 => .ok (.movFromUniform (flag 21 w) (.ofNat 7 (bits 20 14 w)) (.ofNat 7 (bits 13 7 w)) (flag 0 w))
  | _ => .error .reservedFunction

/-- Function codes of the FP32 major (0x12). -/
def decodeFp32 (w : Nat) : Except DecodeError Instr :=
  match bits 26 22 w with
  | 0 => do let r_ ← need (Rm.ofCode (bits 23 22 w)); return .faddFp32 r_ (flag 21 w) (.ofNat 7 (bits 20 14 w)) (.ofNat 7 (bits 13 7 w)) (.ofNat 7 (bits 6 0 w))
  | 1 => do let r_ ← need (Rm.ofCode (bits 23 22 w)); return .faddFp32 r_ (flag 21 w) (.ofNat 7 (bits 20 14 w)) (.ofNat 7 (bits 13 7 w)) (.ofNat 7 (bits 6 0 w))
  | 2 => do let r_ ← need (Rm.ofCode (bits 23 22 w)); return .faddFp32 r_ (flag 21 w) (.ofNat 7 (bits 20 14 w)) (.ofNat 7 (bits 13 7 w)) (.ofNat 7 (bits 6 0 w))
  | 3 => do let r_ ← need (Rm.ofCode (bits 23 22 w)); return .faddFp32 r_ (flag 21 w) (.ofNat 7 (bits 20 14 w)) (.ofNat 7 (bits 13 7 w)) (.ofNat 7 (bits 6 0 w))
  | 4 => do let r_ ← need (Rm.ofCode (bits 23 22 w)); return .fsubFp32 r_ (flag 21 w) (.ofNat 7 (bits 20 14 w)) (.ofNat 7 (bits 13 7 w)) (.ofNat 7 (bits 6 0 w))
  | 5 => do let r_ ← need (Rm.ofCode (bits 23 22 w)); return .fsubFp32 r_ (flag 21 w) (.ofNat 7 (bits 20 14 w)) (.ofNat 7 (bits 13 7 w)) (.ofNat 7 (bits 6 0 w))
  | 6 => do let r_ ← need (Rm.ofCode (bits 23 22 w)); return .fsubFp32 r_ (flag 21 w) (.ofNat 7 (bits 20 14 w)) (.ofNat 7 (bits 13 7 w)) (.ofNat 7 (bits 6 0 w))
  | 7 => do let r_ ← need (Rm.ofCode (bits 23 22 w)); return .fsubFp32 r_ (flag 21 w) (.ofNat 7 (bits 20 14 w)) (.ofNat 7 (bits 13 7 w)) (.ofNat 7 (bits 6 0 w))
  | 8 => do let r_ ← need (Rm.ofCode (bits 23 22 w)); return .fmulFp32 r_ (flag 21 w) (.ofNat 7 (bits 20 14 w)) (.ofNat 7 (bits 13 7 w)) (.ofNat 7 (bits 6 0 w))
  | 9 => do let r_ ← need (Rm.ofCode (bits 23 22 w)); return .fmulFp32 r_ (flag 21 w) (.ofNat 7 (bits 20 14 w)) (.ofNat 7 (bits 13 7 w)) (.ofNat 7 (bits 6 0 w))
  | 10 => do let r_ ← need (Rm.ofCode (bits 23 22 w)); return .fmulFp32 r_ (flag 21 w) (.ofNat 7 (bits 20 14 w)) (.ofNat 7 (bits 13 7 w)) (.ofNat 7 (bits 6 0 w))
  | 11 => do let r_ ← need (Rm.ofCode (bits 23 22 w)); return .fmulFp32 r_ (flag 21 w) (.ofNat 7 (bits 20 14 w)) (.ofNat 7 (bits 13 7 w)) (.ofNat 7 (bits 6 0 w))
  | 12 => do let r_ ← need (Rm.ofCode (bits 23 22 w)); return .fdivFp32 r_ (flag 21 w) (.ofNat 7 (bits 20 14 w)) (.ofNat 7 (bits 13 7 w)) (.ofNat 7 (bits 6 0 w))
  | 13 => do let r_ ← need (Rm.ofCode (bits 23 22 w)); return .fdivFp32 r_ (flag 21 w) (.ofNat 7 (bits 20 14 w)) (.ofNat 7 (bits 13 7 w)) (.ofNat 7 (bits 6 0 w))
  | 14 => do let r_ ← need (Rm.ofCode (bits 23 22 w)); return .fdivFp32 r_ (flag 21 w) (.ofNat 7 (bits 20 14 w)) (.ofNat 7 (bits 13 7 w)) (.ofNat 7 (bits 6 0 w))
  | 15 => do let r_ ← need (Rm.ofCode (bits 23 22 w)); return .fdivFp32 r_ (flag 21 w) (.ofNat 7 (bits 20 14 w)) (.ofNat 7 (bits 13 7 w)) (.ofNat 7 (bits 6 0 w))
  | 16 => do let r_ ← need (Rm.ofCode (bits 23 22 w)); return .fmaFp32 r_ (flag 21 w) (.ofNat 7 (bits 20 14 w)) (.ofNat 7 (bits 13 7 w)) (.ofNat 7 (bits 6 0 w))
  | 17 => do let r_ ← need (Rm.ofCode (bits 23 22 w)); return .fmaFp32 r_ (flag 21 w) (.ofNat 7 (bits 20 14 w)) (.ofNat 7 (bits 13 7 w)) (.ofNat 7 (bits 6 0 w))
  | 18 => do let r_ ← need (Rm.ofCode (bits 23 22 w)); return .fmaFp32 r_ (flag 21 w) (.ofNat 7 (bits 20 14 w)) (.ofNat 7 (bits 13 7 w)) (.ofNat 7 (bits 6 0 w))
  | 19 => do let r_ ← need (Rm.ofCode (bits 23 22 w)); return .fmaFp32 r_ (flag 21 w) (.ofNat 7 (bits 20 14 w)) (.ofNat 7 (bits 13 7 w)) (.ofNat 7 (bits 6 0 w))
  | 20 => do let r_ ← need (Rm.ofCode (bits 23 22 w)); return .fnmaFp32 r_ (flag 21 w) (.ofNat 7 (bits 20 14 w)) (.ofNat 7 (bits 13 7 w)) (.ofNat 7 (bits 6 0 w))
  | 21 => do let r_ ← need (Rm.ofCode (bits 23 22 w)); return .fnmaFp32 r_ (flag 21 w) (.ofNat 7 (bits 20 14 w)) (.ofNat 7 (bits 13 7 w)) (.ofNat 7 (bits 6 0 w))
  | 22 => do let r_ ← need (Rm.ofCode (bits 23 22 w)); return .fnmaFp32 r_ (flag 21 w) (.ofNat 7 (bits 20 14 w)) (.ofNat 7 (bits 13 7 w)) (.ofNat 7 (bits 6 0 w))
  | 23 => do let r_ ← need (Rm.ofCode (bits 23 22 w)); return .fnmaFp32 r_ (flag 21 w) (.ofNat 7 (bits 20 14 w)) (.ofNat 7 (bits 13 7 w)) (.ofNat 7 (bits 6 0 w))
  | 24 => do let r_ ← need (Rm.ofCode (bits 23 22 w)); return .fsclFp32 r_ (flag 21 w) (.ofNat 7 (bits 20 14 w)) (.ofNat 7 (bits 13 7 w)) (.ofNat 7 (bits 6 0 w))
  | 25 => do let r_ ← need (Rm.ofCode (bits 23 22 w)); return .fsclFp32 r_ (flag 21 w) (.ofNat 7 (bits 20 14 w)) (.ofNat 7 (bits 13 7 w)) (.ofNat 7 (bits 6 0 w))
  | 26 => do let r_ ← need (Rm.ofCode (bits 23 22 w)); return .fsclFp32 r_ (flag 21 w) (.ofNat 7 (bits 20 14 w)) (.ofNat 7 (bits 13 7 w)) (.ofNat 7 (bits 6 0 w))
  | 27 => do let r_ ← need (Rm.ofCode (bits 23 22 w)); return .fsclFp32 r_ (flag 21 w) (.ofNat 7 (bits 20 14 w)) (.ofNat 7 (bits 13 7 w)) (.ofNat 7 (bits 6 0 w))
  | 28 => match bits 6 0 w with
    | 0 => do let r_ ← need (Rm.ofCode (bits 23 22 w)); return .fsqrtFp32 r_ (flag 21 w) (.ofNat 7 (bits 20 14 w)) (.ofNat 7 (bits 13 7 w))
    | 1 => do let r_ ← need (Rm.ofCode (bits 23 22 w)); return .frcp r_ (flag 21 w) (.ofNat 7 (bits 20 14 w)) (.ofNat 7 (bits 13 7 w))
    | 2 => do let r_ ← need (Rm.ofCode (bits 23 22 w)); return .frsq r_ (flag 21 w) (.ofNat 7 (bits 20 14 w)) (.ofNat 7 (bits 13 7 w))
    | 3 => do let r_ ← need (Rm.ofCode (bits 23 22 w)); return .fexp2 r_ (flag 21 w) (.ofNat 7 (bits 20 14 w)) (.ofNat 7 (bits 13 7 w))
    | 4 => do let r_ ← need (Rm.ofCode (bits 23 22 w)); return .flog2 r_ (flag 21 w) (.ofNat 7 (bits 20 14 w)) (.ofNat 7 (bits 13 7 w))
    | 5 => do let r_ ← need (Rm.ofCode (bits 23 22 w)); return .frndFp32 r_ (flag 21 w) (.ofNat 7 (bits 20 14 w)) (.ofNat 7 (bits 13 7 w))
    | 6 => .ok (.frndRnaFp32 (flag 21 w) (.ofNat 7 (bits 20 14 w)) (.ofNat 7 (bits 13 7 w)))
    | _ => .error .illegalCode
  | 29 => match bits 6 0 w with
    | 0 => do let r_ ← need (Rm.ofCode (bits 23 22 w)); return .fsqrtFp32 r_ (flag 21 w) (.ofNat 7 (bits 20 14 w)) (.ofNat 7 (bits 13 7 w))
    | 1 => do let r_ ← need (Rm.ofCode (bits 23 22 w)); return .frcp r_ (flag 21 w) (.ofNat 7 (bits 20 14 w)) (.ofNat 7 (bits 13 7 w))
    | 2 => do let r_ ← need (Rm.ofCode (bits 23 22 w)); return .frsq r_ (flag 21 w) (.ofNat 7 (bits 20 14 w)) (.ofNat 7 (bits 13 7 w))
    | 3 => do let r_ ← need (Rm.ofCode (bits 23 22 w)); return .fexp2 r_ (flag 21 w) (.ofNat 7 (bits 20 14 w)) (.ofNat 7 (bits 13 7 w))
    | 4 => do let r_ ← need (Rm.ofCode (bits 23 22 w)); return .flog2 r_ (flag 21 w) (.ofNat 7 (bits 20 14 w)) (.ofNat 7 (bits 13 7 w))
    | 5 => do let r_ ← need (Rm.ofCode (bits 23 22 w)); return .frndFp32 r_ (flag 21 w) (.ofNat 7 (bits 20 14 w)) (.ofNat 7 (bits 13 7 w))
    | _ => .error .illegalCode
  | 30 => match bits 6 0 w with
    | 0 => do let r_ ← need (Rm.ofCode (bits 23 22 w)); return .fsqrtFp32 r_ (flag 21 w) (.ofNat 7 (bits 20 14 w)) (.ofNat 7 (bits 13 7 w))
    | 1 => do let r_ ← need (Rm.ofCode (bits 23 22 w)); return .frcp r_ (flag 21 w) (.ofNat 7 (bits 20 14 w)) (.ofNat 7 (bits 13 7 w))
    | 2 => do let r_ ← need (Rm.ofCode (bits 23 22 w)); return .frsq r_ (flag 21 w) (.ofNat 7 (bits 20 14 w)) (.ofNat 7 (bits 13 7 w))
    | 3 => do let r_ ← need (Rm.ofCode (bits 23 22 w)); return .fexp2 r_ (flag 21 w) (.ofNat 7 (bits 20 14 w)) (.ofNat 7 (bits 13 7 w))
    | 4 => do let r_ ← need (Rm.ofCode (bits 23 22 w)); return .flog2 r_ (flag 21 w) (.ofNat 7 (bits 20 14 w)) (.ofNat 7 (bits 13 7 w))
    | 5 => do let r_ ← need (Rm.ofCode (bits 23 22 w)); return .frndFp32 r_ (flag 21 w) (.ofNat 7 (bits 20 14 w)) (.ofNat 7 (bits 13 7 w))
    | _ => .error .illegalCode
  | 31 => match bits 6 0 w with
    | 0 => do let r_ ← need (Rm.ofCode (bits 23 22 w)); return .fsqrtFp32 r_ (flag 21 w) (.ofNat 7 (bits 20 14 w)) (.ofNat 7 (bits 13 7 w))
    | 1 => do let r_ ← need (Rm.ofCode (bits 23 22 w)); return .frcp r_ (flag 21 w) (.ofNat 7 (bits 20 14 w)) (.ofNat 7 (bits 13 7 w))
    | 2 => do let r_ ← need (Rm.ofCode (bits 23 22 w)); return .frsq r_ (flag 21 w) (.ofNat 7 (bits 20 14 w)) (.ofNat 7 (bits 13 7 w))
    | 3 => do let r_ ← need (Rm.ofCode (bits 23 22 w)); return .fexp2 r_ (flag 21 w) (.ofNat 7 (bits 20 14 w)) (.ofNat 7 (bits 13 7 w))
    | 4 => do let r_ ← need (Rm.ofCode (bits 23 22 w)); return .flog2 r_ (flag 21 w) (.ofNat 7 (bits 20 14 w)) (.ofNat 7 (bits 13 7 w))
    | 5 => do let r_ ← need (Rm.ofCode (bits 23 22 w)); return .frndFp32 r_ (flag 21 w) (.ofNat 7 (bits 20 14 w)) (.ofNat 7 (bits 13 7 w))
    | _ => .error .illegalCode
  | _ => .error .reservedFunction

/-- Function codes of the FP64 major (0x13). -/
def decodeFp64 (w : Nat) : Except DecodeError Instr :=
  match bits 26 22 w with
  | 0 => do let r_ ← need (Rm.ofCode (bits 23 22 w)); return .faddFp64 r_ (flag 21 w) (.ofNat 7 (bits 20 14 w)) (.ofNat 7 (bits 13 7 w)) (.ofNat 7 (bits 6 0 w))
  | 1 => do let r_ ← need (Rm.ofCode (bits 23 22 w)); return .faddFp64 r_ (flag 21 w) (.ofNat 7 (bits 20 14 w)) (.ofNat 7 (bits 13 7 w)) (.ofNat 7 (bits 6 0 w))
  | 2 => do let r_ ← need (Rm.ofCode (bits 23 22 w)); return .faddFp64 r_ (flag 21 w) (.ofNat 7 (bits 20 14 w)) (.ofNat 7 (bits 13 7 w)) (.ofNat 7 (bits 6 0 w))
  | 3 => do let r_ ← need (Rm.ofCode (bits 23 22 w)); return .faddFp64 r_ (flag 21 w) (.ofNat 7 (bits 20 14 w)) (.ofNat 7 (bits 13 7 w)) (.ofNat 7 (bits 6 0 w))
  | 4 => do let r_ ← need (Rm.ofCode (bits 23 22 w)); return .fsubFp64 r_ (flag 21 w) (.ofNat 7 (bits 20 14 w)) (.ofNat 7 (bits 13 7 w)) (.ofNat 7 (bits 6 0 w))
  | 5 => do let r_ ← need (Rm.ofCode (bits 23 22 w)); return .fsubFp64 r_ (flag 21 w) (.ofNat 7 (bits 20 14 w)) (.ofNat 7 (bits 13 7 w)) (.ofNat 7 (bits 6 0 w))
  | 6 => do let r_ ← need (Rm.ofCode (bits 23 22 w)); return .fsubFp64 r_ (flag 21 w) (.ofNat 7 (bits 20 14 w)) (.ofNat 7 (bits 13 7 w)) (.ofNat 7 (bits 6 0 w))
  | 7 => do let r_ ← need (Rm.ofCode (bits 23 22 w)); return .fsubFp64 r_ (flag 21 w) (.ofNat 7 (bits 20 14 w)) (.ofNat 7 (bits 13 7 w)) (.ofNat 7 (bits 6 0 w))
  | 8 => do let r_ ← need (Rm.ofCode (bits 23 22 w)); return .fmulFp64 r_ (flag 21 w) (.ofNat 7 (bits 20 14 w)) (.ofNat 7 (bits 13 7 w)) (.ofNat 7 (bits 6 0 w))
  | 9 => do let r_ ← need (Rm.ofCode (bits 23 22 w)); return .fmulFp64 r_ (flag 21 w) (.ofNat 7 (bits 20 14 w)) (.ofNat 7 (bits 13 7 w)) (.ofNat 7 (bits 6 0 w))
  | 10 => do let r_ ← need (Rm.ofCode (bits 23 22 w)); return .fmulFp64 r_ (flag 21 w) (.ofNat 7 (bits 20 14 w)) (.ofNat 7 (bits 13 7 w)) (.ofNat 7 (bits 6 0 w))
  | 11 => do let r_ ← need (Rm.ofCode (bits 23 22 w)); return .fmulFp64 r_ (flag 21 w) (.ofNat 7 (bits 20 14 w)) (.ofNat 7 (bits 13 7 w)) (.ofNat 7 (bits 6 0 w))
  | 12 => do let r_ ← need (Rm.ofCode (bits 23 22 w)); return .fdivFp64 r_ (flag 21 w) (.ofNat 7 (bits 20 14 w)) (.ofNat 7 (bits 13 7 w)) (.ofNat 7 (bits 6 0 w))
  | 13 => do let r_ ← need (Rm.ofCode (bits 23 22 w)); return .fdivFp64 r_ (flag 21 w) (.ofNat 7 (bits 20 14 w)) (.ofNat 7 (bits 13 7 w)) (.ofNat 7 (bits 6 0 w))
  | 14 => do let r_ ← need (Rm.ofCode (bits 23 22 w)); return .fdivFp64 r_ (flag 21 w) (.ofNat 7 (bits 20 14 w)) (.ofNat 7 (bits 13 7 w)) (.ofNat 7 (bits 6 0 w))
  | 15 => do let r_ ← need (Rm.ofCode (bits 23 22 w)); return .fdivFp64 r_ (flag 21 w) (.ofNat 7 (bits 20 14 w)) (.ofNat 7 (bits 13 7 w)) (.ofNat 7 (bits 6 0 w))
  | 16 => do let r_ ← need (Rm.ofCode (bits 23 22 w)); return .fmaFp64 r_ (flag 21 w) (.ofNat 7 (bits 20 14 w)) (.ofNat 7 (bits 13 7 w)) (.ofNat 7 (bits 6 0 w))
  | 17 => do let r_ ← need (Rm.ofCode (bits 23 22 w)); return .fmaFp64 r_ (flag 21 w) (.ofNat 7 (bits 20 14 w)) (.ofNat 7 (bits 13 7 w)) (.ofNat 7 (bits 6 0 w))
  | 18 => do let r_ ← need (Rm.ofCode (bits 23 22 w)); return .fmaFp64 r_ (flag 21 w) (.ofNat 7 (bits 20 14 w)) (.ofNat 7 (bits 13 7 w)) (.ofNat 7 (bits 6 0 w))
  | 19 => do let r_ ← need (Rm.ofCode (bits 23 22 w)); return .fmaFp64 r_ (flag 21 w) (.ofNat 7 (bits 20 14 w)) (.ofNat 7 (bits 13 7 w)) (.ofNat 7 (bits 6 0 w))
  | 20 => do let r_ ← need (Rm.ofCode (bits 23 22 w)); return .fnmaFp64 r_ (flag 21 w) (.ofNat 7 (bits 20 14 w)) (.ofNat 7 (bits 13 7 w)) (.ofNat 7 (bits 6 0 w))
  | 21 => do let r_ ← need (Rm.ofCode (bits 23 22 w)); return .fnmaFp64 r_ (flag 21 w) (.ofNat 7 (bits 20 14 w)) (.ofNat 7 (bits 13 7 w)) (.ofNat 7 (bits 6 0 w))
  | 22 => do let r_ ← need (Rm.ofCode (bits 23 22 w)); return .fnmaFp64 r_ (flag 21 w) (.ofNat 7 (bits 20 14 w)) (.ofNat 7 (bits 13 7 w)) (.ofNat 7 (bits 6 0 w))
  | 23 => do let r_ ← need (Rm.ofCode (bits 23 22 w)); return .fnmaFp64 r_ (flag 21 w) (.ofNat 7 (bits 20 14 w)) (.ofNat 7 (bits 13 7 w)) (.ofNat 7 (bits 6 0 w))
  | 24 => do let r_ ← need (Rm.ofCode (bits 23 22 w)); return .fsclFp64 r_ (flag 21 w) (.ofNat 7 (bits 20 14 w)) (.ofNat 7 (bits 13 7 w)) (.ofNat 7 (bits 6 0 w))
  | 25 => do let r_ ← need (Rm.ofCode (bits 23 22 w)); return .fsclFp64 r_ (flag 21 w) (.ofNat 7 (bits 20 14 w)) (.ofNat 7 (bits 13 7 w)) (.ofNat 7 (bits 6 0 w))
  | 26 => do let r_ ← need (Rm.ofCode (bits 23 22 w)); return .fsclFp64 r_ (flag 21 w) (.ofNat 7 (bits 20 14 w)) (.ofNat 7 (bits 13 7 w)) (.ofNat 7 (bits 6 0 w))
  | 27 => do let r_ ← need (Rm.ofCode (bits 23 22 w)); return .fsclFp64 r_ (flag 21 w) (.ofNat 7 (bits 20 14 w)) (.ofNat 7 (bits 13 7 w)) (.ofNat 7 (bits 6 0 w))
  | 28 => match bits 6 0 w with
    | 0 => do let r_ ← need (Rm.ofCode (bits 23 22 w)); return .fsqrtFp64 r_ (flag 21 w) (.ofNat 7 (bits 20 14 w)) (.ofNat 7 (bits 13 7 w))
    | 5 => do let r_ ← need (Rm.ofCode (bits 23 22 w)); return .frndFp64 r_ (flag 21 w) (.ofNat 7 (bits 20 14 w)) (.ofNat 7 (bits 13 7 w))
    | 6 => .ok (.frndRnaFp64 (flag 21 w) (.ofNat 7 (bits 20 14 w)) (.ofNat 7 (bits 13 7 w)))
    | _ => .error .illegalCode
  | 29 => match bits 6 0 w with
    | 0 => do let r_ ← need (Rm.ofCode (bits 23 22 w)); return .fsqrtFp64 r_ (flag 21 w) (.ofNat 7 (bits 20 14 w)) (.ofNat 7 (bits 13 7 w))
    | 5 => do let r_ ← need (Rm.ofCode (bits 23 22 w)); return .frndFp64 r_ (flag 21 w) (.ofNat 7 (bits 20 14 w)) (.ofNat 7 (bits 13 7 w))
    | _ => .error .illegalCode
  | 30 => match bits 6 0 w with
    | 0 => do let r_ ← need (Rm.ofCode (bits 23 22 w)); return .fsqrtFp64 r_ (flag 21 w) (.ofNat 7 (bits 20 14 w)) (.ofNat 7 (bits 13 7 w))
    | 5 => do let r_ ← need (Rm.ofCode (bits 23 22 w)); return .frndFp64 r_ (flag 21 w) (.ofNat 7 (bits 20 14 w)) (.ofNat 7 (bits 13 7 w))
    | _ => .error .illegalCode
  | 31 => match bits 6 0 w with
    | 0 => do let r_ ← need (Rm.ofCode (bits 23 22 w)); return .fsqrtFp64 r_ (flag 21 w) (.ofNat 7 (bits 20 14 w)) (.ofNat 7 (bits 13 7 w))
    | 5 => do let r_ ← need (Rm.ofCode (bits 23 22 w)); return .frndFp64 r_ (flag 21 w) (.ofNat 7 (bits 20 14 w)) (.ofNat 7 (bits 13 7 w))
    | _ => .error .illegalCode
  | _ => .error .reservedFunction

/-- Function codes of the FPH major (0x14). -/
def decodeFph (w : Nat) : Except DecodeError Instr :=
  match bits 26 22 w with
  | 0 => do let r_ ← need (Rm.ofCode (bits 23 22 w)); return .hadd2 (flag 24 w) r_ (flag 21 w) (.ofNat 7 (bits 20 14 w)) (.ofNat 7 (bits 13 7 w)) (.ofNat 7 (bits 6 0 w))
  | 1 => do let r_ ← need (Rm.ofCode (bits 23 22 w)); return .hadd2 (flag 24 w) r_ (flag 21 w) (.ofNat 7 (bits 20 14 w)) (.ofNat 7 (bits 13 7 w)) (.ofNat 7 (bits 6 0 w))
  | 2 => do let r_ ← need (Rm.ofCode (bits 23 22 w)); return .hadd2 (flag 24 w) r_ (flag 21 w) (.ofNat 7 (bits 20 14 w)) (.ofNat 7 (bits 13 7 w)) (.ofNat 7 (bits 6 0 w))
  | 3 => do let r_ ← need (Rm.ofCode (bits 23 22 w)); return .hadd2 (flag 24 w) r_ (flag 21 w) (.ofNat 7 (bits 20 14 w)) (.ofNat 7 (bits 13 7 w)) (.ofNat 7 (bits 6 0 w))
  | 4 => do let r_ ← need (Rm.ofCode (bits 23 22 w)); return .hadd2 (flag 24 w) r_ (flag 21 w) (.ofNat 7 (bits 20 14 w)) (.ofNat 7 (bits 13 7 w)) (.ofNat 7 (bits 6 0 w))
  | 5 => do let r_ ← need (Rm.ofCode (bits 23 22 w)); return .hadd2 (flag 24 w) r_ (flag 21 w) (.ofNat 7 (bits 20 14 w)) (.ofNat 7 (bits 13 7 w)) (.ofNat 7 (bits 6 0 w))
  | 6 => do let r_ ← need (Rm.ofCode (bits 23 22 w)); return .hadd2 (flag 24 w) r_ (flag 21 w) (.ofNat 7 (bits 20 14 w)) (.ofNat 7 (bits 13 7 w)) (.ofNat 7 (bits 6 0 w))
  | 7 => do let r_ ← need (Rm.ofCode (bits 23 22 w)); return .hadd2 (flag 24 w) r_ (flag 21 w) (.ofNat 7 (bits 20 14 w)) (.ofNat 7 (bits 13 7 w)) (.ofNat 7 (bits 6 0 w))
  | 8 => do let r_ ← need (Rm.ofCode (bits 23 22 w)); return .hmul2 (flag 24 w) r_ (flag 21 w) (.ofNat 7 (bits 20 14 w)) (.ofNat 7 (bits 13 7 w)) (.ofNat 7 (bits 6 0 w))
  | 9 => do let r_ ← need (Rm.ofCode (bits 23 22 w)); return .hmul2 (flag 24 w) r_ (flag 21 w) (.ofNat 7 (bits 20 14 w)) (.ofNat 7 (bits 13 7 w)) (.ofNat 7 (bits 6 0 w))
  | 10 => do let r_ ← need (Rm.ofCode (bits 23 22 w)); return .hmul2 (flag 24 w) r_ (flag 21 w) (.ofNat 7 (bits 20 14 w)) (.ofNat 7 (bits 13 7 w)) (.ofNat 7 (bits 6 0 w))
  | 11 => do let r_ ← need (Rm.ofCode (bits 23 22 w)); return .hmul2 (flag 24 w) r_ (flag 21 w) (.ofNat 7 (bits 20 14 w)) (.ofNat 7 (bits 13 7 w)) (.ofNat 7 (bits 6 0 w))
  | 12 => do let r_ ← need (Rm.ofCode (bits 23 22 w)); return .hmul2 (flag 24 w) r_ (flag 21 w) (.ofNat 7 (bits 20 14 w)) (.ofNat 7 (bits 13 7 w)) (.ofNat 7 (bits 6 0 w))
  | 13 => do let r_ ← need (Rm.ofCode (bits 23 22 w)); return .hmul2 (flag 24 w) r_ (flag 21 w) (.ofNat 7 (bits 20 14 w)) (.ofNat 7 (bits 13 7 w)) (.ofNat 7 (bits 6 0 w))
  | 14 => do let r_ ← need (Rm.ofCode (bits 23 22 w)); return .hmul2 (flag 24 w) r_ (flag 21 w) (.ofNat 7 (bits 20 14 w)) (.ofNat 7 (bits 13 7 w)) (.ofNat 7 (bits 6 0 w))
  | 15 => do let r_ ← need (Rm.ofCode (bits 23 22 w)); return .hmul2 (flag 24 w) r_ (flag 21 w) (.ofNat 7 (bits 20 14 w)) (.ofNat 7 (bits 13 7 w)) (.ofNat 7 (bits 6 0 w))
  | 16 => do let r_ ← need (Rm.ofCode (bits 23 22 w)); return .hfma2 (flag 24 w) r_ (flag 21 w) (.ofNat 7 (bits 20 14 w)) (.ofNat 7 (bits 13 7 w)) (.ofNat 7 (bits 6 0 w))
  | 17 => do let r_ ← need (Rm.ofCode (bits 23 22 w)); return .hfma2 (flag 24 w) r_ (flag 21 w) (.ofNat 7 (bits 20 14 w)) (.ofNat 7 (bits 13 7 w)) (.ofNat 7 (bits 6 0 w))
  | 18 => do let r_ ← need (Rm.ofCode (bits 23 22 w)); return .hfma2 (flag 24 w) r_ (flag 21 w) (.ofNat 7 (bits 20 14 w)) (.ofNat 7 (bits 13 7 w)) (.ofNat 7 (bits 6 0 w))
  | 19 => do let r_ ← need (Rm.ofCode (bits 23 22 w)); return .hfma2 (flag 24 w) r_ (flag 21 w) (.ofNat 7 (bits 20 14 w)) (.ofNat 7 (bits 13 7 w)) (.ofNat 7 (bits 6 0 w))
  | 20 => do let r_ ← need (Rm.ofCode (bits 23 22 w)); return .hfma2 (flag 24 w) r_ (flag 21 w) (.ofNat 7 (bits 20 14 w)) (.ofNat 7 (bits 13 7 w)) (.ofNat 7 (bits 6 0 w))
  | 21 => do let r_ ← need (Rm.ofCode (bits 23 22 w)); return .hfma2 (flag 24 w) r_ (flag 21 w) (.ofNat 7 (bits 20 14 w)) (.ofNat 7 (bits 13 7 w)) (.ofNat 7 (bits 6 0 w))
  | 22 => do let r_ ← need (Rm.ofCode (bits 23 22 w)); return .hfma2 (flag 24 w) r_ (flag 21 w) (.ofNat 7 (bits 20 14 w)) (.ofNat 7 (bits 13 7 w)) (.ofNat 7 (bits 6 0 w))
  | 23 => do let r_ ← need (Rm.ofCode (bits 23 22 w)); return .hfma2 (flag 24 w) r_ (flag 21 w) (.ofNat 7 (bits 20 14 w)) (.ofNat 7 (bits 13 7 w)) (.ofNat 7 (bits 6 0 w))
  | 24 => .ok (.hmin2 (flag 22 w) (flag 21 w) (.ofNat 7 (bits 20 14 w)) (.ofNat 7 (bits 13 7 w)) (.ofNat 7 (bits 6 0 w)))
  | 25 => .ok (.hmin2 (flag 22 w) (flag 21 w) (.ofNat 7 (bits 20 14 w)) (.ofNat 7 (bits 13 7 w)) (.ofNat 7 (bits 6 0 w)))
  | 26 => .ok (.hmax2 (flag 22 w) (flag 21 w) (.ofNat 7 (bits 20 14 w)) (.ofNat 7 (bits 13 7 w)) (.ofNat 7 (bits 6 0 w)))
  | 27 => .ok (.hmax2 (flag 22 w) (flag 21 w) (.ofNat 7 (bits 20 14 w)) (.ofNat 7 (bits 13 7 w)) (.ofNat 7 (bits 6 0 w)))
  | _ => .error .reservedFunction

/-- Function codes of the FMISC major (0x15). -/
def decodeFmisc (w : Nat) : Except DecodeError Instr :=
  match bits 26 22 w with
  | 0 => .ok (.fmin (flag 26 w) (flag 21 w) (.ofNat 7 (bits 20 14 w)) (.ofNat 7 (bits 13 7 w)) (.ofNat 7 (bits 6 0 w)))
  | 1 => .ok (.fmax (flag 26 w) (flag 21 w) (.ofNat 7 (bits 20 14 w)) (.ofNat 7 (bits 13 7 w)) (.ofNat 7 (bits 6 0 w)))
  | 2 => .ok (.fminn (flag 26 w) (flag 21 w) (.ofNat 7 (bits 20 14 w)) (.ofNat 7 (bits 13 7 w)) (.ofNat 7 (bits 6 0 w)))
  | 3 => .ok (.fmaxn (flag 26 w) (flag 21 w) (.ofNat 7 (bits 20 14 w)) (.ofNat 7 (bits 13 7 w)) (.ofNat 7 (bits 6 0 w)))
  | 4 => .ok (.fabs (flag 26 w) (flag 21 w) (.ofNat 7 (bits 20 14 w)) (.ofNat 7 (bits 13 7 w)))
  | 5 => .ok (.fneg (flag 26 w) (flag 21 w) (.ofNat 7 (bits 20 14 w)) (.ofNat 7 (bits 13 7 w)))
  | 6 => .ok (.fcpys (flag 26 w) (flag 21 w) (.ofNat 7 (bits 20 14 w)) (.ofNat 7 (bits 13 7 w)) (.ofNat 7 (bits 6 0 w)))
  | 7 => .ok (.fclass (flag 26 w) (flag 21 w) (.ofNat 7 (bits 20 14 w)) (.ofNat 7 (bits 13 7 w)))
  | 8 => .ok (.fext (flag 26 w) (flag 21 w) (.ofNat 7 (bits 20 14 w)) (.ofNat 7 (bits 13 7 w)))
  | 9 => do let c_ ← need (FCond.ofCode (bits 20 18 w)); return .fcmp (flag 26 w) c_ (.ofNat 4 (bits 17 14 w)) (.ofNat 7 (bits 13 7 w)) (.ofNat 7 (bits 6 0 w))
  | 16 => .ok (.fmin (flag 26 w) (flag 21 w) (.ofNat 7 (bits 20 14 w)) (.ofNat 7 (bits 13 7 w)) (.ofNat 7 (bits 6 0 w)))
  | 17 => .ok (.fmax (flag 26 w) (flag 21 w) (.ofNat 7 (bits 20 14 w)) (.ofNat 7 (bits 13 7 w)) (.ofNat 7 (bits 6 0 w)))
  | 18 => .ok (.fminn (flag 26 w) (flag 21 w) (.ofNat 7 (bits 20 14 w)) (.ofNat 7 (bits 13 7 w)) (.ofNat 7 (bits 6 0 w)))
  | 19 => .ok (.fmaxn (flag 26 w) (flag 21 w) (.ofNat 7 (bits 20 14 w)) (.ofNat 7 (bits 13 7 w)) (.ofNat 7 (bits 6 0 w)))
  | 20 => .ok (.fabs (flag 26 w) (flag 21 w) (.ofNat 7 (bits 20 14 w)) (.ofNat 7 (bits 13 7 w)))
  | 21 => .ok (.fneg (flag 26 w) (flag 21 w) (.ofNat 7 (bits 20 14 w)) (.ofNat 7 (bits 13 7 w)))
  | 22 => .ok (.fcpys (flag 26 w) (flag 21 w) (.ofNat 7 (bits 20 14 w)) (.ofNat 7 (bits 13 7 w)) (.ofNat 7 (bits 6 0 w)))
  | 23 => .ok (.fclass (flag 26 w) (flag 21 w) (.ofNat 7 (bits 20 14 w)) (.ofNat 7 (bits 13 7 w)))
  | 24 => .ok (.fext (flag 26 w) (flag 21 w) (.ofNat 7 (bits 20 14 w)) (.ofNat 7 (bits 13 7 w)))
  | 25 => do let c_ ← need (FCond.ofCode (bits 20 18 w)); return .fcmp (flag 26 w) c_ (.ofNat 4 (bits 17 14 w)) (.ofNat 7 (bits 13 7 w)) (.ofNat 7 (bits 6 0 w))
  | _ => .error .reservedFunction

/-- Function codes of the MEM major (0x19). -/
def decodeMem (w : Nat) : Except DecodeError Instr :=
  match bits 26 22 w with
  | 0 => if bits 6 4 w = 6 then (do let s_ ← need (Space.ofCode (bits 23 22 w)); let c_ ← need (Scope.ofCode (bits 3 1 w)); return .ldv s_ (flag 21 w) (.ofNat 7 (bits 20 14 w)) (.ofNat 7 (bits 13 7 w)) c_ (flag 0 w)) else (do let s_ ← need (Space.ofCode (bits 23 22 w)); let t_ ← need (MemTy.ofCode (bits 6 4 w)); let c_ ← need (Scope.ofCode (bits 3 1 w)); return .ld s_ (flag 21 w) (.ofNat 7 (bits 20 14 w)) (.ofNat 7 (bits 13 7 w)) t_ c_ (flag 0 w))
  | 1 => if bits 6 4 w = 6 then (do let s_ ← need (Space.ofCode (bits 23 22 w)); let c_ ← need (Scope.ofCode (bits 3 1 w)); return .ldv s_ (flag 21 w) (.ofNat 7 (bits 20 14 w)) (.ofNat 7 (bits 13 7 w)) c_ (flag 0 w)) else (do let s_ ← need (Space.ofCode (bits 23 22 w)); let t_ ← need (MemTy.ofCode (bits 6 4 w)); let c_ ← need (Scope.ofCode (bits 3 1 w)); return .ld s_ (flag 21 w) (.ofNat 7 (bits 20 14 w)) (.ofNat 7 (bits 13 7 w)) t_ c_ (flag 0 w))
  | 2 => if bits 6 4 w = 6 then (do let s_ ← need (Space.ofCode (bits 23 22 w)); let c_ ← need (Scope.ofCode (bits 3 1 w)); return .ldv s_ (flag 21 w) (.ofNat 7 (bits 20 14 w)) (.ofNat 7 (bits 13 7 w)) c_ (flag 0 w)) else (do let s_ ← need (Space.ofCode (bits 23 22 w)); let t_ ← need (MemTy.ofCode (bits 6 4 w)); let c_ ← need (Scope.ofCode (bits 3 1 w)); return .ld s_ (flag 21 w) (.ofNat 7 (bits 20 14 w)) (.ofNat 7 (bits 13 7 w)) t_ c_ (flag 0 w))
  | 3 => if bits 6 4 w = 6 then (do let s_ ← need (Space.ofCode (bits 23 22 w)); let c_ ← need (Scope.ofCode (bits 3 1 w)); return .ldv s_ (flag 21 w) (.ofNat 7 (bits 20 14 w)) (.ofNat 7 (bits 13 7 w)) c_ (flag 0 w)) else (do let s_ ← need (Space.ofCode (bits 23 22 w)); let t_ ← need (MemTy.ofCode (bits 6 4 w)); let c_ ← need (Scope.ofCode (bits 3 1 w)); return .ld s_ (flag 21 w) (.ofNat 7 (bits 20 14 w)) (.ofNat 7 (bits 13 7 w)) t_ c_ (flag 0 w))
  | 4 => if bits 6 4 w = 6 then (do let s_ ← need (WSpace.ofCode (bits 23 22 w)); let c_ ← need (Scope.ofCode (bits 3 1 w)); return .stv s_ (flag 21 w) (.ofNat 7 (bits 20 14 w)) (.ofNat 7 (bits 13 7 w)) c_ (flag 0 w)) else (do let s_ ← need (WSpace.ofCode (bits 23 22 w)); let t_ ← need (MemTy.ofCode (bits 6 4 w)); let c_ ← need (Scope.ofCode (bits 3 1 w)); return .st s_ (flag 21 w) (.ofNat 7 (bits 20 14 w)) (.ofNat 7 (bits 13 7 w)) t_ c_ (flag 0 w))
  | 5 => if bits 6 4 w = 6 then (do let s_ ← need (WSpace.ofCode (bits 23 22 w)); let c_ ← need (Scope.ofCode (bits 3 1 w)); return .stv s_ (flag 21 w) (.ofNat 7 (bits 20 14 w)) (.ofNat 7 (bits 13 7 w)) c_ (flag 0 w)) else (do let s_ ← need (WSpace.ofCode (bits 23 22 w)); let t_ ← need (MemTy.ofCode (bits 6 4 w)); let c_ ← need (Scope.ofCode (bits 3 1 w)); return .st s_ (flag 21 w) (.ofNat 7 (bits 20 14 w)) (.ofNat 7 (bits 13 7 w)) t_ c_ (flag 0 w))
  | 6 => if bits 6 4 w = 6 then (do let s_ ← need (WSpace.ofCode (bits 23 22 w)); let c_ ← need (Scope.ofCode (bits 3 1 w)); return .stv s_ (flag 21 w) (.ofNat 7 (bits 20 14 w)) (.ofNat 7 (bits 13 7 w)) c_ (flag 0 w)) else (do let s_ ← need (WSpace.ofCode (bits 23 22 w)); let t_ ← need (MemTy.ofCode (bits 6 4 w)); let c_ ← need (Scope.ofCode (bits 3 1 w)); return .st s_ (flag 21 w) (.ofNat 7 (bits 20 14 w)) (.ofNat 7 (bits 13 7 w)) t_ c_ (flag 0 w))
  | 7 => if bits 6 4 w = 6 then (do let s_ ← need (WSpace.ofCode (bits 23 22 w)); let c_ ← need (Scope.ofCode (bits 3 1 w)); return .stv s_ (flag 21 w) (.ofNat 7 (bits 20 14 w)) (.ofNat 7 (bits 13 7 w)) c_ (flag 0 w)) else (do let s_ ← need (WSpace.ofCode (bits 23 22 w)); let t_ ← need (MemTy.ofCode (bits 6 4 w)); let c_ ← need (Scope.ofCode (bits 3 1 w)); return .st s_ (flag 21 w) (.ofNat 7 (bits 20 14 w)) (.ofNat 7 (bits 13 7 w)) t_ c_ (flag 0 w))
  | 8 => .ok (.ldx (flag 21 w) (.ofNat 7 (bits 20 14 w)) (.ofNat 7 (bits 13 7 w)) (.ofNat 7 (bits 6 0 w)))
  | 9 => .ok (.stx (flag 21 w) (.ofNat 7 (bits 20 14 w)) (.ofNat 7 (bits 13 7 w)) (.ofNat 7 (bits 6 0 w)))
  | 10 => do let s_ ← need (WSpace.ofCode (bits 6 5 w)); return .pref (.ofNat 7 (bits 13 7 w)) s_ (flag 0 w)
  | 11 => do let c_ ← need (Scope.ofCode (bits 6 4 w)); let o_ ← need (FenceOrder.ofCode (bits 3 2 w)); return .fence c_ o_ (flag 1 w)
  | 12 => do let k_ ← need (MonCmp.ofCode (bits 20 18 w)); return .mon k_ (flag 17 w) (.ofNat 7 (bits 13 7 w)) (.ofNat 7 (bits 6 0 w))
  | 13 => .ok (.mwait (.ofNat 7 (bits 20 14 w)) (.ofNat 7 (bits 13 7 w)))
  | _ => .error .reservedFunction

/-- Function codes of the SYNC major (0x1B). -/
def decodeSync (w : Nat) : Except DecodeError Instr :=
  match bits 26 22 w with
  | 0 => do let k_ ← need (BarKind.ofCode (bits 6 4 w)); let c_ ← need (BarScope.ofCode (bits 3 2 w)); return .bar (.ofNat 4 (bits 17 14 w)) k_ c_ (flag 1 w)
  | 1 => .ok .specx
  | 2 => .ok (.qw (.ofNat 7 (bits 20 14 w)) (.ofNat 7 (bits 13 7 w)))
  | 3 => .ok (.qr (.ofNat 7 (bits 20 14 w)) (.ofNat 7 (bits 13 7 w)))
  | 4 => .ok (.qrt (.ofNat 7 (bits 20 14 w)) (.ofNat 7 (bits 13 7 w)) (.ofNat 4 (bits 3 0 w)))
  | 5 => .ok (.qst (.ofNat 7 (bits 20 14 w)) (.ofNat 7 (bits 13 7 w)))
  | 6 => .ok (.tkwSrc (.ofNat 7 (bits 13 7 w)))
  | 7 => .ok (.tkwVis (.ofNat 7 (bits 13 7 w)))
  | 8 => .ok (.cpy (flag 21 w) (.ofNat 7 (bits 20 14 w)) (.ofNat 7 (bits 13 7 w)) (flag 0 w))
  | 9 => .ok (.gat (flag 21 w) (.ofNat 7 (bits 20 14 w)) (.ofNat 7 (bits 13 7 w)) (flag 0 w))
  | 10 => .ok (.sct (flag 21 w) (.ofNat 7 (bits 20 14 w)) (.ofNat 7 (bits 13 7 w)) (flag 0 w))
  | 11 => .ok (.bin (flag 21 w) (.ofNat 7 (bits 20 14 w)) (.ofNat 7 (bits 13 7 w)))
  | 12 => .ok (.coll (flag 21 w) (.ofNat 7 (bits 20 14 w)) (.ofNat 7 (bits 13 7 w)) (flag 0 w))
  | 13 => .ok (.shape (.ofNat 7 (bits 20 14 w)) (.ofNat 7 (bits 13 7 w)))
  | 14 => .ok (.mxls (flag 21 w) (.ofNat 7 (bits 20 14 w)) (.ofNat 7 (bits 13 7 w)))
  | 15 => .ok .mxsw
  | 16 => .ok (.mxgo (flag 21 w) (.ofNat 7 (bits 20 14 w)) (.ofNat 7 (bits 13 7 w)))
  | 17 => .ok (.mxrd (.ofNat 7 (bits 20 14 w)) (.ofNat 7 (bits 13 7 w)))
  | 18 => .ok (.mxz (.ofNat 7 (bits 13 7 w)))
  | 19 => .ok (.mxst (flag 21 w) (.ofNat 7 (bits 20 14 w)) (.ofNat 7 (bits 13 7 w)))
  | 20 => .ok (.tidw (.ofNat 7 (bits 13 7 w)) (.ofNat 7 (bits 6 0 w)))
  | 21 => .ok (.tidr (.ofNat 7 (bits 13 7 w)) (.ofNat 7 (bits 6 0 w)))
  | _ => .error .reservedFunction

/-- The ATOM major (0x1A): bit 21 and the space select the mnemonic (R76). -/
def decodeAtom (w : Nat) : Except DecodeError Instr :=
  if 28 ≤ bits 26 22 w then .error .reservedFunction
  else if bits 1 0 w = 3 then
    if flag 21 w then (do let f_ ← need (AtomOp.ofCode (bits 26 22 w)); let c_ ← need (Scope.ofCode (bits 6 4 w)); let o_ ← need (AtomOrder.ofCode (bits 3 2 w)); return .matomr f_ (.ofNat 7 (bits 20 14 w)) (.ofNat 7 (bits 13 7 w)) c_ o_) else (do let f_ ← need (AtomOp.ofCode (bits 26 22 w)); let c_ ← need (Scope.ofCode (bits 6 4 w)); let o_ ← need (AtomOrder.ofCode (bits 3 2 w)); return .matom f_ (.ofNat 7 (bits 20 14 w)) (.ofNat 7 (bits 13 7 w)) c_ o_)
  else if flag 21 w then (do let f_ ← need (AtomOp.ofCode (bits 26 22 w)); let c_ ← need (Scope.ofCode (bits 6 4 w)); let o_ ← need (AtomOrder.ofCode (bits 3 2 w)); let s_ ← need (WSpace.ofCode (bits 1 0 w)); return .atomr f_ (.ofNat 7 (bits 20 14 w)) (.ofNat 7 (bits 13 7 w)) c_ o_ s_) else (do let f_ ← need (AtomOp.ofCode (bits 26 22 w)); let c_ ← need (Scope.ofCode (bits 6 4 w)); let o_ ← need (AtomOrder.ofCode (bits 3 2 w)); let s_ ← need (WSpace.ofCode (bits 1 0 w)); return .atom f_ (.ofNat 7 (bits 20 14 w)) (.ofNat 7 (bits 13 7 w)) c_ o_ s_)

/-- The major opcode selects the format and the table (R51, R58). -/
def decodeFields (w : Nat) : Except DecodeError Instr :=
  match bits 31 27 w with
  | 0 => decodeSys w
  | 1 => .ok (.bra (.ofNat 4 (bits 26 23 w)) (flag 22 w) (.ofNat 6 (bits 21 16 w)) (.ofNat 16 (bits 15 0 w)))
  | 2 => .ok (.call (.ofNat 4 (bits 26 23 w)) (flag 22 w) (.ofNat 6 (bits 21 16 w)) (.ofNat 16 (bits 15 0 w)))
  | 3 => decodeInt w
  | 4 => decodeInt64 w
  | 5 => decodeUint w
  | 6 => decodeLane w
  | 7 => if flag 22 w then (.ok (.selB64 (.ofNat 4 (bits 26 23 w)) (flag 21 w) (.ofNat 7 (bits 20 14 w)) (.ofNat 7 (bits 13 7 w)) (.ofNat 7 (bits 6 0 w)))) else (.ok (.selB32 (.ofNat 4 (bits 26 23 w)) (flag 21 w) (.ofNat 7 (bits 20 14 w)) (.ofNat 7 (bits 13 7 w)) (.ofNat 7 (bits 6 0 w))))
  | 8 => if flag 22 w then (.ok (.subc (.ofNat 4 (bits 26 23 w)) (flag 21 w) (.ofNat 7 (bits 20 14 w)) (.ofNat 7 (bits 13 7 w)) (.ofNat 7 (bits 6 0 w)))) else (.ok (.addc (.ofNat 4 (bits 26 23 w)) (flag 21 w) (.ofNat 7 (bits 20 14 w)) (.ofNat 7 (bits 13 7 w)) (.ofNat 7 (bits 6 0 w))))
  | 9 => .ok (.addi (.ofNat 12 (bits 26 22 w * 128 + bits 6 0 w)) (flag 21 w) (.ofNat 7 (bits 20 14 w)) (.ofNat 7 (bits 13 7 w)))
  | 10 => .ok (.andi (.ofNat 12 (bits 26 22 w * 128 + bits 6 0 w)) (flag 21 w) (.ofNat 7 (bits 20 14 w)) (.ofNat 7 (bits 13 7 w)))
  | 11 => .ok (.ori (.ofNat 12 (bits 26 22 w * 128 + bits 6 0 w)) (flag 21 w) (.ofNat 7 (bits 20 14 w)) (.ofNat 7 (bits 13 7 w)))
  | 12 => .ok (.xori (.ofNat 12 (bits 26 22 w * 128 + bits 6 0 w)) (flag 21 w) (.ofNat 7 (bits 20 14 w)) (.ofNat 7 (bits 13 7 w)))
  | 13 => do let c_ ← need (Cond.ofCode (bits 20 18 w)); return .cmpi (.ofNat 12 (bits 26 22 w * 128 + bits 6 0 w)) (flag 21 w) c_ (.ofNat 4 (bits 17 14 w)) (.ofNat 7 (bits 13 7 w))
  | 14 => .ok (.lui (.ofNat 19 (bits 26 22 w * 16384 + bits 13 0 w)) (flag 21 w) (.ofNat 7 (bits 20 14 w)))
  | 15 => .ok (.movi (.ofNat 19 (bits 26 22 w * 16384 + bits 13 0 w)) (flag 21 w) (.ofNat 7 (bits 20 14 w)))
  | 16 => .ok (.uaddi (.ofNat 12 (bits 26 22 w * 128 + bits 6 0 w)) (.ofNat 7 (bits 20 14 w)) (.ofNat 7 (bits 13 7 w)))
  | 17 => if flag 21 w then (.ok (.umoviLui (.ofNat 19 (bits 26 22 w * 16384 + bits 13 0 w)) (.ofNat 7 (bits 20 14 w)))) else (.ok (.umovi (.ofNat 19 (bits 26 22 w * 16384 + bits 13 0 w)) (.ofNat 7 (bits 20 14 w))))
  | 18 => decodeFp32 w
  | 19 => decodeFp64 w
  | 20 => decodeFph w
  | 21 => decodeFmisc w
  | 22 => if flag 23 w then (do let r_ ← need (Rounding.ofCode (bits 26 24 w)); let y_ ← need (NumTy.ofCode (bits 22 22 w * 8 + bits 6 4 w)); let s_ ← need (NumTy.ofCode (bits 3 0 w)); return .pack4 r_ y_ (flag 21 w) (.ofNat 7 (bits 20 14 w)) (.ofNat 7 (bits 13 7 w)) s_) else (do let r_ ← need (Rounding.ofCode (bits 26 24 w)); let y_ ← need (NumTy.ofCode (bits 22 22 w * 8 + bits 6 4 w)); let s_ ← need (NumTy.ofCode (bits 3 0 w)); return .cvt r_ y_ (flag 21 w) (.ofNat 7 (bits 20 14 w)) (.ofNat 7 (bits 13 7 w)) s_)
  | 23 => .ok (.ldo (.ofNat 12 (bits 26 22 w * 128 + bits 6 0 w)) (flag 21 w) (.ofNat 7 (bits 20 14 w)) (.ofNat 7 (bits 13 7 w)))
  | 24 => .ok (.sto (.ofNat 12 (bits 26 22 w * 128 + bits 6 0 w)) (flag 21 w) (.ofNat 7 (bits 20 14 w)) (.ofNat 7 (bits 13 7 w)))
  | 25 => decodeMem w
  | 26 => decodeAtom w
  | 27 => decodeSync w
  | 31 => .error .permanentlyIllegal
  | _ => .error .reservedMajor

/-- The number of an instruction's word, from the encoding tables; 0, which is permanently illegal, for an event. -/
def Instr.encodeNat : Instr → Nat
  | .nop => 4194304
  | .trap n => 8388608 + n.toNat
  | .tret => 12582912
  | .brk n => 16777216 + n.toNat
  | .gets nw d a => 20971520 + nw.toNat * 2097152 + d.toNat * 16384 + a.toNat * 128
  | .sets a b => 25165824 + a.toNat * 128 + b.toNat
  | .xen o m => 29360128 + o.code * 32 + m.toNat
  | .xflg o m => 33554432 + o.code * 32 + m.toNat
  | .exit => 37748736
  | .ret => 41943040
  | .brx a p => 46137344 + a.toNat * 128 + p.toNat
  | .callx a p => 50331648 + a.toNat * 128 + p.toNat
  | .prio p => 54525952 + p.toNat
  | .jmsk j => 58720256 + j.toNat * 16384
  | .join j => 62914560 + j.toNat * 16384
  | .winb b => 67108864 + b.toNat
  | .valid v => 71303168 + v.code
  | .yield => 75497472
  | .guard n s q => 79691776 + n.toNat * 16384 + s.toNat * 16 + q.toNat
  | .bra p s t o => 134217728 + p.toNat * 8388608 + s.toNat * 4194304 + t.toNat * 65536 + o.toNat
  | .call p s t o => 268435456 + p.toNat * 8388608 + s.toNat * 4194304 + t.toNat * 65536 + o.toNat
  | .add32 nw d a b => 402653184 + nw.toNat * 2097152 + d.toNat * 16384 + a.toNat * 128 + b.toNat
  | .sub32 nw d a b => 406847488 + nw.toNat * 2097152 + d.toNat * 16384 + a.toNat * 128 + b.toNat
  | .mull nw d a b => 411041792 + nw.toNat * 2097152 + d.toNat * 16384 + a.toNat * 128 + b.toNat
  | .mulhI32 nw d a b => 415236096 + nw.toNat * 2097152 + d.toNat * 16384 + a.toNat * 128 + b.toNat
  | .mulhN32 nw d a b => 419430400 + nw.toNat * 2097152 + d.toNat * 16384 + a.toNat * 128 + b.toNat
  | .mad nw d a b => 423624704 + nw.toNat * 2097152 + d.toNat * 16384 + a.toNat * 128 + b.toNat
  | .div32 t nw d a b => 427819008 + t.toNat * 4194304 + nw.toNat * 2097152 + d.toNat * 16384 + a.toNat * 128 + b.toNat
  | .rem32 t nw d a b => 436207616 + t.toNat * 4194304 + nw.toNat * 2097152 + d.toNat * 16384 + a.toNat * 128 + b.toNat
  | .min32 t nw d a b => 444596224 + t.toNat * 4194304 + nw.toNat * 2097152 + d.toNat * 16384 + a.toNat * 128 + b.toNat
  | .max32 t nw d a b => 452984832 + t.toNat * 4194304 + nw.toNat * 2097152 + d.toNat * 16384 + a.toNat * 128 + b.toNat
  | .sadd t nw d a b => 461373440 + t.toNat * 4194304 + nw.toNat * 2097152 + d.toNat * 16384 + a.toNat * 128 + b.toNat
  | .ssub t nw d a b => 469762048 + t.toNat * 4194304 + nw.toNat * 2097152 + d.toNat * 16384 + a.toNat * 128 + b.toNat
  | .and32 nw d a b => 478150656 + nw.toNat * 2097152 + d.toNat * 16384 + a.toNat * 128 + b.toNat
  | .or32 nw d a b => 482344960 + nw.toNat * 2097152 + d.toNat * 16384 + a.toNat * 128 + b.toNat
  | .xor32 nw d a b => 486539264 + nw.toNat * 2097152 + d.toNat * 16384 + a.toNat * 128 + b.toNat
  | .shl nw d a b => 490733568 + nw.toNat * 2097152 + d.toNat * 16384 + a.toNat * 128 + b.toNat
  | .shr nw d a b => 494927872 + nw.toNat * 2097152 + d.toNat * 16384 + a.toNat * 128 + b.toNat
  | .sar nw d a b => 499122176 + nw.toNat * 2097152 + d.toNat * 16384 + a.toNat * 128 + b.toNat
  | .rotl nw d a b => 503316480 + nw.toNat * 2097152 + d.toNat * 16384 + a.toNat * 128 + b.toNat
  | .shli nw d a n => 507510784 + nw.toNat * 2097152 + d.toNat * 16384 + a.toNat * 128 + n.toNat
  | .shri nw d a n => 507510816 + nw.toNat * 2097152 + d.toNat * 16384 + a.toNat * 128 + n.toNat
  | .sari nw d a n => 507510848 + nw.toNat * 2097152 + d.toNat * 16384 + a.toNat * 128 + n.toNat
  | .bfx t nw d a b => 511705088 + t.toNat * 4194304 + nw.toNat * 2097152 + d.toNat * 16384 + a.toNat * 128 + b.toNat
  | .bfi nw d a b => 520093696 + nw.toNat * 2097152 + d.toNat * 16384 + a.toNat * 128 + b.toNat
  | .permb nw d a b => 524288000 + nw.toNat * 2097152 + d.toNat * 16384 + a.toNat * 128 + b.toNat
  | .mov nw d a => 528482304 + nw.toNat * 2097152 + d.toNat * 16384 + a.toNat * 128
  | .not32 nw d a => 528482305 + nw.toNat * 2097152 + d.toNat * 16384 + a.toNat * 128
  | .neg32 nw d a => 528482306 + nw.toNat * 2097152 + d.toNat * 16384 + a.toNat * 128
  | .abs32 nw d a => 528482307 + nw.toNat * 2097152 + d.toNat * 16384 + a.toNat * 128
  | .popc nw d a => 528482308 + nw.toNat * 2097152 + d.toNat * 16384 + a.toNat * 128
  | .clz nw d a => 528482309 + nw.toNat * 2097152 + d.toNat * 16384 + a.toNat * 128
  | .ctz nw d a => 528482310 + nw.toNat * 2097152 + d.toNat * 16384 + a.toNat * 128
  | .brev nw d a => 528482311 + nw.toNat * 2097152 + d.toNat * 16384 + a.toNat * 128
  | .addInt64 nw d a b => 536870912 + nw.toNat * 2097152 + d.toNat * 16384 + a.toNat * 128 + b.toNat
  | .subInt64 nw d a b => 541065216 + nw.toNat * 2097152 + d.toNat * 16384 + a.toNat * 128 + b.toNat
  | .mullInt64 nw d a b => 545259520 + nw.toNat * 2097152 + d.toNat * 16384 + a.toNat * 128 + b.toNat
  | .minI64 nw d a b => 549453824 + nw.toNat * 2097152 + d.toNat * 16384 + a.toNat * 128 + b.toNat
  | .minN64 nw d a b => 553648128 + nw.toNat * 2097152 + d.toNat * 16384 + a.toNat * 128 + b.toNat
  | .maxI64 nw d a b => 557842432 + nw.toNat * 2097152 + d.toNat * 16384 + a.toNat * 128 + b.toNat
  | .maxN64 nw d a b => 562036736 + nw.toNat * 2097152 + d.toNat * 16384 + a.toNat * 128 + b.toNat
  | .andInt64 nw d a b => 566231040 + nw.toNat * 2097152 + d.toNat * 16384 + a.toNat * 128 + b.toNat
  | .orInt64 nw d a b => 570425344 + nw.toNat * 2097152 + d.toNat * 16384 + a.toNat * 128 + b.toNat
  | .xorInt64 nw d a b => 574619648 + nw.toNat * 2097152 + d.toNat * 16384 + a.toNat * 128 + b.toNat
  | .shlInt64 nw d a b => 578813952 + nw.toNat * 2097152 + d.toNat * 16384 + a.toNat * 128 + b.toNat
  | .shrInt64 nw d a b => 583008256 + nw.toNat * 2097152 + d.toNat * 16384 + a.toNat * 128 + b.toNat
  | .sarInt64 nw d a b => 587202560 + nw.toNat * 2097152 + d.toNat * 16384 + a.toNat * 128 + b.toNat
  | .shliInt64 nw d a n => 591396864 + nw.toNat * 2097152 + d.toNat * 16384 + a.toNat * 128 + n.toNat
  | .shriInt64 nw d a n => 595591168 + nw.toNat * 2097152 + d.toNat * 16384 + a.toNat * 128 + n.toNat
  | .sariInt64 nw d a n => 599785472 + nw.toNat * 2097152 + d.toNat * 16384 + a.toNat * 128 + n.toNat
  | .movInt64 nw d a => 603979776 + nw.toNat * 2097152 + d.toNat * 16384 + a.toNat * 128
  | .notInt64 nw d a => 603979777 + nw.toNat * 2097152 + d.toNat * 16384 + a.toNat * 128
  | .negInt64 nw d a => 603979778 + nw.toNat * 2097152 + d.toNat * 16384 + a.toNat * 128
  | .absInt64 nw d a => 603979779 + nw.toNat * 2097152 + d.toNat * 16384 + a.toNat * 128
  | .popcInt64 nw d a => 603979780 + nw.toNat * 2097152 + d.toNat * 16384 + a.toNat * 128
  | .clzInt64 nw d a => 603979781 + nw.toNat * 2097152 + d.toNat * 16384 + a.toNat * 128
  | .ctzInt64 nw d a => 603979782 + nw.toNat * 2097152 + d.toNat * 16384 + a.toNat * 128
  | .brevInt64 nw d a => 603979783 + nw.toNat * 2097152 + d.toNat * 16384 + a.toNat * 128
  | .leaI32 nw d a b => 608174080 + nw.toNat * 2097152 + d.toNat * 16384 + a.toNat * 128 + b.toNat
  | .leaN32 nw d a b => 612368384 + nw.toNat * 2097152 + d.toNat * 16384 + a.toNat * 128 + b.toNat
  | .addUint d a b => 671088640 + d.toNat * 16384 + a.toNat * 128 + b.toNat
  | .subUint d a b => 675282944 + d.toNat * 16384 + a.toNat * 128 + b.toNat
  | .mullUint d a b => 679477248 + d.toNat * 16384 + a.toNat * 128 + b.toNat
  | .mulhI64 d a b => 683671552 + d.toNat * 16384 + a.toNat * 128 + b.toNat
  | .mulhN64 d a b => 687865856 + d.toNat * 16384 + a.toNat * 128 + b.toNat
  | .madUint d a b => 692060160 + d.toNat * 16384 + a.toNat * 128 + b.toNat
  | .minUint t d a b => 696254464 + t.toNat * 4194304 + d.toNat * 16384 + a.toNat * 128 + b.toNat
  | .maxUint t d a b => 704643072 + t.toNat * 4194304 + d.toNat * 16384 + a.toNat * 128 + b.toNat
  | .andUint d a b => 713031680 + d.toNat * 16384 + a.toNat * 128 + b.toNat
  | .orUint d a b => 717225984 + d.toNat * 16384 + a.toNat * 128 + b.toNat
  | .xorUint d a b => 721420288 + d.toNat * 16384 + a.toNat * 128 + b.toNat
  | .shlUint d a b => 725614592 + d.toNat * 16384 + a.toNat * 128 + b.toNat
  | .shrUint d a b => 729808896 + d.toNat * 16384 + a.toNat * 128 + b.toNat
  | .sarUint d a b => 734003200 + d.toNat * 16384 + a.toNat * 128 + b.toNat
  | .shliUint d a n => 738197504 + d.toNat * 16384 + a.toNat * 128 + n.toNat
  | .shriUint d a n => 742391808 + d.toNat * 16384 + a.toNat * 128 + n.toNat
  | .sariUint d a n => 746586112 + d.toNat * 16384 + a.toNat * 128 + n.toNat
  | .bfxI64 d a b => 750780416 + d.toNat * 16384 + a.toNat * 128 + b.toNat
  | .bfxN64 d a b => 754974720 + d.toNat * 16384 + a.toNat * 128 + b.toNat
  | .bfiUint d a b => 759169024 + d.toNat * 16384 + a.toNat * 128 + b.toNat
  | .movUint d a => 763363328 + d.toNat * 16384 + a.toNat * 128
  | .notUint d a => 763363329 + d.toNat * 16384 + a.toNat * 128
  | .negUint d a => 763363330 + d.toNat * 16384 + a.toNat * 128
  | .absUint d a => 763363331 + d.toNat * 16384 + a.toNat * 128
  | .popcUint d a => 763363332 + d.toNat * 16384 + a.toNat * 128
  | .clzUint d a => 763363333 + d.toNat * 16384 + a.toNat * 128
  | .ctzUint d a => 763363334 + d.toNat * 16384 + a.toNat * 128
  | .brevUint d a => 763363335 + d.toNat * 16384 + a.toNat * 128
  | .cmp t c q a b => 805306368 + t.toNat * 2097152 + c.code * 262144 + q.toNat * 16384 + a.toNat * 128 + b.toNat
  | .cmp64 t c q a b => 809500672 + t.toNat * 2097152 + c.code * 262144 + q.toNat * 16384 + a.toNat * 128 + b.toNat
  | .pand q x p y r => 813694976 + q.toNat * 16384 + x.toNat * 2048 + p.toNat * 128 + y.toNat * 16 + r.toNat
  | .por q x p y r => 817889280 + q.toNat * 16384 + x.toNat * 2048 + p.toNat * 128 + y.toNat * 16 + r.toNat
  | .pxor q x p y r => 822083584 + q.toNat * 16384 + x.toNat * 2048 + p.toNat * 128 + y.toNat * 16 + r.toNat
  | .pnot q x p => 826277888 + q.toNat * 16384 + x.toNat * 2048 + p.toNat * 128
  | .pmov q x p => 830472192 + q.toNat * 16384 + x.toNat * 2048 + p.toNat * 128
  | .voteAll q x p => 834666496 + q.toNat * 16384 + x.toNat * 2048 + p.toNat * 128
  | .voteAny q x p => 838860800 + q.toNat * 16384 + x.toNat * 2048 + p.toNat * 128
  | .voteBallot nw d x p => 843055104 + nw.toNat * 2097152 + d.toNat * 16384 + x.toNat * 2048 + p.toNat * 128
  | .shflIdx nw d a b => 847249408 + nw.toNat * 2097152 + d.toNat * 16384 + a.toNat * 128 + b.toNat
  | .shflUp nw d a b => 851443712 + nw.toNat * 2097152 + d.toNat * 16384 + a.toNat * 128 + b.toNat
  | .shflDown nw d a b => 855638016 + nw.toNat * 2097152 + d.toNat * 16384 + a.toNat * 128 + b.toNat
  | .shflXor nw d a b => 859832320 + nw.toNat * 2097152 + d.toNat * 16384 + a.toNat * 128 + b.toNat
  | .bcst z d a => 864026624 + z.toNat * 2097152 + d.toNat * 16384 + a.toNat * 128
  | .elect q => 868220928 + q.toNat * 16384
  | .movFromUniform nw d a z => 872415232 + nw.toNat * 2097152 + d.toNat * 16384 + a.toNat * 128 + z.toNat
  | .selB32 p nw d a b => 939524096 + p.toNat * 8388608 + nw.toNat * 2097152 + d.toNat * 16384 + a.toNat * 128 + b.toNat
  | .selB64 p nw d a b => 943718400 + p.toNat * 8388608 + nw.toNat * 2097152 + d.toNat * 16384 + a.toNat * 128 + b.toNat
  | .addc p nw d a b => 1073741824 + p.toNat * 8388608 + nw.toNat * 2097152 + d.toNat * 16384 + a.toNat * 128 + b.toNat
  | .subc p nw d a b => 1077936128 + p.toNat * 8388608 + nw.toNat * 2097152 + d.toNat * 16384 + a.toNat * 128 + b.toNat
  | .addi i nw d a => 1207959552 + (i.toNat / 128) * 4194304 + i.toNat % 128 + nw.toNat * 2097152 + d.toNat * 16384 + a.toNat * 128
  | .andi i nw d a => 1342177280 + (i.toNat / 128) * 4194304 + i.toNat % 128 + nw.toNat * 2097152 + d.toNat * 16384 + a.toNat * 128
  | .ori i nw d a => 1476395008 + (i.toNat / 128) * 4194304 + i.toNat % 128 + nw.toNat * 2097152 + d.toNat * 16384 + a.toNat * 128
  | .xori i nw d a => 1610612736 + (i.toNat / 128) * 4194304 + i.toNat % 128 + nw.toNat * 2097152 + d.toNat * 16384 + a.toNat * 128
  | .cmpi i t c q a => 1744830464 + (i.toNat / 128) * 4194304 + i.toNat % 128 + t.toNat * 2097152 + c.code * 262144 + q.toNat * 16384 + a.toNat * 128
  | .lui i nw d => 1879048192 + (i.toNat / 16384) * 4194304 + i.toNat % 16384 + nw.toNat * 2097152 + d.toNat * 16384
  | .movi i nw d => 2013265920 + (i.toNat / 16384) * 4194304 + i.toNat % 16384 + nw.toNat * 2097152 + d.toNat * 16384
  | .uaddi i d a => 2147483648 + (i.toNat / 128) * 4194304 + i.toNat % 128 + d.toNat * 16384 + a.toNat * 128
  | .umovi i d => 2281701376 + (i.toNat / 16384) * 4194304 + i.toNat % 16384 + d.toNat * 16384
  | .umoviLui i d => 2283798528 + (i.toNat / 16384) * 4194304 + i.toNat % 16384 + d.toNat * 16384
  | .faddFp32 r nw d a b => 2415919104 + r.code * 4194304 + nw.toNat * 2097152 + d.toNat * 16384 + a.toNat * 128 + b.toNat
  | .fsubFp32 r nw d a b => 2432696320 + r.code * 4194304 + nw.toNat * 2097152 + d.toNat * 16384 + a.toNat * 128 + b.toNat
  | .fmulFp32 r nw d a b => 2449473536 + r.code * 4194304 + nw.toNat * 2097152 + d.toNat * 16384 + a.toNat * 128 + b.toNat
  | .fdivFp32 r nw d a b => 2466250752 + r.code * 4194304 + nw.toNat * 2097152 + d.toNat * 16384 + a.toNat * 128 + b.toNat
  | .fmaFp32 r nw d a b => 2483027968 + r.code * 4194304 + nw.toNat * 2097152 + d.toNat * 16384 + a.toNat * 128 + b.toNat
  | .fnmaFp32 r nw d a b => 2499805184 + r.code * 4194304 + nw.toNat * 2097152 + d.toNat * 16384 + a.toNat * 128 + b.toNat
  | .fsclFp32 r nw d a b => 2516582400 + r.code * 4194304 + nw.toNat * 2097152 + d.toNat * 16384 + a.toNat * 128 + b.toNat
  | .fsqrtFp32 r nw d a => 2533359616 + r.code * 4194304 + nw.toNat * 2097152 + d.toNat * 16384 + a.toNat * 128
  | .frcp r nw d a => 2533359617 + r.code * 4194304 + nw.toNat * 2097152 + d.toNat * 16384 + a.toNat * 128
  | .frsq r nw d a => 2533359618 + r.code * 4194304 + nw.toNat * 2097152 + d.toNat * 16384 + a.toNat * 128
  | .fexp2 r nw d a => 2533359619 + r.code * 4194304 + nw.toNat * 2097152 + d.toNat * 16384 + a.toNat * 128
  | .flog2 r nw d a => 2533359620 + r.code * 4194304 + nw.toNat * 2097152 + d.toNat * 16384 + a.toNat * 128
  | .frndFp32 r nw d a => 2533359621 + r.code * 4194304 + nw.toNat * 2097152 + d.toNat * 16384 + a.toNat * 128
  | .frndRnaFp32 nw d a => 2533359622 + nw.toNat * 2097152 + d.toNat * 16384 + a.toNat * 128
  | .faddFp64 r nw d a b => 2550136832 + r.code * 4194304 + nw.toNat * 2097152 + d.toNat * 16384 + a.toNat * 128 + b.toNat
  | .fsubFp64 r nw d a b => 2566914048 + r.code * 4194304 + nw.toNat * 2097152 + d.toNat * 16384 + a.toNat * 128 + b.toNat
  | .fmulFp64 r nw d a b => 2583691264 + r.code * 4194304 + nw.toNat * 2097152 + d.toNat * 16384 + a.toNat * 128 + b.toNat
  | .fdivFp64 r nw d a b => 2600468480 + r.code * 4194304 + nw.toNat * 2097152 + d.toNat * 16384 + a.toNat * 128 + b.toNat
  | .fmaFp64 r nw d a b => 2617245696 + r.code * 4194304 + nw.toNat * 2097152 + d.toNat * 16384 + a.toNat * 128 + b.toNat
  | .fnmaFp64 r nw d a b => 2634022912 + r.code * 4194304 + nw.toNat * 2097152 + d.toNat * 16384 + a.toNat * 128 + b.toNat
  | .fsclFp64 r nw d a b => 2650800128 + r.code * 4194304 + nw.toNat * 2097152 + d.toNat * 16384 + a.toNat * 128 + b.toNat
  | .fsqrtFp64 r nw d a => 2667577344 + r.code * 4194304 + nw.toNat * 2097152 + d.toNat * 16384 + a.toNat * 128
  | .frndFp64 r nw d a => 2667577349 + r.code * 4194304 + nw.toNat * 2097152 + d.toNat * 16384 + a.toNat * 128
  | .frndRnaFp64 nw d a => 2667577350 + nw.toNat * 2097152 + d.toNat * 16384 + a.toNat * 128
  | .hadd2 t r nw d a b => 2684354560 + t.toNat * 16777216 + r.code * 4194304 + nw.toNat * 2097152 + d.toNat * 16384 + a.toNat * 128 + b.toNat
  | .hmul2 t r nw d a b => 2717908992 + t.toNat * 16777216 + r.code * 4194304 + nw.toNat * 2097152 + d.toNat * 16384 + a.toNat * 128 + b.toNat
  | .hfma2 t r nw d a b => 2751463424 + t.toNat * 16777216 + r.code * 4194304 + nw.toNat * 2097152 + d.toNat * 16384 + a.toNat * 128 + b.toNat
  | .hmin2 t nw d a b => 2785017856 + t.toNat * 4194304 + nw.toNat * 2097152 + d.toNat * 16384 + a.toNat * 128 + b.toNat
  | .hmax2 t nw d a b => 2793406464 + t.toNat * 4194304 + nw.toNat * 2097152 + d.toNat * 16384 + a.toNat * 128 + b.toNat
  | .fmin t nw d a b => 2818572288 + t.toNat * 67108864 + nw.toNat * 2097152 + d.toNat * 16384 + a.toNat * 128 + b.toNat
  | .fmax t nw d a b => 2822766592 + t.toNat * 67108864 + nw.toNat * 2097152 + d.toNat * 16384 + a.toNat * 128 + b.toNat
  | .fminn t nw d a b => 2826960896 + t.toNat * 67108864 + nw.toNat * 2097152 + d.toNat * 16384 + a.toNat * 128 + b.toNat
  | .fmaxn t nw d a b => 2831155200 + t.toNat * 67108864 + nw.toNat * 2097152 + d.toNat * 16384 + a.toNat * 128 + b.toNat
  | .fabs t nw d a => 2835349504 + t.toNat * 67108864 + nw.toNat * 2097152 + d.toNat * 16384 + a.toNat * 128
  | .fneg t nw d a => 2839543808 + t.toNat * 67108864 + nw.toNat * 2097152 + d.toNat * 16384 + a.toNat * 128
  | .fcpys t nw d a b => 2843738112 + t.toNat * 67108864 + nw.toNat * 2097152 + d.toNat * 16384 + a.toNat * 128 + b.toNat
  | .fclass t nw d a => 2847932416 + t.toNat * 67108864 + nw.toNat * 2097152 + d.toNat * 16384 + a.toNat * 128
  | .fext t nw d a => 2852126720 + t.toNat * 67108864 + nw.toNat * 2097152 + d.toNat * 16384 + a.toNat * 128
  | .fcmp t c q a b => 2856321024 + t.toNat * 67108864 + c.code * 262144 + q.toNat * 16384 + a.toNat * 128 + b.toNat
  | .cvt r y nw d a s => 2952790016 + r.code * 16777216 + (y.code / 8) * 4194304 + (y.code % 8) * 16 + nw.toNat * 2097152 + d.toNat * 16384 + a.toNat * 128 + s.code
  | .pack4 r y nw d a s => 2961178624 + r.code * 16777216 + (y.code / 8) * 4194304 + (y.code % 8) * 16 + nw.toNat * 2097152 + d.toNat * 16384 + a.toNat * 128 + s.code
  | .ldo i z d a => 3087007744 + (i.toNat / 128) * 4194304 + i.toNat % 128 + z.toNat * 2097152 + d.toNat * 16384 + a.toNat * 128
  | .sto i z d a => 3221225472 + (i.toNat / 128) * 4194304 + i.toNat % 128 + z.toNat * 2097152 + d.toNat * 16384 + a.toNat * 128
  | .ld s o d a t c n => 3355443200 + s.code * 4194304 + o.toNat * 2097152 + d.toNat * 16384 + a.toNat * 128 + t.code * 16 + c.code * 2 + n.toNat
  | .ldv s o d a c n => 3355443296 + s.code * 4194304 + o.toNat * 2097152 + d.toNat * 16384 + a.toNat * 128 + c.code * 2 + n.toNat
  | .st s o d a t c n => 3372220416 + s.code * 4194304 + o.toNat * 2097152 + d.toNat * 16384 + a.toNat * 128 + t.code * 16 + c.code * 2 + n.toNat
  | .stv s o d a c n => 3372220512 + s.code * 4194304 + o.toNat * 2097152 + d.toNat * 16384 + a.toNat * 128 + c.code * 2 + n.toNat
  | .ldx z d a b => 3388997632 + z.toNat * 2097152 + d.toNat * 16384 + a.toNat * 128 + b.toNat
  | .stx z d a b => 3393191936 + z.toNat * 2097152 + d.toNat * 16384 + a.toNat * 128 + b.toNat
  | .pref a s n => 3397386240 + a.toNat * 128 + s.code * 32 + n.toNat
  | .fence c o m => 3401580544 + c.code * 16 + o.code * 4 + m.toNat * 2
  | .mon k z a b => 3405774848 + k.code * 262144 + z.toNat * 131072 + a.toNat * 128 + b.toNat
  | .mwait d a => 3409969152 + d.toNat * 16384 + a.toNat * 128
  | .atom f d a c o s => 3489660928 + f.code * 4194304 + d.toNat * 16384 + a.toNat * 128 + c.code * 16 + o.code * 4 + s.code
  | .atomr f d a c o s => 3491758080 + f.code * 4194304 + d.toNat * 16384 + a.toNat * 128 + c.code * 16 + o.code * 4 + s.code
  | .matom f d a c o => 3489660931 + f.code * 4194304 + d.toNat * 16384 + a.toNat * 128 + c.code * 16 + o.code * 4
  | .matomr f d a c o => 3491758083 + f.code * 4194304 + d.toNat * 16384 + a.toNat * 128 + c.code * 16 + o.code * 4
  | .bar n k c x => 3623878656 + n.toNat * 16384 + k.code * 16 + c.code * 4 + x.toNat * 2
  | .specx => 3628072960
  | .qw q a => 3632267264 + q.toNat * 16384 + a.toNat * 128
  | .qr d q => 3636461568 + d.toNat * 16384 + q.toNat * 128
  | .qrt d q p => 3640655872 + d.toNat * 16384 + q.toNat * 128 + p.toNat
  | .qst d q => 3644850176 + d.toNat * 16384 + q.toNat * 128
  | .tkwSrc a => 3649044480 + a.toNat * 128
  | .tkwVis a => 3653238784 + a.toNat * 128
  | .cpy nw d a h => 3657433088 + nw.toNat * 2097152 + d.toNat * 16384 + a.toNat * 128 + h.toNat
  | .gat nw d a h => 3661627392 + nw.toNat * 2097152 + d.toNat * 16384 + a.toNat * 128 + h.toNat
  | .sct nw d a h => 3665821696 + nw.toNat * 2097152 + d.toNat * 16384 + a.toNat * 128 + h.toNat
  | .bin nw d a => 3670016000 + nw.toNat * 2097152 + d.toNat * 16384 + a.toNat * 128
  | .coll nw d a h => 3674210304 + nw.toNat * 2097152 + d.toNat * 16384 + a.toNat * 128 + h.toNat
  | .shape d a => 3678404608 + d.toNat * 16384 + a.toNat * 128
  | .mxls nw d a => 3682598912 + nw.toNat * 2097152 + d.toNat * 16384 + a.toNat * 128
  | .mxsw => 3686793216
  | .mxgo nw d a => 3690987520 + nw.toNat * 2097152 + d.toNat * 16384 + a.toNat * 128
  | .mxrd d a => 3695181824 + d.toNat * 16384 + a.toNat * 128
  | .mxz a => 3699376128 + a.toNat * 128
  | .mxst nw d a => 3703570432 + nw.toNat * 2097152 + d.toNat * 16384 + a.toNat * 128
  | .tidw a b => 3707764736 + a.toNat * 128 + b.toNat
  | .tidr a b => 3711959040 + a.toNat * 128 + b.toNat
  | .handlerEntry _ _ => 0
  | .joinRelease _ _ _ => 0
  | .waveRetire _ _ => 0
  | .gangRetire _ => 0
  | .yieldHoldExpiry _ _ => 0
  | .issueAgePromotion _ _ => 0
  | .parkWave _ _ => 0
  | .recallWave _ _ => 0
  | .watchdogExpiry _ _ => 0
  | .loadReply _ _ _ => 0
  | .storeAck _ _ => 0
  | .matomPerform _ => 0
  | .mwaitRecheck _ _ _ => 0
  | .mwaitTimeout _ _ _ => 0
  | .haltLineArrival _ => 0
  | .haltClear _ => 0
  | .dispatchRound _ => 0
  | .dispatcherFlagFall _ => 0
  | .stackDispatchGang _ => 0
  | .reservationAttempt _ => 0
  | .reservationBackoffExpiry _ => 0
  | .poolRecordTake _ => 0
  | .poolDrainFlush _ => 0
  | .flagFall _ _ => 0
  | .deadlineKill _ _ => 0
  | .completionRecordWrite _ => 0
  | .engineCommandStart _ => 0
  | .engineSourceRead _ => 0
  | .engineComplete _ => 0
  | .collChunkDelivered _ => 0
  | .matrixOpStart _ => 0
  | .matrixFetchPageMiss _ => 0
  | .matrixOpComplete _ _ => 0
  | .selfTestPeriodic _ _ _ => 0
  | .kick _ _ _ _ => 0
  | .packetFetch _ => 0
  | .markReread _ => 0
  | .bodyCheckRetry _ => 0
  | .launchPacket _ => 0
  | .continuationPacket _ => 0
  | .enginePacket _ => 0
  | .waitPacket _ => 0
  | .waitReread _ _ => 0
  | .signalPacket _ => 0
  | .graphPacket _ => 0
  | .graphNodeStart _ _ => 0
  | .notifyPacket _ => 0
  | .notifyTakenReread _ _ => 0
  | .notifyTimeInterrupt _ => 0
  | .dependenceReread _ => 0
  | .evringWrite _ _ _ => 0
  | .sdmodeWrite _ _ => 0
  | .sdmodeTakeEffect _ => 0
  | .cpLoad _ _ => 0
  | .cpCastle => 0
  | .cpPowerOff => 0
  | .castlingImport _ => 0
  | .castlingTimeout => 0
  | .createContext _ => 0
  | .destroyContext _ => 0
  | .registerQueue _ => 0
  | .resetQueue _ => 0
  | .preempt _ => 0
  | .drainBoundExpiry _ => 0
  | .evictBoundExpiry _ => 0
  | .resume _ => 0
  | .gangRestore _ _ => 0
  | .invalidate _ => 0
  | .invalidationAck _ _ => 0
  | .resolve _ => 0
  | .refuse _ => 0
  | .migratePage _ => 0
  | .rebuildChannel _ => 0
  | .rebuildStep _ _ => 0
  | .beginLayerMapOut _ => 0
  | .confirmLayerRemoval _ => 0
  | .mapOutCopyStep _ _ => 0
  | .patrolScrub _ _ _ => 0
  | .bankModeWrite _ _ _ _ => 0
  | .bankModeChangeComplete _ _ _ => 0
  | .partitionEnable _ _ => 0
  | .scrubComplete _ _ _ => 0
  | .ringTransfer _ _ => 0
  | .hostMemRequest _ _ _ _ _ _ _ => 0
  | .backInvalidationResponse _ _ _ _ _ => 0
  | .hostSnoop _ _ _ _ _ _ _ => 0
  | .linkDown _ => 0
  | .viralReceived _ => 0
  | .completionTimeout _ => 0
  | .routeFreeze _ => 0
  | .routeUnfreeze _ _ => 0
  | .ptmExchange _ _ => 0
  | .ptmHoldoverTimeout _ => 0
  | .governorTick _ _ _ => 0
  | .powerUp _ => 0
  | .bootLoadConfig _ _ => 0
  | .idpubReceived _ => 0
  | .idpubTimeout _ => 0
  | .bootProduceQuote _ => 0
  | .quoteWriteComplete _ _ => 0
  | .capbaseWrite _ _ => 0
  | .registerWrite _ _ _ => 0
  | .illegalInstruction _ => 0
  | .fetchFault _ _ => 0
  | .savedGangDeadline _ => 0
  | .linkUp _ => 0

/-- The word of an instruction (R52). -/
def encode (i : Instr) : BitVec 32 := BitVec.ofNat 32 i.encodeNat

/-- The instruction a word stands for. The fields are read first; a word whose unnamed bits are not all 0 (R56), or
whose fields break a rule of its row (R53 to R77), is refused by name. -/
def decode (w : BitVec 32) : Except DecodeError Instr :=
  match decodeFields w.toNat with
  | .error e => .error e
  | .ok i => if i.encodeNat = w.toNat then
      match i.formError with
      | some e => .error e
      | none => .ok i
    else .error .reservedBits

/-- The word at the head of a little-endian byte sequence (R51), if four bytes are there. -/
def wordOfBytes : List Byte → Option (BitVec 32)
  | b0 :: b1 :: b2 :: b3 :: _ => some (b3 ++ b2 ++ b1 ++ b0)
  | _ => none

/-- The four bytes of a word, in memory order (R51). -/
def bytesOfWord (w : BitVec 32) : List Byte :=
  [w.extractLsb' 0 8, w.extractLsb' 8 8, w.extractLsb' 16 8, w.extractLsb' 24 8]

/-- The decoder on bytes, answering the instruction and the bytes that follow it. -/
def decodeBytes (bs : List Byte) : Except DecodeError (Instr × List Byte) :=
  match wordOfBytes bs with
  | none => .error .reservedBits
  | some w => match decode w with
    | .ok i => .ok (i, bs.drop 4)
    | .error e => .error e

/-- The instruction the decoder reads from an instruction whose bits are `w`, bit 0 the least significant bit of the
one 32-bit word; bits above `nbits` are 0. -/
def decodeTableWord (nbits w : Nat) : Option Instr :=
  match decodeBytes (bytesOfWord (BitVec.ofNat 32 (w % 2 ^ nbits))) with
  | .ok (i, _) => some i
  | .error _ => none

end Sys2Proof
end

