-- ==== Sys2Proof/Machine/Tensor.lean ====
section
/-! DEFINITION. Tensor-identifier entries (R85 to R92, R227 to R229): their image, the checks of TIDW, element addresses
in every layout, and the values a matrix port reads. -/
namespace Sys2Proof.Machine

/-! ### Formats of entries -/

/-- The ordinary format of a code below 14 (R85). -/
def codeTy : Nat → Option NumTy
  | 0 => some .f64 | 1 => some .f32 | 2 => some .f16 | 3 => some .bf16 | 4 => some .e4m3 | 5 => some .e5m2
  | 6 => some .i8 | 7 => some .i16 | 8 => some .i32 | 9 => some .i64
  | 10 => some .n8 | 11 => some .n16 | 12 => some .n32 | 13 => some .n64
  | _ => none

/-- Element bits of a format code (R85). -/
def elementBits (code : Nat) : Nat :=
  match codeTy code with
  | some t => t.bits
  | none => if code = 18 ∨ code = 19 then 4 else 8

/-- A format code of R85. -/
def formatOk (code : Nat) : Bool := decide (code < 14) || decide (16 ≤ code ∧ code < 20)

/-- A block format (R86). -/
def Tensor.isBlock (t : Tensor) : Bool :=
  t.format == 16 || t.format == 17 || t.format == 18 || (t.format == 19 && t.scale != 0)

/-- Kept elements of a group of 12 (R90). -/
def Tensor.kept (t : Tensor) : Nat := match t.sparsity with | 1 => 3 | 2 => 4 | 3 => 6 | _ => 12

/-- The formats that the B port takes sparse (R92). -/
def Tensor.sparseOk (t : Tensor) : Bool :=
  (decide (2 ≤ t.format ∧ t.format ≤ 5)) || (t.format == 19 && t.scale == 0)

/-! ### The image (R227) -/

/-- Field of an image. -/
def imageField (b : List Byte) (off n : Nat) : Nat := leNat ((b.drop off).take n)

/-- The entry that an image describes. -/
def tensorOf (b : List Byte) : Tensor :=
  { format := imageField b 0 1, sparsity := imageField b 1 1, layout := imageField b 2 1, dims := imageField b 3 1
    fill := BitVec.ofNat 64 (imageField b 8 8), base := BitVec.ofNat 64 (imageField b 16 8)
    extents := (List.range 5).map (fun k => imageField b (24 + 4 * k) 4)
    strides := (List.range 4).map (fun k => imageField b (48 + 8 * k) 8)
    scale := BitVec.ofNat 64 (imageField b 80 8), codebook := BitVec.ofNat 64 (imageField b 88 8) }

/-- The checks of TIDW (R229) pass. -/
def imageOk (b : List Byte) : Bool :=
  let t := tensorOf b
  let z := elementBits t.format / 8
  formatOk t.format && decide (t.layout ≤ 4) && decide (t.sparsity ≤ 3) && decide (1 ≤ t.dims ∧ t.dims ≤ 5) &&
  (List.range 5).all (fun k => if k < t.dims then decide (1 ≤ t.extent k ∧ t.extent k < 2 ^ 31) else t.extent k == 1) &&
  (z == 0 || t.base.toNat % z == 0) &&
  imageField b 4 4 == 0 && imageField b 44 4 == 0 && imageField b 96 32 == 0 &&
  (!t.isBlock || t.extent 0 % 32 == 0) &&
  (t.sparsity == 0 || (t.extent 0 % 12 == 0 && t.sparseOk)) &&
  (elementBits t.format != 4 || (t.extent 0 % 2 == 0 && (t.layout == 0 || t.layout == 2))) &&
  (t.format != 19 || t.codebook.toNat % 32 == 0)

/-! ### Elements -/

/-- Every coordinate lies within its extent (R305). -/
def Tensor.inBounds (t : Tensor) (i : List Int) : Bool :=
  (List.range 5).all (fun k => let x := i.getD k 0; decide (0 ≤ x) && decide (x < (t.extent k : Int)))

/-- The position of an element in units of its size in nibbles: twice the byte address, plus one for the high half of a
4-bit element (R87, R228). Coordinates are within bounds. In a sparse tensor i0 counts the kept values of the row. -/
def Tensor.nibble (t : Tensor) (i : List Int) : Nat :=
  let x := fun k => (i.getD k 0).toNat
  let h := elementBits t.format / 4
  let top := t.base.toNat + x 2 * t.stride 2 + x 3 * t.stride 3 + x 4 * t.stride 4
  let tile := fun (inner : Nat) =>
    2 * (top + x 1 / 32 * t.stride 1) + x 0 / 32 * (1024 * h) + inner * h
  match t.layout with
  | 0 => 2 * (top + x 1 * t.stride 1) + x 0 * h
  | 1 => 2 * (top + x 0 * t.stride 1) + x 1 * h
  | 2 => tile (x 1 % 32 * 32 + x 0 % 32)
  | 3 => tile (x 0 % 32 * 32 + x 1 % 32)
  | _ => tile (x 0 % 32 / 4 * 128 + x 1 % 32 * 4 + x 0 % 4)

/-- The byte address of an element, wrapped to 64 bits. -/
def Tensor.address (t : Tensor) (i : List Int) : Nat := t.nibble i / 2 % 2 ^ 64

/-- The rows of the scale array before a row (R86): ((i4 E3 + i3) E2 + i2) E1 + i1. -/
def Tensor.row (t : Tensor) (i : List Int) : Nat :=
  let x := fun k => (i.getD k 0).toNat
  ((x 4 * t.extent 3 + x 3) * t.extent 2 + x 2) * t.extent 1 + x 1

/-- The address of an element's scale byte (R86). -/
def Tensor.scaleAddress (t : Tensor) (i : List Int) : Nat :=
  (t.scale.toNat + t.row i * (t.extent 0 / 32) + (i.getD 0 0).toNat / 32) % 2 ^ 64

/-- Where the sparsity indices start (R90). -/
def Tensor.indexBase (t : Tensor) : Nat := t.codebook.toNat + (if t.format = 19 then 32 else 0)

/-- A tile handle (R211): its identifier, its origins, and that bits [15:10] are 0. -/
structure Handle where
  id : Nat
  i0 : Int
  i1 : Int
  ok : Bool
  deriving DecidableEq, Repr

/-- Read a tile handle. -/
def handleOf (v : W64) : Handle :=
  { id := (v.extractLsb' 0 10).toNat, i0 := (v.extractLsb' 40 24).toInt, i1 := (v.extractLsb' 16 24).toInt
    ok := v.extractLsb' 10 6 == 0 }

/-! ### TIDW and TIDR -/

/-- The scratchpad of the issuing gang's kernel in bytes. -/
def State.spadSize (s : State) (g : Gang) : Nat := ((s.launchOf g).map (fun l => l.desc.spad)).getD 0

/-- The issuing wave as an agent that acts once for all its lanes: its first active lane, after every access that any lane
has issued (R106, R292). -/
def Issue.waveAgent (c : Issue) (s : State) (sc : Scope) : Agent :=
  let a := s.laneAgent c.g c.w c.first (c.wave.core.lane c.first) sc
  { a with know := { a.know with view := s.lanesView c.g c.w c.wave.core 0xFFFFFFFF } }

/-- The entry of an identifier as an agent's load finds it: one location, read whole (R229, R304). -/
def State.seeEntry (s : State) (a : Agent) (key : List Nat) (ctx id : Nat) : Option Tensor :=
  if (s.past (.entry ctx id) 0).isEmpty then s.entry ctx id
  else
    let b := (s.observe a (key ++ [id]) (.entry ctx id) 0 128).bytes
    if imageField b 0 1 = 0xFF then none else some (tensorOf b)

/-- A relaxed store of a whole entry (R229): waves whose speculative LDX or STX used it roll back (R301, R335). -/
def State.writeEntry (s : State) (au : Author) (ctx id : Nat) (t : Option Tensor) : State :=
  let s' : State := { s.modContext ctx (fun x => { x with tensors := Sparse.set none x.tensors id t }) with
    history := .store (au.stored (.entry ctx id) (s.tables (.entry ctx id)) s.history.length 0
      (match t with | some e => e.image | none => invalidImage) none) :: s.history }
  s.gangs.foldl (fun u p =>
    if s.ctxOf p.2 = ctx then
      (p.2.waves.mapIdx (fun w x => (w, x))).foldl (fun u q =>
        if (q.2.spec.map (fun sp => sp.entries.contains id)).getD false then u.rollbackWave p.1 q.1 0x0B0 else u) u
    else u) s'

/-- The common part of TIDW and TIDR: the identifier and offset, their traps and faults. -/
def tensorAccess (i : Instr) (a b : Reg) (effect : Issue → Nat → Nat → State) (s : State) :
    Host.Outcome State Fault Refusal :=
  issueWord i s (fun c =>
    let core := c.wave.core
    let id := core.uni a
    let off := (core.uni b).toNat
    if !c.any then c.done i s core
    else if core.uniMark b then c.fault s reasonPoison off 0 0
    else if off % 128 != 0 || id.extractLsb' 10 54 != 0 then c.trapActive i s
    else if s.spadSize c.gang < off + 128 then c.fault s reasonProtection off 0 0
    else effect c id.toNat off)

/-- The sector pieces of an image in scratchpad. -/
def imagePieces (off : Nat) : List (Target × Nat) := (List.range 8).map (fun k => (.spd (off + 16 * k), 16))

/-- What a TIDW reads: the image as a load of the lowest active lane finds it, sector by sector (R229, R285). -/
def Issue.readImage (c : Issue) (s : State) (off : Nat) : List Got :=
  let a := s.laneAgent c.g c.w c.first (c.wave.core.lane c.first) .none
  (imagePieces off).map (fun p => a.look [17] s p.1 p.2)

/-- TIDW (R227, R229). -/
def execTidw (a : Reg) (b : Reg) (s : State) : Host.Outcome State Fault Refusal :=
  tensorAccess (.tidw a b) a b (fun c id off =>
    let got := c.readImage s off
    let bytes := got.flatMap (fun x => x.bytes)
    let au := (c.waveAgent s .pkg).author false s.history.length 2
    if got.any (fun x => x.mark) then c.fault s reasonPoison off 0 0
    else if imageField bytes 0 1 = 0xFF then
      c.advanceIn (.tidw a b) ((s.setWave c.g c.w c.wave).writeEntry au (s.ctxOf c.gang) id none)
    else if !imageOk bytes then c.trapActive (.tidw a b) s
    else c.advanceIn (.tidw a b) ((s.setWave c.g c.w c.wave).writeEntry au (s.ctxOf c.gang) id (some (tensorOf bytes)))) s

/-- TIDR (R227, R229). -/
def execTidr (a : Reg) (b : Reg) (s : State) : Host.Outcome State Fault Refusal :=
  tensorAccess (.tidr a b) a b (fun c id off =>
    let ag := c.waveAgent s .pkg
    let bytes := match s.seeEntry ag [18] (s.ctxOf c.gang) id with
      | some t => t.image
      | none => invalidImage
    c.done (.tidr a b) (s.putSpad ({ ag with scope := .none }.author false s.history.length 0) c.g off bytes false)
      c.wave.core) s

end Sys2Proof.Machine
end

