-- ==== Sys2Proof/Machine/Engine.lean ====
section
/-! DEFINITION. Engine commands (R210 to R218, R302 to R313): their words and checks, the five submits, and the shared
operations by which an engine reads, writes, counts and completes. The events that drive an engine stand in
EngineEvents.lean. -/
namespace Sys2Proof.Machine

/-! ### Command words -/

/-- The engine code of a header (R211). -/
def EngineKind.code : EngineKind → Nat
  | .cpy => 1 | .gat => 2 | .sct => 3 | .bin => 4 | .coll => 5

/-- The queue register of an engine (R24). -/
def EngineKind.queue : EngineKind → Nat
  | .cpy => 0 | .gat => 1 | .sct => 2 | .bin => 3 | .coll => 4

/-- Bits hi down to lo of a word. -/
def field (v : W64) (hi lo : Nat) : Nat := v.toNat / 2 ^ lo % 2 ^ (hi + 1 - lo)

/-- Header fields (R211). -/
def hdrMode (h : W64) : Nat := field h 45 45
def hdrGroup (h : W64) : Nat := field h 51 48
def hdrBin (h : W64) : Nat := field h 43 32
def hdrReport (h : W64) : Bool := has h 52
def hdrLength (h : W64) : Nat := field h 31 0

/-- Parameter words of an engine in a mode (R212); none for a mode the engine lacks. -/
def EngineKind.words (k : EngineKind) (mode : Nat) : Option Nat :=
  match k, mode with
  | .cpy, 0 => some 2
  | .cpy, _ => some 3
  | .gat, 0 => some 4
  | .sct, 0 => some 4
  | .bin, _ => some 3
  | .coll, _ => some 5
  | _, _ => none

/-- Parameter word k, from 1. -/
def param (ps : List W64) (k : Nat) : W64 := ps.getD (k - 1) 0

/-- The handles that a command names (R212). -/
def commandHandles (k : EngineKind) (mode : Nat) (ps : List W64) : List W64 :=
  match k with
  | .cpy => if mode = 1 then [param ps 1, param ps 2] else []
  | .gat => [param ps 2]
  | .sct => [param ps 3]
  | _ => []

/-- The parameter words keep to the layout of R212. DESIGN CHOICE (assumption 113): bits [63:16] of a GAT's or SCT's
w4 must be 0 as well, which the table says of the other parameter words only. -/
def paramsOk (k : EngineKind) (mode len : Nat) (members : List Nat) (ps : List W64) : Bool :=
  match k with
  | .cpy => mode == 0 || decide (1 ≤ (param ps 3).toNat ∧ (param ps 3).toNat ≤ 65535)
  | .gat => decide (1 ≤ (param ps 4).toNat ∧ (param ps 4).toNat ≤ 65535)
  | .sct => decide (1 ≤ (param ps 4).toNat ∧ (param ps 4).toNat ≤ 65535)
  | .bin => decide (1 ≤ (param ps 3).toNat ∧ (param ps 3).toNat ≤ 4096)
  | .coll =>
    let w := param ps 4
    let mask := field w 11 0
    field w 15 12 == 0 && field w 63 28 == 0 && field w 27 16 != 0 &&
    (List.range 12).all (fun st => !mask.testBit st || members.contains st) &&
    (mode == 0 || len % popCount mask 12 == 0)

/-- The header keeps to R211 for the engine; `held` is bit 0 of the submit. -/
def headerOk (k : EngineKind) (held : Bool) (h : W64) : Bool :=
  let scope := field h 55 53
  field h 63 60 == k.code &&
  (k.words (hdrMode h)) == some (field h 59 56) &&
  decide (1 ≤ scope ∧ scope ≤ 5) && (k != .coll || decide (4 ≤ scope)) &&
  field h 44 44 == 0 && (held || hdrBin h == 0) &&
  (field h 47 46 == 0 || (held && k == .cpy && hdrMode h == 0))

/-! ### Submitting -/

/-- The entries a command captures at submit (R304), as an agent sees them; `none` when one is invalid, of a forbidden
format or sparse. -/
def State.capture (s : State) (a : Agent) (ctx : Nat) (hs : List W64) : Option (List (Option Tensor)) :=
  hs.foldr (fun h r =>
    match r, s.seeEntry a [18] ctx (handleOf h).id with
    | some xs, some t =>
      if (handleOf h).ok && decide (t.format < 14) && t.sparsity == 0 then some (some t :: xs) else none
    | _, _ => none) (some [])

/-- Unreleased held commands of a gang (R213). -/
def State.heldCount (s : State) (g : Nat) : Nat :=
  (s.commands.filter (fun p => p.2.state == .held && (match p.2.owner with | .wave k _ => k == g | _ => false))).length

/-- A new key. -/
def State.fresh (s : State) : Nat × State := (s.nextId, { s with nextId := s.nextId + 1 })

/-- Add a command under a new key. -/
def State.addCommand (s : State) (x : Command) : State :=
  let p := s.fresh
  { p.2 with commands := p.2.commands ++ [(p.1, { x with order := p.1 })] }

/-- A report word (R215). -/
def reportWord (code status units : Nat) : W64 := BitVec.ofNat 64 (code * 2 ^ 60 + status * 2 ^ 56 + units % 2 ^ 32)

/-- The end of a command of a wave: both token bits with a status, and the report word when asked (R214, R215). `v` is
what happens before its completion (R292). -/
def State.commandEnd (s : State) (x : Command) (status units : Nat) (v : Seen) : State :=
  match x.owner with
  | .queue _ _ => s
  | .wave g w =>
    let s := s.setToken g w x.token status true true v
    let s := if hdrReport x.header then s.report g w x.kind.queue ⟨reportWord x.kind.code status units, false, v⟩ else s
    s.settleGangQueues g

/-- The cluster of a core (R27). -/
def clusterOf (core : Nat) : Nat := core / 4 % 4

/-- The partition's stacks as a gang sees them. -/
def State.partitionStacks (s : State) (ctx : Nat) : List Nat := s.members (s.partitionOf ctx)

/-- A command that nothing has been done for yet. -/
def Command.new (k : EngineKind) (o : Owner) (ctx st cluster : Nat) (h : W64) (ps : List W64) (es : List (Option Tensor))
    (token : Option Nat) (counter : W64) (held : Bool) (view : Seen) : Command :=
  { kind := k, owner := o, ctx := ctx, stack := st, cluster := cluster, header := h, params := ps, entries := es
    token := token, counter := counter, length := hdrLength h, state := if held then .held else .queued, order := 0
    idx := none, got := [], put := [], chunks := [], landed := [], poison := false, late := false
    heldPage := none, view := view }

/-- What happens before an operation that the wave forks (R292): what any of its lanes has issued, and the MATOMs that
it has performed. Those still pending are performed before the operation's first access. -/
def Issue.forkView (c : Issue) (s : State) : Seen :=
  Seen.join (s.lanesView c.g c.w c.wave.core 0xFFFFFFFF) c.wave.matoms

/-- The common meaning of the submits (R210 to R214). DESIGN CHOICE (assumption 112): the limit of 64 unreleased held
commands stops held submits only. -/
def submit (i : Instr) (k : EngineKind) (nw : Bool) (d a : Reg) (held : Bool) (s : State) :
    Host.Outcome State Fault Refusal :=
  issueWord i s (fun c =>
    let core := c.wave.core
    let q := c.wave.push.getD k.queue []
    let ctx := s.ctxOf c.gang
    if !c.any then c.done i s core
    else if core.uniMark a then c.fault s reasonPoison 0 0 0
    else match q with
    | [] => c.trapActive i s
    | hw :: rest =>
      let h := hw.val
      let n := field h 59 56
      let ps := (rest.take n).map (fun x => x.val)
      let counter := core.uni a
      if hw.mark || (rest.take n).any (fun x => x.mark) then c.fault s reasonPoison 0 0 0
      else if rest.length < n || !headerOk k held h ||
          !paramsOk k (hdrMode h) (hdrLength h) (s.partitionStacks ctx) ps || counter.toNat % 8 != 0 ||
          (held && decide (64 ≤ s.heldCount c.g)) then c.trapActive i s
      else match s.capture (c.waveAgent s .pkg) ctx (commandHandles k (hdrMode h) ps) with
      | none => c.trapActive i s
      | some es =>
        let formats := es.filterMap (fun e => e.map (fun t => t.format))
        if k == .cpy && formats.eraseDups.length == 2 then c.trapActive i s
        else
          let token := tokenField nw d
          let cmd := Command.new k (.wave c.g c.w) ctx c.gang.stack (clusterOf c.wave.coreId) h ps es token counter held
            (c.forkView s)
          let wave := { c.wave with push := c.wave.push.set k.queue (rest.drop n) }.newToken token
          let t := { c with wave := wave }.done i s wave.core
          -- a command of length 0, other than BIN, ends at once (R214)
          if !held && hdrLength h == 0 && k != .bin then t.commandEnd cmd 0 0 [] else t.addCommand cmd)

/-- CPY (R210, R212). -/
def execCpy (nw : Bool) (d : Reg) (a : Reg) (h : Bool) (s : State) : Host.Outcome State Fault Refusal :=
  submit (.cpy nw d a h) .cpy nw d a h s

/-- GAT (R210, R212). -/
def execGat (nw : Bool) (d : Reg) (a : Reg) (h : Bool) (s : State) : Host.Outcome State Fault Refusal :=
  submit (.gat nw d a h) .gat nw d a h s

/-- SCT (R210, R212). -/
def execSct (nw : Bool) (d : Reg) (a : Reg) (h : Bool) (s : State) : Host.Outcome State Fault Refusal :=
  submit (.sct nw d a h) .sct nw d a h s

/-- BIN (R210, R217). -/
def execBin (nw : Bool) (d : Reg) (a : Reg) (s : State) : Host.Outcome State Fault Refusal :=
  submit (.bin nw d a) .bin nw d a false s

/-- COLL (R210, R212). -/
def execColl (nw : Bool) (d : Reg) (a : Reg) (h : Bool) (s : State) : Host.Outcome State Fault Refusal :=
  submit (.coll nw d a h) .coll nw d a h s

/-! ### What an engine reaches -/

/-- Ranges of addresses as pieces inside 16-byte sectors. -/
def sectorPieces (va : Nat) : Nat → List (Nat × Nat)
  | 0 => []
  | n + 1 =>
    let total := n + 1
    let first := min total (16 - va % 16)
    (va, first) :: (List.range ((total - first + 15) / 16)).map (fun k =>
      (va + first + 16 * k, min 16 (total - first - 16 * k)))

/-- The naturally aligned pieces of an element (R285, R293). -/
def elementPieces (va n : Nat) : List (Nat × Nat) :=
  let k := pieceSize va n
  (List.range (n / k)).map (fun i => (va + k * i, k))

/-- What an engine meets on a list of ranges; `wait` names host lines to recall, if any. -/
inductive Reach
  | ok (ps : List (Target × Nat))
  | hold (page : Nat)
  | wait (lines : List Nat)
  | fault (reason va : Nat)
  deriving DecidableEq, Repr

/-- Who an engine works for: the gang whose scratchpad it reaches, or none. -/
def Owner.gang : Owner → Option Nat
  | .wave g _ => some g
  | .queue _ _ => none

/-- The scratchpad size behind the aperture for an owner (R276); a packet has none. -/
def State.ownerSpad (s : State) (o : Owner) : Nat :=
  match o with
  | .wave g _ => ((aget s.gangs g).map s.spadSize).getD 0
  | .queue _ _ => 0

/-- Check pieces in order for a lane of a core, or for an engine; the first that fails decides (R213). -/
def State.reachFrom (s : State) (ctx st : Nat) (core : Option Nat) (lane spad : Nat) (a : Access) (write : Bool) :
    List (Nat × Nat) → Reach
  | [] => .ok []
  | (va, n) :: rest =>
    match s.pieceFate ctx st spad ⟨.gen, va % 2 ^ 64, n, false, a, write, false, core, lane⟩ (va % 2 ^ 64) n with
    | .fault reason addr => .fault reason addr
    | .trap => .fault reasonProtection va
    | .hold page => .hold page
    | .wait lines => .wait lines
    | .ok ps =>
      match s.reachFrom ctx st core lane spad a write rest with
      | .ok qs => .ok (ps ++ qs)
      | r => r

/-- The same for an engine. -/
def State.reach (s : State) (ctx st spad : Nat) (a : Access) (write : Bool) (ps : List (Nat × Nat)) : Reach :=
  s.reachFrom ctx st none 64 spad a write ps

/-- Do something with pieces, once no route is frozen and the host has given back the lines in the way (R350, R357). -/
def State.whenClear (s : State) (st : Nat) (write : Bool) (ps : List (Target × Nat)) (next : State) : State :=
  if s.frozenPieces st ps then s
  else if (s.recallLines write ps).isEmpty then next
  else s.backInvalidate (s.recallLines write ps)

/-- The bytes of what was read, with their poison. -/
def gotBytes (xs : List Got) : List (Byte × Bool) := xs.flatMap (fun x => x.bytes.map (fun b => (b, x.mark)))

/-- Write one element of an operation at its target. A poisoned element poisons its sector; clean data clears a sector
only when all of it is the operation's (R180, `cleanSectors`). -/
def State.storeElement (s : State) (a : Agent) (st : Nat) (bs : List Byte) (mark : Bool) (t : Target) : State :=
  let au := a.author false s.history.length (s.pointOf 0 st t false)
  let m := if mark then some true else none
  match t with
  | .spd off =>
    let g := a.place.gang.getD 0
    (s.writeSpadElement au g off bs m).conflicts au.own (some g) (sectors off bs.length)
  | .mem pa leaf _ =>
    if s.portDown st pa then s.failedWrite au st pa bs.length mark
    else
      let s := if !isLocal pa && has leaf.bits 7 then s.touch st pa true else s
      (s.writeElement au pa bs m).conflicts au.own none (sectors pa bs.length)

/-- A sector holds only clean bytes of this thread. -/
def State.ownClean (s : State) (thread : Nat) (space : Region) (n : Nat) : Bool :=
  let mine := (s.past space (16 * n)).filter (fun x => x.thread == thread)
  (List.range 16).all (fun i => mine.any (fun x => x.covers (16 * n + i))) && !mine.any (fun x => x.mark == some true)

/-- The writes of an operation are complete: a poisoned sector that they cover with clean data is clean (R180). -/
def State.cleanSectors (s : State) (a : Agent) : State :=
  let g := a.place.gang.getD 0
  let au := a.author false s.history.length 2
  let mem := (s.poison.filter (fun p => s.ownClean a.thread .mem p.1)).map (fun p => p.1)
  let spad := match a.place.gang.bind (aget s.gangs) with
    | none => []
    | some x => (x.spadPoison.filter (fun (p : Nat × Bool) => s.ownClean a.thread (.spad g) p.1)).map (fun (p : Nat × Bool) => p.1)
  let t := mem.foldl (fun u n => u.writeElement au (16 * n) [] (some false)) s
  spad.foldl (fun u n => u.writeSpadElement au g (16 * n) [] (some false)) t

/-- The stop-record facts of an engine's fault (R411, R414). -/
def engineHalt (s : State) (x : Command) (reason va : Nat) : Halt :=
  let slot := match x.kind with | .cpy => 16 + x.cluster | .gat => 20 | .sct => 20 | .bin => 21 | .coll => 22
  let launch := match x.owner with | .wave g _ => ((aget s.gangs g).map s.launchid).getD 0 | _ => 0
  { src := none, reason := reason, stack := x.stack, slot := slot, ctx := x.ctx, launch := launch, pc := x.header
    addr := BitVec.ofNat 64 va, wave := 0xFF, performed := 0, skipped := 0, written := false }

/-- Remove a command. -/
def State.delCommand (s : State) (k : Nat) : State := { s with commands := adel s.commands k }

/-- Change a command. -/
def State.modCommand (s : State) (k : Nat) (f : Command → Command) : State :=
  { s with commands := amod s.commands k f }

/-- An engine's fault: the halt line rises and the command is abandoned (R213, R218). -/
def State.commandFault (s : State) (k : Nat) (x : Command) (reason va : Nat) : State :=
  (s.delCommand k).raiseHalt (engineHalt s x reason va)

/-- An engine's hold on a page: the page is asked for (R213, R398). -/
def State.commandHold (s : State) (k : Nat) (x : Command) (page : Nat) : State :=
  (s.modCommand k (fun c => { c with heldPage := some page })).pageRequest x.ctx x.stack page .engine

/-- The completion record of a gang's launch comes after what one of its operations has done (R291). -/
def State.gangDid (s : State) (g : Nat) (v : Seen) : State :=
  match aget s.gangs g with
  | none => s
  | some x => s.modLaunch x.launch (fun l => { l with finish := Seen.join l.finish v })

/-- The scope of a code of R73. -/
def scopeOf : Nat → Scope
  | 1 => .wave | 2 => .gang | 3 => .stack | 4 => .pkg | 5 => .sys
  | _ => .none

/-- The rise of a counter: an atomic add at its address, performed where a `.stack` atomic is, which is a release at the
agent's scope (R214, R311). -/
def State.riseAt (s : State) (a : Agent) (st amount : Nat) : List (Target × Nat) → State
  | [] => s
  | (t, _) :: _ =>
    (s.atomicAt a (a.heads true s.history.length) st (s.pointOf 0 st t false) false t 8 false
      (fun old => some (old + BitVec.ofNat 64 amount))).state

/-! ### The work of a command -/

/-- One element, or byte, that a command moves: from an address or a fill value, to an address or nowhere. `plus` is
added to it, and `bad` makes it poisoned zeros. -/
structure Move where
  src : Option Nat
  fill : W64
  plus : Nat
  bad : Bool
  dst : Option Nat
  size : Nat
  deriving DecidableEq, Repr

/-- A move of one element out of a tensor. -/
def Tensor.source (t : Tensor) (i : List Int) : Option Nat := if t.inBounds i then some (t.address i) else none

/-- The counts of a BIN (R217): cnt[d] for d below D. -/
def binCounts (d : Nat) (items : List (Nat × Bool)) : List Nat :=
  (List.range d).map (fun k => (items.filter (fun x => !x.2 && x.1 == k)).length)

/-- The moves of a command (R212, R217); `idx` are the index words with their poison. A row whose index is poisoned is
gathered as poisoned zeros and scattered nowhere (assumption 8). A COLL's bytes go where its chunks are delivered. -/
def Command.moves (x : Command) (idx : List (Nat × Bool)) : List Move :=
  let ps := x.params
  match x.kind, x.entries with
  | .cpy, [some a, some b] =>
    let h := handleOf (param ps 1)
    let k := handleOf (param ps 2)
    let z := elementBits a.format / 8
    (List.range x.length).flatMap (fun (i : Nat) => (List.range (field (param ps 3) 15 0)).map (fun (j : Nat) =>
      ⟨a.source [h.i0 + (j : Int), h.i1 + (i : Int)], a.fill, 0, false, b.source [k.i0 + (j : Int), k.i1 + (i : Int)], z⟩))
  | .cpy, _ =>
    (List.range x.length).map (fun i =>
      ⟨some ((param ps 1).toNat + i), 0, 0, false, some (((param ps 2).toNat + i) % 2 ^ 64), 1⟩)
  | .gat, [some a] =>
    let h := handleOf (param ps 2)
    let z := elementBits a.format / 8
    let width := field (param ps 4) 15 0
    (idx.mapIdx (fun k v => (k, v))).flatMap (fun q => (List.range width).map (fun (j : Nat) =>
      let dst : Nat := ((param ps 3).toNat + (q.1 * width + j) * z) % 2 ^ 64
      if q.2.2 then ⟨none, 0, 0, true, some dst, z⟩
      else ⟨a.source [h.i0 + (j : Int), (q.2.1 : Int)], a.fill, 0, false, some dst, z⟩))
  | .sct, [some b] =>
    let h := handleOf (param ps 3)
    let z := elementBits b.format / 8
    let width := field (param ps 4) 15 0
    (idx.mapIdx (fun k v => (k, v))).flatMap (fun q =>
      if q.2.2 then [] else (List.range width).map (fun (j : Nat) =>
        ⟨some ((param ps 2).toNat + (q.1 * width + j) * z), 0, 0, false, b.source [h.i0 + (j : Int), (q.2.1 : Int)], z⟩))
  | .bin, _ =>
    (binCounts (param ps 3).toNat idx).mapIdx (fun e n =>
      let at_ := ((param ps 2).toNat + 4 * e) % 2 ^ 64
      ⟨if hdrMode x.header = 1 then some at_ else none, 0, n, false, some at_, 4⟩)
  | .coll, _ => (List.range x.length).map (fun i => ⟨some ((param ps 1).toNat + i), 0, 0, false, none, 1⟩)
  | _, _ => []

/-- What a move writes of the bytes that it read. -/
def Move.value (m : Move) (bs : List (Byte × Bool)) : List Byte × Bool :=
  if m.bad then (List.replicate m.size 0, true)
  else
    let v := match m.src with | some _ => leNat (bs.map (fun b => b.1)) | none => m.fill.toNat
    (natLe m.size (v + m.plus), bs.any (fun b => b.2))

/-- Index words of a command: its index list as 32-bit words with their poison. -/
def indexWords (bs : List (Byte × Bool)) : Nat → List (Nat × Bool)
  | 0 => []
  | n + 1 => (leNat ((bs.take 4).map (fun b => b.1)), (bs.take 4).any (fun b => b.2)) :: indexWords (bs.drop 4) n

/-- The command reads an index list first. -/
def EngineKind.indexed : EngineKind → Bool
  | .gat => true | .sct => true | .bin => true
  | _ => false

/-- A command has performed one of its accesses (R218). -/
def Command.begun (x : Command) : Bool :=
  x.idx.isSome || !x.got.isEmpty || x.state == .read || x.state == .wrote

/-- pre[d], the sum of cnt[e] for e below d. -/
def binBefore (cnt : List Nat) (d : Nat) : Nat := (cnt.take d).foldl (fun n x => n + x) 0

/-- A held command after its patch (R217), released. -/
def Command.patch (h : Command) (cnt : List Nat) : Command :=
  let l0 := h.length
  let b := hdrBin h.header
  let shift := fun (on : Bool) (v : W64) => if on then v + BitVec.ofNat 64 (binBefore cnt b * l0) else v
  { h with
    length := cnt.getD b 0 * l0 % 2 ^ 32
    params := match h.params with
      | w1 :: w2 :: rest => shift (has h.header 47) w1 :: shift (has h.header 46) w2 :: rest
      | ps => ps
    state := .queued }

/-- Release a held command in its patched form; one of length 0 moves nothing and ends at once (R214, R217), a packet's
through its engine, which completes the packet. -/
def State.release (s : State) (k : Nat) (h : Command) : State :=
  if h.length = 0 then
    (match h.owner with
     | .wave _ _ => (s.delCommand k).commandEnd h 0 0 []
     | .queue _ _ => s.modCommand k (fun _ => { h with state := .read }))
  else s.modCommand k (fun _ => h)

/-- A BIN of this owner patches held commands of that one: of its gang; for packets, of its queue and stack (R217,
R371). -/
def Command.patches (bin h : Command) : Bool :=
  hdrGroup h.header == hdrGroup bin.header && decide (h.order < bin.order) &&
  (match bin.owner, h.owner with
   | .wave g _, .wave k _ => g == k
   | .queue q _, .queue k _ => q == k && bin.stack == h.stack
   | _, _ => false)

/-- Release the held commands of a group that reached the engine before this BIN, in arrival order (R217). -/
def State.patchGroup (s : State) (bin : Command) (cnt : List Nat) : State :=
  (s.commands.filter (fun p => p.2.state == .held && bin.patches p.2)).foldl
    (fun t p => t.release p.1 (p.2.patch cnt)) s

/-- The last lane of a wave has exited: its unreleased held commands are released with length 0 (R217). -/
def State.releaseWave (s : State) (g w : Nat) : State :=
  (s.commands.filter (fun p => p.2.state == .held && p.2.owner == .wave g w)).foldl
    (fun t p => t.release p.1 { p.2 with length := 0, state := .queued }) s

end Sys2Proof.Machine
end

