-- ==== Sys2Proof/Machine/System.lean ====
section
/-! DEFINITION. The system instructions (R230 to R235, R242): NOP, TRAP, TRET, BRK, GETS, SETS, XEN and XFLG. -/
namespace Sys2Proof.Machine

/-- NOP (R231). -/
def execNop (s : State) : Host.Outcome State Fault Refusal :=
  issueWord .nop s (fun c => c.done .nop s c.wave.core)

/-! ### TRAP and BRK -/

/-- TRAP (R235). -/
def execTrap (n : BitVec 7) (s : State) : Host.Outcome State Fault Refusal :=
  issueWord (.trap n) s (fun c =>
    c.finish (.trap n) s s c.wave.core c.active (fun _ => causeTrap n.toNat) (c.entry.pc + 4))

/-- The break event (R235, R382), when the context asks for it and lanes are recorded. -/
def Issue.breakEvent (c : Issue) (s : State) (n : BitVec 7) : State :=
  let ctx := s.ctxOf c.gang
  let asks := ((aget s.contexts ctx).map Context.breakNotify).getD false
  if asks && !c.wave.core.handler && c.wave.spec.isNone && c.any then
    s.event 0x0002 c.gang.stack ctx (natLe 8 (s.launchid c.gang).toNat ++ natLe 8 c.entry.pc.toNat ++
      natLe 1 c.wave.coreId ++ natLe 1 c.w ++ natLe 1 n.toNat)
  else s

/-- BRK (R235). -/
def execBrk (n : BitVec 7) (s : State) : Host.Outcome State Fault Refusal :=
  issueWord (.brk n) s (fun c =>
    c.finish (.brk n) s (c.breakEvent s n) c.wave.core c.active (fun _ => causeBrk n.toNat) (c.entry.pc + 4))

/-! ### TRET (R242) -/

/-- The reads of a lane's fields of the trap record: priority, guard and resume PC (R240, R242). -/
def tretRequests (record n : Nat) : List (Nat × Nat) :=
  [((record + 96 + n) % 2 ^ 64, 1), ((record + 128 + n) % 2 ^ 64, 1), ((record + 256 + 8 * n) % 2 ^ 64, 8)]

/-- What a lane's reads give: the values, a hold, a wait for host lines or a frozen route, or a fault. -/
inductive TretRead
  | ok (r : TrapReturn)
  | hold (page : Nat)
  | wait (lines : List Nat)
  | fault (reason va : Nat)
  deriving DecidableEq, Repr

/-- The checks of R242 on what was read. -/
def tretValue (prio guard : Byte) (resume : W64) (record : Nat) : TretRead :=
  if resume.extractLsb' 0 2 != 0 || resume.extractLsb' 56 8 != 0 || 16 < (guard.extractLsb' 0 5).toNat ||
      prio.extractLsb' 6 2 != 0 || guard.extractLsb' 6 2 != 0 then .fault reasonBadReturn record
  else .ok { resume := resume, prio := prio.setWidth 6, guardCount := (guard.extractLsb' 0 5).toNat
             guardIn := has guard 5 }

/-- The checks of a lane's reads (R179, R242). -/
def State.tretReach (s : State) (c : Issue) (record n : Nat) : Reach :=
  s.reachFrom (s.ctxOf c.gang) c.gang.stack (some c.wave.coreId) n (s.spadSize c.gang) .trapRecord false
    ((tretRequests record n).flatMap (fun r => elementPieces r.1 r.2))

/-- One lane, whose checks gave this, reads its fields, as loads of its own thread (R242); system pieces go through
the log (R445). -/
def State.tretLane (s : State) (c : Issue) (record n : Nat) (reach : Reach) : TretRead × State :=
  let st := c.gang.stack
  match reach with
  | .hold page => (.hold page, s)
  | .wait lines => (.wait lines, s)
  | .fault reason va => (.fault reason va, s)
  | .ok ps =>
    if s.frozenPieces st ps || !(s.recallLines false ps).isEmpty then (.wait (s.recallLines false ps), s)
    else
      let a := s.laneAgent c.g c.w n (c.wave.core.lane n) .none
      match State.readThrough (a.look [19, n]) st c.wave.coreId c.wave.slot (s.launchOf c.gang) ps
          (s.fillFrom (s.ctxOf c.gang) st (some c.wave.coreId) ps) with
      | none => (.wait [], s)
      | some (xs, t) =>
        if xs.any (fun x => x.mark) then (.fault reasonPoison record, t)
        else
          let bs := xs.flatMap (fun x => x.bytes)
          (tretValue (bs.getD 0 0) (bs.getD 1 0) (BitVec.ofNat 64 (leNat (bs.drop 2))) record, t)

/-- The lanes of a TRET with what their checks gave, one after another. -/
def State.tretLanes (c : Issue) (record : Nat) : List (Nat × Reach) → State → List (Nat × TretRead) × State
  | [], s => ([], s)
  | x :: xs, s =>
    let r := s.tretLane c record x.1 x.2
    let rest := State.tretLanes c record xs r.2
    ((x.1, r.1) :: rest.1, rest.2)

/-- The lanes that returned leave the frontier and wait for the end of handler mode (R242, R243). -/
def WaveCore.return (core : WaveCore) (k : Nat) (rs : List (Nat × TrapReturn)) : WaveCore :=
  ({ core.mapLanes (fun n l => match aget rs n with
      | some r => { l with returned := some r }
      | none => l) with
    frontier := core.frontier.eraseIdx k }).endHandlerIfOver

/-- TRET (R242): faults come before holds, and a hold, like a route or a host copy in the way, makes the whole instruction
wait. -/
def execTret (s : State) : Host.Outcome State Fault Refusal :=
  issueWord .tret s (fun c =>
    let ctx := s.ctxOf c.gang
    match aget s.contexts ctx, s.launchOf c.gang with
    | some x, some l =>
      let record := trapRecordAddress x l c.gang c.w
      let r := State.tretLanes c record ((bitsOf c.active).map (fun n => (n, s.tretReach c record n))) s
      let faults := r.1.filterMap (fun r => match r.2 with | .fault reason va => some (reason, va) | _ => none)
      let holds := r.1.filterMap (fun r => match r.2 with | .hold page => some page | _ => none)
      let waits := r.1.filterMap (fun r => match r.2 with | .wait lines => some lines | _ => none)
      let oks := r.1.filterMap (fun r => match r.2 with | .ok v => some (r.1, v) | _ => none)
      match faults[s.choose 10 faults.length]?, holds, waits with
      | some (reason, va), _, _ => c.fault s reason va 0 c.active
      | none, _ :: _, _ =>
        let t := holds.foldl (fun t p => t.pageRequest ctx c.gang.stack p .trapRecord) s
        t.setWave c.g c.w { c.wave with held := some ⟨.tret, c.active, holds.eraseDups, s.tick⟩ }
      | none, [], _ :: _ => (s.backInvalidate waits.flatten).recallLog c.gang.stack
      | none, [], [] =>
        let w := c.note s { c.wave with core := c.wave.core.return c.k oks }
        r.2.setWave c.g c.w { w with core := { w.core with last := none } }
    | _, _ => s)

/-! ### Special registers -/

/-- Numbers of R27 that this manual assigns. -/
def specialAssigned (a : Nat) : Bool := decide (a ≤ 0x12)

/-- The value of a special register in lane n (R27, R232); now is apart. -/
def State.special (s : State) (c : Issue) (n : Nat) (l : Lane) (a : Nat) : W64 :=
  match a with
  | 0x00 => BitVec.ofNat 64 n
  | 0x01 => BitVec.ofNat 64 c.w
  | 0x02 => BitVec.ofNat 64 c.gang.x
  | 0x03 => BitVec.ofNat 64 c.gang.y
  | 0x04 => BitVec.ofNat 64 c.gang.z
  | 0x05 => match s.launchOf c.gang with
    | some x => BitVec.ofNat 64 (x.desc.waves * 2 ^ 48 + x.desc.nz * 2 ^ 32 + x.desc.ny * 2 ^ 16 +
        if x.pool.isSome then 65535 else x.desc.nx)
    | none => 0
  | 0x06 => BitVec.ofNat 64 c.gang.stack
  | 0x07 => BitVec.ofNat 64 c.wave.coreId
  | 0x08 => BitVec.ofNat 64 (s.ctxOf c.gang)
  | 0x09 => s.launchid c.gang
  | 0x0B => BitVec.ofNat 64 (s.stack c.gang.stack).heat
  | 0x0C => l.ffpc
  | 0x0D => l.ffwhy.setWidth 64
  | 0x0E => l.xflags.setWidth 64
  | 0x0F => l.xenable.setWidth 64
  | 0x10 => c.wave.core.trapmask.setWidth 64
  | 0x11 => l.winbase.setWidth 64
  | 0x12 => l.seed.setWidth 64
  | _ => 0

/-- GETS of now (R29, R232): sampled once; a switch point that enters no latch. -/
def Issue.getNow (c : Issue) (i : Instr) (s : State) (nw : Bool) (d : Reg) : State :=
  match s.readNow c with
  | none => s
  | some (v, t) =>
    let core := c.wave.core.mapLanes (fun n l =>
      if c.on n && !nw then l.put64 d.toNat (BitVec.ofNat 64 v) false else l)
    let t := t.modGang c.g (fun x => { x with lastNow := max x.lastNow v })
    { c with wave := { c.wave with lastNow := max c.wave.lastNow v } }.done i t core

/-- GETS (R232). -/
def execGets (nw : Bool) (d : Reg) (a : Reg) (s : State) : Host.Outcome State Fault Refusal :=
  issueWord (.gets nw d a) s (fun c =>
    let i := Instr.gets nw d a
    if !specialAssigned a.toNat then c.trapWhole i s causeIllegalWord
    else if a.toNat = 0x0A then c.getNow i s nw d
    else c.done i s (c.valued nw (special64 a) d (fun n l => (s.special c n l a.toNat, false))))

/-- A lane's special register written with the adjustments of R28; other numbers are not writable. -/
def Lane.putSpecial (l : Lane) (a : Nat) (v : W32) : Option Lane :=
  match a with
  | 0x0E => some { l with xflags := v.setWidth 5 }
  | 0x0F => some { l with xenable := v.setWidth 5 }
  | 0x12 => some { l with seed := if v = 0 then 1 else v }
  | _ => none

/-- SETS (R233). -/
def execSets (a : Reg) (b : Reg) (s : State) : Host.Outcome State Fault Refusal :=
  issueWord (.sets a b) s (fun c =>
    let i := Instr.sets a b
    let core := c.wave.core
    if (Lane.gone.putSpecial a.toNat 0).isNone then c.trapWhole i s causeIllegalWord
    else if (bitsOf c.active).any (fun n => (core.lane n).marked b 1) then c.fault s reasonPoison 0 0 c.active
    else c.done i s (core.mapLanes (fun n l => if c.on n then (l.putSpecial a.toNat (l.src32 b)).getD l else l)))

/-- The effect of an op on a 5-bit register (R234). -/
def MaskOp.apply (o : MaskOp) (x m : BitVec 5) : BitVec 5 :=
  match o with
  | .write => m
  | .set => x ||| m
  | .clear => x &&& ~~~m

/-- XEN (R234). -/
def execXen (o : MaskOp) (m : BitVec 5) (s : State) : Host.Outcome State Fault Refusal :=
  issueWord (.xen o m) s (fun c => c.done (.xen o m) s (c.wave.core.mapLanes (fun n l =>
    if c.on n then { l with xenable := MaskOp.apply o l.xenable m } else l)))

/-- XFLG (R234). -/
def execXflg (o : MaskOp) (m : BitVec 5) (s : State) : Host.Outcome State Fault Refusal :=
  issueWord (.xflg o m) s (fun c => c.done (.xflg o m) s (c.wave.core.mapLanes (fun n l =>
    if c.on n then { l with xflags := MaskOp.apply o l.xflags m } else l)))

end Sys2Proof.Machine
end

