-- ==== Sys2Proof/Machine/Control.lean ====
section
/-! DEFINITION. Control flow (R152 to R175): the merging and selection of the frontier, transfers and return stacks,
EXIT, PRIO, GUARD, rejoin masks and JOIN, WINB, VALID and YIELD. -/
namespace Sys2Proof.Machine

/-! ### The frontier (R153) -/

/-- Two entries merge. -/
def Entry.mergeable (e f : Entry) : Bool :=
  e.pc == f.pc && e.state == .ready && f.state == .ready && e.guard.count == 0 && f.guard.count == 0 &&
  !e.aside && !f.aside

/-- The higher of two priorities. -/
def maxPrio (p q : BitVec 6) : BitVec 6 := if p.toNat < q.toNat then q else p

/-- Put an entry into a merged frontier: it joins the entry it merges with, if there is one. -/
def mergeInto (e : Entry) : List Entry → List Entry
  | [] => [e]
  | f :: rest =>
    if e.mergeable f then { f with lanes := f.lanes ||| e.lanes, prio := maxPrio f.prio e.prio } :: rest
    else f :: mergeInto e rest

/-- The frontier after merging (R153). -/
def mergeFrontier (f : List Entry) : List Entry := f.foldl (fun acc e => mergeInto e acc) []

/-- The lowest lane of a mask. -/
def lowestLane (m : BitVec 32) : Nat := (bitsOf m).headD 32

/-- Entry e goes before f (R153): priority, then PC, then lowest lane. -/
def Entry.before (e f : Entry) : Bool :=
  decide (f.prio.toNat < e.prio.toNat) || (e.prio == f.prio && (decide (e.pc.toNat < f.pc.toNat) ||
    (e.pc == f.pc && decide (lowestLane e.lanes < lowestLane f.lanes))))

/-- The entry that issues: the first ready one in the order of R153; entries set aside are never selected (R241). -/
def selectEntry (f : List Entry) : Option Nat :=
  (f.mapIdx (fun k e => (k, e))).foldl (fun best p =>
    if p.2.state != .ready || p.2.aside then best
    else match best with
      | none => some p.1
      | some b => match f[b]? with
        | some e => if p.2.before e then some p.1 else some b
        | none => some p.1) none

/-! ### Transfers (R157 to R160) -/

/-- Where one lane of a transfer goes. -/
inductive Goes
  | to (pc : W64) (prio : BitVec 6)
  | trap
  deriving DecidableEq, Repr

/-- Add a lane to the new entry for its target. -/
def addLane (n : Nat) (pc : W64) (prio : BitVec 6) : List Entry → List Entry
  | [] => [{ lanes := setBit 0 n true, pc := pc, prio := prio, state := .ready, guard := ⟨0, 0⟩, aside := false }]
  | e :: rest =>
    if e.pc == pc && e.prio == prio then { e with lanes := setBit e.lanes n true } :: rest
    else e :: addLane n pc prio rest

/-- A transfer (R158): each active lane goes to its target, or traps in that lane only; `core` holds what the lanes push
and pop. One that splits its entry makes the next instruction a switch point (R156). -/
def Issue.transfer (c : Issue) (i : Instr) (s : State) (core : WaveCore) (goes : Nat → Goes) : State :=
  let moves := (bitsOf c.active).map (fun n => (n, goes n))
  let news := moves.foldl (fun acc m => match m.2 with | .to pc p => addLane m.1 pc p acc | .trap => acc) []
  let traps := maskOf (moves.filterMap (fun m => match m.2 with | .trap => some m.1 | _ => none))
  { c with parts := decide (2 ≤ news.length) }.finishAt i s s
    { core with frontier := core.frontier.eraseIdx c.k ++ news } traps (fun _ => causeIllegalLane) c.entry.pc

/-- The target of BRA and CALL (R55). -/
def branchTarget (pc : W64) (o : BitVec 16) : W64 := pc + (o.signExtend 64) * 4

/-- A marked predicate decides in some active lane (R159). -/
def Issue.predMarked (c : Issue) (p : BitVec 4) : Bool :=
  (bitsOf c.active).any (fun n => (c.wave.core.lane n).predMark p)

/-- Lane n takes a branch (R60). -/
def Issue.takes (c : Issue) (p : BitVec 4) (s : Bool) (n : Nat) : Bool := (c.wave.core.lane n).pred p != s

/-- BRA (R157, R158). -/
def execBra (p : BitVec 4) (sense : Bool) (t : BitVec 6) (o : BitVec 16) (s : State) :
    Host.Outcome State Fault Refusal :=
  issueWord (.bra p sense t o) s (fun c =>
    if c.predMarked p then c.fault s reasonPoison 0 0 c.active
    else c.transfer (.bra p sense t o) s c.wave.core (fun n =>
      if c.takes p sense n then .to (branchTarget c.entry.pc o) t else .to (c.entry.pc + 4) c.entry.prio))

/-- A lane pushes its return entry (R158, R160). -/
def Lane.pushReturn (l : Lane) (pc : W64) (prio : BitVec 6) : Lane := { l with stack := (pc.setWidth 56, prio) :: l.stack }

/-- A return stack is full (R160). -/
def Lane.stackFull (l : Lane) : Bool := decide (32 ≤ l.stack.length)

/-- CALL (R157, R158, R160). -/
def execCall (p : BitVec 4) (sense : Bool) (t : BitVec 6) (o : BitVec 16) (s : State) :
    Host.Outcome State Fault Refusal :=
  issueWord (.call p sense t o) s (fun c =>
    let core := c.wave.core
    let calls := fun n => c.takes p sense n && !(core.lane n).stackFull
    if c.predMarked p then c.fault s reasonPoison 0 0 c.active
    else c.transfer (.call p sense t o) s
      (core.mapLanes (fun n l => if c.on n && calls n then l.pushReturn (c.entry.pc + 4) c.entry.prio else l))
      (fun n => if !c.takes p sense n then .to (c.entry.pc + 4) c.entry.prio
        else if calls n then .to (branchTarget c.entry.pc o) t else .trap))

/-- A target that a lane can go to (R159). -/
def targetOk (t : W64) : Bool := t.extractLsb' 0 2 == 0 && t.extractLsb' 56 8 == 0

/-- A target register is marked in some active lane (R159). -/
def Issue.targetMarked (c : Issue) (a : Reg) : Bool :=
  (bitsOf c.active).any (fun n => (c.wave.core.lane n).marked a 2)

/-- BRX (R157, R159). -/
def execBrx (a : Reg) (p : BitVec 6) (s : State) : Host.Outcome State Fault Refusal :=
  issueWord (.brx a p) s (fun c =>
    if c.targetMarked a then c.fault s reasonPoison 0 0 c.active
    else c.transfer (.brx a p) s c.wave.core (fun n =>
      let t := (c.wave.core.lane n).src64 a
      if targetOk t then .to t p else .trap))

/-- CALLX (R157, R159, R160). -/
def execCallx (a : Reg) (p : BitVec 6) (s : State) : Host.Outcome State Fault Refusal :=
  issueWord (.callx a p) s (fun c =>
    let core := c.wave.core
    let calls := fun n => targetOk ((core.lane n).src64 a) && !(core.lane n).stackFull
    if c.targetMarked a then c.fault s reasonPoison 0 0 c.active
    else c.transfer (.callx a p) s
      (core.mapLanes (fun n l => if c.on n && calls n then l.pushReturn (c.entry.pc + 4) c.entry.prio else l))
      (fun n => if calls n then .to ((core.lane n).src64 a) p else .trap))

/-- RET (R157, R160). -/
def execRet (s : State) : Host.Outcome State Fault Refusal :=
  issueWord .ret s (fun c =>
    let core := c.wave.core
    c.transfer .ret s (core.mapLanes (fun n l => if c.on n then { l with stack := l.stack.tail } else l))
      (fun n => match (core.lane n).stack with
        | [] => .trap
        | (pc, p) :: _ => .to (pc.setWidth 64) p))

/-! ### EXIT, PRIO and GUARD -/

/-- The active lanes have exited: they leave the frontier for good (R162). -/
def WaveCore.exit (core : WaveCore) (k : Nat) (lanes : BitVec 32) : WaveCore :=
  { core.mapLanes (fun n l => if has lanes n then { l with exited := true, trap := none } else l) with
    frontier := core.frontier.eraseIdx k }

/-- EXIT (R162, R201, R217, R243). -/
def execExit (s : State) : Host.Outcome State Fault Refusal :=
  issueWord .exit s (fun c =>
    let core := c.wave.core.exit c.k c.active
    let s1 := s.setWave c.g c.w (c.note s { c.wave with core := core.endHandlerIfOver })
    let s2 := s1.exitLanes c.g c.w c.active
    if core.live = 0 then s2.releaseWave c.g c.w else s2)

/-- PRIO (R164): the instruction after it is a switch point. -/
def execPrio (p : BitVec 6) (s : State) : Host.Outcome State Fault Refusal :=
  issueWord (.prio p) s (fun c =>
    let core := c.wave.core
    s.setWave c.g c.w ({ c with parts := true }.note s { c.wave with
      core := { core with frontier := core.frontier.set c.k { c.entry.next with prio := p } } }))

/-- GUARD (R165). -/
def execGuard (n : BitVec 7) (sense : Bool) (q : BitVec 4) (s : State) : Host.Outcome State Fault Refusal :=
  issueWord (.guard n sense q) s (fun c =>
    let core := c.wave.core
    let mask := maskOf ((bitsOf c.active).filter (fun l => c.takes q sense l))
    if c.predMarked q then c.fault s reasonPoison 0 0 c.active
    else s.setWave c.g c.w (c.note s { c.wave with
      core := { core with frontier := core.frontier.set c.k { c.entry.next with guard := ⟨n.toNat, mask⟩ } } }))

/-! ### JMSK and JOIN -/

/-- JMSK (R168). -/
def execJmsk (j : BitVec 3) (s : State) : Host.Outcome State Fault Refusal :=
  issueWord (.jmsk j) s (fun c =>
    c.done (.jmsk j) s (if c.any then { c.wave.core with j := Sparse.set 0 c.wave.core.j j.toNat c.active }
      else c.wave.core))

/-- The lanes that have arrived at a JOIN in an entry. -/
def Entry.arrived (e : Entry) : BitVec 32 := match e.state with | .joining _ a => a | _ => 0

/-- Another entry that is joining at a PC. -/
def Entry.joiningAt (e : Entry) (pc : W64) : Bool :=
  !e.aside && e.pc == pc && (match e.state with | .joining _ _ => true | _ => false)

/-- JOIN (R169): the entry's lanes arrive, and other entries joining there merge into it. -/
def execJoin (j : BitVec 3) (s : State) : Host.Outcome State Fault Refusal :=
  issueWord (.join j) s (fun c =>
    let core := c.wave.core
    let rest := core.frontier.eraseIdx c.k
    let others := rest.filter (fun e => e.joiningAt c.entry.pc)
    let merged : Entry := { c.entry with
      lanes := others.foldl (fun m e => m ||| e.lanes) c.entry.lanes
      prio := others.foldl (fun p e => maxPrio p e.prio) c.entry.prio
      state := .joining j (others.foldl (fun m e => m ||| e.arrived) c.entry.lanes) }
    s.setWave c.g c.w (c.note s { c.wave with
      core := { core with frontier := rest.filter (fun e => !e.joiningAt c.entry.pc) ++ [merged] } }))

/-- Lane n satisfies a join at pc of priority p by what the frontier holds (R170). DESIGN CHOICE (assumption 107): a
JOIN that runs in handler mode is not satisfied by what a lane's set-aside entry does, since such an entry is not
selected then. -/
def WaveCore.satisfies (core : WaveCore) (arrived : BitVec 32) (pc : W64) (p : BitVec 6) (n : Nat) : Bool :=
  has arrived n || (core.lane n).exited ||
  core.frontier.any (fun e => has e.lanes n && !e.aside &&
    (match e.state with
     | .ready => decide (e.prio.toNat < p.toNat)
     | .blocked _ => true
     | .joining _ _ => e.pc != pc || decide (e.prio.toNat < p.toNat)))

/-- A joining entry releases (R170). -/
def WaveCore.joinReady (core : WaveCore) (e : Entry) : Bool :=
  match e.state with
  | .joining j arrived =>
    !e.aside && (bitsOf (Sparse.get 0 core.j j.toNat)).all (fun n => core.satisfies arrived e.pc e.prio n)
  | _ => false

/-- The release of entry k (R170): the mask loses the arrived lanes, and the entry is ready at PC + 4. -/
def WaveCore.releaseJoin (core : WaveCore) (k : Nat) (e : Entry) : WaveCore :=
  match e.state with
  | .joining j arrived =>
    { core with
      j := Sparse.set 0 core.j j.toNat (Sparse.get 0 core.j j.toNat &&& ~~~arrived)
      frontier := core.frontier.set k { e.next with state := .ready } }
  | _ => core

/-! ### WINB, VALID and YIELD -/

/-- The first architectural register that is never in view (R171). -/
def State.windowLimit (s : State) (g : Gang) : Nat := max (((s.launchOf g).map (fun l => l.desc.regs)).getD 0) 120

/-- WINB (R171). -/
def execWinb (b : BitVec 6) (s : State) : Host.Outcome State Fault Refusal :=
  issueWord (.winb b) s (fun c =>
    let base := 8 * b.toNat
    let bad := decide (s.windowLimit c.gang < base + 120)
    let traps := if bad then c.active else 0
    c.finish (.winb b) s s (c.wave.core.mapLanes (fun n l =>
      if c.on n && !bad then { l with winbase := BitVec.ofNat 32 base } else l)) traps (fun _ => causeIllegalLane)
      c.entry.pc)

/-- VALID (R173). -/
def execValid (v : Validity) (s : State) : Host.Outcome State Fault Refusal :=
  issueWord (.valid v) s (fun c =>
    c.done (.valid v) s (if c.any then { c.wave.core with validity := v } else c.wave.core))

/-- YIELD (R175): the wave is not selected again until its hold ends. -/
def execYield (s : State) : Host.Outcome State Fault Refusal :=
  issueWord .yield s (fun c => { c with wave := { c.wave with yieldHold := true } }.done .yield s c.wave.core)

end Sys2Proof.Machine
end

