-- ==== Sys2Proof/Machine/Matrix.lean ====
section
/-! DEFINITION. The matrix unit's instructions (R219 to R226): SHAPE and its grants, the parameter block and its checks,
and the operations MXLS, MXSW, MXGO, MXZ and MXST put on a unit's queue; MXRD reads the accumulators. What a queued
operation does stands in MatrixEvents.lean. -/
namespace Sys2Proof.Machine

/-! ### Grants -/

/-- The empty plane (R223). -/
def Plane.empty : Plane := { format := 0, sparsity := 0, k := 0, n := 0, elems := [], codebook := [] }

/-- Columns and rows of a unit's planes by mode (R220). -/
def modeK (mode : Nat) : Nat := if mode = 2 then 256 else 128
def modeN (mode : Nat) : Nat := if mode = 0 then 128 else 256

/-- A new unit: accumulators +0, both planes empty (R220). -/
def MxUnit.fresh (mode : Nat) (subs : List Nat) : MxUnit :=
  { subs := subs, kMax := modeK mode, nMax := modeN mode, acc := [], cur := Plane.empty, next := Plane.empty,
    lost := false }

/-- The sub-arrays that a unit of each mode can take (R219). -/
def modeGroups : Nat → List (List Nat)
  | 0 => [[0], [1], [2], [3]]
  | 1 => [[0, 1], [2, 3]]
  | 2 => [[0, 1, 2, 3]]
  | _ => []

/-- The sub-arrays that a gang's grant holds. -/
def Gang.subs (x : Gang) : List Nat :=
  match x.grant with
  | none => []
  | some r => r.units.flatMap (fun u => u.subs)

/-- The gang holds cores: it is resident, or killed and finishing its started work (R329). -/
def Gang.placed (x : Gang) : Bool := x.state == .resident || x.state == .dying

/-- Sub-arrays of a stack that gangs other than g hold. -/
def State.subsTaken (s : State) (st g : Nat) : List Nat :=
  s.gangs.flatMap (fun p => if p.1 != g && p.2.placed && p.2.stack == st then p.2.subs else [])

/-- The unit groups of a mode that are neither fenced nor held by another gang. -/
def State.groupsFree (s : State) (st g mode : Nat) : List (List Nat) :=
  (modeGroups mode).filter (fun u =>
    u.all (fun k => !has (s.stack st).fenced k && !(s.subsTaken st g).contains k))

/-- The grant that a request gives (R220): as many units as can be formed up to the number wanted, with the fallback to
mode 0. -/
def State.formGrant (s : State) (st g mode wanted : Nat) (fallback : Bool) : Option Grant :=
  let us := (s.groupsFree st g mode).take wanted
  let zs := (s.groupsFree st g 0).take (if mode = 1 then 2 * wanted else 4)
  if !us.isEmpty then some ⟨mode, us.map (MxUnit.fresh mode)⟩
  else if fallback && (mode == 1 || mode == 2) && !zs.isEmpty then some ⟨0, zs.map (MxUnit.fresh 0)⟩
  else none

/-- The grant as SHAPE writes it (R219). -/
def grantWord (fenced : BitVec 4) (r : Option Grant) : W64 :=
  let held := fun (x : Grant) => maskOf (x.units.flatMap (fun u => u.subs))
  let low := match r with
    | some x => (held x).toNat * 256 + x.units.length * 16 + x.mode
    | none => 7
  BitVec.ofNat 64 (fenced.toNat * 4096 + low)

/-- The SHAPE request keeps to R219. -/
def shapeOk (v : W64) : Bool :=
  let n := field v 6 4
  v.extractLsb' 7 57 == 0 &&
  (match field v 2 0 with
   | 0 => decide (1 ≤ n ∧ n ≤ 4)
   | 1 => decide (1 ≤ n ∧ n ≤ 2)
   | 2 => n == 1
   | 3 => n == 0
   | 4 => n == 0
   | _ => false)

/-- Matrix operations of a gang that have not finished. -/
def State.gangOps (s : State) (g : Nat) : List (Nat × MxOp) := s.mxops.filter (fun p => p.2.gang == g)

/-- Operations of one unit of a gang. -/
def State.unitOps (s : State) (g u : Nat) : List (Nat × MxOp) := (s.gangOps g).filter (fun p => p.2.unit == u)

/-- SHAPE (R219, R220); it stalls until the gang's queued operations have finished. -/
def execShape (d : Reg) (a : Reg) (s : State) : Host.Outcome State Fault Refusal :=
  issueWord (.shape d a) s (fun c =>
    let i := Instr.shape d a
    let core := c.wave.core
    let v := core.uni a
    let mode := field v 2 0
    let fenced := (s.stack c.gang.stack).fenced
    if !c.any then c.done i s core
    else if core.uniMark a then c.fault s reasonPoison 0 0 0
    else if !shapeOk v then c.trapActive i s
    else if !(s.gangOps c.g).isEmpty then s
    else
      let r := if mode = 4 then c.gang.grant
        else if mode = 3 then none
        else s.formGrant c.gang.stack c.g mode (field v 6 4) (has v 3)
      c.done i (s.modGang c.g (fun x => { x with grant := r })) (core.putUni d.toNat (grantWord fenced r) false))

/-! ### The parameter block (R221, R222) -/

/-- Fields of a parameter block. -/
def blockA (b : List Byte) : W64 := BitVec.ofNat 64 (imageField b 0 8)
def blockB (b : List Byte) : W64 := BitVec.ofNat 64 (imageField b 8 8)
def blockC (b : List Byte) : W64 := BitVec.ofNat 64 (imageField b 16 8)
def blockM (b : List Byte) : Nat := imageField b 24 2
def blockK (b : List Byte) : Nat := imageField b 26 2
def blockN (b : List Byte) : Nat := imageField b 28 2
def blockUnit (b : List Byte) : Nat := imageField b 30 1
def blockControl (b : List Byte) : Nat := imageField b 31 1
def blockFormat (b : List Byte) : Nat := imageField b 32 1
def blockFlags (b : List Byte) : Nat := imageField b 33 1
def blockCounter (b : List Byte) : Nat := imageField b 40 8
def blockRow0 (b : List Byte) : Nat := imageField b 48 2
def blockCol0 (b : List Byte) : Nat := imageField b 50 2
def blockStream (b : List Byte) : Bool := (blockControl b).testBit 0
def blockLoadC (b : List Byte) : Bool := (blockControl b).testBit 1
def blockReport (b : List Byte) : Bool := (blockControl b).testBit 2

/-- The reserved fields of a block are 0 (R222). -/
def blockReserved (b : List Byte) : Bool :=
  imageField b 34 6 == 0 && imageField b 52 76 == 0 && decide (blockControl b < 8) && decide (blockFlags b < 32)

/-- A value lies from 1 to a bound. -/
def oneTo (n v : Nat) : Bool := decide (1 ≤ v) && decide (v ≤ n)

/-- The bytes of the block as a load of the lowest active lane finds them (R347): each aligned 8 bytes for itself, and
each of its fields within (R285); a poisoned sector reads as 0 (R180; assumption 9). -/
def Issue.blockBytes (c : Issue) (s : State) (off : Nat) : List Byte :=
  let a := s.laneAgent c.g c.w c.first (c.wave.core.lane c.first) .none
  (List.range 16).flatMap (fun k =>
    let r := a.look [17] s (.spd (off + 8 * k)) 8
    if r.mark then List.replicate 8 0 else r.bytes)

/-- The entry that a handle names, as an agent sees it; none when the handle or the entry is not usable (R211, R222). -/
def State.handleEntry (s : State) (a : Agent) (ctx : Nat) (h : W64) : Option Tensor :=
  if (handleOf h).ok then s.seeEntry a [18] ctx (handleOf h).id else none

/-- The entry that the issuing wave captures for a handle (R229). -/
def Issue.handleEntry (c : Issue) (s : State) (h : W64) : Option Tensor :=
  s.handleEntry (c.waveAgent s .pkg) (s.ctxOf c.gang) h

/-- A matrix instruction that reads a block (R221, R222): its checks, then its effect on the unit. -/
def matrixBlock (i : Instr) (a : Reg) (effect : Issue → Nat → List Byte → MxUnit → State) (s : State) :
    Host.Outcome State Fault Refusal :=
  issueWord i s (fun c =>
    let core := c.wave.core
    let off := (core.uni a).toNat
    if !c.any then c.done i s core
    else if core.uniMark a then c.fault s reasonPoison off 0 0
    else match c.gang.grant with
    | none => c.trapActive i s
    | some r =>
      if off % 128 != 0 then c.trapActive i s
      else if s.spadSize c.gang < off + 128 then c.fault s reasonProtection off 0 0
      else
        let b := c.blockBytes s off
        match r.units[blockUnit b]? with
        | none => c.trapActive i s
        | some u => if u.lost || !blockReserved b then c.trapActive i s else effect c off b u)

/-- Operations that a unit's queue holds at most (R222). -/
def unitQueue : Nat := 8

/-- Put operations on units' queues, in order; a full queue stalls the wave (R222). DESIGN CHOICE (assumption 114): the
operation that is running counts among the 8 of its unit's queue. -/
def Issue.enqueue (c : Issue) (i : Instr) (s : State) (token : Option Nat) (xs : List MxOp) : State :=
  if xs.any (fun x => decide (unitQueue ≤ (s.unitOps c.g x.unit).length)) then s
  else
    let t := { c with wave := c.wave.newToken token }.done i s (c.wave.newToken token).core
    xs.foldl (fun t x => { t.fresh.2 with mxops := t.mxops ++ [(t.fresh.1, x)] }) t

/-- A queued operation of the issuing wave, attributed to it (R222), and forked by it (R292). -/
def Issue.op (c : Issue) (s : State) (fn : MxFn) (unit off : Nat) (b : List Byte) (ea eb ec : Option Tensor)
    (token : Option Nat) : MxOp :=
  { fn := fn, gang := c.g, wave := c.w, unit := unit, block := b, offset := off, aEntry := ea, bEntry := eb
    cEntry := ec, token := token, started := false, shadow := [], popped := [], book := [], read := none, vis := false
    status := 0, lost := none, heldPage := none, view := c.forkView s }

/-- MXLS (R222, R223). -/
def execMxls (nw : Bool) (d : Reg) (a : Reg) (s : State) : Host.Outcome State Fault Refusal :=
  matrixBlock (.mxls nw d a) a (fun c off b u =>
    let e := c.handleEntry s (blockB b)
    if e.isNone || !oneTo u.kMax (blockK b) || !oneTo u.nMax (blockN b) then c.trapActive (.mxls nw d a) s
    else c.enqueue (.mxls nw d a) s (tokenField nw d) [c.op s .mxls (blockUnit b) off b none e none (tokenField nw d)]) s

/-- MXSW (R222, R223): a swap behind what every unit of the grant has queued. -/
def execMxsw (s : State) : Host.Outcome State Fault Refusal :=
  issueWord .mxsw s (fun c =>
    if !c.any then c.done .mxsw s c.wave.core
    else match c.gang.grant with
    | none => c.trapActive .mxsw s
    | some r =>
      let us := (List.range r.units.length).filter (fun k => !((r.units[k]?).map MxUnit.lost).getD true)
      c.enqueue .mxsw s none (us.map (fun k => c.op s .mxsw k 0 [] none none none none)))

/-- MXGO (R222, R224). -/
def execMxgo (nw : Bool) (d : Reg) (a : Reg) (s : State) : Host.Outcome State Fault Refusal :=
  matrixBlock (.mxgo nw d a) a (fun c off b _ =>
    let ea := if blockStream b then none else c.handleEntry s (blockA b)
    let ec := if blockLoadC b then c.handleEntry s (blockC b) else none
    if (!blockStream b && ea.isNone) || (blockLoadC b && ec.isNone) || !oneTo 256 (blockM b) ||
        blockCounter b % 8 != 0 then c.trapActive (.mxgo nw d a) s
    else c.enqueue (.mxgo nw d a) s (tokenField nw d) [c.op s .mxgo (blockUnit b) off b ea none ec (tokenField nw d)]) s

/-- An accumulator; a row at or beyond 256 or a column at or beyond N reads as +0 (R225). -/
def MxUnit.acc32 (u : MxUnit) (row col : Nat) : W32 :=
  if 256 ≤ row ∨ u.nMax ≤ col then 0 else Sparse.get 0 u.acc (row * u.nMax + col)

/-- The operations of a unit that were queued before this MXRD first stalled, or before now. -/
def Issue.earlierOps (c : Issue) (s : State) (unit : Nat) : List (Nat × MxOp) :=
  (s.unitOps c.g unit).filter (fun p => decide (p.1 < c.readFrom.getD s.nextId))

/-- The MXRD stalls, and keeps which operations it waits for. -/
def Issue.readStall (c : Issue) (s : State) : State :=
  s.modWave c.g c.w (fun w => { w with reading := some (c.entry.lanes, c.entry.pc, c.readFrom.getD s.nextId) })

/-- MXRD (R225): it stalls until every operation queued on the unit before it has finished. -/
def execMxrd (d : Reg) (a : Reg) (s : State) : Host.Outcome State Fault Refusal :=
  matrixBlock (.mxrd d a) a (fun c _ b u =>
    if 256 ≤ blockRow0 b || blockCol0 b % 4 != 0 then c.trapActive (.mxrd d a) s
    else if !(c.earlierOps s (blockUnit b)).isEmpty then c.readStall s
    else c.done (.mxrd d a) s (c.wave.core.mapLanes (fun n l =>
      if c.on n then
        (List.range 4).foldl (fun x k =>
          x.put32 (d.toNat + k) (u.acc32 (blockRow0 b + n) (blockCol0 b + k)) false) l
      else l))) s

/-- MXZ (R225). -/
def execMxz (a : Reg) (s : State) : Host.Outcome State Fault Refusal :=
  matrixBlock (.mxz a) a (fun c off b _ =>
    c.enqueue (.mxz a) s none [c.op s .mxz (blockUnit b) off b none none none none]) s

/-- MXST (R222, R225). -/
def execMxst (nw : Bool) (d : Reg) (a : Reg) (s : State) : Host.Outcome State Fault Refusal :=
  matrixBlock (.mxst nw d a) a (fun c off b u =>
    let ec := c.handleEntry s (blockC b)
    let fits := match ec with
      | some t => t.format == blockFormat b && t.sparsity == 0
      | none => false
    if !fits || !oneTo 5 (blockFormat b) || !oneTo 256 (blockM b) || !oneTo u.nMax (blockN b) ||
        blockCounter b % 8 != 0 then c.trapActive (.mxst nw d a) s
    else c.enqueue (.mxst nw d a) s (tokenField nw d) [c.op s .mxst (blockUnit b) off b none none ec (tokenField nw d)]) s

end Sys2Proof.Machine
end

