-- ==== Sys2Proof/Machine/Gang.lean ====
section
/-! DEFINITION. Gangs as a whole: the state in which threads, waves and gangs start (R15, R22, R26, R27, R152, R200,
R250, R251), the room of a stack and the placement of a gang on it (R249, R257, R261, R263), the release of its cores
and banks (R163, R278), and how a launch accounts for its gangs (R321, R331). -/
namespace Sys2Proof.Machine

/-! ### Starting -/

/-- A thread at wave start (R15, R27); a lane that starts exited is `exited`. -/
def Lane.start (n : Nat) (exited : Bool) : Lane :=
  { Lane.gone with seed := BitVec.ofNat 32 (1 + n), exited := exited }

/-- A wave's core at wave start (R22, R26, R152, R173, R200): `lanes` are those that do not start exited. -/
def WaveCore.start (lanes : BitVec 32) (pc : W64) (prio : BitVec 6) (args : List W64) : WaveCore :=
  { lanes := (List.range 32).map (fun n => Lane.start n (!has lanes n))
    frontier := [{ lanes := lanes, pc := pc, prio := prio, state := .ready, guard := ⟨0, 0⟩, aside := false }]
    trapmask := 0, handler := false
    s := (List.range 8).foldl (fun m k => Sparse.set 0 m k (args.getD k 0)) []
    sMarks := [], j := [], latchCount := 0, stallV := [], stallS := 0, stallP := 0, last := none, tokenWait := none
    validity := .full
    bars := List.replicate 16 (Barrier.fresh (bitsOf lanes)) }

/-- A wave at its start on a core and slot (R25, R251). -/
def Wave.start (core : WaveCore) (slot coreId now : Nat) : Wave :=
  { core := core, pending := [], push := List.replicate 8 [], pop := List.replicate 8 [], lost := List.replicate 8 false
    loads := [], stores := [], held := none, left := [], entering := false, tokens := [], matoms := [], matomMet := [],
    spec := none, slot := slot, coreId := coreId, parked := false
    yieldHold := false, aged := false, issued := 0, diverted := false, retired := false, lastNow := 0, progress := now, lastPc := 0, reading := none }

/-- A gang that waits to be placed: its launch and index (R44), and the stack whose batch holds it. -/
def Gang.waiting (launch x y z st : Nat) : Gang :=
  { launch := launch, x := x, y := y, z := z, state := .batched, stack := st, core0 := 0, bankList := [], waves := []
    spad := [], spadPoison := [], fifos := [], bars := [], arrivals := [], batchStack := st, grant := none
    diverted := false, lastNow := 0, image := 0, imageSize := 0 }

/-- The entry PC of a kernel. -/
def Desc.entryPc (d : Desc) : W64 := d.code + BitVec.ofNat 64 d.entry

/-- A gang as it starts (R250, R251): scratchpad 0, FIFOs empty, gang barriers at phase 0 expecting every wave, and these
waves. -/
def Gang.start (x : Gang) (d : Desc) (st core0 : Nat) (bankList : List Nat) (waves : List Wave) : Gang :=
  { x with
    state := .resident, stack := st, core0 := core0, bankList := bankList, waves := waves, spad := [], spadPoison := []
    fifos := List.replicate d.fifos.length []
    bars := List.replicate 16 (Barrier.fresh (List.range waves.length))
    arrivals := [], grant := none }

/-! ### Room (R249, R250, R257, R261) -/

/-- Banks that a gang holds (R250). -/
def Desc.banks (d : Desc) : Nat := (d.spad + 65535) / 65536 + d.fifos.foldl (fun n b => n + b) 0

/-- The wave slots of a core that resident gangs hold (R251). -/
def State.slotsHeld (s : State) (st core : Nat) : List Nat :=
  s.gangs.flatMap (fun p =>
    if p.2.placed && p.2.stack == st then
      (p.2.waves.filter (fun w => w.coreId == core)).map Wave.slot
    else [])

/-- Banks of a cluster that are free in scratchpad mode, by their number in the stack (R277). -/
def Stack.freeBanks (t : Stack) (cluster : Nat) : List Nat :=
  ((List.range 64).map (fun b => 64 * cluster + b)).filter (fun b =>
    match t.banks[b]? with | some x => x.state == 1 && x.owner.isNone | none => false)

/-- Free wave slots of each core, and free banks of each cluster. -/
structure Room where
  cores : List Nat
  banks : List Nat
  deriving DecidableEq, Repr

/-- The room of a stack now. -/
def State.room (s : State) (st : Nat) : Room :=
  { cores := (List.range 16).map (fun c => 32 - (s.slotsHeld st c).length)
    banks := (List.range 4).map (fun k => ((s.stack st).freeBanks k).length) }

/-- Waves of a gang on core i of its group (R249). -/
def Desc.wavesOn (d : Desc) (i : Nat) : Nat := (d.waves + d.cores - 1 - i) / d.cores

/-- First cores of the groups that a gang of C cores can take (R249), 4 * cluster + core. -/
def groupStarts (c : Nat) : List Nat :=
  (List.range 16).filter (fun k => decide (k % 4 + c ≤ 4) && (c != 4 || k % 4 == 0))

/-- The smallest count of free slots in the group at core k. -/
def Room.least (r : Room) (k c : Nat) : Nat :=
  (List.range c).foldl (fun m i => min m (r.cores.getD (k + i) 0)) 32

/-- The group has room for the gang (R261). -/
def Room.fits (r : Room) (d : Desc) (k : Nat) : Bool :=
  decide (d.banks ≤ r.banks.getD (k / 4) 0) && decide ((d.waves + d.cores - 1) / d.cores ≤ r.least k d.cores)

/-- The group that the stack dispatcher picks (R261). -/
def Room.pick (r : Room) (d : Desc) : Option Nat :=
  ((groupStarts d.cores).filter (r.fits d)).foldl (fun best k =>
    match best with
    | none => some k
    | some b => if r.least b d.cores < r.least k d.cores then some k else some b) none

/-- The room left once a gang has the group at core k. -/
def Room.take (r : Room) (d : Desc) (k : Nat) : Room :=
  { cores := r.cores.mapIdx (fun c n => if k ≤ c ∧ c < k + d.cores then n - d.wavesOn (c - k) else n)
    banks := r.banks.modify (k / 4) (fun n => n - d.banks) }

/-- Gangs of a shape that could be placed one after another (R257); a stack has 512 wave slots. -/
def Room.count (r : Room) (d : Desc) : Nat → Nat
  | 0 => 0
  | fuel + 1 =>
    match r.pick d with
    | none => 0
    | some k => (r.take d k).count d fuel + 1

/-- The free slots of a stack for a launch's shape (R257). -/
def State.freeSlots (s : State) (st : Nat) (d : Desc) : Nat := (s.room st).count d 512

/-- n of the listed things, which ones the device chooses (R263). -/
def State.pickSome {α : Type} (s : State) (label : Nat) : Nat → List α → List α
  | 0, _ => []
  | n + 1, xs =>
    let k := s.choose (label + n) xs.length
    match xs[k]? with
    | some x => x :: s.pickSome label n (xs.eraseIdx k)
    | none => []

/-- A wave slot for each wave of a gang on the group at core k (R249, R263): any free slot of its core. -/
def State.giveSlots (s : State) (st k : Nat) (d : Desc) : List Nat :=
  let free := fun i => s.pickSome (400 + 100 * i) (d.wavesOn i)
    ((List.range 32).filter (fun n => !(s.slotsHeld st (k + i)).contains n))
  let lists := (List.range d.cores).map free
  (List.range d.waves).map (fun w => (lists.getD (w % d.cores) []).getD (w / d.cores) 0)

/-- Give banks of a stack to a gang: the first ones are its scratchpad, the rest its FIFOs (R277). -/
def Stack.giveBanks (t : Stack) (g : Nat) (d : Desc) (list : List Nat) : Stack :=
  let spad := (d.spad + 65535) / 65536
  { t with banks := t.banks.mapIdx (fun b x =>
      match list.findIdx? (fun c => c == b) with
      | none => x
      | some i => { x with state := if i < spad then 2 else 3, owner := some g }) }

/-- The banks of a gang are free again; one with a change to cache mode pending becomes cache ways (R278). -/
def Stack.freeBanksOf (t : Stack) (g : Nat) : Stack :=
  { t with banks := t.banks.map (fun x =>
      if x.owner == some g then { x with state := if x.mode = 0 then 0 else 1, owner := none } else x) }

/-- The dispatcher starts a round for a partition (R253). -/
def State.roundsDue (s : State) (p : Nat) : State := s.modPartition p (fun x => { x with roundDue := true })

/-- A stack reports its free slots, so that the dispatcher starts a round for its partition (R253, R257). -/
def State.slotsReport (s : State) (st : Nat) : State := s.roundsDue (s.stack st).partNum

/-- Waves of a core whose windows are in its active register store (R252). -/
def State.windowsHeld (s : State) (st core : Nat) : Nat :=
  s.gangs.foldl (fun n p =>
    if p.2.placed && p.2.stack == st then
      n + (p.2.waves.filter (fun w => w.coreId == core && !w.parked && !w.retired)).length
    else n) 0

/-- Waves that find no free window start on the shelf (R16, R252). -/
def State.shelve (s : State) (st : Nat) (ws : List Wave) : List Wave :=
  ws.mapIdx (fun w x =>
    let before := ((ws.take w).filter (fun y => y.coreId == x.coreId)).length
    { x with parked := decide (16 ≤ s.windowsHeld st x.coreId + before) })

/-- A wave's threads start after what their launch comes after (R291). -/
def WaveCore.from (c : WaveCore) (start : Seen) : WaveCore :=
  c.mapLanes (fun _ l => { l with know := Know.start start })

/-- A launch starts on a stack: `cstFrom` and `codeFrom` note the moment, once (R177, R299). -/
def Launch.startsOn (l : Launch) (st here : Nat) : Launch :=
  { l with
    started := true
    cstFrom := if l.started then l.cstFrom else here
    codeFrom := if (aget l.codeFrom st).isSome then l.codeFrom else aput l.codeFrom st here }

/-- A gang starts on the group at core k of a stack: its banks, slots and waves (R250, R251, R271). -/
def State.startGang (s : State) (g st k : Nat) (d : Desc) (core : Nat → WaveCore) : State :=
  let slots := s.giveSlots st k d
  let banks := s.pickSome 300 d.banks ((s.stack st).freeBanks (k / 4))
  let now := (s.stack st).now
  let start := (((aget s.gangs g).bind s.launchOf).map Launch.start).getD []
  let waves := s.shelve st (slots.mapIdx (fun w slot => Wave.start ((core w).from start) slot (k + w % d.cores) now))
  let s := s.modStack st (fun t => t.giveBanks g d banks)
  let s := s.modGang g (fun x => x.start d st k banks waves)
  match aget s.gangs g with
  | none => s
  | some x => (s.modLaunch x.launch (fun l => l.startsOn st s.history.length)).slotsReport st

/-! ### Release and accounting -/

/-- The gang's grant, cores and banks are free (R163, R220). -/
def State.freeGang (s : State) (g : Nat) (next : GangState) : State :=
  match aget s.gangs g with
  | none => s
  | some x =>
    ((s.modStack x.stack (fun t => t.freeBanksOf g)).modGang g (fun y =>
      { y with state := next, grant := none, bankList := [] })).slotsReport x.stack

/-- The lower of two validities (R174). -/
def minValidity (a b : Validity) : Validity :=
  match a, b with
  | .none, _ => .none
  | _, .none => .none
  | .part, _ => .part
  | _, .part => .part
  | .full, .full => .full

/-- The validity of a gang: the lowest of its waves (R174). -/
def Gang.validity (x : Gang) : Validity := x.waves.foldl (fun v w => minValidity v w.core.validity) .full

/-- A gang retires (R163, R174, R328). -/
def Launch.retired (l : Launch) (x : Gang) : Launch :=
  { l with
    normal := if x.diverted then l.normal else l.normal + 1
    wrapped := if x.diverted then l.wrapped + 1 else l.wrapped
    validity := minValidity l.validity x.validity
    anyRetired := true }

/-- A gang is counted as never started: it leaves the barriers of its launch (R200, R201, R331). -/
def State.neverStarts (s : State) (g : Nat) : State :=
  match aget s.gangs g with
  | none => s
  | some x =>
    ((s.modLaunch x.launch (fun l => { l with unstarted := l.unstarted + 1 })).gangLeaves g).modGang g
      (fun y => { y with state := .done })

/-- Gangs of a launch: its grid, or the waves its pool has formed (R331). -/
def State.gangTotal (s : State) (l : Launch) : Nat :=
  match l.pool with
  | none => l.desc.nx * l.desc.ny * l.desc.nz
  | some p => ((aget s.pools p).map Pool.formed).getD 0

/-- An engine command of a wave of the launch is not complete (R291, R300). -/
def State.commandsOpen (s : State) (lid : Nat) : Bool :=
  s.commands.any (fun p => match p.2.owner with
    | .wave g _ => ((aget s.gangs g).map (fun x => x.launch == lid)).getD false
    | .queue _ _ => false)

/-- Every gang of the launch is accounted for (R331), and its engine commands are complete, so that the record covers
every access of the launch (R291, R300); a pool launch also needs its front end to have ended. -/
def State.accounted (s : State) (lid : Nat) (l : Launch) : Bool :=
  !s.commandsOpen lid && l.normal + l.wrapped + l.killed + l.unstarted == s.gangTotal l &&
  (match l.pool with | none => true | some p => ((aget s.pools p).map Pool.stopped).getD true)

/-- The flag-fall instant (R321). -/
def Desc.flagFall (d : Desc) : Nat := d.deadline - d.budget

/-- Flag fall occurs for a launch (R321); the first time tells whether a gang had started (R331). -/
def Launch.falls (l : Launch) : Launch := { l with ff := true, ffEarly := if l.ff then l.ffEarly else !l.started }

/-- Flag fall occurs for the launch (R321). -/
def State.launchFf (s : State) (l : Nat) : State := s.modLaunch l Launch.falls

end Sys2Proof.Machine
end

