-- ==== Sys2Proof/Machine/MemInstr.lean ====
section
/-! DEFINITION. The memory instructions (R176 to R198): loads and stores of every form, tensor element access, prefetch,
atomics, fences, monitors and MWAIT's issue. -/
namespace Sys2Proof

/-- Bytes of an access type (R182). -/
def MemTy.size : MemTy → Nat
  | .n8 => 1 | .i8 => 1 | .n16 => 2 | .i16 => 2 | .b32 => 4 | .b64 => 8

/-- The registers that a load of a type writes (R182). -/
def MemTy.words (t : MemTy) (bs : List Byte) : List W32 :=
  let v := Machine.leNat bs
  match t with
  | .n8 => [BitVec.ofNat 32 v]
  | .i8 => [BitVec.ofInt 32 (Machine.sInt 8 v)]
  | .n16 => [BitVec.ofNat 32 v]
  | .i16 => [BitVec.ofInt 32 (Machine.sInt 16 v)]
  | .b32 => [BitVec.ofNat 32 v]
  | .b64 => [BitVec.ofNat 32 v, BitVec.ofNat 32 (v / 2 ^ 32)]

namespace Machine

/-! ### Shared parts -/

/-- The scaled offset of LDO and STO (R55). -/
def offsetOf (i : BitVec 12) (z : Bool) : Int := i.toInt * (if z then 8 else 4)

/-- The address of a lane: its a pair plus an offset, 64 bits (R176). -/
def Lane.address (l : Lane) (a : Reg) (off : Int) : Nat := (l.src64 a + BitVec.ofInt 64 off).toNat

/-- The requests of the active lanes (R176, R178). -/
def Issue.requests (c : Issue) (a : Reg) (off : Int) (sp : Sp) (size : Nat) (aligned : Bool) (access : Access)
    (write : Bool) : List (Nat × Request) :=
  (bitsOf c.active).map (fun n =>
    let l := c.wave.core.lane n
    (n, ⟨sp, l.address a off, size, aligned, access, write, l.marked a 2, some c.wave.coreId, n⟩))

/-- An access must be naturally aligned when it has an order or a scope (R178). -/
def strict (ordered : Bool) (sc : Scope) : Bool := ordered || sc != .none

/-- The value words of a load of a poisoned sector: zeros, marked (R180). -/
def loadWrites (l : Lane) (n : Nat) (d : Nat) (ws : List W32) (mark : Bool) : List RegWrite :=
  ws.mapIdx (fun k w => ⟨n, l.arch (d + k), if mark then 0 else w, mark⟩)

/-- The sectors that a speculating wave's loads add to its read set (R333). -/
def Spec.track (sp : Spec) (ps : List (Target × Nat)) : Spec :=
  { sp with reads := (sp.reads ++ ps.flatMap (fun p => targetSectors p.1 p.2)).eraseDups }

/-- What a piece shows under the wave's own buffered stores (R333, R334). -/
def overlay (space : Region) (addr : Nat) (xs : List Buffered) (g : Got) : Got :=
  xs.foldl (fun g x =>
    if x.spad != (space != .mem) || x.addr / 16 != addr / 16 then g
    else { g with
      bytes := layOver addr g.bytes x.addr x.bytes
      mark := (runMark x.mark x.bytes).getD g.mark }) g

/-- What lane n's load of a piece finds: in constant space, the bytes at launch start or of any store since (R177); for a
speculating wave, what stands there now, since a write before the flip rolls it back (R335), and its own buffered bytes
(R333); otherwise what order and coherence allow (R285, R286). -/
def Issue.look (c : Issue) (cst : Bool) (sc : Scope) (n : Nat) (s : State) (t : Target) (k : Nat) : Got :=
  let a := s.laneAgent c.g c.w n (c.wave.core.lane n) sc
  let p := t.place c.g
  let since := ((s.launchOf c.gang).map (fun l => l.cstFrom)).getD 0
  let shared := if cst then s.observeConst a [2, n, p.2] since p.2 k
    else if c.wave.spec.isSome then s.present p.1 p.2 k
    else a.look [2, n] s t k
  overlay p.1 p.2 ((c.wave.spec.map Spec.stores).getD []) shared

/-- What one lane's load returns. -/
structure LaneRead where
  lane : Nat
  bytes : List Byte
  mark : Bool
  tops : List (Nat × Stored)
  deriving DecidableEq, Repr

/-- Read the lanes of a load, lane after lane; none while replay holds one. -/
def Issue.readLanes (c : Issue) (cst : Bool) (sc : Scope) :
    List (Nat × List (Target × Nat)) → State → Option (List LaneRead × State)
  | [], s => some ([], s)
  | (n, ps) :: rest, s =>
    match State.readThrough (c.look cst sc n) c.gang.stack c.wave.coreId c.wave.slot (s.launchOf c.gang) ps s with
    | none => none
    | some (xs, t) =>
      match c.readLanes cst sc rest t with
      | none => none
      | some (ys, u) =>
        some (⟨n, xs.flatMap (fun x => x.bytes), xs.any (fun x => x.mark), xs.flatMap (fun x => x.tops)⟩ :: ys, u)

/-- The wave takes over what its MATOMs' performing has told it (R192). -/
def Wave.heed (w v : Wave) : Wave :=
  { w with
    matoms := v.matoms
    matomMet := v.matomMet
    core := w.core.mapLanes (fun n l =>
      { l with know := { l.know with view := Seen.join l.know.view (v.core.lane n).know.view } }) }

/-- No MATOM of these lanes pends at the bytes of their pieces (R192). -/
def State.settled (s : State) (g w : Nat) (oks : List (Nat × List (Target × Nat))) : Bool :=
  oks.all (fun p => p.2.all (fun q => match q.1 with
    | .spd _ => true
    | .mem pa _ _ => (s.pendingMatom g w p.1 pa q.2).isNone))

/-- The MATOMs that the lanes must come after are performed (R192): none while one must wait. -/
def Issue.flush (c : Issue) (oks : List (Nat × List (Target × Nat))) (s : State) (w : Wave) : Option (State × Wave) :=
  if s.settled c.g c.w oks then some (s, w)
  else (s.flushLanes c.g c.w oks).map (fun t => (t, match t.wave c.g c.w with | some v => w.heed v | none => w))

/-- The lanes know what an access at this scope has told them: an acquire takes the releases that it met (R288). -/
def WaveCore.learnTops (core : WaveCore) (s : State) (g w : Nat) (sc : Scope) (acquire : Nat → Bool)
    (reads : List (Nat × List (Nat × Stored))) : WaveCore :=
  core.mapLanes (fun n l =>
    match aget reads n with
    | none => l
    | some tops => { l with know := (s.laneAgent g w n l sc).learn (acquire n) tops })

/-- A release at `.sys` is sent only once every earlier system write of its lanes is acknowledged (R353). -/
def Wave.sysReleaseWaits (w : Wave) (release : Bool) (sc : Scope) (lanes : BitVec 32) : Bool :=
  release && sc == .sys && w.stores.any (fun p => p.port.isSome && has lanes p.lane)

/-- A load (R182, R198): the data is read as the instruction issues and lands with a LOAD_REPLY. `ws` turns the bytes of
lane n into the registers it writes; `fills` are writes that need no memory access (R186). -/
def Issue.load (c : Issue) (i : Instr) (s : State) (a : Ask) (d : Reg) (cst : Bool) (sc : Scope) (acquire : Bool)
    (ws : Nat → List Byte → List W32) (fills : List RegWrite) : State :=
  c.access i s a (fun oks t w =>
    match c.flush oks t w with
    | none => none
    | some (t, w) =>
      match { c with wave := w }.readLanes cst sc oks t with
      | none => none
      | some (xs, u) =>
        let ps := oks.flatMap (fun p => p.2)
        let writes := fills ++ xs.flatMap (fun x => loadWrites (w.core.lane x.lane) x.lane d.toNat (ws x.lane x.bytes) x.mark)
        let w := { w with
          spec := w.spec.map (fun sp => sp.track ps)
          core := w.core.learnTops u c.g c.w sc (fun _ => acquire) (xs.map (fun x => (x.lane, x.tops))) }
        let st := c.gang.stack
        some (u, if writes.isEmpty then w
          else { w with loads := w.loads ++ [u.inFlight st writes w.spec.isSome false (u.fillLines st ps) (oks.map (fun p => p.1)) ps] }))

/-- A store (R182, R334): lanes in ascending order. `bs` gives the bytes of lane n and whether a stored register is
marked. -/
def Issue.store (c : Issue) (i : Instr) (s : State) (a : Ask) (sc : Scope) (release : Bool) (bs : Nat → List Byte × Bool) :
    State :=
  c.access i s a (fun oks t w =>
    match c.flush oks t w with
    | none => none
    | some (t, w) =>
      match w.spec with
      | some sp =>
        let adds := oks.flatMap (fun p => bufferPieces p.1 (bs p.1).1 (bs p.1).2 sc release p.2)
        some (t, { w with spec := some { sp with stores := sp.stores ++ adds } })
      | none =>
        let st := c.gang.stack
        if w.sysReleaseWaits release sc (maskOf (oks.map (fun p => p.1))) then none
        else
          let acks := oks.flatMap (fun p => t.acksOf st p.1 p.2)
          some (oks.foldl (fun u p => u.storePieces (u.laneAgent c.g c.w p.1 (w.core.lane p.1) sc) release st c.wave.coreId
              (bs p.1).1 (bs p.1).2 p.2) t,
            { w with stores := w.stores ++ acks }))

/-- The bytes of n window registers at d, low register first (R182). -/
def Lane.bytes (l : Lane) (d n : Nat) : List Byte :=
  (List.range n).flatMap (fun k => natLe 4 (Sparse.get 0 l.regs (l.arch (d + k))).toNat)

/-- The bytes that lane n stores: the first `size` bytes of k registers at d. -/
def Issue.data (c : Issue) (d : Reg) (k size : Nat) (n : Nat) : List Byte × Bool :=
  let l := c.wave.core.lane n
  ((l.bytes d.toNat k).take size, l.marked d k)

/-! ### Loads and stores -/

/-- LD (R182). -/
def execLd (sp : Space) (o : Bool) (d : Reg) (a : Reg) (t : MemTy) (sc : Scope) (n : Bool) (s : State) :
    Host.Outcome State Fault Refusal :=
  issueWord (.ld sp o d a t sc n) s (fun c =>
    c.load (.ld sp o d a t sc n) s
      ⟨c.requests a 0 sp.sp t.size (strict o sc) .load false, 0, false, sc == .sys, .load⟩ d (sp == .cst) sc o
      (fun _ bs => t.words bs) [])

/-- LDV (R182). -/
def execLdv (sp : Space) (o : Bool) (d : Reg) (a : Reg) (sc : Scope) (n : Bool) (s : State) :
    Host.Outcome State Fault Refusal :=
  issueWord (.ldv sp o d a sc n) s (fun c =>
    c.load (.ldv sp o d a sc n) s ⟨c.requests a 0 sp.sp 16 true .load false, 0, false, sc == .sys, .load⟩ d (sp == .cst) sc o
      (fun _ bs => (List.range 4).map (fun k => BitVec.ofNat 32 (leNat ((bs.drop (4 * k)).take 4)))) [])

/-- LDO (R75, R182). -/
def execLdo (i : BitVec 12) (z : Bool) (d : Reg) (a : Reg) (s : State) : Host.Outcome State Fault Refusal :=
  issueWord (.ldo i z d a) s (fun c =>
    let t : MemTy := if z then .b64 else .b32
    c.load (.ldo i z d a) s
      ⟨c.requests a (offsetOf i z) .gen t.size false .load false, 0, false, false, .load⟩ d false .none false
      (fun _ bs => t.words bs) [])

/-- ST (R182). -/
def execSt (sp : WSpace) (o : Bool) (d : Reg) (a : Reg) (t : MemTy) (sc : Scope) (n : Bool) (s : State) :
    Host.Outcome State Fault Refusal :=
  issueWord (.st sp o d a t sc n) s (fun c =>
    c.store (.st sp o d a t sc n) s
      ⟨c.requests a 0 sp.sp t.size (strict o sc) .store true, 0, true, sc == .sys, .store⟩ sc o
      (c.data d (if t == .b64 then 2 else 1) t.size))

/-- STV (R182). -/
def execStv (sp : WSpace) (o : Bool) (d : Reg) (a : Reg) (sc : Scope) (n : Bool) (s : State) :
    Host.Outcome State Fault Refusal :=
  issueWord (.stv sp o d a sc n) s (fun c =>
    c.store (.stv sp o d a sc n) s ⟨c.requests a 0 sp.sp 16 true .store true, 0, true, sc == .sys, .store⟩ sc o
      (c.data d 4 16))

/-- STO (R75, R182). -/
def execSto (i : BitVec 12) (z : Bool) (d : Reg) (a : Reg) (s : State) : Host.Outcome State Fault Refusal :=
  issueWord (.sto i z d a) s (fun c =>
    let k := if z then 2 else 1
    c.store (.sto i z d a) s
      ⟨c.requests a (offsetOf i z) .gen (4 * k) false .store true, 0, true, false, .store⟩ .none false
      (c.data d k (4 * k)))

/-! ### Tensor elements (R186) -/

/-- The coordinates of LDX and STX: i0 and i1 from the lane's pair, i2 to i4 from sb. -/
def Lane.coords (l : Lane) (a : Reg) (sb : W64) : List Int :=
  let p := l.src64 a
  [(p.extractLsb' 0 32).toInt, (p.extractLsb' 32 32).toInt, (sb.extractLsb' 16 16).toInt, (sb.extractLsb' 32 16).toInt,
   (sb.extractLsb' 48 16).toInt]

/-- The entry, when LDX and STX of this width can use it; otherwise the lane traps (R186). -/
def usableEntry (e : Option Tensor) (wide : Bool) : Option Tensor :=
  match e with
  | none => none
  | some t => if decide (t.format < 14) && t.sparsity == 0 && (elementBits t.format == 64) == wide then some t else none

/-- The entry that sb names, as lane n finds it at execution (R229): what stands in the table for a speculating wave,
which a later TIDW rolls back (R301). -/
def Issue.elementEntry (c : Issue) (s : State) (b : Reg) (wide : Bool) (n : Nat) : Option Tensor :=
  let id := ((c.wave.core.uni b).extractLsb' 0 10).toNat
  let ctx := s.ctxOf c.gang
  usableEntry (if c.wave.spec.isSome then s.entry ctx id
    else s.seeEntry (s.laneAgent c.g c.w n (c.wave.core.lane n) .pkg) [18, n] ctx id) wide

/-- The identifier joins those that the speculating wave has used (R301). -/
def Issue.usesEntry (c : Issue) (b : Reg) : Issue :=
  { c with wave := { c.wave with spec := c.wave.spec.map (fun sp => { sp with
      entries := insertOnce sp.entries ((c.wave.core.uni b).extractLsb' 0 10).toNat }) } }

/-- What one lane's element access comes to: a trap, no access (out of bounds), or a request with its entry. -/
def Issue.elementOf (c : Issue) (s : State) (z : Bool) (a b : Reg) (access : Access) (write : Bool) (n : Nat) :
    Option (Tensor × Option Request) :=
  let l := c.wave.core.lane n
  let x := l.coords a (c.wave.core.uni b)
  (c.elementEntry s b z n).map (fun t =>
    (t, if t.inBounds x then
      some ⟨.gen, t.address x, elementBits t.format / 8, false, access, write, l.marked a 2 || c.wave.core.uniMark b,
        some c.wave.coreId, n⟩
    else none))

/-- The lanes of an element instruction by what they come to: requests, entries, and the lanes that trap. -/
def Issue.elements (c : Issue) (s : State) (z : Bool) (a b : Reg) (access : Access) (write : Bool) :
    List (Nat × Tensor × Option Request) :=
  (bitsOf c.active).filterMap (fun n => (c.elementOf s z a b access write n).map (fun x => (n, x)))

/-- The lanes whose identifier LDX or STX cannot use trap (R186). -/
def Issue.elementTraps (c : Issue) (xs : List (Nat × Tensor × Option Request)) : BitVec 32 :=
  c.active &&& ~~~ maskOf (xs.map (fun x => x.1))

/-- The requests of the lanes within bounds. -/
def elementRequests (xs : List (Nat × Tensor × Option Request)) : List (Nat × Request) :=
  xs.filterMap (fun x => x.2.2.map (fun r => (x.1, r)))

/-- The format of a lane's entry. -/
def elementFormat (xs : List (Nat × Tensor × Option Request)) (n : Nat) : Nat := ((aget xs n).map (fun x => x.1.format)).getD 0

/-- The register image of an element (R84) as registers. -/
def imageWords (code : Nat) (wide : Bool) (v : Nat) : List W32 :=
  let x := ((codeTy code).map (fun t => image t v)).getD 0
  if wide then [x.setWidth 32, x.extractLsb' 32 32] else [x.setWidth 32]

/-- LDX (R186): an element out of bounds reads the fill value. -/
def execLdx (z : Bool) (d : Reg) (a : Reg) (b : Reg) (s : State) : Host.Outcome State Fault Refusal :=
  issueWord (.ldx z d a b) s (fun c =>
    let c := c.usesEntry b
    let xs := c.elements s z a b .load false
    c.load (.ldx z d a b) s ⟨elementRequests xs, c.elementTraps xs, false, false, .load⟩ d false .none false
      (fun n bs => imageWords (elementFormat xs n) z (leNat bs))
      ((xs.filter (fun x => x.2.2.isNone)).flatMap (fun x =>
        loadWrites (c.wave.core.lane x.1) x.1 d.toNat (imageWords x.2.1.format z x.2.1.fill.toNat) false)))

/-- STX (R186): a store out of bounds is dropped. -/
def execStx (z : Bool) (d : Reg) (a : Reg) (b : Reg) (s : State) : Host.Outcome State Fault Refusal :=
  issueWord (.stx z d a b) s (fun c =>
    let c := c.usesEntry b
    let xs := c.elements s z a b .store true
    c.store (.stx z d a b) s ⟨elementRequests xs, c.elementTraps xs, true, false, .store⟩ .none false
      (fun n => c.data d (if z then 2 else 1) (elementBits (elementFormat xs n) / 8) n))

/-- PREF (R187): it changes no architectural state. -/
def execPref (a : Reg) (sp : WSpace) (n : Bool) (s : State) : Host.Outcome State Fault Refusal :=
  issueWord (.pref a sp n) s (fun c => c.done (.pref a sp n) s c.wave.core)

/-! ### Atomics -/

/-- The operand of an atomic at register d: the value, the new value of a cas, and the mark (R76, R188). -/
def Lane.atomOperand (l : Lane) (op : AtomOp) (d : Reg) : W64 × W64 × Bool :=
  let w := fun k => Sparse.get 0 l.regs (l.arch (d.toNat + k))
  let pair := fun k => (w (k + 1) ++ w k : W64)
  match op with
  | .cas32 => ((w 0).setWidth 64, (w 1).setWidth 64, l.marked d 2)
  | .cas64 => (pair 0, pair 2, l.marked d 4)
  | _ => if op.is64 then (pair 0, 0, l.marked d 2) else ((w 0).setWidth 64, 0, l.marked d 1)

/-- The atomics of the lanes that passed their checks. -/
def Issue.atomics (c : Issue) (s : State) (op : AtomOp) (d : Reg) (returns narrow : Bool)
    (oks : List (Nat × List (Target × Nat))) : List LaneAtomic :=
  oks.filterMap (fun p => (p.2.head?).map (fun q =>
    let x := (c.wave.core.lane p.1).atomOperand op d
    { lane := p.1, target := q.1, op := op, operand := x.1, cas := x.2.1, mark := x.2.2, returns := returns
      point := s.pointOf c.wave.coreId c.gang.stack q.1 narrow }))

/-- ATOM, ATOMR and MATOMR (R189 to R191): the lanes one after another in an order the device chooses; the old values
land as load data. -/
def Issue.atomic (c : Issue) (i : Instr) (s : State) (op : AtomOp) (d a : Reg) (sp : Sp) (sc : Scope) (o : AtomOrder)
    (returns narrow : Bool) : State :=
  c.access i s ⟨c.requests a 0 sp op.size true .atomic true, 0, true, true, .atomic⟩ (fun oks t w =>
    match c.flush oks t w with
    | none => none
    | some (t, w) =>
      let lanes := oks.map (fun p => p.1)
      if w.sysReleaseWaits (o == .rel) sc (maskOf lanes) then none
      else
        let xs := t.laneOrder (c.atomics t op d returns narrow oks)
        match t.performAtomics c.g c.w (fun n => t.laneAgent c.g c.w n (w.core.lane n) sc) (o == .rel) xs.length xs with
        | none => none
        | some (u, olds) =>
          let ps := oks.flatMap (fun p => p.2)
          let w := { w with core := w.core.learnTops u c.g c.w sc (fun _ => o == .acq) (olds.map (fun x => (x.1, x.2.2.2))) }
          if returns then
            let writes := olds.flatMap (fun x => loadWrites (w.core.lane x.1) x.1 d.toNat
              ((if op.is64 then MemTy.b64 else MemTy.b32).words (natLe op.size x.2.1.toNat)) x.2.2.1)
            some (u, if writes.isEmpty then w
              else { w with loads := w.loads ++ [u.inFlight c.gang.stack writes false true [] lanes ps] })
          else some (u, { w with stores := w.stores ++ oks.flatMap (fun p => u.acksOf c.gang.stack p.1 p.2) }))

/-- ATOM (R188). -/
def execAtom (f : AtomOp) (d : Reg) (a : Reg) (sc : Scope) (o : AtomOrder) (sp : WSpace) (s : State) :
    Host.Outcome State Fault Refusal :=
  issueWord (.atom f d a sc o sp) s (fun c => c.atomic (.atom f d a sc o sp) s f d a sp.sp sc o false (Scope.narrow sc))

/-- ATOMR (R188). -/
def execAtomr (f : AtomOp) (d : Reg) (a : Reg) (sc : Scope) (o : AtomOrder) (sp : WSpace) (s : State) :
    Host.Outcome State Fault Refusal :=
  issueWord (.atomr f d a sc o sp) s (fun c => c.atomic (.atomr f d a sc o sp) s f d a sp.sp sc o true (Scope.narrow sc))

/-- MATOMR (R188, R192). -/
def execMatomr (f : AtomOp) (d : Reg) (a : Reg) (sc : Scope) (o : AtomOrder) (s : State) :
    Host.Outcome State Fault Refusal :=
  issueWord (.matomr f d a sc o) s (fun c => c.atomic (.matomr f d a sc o) s f d a .ms sc o true false)

/-- The MATOM of one lane (R192): its point is fixed as it issues (R190, R400), and it comes after what its lane has
done. -/
def Issue.matomOf (c : Issue) (s : State) (w : Wave) (f : AtomOp) (d : Reg) (sc : Scope) (o : AtomOrder) (n pa : Nat)
    (side : Bool) (key : Nat) : Matom :=
  let l := w.core.lane n
  let x := l.atomOperand f d
  let a := s.laneAgent c.g c.w n l sc
  { gang := c.g, wave := c.w, lane := n, pa := pa, op := f, operand := x.1, cas := x.2.1, mark := x.2.2
    point := if side then 3 else 2, scope := sc, view := Seen.join l.know.view [(a.thread, s.history.length)]
    heads := a.heads (o == .rel) s.history.length, thread := matomThread key }

/-- MATOM (R192): it completes at issue and waits to be performed. -/
def execMatom (f : AtomOp) (d : Reg) (a : Reg) (sc : Scope) (o : AtomOrder) (s : State) :
    Host.Outcome State Fault Refusal :=
  issueWord (.matom f d a sc o) s (fun c =>
    c.access (.matom f d a sc o) s ⟨c.requests a 0 .ms f.size true .atomic true, 0, true, true, .atomic⟩
      (fun oks t w =>
        if w.sysReleaseWaits (o == .rel) sc (maskOf (oks.map (fun p => p.1))) then none
        else some ((t.laneOrder oks).foldl (fun u p =>
          match p.2.head? with
          | some (.mem pa leaf _, _) => { u with
              nextId := u.nextId + 1
              matoms := u.matoms ++ [c.matomOf u w f d sc o p.1 pa leaf.side u.nextId] }
          | _ => u) t, w)))

/-! ### Fences and monitors -/

/-- The wave has a MATOM that is not performed (R194). -/
def State.matomPending (s : State) (g w : Nat) : Bool := s.matoms.any (fun m => m.gang == g && m.wave == w)

/-- The acquire half of a fence in one lane (R288): the releases that its scoped reads have met, and with `.ms` those
that its MATOMs have. -/
def Lane.acquireFence (l : Lane) (sc : Scope) (place : Place) (more : List (Scope × Head)) : Lane :=
  { l with know := { l.know with view := (l.know.met ++ more).foldl (fun v h =>
      if h.2.meets sc h.1 place then Seen.join v h.2.view else v) l.know.view } }

/-- The lanes of a wave after a fence (R288, R290, R194). `fences` are the acquire-and-release fences so far. -/
def Issue.fenced (c : Issue) (s : State) (sc : Scope) (o : FenceOrder) (m : Bool) (fences : List (Place × Scope × Seen)) :
    WaveCore :=
  let place := s.placeOf c.g c.w
  let before := fences.foldl (fun v f =>
    if Scope.spans sc place f.1 && Scope.spans f.2.1 f.1 place then Seen.join v f.2.2 else v) []
  let core : WaveCore := if m then c.wave.core.learn c.wave.matoms else c.wave.core
  core.mapLanes (fun n l =>
    if !c.on n then l
    else
      let more := if m then (c.wave.matomMet.filter (fun x => x.1 == n)).map (fun x => x.2) else []
      let l := if o == .rel || sc == .none then l else l.acquireFence sc place more
      let l := if o == .both && sc != .none then { l with know := { l.know with view := Seen.join l.know.view before } } else l
      if o == .acq || sc == .none then l
      else { l with know := { l.know with
        fenced := l.know.fenced ++ [(sc, Seen.join l.know.view [(laneThread c.g c.w n, s.history.length)])] } })

/-- FENCE (R194, R288, R290): with `.ms` the wave stalls until every MATOM it issued has been performed, and what it
does later comes after them; a release at `.sys` waits for the system writes of its lanes (R353). The fence of a
speculating wave counts for others once the wave commits (R301). -/
def execFence (sc : Scope) (o : FenceOrder) (m : Bool) (s : State) : Host.Outcome State Fault Refusal :=
  issueWord (.fence sc o m) s (fun c =>
    if c.any && m && s.matomPending c.g c.w then s
    else if c.wave.sysReleaseWaits (o != .acq) sc c.active then s
    else
      let core := c.fenced s sc o m (s.fences ++ ((c.wave.spec.map Spec.fences).getD []))
      let mine := if o == .both && sc != .none && c.any then
        [(s.placeOf c.g c.w, sc, s.lanesView c.g c.w core c.active)] else []
      let spec := c.wave.spec.map (fun (sp : Spec) => { sp with fences := sp.fences ++ mine })
      let c' : Issue := { c with wave := { c.wave with spec := spec } }
      let t : State := if c.wave.spec.isSome then s else { s with fences := s.fences ++ mine }
      c'.done (.fence sc o m) t core)

/-- MON (R195): checks 1 and 2 of R179, no access. DESIGN CHOICE (assumption 108): a poison mark on the expected value is
dropped, and its bits are kept. -/
def execMon (k : MonCmp) (z : Bool) (a : Reg) (b : Reg) (s : State) : Host.Outcome State Fault Refusal :=
  issueWord (.mon k z a b) s (fun c =>
    let i := Instr.mon k z a b
    let core := c.wave.core
    let size := if z then 8 else 4
    let bad := maskOf ((bitsOf c.active).filter (fun n => ((core.lane n).src64 a).toNat % size != 0))
    match (bitsOf c.active).filter (fun n => (core.lane n).marked a 2) with
    | n :: _ => c.fault s reasonPoison ((core.lane n).src64 a).toNat 0 c.active
    | [] =>
      c.finish i s s (core.mapLanes (fun n l =>
        if c.on n && !has bad n then
          { l with monitor := some ⟨l.src64 a, z, k, if z then l.src64 b else (l.src32 b).setWidth 64⟩ }
        else l)) bad (fun _ => causeIllegalLane) c.entry.pc)

/-- MWAIT (R196): the entry blocks; MWAIT_RECHECK and MWAIT_TIMEOUT run its loop. -/
def execMwait (d : Reg) (a : Reg) (s : State) : Host.Outcome State Fault Refusal :=
  issueWord (.mwait d a) s (fun c =>
    let core := c.wave.core
    let l := core.lane c.first
    let timeout := (l.src32 a).toNat
    if !c.any then c.done (.mwait d a) s core
    else if l.marked a 1 then c.fault s reasonPoison 0 0 c.active
    else
      let armed := core.mapLanes (fun n x =>
        if c.on n then { x with mwait := if x.monitor.isNone then some 3 else none } else x)
      c.block (.mwait d a) s armed (.mwait d (if timeout = 0xFFFFFFFF then none
        else some ((s.stack c.gang.stack).now + timeout))))

end Machine
end Sys2Proof
end

