-- ==== Sys2Proof/Machine/Fetch.lean ====
section
/-! DEFINITION. Instruction fetch (R299, R395) and what stands at a wave's instruction boundary (R153, R159, R170,
R263). -/
namespace Sys2Proof.Machine

/-! ### Fetch -/

/-- The end of an instruction fetch; `wait` names host lines to recall, if any. -/
inductive Fetch
  | word (w : W32)
  | hold (page : Nat)
  | wait (lines : List Nat)
  | fault (reason : Nat)
  deriving DecidableEq, Repr

/-- The place in `State.history` from which a stack may still hold an old word of a line (R299): the start of the
launch there, inside its code range; outside, when its instruction memories took the line in, or now. -/
def State.codeSince (s : State) (gang : Gang) (pc pa : Nat) : Nat :=
  let lines := (aget (s.stack gang.stack).lines (pa / 128)).getD s.history.length
  match s.launchOf gang with
  | none => lines
  | some l =>
    if l.desc.code.toNat ≤ pc ∧ pc < l.desc.code.toNat + l.desc.codeSize then
      (aget l.codeFrom gang.stack).getD s.history.length
    else lines

/-- The word at an address as it stood at some time since then, as the device chooses (R299): whole, with the newest
of the stores since taken back. -/
def State.wordSince (s : State) (since pa : Nat) : Got :=
  let xs := (s.past .mem pa).filter (fun x => decide (since ≤ x.stamp) && decide (x.addr < pa + 4) && decide (pa < x.addr + x.new.length))
  (xs.take (s.chooseAt [20, pa] (xs.length + 1))).foldl (Got.undo pa) (presentIn s.mem s.poison pa 4)

/-- Fetch the word at a PC for a wave (R299, R395). A poisoned sector's code, and what a port that is down gives, have no
stated value (assumption 11). -/
def State.fetch (s : State) (gang : Gang) (wave : Wave) (pc : W64) : Fetch :=
  let st := gang.stack
  match s.translate (s.ctxOf gang) st (some wave.coreId) 65 pc.toNat .fetch false with
  | .hold => .hold (pc.toNat - pc.toNat % 65536)
  | .wait lines => .wait lines
  | .refused reason => .fault reason
  | .ok pa _ =>
    let lines := s.snoopLines pa 4 false
    if 2 ^ 56 ≤ pc.toNat then .fault reasonTranslation
    else if s.frozenFor st pa || !lines.isEmpty then .wait lines
    else
      let g := s.wordSince (s.codeSince gang pc.toNat pa) pa
      if g.mark || s.portDown st pa then
        .word (BitVec.ofNat 32 (leNat ((List.range 4).map (fun k => Config.freeByte s.tick (pa + k)))))
      else .word (BitVec.ofNat 32 (leNat g.bytes))

/-- The stack's instruction memories have taken in the line of a PC that a wave fetches (R299), and its translation
caches the page (R396). -/
def State.fetched (s : State) (gang : Gang) (wave : Wave) (pc : W64) : State :=
  let st := gang.stack
  match s.translate (s.ctxOf gang) st (some wave.coreId) 65 pc.toNat .fetch false with
  | .ok pa leaf =>
    (s.fillTlb (s.ctxOf gang) st (some wave.coreId) pc.toNat pa leaf).modStack st (fun t =>
      if (aget t.lines (pa / 128)).isSome then t else { t with lines := t.lines ++ [(pa / 128, s.history.length)] })
  | _ => s

/-! ### The instruction at a boundary -/

/-- The wave at its instruction boundary: its frontier merged (R153). -/
def WaveCore.boundary (core : WaveCore) : WaveCore := { core with frontier := mergeFrontier core.frontier }

/-- The joining entry that is judged satisfied first (R170). -/
def WaveCore.releasable (core : WaveCore) : Option Nat :=
  core.frontier.findIdx? (fun e => core.joinReady e)

/-- The instruction at entry k of a wave: its decoding, or the illegal word (R78), or what the fetch meets (R159). -/
def State.instructionAt (s : State) (g w : Nat) (gang : Gang) (wave : Wave) (e : Entry) : Instr :=
  match s.fetch gang wave e.pc with
  | .word v => (match decode v with | .ok i => i | .error _ => .illegalInstruction v)
  | _ => .fetchFault g w

/-- The wave is on the device and not stopped: resident, not retired, outside a halt (R163, R411). -/
def State.waveAlive (s : State) (g w : Nat) (gang : Gang) (wave : Wave) : Bool :=
  s.waveRuns g w gang { wave with parked := false }

/-- Change wave w of gang g by what its gang and itself give; nothing happens where there is none. -/
def State.atWave (s : State) (g w : Nat) (f : Gang → Wave → State) : State :=
  match aget s.gangs g with
  | none => s
  | some gang => match gang.waves[w]? with | none => s | some wave => f gang wave

/-- The selected entry of a wave (R153). -/
def Wave.selected (w : Wave) : Option Nat := selectEntry w.core.boundary.frontier

/-- The wave may issue an instruction: it runs, no YIELD holds it and no join is due (R153, R170, R175). -/
def State.waveMayIssue (s : State) (g w : Nat) (gang : Gang) (wave : Wave) : Bool :=
  s.waveRuns g w gang wave && !wave.yieldHold && (wave.core.releasable).isNone

/-- What the instruction that the wave would issue next meets, and the instruction. -/
def State.nextIssue (s : State) (g w : Nat) (gang : Gang) (wave : Wave) : Option (Instr × WaveCore × Entry × Decision) :=
  match wave.selected with
  | none => none
  | some k =>
    let core := wave.core.boundary
    match core.frontier[k]? with
    | none => none
    | some e =>
      let t : State := { s.setWave g w { wave with core := core } with cur := some (g, w, k) }
      let i := t.instructionAt g w gang wave e
      some (i, core, e, decideIssue i t)

/-- The wave stalls (R263): it has no selected entry, a YIELD holds it, or its instruction cannot issue. -/
def State.waveStalled (s : State) (g w : Nat) (gang : Gang) (wave : Wave) : Bool :=
  wave.yieldHold ||
  (match s.nextIssue g w gang wave with
   | none => true
   | some (_, _, _, d) => match d with | .hold _ => true | _ => false)

/-- The wave stalls at a switch point (R16): the latches that it loses by parking are lost there anyway. It has no
selected entry or a YIELD holds it, which its last instruction was, or the instruction that it stalls before is one.
-/
def State.parksHere (s : State) (g w : Nat) (gang : Gang) (wave : Wave) : Bool :=
  wave.yieldHold ||
  (match s.nextIssue g w gang wave with
   | none => true
   | some (i, core, e, d) =>
     (match d with | .hold _ => true | _ => false) &&
       (stallSwitch i core e || frontierSwitch core e || tokenHolds i wave))

/-- Its selected entry's priority, raised by one; 0 when none is selected. -/
def Wave.rank (w : Wave) : Nat :=
  match w.selected with
  | none => 0
  | some k => ((w.core.boundary.frontier[k]?).map (fun e => e.prio.toNat + 1)).getD 0

end Sys2Proof.Machine
end

