-- ==== Sys2Proof/Machine/Queue.lean ====
section
/-! DEFINITION. Queues (R361 to R369, R451): kicks, the accesses of the queue processor and the active complex, the status
block, stops, the fetching of packets and their completion. -/
namespace Sys2Proof.Machine

/-! ### Accesses of the queue processor and the active complex (R451) -/

/-- How a read ends: bytes, with what the reader knows after it as an acquire; a hold on a page; host copies to recall
first, or a frozen route to wait for; or a refusal, poison among the causes. -/
inductive CpRead
  | ok (bs : List Byte) (know : Know)
  | hold (page : Nat)
  | recall (lines : List Nat)
  | refused
  deriving DecidableEq, Repr

/-- The partition that a queue belongs to. -/
def State.queuePartition (s : State) (q : Queue) : Nat :=
  match q.admin with | some p => p | none => s.partitionOf q.ctx

/-- A hold on a page that was refused counts as refused (R451). -/
def Queue.judged (q : Queue) (r : Reach) : Reach :=
  match r with
  | .hold page => if q.refusedPage == some page then .fault reasonTranslation page else .hold page
  | r => r

/-- Where an atomic of a user queue goes. -/
def State.cpAtomic (s : State) (q : Queue) (va n : Nat) : Reach :=
  q.judged (s.reach q.ctx q.home 0 .atomic true (sectorPieces va n))

/-- Where an access of a queue goes: translated for a user queue; physical, within reach of the partition, for an
administrative one (R390). -/
def State.cpReach (s : State) (q : Queue) (write : Bool) (va n : Nat) : Reach :=
  match q.admin with
  | none => q.judged (s.reach q.ctx q.home 0 .command write (sectorPieces va n))
  | some p =>
    if (sectorPieces va n).all (fun x => s.reachable p q.home x.1) then
      .ok ((sectorPieces va n).map (fun x => (.mem x.1 ⟨0x80, false⟩ x.1, x.2)))
    else .fault reasonProtection va

/-- What an agent's loads find, and a port that is down completes poisoned (R354). -/
def Agent.lookOver (a : Agent) (st : Nat) (key : List Nat) (s : State) (t : Target) (n : Nat) : Got :=
  match t with
  | .spd _ => a.look key s t n
  | .mem pa _ _ => if s.portDown st pa then Got.lost n else a.look key s t n

/-- Read bytes for a queue as an agent, sector by sector (R365, R451). -/
def State.cpReadAs (s : State) (a : Agent) (q : Queue) (va n : Nat) : CpRead :=
  match s.cpReach q false va n with
  | .hold page => .hold page
  | .wait lines => .recall lines
  | .fault _ _ => .refused
  | .ok ps =>
    let lines := s.recallLines false ps
    let xs := ps.map (fun p => a.lookOver q.home [21] s p.1 p.2)
    if !lines.isEmpty || s.frozenPieces q.home ps then .recall lines
    else if xs.any (fun x => x.mark) then .refused
    else .ok (xs.flatMap (fun x => x.bytes)) (a.learn true (xs.flatMap (fun x => x.tops)))

/-- Read bytes for a queue, as the active complex: a load at `.sys`. -/
def State.cpRead (s : State) (q : Queue) (va n : Nat) : CpRead := s.cpReadAs s.cpAgent q va n

/-- How a write ends. -/
inductive CpWrite
  | ok (s : State)
  | hold (page : Nat)
  | recall (lines : List Nat)
  | refused
  deriving DecidableEq, Repr

/-- Write bytes for a queue, as the active complex: a release at `.sys` (R291, R363). -/
def State.cpWrite (s : State) (q : Queue) (va : Nat) (bs : List Byte) : CpWrite :=
  match s.cpReach q true va bs.length with
  | .hold page => .hold page
  | .wait lines => .recall lines
  | .fault _ _ => .refused
  | .ok ps =>
    let lines := s.recallLines true ps
    if !lines.isEmpty || s.frozenPieces q.home ps then .recall lines
    else .ok (s.storePieces s.cpAgent true q.home 0 bs false ps)

/-- The page of a queue's access is asked for (event 0x0101, kind 7), and the queue waits (R451). -/
def State.cpHold (s : State) (k : Nat) (q : Queue) (page : Nat) : State :=
  (s.modQueue k (fun x => { x with heldPage := some page })).pageRequest q.ctx q.home page .command

/-! ### The status block and stops -/

/-- The status block (R363). -/
def Queue.statusBytes (q : Queue) : List Byte :=
  natLe 8 q.consumed ++ natLe 8 q.completed ++ natLe 4 q.error ++ natLe 4 q.detail ++ natLe 8 q.index

/-- The queue-error event (R382). -/
def State.queueErrorEvent (s : State) (k : Nat) (q : Queue) : State :=
  s.send { code := 0x0001, partition := s.queuePartition q, stack := q.home, ctx := q.ctx,
           time := (s.stack q.home).now,
           detail := natLe 4 k ++ natLe 4 q.error ++ natLe 4 q.detail ++ natLe 8 q.index }

/-- Stop a queue without writing its status block; a queue stops once (R367). -/
def State.stopSilently (s : State) (k error detail index : Nat) : State :=
  match aget s.queues k with
  | none => s
  | some q =>
    if q.stopped then s
    else
      let q := { q with stopped := true, error := error, detail := detail, index := index }
      (s.modQueue k (fun _ => q)).queueErrorEvent k q

/-- Write the status block (R363); a refused write stops the queue with error 8, and only the event reports it (R451). -/
def State.writeStatus (s : State) (k : Nat) : State :=
  match aget s.queues k with
  | none => s
  | some q =>
    match s.cpWrite q q.status.toNat q.statusBytes with
    | .ok t => t.modQueue k (fun x => { x with statusDue := false })
    | .hold page => (s.modQueue k (fun x => { x with statusDue := true })).cpHold k q page
    | .recall lines => (s.modQueue k (fun x => { x with statusDue := true })).backInvalidate lines
    | .refused => (s.modQueue k (fun x => { x with statusDue := false })).stopSilently k 8 0 q.completed

/-- A queue stops (R367): the status block is written and the event is sent. -/
def State.stopQueue (s : State) (k error detail index : Nat) : State :=
  match aget s.queues k with
  | none => s
  | some q => if q.stopped then s else (s.stopSilently k error detail index).writeStatus k

/-! ### Packets: fields and checks (R368, R369) -/

/-- A little-endian field of a packet or other record. -/
def pkt (bs : List Byte) (off n : Nat) : Nat := imageField bs off n

/-- The bytes from one offset up to another are 0. -/
def zeros (bs : List Byte) (from_ upTo : Nat) : Bool := pkt bs from_ (upTo - from_) == 0

/-- Packet kind and flags. -/
def pktKind (bs : List Byte) : Nat := pkt bs 4 1
def pktAfter (bs : List Byte) : Bool := (pkt bs 5 1).testBit 0
def pktHeld (bs : List Byte) : Bool := (pkt bs 5 1).testBit 1

/-- A wait, signal or conditional value keeps to its size: a 32-bit value has bytes 20 to 23 zero (R369). -/
def valueOk (bs : List Byte) : Bool := decide (pkt bs 25 1 ≤ 1) && (pkt bs 25 1 == 1 || zeros bs 20 24)

/-- The words of an engine packet: header and parameters (R369). -/
def packetWords (bs : List Byte) : List W64 := (List.range 6).map (fun k => BitVec.ofNat 64 (pkt bs (16 + 8 * k) 8))

/-- The engine whose code a header holds (R211). -/
def engineOf (h : W64) : Option EngineKind :=
  match field h 63 60 with
  | 1 => some .cpy | 2 => some .gat | 3 => some .sct | 4 => some .bin | 5 => some .coll
  | _ => none

/-- An engine packet's own fields (R211, R212, R369, R370, R371). -/
def engineBodyOk (members : List Nat) (bs : List Byte) : Bool :=
  let ws := packetWords bs
  let h := ws.getD 0 0
  match engineOf h with
  | none => false
  | some k =>
    let ps := (ws.drop 1).take (field h 59 56)
    headerOk k (pktHeld bs) h && paramsOk k (hdrMode h) (hdrLength h) members ps && !hdrReport h &&
    (ws.drop (1 + field h 59 56)).all (fun w => w == 0) && pkt bs 8 7 % 8 == 0 &&
    decide (pkt bs 15 1 < 12) && members.contains (pkt bs 15 1) && !(pktHeld bs && k == .bin)

/-- The body of a packet or node keeps to R369; addresses that other rules judge are left to them. -/
def bodyOk (members : List Nat) (kind : Nat) (bs : List Byte) : Bool :=
  match kind with
  | 1 => zeros bs 16 64
  | 2 => zeros bs 25 32
  | 3 => engineBodyOk members bs
  | 4 => pkt bs 8 8 % 8 == 0 && valueOk bs && decide (pkt bs 24 1 ≤ 2) && zeros bs 26 64
  | 5 => pkt bs 8 8 % 8 == 0 && valueOk bs && decide (pkt bs 24 1 ≤ 1) && zeros bs 26 64
  | 6 => pkt bs 8 8 % 64 == 0 && decide (1 ≤ pkt bs 16 2 ∧ pkt bs 16 2 ≤ 256) && zeros bs 18 20 &&
      pkt bs 24 8 % 16 == 0 && zeros bs 32 64
  | 7 => pkt bs 8 8 % 64 == 0 && pkt bs 16 8 % 8 == 0 && zeros bs 24 64
  | 8 => pkt bs 8 8 % 4 == 0 && decide (pkt bs 20 1 ≤ 2) && zeros bs 21 64
  | _ => false

/-- An administrative packet's unnamed bytes are 0 and its fields are in range (R390, R434). -/
def adminBodyOk (kind : Nat) (bs : List Byte) : Bool :=
  let ctx := decide (pkt bs 8 2 < 4096)
  match kind with
  | 32 => pkt bs 8 8 % 128 == 0 && zeros bs 16 64
  | 33 => ctx && zeros bs 10 64
  | 34 => decide (pkt bs 16 4 < 65536) && zeros bs 20 64
  | 35 => decide (pkt bs 8 4 < 65536) && zeros bs 12 64
  | 36 => ctx && zeros bs 10 12 && zeros bs 20 64
  | 37 => ctx && zeros bs 10 64
  | 38 => ctx && zeros bs 10 16 && zeros bs 28 64
  | 39 => ctx && zeros bs 10 16 && zeros bs 24 64
  | 40 => ctx && zeros bs 10 16 && zeros bs 24 64
  | 41 => ctx && zeros bs 10 16 && decide (pkt bs 32 1 < 12) && zeros bs 33 64
  | 42 => decide (pkt bs 8 1 < 12) && decide (1 ≤ pkt bs 9 1 ∧ pkt bs 9 1 ≤ 3) && zeros bs 12 64
  | _ => false

/-- Kinds that a queue carries. -/
def kindOk (admin : Bool) (kind : Nat) : Bool :=
  if admin then decide (32 ≤ kind ∧ kind ≤ 42) else decide (1 ≤ kind ∧ kind ≤ 7)

/-- The error that a packet's own bytes give, 0 for none (R367): kind, then flags and body. -/
def State.packetError (s : State) (q : Queue) (bs : List Byte) : Nat :=
  let kind := pktKind bs
  let members := s.members (s.queuePartition q)
  if !kindOk q.admin.isSome kind then 1
  else if 4 ≤ pkt bs 5 1 ∨ (pktHeld bs ∧ kind ≠ 3) then 5
  else if q.admin.isSome then (if adminBodyOk kind bs then 0 else 5)
  else if bodyOk members kind bs then 0 else 5

/-! ### The body check (R366) -/

/-- One step of the CRC-16 of polynomial 0x1021, most significant bit first. -/
def crc16Bit (crc : Nat) (bit : Bool) : Nat :=
  let top := crc.testBit 15
  let shifted := crc * 2 % 65536
  if top != bit then shifted ^^^ 0x1021 else shifted

/-- The CRC-16 of bytes (R366). -/
def crc16 (bs : List Byte) : Nat :=
  bs.foldl (fun c b => (List.range 8).foldl (fun c k => crc16Bit c (has b (7 - k))) c) 0xFFFF

/-- The packet passes the body check, or the queue has none. -/
def Queue.checked (q : Queue) (bs : List Byte) : Bool := !q.check || pkt bs 6 2 == crc16 (bs.drop 8)

/-! ### Fetching (R364 to R366) -/

/-- The address of packet i. -/
def Queue.slot (q : Queue) (i : Nat) : Nat := q.ring.toNat + 64 * (i % 2 ^ q.size)

/-- The queue processor may work on the queue: it runs, and neither a halt, the ladder nor a page stops it. -/
def State.queueRuns (s : State) (q : Queue) : Bool :=
  !q.stopped && q.resetting.isNone && !(s.stack q.home).haltArrived && q.heldPage.isNone &&
  (q.admin.isSome || !(((aget s.contexts q.ctx).map Context.fetchStopped).getD true))

/-- Captured launches of a queue record each packet that is fetched (type 1, R445). -/
def State.logPacket (s : State) (k : Nat) (q : Queue) (bs : List Byte) : Option State :=
  s.launches.foldl (fun t p =>
    match t with
    | none => none
    | some u =>
      if p.2.owner.queue == k && !p.2.recorded && p.2.desc.capture then
        match u.logged q.home p.2 1 0 0 12 (natLe 4 k ++ natLe 8 q.consumed ++ bs) with
        | .hold => none
        | .go _ v => some v
      else some u) (some s)

/-- Packet bytes are copied: the packet is consumed and judged (R363, R367). -/
def State.takePacket (s : State) (k : Nat) (q : Queue) (bs : List Byte) : State :=
  match s.logPacket k q bs with
  | none => s.recallLog q.home
  | some s =>
    let i := q.consumed
    let s := (s.modQueue k (fun x => { x with consumed := i + 1, packet := bs, phase := .fetched })).writeStatus k
    let error := s.packetError q bs
    if error = 0 then s
    else (s.modQueue k (fun x => { x with phase := .idle })).stopQueue k error 0 i

/-- A KICKED value too far ahead (R364). -/
def Queue.overrun (q : Queue) : Bool := decide (q.consumed + 2 ^ q.size < q.kicked)

/-- Read the mark, as a load-acquire at `.sys`, and then the packet (R364); each sector of the body is what that acquire
leaves it (R365). A packet that fails its check is read again up to 8 times (R366). -/
def State.fetchPacket (s : State) (k : Nat) (q : Queue) : State :=
  let i := q.consumed
  let again := fun (p : QPhase) => s.modQueue k (fun x => { x with phase := p })
  let a := { s.cpAgent with know := Know.start [] }
  let failed := fun (r : CpRead) => match r with
    | .hold page => s.cpHold k q page
    | .recall lines => s.backInvalidate lines
    | _ => s.stopQueue k 8 0 i
  if q.overrun then s.stopQueue k 2 0 i
  else match s.cpReadAs a q (q.slot i) 4 with
  | .ok mark know =>
    if leNat mark ≠ (i + 1) % 2 ^ 32 then again .marking
    else match s.cpReadAs { a with know := know } q (q.slot i) 64 with
      | .ok body _ =>
        let bs := mark ++ body.drop 4
        if q.checked bs then
          let t : State := { s with cpKnow := { s.cpKnow with view := Seen.join s.cpKnow.view know.view } }
          (t.modQueue k (fun x => { x with view := know.view })).takePacket k { q with view := know.view } bs
        else match q.phase with
          | .checking tries => if 7 ≤ tries then s.stopQueue k 3 0 i else again (.checking (tries + 1))
          | _ => again (.checking 0)
      | r => failed r
  | r => failed r

/-- Work on a queue that may be worked on, after its status block has caught up. -/
def State.onQueue (s : State) (k : Nat) (f : Queue → State) : State :=
  match aget s.queues k with
  | none => s
  | some q =>
    if q.statusDue && q.heldPage.isNone then s.writeStatus k
    else if s.queueRuns q then f q else s

/-- PACKET_FETCH (R364): the next submitted packet; castling stops fetch (R385). -/
def execPacketFetch (q : Nat) (s : State) : Host.Outcome State Fault Refusal :=
  .next (s.onQueue q (fun x =>
    if s.castling.isSome || x.phase != .idle || x.kicked ≤ x.consumed then s else s.fetchPacket q x))

/-- MARK_REREAD (R364). -/
def execMarkReread (q : Nat) (s : State) : Host.Outcome State Fault Refusal :=
  .next (s.onQueue q (fun x => if s.castling.isNone && x.phase == .marking then s.fetchPacket q x else s))

/-- BODY_CHECK_RETRY (R366). -/
def execBodyCheckRetry (q : Nat) (s : State) : Host.Outcome State Fault Refusal :=
  .next (s.onQueue q (fun x => match x.phase with | .checking _ => s.fetchPacket q x | _ => s))

/-- KICK (R362): through a port of another partition, narrower than 8 bytes or to no queue, it is dropped and counted. -/
def execKick (port q bytes v : Nat) (s : State) : Host.Outcome State Fault Refusal :=
  let t := s.stack port
  let dropped := s.modStack port (fun x => { x with droppedKicks := x.droppedKicks + 1 })
  match aget s.queues q with
  | none => .next dropped
  | some x =>
    if bytes = 8 ∧ t.enable ∧ t.partNum = s.queuePartition x then
      .next (s.modQueue q (fun x => { x with kicked := max x.kicked (v % 2 ^ 64) }))
    else .next dropped

/-! ### Starting and completing packets (R368, R370) -/

/-- What happens before the accesses of the packet that the queue holds: its mark's release, and with its after flag
all that earlier packets did (R291, R368, R370). -/
def Queue.packetView (q : Queue) : Seen := if pktAfter q.packet then Seen.join q.view q.after else q.view

/-- The packet held may start: after its flag, once every earlier packet has completed. -/
def Queue.mayStart (q : Queue) : Bool :=
  q.phase == .fetched && (!pktAfter q.packet || decide (q.consumed ≤ q.completed + 1))

/-- The graph of a packet, at node 0 of pass 0 (R369, R374). -/
def graphOf (bs : List Byte) : Graph :=
  { nodes := BitVec.ofNat 64 (pkt bs 8 8), count := pkt bs 16 2, limit := pkt bs 20 4, state := BitVec.ofNat 64 (pkt bs 24 8)
    pass := 0, node := 0, busy := false, current := [], rings := [] }

/-- The packet that the queue holds starts; a graph packet's graph is about to start its first node. -/
def State.startPacket (s : State) (k : Nat) : State :=
  s.modQueue k (fun q => { q with
    phase := .idle
    openPackets := q.openPackets ++ [⟨q.consumed - 1, pktKind q.packet, q.packet,
      if pktKind q.packet = 6 then some (graphOf q.packet) else none, q.packetView⟩] })

/-- The lowest index that has not completed, past those done ahead. -/
def advanceOver (c : Nat) (ahead : List Nat) : Nat → Nat
  | 0 => c
  | fuel + 1 => if ahead.contains c then advanceOver (c + 1) ahead fuel else c

/-- Packet i has completed (R363). -/
def Queue.complete (q : Queue) (i : Nat) : Queue :=
  let ahead := i :: q.doneAhead
  let c := advanceOver q.completed ahead ahead.length
  { q with
    openPackets := q.openPackets.filter (fun p => p.index != i)
    completed := c
    doneAhead := ahead.filter (fun j => decide (c ≤ j)) }

/-- Packet i of a queue has completed; its status block says so, and a later packet's after flag comes after it (R368). -/
def State.notePacket (s : State) (k i : Nat) : State :=
  (s.modQueue k (fun q => { q.complete i with
    after := Seen.join q.after (Seen.join s.cpKnow.view [(cpThread, s.history.length)]) })).writeStatus k

/-- A queue right after its reset: KICKED, CONSUMED and the fields of the status block are 0 (R390). -/
def Queue.cleared (q : Queue) : Queue :=
  { q with
    kicked := 0, consumed := 0, completed := 0, error := 0, detail := 0, index := 0, phase := .idle, packet := []
    openPackets := [], doneAhead := [], stopped := false, statusDue := false, heldPage := none, resetting := none
    refusedPage := none, view := [], after := [] }

/-- A queue that is being reset is cleared once its started packets have completed; the administrative packet that asked
for it completes then (R390). -/
def State.settleReset (s : State) (k : Nat) : State :=
  match aget s.queues k with
  | none => s
  | some q =>
    match q.resetting with
    | none => s
    | some by_ =>
      if !q.openPackets.isEmpty then s
      else
        let t := (s.modQueue k Queue.cleared).writeStatus k
        match by_ with | none => t | some (a, i) => t.notePacket a i

/-- A started packet ends without completing, and its queue stops (R367); so may the queue's reset. -/
def State.failPacket (s : State) (k code detail i : Nat) : State :=
  ((s.modQueue k (fun q => { q with openPackets := q.openPackets.filter (fun p => p.index != i) })).stopQueue k code detail
    i).settleReset k

/-- Packet i of a queue completes, and so may the queue's reset. -/
def State.completePacket (s : State) (k i : Nat) : State := (s.notePacket k i).settleReset k

/-- An open packet of a queue. -/
def Queue.open (q : Queue) (i : Nat) : Option OpenPacket := q.openPackets.find? (fun p => p.index == i)

/-- Change an open packet. -/
def State.modOpen (s : State) (k i : Nat) (f : OpenPacket → OpenPacket) : State :=
  s.modQueue k (fun q => { q with openPackets := q.openPackets.map (fun p => if p.index == i then f p else p) })

end Sys2Proof.Machine
end

