-- ==== Sys2Proof/Machine/Ladder.lean ====
section
/-! DEFINITION. What the pre-emption ladder shares with the rest (R402): the gangs of a context, and a rung that ends. -/
namespace Sys2Proof.Machine

/-- The gangs of a context in a given state. -/
def State.gangsIn (s : State) (ctx : Nat) (x : GangState) : List Nat :=
  (s.gangs.filter (fun p => p.2.state == x && s.ctxOf p.2 == ctx)).map (fun p => p.1)

/-- The gangs of a context that hold cores. -/
def State.gangsOn (s : State) (ctx : Nat) : List Nat := s.gangsIn ctx .resident ++ s.gangsIn ctx .dying

/-- An event of an administrative queue's partition, reported by the queue's home stack. -/
def State.adminEvent (s : State) (k code ctx : Nat) (detail : List Byte) : State :=
  match aget s.queues k with
  | none => s
  | some q => s.send { code := code, partition := s.queuePartition q, stack := q.home, ctx := ctx
                       time := (s.stack q.home).now, detail := detail }

/-- A pre-empt request ends on rung 1 or 2 (R402): event 0x0104, and the packet completes. -/
def State.preempted (s : State) (ctx rung queue index : Nat) : State :=
  let saved := (s.gangsIn ctx .saved).length
  ((s.modContext ctx (fun c => { c with rung := .none })).adminEvent queue 0x0104 ctx
    (natLe 1 rung ++ natLe 3 0 ++ natLe 4 saved)).completePacket queue index

/-- The ladder's first two rungs end when no gang of the context holds cores (R402). -/
def State.settleLadder (s : State) (ctx : Nat) : State :=
  match aget s.contexts ctx with
  | none => s
  | some c =>
    if !(s.gangsOn ctx).isEmpty then s
    else match c.rung with
      | .none => s
      | .drain queue index _ _ => s.preempted ctx 1 queue index
      | .evict queue index _ => s.preempted ctx 2 queue index

/-! ### The save area's counts (R406) -/

/-- The saved gangs of a context, in image order. -/
def State.savedGangs (s : State) (ctx : Nat) : List (Nat × Gang) :=
  (s.gangs.filter (fun p => p.2.state == .saved && s.ctxOf p.2 == ctx)).foldl (fun xs p =>
    xs.takeWhile (fun q => decide (q.2.image < p.2.image)) ++ p :: xs.dropWhile (fun q => decide (q.2.image < p.2.image))) []

/-- Bytes of the save area in use: the first 4096 and every image up to the last one's end (assumption 42). -/
def State.savedBytes (s : State) (ctx : Nat) : Nat :=
  (s.savedGangs ctx).foldl (fun n p => max n (p.2.image + p.2.imageSize)) 4096

/-- Write the two counts of a save area. -/
def State.writeCounts (s : State) (c : Context) (used images : Nat) : State :=
  s.putDevice c.saveArea (natLe 8 used ++ natLe 8 images ++ List.replicate 4080 0)

/-- A resume request ends when no gang of the context is saved any more: both counts are 0 (R390, R406). -/
def State.settleResume (s : State) (ctx : Nat) : State :=
  match aget s.contexts ctx with
  | none => s
  | some c =>
    if c.resuming.isEmpty || !(s.savedGangs ctx).isEmpty then s
    else c.resuming.foldl (fun t p => t.completePacket p.1 p.2)
      ((s.modContext ctx (fun x => { x with resuming := [] })).writeCounts c 0 0)

/-- An image leaves the save area, whose counts follow. -/
def State.dropImage (s : State) (ctx : Nat) : State :=
  match aget s.contexts ctx with
  | none => s
  | some c =>
    let n := (s.savedGangs ctx).length
    (s.writeCounts c (if n = 0 then 0 else s.savedBytes ctx) n).settleResume ctx

/-- Started work of a gang that must finish before its cores and banks are freed (R163, R329): accesses in flight, and
commands and matrix operations that have started. -/
def State.quiet (s : State) (g : Nat) : Bool :=
  (match aget s.gangs g with
   | none => true
   | some x => (x.waves.mapIdx (fun w v => (w, v))).all (fun p =>
       p.2.loads.isEmpty && p.2.stores.isEmpty && !s.matomPending g p.1)) &&
  !(s.gangOps g).any (fun p => p.2.started) &&
  !s.commands.any (fun p => p.2.owner.gang == some g && p.2.begun)

end Sys2Proof.Machine
end

