-- ==== Sys2Proof/Machine/WaveEvents.lean ====
section
/-! DEFINITION. Events of a wave and of a gang: the illegal word and the fetch fault (R78, R159, R395), handler entry
(R238), the release of a join (R170), retirement (R163), the YIELD hold (R175), age promotion (R264), the shelf (R16,
R265) and the watchdog (R392). -/
namespace Sys2Proof.Machine

/-- ILLEGAL_INSTRUCTION (R78, R79): a word that decodes to nothing traps in every lane of its entry. -/
def execIllegalInstruction (w : BitVec 32) (s : State) : Host.Outcome State Fault Refusal :=
  issueWord (.illegalInstruction w) s (fun _ => s)

/-- The stop-record facts of a fault that a wave raises outside an instruction's execution (R414). -/
def waveHalt (s : State) (g w : Nat) (gang : Gang) (wave : Wave) (reason : Nat) (pc addr : W64) : Halt :=
  { src := some (g, w), reason := reason, stack := gang.stack, slot := wave.coreId, ctx := s.ctxOf gang
    launch := s.launchid gang, pc := pc, addr := addr, wave := w, performed := 0, skipped := 0, written := false }

/-- FETCH_FAULT (R159, R395): the selected entry's fetch is refused, which is a fault (held while the wave speculates,
R337), or meets a page that is not present, which blocks that entry alone. -/
def execFetchFault (g w : Nat) (s : State) : Host.Outcome State Fault Refusal :=
  .next (s.atWave g w (fun gang wave =>
    let core := wave.core.boundary
    let s1 := s.setWave g w { wave with core := core }
    if !s.waveMayIssue g w gang wave then s
    else match selectEntry core.frontier with
    | none => s
    | some k =>
      match core.frontier[k]? with
      | none => s
      | some e =>
        match s.fetch gang wave e.pc with
        | .word _ => s
        | .wait lines => s.backInvalidate lines
        | .hold page =>
          (s1.setWave g w { wave with
            core := { core with frontier := core.frontier.set k { e with state := .blocked (.fetch e.pc) } } }).pageRequest
            (s.ctxOf gang) gang.stack page .fetch
        | .fault reason =>
          match wave.spec with
          | some sp =>
            if sp.fault.isSome then s
            else s1.setWave g w { wave with core := core, spec := some { sp with fault := some (reason, e.pc) } }
          | none => s1.raiseHalt (waveHalt s g w gang wave reason e.pc e.pc)))

/-! ### Handler entry (R238 to R241) -/

/-- The wave as the thread that writes its trap record, which its lanes come before (R239). -/
def State.recordAgent (s : State) (g w : Nat) (wave : Wave) : Agent :=
  ⟨some (g, w), waveThread g w, s.placeOf g w, .none, Know.start (s.lanesView g w wave.core 0xFFFFFFFF)⟩

/-- The trap record is written and the wave is in its handler, whose instructions come after the record (R238). -/
def State.enterHandler (s : State) (g w : Nat) (gang : Gang) (wave : Wave) (c : Context) (l : Launch)
    (ps : List (Target × Nat)) : State :=
  let ctx := s.ctxOf gang
  let st := gang.stack
  let record := trapRecord wave.core (s.stack st).now l.desc.launchid
  let t := (s.fillFrom ctx st (some wave.coreId) ps).storePieces (s.recordAgent g w wave) false st wave.coreId record false ps
  t.setWave g w { wave with
    core := (wave.core.enterHandler c.trapEntry).learn [(waveThread g w, t.history.length)]
    stores := wave.stores ++ s.acksOf st 32 ps
    entering := false }

/-- HANDLER_ENTRY (R238, R239, R245): it is due and no join release is; no handler is a fault, and so is a refused record
store; a page that is not present holds the entry, which then waits for nothing else. -/
def execHandlerEntry (g w : Nat) (s : State) : Host.Outcome State Fault Refusal :=
  .next (s.atWave g w (fun gang wave =>
    let ctx := s.ctxOf gang
    let st := gang.stack
    if !s.waveAlive g w gang wave || wave.held.isSome ||
        !(wave.entering || (wave.core.handlerDue && wave.core.releasable.isNone)) then s
    else match aget s.contexts ctx, s.launchOf gang with
    | some c, some l =>
      let record := trapRecordAddress c l gang w
      if c.trapEntry = 0 ∨ c.trapArea = 0 then
        s.raiseHalt (waveHalt s g w gang wave reasonNoHandler wave.lastPc 0)
      else match s.reachFrom ctx st (some wave.coreId) 32 (s.spadSize gang) .trapRecord true (sectorPieces record 512) with
      | .fault reason va => s.raiseHalt (waveHalt s g w gang wave reason wave.lastPc (BitVec.ofNat 64 va))
      | .wait lines => s.backInvalidate lines
      | .hold page =>
        (s.setWave g w { wave with entering := true }).pageRequest ctx st page .trapRecord
      | .ok ps => s.whenClear st true ps (s.enterHandler g w gang wave c l ps)
    | _, _ => s))

/-! ### Joins -/

/-- JOIN_RELEASE (R170). -/
def execJoinRelease (g w e : Nat) (s : State) : Host.Outcome State Fault Refusal :=
  .next (s.atWave g w (fun gang wave =>
    match wave.core.frontier[e]? with
    | none => s
    | some x =>
      if s.waveAlive g w gang wave && wave.core.joinReady x then
        s.setWave g w { wave with core := wave.core.releaseJoin e x }
      else s))

/-! ### Retirement -/

/-- The wave may retire (R163): every lane has exited, no token is pending, and nothing it issued is outstanding. -/
def State.mayRetire (s : State) (g w : Nat) (gang : Gang) (wave : Wave) : Bool :=
  gang.state == .resident && !wave.retired && !(s.stack gang.stack).haltArrived && wave.core.live == 0 &&
  wave.pending.isEmpty && wave.loads.isEmpty && wave.stores.isEmpty && wave.held.isNone && wave.left.isEmpty &&
  !s.matomPending g w

/-- A streamed MXGO of the wave is queued: its handles stay in q5 for it (R308). -/
def State.streams (s : State) (g w : Nat) : Bool :=
  (s.gangOps g).any (fun p => p.2.wave == w && p.2.fn == .mxgo && blockStream p.2.block)

/-- WAVE_RETIRE (R163, R200, R201): its queue words are discarded, but for handles that a queued MXGO is to take
(R308); it leaves the gang's barriers; and its launch's completion record comes after what it has done (R291). -/
def execWaveRetire (g w : Nat) (s : State) : Host.Outcome State Fault Refusal :=
  .next (s.atWave g w (fun gang wave =>
    if s.mayRetire g w gang wave then
      let q5 := if s.streams g w then wave.push.getD 5 [] else []
      let done := Seen.join (s.lanesView g w wave.core 0xFFFFFFFF) wave.matoms
      ((s.setWave g w { wave with
        retired := true, push := (List.replicate 8 []).set 5 q5, pop := List.replicate 8 [] }).modLaunch gang.launch
          (fun l => { l with finish := Seen.join l.finish done })).retireFromBarriers g w
    else s))

/-- The gang's deadline has passed on its stack (R329). -/
def State.pastDeadline (s : State) (x : Gang) : Bool :=
  match s.launchOf x with
  | none => false
  | some l => l.desc.deadline != 0 && decide (l.desc.deadline ≤ (s.stack x.stack).now)

/-- The gang may retire (R163): every wave has, and no operation is left on its units. A gang whose deadline has passed
is killed instead. -/
def State.gangMayRetire (s : State) (g : Nat) (x : Gang) : Bool :=
  x.state == .resident && !(s.stack x.stack).haltArrived && x.waves.all (fun w => w.retired) &&
  (s.gangOps g).isEmpty && !s.pastDeadline x

/-- A gang leaves the device for good: it leaves its launch's barriers, and cores, banks and grant are free (R163,
R201, R220). -/
def State.gangGone (s : State) (g : Nat) : State :=
  match aget s.gangs g with
  | none => s
  | some x => (((s.gangLeaves g).freeGang g .done)).settleLadder (s.ctxOf x)

/-- GANG_RETIRE (R163, R174, R328); a killed gang whose started work has finished goes the same way and is counted as
killed (R329). -/
def execGangRetire (g : Nat) (s : State) : Host.Outcome State Fault Refusal :=
  match aget s.gangs g with
  | none => .next s
  | some x =>
    if s.gangMayRetire g x then .next ((s.modLaunch x.launch (fun l => l.retired x)).gangGone g)
    else if x.state == .dying && s.quiet g && !(s.stack x.stack).haltArrived then
      .next ((s.modLaunch x.launch (fun l => { l with killed := l.killed + 1 })).gangGone g)
    else .next s

/-! ### Issue order and the shelf -/

/-- The nanoseconds that 256 core cycles take (R1, R175). -/
def yieldHoldTime : Nat := 71

/-- YIELD_HOLD_EXPIRY (R175): 256 core cycles have passed since the YIELD issued. -/
def execYieldHoldExpiry (g w : Nat) (s : State) : Host.Outcome State Fault Refusal :=
  .next (s.atWave g w (fun gang wave =>
    if s.waveAlive g w gang wave && decide (wave.progress + yieldHoldTime ≤ (s.stack gang.stack).now) then
      s.setWave g w { wave with yieldHold := false }
    else s))

/-- ISSUE_AGE_PROMOTION (R264): a wave that could issue counts as priority 64 until it does. -/
def execIssueAgePromotion (g w : Nat) (s : State) : Host.Outcome State Fault Refusal :=
  .next (s.atWave g w (fun gang wave =>
    if s.waveMayIssue g w gang wave && !s.waveStalled g w gang wave then s.setWave g w { wave with aged := true }
    else s))

/-- The other waves of a wave's core that have not retired. -/
def State.coreMates (s : State) (gang : Gang) (wave : Wave) : List (Nat × Nat × Gang × Wave) :=
  s.gangs.flatMap (fun p =>
    if p.2.state == .resident && p.2.stack == gang.stack then
      (p.2.waves.mapIdx (fun w x => (p.1, w, p.2, x))).filter (fun q =>
        q.2.2.2.coreId == wave.coreId && !q.2.2.2.retired)
    else [])

/-- A YIELD's hold ends: every other ready resident wave of its core has issued an instruction since, or 256 core
cycles have passed (R175). -/
def State.holdOver (s : State) (g w : Nat) (gang : Gang) (wave : Wave) : Bool :=
  wave.yieldHold && (decide (wave.progress + yieldHoldTime ≤ (s.stack gang.stack).now) ||
    (s.coreMates gang wave).all (fun q =>
      (q.1 == g && q.2.1 == w) || q.2.2.2.rank == 0 || decide (wave.issued < q.2.2.2.issued)))

/-- The holds that are over end (R175). -/
def State.endHolds (s : State) : State :=
  { s with gangs := s.gangs.map (fun p => (p.1, { p.2 with waves := p.2.waves.mapIdx (fun w x =>
      if s.holdOver p.1 w p.2 x then { x with yieldHold := false } else x) })) }

/-- A window of the core's active store is free (R252, R265). -/
def State.windowFree (s : State) (gang : Gang) (wave : Wave) : Bool :=
  decide (s.windowsHeld gang.stack wave.coreId < 16)

/-- A goes before b in the order of R264: higher rank, then longer since it issued, then the lower slot. -/
def Wave.ahead (a b : Wave) : Bool :=
  decide (b.rank < a.rank) || (a.rank == b.rank && (decide (a.issued < b.issued) ||
    (a.issued == b.issued && decide (a.slot < b.slot))))

/-- PARK_WAVE (R16, R265): the wave of lowest priority that is stalled at a switch point of lowest priority goes to
the shelf, with its latches lost, when a parked wave is ready and no window is free; the park is counted (R443). -/
def execParkWave (g w : Nat) (s : State) : Host.Outcome State Fault Refusal :=
  .next (s.atWave g w (fun gang wave =>
    let mates := s.coreMates gang wave
    let readyParked := mates.any (fun q => q.2.2.2.parked && q.2.2.2.rank != 0)
    let lowest := mates.all (fun q =>
      q.2.2.2.parked || !s.parksHere q.1 q.2.1 q.2.2.1 q.2.2.2 || decide (wave.rank ≤ q.2.2.2.rank))
    if s.waveRuns g w gang wave && s.parksHere g w gang wave && readyParked && !s.windowFree gang wave && lowest then
      (s.modStack gang.stack (fun t => t.count 0x0D0 1)).setWave g w { wave with
        parked := true, core := { wave.core with latchCount := 0 } }
    else s))

/-- RECALL_WAVE (R265): of the parked waves that have a ready entry, the first in the order of R264 returns to a free
window. Its time on the shelf is no time without progress (R392; assumption 116). -/
def execRecallWave (g w : Nat) (s : State) : Host.Outcome State Fault Refusal :=
  .next (s.atWave g w (fun gang wave =>
    let first := (s.coreMates gang wave).all (fun q =>
      (q.1 == g && q.2.1 == w) || !q.2.2.2.parked || q.2.2.2.rank == 0 || !q.2.2.2.ahead wave)
    if s.waveAlive g w gang wave && wave.parked && wave.rank != 0 && s.windowFree gang wave && first then
      s.setWave g w { wave with parked := false, progress := (s.stack gang.stack).now }
    else s))

/-! ### The watchdog -/

/-- The wave's time counts against the watchdog (R392): it is not in MWAIT, holds no access and waits for no recall,
and some lane of it has not exited. -/
def Wave.watched (w : Wave) : Bool :=
  !w.waits && !(w.parked && w.rank != 0) && w.core.live != 0 && w.core.frontier.all (fun e =>
    match e.state with | .blocked (.mwait _ _) => false | .blocked (.fetch _) => false | _ => true)

/-- WATCHDOG_EXPIRY (R247, R392). -/
def execWatchdogExpiry (g w : Nat) (s : State) : Host.Outcome State Fault Refusal :=
  .next (s.atWave g w (fun gang wave =>
    match aget s.contexts (s.ctxOf gang) with
    | none => s
    | some c =>
      if s.waveAlive g w gang wave && wave.watched && c.watchdog != 0 &&
          decide (wave.progress + 1000 * c.watchdog < (s.stack gang.stack).now) then
        s.raiseHalt (waveHalt s g w gang wave reasonWatchdog wave.lastPc 0)
      else s))

end Sys2Proof.Machine
end

