-- ==== Sys2Proof/Machine/MemEvents.lean ====
section
/-! DEFINITION. Accesses in flight (R198): load data landing, acknowledgements, return-free atomics performed (R192), and
the loop of MWAIT (R196). -/
namespace Sys2Proof.Machine

/-! ### Load data and acknowledgements -/

/-- Load data lands in a core: each register by its architectural number (R180, R198). -/
def WaveCore.land (core : WaveCore) (ws : List RegWrite) : WaveCore :=
  core.mapLanes (fun n l => ws.foldl (fun x w =>
    if w.lane = n then
      { x with regs := Sparse.set 0 x.regs w.reg w.val, marks := Sparse.set false x.marks w.reg w.mark }
    else x) l)

/-- Pending load k of a wave lands. Data of a load that was issued before speculation began also belongs to the
checkpoint. -/
def Wave.landLoad (w : Wave) (k : Nat) (p : PendingLoad) : Wave :=
  { w with
    core := w.core.land p.writes
    loads := w.loads.eraseIdx k
    spec := if p.spec then w.spec else w.spec.map (fun sp => { sp with checkpoint := sp.checkpoint.land p.writes }) }

/-- The lines of the device cache that a load has filled (R352, R354). -/
def State.install (s : State) (lines : List (Nat × Nat)) : State :=
  lines.foldl (fun t q => t.touch q.2 (128 * q.1) false) s

/-- The link of a port is up; accesses inside the package use none. -/
def State.portUp (s : State) (p : Option Nat) : Bool := match p with | none => true | some x => (s.stack x).linkUp

/-- LOAD_REPLY (R198): the reply of pending load k arrives. -/
def execLoadReply (g w k : Nat) (s : State) : Host.Outcome State Fault Refusal :=
  .next (s.atWave g w (fun _ wave =>
    match wave.loads[k]? with
    | none => s
    | some p =>
      if s.portUp p.port && !p.returned then (s.setWave g w (wave.landLoad k p)).install p.lines else s))

/-- STORE_ACK (R198): one outstanding store or atomic of the wave is acknowledged; which one is free. -/
def execStoreAck (g w : Nat) (s : State) : Host.Outcome State Fault Refusal :=
  .next (s.atWave g w (fun _ wave =>
    let k := s.choose 20 wave.stores.length
    match wave.stores[k]? with
    | none => s
    | some p =>
      if s.portUp p.port && !p.returned then s.setWave g w { wave with stores := wave.stores.eraseIdx k } else s))

/-- MATOM_PERFORM (R192): pending MATOM k is performed at its channel; those of one lane to one address go in order. -/
def execMatomPerform (k : Nat) (s : State) : Host.Outcome State Fault Refusal :=
  match s.matoms[k]? with
  | none => .next s
  | some m =>
    let lines := s.snoopLines m.pa m.op.size true
    if s.pendingMatom m.gang m.wave m.lane m.pa m.op.size != some k then .next s
    else if !lines.isEmpty then .next (s.backInvalidate lines)
    else .next ((s.performMatom k).getD s)

/-! ### MWAIT (R196) -/

/-- The compare of a monitor. -/
def Monitor.holds (m : Monitor) (v : Nat) : Bool :=
  match m.cmp with
  | .ne => v != m.expected.toNat
  | .eq => v == m.expected.toNat
  | .ge => decide (m.expected.toNat ≤ v)

/-- Bytes a monitor watches. -/
def Monitor.size (m : Monitor) : Nat := if m.wide then 8 else 4

/-- The request of a waiting lane: a scoped load at `.sys`. -/
def Monitor.request (m : Monitor) (core lane : Nat) : Request :=
  ⟨.gen, m.addr.toNat, m.size, true, .load, false, false, some core, lane⟩

/-- The lanes of an entry that still wait, with their monitors. -/
def WaveCore.waitingLanes (core : WaveCore) (e : Entry) : List (Nat × Monitor) :=
  (bitsOf e.active).filterMap (fun n =>
    let l := core.lane n
    match l.mwait, l.monitor with
    | none, some m => some (n, m)
    | _, _ => none)

/-- The entry leaves MWAIT: each active lane's d takes its status, marked for poison (R196). Its registers were marked
for the fourth row of R19 as it issued. -/
def WaveCore.leaveMwait (core : WaveCore) (k : Nat) (e : Entry) (d : Reg) : WaveCore :=
  let done := core.mapLanes (fun n l =>
    if has e.active n then
      let st := l.mwait.getD 1
      { l.put32 d.toNat st (st == 4) with mwait := none }
    else l)
  { done with frontier := core.frontier.set k { e.next with state := .ready } }

/-- The waiting lanes of an entry take a status. -/
def WaveCore.giveStatus (core : WaveCore) (e : Entry) (st : W32) : WaveCore :=
  core.mapLanes (fun n l => if has e.active n && l.mwait.isNone then { l with mwait := some st } else l)

/-- Read the waiting lanes' locations, lane after lane, and judge them: the core whose lanes have a status now, and
know what their reads told them; none while replay holds a read. The read that sets status 0 is an acquire at `.sys`,
any other is relaxed (R196). -/
def State.readMonitors (g w : Nat) (gang : Gang) (wave : Wave) :
    List (Nat × Monitor × List (Target × Nat)) → State → WaveCore → Option (State × WaveCore)
  | [], s, core => some (s, core)
  | (n, m, ps) :: rest, s, core =>
    let a := s.laneAgent g w n (core.lane n) .sys
    match State.readThrough (a.look [2, n]) gang.stack wave.coreId wave.slot (s.launchOf gang) ps s with
    | none => none
    | some (xs, t) =>
      let held := m.holds (leNat (xs.flatMap (fun x => x.bytes)))
      let st : Option W32 := if xs.any (fun x => x.mark) then some 4 else if held then some 0 else none
      let know := a.learn (st == some 0) (xs.flatMap (fun x => x.tops))
      State.readMonitors g w gang wave rest t
        (core.mapLanes (fun j l => if j = n then { l with mwait := st, know := know } else l))

/-- How a pass over the waiting lanes goes: the lanes are read, all of them or none; or the pass waits, with what it
has asked for; or a lane's access is refused. -/
inductive MwaitPass
  | read (s : State) (core : WaveCore)
  | wait (s : State)
  | fault (s : State)
  deriving DecidableEq, Repr

/-- One pass over the waiting lanes of an entry (R179, R196): a refusal comes first, and a lane that is held, or that must
wait for a host copy, a frozen route or a record of the log, holds the pass. MATOMs of the lanes come before their reads
(R192). -/
def State.mwaitPass (s : State) (g w : Nat) (gang : Gang) (wave : Wave) (e : Entry) : MwaitPass :=
  let ctx := s.ctxOf gang
  let st := gang.stack
  let lanes := wave.core.waitingLanes e
  let j := s.judge ctx st (s.spadSize gang) (lanes.map (fun p => (p.1, p.2.request wave.coreId p.1)))
  let pieces := j.ok.flatMap (fun p => p.2)
  let lines := j.waits.flatten ++ s.recallLines false pieces
  match j.faults[s.choose 10 j.faults.length]? with
  | some (_, reason, va) =>
    .fault (s.raiseHalt { waveHalt s g w gang wave reason wave.lastPc (BitVec.ofNat 64 va) with
      skipped := maskOf (lanes.map (fun p => p.1)) })
  | none =>
    if !j.holds.isEmpty then .wait (j.holds.foldl (fun t h => t.pageRequest ctx st h.2 .load) s)
    else if !j.waits.isEmpty || s.frozenPieces st pieces || !lines.isEmpty then .wait (s.backInvalidate lines)
    else match s.flushLanes g w j.ok with
    | none => .wait (s.backInvalidate (s.matomLines g w))
    | some t =>
      let v := (t.wave g w).getD wave
      let reads := lanes.filterMap (fun p => (aget j.ok p.1).map (fun ps => (p.1, p.2, ps)))
      match State.readMonitors g w gang v reads (t.fillFrom ctx st (some wave.coreId) pieces) v.core with
      | none => .wait (s.recallLog st)
      | some (u, core) => .read (u.install (u.fillLines st pieces)) core

/-- Flag fall has occurred on the wave's stack and has not diverted it (R196). -/
def State.flagFell (s : State) (gang : Gang) (wave : Wave) : Bool :=
  !wave.diverted && ((s.launchOf gang).map (fun l => l.ffStacks.contains gang.stack)).getD false

/-- The end of a pass: leave with what each lane has, or wait on. -/
def State.mwaitEnd (s : State) (g w k : Nat) (gang : Gang) (wave : Wave) (core : WaveCore) (e : Entry) (d : Reg)
    (expiry : Option Nat) : State :=
  let now := (s.stack gang.stack).now
  let timedOut := match expiry with | none => false | some x => decide (x ≤ now)
  let put := fun (c : WaveCore) (done : Bool) => s.modWave g w (fun v =>
    { v with core := if done then c.leaveMwait k e d else c, progress := if done then now else v.progress })
  if (core.waitingLanes e).isEmpty then put core true
  else if s.flagFell gang wave then put (core.giveStatus e 2) true
  else if timedOut then put (core.giveStatus e 1) true
  else put core false

/-- The loop body of MWAIT for entry k (R196). -/
def State.mwaitLoop (s : State) (g w k : Nat) (needExpiry : Bool) : State :=
  s.atWave g w (fun gang wave =>
    match wave.core.frontier[k]? with
    | none => s
    | some e =>
      match e.state with
      | .blocked (.mwait d expiry) =>
        let expired := match expiry with | none => false | some x => decide (x ≤ (s.stack gang.stack).now)
        if !s.waveAlive g w gang wave || (needExpiry && !expired) then s
        else match s.mwaitPass g w gang wave e with
          | .read t core => t.mwaitEnd g w k gang wave core e d expiry
          | .wait t => t
          | .fault t => t
      | _ => s)

/-- MWAIT_RECHECK (R196). -/
def execMwaitRecheck (g w e : Nat) (s : State) : Host.Outcome State Fault Refusal := .next (s.mwaitLoop g w e false)

/-- MWAIT_TIMEOUT (R196): the pass at or after the expiry. -/
def execMwaitTimeout (g w e : Nat) (s : State) : Host.Outcome State Fault Refusal := .next (s.mwaitLoop g w e true)

end Sys2Proof.Machine
end

