-- ==== Sys2Proof/Machine/MatrixEvents.lean ====
section
/-! DEFINITION. What queued matrix operations do (R222 to R226, R305 to R309, R314 to R318, R452): the order in which they
start, operand fetch, the products of R101, stores of R105, self-tests, and how an operation ends. -/
namespace Sys2Proof.Machine

/-! ### Operands -/

/-- A codebook half that was poisoned is kept as numbers no BF16 value has (R452). -/
def codebookPoison : Nat := 65536

/-- A code through a codebook (R88). -/
def codeValue (book : List Nat) (c : Nat) : XVal :=
  let v := book.getD c 0
  if codebookPoison ≤ v then .nan true else fmtBf16.decode v

/-- A stored element's value before its scale (R93). -/
def elementValue (format : Nat) (book : List Nat) (v : Nat) : XVal :=
  match format with
  | 1 => fmtF32.decode v
  | 2 => fmtF16.decode v
  | 3 => fmtBf16.decode v
  | 4 => fmtE4m3.decode v
  | 5 => fmtE5m2.decode v
  | 16 => fmtE4m3.decode v
  | 17 => fmtE5m2.decode v
  | 18 => fmtE2m1.decode v
  | 19 => codeValue book v
  | _ => .nan true

/-- A value under a scale byte (R93): 0xFF gives a quiet NaN, whatever the element holds. -/
def scaled (scale : Nat) : XVal → XVal
  | .fin n m e => if scale = 255 then .nan false else .fin n m (e + (scale : Int) - 127)
  | x => if scale = 255 then .nan false else x

/-- The value of an element of a loaded plane, or of a streamed operand (R93). -/
def Weight.value (format : Nat) (book : List Nat) (w : Weight) : XVal :=
  w.fixed.getD (scaled w.scale (elementValue format book w.bits))

/-- The ports of a unit (R92). -/
inductive MxPort | a | b | c
  deriving DecidableEq, Repr

/-- The port accepts the entry (R92). -/
def MxPort.accepts (p : MxPort) (t : Tensor) : Bool :=
  match p with
  | .a => t.sparsity == 0 && (decide (2 ≤ t.format ∧ t.format ≤ 5) || decide (16 ≤ t.format ∧ t.format ≤ 18))
  | .b => if t.sparsity = 0 then decide (2 ≤ t.format ∧ t.format ≤ 5) || decide (16 ≤ t.format ∧ t.format ≤ 19)
      else t.sparseOk
  | .c => t.format == 1 && t.sparsity == 0

/-- The address ranges that one element needs: its group's indices and kept values when sparse, its bytes and its scale
byte otherwise (R86, R87, R90). -/
def Tensor.indexNibble (t : Tensor) (i : List Int) (j : Nat) : Nat :=
  let perRow := t.extent 0 / 12 * t.kept
  let group := (i.getD 0 0).toNat / 12
  2 * (t.indexBase + t.row i * ((perRow + 1) / 2)) + group * t.kept + j

/-- The coordinates of stored value j of an element's group. -/
def Tensor.keptCoords (t : Tensor) (i : List Int) (j : Nat) : List Int :=
  (((i.getD 0 0).toNat / 12 * t.kept + j : Nat) : Int) :: i.drop 1

def Tensor.elementRanges (t : Tensor) (i : List Int) : List (Nat × Nat) :=
  let n := (elementBits t.format + 7) / 8
  if !t.inBounds i then []
  else if t.sparsity ≠ 0 then
    (List.range t.kept).flatMap (fun j =>
      [(t.indexNibble i j / 2 % 2 ^ 64, 1), (t.address (t.keptCoords i j), n)])
  else (t.address i, n) :: (if t.isBlock then [(t.scaleAddress i, 1)] else [])

/-- What an operation has read: by address and size, what each piece gave. -/
abbrev Fetched := List ((Nat × Nat) × Got)

/-- The bytes of a range that has been read, and whether a sector of them was poisoned. -/
def Fetched.bytes (f : Fetched) (va n : Nat) : List Byte × Bool :=
  let gs := (sectorPieces va n).map (fun p =>
    ((f.find? (fun q => q.1 == p)).map (fun q => q.2)).getD (Got.lost p.2))
  (gs.flatMap (fun g => g.bytes), gs.any (fun g => g.mark))

/-- The stored element at coordinates: its bits and poison; nibble addresses tell 4-bit elements apart. -/
def Fetched.stored (f : Fetched) (t : Tensor) (i : List Int) : Nat × Bool :=
  let bits := elementBits t.format
  let r := f.bytes (t.address i) ((bits + 7) / 8)
  let v := leNat r.1
  (if bits = 4 then v / 16 ^ (t.nibble i % 2) % 16 else v, r.2)

/-- An element that reads as the canonical NaN and raises invalid (R91, R92, R452). -/
def Weight.bad : Weight := ⟨0, 127, 12, some (.nan true)⟩

/-- The element of a sparse tensor (R90, R91, R452), and whether it met poison. -/
def Fetched.sparse (f : Fetched) (t : Tensor) (i : List Int) : Weight × Bool :=
  let ix := (List.range t.kept).map (fun j =>
    let a := t.indexNibble i j
    let r := f.bytes (a / 2 % 2 ^ 64) 1
    (leNat r.1 / 16 ^ (a % 2) % 16, r.2))
  let ns := ix.map (fun x => x.1)
  let at_ := (i.getD 0 0).toNat % 12
  if ix.any (fun x => x.2) then (Weight.bad, true)
  else if ns.any (fun x => decide (12 ≤ x)) || !decide (ns.Pairwise (fun x y => x < y)) then (Weight.bad, false)
  else match ns.findIdx? (fun x => x == at_) with
    | none => (⟨0, 127, 12, some (.fin false 0 0)⟩, false)
    | some j =>
      let r := f.stored t (t.keptCoords i j)
      if r.2 then (Weight.bad, true) else (⟨r.1, 127, at_, none⟩, false)

/-- An element as a matrix port reads it, and whether it met poison (R92, R93, R305, R452). -/
def Fetched.element (f : Fetched) (p : MxPort) (t : Tensor) (i : List Int) : Weight × Bool :=
  if !p.accepts t then (Weight.bad, false)
  else if !t.inBounds i then (⟨t.fill.toNat % 2 ^ elementBits t.format, 127, 12, none⟩, false)
  else if t.sparsity ≠ 0 then f.sparse t i
  else
    let r := f.stored t i
    let scale := if t.isBlock then f.bytes (t.scaleAddress i) 1 else ([127], false)
    if r.2 || scale.2 then (Weight.bad, true) else (⟨r.1, leNat scale.1, 12, none⟩, false)

/-! ### Operations and their places -/

/-- The unit of an operation. -/
def State.unitOf (s : State) (x : MxOp) : Option MxUnit :=
  (aget s.gangs x.gang).bind (fun g => g.grant.bind (fun r => r.units[x.unit]?))

/-- Change a unit of a gang's grant. -/
def State.modUnit (s : State) (g u : Nat) (f : MxUnit → MxUnit) : State :=
  s.modGang g (fun x => { x with grant := x.grant.map (fun r => { r with units := r.units.modify u f }) })

/-- Change an operation. -/
def State.modOp (s : State) (m : Nat) (f : MxOp → MxOp) : State := { s with mxops := amod s.mxops m f }

/-- The context and stack that an operation works in, if its gang is on the device and no halt stops it. -/
def State.opPlace (s : State) (x : MxOp) : Option (Nat × Nat) :=
  match aget s.gangs x.gang with
  | none => none
  | some g =>
    if (g.state == .resident || (g.state == .dying && x.started)) && !(s.stack g.stack).haltArrived then
      some (s.ctxOf g, g.stack) else none

/-- The stop-record facts of a matrix operation's fault (R411, R414): the slot of its first sub-array. -/
def State.opHalt (s : State) (x : MxOp) (reason va : Nat) : Halt :=
  let gang := aget s.gangs x.gang
  let sub := ((s.unitOf x).bind (fun u => u.subs.head?)).getD 0
  { src := none, reason := reason, stack := (gang.map Gang.stack).getD 0, slot := 23 + sub
    ctx := (gang.map s.ctxOf).getD 4096, launch := (gang.map s.launchid).getD 0, pc := 0, addr := BitVec.ofNat 64 va
    wave := 0xFF, performed := 0, skipped := 0, written := false }

/-- Remove an operation. -/
def State.delOp (s : State) (m : Nat) : State := { s with mxops := adel s.mxops m }

/-- The operation as a thread, at the scope of its counter's rise (R292, R311). -/
def State.mxAgent (s : State) (m : Nat) (x : MxOp) (st : Nat) : Agent :=
  s.opAgent m (.wave x.gang x.wave) st .gang x.view

/-! ### Which operation may start (R309) -/

/-- An earlier operation of the unit holds a later one back; `same` says that the planes that they read or load are one. A
swap also waits for earlier swaps, with which it commutes. -/
def MxOp.holdsBack (e : MxOp) (later : MxFn) (same : Bool) : Bool :=
  match later, e.fn with
  | .mxls, .mxgo => same && e.read.isNone && !e.vis
  | .mxls, .mxls => same && !e.vis
  | .mxsw, .mxls => !e.vis
  | .mxsw, .mxgo => true
  | .mxsw, .mxsw => true
  | .mxgo, .mxsw => true
  | .mxgo, .mxz => true
  | .mxgo, .mxgo => true
  | .mxz, .mxgo => true
  | .mxz, .mxz => true
  | .mxst, .mxgo => true
  | .mxst, .mxz => true
  | _, _ => false

/-- The plane that an operation uses is the one that is current now: an MXGO's current plane, an MXLS's shadow plane,
each at its turn, behind the swaps that are queued before it (R309). -/
def State.usesCurrent (s : State) (m : Nat) (x : MxOp) : Bool :=
  let swaps := ((s.unitOps x.gang x.unit).filter (fun p => decide (p.1 < m) && p.2.fn == .mxsw)).length
  (x.fn == .mxgo) == (swaps % 2 == 0)

/-- No earlier operation of the unit holds this one back. -/
def State.opFirst (s : State) (m : Nat) (x : MxOp) : Bool :=
  (s.unitOps x.gang x.unit).all (fun p =>
    decide (m ≤ p.1) || !p.2.holdsBack x.fn (s.usesCurrent p.1 p.2 == s.usesCurrent m x))

/-! ### Reading operands (R307) -/

/-- An operation meets a page that is not present. -/
def State.opHold (s : State) (m ctx st page : Nat) : State :=
  (s.modOp m (fun y => { y with heldPage := some page })).pageRequest ctx st page .matrix

/-- An operation's fault: the halt line rises and the operation stops (R311, R411). -/
def State.opFault (s : State) (m : Nat) (x : MxOp) (reason va : Nat) : State :=
  (s.delOp m).raiseHalt (s.opHalt x reason va)

/-- An operation takes a list of ranges: a page that is not present holds it, a refusal stops it, and host copies and
frozen routes make it wait. -/
def State.opReach (s : State) (m : Nat) (x : MxOp) (ctx st : Nat) (a : Access) (write : Bool) (ps : List (Nat × Nat))
    (next : List (Target × Nat) → State) : State :=
  match s.reach ctx st (s.ownerSpad (.wave x.gang 0)) a write ps with
  | .hold page => s.opHold m ctx st page
  | .fault reason va => s.opFault m x reason va
  | .wait lines => s.backInvalidate lines
  | .ok qs => s.whenClear st write qs (next qs)

/-- Read ranges, piece by piece as the operation's own thread (R292), system pieces through its launch's log (R445). -/
def State.opRead (s : State) (m : Nat) (x : MxOp) (ctx st : Nat) (rs : List (Nat × Nat)) (next : State → Fetched → State) :
    State :=
  let want := (rs.flatMap (fun r => sectorPieces r.1 r.2)).eraseDups
  s.opReach m x ctx st .matrix false want (fun ps =>
    let wave := s.wave x.gang x.wave
    match State.readThrough ((s.mxAgent m x st).look [22, m]) st ((wave.map Wave.coreId).getD 0)
        ((wave.map Wave.slot).getD 0) ((aget s.gangs x.gang).bind s.launchOf) ps (s.fillFrom ctx st none ps) with
    | none => s.recallLog st
    | some (gs, t) => next t (want.zip gs))

/-! ### Streamed A handles (R308) -/

/-- Handles that an MXGO needs from q5: one for each row group of 32; none on an empty plane. -/
def MxOp.handlesNeeded (x : MxOp) (k : Nat) : Nat :=
  if x.fn == .mxgo && blockStream x.block && k != 0 then (blockM x.block + 31) / 32 else 0

/-- The handles on the push side of q5 of the operation's wave. -/
def State.handlesPushed (s : State) (x : MxOp) : List QWord :=
  ((s.wave x.gang x.wave).map (fun w => w.push.getD 5 [])).getD []

/-- Handles that the operation has still to pop. -/
def State.handlesDue (s : State) (x : MxOp) : Nat :=
  match s.unitOf x with
  | none => 0
  | some u => if x.read.isSome || x.vis || x.lost.isSome then 0 else x.handlesNeeded u.cur.k - x.popped.length

/-- The operation lacks a handle that no wave has pushed. -/
def State.opStarved (s : State) (x : MxOp) : Bool := decide ((s.handlesPushed x).length < s.handlesDue x)

/-- The operation has started and waits: on a page, or on q5 (R318). -/
def State.opWaits (s : State) (x : MxOp) : Bool :=
  (x.heldPage.isSome && !x.vis && x.read.isNone && x.lost.isNone) || s.opStarved x

/-- The fetcher pops up to n handles for an operation, which comes after their pushes. -/
def State.popHandles (s : State) (m : Nat) (x : MxOp) (n : Nat) : State :=
  let words := (s.handlesPushed x).take n
  ((s.modWave x.gang x.wave (fun w => { w with push := w.push.modify 5 (fun l => l.drop n) })).modOp m (fun y =>
    { y with popped := y.popped ++ words
             view := words.foldl (fun v q => Seen.join v q.view) y.view })).settleGangQueues x.gang

/-- The started operations of a gang take the handles that are there for them before their wave's queues are emptied, one
after another in an order that the device chooses. -/
def State.popAll (s : State) (g : Nat) : State :=
  let ops := (s.gangOps g).filter (fun p => p.2.started)
  (s.shuffle [24, g] ops.length ops).foldl (fun t p => t.popHandles p.1 p.2 (t.handlesDue p.2)) s

/-- Where the rows of a row group come from: a tile, or a handle that is unusable, or that carries a mark. -/
inductive Rows
  | tile (t : Tensor) (h : Handle)
  | nan (mark : Bool)
  deriving DecidableEq, Repr

/-- The rows of row group j: of the A handle, or of the j-th popped handle (R224, R308). -/
def State.rowGroup (s : State) (a : Agent) (ctx : Nat) (x : MxOp) (j : Nat) : Rows :=
  if blockStream x.block then
    match x.popped[j]? with
    | none => .nan false
    | some q =>
      if q.mark then .nan true
      else match s.handleEntry a ctx q.val with
        | some t => .tile t (handleOf q.val)
        | none => .nan false
  else match x.aEntry with
    | some t => .tile t (handleOf (blockA x.block))
    | none => .nan false

/-! ### MXGO, MXLS and MXST -/

/-- The coordinates of element (column, row) of a handle's tile. -/
def Handle.at (h : Handle) (c r : Nat) : List Int := [h.i0 + c, h.i1 + r]

/-- The C elements that an operation names: rows below M and columns below n. -/
def cells (m n : Nat) : List (Nat × Nat) := (List.range m).flatMap (fun r => (List.range n).map (fun c => (r, c)))

/-- The ranges that a port reads for one element. -/
def MxPort.ranges (p : MxPort) (t : Tensor) (i : List Int) : List (Nat × Nat) :=
  if p.accepts t then t.elementRanges i else []

/-- A cb4 codebook's two halves, which an MXLS reads as it starts (R89). -/
def MxOp.bookRanges (x : MxOp) : List (Nat × Nat) :=
  match x.bEntry with
  | none => []
  | some t =>
    if t.format = 19 ∧ MxPort.b.accepts t then [(t.codebook.toNat, 16), ((t.codebook.toNat + 16) % 2 ^ 64, 16)] else []

/-- The codebook as it was read; the codes of a poisoned half have no value (R89, R452). -/
def MxOp.bookOf (x : MxOp) (f : Fetched) : List Nat :=
  x.bookRanges.flatMap (fun r =>
    let h := f.bytes r.1 r.2
    (List.range 8).map (fun k => if h.2 then codebookPoison else leNat ((h.1.drop (2 * k)).take 2)))

/-- The ranges of a B tile. -/
def MxOp.bRanges (x : MxOp) : List (Nat × Nat) :=
  match x.bEntry with
  | none => []
  | some t => (cells (blockK x.block) (blockN x.block)).flatMap (fun q =>
      MxPort.b.ranges t ((handleOf (blockB x.block)).at q.2 q.1))

/-- The B tile that an MXLS loads, and whether it met poison. -/
def MxOp.tile (x : MxOp) (f : Fetched) : Plane × Bool :=
  let xs := (cells (blockK x.block) (blockN x.block)).map (fun q =>
    match x.bEntry with
    | none => (Weight.bad, false)
    | some t => f.element .b t ((handleOf (blockB x.block)).at q.2 q.1))
  ({ format := (x.bEntry.map Tensor.format).getD 0, sparsity := (x.bEntry.map Tensor.sparsity).getD 0
     k := blockK x.block, n := blockN x.block, elems := xs.map (fun v => v.1), codebook := x.book },
   x.book.any (fun v => decide (codebookPoison ≤ v)) || xs.any (fun v => v.2))

/-- The ranges of the C tensor under load C. -/
def MxOp.cRanges (x : MxOp) (n : Nat) : List (Nat × Nat) :=
  match x.cEntry with
  | none => []
  | some t =>
    if blockLoadC x.block then (cells (blockM x.block) n).flatMap (fun q =>
      MxPort.c.ranges t ((handleOf (blockC x.block)).at q.2 q.1)) else []

/-- The accumulators after load C (R224, R452), and whether it met poison. -/
def MxOp.loadC (x : MxOp) (u : MxUnit) (f : Fetched) : Sparse W32 × Bool :=
  match x.cEntry with
  | none => (u.acc, false)
  | some t =>
    if !blockLoadC x.block then (u.acc, false)
    else (cells (blockM x.block) u.cur.n).foldl (fun r q =>
      let e := f.element .c t ((handleOf (blockC x.block)).at q.2 q.1)
      let bits := if e.1.fixed.isSome then fmtF32.nan else e.1.bits
      (Sparse.set 0 r.1 (q.1 * u.nMax + q.2) (BitVec.ofNat 32 bits), r.2 || e.2)) (u.acc, false)

/-- Load C read an element as NaN under R92 or R452, which raises invalid (R104). -/
def MxOp.badC (x : MxOp) (u : MxUnit) : Bool :=
  match x.cEntry with
  | none => false
  | some t => blockLoadC x.block && u.cur.n != 0 && (!MxPort.c.accepts t || x.status == 2)

/-- The row groups of an MXGO. -/
def State.rowGroups (s : State) (a : Agent) (ctx : Nat) (x : MxOp) : List Rows :=
  (List.range ((blockM x.block + 31) / 32)).map (s.rowGroup a ctx x)

/-- The coordinates of A[row][c] in its group's tile. -/
def MxOp.aAt (x : MxOp) (h : Handle) (c row : Nat) : List Int := h.at c (if blockStream x.block then row % 32 else row)

/-- The ranges of A over a plane of k rows. -/
def MxOp.aRanges (x : MxOp) (groups : List Rows) (k : Nat) : List (Nat × Nat) :=
  (cells (blockM x.block) k).flatMap (fun q =>
    match groups.getD (q.1 / 32) (.nan false) with
    | .nan _ => []
    | .tile t h => MxPort.a.ranges t (x.aAt h q.2 q.1))

/-- One accumulator after the blocks of 32 of R101. -/
def dotBlocks (acc : Nat) (exc : Exc) : List (XVal × XVal) → Nat → Nat × Exc
  | _, 0 => (acc, exc)
  | ps, fuel + 1 =>
    if ps.isEmpty then (acc, exc)
    else
      let r := blockSum acc (ps.take 32)
      dotBlocks r.bits (exc ||| r.exc) (ps.drop 32) fuel

/-- A row of A as the port reads it, with whether it met poison. The rows of an unusable handle are NaN, which raises
nothing (R104, R308); a marked handle counts as poison (assumption 27). -/
def MxOp.aRow (x : MxOp) (groups : List Rows) (f : Fetched) (k row : Nat) : List XVal × Bool :=
  match groups.getD (row / 32) (.nan false) with
  | .nan mark => (List.replicate k (.nan mark), mark)
  | .tile t h =>
    let xs := (List.range k).map (fun c => f.element .a t (x.aAt h c row))
    (xs.map (fun v => v.1.value t.format []), xs.any (fun v => v.2))

/-- What an MXGO makes of the accumulators, with its exceptions and whether it met poison (R101, R104, R224). -/
def MxOp.multiply (x : MxOp) (u : MxUnit) (groups : List Rows) (f : Fetched) : MxRead :=
  let p := u.cur
  let cols := (List.range p.n).map (fun col => (List.range p.k).map (fun k =>
    ((p.elems[k * p.n + col]?).map (fun w => w.value p.format p.codebook)).getD (.fin false 0 0)))
  let r := (List.range (if p.k = 0 then 0 else blockM x.block)).foldl (fun r row =>
    let a := x.aRow groups f p.k row
    (cols.mapIdx (fun col b => (col, b))).foldl (fun r cb =>
      let d := dotBlocks (Sparse.get 0 r.1 (row * u.nMax + cb.1)).toNat 0 (a.1.zip cb.2) p.k
      (Sparse.set 0 r.1 (row * u.nMax + cb.1) (BitVec.ofNat 32 d.1), r.2.1 ||| d.2, r.2.2 || a.2)) r)
    (u.acc, (0 : Exc), false)
  { plane := Plane.empty, acc := r.1, exc := r.2.1 ||| excIf (x.badC u) excInvalid, poison := r.2.2 }

/-- The conversion of an accumulator for storage (R105): f32 is written as it is, with a canonical NaN. -/
def storeValue (format : Nat) (v : W32) : Res :=
  let x := fmtF32.decode v.toNat
  let r := (((codeTy format).bind fmtOf).getD fmtF32).convert .rn 0 x
  if format = 1 then ⟨if x.isNan then fmtF32.nan else v.toNat, r.exc⟩ else r

/-- The elements of an MXST with the results of their conversions (R225), those out of bounds without an address. -/
def MxOp.stores (x : MxOp) (u : MxUnit) (t : Tensor) : List (Option Nat × Res) :=
  (cells (blockM x.block) (blockN x.block)).map (fun q =>
    let i := (handleOf (blockC x.block)).at q.2 q.1
    (if t.inBounds i then some (t.address i) else none,
     storeValue t.format ({ u with acc := x.shadow }.acc32 q.1 q.2)))

/-- The naturally aligned pieces of elements, each with its bytes and poison (R293). -/
def elementRuns (els : List (Nat × List Byte × Bool)) : List ((Nat × Nat) × List Byte × Bool) :=
  els.flatMap (fun e => (elementPieces e.1 e.2.1.length).mapIdx (fun i p =>
    ((p.1 % 2 ^ 64, p.2), (e.2.1.drop (p.2 * i)).take p.2, e.2.2)))

/-- Write elements at their targets, in an order that the device chooses (R293). -/
def State.storeElements (s : State) (a : Agent) (st : Nat) (key : List Nat) (xs : List (Target × List Byte × Bool)) : State :=
  (s.shuffle key xs.length xs).foldl (fun t x => t.storeElement a st x.2.1 x.2.2 x.1) s

/-- Write the elements of an MXST, once all of them can be written. -/
def State.opWrite (s : State) (m : Nat) (x : MxOp) (ctx st : Nat) (els : List (Nat × List Byte × Bool)) (next : State → State) :
    State :=
  let runs := elementRuns els
  s.opReach m x ctx st .matrix true (runs.map (fun r => r.1)) (fun ps =>
    let a := s.mxAgent m x st
    next (((s.fillFrom ctx st none ps).storeElements a st [25, m]
      ((ps.map (fun p => p.1)).zip (runs.map (fun r => r.2)))).cleanSectors a))

/-! ### The end of an operation -/

/-- OR exceptions into the flags byte of an operation's block (R104, R221). -/
def State.orFlags (s : State) (m : Nat) (x : MxOp) (st : Nat) (exc : Exc) : State :=
  match aget s.gangs x.gang with
  | none => s
  | some g =>
    let off := x.offset + 33
    if exc = 0 then s
    else s.putSpad ((s.mxAgent m x st).author false s.history.length 0) x.gang off
      [Sparse.get 0 g.spad off ||| exc.setWidth 8] false

/-- Units that an operation counts: M x N (R224, R225); those of a lost unit's are known since (R316). -/
def MxOp.units (x : MxOp) (u : MxUnit) : Nat :=
  x.lost.getD (match x.fn with
    | .mxgo => blockM x.block * u.cur.n
    | .mxst => blockM x.block * blockN x.block
    | _ => 0)

/-- MXGO and MXST raise a counter and report (R222). -/
def MxFn.counts (f : MxFn) : Bool := f == .mxgo || f == .mxst

/-- Every source of an operation has been read: srcfree (R214, R223, R224). -/
def State.opSourced (s : State) (m : Nat) (x : MxOp) (r : MxRead) : State :=
  (s.modOp m (fun y => { y with read := some r })).setToken x.gang x.wave x.token 0 false true []

/-- The writes of an operation are visible: vis, with its status, before the counter rises (R224, R310). -/
def State.opVisible (s : State) (m : Nat) (x : MxOp) (status : Nat) : State :=
  let v := Seen.join x.view [(opThread m, s.history.length)]
  (s.modOp m (fun y => { y with vis := true, status := status, view := v })).setToken x.gang x.wave x.token status true true v

/-- An operation whose vis is set leaves its unit with its report. -/
def State.opReported (s : State) (m : Nat) (x : MxOp) (u : MxUnit) : State :=
  let t := (s.delOp m).gangDid x.gang (Seen.join x.view [(opThread m, s.history.length)])
  (if x.fn.counts && blockReport x.block then
    t.report x.gang x.wave 5 ⟨reportWord 6 x.status (x.units u), false, x.view⟩ else t).settleGangQueues x.gang

/-- The counter of an operation whose vis is set rises, and the operation ends (R310, R311). A counter whose page is not
present keeps it; one that cannot take the atomic is a fault that stops it. -/
def State.finishOp (s : State) (m ctx st : Nat) : State :=
  match aget s.mxops m with
  | none => s
  | some x =>
    match s.unitOf x with
    | none => s
    | some u =>
      let counter := blockCounter x.block
      if !x.fn.counts || counter = 0 || x.units u = 0 then s.opReported m x u
      else s.opReach m x ctx st .atomic true (sectorPieces counter 8) (fun ps =>
        ((s.fillFrom ctx st none ps).riseAt (s.mxAgent m x st) st (x.units u) ps).opReported m x u)

/-- vis, the counter and the report. -/
def State.opDone (s : State) (m : Nat) (x : MxOp) (status ctx st : Nat) : State :=
  (s.opVisible m x status).finishOp m ctx st

/-! ### The accumulators -/

/-- What a started MXST stores of each accumulator, as the accumulators change under it: R309 lets a later MXGO or MXZ
run at the same time, so each element is as before or as after, as the device chooses (assumption 99). -/
def State.mixed (s : State) (n : Nat) (x : MxOp) (acc : Sparse W32) : Sparse W32 :=
  (cells (blockM x.block) (blockN x.block)).foldl (fun m q =>
    let k := q.1 * n + q.2
    if s.chooseAt [26, k] 2 = 1 then Sparse.set 0 m k (Sparse.get 0 acc k) else m) x.shadow

/-- The accumulators of a unit change (R224, R225), under any MXST that has started on it. -/
def State.setAcc (s : State) (g u : Nat) (unit : MxUnit) (acc : Sparse W32) : State :=
  { s.modUnit g u (fun v => { v with acc := acc }) with
    mxops := s.mxops.map (fun (p : Nat × MxOp) =>
      if p.2.fn == .mxst && p.2.started && p.2.gang == g && p.2.unit == u then
        (p.1, { p.2 with shadow := s.mixed unit.nMax p.2 acc }) else p) }

/-! ### Starting -/

/-- An operation begins: an MXGO loads C and then takes its shadow copy; an MXLS of cb4 reads the codebook; an MXST
begins to store the accumulators (R89, R224, R318). -/
def State.startOp (s : State) (m : Nat) (x : MxOp) (u : MxUnit) (ctx st : Nat) : State :=
  match x.fn with
  | .mxgo =>
    s.opRead m x ctx st (x.cRanges u.cur.n) (fun t f =>
      let c := x.loadC u f
      (t.setAcc x.gang x.unit u c.1).modOp m (fun y =>
        { y with started := true, shadow := c.1, status := if c.2 then 2 else 0 }))
  | .mxls =>
    s.opRead m x ctx st x.bookRanges (fun t f =>
      t.modOp m (fun y => { y with started := true, book := x.bookOf f }))
  | .mxst => s.modOp m (fun y => { y with started := true, shadow := u.acc })
  | .mxsw => s.modOp m (fun y => { y with started := true })
  | .mxz => s.modOp m (fun y => { y with started := true })

/-- MATRIX_OP_START (R309, R318): the wave's MATOMs that were issued before it are performed first (R192, R292). -/
def execMatrixOpStart (m : Nat) (s : State) : Host.Outcome State Fault Refusal :=
  match aget s.mxops m with
  | none => .next s
  | some x =>
    match s.opPlace x, s.unitOf x with
    | some (ctx, st), some u =>
      if x.started || x.heldPage.isSome || !s.opFirst m x then .next s
      else match s.flushBefore x.gang x.wave m s.matoms.length x.view with
      | none => .next (s.backInvalidate (s.matomLines x.gang x.wave))
      | some (t, v) =>
        .next ((t.modOp m (fun y => { y with view := v })).startOp m { x with view := v } u ctx st)
    | _, _ => .next s

/-- MATRIX_FETCH_PAGE_MISS (R224, R318): a started operation meets a page that is not present; its accumulators are
those of its shadow copy, and it is held. -/
def execMatrixFetchPageMiss (m : Nat) (s : State) : Host.Outcome State Fault Refusal :=
  match aget s.mxops m with
  | none => .next s
  | some x =>
    match s.opPlace x, s.unitOf x with
    | some (ctx, st), some u =>
      let rs := match x.fn with
        | .mxls => x.bRanges
        | .mxgo => x.aRanges (s.rowGroups (s.mxAgent m x st) ctx x) u.cur.k
        | _ => []
      match x.started && x.heldPage.isNone && x.read.isNone && !x.vis,
          s.reach ctx st (s.ownerSpad (.wave x.gang 0)) .matrix false (rs.flatMap (fun r => sectorPieces r.1 r.2)) with
      | true, .hold page =>
        .next ((s.modUnit x.gang x.unit (fun v =>
          if x.fn == .mxgo then { v with acc := x.shadow } else v)).opHold m ctx st page)
      | _, _ => .next s
    | _, _ => .next s

/-! ### Self-test (R314 to R317) -/

/-- The spare rows of a sub-array that are in use, in order (R315). -/
def Stack.spares (t : Stack) (sub : Nat) : List Nat := (t.spareRows.drop (4 * sub)).take 4

/-- The first spare of a sub-array that is left. -/
def Stack.spareLeft (t : Stack) (sub : Nat) : Option Nat := (t.spares sub).findIdx? (fun r => r == 0xFFFF)

/-- Remap a physical row to a spare: event 0x0210. -/
def State.remapRow (s : State) (st sub row spare : Nat) : State :=
  (s.modStack st (fun t => { t with spareRows := t.spareRows.set (4 * sub + spare) (row % 65536) })).event 0x0210 st
    0xFFFF (natLe 1 sub ++ natLe 1 0 ++ natLe 2 row ++ natLe 1 spare)

/-- Fence a sub-array: event 0x0211. -/
def State.fence (s : State) (st sub : Nat) : State :=
  (s.modStack st (fun t => { t with fenced := setBit t.fenced sub true })).event 0x0211 st 0xFFFF (natLe 1 sub)

/-- What each operation of a unit counts if the unit is lost now (R316): an MXGO its M times the N of the plane that
would be current at its turn. `cur` and `next` are the N of the planes. -/
def countUnits : Nat → Nat → List (Nat × MxOp) → List (Nat × Nat)
  | _, _, [] => []
  | cur, next, (m, x) :: rest =>
    match x.fn with
    | .mxls => (m, 0) :: countUnits cur (if x.vis then next else blockN x.block) rest
    | .mxsw => (m, 0) :: countUnits next cur rest
    | .mxgo => (m, blockM x.block * cur) :: countUnits cur next rest
    | .mxz => (m, 0) :: countUnits cur next rest
    | .mxst => (m, blockM x.block * blockN x.block) :: countUnits cur next rest

/-- An operation of a lost unit completes with status 0x2 (R316): it ORs invalid into its block's flags, and an MXST
writes every element as a poisoned 0. -/
def State.loseOp (s : State) (m ctx st : Nat) : State :=
  match aget s.mxops m with
  | none => s
  | some x =>
    let done := fun (t : State) =>
      (if x.fn == .mxsw then t else t.orFlags m x st excInvalid).opDone m x 2 ctx st
    if x.vis then s
    else match x.fn, x.cEntry with
    | .mxst, some e =>
      let zero := List.replicate (elementBits e.format / 8) (0 : Byte)
      s.opWrite m x ctx st ((x.stores (MxUnit.fresh 0 []) e).filterMap (fun c => c.1.map (fun va => (va, zero, true)))) done
    | _, _ => done s

/-- The unit is lost (R316): event 0x0212; its accumulators and planes go, and what it has queued completes. -/
def State.loseUnit (s : State) (st sub g u : Nat) (unit : MxUnit) : State :=
  match aget s.gangs g with
  | none => s
  | some gang =>
    let ctx := s.ctxOf gang
    let ops := s.unitOps g u
    let t := (countUnits unit.cur.n unit.next.n ops).foldl (fun t (p : Nat × Nat) => t.modOp p.1 (fun y =>
      { y with lost := some p.2, started := true, heldPage := if y.vis then y.heldPage else none })) s
    let t := (t.modUnit g u (fun v => { v with
      lost := true, subs := [], acc := [], cur := Plane.empty, next := Plane.empty })).event 0x0212 st ctx
        (natLe 1 sub ++ List.replicate 7 0 ++ natLe 8 (s.launchid gang).toNat)
    ops.foldl (fun t p => t.loseOp p.1 ctx st) t

/-- A failed test of sub-array `sub` of unit u (R315): remap, move or lose. -/
def State.failedTest (s : State) (st sub g u : Nat) (unit : MxUnit) (t : SelfTest) : State :=
  let lose := fun (_ : Unit) =>
    let f := s.fence st sub
    match (aget s.gangs g).bind (fun x => x.grant) with
    | none => f
    | some r =>
      -- the unit moves to a free group of its shape; its own other sub-arrays count as free
      let own := unit.subs.filter (fun k => k != sub)
      let taken := f.subsTaken st g ++ (r.units.flatMap (fun v => v.subs)).filter (fun k => !own.contains k)
      let free := (modeGroups r.mode).filter (fun grp =>
        grp.all (fun k => !has (f.stack st).fenced k && !taken.contains k))
      match free with
      | grp :: _ => f.modUnit g u (fun v => { v with subs := grp })
      | [] => f.loseUnit st sub g u unit
  match t with
  | .pass => s
  | .row r => (match (s.stack st).spareLeft sub with
      | some k => s.remapRow st sub r k
      | none => lose ())
  | .array => lose ()

/-- Self-test products ran (R443). -/
def State.testRan (s : State) (st n : Nat) : State := s.modStack st (fun t => t.count 0x0D8 n)

/-- The sub-arrays of a unit that computed part of an MXGO, which are tested after it (R314): one at least, where it has
products, and which ones the device's layout decides. -/
def State.tested (s : State) (x : MxOp) (u : MxUnit) : Nat :=
  let n := u.subs.length
  if u.cur.k = 0 ∨ x.units u = 0 then s.choose 31 (n + 1) else min n (1 + s.choose 31 n)

/-- MXGO's self-test runs; one that passes lets the products into the accumulators, and one that fails makes the operation
start over with the values that it has read, or loses the unit (R314, R315). -/
def State.testedOp (s : State) (m : Nat) (x : MxOp) (u : MxUnit) (r : MxRead) (t : SelfTest) (ctx st : Nat) : State :=
  let ran := s.testRan st (s.tested x u)
  if t = .pass then
    ((ran.setAcc x.gang x.unit u r.acc).orFlags m x st r.exc).opDone m x (if r.poison || x.status == 2 then 2 else 0) ctx st
  else ran.failedTest st ((u.subs[s.choose 30 u.subs.length]?).getD 0) x.gang x.unit u t

/-- An operation that has read its sources has its effect. -/
def State.applyOp (s : State) (m : Nat) (t : SelfTest) (ctx st : Nat) : State :=
  match aget s.mxops m with
  | none => s
  | some x =>
    match x.read, s.unitOf x with
    | some r, some u =>
      match x.fn with
      | .mxls =>
        (s.modUnit x.gang x.unit (fun v => if s.usesCurrent m x then { v with cur := r.plane } else { v with next := r.plane }))
          |>.opDone m x (if r.poison then 2 else 0) ctx st
      | .mxgo => s.testedOp m x u r t ctx st
      | .mxst => (s.orFlags m x st r.exc).opDone m x 0 ctx st
      | .mxsw => s
      | .mxz => s
    | _, _ => s

/-- The device may stop between an operation's srcfree and its vis (R310). -/
def State.goesOn (s : State) (m : Nat) (next : State) : State := if s.chooseAt [23, m] 2 = 1 then s else next

/-- A started operation that has not read its sources: it reads them (R307), or, for MXST, writes its elements, and
goes on to its effect. -/
def State.runOp (s : State) (m : Nat) (x : MxOp) (u : MxUnit) (t : SelfTest) (ctx st : Nat) : State :=
  let sourced := fun (v : State) (r : MxRead) =>
    let w := v.opSourced m x r
    w.goesOn m (w.applyOp m t ctx st)
  match x.fn with
  | .mxz => (s.setAcc x.gang x.unit u []).opDone m x 0 ctx st
  | .mxsw => (s.modUnit x.gang x.unit (fun v => { v with cur := v.next, next := v.cur })).opDone m x 0 ctx st
  | .mxls => s.opRead m x ctx st x.bRanges (fun v f => sourced v ⟨(x.tile f).1, [], 0, (x.tile f).2⟩)
  | .mxgo =>
    let groups := s.rowGroups (s.mxAgent m x st) ctx x
    s.opRead m x ctx st (x.aRanges groups u.cur.k) (fun v f => sourced v (x.multiply u groups f))
  | .mxst =>
    match x.cEntry with
    | none => s.opDone m x 0 ctx st
    | some e =>
      let els := x.stores u e
      s.opWrite m x ctx st
        (els.filterMap (fun c => c.1.map (fun va => (va, natLe (elementBits e.format / 8) c.2.bits, false))))
        (fun v => sourced v ⟨Plane.empty, [], els.foldl (fun r c => r ||| c.2.exc) 0, false⟩)

/-- MATRIX_OP_COMPLETE (R224, R310, R314, R315): the next part of a started operation that no page holds. It takes
handles that it needs from q5 as they come (R308); reads its sources, has its effect and becomes visible; and its
counter rises. -/
def execMatrixOpComplete (m : Nat) (t : SelfTest) (s : State) : Host.Outcome State Fault Refusal :=
  match aget s.mxops m with
  | none => .next s
  | some x =>
    match s.opPlace x, s.unitOf x with
    | some (ctx, st), some u =>
      let due := s.handlesDue x
      let there := min due (s.handlesPushed x).length
      if !x.started || x.heldPage.isSome then .next s
      else if x.vis then .next (s.finishOp m ctx st)
      else if x.lost.isSome then .next (s.loseOp m ctx st)
      else if x.read.isSome then .next (s.applyOp m t ctx st)
      else if due = 0 then .next (s.runOp m x u t ctx st)
      else if there = 0 then .next s
      else .next (s.popHandles m x (1 + s.chooseAt [27, m] there))
    | _, _ => .next s

/-- The unit that holds a sub-array of a stack. -/
def State.unitAt (s : State) (st sub : Nat) : Option (Nat × Nat × MxUnit) :=
  s.gangs.findSome? (fun p =>
    if p.2.placed && p.2.stack == st then
      match p.2.grant with
      | none => none
      | some r => (r.units.findIdx? (fun u => u.subs.contains sub)).bind (fun k =>
          (r.units[k]?).map (fun u => (p.1, k, u)))
    else none)

/-- SELF_TEST_PERIODIC (R314, R315): an idle sub-array, or one between operations, is tested. -/
def execSelfTestPeriodic (st sub : Nat) (t : SelfTest) (s : State) : Host.Outcome State Fault Refusal :=
  if 12 ≤ st ∨ 4 ≤ sub ∨ has (s.stack st).fenced sub ∨ (s.stack st).haltArrived then .next s
  else
    let ran := s.testRan st 1
    match s.unitAt st sub with
    | some (g, k, u) => .next (ran.failedTest st sub g k u t)
    | none =>
      match t with
      | .pass => .next ran
      | .row r => (match (ran.stack st).spareLeft sub with
          | some k => .next (ran.remapRow st sub r k)
          | none => .next (ran.fence st sub))
      | .array => .next (ran.fence st sub)

end Sys2Proof.Machine
end

