-- ==== Sys2Proof/Machine/EngineEvents.lean ====
section
/-! DEFINITION. What engines do with their commands (R213 to R218, R302, R303, R310, R311): they take them in order, read
their sources, write, deliver the chunks of COLL, count and complete. -/
namespace Sys2Proof.Machine

/-! ### Taking a command -/

/-- Two commands go to one engine (R302). -/
def Command.sameEngine (x y : Command) : Bool :=
  x.stack == y.stack &&
  (match x.kind, y.kind with
   | .cpy, .cpy => x.cluster == y.cluster
   | .gat, .gat => true | .gat, .sct => true | .sct, .gat => true | .sct, .sct => true
   | .bin, .bin => true
   | .coll, .coll => true
   | _, _ => false)

/-- Commands that an engine has in progress at once (R302). -/
def EngineKind.depth : EngineKind → Nat
  | .cpy => 32 | .gat => 16 | .sct => 16 | .bin => 4 | .coll => 4

/-- A halt stops the engine of the command (R411). -/
def State.engineStopped (s : State) (x : Command) : Bool := (s.stack x.stack).haltArrived

/-- ENGINE_COMMAND_START (R303): commands start in the order in which they reached the engine; the wave's MATOMs that were
issued before the submit are performed first (R192, R216, R292). -/
def execEngineCommandStart (c : Nat) (s : State) : Host.Outcome State Fault Refusal :=
  match aget s.commands c with
  | none => .next s
  | some x =>
    let mine := (s.commands.map (fun p => p.2)).filter x.sameEngine
    let busy := (mine.filter (fun y => y.state == .started || y.state == .read || y.state == .wrote)).length
    let first := mine.all (fun y => y.state != .queued || decide (x.order ≤ y.order))
    if x.state == .queued && !s.engineStopped x && decide (busy < x.kind.depth) && first then
      match x.owner with
      | .queue _ _ => .next (s.modCommand c (fun y => { y with state := .started }))
      | .wave g w =>
        match s.flushBefore g w c s.matoms.length x.view with
        | none => .next (s.backInvalidate (s.matomLines g w))
        | some (t, v) => .next (t.modCommand c (fun y => { y with state := .started, view := v }))
    else .next s

/-! ### Reaching memory -/

/-- A command as a thread at its header's scope (R292). -/
def State.commandAgent (s : State) (k : Nat) (x : Command) : Agent :=
  s.opAgent k x.owner x.stack (scopeOf (field x.header 55 53)) x.view

/-- A command takes a list of ranges: a page that is not present holds it, a refusal is its fault, and host copies and
frozen routes make it wait (R213, R350, R357). -/
def State.commandReach (s : State) (k : Nat) (x : Command) (a : Access) (write : Bool) (ps : List (Nat × Nat))
    (next : List (Target × Nat) → State) : State :=
  match s.reach x.ctx x.stack (s.ownerSpad x.owner) a write ps with
  | .hold page => s.commandHold k x page
  | .fault reason va => s.commandFault k x reason va
  | .wait lines => s.backInvalidate lines
  | .ok qs => s.whenClear x.stack write qs (next qs)

/-- What a command's loads find; a system piece that got no answer in time is poisoned (R354). -/
def Command.look (x : Command) (a : Agent) (key : List Nat) (s : State) (t : Target) (n : Nat) : Got :=
  match t with
  | .spd _ => a.look key s t n
  | .mem pa _ _ => if x.late && !isLocal pa then Got.lost n else a.look key s t n

/-- Read pieces for a command; system data goes through the log of the wave's launch (R445). -/
def State.commandRead (s : State) (k : Nat) (x : Command) (ps : List (Nat × Nat)) (next : State → List Got → State) : State :=
  s.commandReach k x .engine false ps (fun qs =>
    let wave := match x.owner with | .wave g w => s.wave g w | .queue _ _ => none
    let launch := x.owner.gang.bind (fun g => (aget s.gangs g).bind s.launchOf)
    match State.readThrough (x.look (s.commandAgent k x) [28, k]) x.stack ((wave.map Wave.coreId).getD 0)
        ((wave.map Wave.slot).getD 0) launch qs (s.fillFrom x.ctx x.stack none qs) with
    | none => s.recallLog x.stack
    | some (gs, t) => next (t.modCommand k (fun y => { y with late := false })) gs)

/-! ### Reading sources -/

/-- The numbers of a list, each taken or not as the device chooses, and all of them when it takes none (R216, R293). -/
def State.someOf (s : State) (key : List Nat) (ns : List Nat) : List Nat :=
  let some_ := ns.filter (fun n => s.chooseAt (key ++ [n]) 2 == 1)
  if some_.isEmpty then ns else some_

/-- A gathering of what a move's pieces gave. -/
def splitGot : List (Nat × Nat) → List Got → List (Nat × List (Byte × Bool))
  | [], _ => []
  | (i, n) :: rest, gs => (i, gotBytes (gs.take n)) :: splitGot rest (gs.drop n)

/-- The numbers of a command's moves that it has not read. -/
def Command.unread (x : Command) (moves : List Move) : List Nat :=
  (List.range moves.length).filter (fun i => !x.got.any (fun p => p.1 == i))

/-- The stacks of a COLL mask, ascending. -/
def collStacks (x : Command) : List Nat := (List.range 12).filter (fun st => (param x.params 4).toNat.testBit st)

/-- Bytes that each stack of a COLL receives (R212). -/
def collPart (x : Command) : Nat := if hdrMode x.header = 1 then x.length / (collStacks x).length else x.length

/-- Bytes of a full chunk. -/
def collChunk (x : Command) : Nat := 4096 * field (param x.params 4) 27 16

/-- The chunks of a COLL: a stack and a number each. -/
def collChunks (x : Command) : List (Nat × Nat) :=
  (collStacks x).flatMap (fun st =>
    (List.range ((collPart x + collChunk x - 1) / collChunk x)).map (fun j => (st, j)))

/-- What some of a command's moves have read is kept; once every source byte has been read, srcfree is set (R214). -/
def State.gotMoves (s : State) (k : Nat) (x : Command) (moves : List Move) (got : List (Nat × List (Byte × Bool))) : State :=
  let y := { x with got := x.got ++ got, poison := x.poison || got.any (fun p => p.2.any (fun b => b.2)), late := false }
  if (y.unread moves).isEmpty then
    let t := s.modCommand k (fun _ => { y with state := .read, chunks := if x.kind == .coll then collChunks x else [] })
    match x.owner with
    | .wave g w => t.setToken g w x.token 0 false true []
    | .queue _ _ => t
  else s.modCommand k (fun _ => y)

/-- Read the sources of some of the moves that are not read yet, in an order that the device chooses (R216, R292). -/
def State.readMoves (s : State) (k : Nat) (x : Command) (idx : List (Nat × Bool)) : State :=
  let moves := x.moves idx
  let mine := s.someOf [29, k] (x.unread moves)
  let pieces := mine.map (fun i => (i, match moves[i]? with
    | some m => (match m.src with | some va => elementPieces va m.size | none => [])
    | none => []))
  s.commandRead k x (pieces.flatMap (fun p => p.2)) (fun t gs =>
    t.gotMoves k x moves (splitGot (pieces.map (fun p => (p.1, p.2.length))) gs))

/-- ENGINE_SOURCE_READ (R213, R214): the engine reads its index list, or some of its sources. A COLL whose destination or
counter base lies in the aperture is a protection violation (R276). -/
def execEngineSourceRead (c : Nat) (s : State) : Host.Outcome State Fault Refusal :=
  match aget s.commands c with
  | none => .next s
  | some x =>
    if x.state != .started || x.heldPage.isSome || s.engineStopped x then .next s
    else if x.kind == .coll && inAperture (param x.params 2).toNat then
      .next (s.commandFault c x reasonProtection (param x.params 2).toNat)
    else if x.kind == .coll && inAperture (param x.params 5).toNat then
      .next (s.commandFault c x reasonProtection (param x.params 5).toNat)
    else match x.kind.indexed, x.idx with
    | true, none =>
      .next (s.commandRead c x (sectorPieces (param x.params 1).toNat (4 * x.length)) (fun t gs =>
        let idx := indexWords (gotBytes gs) x.length
        t.modCommand c (fun y => { y with idx := some idx, poison := idx.any (fun i => i.2) })))
    | _, idx => .next (s.readMoves c x (idx.getD []))

/-! ### Writing and completing -/

/-- The moves of a command that it has read and not written: their numbers, addresses and bytes. -/
def Command.unwritten (x : Command) : List (Nat × Nat × List Byte × Bool) :=
  ((x.moves (x.idx.getD [])).mapIdx (fun i m => (i, m))).filterMap (fun p =>
    if x.put.contains p.1 then none
    else match p.2.dst, aget x.got p.1 with
    | some va, some bs => some (p.1, va, p.2.value bs)
    | _, _ => none)

/-- Write elements for a command, once every page of them is present and allowed. -/
def State.commandWrite (s : State) (k : Nat) (x : Command) (els : List (Nat × List Byte × Bool)) (next : State → State) : State :=
  let runs := elementRuns els
  s.commandReach k x .engine true (runs.map (fun r => r.1)) (fun ps =>
    next ((s.fillFrom x.ctx x.stack none ps).storeElements (s.commandAgent k x) x.stack [30, k]
      ((ps.map (fun p => p.1)).zip (runs.map (fun r => r.2)))))

/-- Raise a counter for a command (R214, R311); one that cannot take an atomic is a protection violation. -/
def State.commandRise (s : State) (k : Nat) (x : Command) (counter amount : Nat) (next : State → State) : State :=
  if counter = 0 ∨ amount = 0 then next s
  else s.commandReach k x .atomic true (sectorPieces counter 8) (fun ps =>
    next ((s.fillFrom x.ctx x.stack none ps).riseAt (s.commandAgent k x) x.stack amount ps))

/-- What the counter of a command rises by (R214). -/
def Command.amount (x : Command) : Nat := if x.kind == .coll then (collChunks x).length else x.length

/-- The counts of a BIN (R217). -/
def Command.counts (x : Command) : List Nat := binCounts (param x.params 3).toNat (x.idx.getD [])

/-- The units of its report (R215, R217). -/
def Command.reported (x : Command) : Nat := if x.kind == .bin then x.counts.foldl (fun n k => n + k) 0 else x.length

/-- The packet of a queue that an engine has finished completes (R370), and a later packet's after flag comes after its
writes (R368). A node of a graph is not listed as its own packet: its graph moves on. -/
def State.engineDone (q i : Nat) (v : Seen) (s : State) : State :=
  match (aget s.queues q).bind (fun x => x.open i) with
  | none => s
  | some p =>
    let t := s.modQueue q (fun x => { x with after := Seen.join x.after v })
    match p.graph with
    | none => t.completePacket q i
    | some _ => t.modOpen q i (fun y =>
        { y with graph := y.graph.map (fun g => { g with busy := false }), view := Seen.join y.view v })

/-- The last part of a command whose vis is set (R310): its counter rises, and it ends with its report, or completes its
packet. -/
def State.finishCommand (s : State) (k : Nat) (x : Command) : State :=
  s.commandRise k x x.counter.toNat x.amount (fun u =>
    let u := u.delCommand k
    match x.owner with
    | .wave g _ => (u.gangDid g (Seen.join x.view [(opThread k, u.history.length)])).commandEnd { x with token := none }
        (if x.poison then 2 else 0) x.reported x.view
    | .queue q i => State.engineDone q i x.view u)

/-- Every write of a command is visible: a BIN patches the commands of its group (R217), sectors that clean data
covers are clean (R180), vis is set, and the counter is next (R214, R310). -/
def State.visibleCommand (s : State) (k : Nat) (x : Command) : State :=
  let t := s.cleanSectors (s.commandAgent k x)
  let t := if x.kind == .bin then t.patchGroup x x.counts else t
  let y := { x with state := .wrote, token := none, view := Seen.join x.view [(opThread k, t.history.length)] }
  let t := t.modCommand k (fun _ => y)
  let t := match x.owner with
    | .wave g w => t.setToken g w x.token (if x.poison then 2 else 0) true true y.view
    | .queue _ _ => t
  t.finishCommand k y

/-- Write some of what a command has read (R293); once it has read and written all, it becomes visible. -/
def State.writeMoves (s : State) (k : Nat) (x : Command) : State :=
  let due := x.unwritten
  let mine := s.someOf [31, k] (due.map (fun p => p.1))
  let now := due.filter (fun p => mine.contains p.1)
  s.commandWrite k x (now.map (fun p => p.2)) (fun t =>
    let y := { x with put := x.put ++ now.map (fun p => p.1) }
    let t := t.modCommand k (fun _ => y)
    if x.state == .read && y.unwritten.isEmpty then t.visibleCommand k y else t)

/-- ENGINE_COMPLETE (R214, R293, R310): the next part of a command that no page holds. Its writes may begin before it
has read everything. -/
def execEngineComplete (c : Nat) (s : State) : Host.Outcome State Fault Refusal :=
  match aget s.commands c with
  | none => .next s
  | some x =>
    if x.heldPage.isSome || s.engineStopped x then .next s
    else match x.state with
    | .wrote => .next (s.finishCommand c x)
    | .read =>
      if x.kind != .coll then .next (s.writeMoves c x)
      else if x.chunks.isEmpty && x.landed.isEmpty then .next (s.visibleCommand c x)
      else .next s
    | .started => if x.kind == .coll then .next s else .next (s.writeMoves c x)
    | _ => .next s

/-- A chunk of a COLL: where its bytes go, one by one, and its stack's counter (R212). -/
def Command.chunkBytes (x : Command) (st j : Nat) : List (Nat × List Byte × Bool) :=
  let lo := j * collChunk x
  let hi := min (collPart x) (lo + collChunk x)
  let rank := ((collStacks x).filter (fun y => decide (y < st))).length
  let base := if hdrMode x.header = 1 then rank * collPart x else 0
  let dst := (param x.params 2).toNat + st * (param x.params 3).toNat + lo
  (List.range (hi - lo)).map (fun i =>
    let b := ((aget x.got (base + lo + i)).bind (fun bs => bs.head?)).getD (0, false)
    ((dst + i) % 2 ^ 64, [b.1], b.2))

/-- The counter of a stack of a COLL (R212). -/
def Command.chunkCounter (x : Command) (st : Nat) : Nat := ((param x.params 5).toNat + 8 * st) % 2 ^ 64

/-- A chunk has reached its stack, whose counter rises by 1 after it (R212, R292). -/
def State.landedChunk (s : State) (k : Nat) (x : Command) (n : Nat) : State :=
  match x.landed[n]? with
  | none => s
  | some (st, _) =>
    let y := { x with view := Seen.join x.view [(opThread k, s.history.length)] }
    s.commandRise k y (x.chunkCounter st) 1 (fun t =>
      t.modCommand k (fun z => { z with landed := z.landed.eraseIdx n }))

/-- COLL_CHUNK_DELIVERED (R212): one chunk reaches its stack, and that stack's counter rises by 1; a rise that had to
wait is made first. -/
def execCollChunkDelivered (c : Nat) (s : State) : Host.Outcome State Fault Refusal :=
  match aget s.commands c with
  | none => .next s
  | some x =>
    if x.state != .read || x.heldPage.isSome || s.engineStopped x || x.kind != .coll then .next s
    else if !x.landed.isEmpty then .next (s.landedChunk c x (s.choose 41 x.landed.length))
    else
      let n := s.choose 40 x.chunks.length
      match x.chunks[n]? with
      | none => .next s
      | some (st, j) =>
        .next (s.commandWrite c x (x.chunkBytes st j) (fun t =>
          let y := { x with chunks := x.chunks.eraseIdx n, landed := [(st, j)] }
          (t.modCommand c (fun _ => y)).landedChunk c y 0))

end Sys2Proof.Machine
end

