-- ==== Sys2Proof/Machine/Deadline.lean ====
section
/-! DEFINITION. Flag fall and the deadline (R321 to R331): what a stack does to a launch when its clock reaches T or
D, how a wave is diverted to wrap-up code, what the global dispatcher does at its own instant, and the completion
record. -/
namespace Sys2Proof.Machine

/-! ### What is cancelled -/

/-- Cancel a gang's commands that have not started, held ones too (R218): status 0x1, nothing counted. -/
def State.cancelCommands (s : State) (g : Nat) : State :=
  (s.commands.filter (fun p => p.2.owner.gang == some g && !p.2.begun)).foldl
    (fun t p => (t.delCommand p.1).commandEnd p.2 1 0 []) s

/-- An operation of the matrix unit is cancelled (R226, R308, R318): its unit's accumulators are those of the shadow copy
if it had started, its token has status 0x1, and it counts nothing. -/
def State.cancelOp (s : State) (m : Nat) (x : MxOp) : State :=
  let s := if x.started && x.fn == .mxgo then s.modUnit x.gang x.unit (fun u => { u with acc := x.shadow }) else s
  let s := (s.delOp m).setToken x.gang x.wave x.token 1 true true []
  if x.fn.counts && blockReport x.block then s.report x.gang x.wave 5 ⟨reportWord 6 1 0, false, []⟩ else s

/-- Cancel a gang's matrix operations that have not started, and those that wait on q5 or on a page (R323 step 4).
Started ones that do not wait take their handles first, since the wave's queues are about to be emptied. -/
def State.cancelOps (s : State) (g : Nat) : State :=
  let t := s.popAll g
  ((t.gangOps g).filter (fun p => !p.2.started || t.opWaits p.2)).foldl (fun u p => u.cancelOp p.1 p.2) t

/-- Every speculating wave of a gang rolls back (R323 step 2, R340). -/
def State.rollbackGang (s : State) (g : Nat) : State :=
  match aget s.gangs g with
  | none => s
  | some x => (List.range x.waves.length).foldl (fun t w => t.rollbackWave g w 0x0B8) s

/-- The waves of a gang that speculate. -/
def Gang.speculating (x : Gang) : List Nat :=
  (List.range x.waves.length).filter (fun w => match x.waves[w]? with | some v => v.spec.isSome | none => false)

/-! ### Diversion (R161, R325, R326) -/

/-- Blocked MWAIT entries leave with status 0x2 (R323 step 5). -/
def WaveCore.dropMwaits (core : WaveCore) : WaveCore :=
  (List.range core.frontier.length).foldl (fun (c : WaveCore) k =>
    match c.frontier[k]? with
    | none => c
    | some e =>
      match e.state with
      | .blocked (.mwait d _) => (c.giveStatus e 2).leaveMwait k e d
      | _ => c) core

/-- Where a lane is: its PC for ffpc, whether its entry is blocked or joining, and whether it waits in a deferred trap
(R325, R326). -/
def WaveCore.place (core : WaveCore) (n : Nat) : W64 × Bool × Bool :=
  let e := core.frontier.find? (fun e => has e.lanes n)
  let blocked := match e with | some x => x.state != .ready | none => false
  let resume := ((core.lane n).trap.map (fun t => t.resume)).getD 0
  if core.handler && has core.trapmask n then (resume, blocked, false)
  else match e with
  | some x => (x.pc, blocked, false)
  | none => (resume, false, true)

/-- ffwhy (R326). -/
def ffwhyOf (cause : Nat) (blocked spec trapped handler : Bool) : W32 :=
  BitVec.ofNat 32 (cause + (if blocked then 2 ^ 8 else 0) + (if spec then 2 ^ 9 else 0) +
    (if trapped then 2 ^ 10 else 0) + (if handler then 2 ^ 11 else 0))

/-- The core of a wave as diversion leaves it. `blockedNow` are the places before MWAIT left its loop. -/
def WaveCore.divert (core : WaveCore) (cause : Nat) (spec : Bool) (pc : W64) (prio : BitVec 6) : WaveCore :=
  let left := core.dropMwaits
  let live := core.live
  let lanes := left.mapLanes (fun n l =>
    if l.exited then l
    else
      let p := left.place n
      let b := (core.place n).2.1
      { l with
        ffpc := p.1.setWidth 56 |>.setWidth 64
        ffwhy := ffwhyOf cause b spec p.2.2 core.handler
        trap := none, returned := none, stack := [], mwait := none })
  { lanes with
    frontier := [{ lanes := live, pc := pc, prio := prio, state := .ready, guard := ⟨0, 0⟩, aside := false }]
    trapmask := 0, handler := false, latchCount := 0, last := none, tokenWait := none, validity := .none
    bars := left.bars.map (fun b => { Barrier.fresh (bitsOf live) with phase := b.phase }) }

/-- A held access as diversion leaves it: it stays held with the operands of the core it issued from (R198); a TRET
that was held goes with its handler (R246). -/
def HeldAccess.divert (h : HeldAccess) (core : WaveCore) : Option LeftAccess :=
  match h.instr with
  | .tret => none
  | _ => some ⟨h, core⟩

/-- A wave is diverted (R323 step 6): words it has not submitted are discarded (R208), and handler entry that had begun is
abandoned with its traps (R246). -/
def Wave.divert (w : Wave) (cause : Nat) (spec : Bool) (pc : W64) (prio : BitVec 6) : Wave :=
  { w with
    core := w.core.divert cause spec pc prio
    push := List.replicate 8 []
    held := none
    left := w.left ++ (w.held.bind (fun h => h.divert w.core)).toList
    entering := false
    reading := none
    diverted := true }

/-- The wave has a lane to divert and is not diverted yet. -/
def Wave.divertible (w : Wave) : Bool := !w.retired && !w.diverted && w.core.live != 0

/-- The gang's barriers keep their phases and expect the waves that have not retired (R203). -/
def Gang.resetBars (x : Gang) : Gang :=
  { x with
    bars := x.bars.map (fun b => { Barrier.fresh x.liveWaves with phase := b.phase })
    arrivals := [] }

/-- A gang is killed (R324, R329): its waves stop, speculation rolls back, unstarted work is cancelled and held accesses
are abandoned; GANG_RETIRE frees it once what has started is done. -/
def State.killGang (s : State) (g : Nat) : State :=
  ((((s.rollbackGang g).cancelCommands g).cancelOps g).modGang g (fun x =>
    { x with state := .dying, waves := x.waves.map (fun w => { w with held := none, left := [], entering := false }) })).settleGangQueues g

/-- Flag fall meets a gang that its stack holds (R323, R324): steps 2 to 6. -/
def State.divertGang (s : State) (g cause : Nat) : State :=
  match aget s.gangs g with
  | none => s
  | some x =>
    match s.launchOf x with
    | none => s
    | some l =>
      let spec := x.speculating
      let s := ((s.rollbackGang g).cancelCommands g).cancelOps g
      if l.desc.wrapup = 0xFFFFFFFF then s.killGang g
      else if !x.waves.any Wave.divertible then s
      else
        let pc := l.desc.code + BitVec.ofNat 64 l.desc.wrapup
        let s := s.modGang g (fun y => { y.resetBars with
          diverted := true
          waves := y.waves.mapIdx (fun w v =>
            if v.divertible then v.divert cause (spec.contains w) pc l.desc.wrapPrio else v) })
        s.gangLeaves g

/-! ### FLAG_FALL (R321, R323) -/

/-- The stack holds a gang of the launch, resident or in a batch, or runs its front end (R321). -/
def State.stackHolds (s : State) (l st : Nat) : Bool :=
  s.gangs.any (fun p => p.2.launch == l &&
    ((p.2.state == .batched && (s.stack st).batch.contains p.1) || (p.2.state == .resident && p.2.stack == st))) ||
  s.pools.any (fun p => p.2.launch == l && p.2.home == st && !p.2.stopped)

/-- In replay the next record of the stack's log is the flag fall of the launch (R446). -/
def State.flagRecorded (s : State) (st : Nat) (x : Launch) : Bool :=
  let t := s.stack st
  x.desc.capture && t.replays && decide (t.capPos < t.logBytes) &&
  s.recordMatches (t.capBase + t.capPos) 6 x.desc.launchid.toNat (natLe 8 x.desc.flagFall)

/-- A replayed log has records that come before the launch's flag fall (R446). -/
def State.flagWaits (s : State) (st : Nat) (x : Launch) : Bool :=
  (s.stack st).replays && (match s.logged st x 6 0 0 8 (natLe 8 x.desc.flagFall ++ natLe 8 (s.stack st).now) with
    | .hold => true
    | .go _ _ => false)

/-- Flag fall is due on a stack: once for each launch and stack. -/
def State.flagFallDue (s : State) (l st : Nat) : Bool :=
  match aget s.launches l with
  | none => false
  | some x =>
    !x.recorded && x.desc.deadline != 0 && !x.ffStacks.contains st && !(s.stack st).haltArrived && s.stackHolds l st &&
    ((decide (x.desc.flagFall ≤ (s.stack st).now) && !s.flagWaits st x) || s.flagRecorded st x)

/-- Gangs that wait in a stack's batches are dropped and count as never started (R323 step 1). -/
def State.dropBatched (s : State) (l st : Nat) : State :=
  let gs := (s.stack st).batch.filter (fun g => match aget s.gangs g with
    | some x => x.launch == l && x.state == .batched
    | none => false)
  let t := gs.foldl (fun (t : State) g => { t.neverStarts g with reservations := adel t.reservations g }) s
  t.modStack st (fun x => { x with batch := x.batch.filter (fun g => !gs.contains g) })

/-- FLAG_FALL (R323): the launch's gangs on the stack are dropped or diverted, its front end stops, and the event
0x0003 is sent; in replay it comes where the log has it. -/
def execFlagFall (l st : Nat) (s : State) : Host.Outcome State Fault Refusal :=
  match aget s.launches l with
  | none => .next s
  | some x =>
    if !s.flagFallDue l st then .next s
    else
      let T := x.desc.flagFall
      match s.logged st x 6 0 0 8 (natLe 8 T ++ natLe 8 (s.stack st).now) with
      | .hold => .next (s.recallLog st)
      | .go _ s =>
        let gs := (s.gangs.filter (fun p => p.2.launch == l && p.2.state == .resident && p.2.stack == st)).map
          (fun p => p.1)
        let s := gs.foldl (fun t g => t.divertGang g 1) (s.dropBatched l st)
        let s : State := { s with pools := s.pools.map (fun (p : Nat × Pool) =>
          if p.2.launch == l && p.2.home == st then (p.1, { p.2 with stopped := true }) else p) }
        .next ((s.modLaunch l (fun y => { y.falls with ffStacks := st :: y.ffStacks })).event 0x0003 st x.ctx
          (natLe 8 x.desc.launchid.toNat ++ natLe 8 T))

/-! ### DEADLINE_KILL (R329) and SAVED_GANG_DEADLINE (R330) -/

/-- The gangs of a launch that are resident on a stack. -/
def State.residents (s : State) (l st : Nat) : List Nat :=
  (s.gangs.filter (fun p => p.2.launch == l && p.2.state == .resident && p.2.stack == st)).map (fun p => p.1)

/-- The deadline has passed on a stack that still holds gangs of the launch. -/
def State.deadlineDue (s : State) (l st : Nat) : Bool :=
  match aget s.launches l with
  | none => false
  | some x =>
    x.desc.deadline != 0 && decide (x.desc.deadline ≤ (s.stack st).now) && !(s.stack st).haltArrived &&
    !(s.residents l st).isEmpty

/-- DEADLINE_KILL (R329). -/
def execDeadlineKill (l st : Nat) (s : State) : Host.Outcome State Fault Refusal :=
  if s.deadlineDue l st then .next ((s.residents l st).foldl (fun t g => t.killGang g) s) else .next s

/-- A gang that is saved ends as killed, without restore; its image is discarded (R330). -/
def State.killSaved (s : State) (g : Nat) : State :=
  match aget s.gangs g with
  | none => s
  | some x => (((s.modLaunch x.launch (fun l => { l with killed := l.killed + 1 })).gangLeaves g).modGang g (fun y =>
      { y with state := .done })).dropImage (s.ctxOf x)

/-- SAVED_GANG_DEADLINE (R330): judged by the active complex's clock, which keeps the saved gangs (R450). -/
def execSavedGangDeadline (g : Nat) (s : State) : Host.Outcome State Fault Refusal :=
  match aget s.gangs g with
  | none => .next s
  | some x =>
    match s.launchOf x with
    | none => .next s
    | some l =>
      if x.state == .saved && l.desc.deadline != 0 && decide (l.desc.deadline ≤ s.activeNow) then .next (s.killSaved g)
      else .next s

/-! ### DISPATCHER_FLAG_FALL (R321) -/

/-- A formed wave of a pool that no batch holds yet (R271). -/
def State.undispatchedFormed (s : State) (l : Nat) : List Nat :=
  (s.gangs.filter (fun p => p.2.launch == l && p.2.state == .batched &&
    !s.stackTab.any (fun t => t.batch.contains p.1))).map (fun p => p.1)

/-- Gangs of a launch that the global dispatcher has not dispatched. -/
def State.undispatched (s : State) (l : Nat) (x : Launch) : Nat :=
  match x.pool with
  | none => s.gangTotal x - x.next
  | some _ => (s.undispatchedFormed l).length

/-- The active complex works: it is in state 4, castling has not suspended it and no halt stops its stack (R384, R385,
R411). -/
def State.complexRuns (s : State) : Bool :=
  (s.stack s.activeStack).cpState == 4 && s.castling.isNone && !(s.stack s.activeStack).haltArrived

/-- The dispatcher's own instant T has come while gangs are undispatched (R321, R450). -/
def State.dispatcherDue (s : State) (l : Nat) : Bool :=
  match aget s.launches l with
  | none => false
  | some x =>
    !x.recorded && x.desc.deadline != 0 && decide (x.desc.flagFall ≤ s.activeNow) && s.complexRuns &&
    decide (0 < s.undispatched l x)

/-- DISPATCHER_FLAG_FALL (R321): every gang not yet dispatched counts as never started. -/
def execDispatcherFlagFall (l : Nat) (s : State) : Host.Outcome State Fault Refusal :=
  match aget s.launches l with
  | none => .next s
  | some x =>
    if !s.dispatcherDue l then .next s
    else
      let formed := s.undispatchedFormed l
      let s := formed.foldl (fun t g => t.neverStarts g) s
      let grid := if x.pool.isNone then s.gangTotal x - x.next else 0
      .next (s.modLaunch l (fun y => { y.falls with
        dispatchFf := true, unstarted := y.unstarted + grid, next := y.next + grid }))

/-! ### The completion record (R331) -/

/-- The status of the record: 2 after a reset of its context (R405); else the first that applies of 3, 2, 1, 0. -/
def Launch.status (l : Launch) : Nat :=
  if l.wasReset then 2 else if l.ff && l.ffEarly then 3 else if l.killed != 0 then 2 else if l.ff then 1 else 0

/-- A validity as a number (R331). -/
def validityCode : Validity → Nat
  | .none => 0 | .part => 1 | .full => 2

/-- The completion record. -/
def Launch.record (l : Launch) (status now : Nat) : List Byte :=
  natLe 4 status ++ natLe 1 (if l.anyRetired then validityCode l.validity else 2) ++ natLe 3 0 ++
  natLe 8 l.desc.launchid.toNat ++ natLe 8 l.normal ++ natLe 8 l.wrapped ++ natLe 8 l.killed ++ natLe 8 l.unstarted ++
  natLe 8 (if l.ff then l.desc.flagFall else 0) ++ natLe 8 now

/-- A launch's packet completes, or its graph moves on (R370, R374). -/
def State.ownerDone (s : State) (o : LaunchOwner) : State :=
  if o.inGraph then
    s.modOpen o.queue o.index (fun y => { y with graph := y.graph.map (fun g => { g with busy := false }) })
  else s.completePacket o.queue o.index

/-- A launch's write is held on a page (R451). -/
def State.launchHold (s : State) (l : Nat) (q : Queue) (page : Nat) : State :=
  (s.modLaunch l (fun x => { x with heldPage := some page })).pageRequest q.ctx q.home page .command

/-- The done address gets its 1 after the record, as a release at `.sys` (R372); then the launch's packet completes,
or its graph moves on. -/
def State.writeDone (s : State) (l : Nat) (x : Launch) (q : Queue) : State :=
  let finished := fun (t : State) =>
    (t.modLaunch l (fun y => { y with desc := { y.desc with done := 0 } })).ownerDone x.owner
  if x.desc.done = 0 then s
  else match s.cpAtomic q x.desc.done.toNat 8 with
  | .hold page => s.launchHold l q page
  | .wait lines => s.backInvalidate lines
  | .fault _ _ => (finished s).stopQueue x.owner.queue 8 0 x.owner.index
  | .ok ps => s.whenClear q.home true ps (finished (s.riseAt s.cpAgent q.home 1 ps))

/-- The active complex comes after what a launch's waves and operations have done (R291). -/
def State.joinLaunch (s : State) (x : Launch) : State :=
  { s with cpKnow := { s.cpKnow with view := Seen.join s.cpKnow.view x.finish } }

/-- Write a launch's record with a status (R291, R331, R451); then its done address rises, and its packet completes
(R370). -/
def State.writeRecord (s : State) (l : Nat) (x : Launch) (status : Nat) : State :=
  match aget s.queues x.owner.queue with
  | none => s.modLaunch l (fun y => { y with recorded := true })
  | some q =>
    match (s.joinLaunch x).cpWrite q x.desc.record.toNat (x.record status s.activeNow) with
    | .hold page => s.launchHold l q page
    | .recall lines => s.backInvalidate lines
    | .refused => ((s.modLaunch l (fun y => { y with recorded := true, desc := { y.desc with done := 0 } })).stopQueue
        x.owner.queue 8 0 x.owner.index).ownerDone x.owner
    | .ok t =>
      let u := t.modLaunch l (fun y => { y with recorded := true })
      if x.desc.done = 0 then u.ownerDone x.owner else u.writeDone l x q

/-- COMPLETION_RECORD_WRITE (R331): once every gang is accounted for. -/
def execCompletionRecordWrite (l : Nat) (s : State) : Host.Outcome State Fault Refusal :=
  match aget s.launches l with
  | none => .next s
  | some x =>
    if !s.complexRuns || x.heldPage.isSome then .next s
    else if x.recorded then
      (match aget s.queues x.owner.queue with
       | some q => .next (s.writeDone l x q)
       | none => .next s)
    else if s.accounted l x then .next (s.writeRecord l x x.status)
    else .next s

end Sys2Proof.Machine
end

