-- ==== Sys2Proof/Machine/Dispatching.lean ====
section
/-! DEFINITION. From launch to core (R253 to R262): rounds of the global dispatcher, placement by majority bytes, the
stack dispatcher and two-phase reservation. -/
namespace Sys2Proof.Machine

/-! ### Choosing a launch (R253, R254, R320) -/

/-- The scheduled class of a round (R253). -/
def scheduledClass (n : Nat) : Nat :=
  if n % 15 % 2 = 0 then 3 else if n % 15 = 7 then 0 else if n % 15 = 3 ∨ n % 15 = 11 then 1 else 2

/-- The context dispatches gangs: no ladder stops it (R402). -/
def State.dispatches (s : State) (ctx : Nat) : Bool :=
  match aget s.contexts ctx with | none => false | some c => c.rung == .none && !c.fetchStopped

/-- A launch is ready (R253): accepted, its dependence met, not fallen, and with a gang that is not dispatched; its saved
gangs go first (R410). -/
def State.launchReady (s : State) (l : Nat) (x : Launch) : Bool :=
  !x.recorded && x.depMet && !x.ff && decide (0 < s.undispatched l x) && s.dispatches x.ctx &&
  !s.gangs.any (fun p => p.2.launch == l && p.2.state == .saved)

/-- Slack (R320); none is infinite. -/
def State.slack (s : State) (l : Nat) (x : Launch) : Option Int :=
  let d := x.desc
  let p := max 1 (s.partitionStacks x.ctx).length
  let e := (d.cost * s.undispatched l x + p - 1) / p
  if d.deadline = 0 then none else some ((d.deadline : Int) - s.activeNow - d.budget - e)

/-- Slack a is less than slack b. -/
def slackLess (a b : Option Int) : Bool :=
  match a, b with
  | some x, some y => decide (x < y)
  | some _, none => true
  | none, _ => false

/-- Launch a goes before launch b within a class (R254). -/
def State.launchBefore (s : State) (a b : Nat × Launch) : Bool :=
  let sa := s.slack a.1 a.2
  let sb := s.slack b.1 b.2
  slackLess sa sb || (!slackLess sb sa && (decide (a.2.seq < b.2.seq) ||
    (a.2.seq == b.2.seq && decide (a.2.desc.launchid.toNat < b.2.desc.launchid.toNat))))

/-- Put a launch in its place. -/
def insertLaunch (s : State) (x : Nat × Launch) : List (Nat × Launch) → List (Nat × Launch)
  | [] => [x]
  | y :: ys => if s.launchBefore x y then x :: y :: ys else y :: insertLaunch s x ys

/-- The ready launches of a partition in the order in which its round tries them: the served class, then the others
descending. -/
def State.roundOrder (s : State) (p : Nat) : List (Nat × Launch) :=
  let ready := s.launches.filter (fun q => s.partitionOf q.2.ctx == p && s.launchReady q.1 q.2)
  let sched := scheduledClass (s.partition p).round
  let classes := [3, 2, 1, 0]
  let order := if ready.any (fun q => q.2.desc.cls == sched) then sched :: classes.filter (fun c => c != sched)
    else classes
  order.flatMap (fun c =>
    (ready.filter (fun q => q.2.desc.cls == c)).foldl (fun xs q => insertLaunch s q xs) [])

/-! ### Majority bytes (R255, R256) -/

/-- The coordinates of a box, given as ranges by dimension. -/
def boxCoords : List (Nat × Nat) → List (List Int)
  | [] => [[]]
  | (lo, hi) :: rest =>
    (boxCoords rest).flatMap (fun i => (List.range (hi - lo)).map (fun k => ((lo + k : Nat) : Int) :: i))

/-- The tile of a gang in one dimension, cut to the tensor's extent: from, up to. -/
def tileRange (t : Tensor) (spec : TileSpec) (x y z k : Nat) : Nat × Nat :=
  let e := t.extent k
  let w := spec.extents.getD k 0
  if 3 ≤ k ∨ w = 0 then (0, e)
  else
    let c := fun j => spec.coefs.getD (4 * k + j) 0
    let o : Int := c 0 + c 1 * x + c 2 * y + c 3 * z
    ((max o 0).toNat, (min (o + w) e).toNat)

/-- The stack that counts for an element's page: the home, or the destination of a page that migrates. -/
def State.homeOf (s : State) (ctx va : Nat) : Option Nat :=
  (s.placement ctx va).map (fun e => if has e 14 then (e.extractLsb' 8 4).toNat else (e.extractLsb' 0 4).toNat)

/-- The stacks to which the elements of one tensor slot count, one entry an element (R255). -/
def State.slotHomes (s : State) (ctx : Nat) (d : Desc) (x y z : Nat) (spec : TileSpec) : List (Nat × Nat) :=
  match d.args[spec.arg]? with
  | none => []
  | some word =>
    match s.entry ctx (word.extractLsb' 0 10).toNat with
    | none => []
    | some t =>
      (boxCoords ((List.range 5).map (tileRange t spec x y z))).filterMap (fun i =>
        (s.homeOf ctx (t.address i)).map (fun h => (h, elementBits t.format / 4)))

/-- The byte count of each stack for a gang, in half bytes (R255). -/
def State.gangCounts (s : State) (l : Launch) (x y z : Nat) : List Nat :=
  let homes := l.desc.tiles.flatMap (s.slotHomes l.ctx l.desc x y z)
  (List.range 12).map (fun st => (homes.filter (fun h => h.1 == st)).foldl (fun n h => n + h.2) 0)

/-- A batch that a round forms: for each stack of the partition the gangs so far, and its free slots at the start. -/
structure Plan where
  free : List (Nat × Nat)
  placed : List (Nat × Nat)
  deriving DecidableEq, Repr

/-- Gangs in the plan's batch for a stack. -/
def Plan.filled (p : Plan) (st : Nat) : Nat := (p.placed.filter (fun q => q.2 == st)).length

/-- Room left for a stack: free slots, and at most 64 a batch unless the launch is all-resident (R258, R259). -/
def Plan.hasRoom (p : Plan) (all : Bool) (st : Nat) : Bool :=
  let f := (aget p.free st).getD 0
  decide (p.filled st < if all then f else min 64 f)

/-- The best of some stacks (R256): the largest count, then the most free slots, then the lowest index. -/
def Plan.best (p : Plan) (counts : List Nat) (places : List Nat) : Option Nat :=
  places.foldl (fun b st =>
    match b with
    | none => some st
    | some c =>
      let left := fun k => (aget p.free k).getD 0 - p.filled k
      if counts.getD c 0 < counts.getD st 0 ∨ (counts.getD c 0 = counts.getD st 0 ∧ left c < left st) then some st
      else some c) none

/-- In replay, the stack whose log stacks the gang (R446). -/
def State.replayHome (s : State) (l : Launch) (index : Nat) : Option Nat :=
  (s.partitionStacks l.ctx).find? (fun st =>
    let t := s.stack st
    l.desc.capture && t.replays &&
    s.recordAhead (t.capBase + t.logBytes) 4 l.desc.launchid.toNat (natLe 8 index) (t.capBase + t.capPos)
      (t.logBytes / 16))

/-- Index of a gang in a launch's grid (R258). -/
def gridIndex (d : Desc) (n : Nat) : Nat × Nat × Nat := (n % d.nx, n / d.nx % d.ny, n / (d.nx * d.ny))

/-- The stack of gang n, or of a pool's wave, if it can go to one in this round (R258). -/
def State.planGang (s : State) (l : Launch) (p : Plan) (n : Nat) (home : Option Nat) : Option Nat :=
  let i := gridIndex l.desc n
  let counts := if home.isSome then [] else s.gangCounts l i.1 i.2.1 i.2.2
  let places := p.free.map (fun q => q.1)
  match home.orElse (fun _ => (s.replayHome l n).orElse (fun _ => p.best counts places)) with
  | none => none
  | some h =>
    if p.hasRoom l.desc.allResident h then some h
    else if l.desc.spill && home.isNone then p.best counts (places.filter (p.hasRoom l.desc.allResident))
    else none

/-- Plan gangs in ascending order until one can go nowhere. -/
def State.planGangs (s : State) (l : Launch) (home : Option Nat) : List Nat → Plan → Plan
  | [], p => p
  | n :: rest, p =>
    match s.planGang l p n home with
    | none => p
    | some st => s.planGangs l home rest { p with placed := p.placed ++ [(n, st)] }

/-- The gangs that a round would dispatch of a launch: number or key, and stack. -/
def State.plan (s : State) (l : Nat) (x : Launch) : Plan :=
  let places := (s.partitionStacks x.ctx).filter s.maskAgrees
  let p : Plan := { free := places.map (fun st => (st, s.freeSlots st x.desc)), placed := [] }
  match x.pool with
  | none => s.planGangs x none ((List.range (s.gangTotal x)).drop x.next) p
  | some k => s.planGangs x (((aget s.pools k).map Pool.home).orElse (fun _ => some 12)) (s.undispatchedFormed l) p

/-- The plan dispatches something, and all that is left for an all-resident launch (R253, R259). -/
def State.planGoes (s : State) (l : Nat) (x : Launch) (p : Plan) : Bool :=
  !p.placed.isEmpty && (!x.desc.allResident || p.placed.length == s.undispatched l x)

/-! ### DISPATCH_ROUND (R258) -/

/-- A gang joins its stack's batch. -/
def State.sendGang (s : State) (l : Nat) (x : Launch) (n st : Nat) : State :=
  let join := fun (t : State) (g : Nat) => t.modStack st (fun k => { k with batch := k.batch ++ [g] })
  match x.pool with
  | none =>
    let i := gridIndex x.desc n
    let t := s.fresh.2
    join { t with gangs := t.gangs ++ [(s.nextId, Gang.waiting l i.1 i.2.1 i.2.2 st)] } s.nextId
  | some _ => join (s.modGang n (fun g => { g with stack := st, batchStack := st })) n

/-- The stack and package barriers of an all-resident launch expect every participant from its one round on (R200). -/
def State.makeBars (s : State) (l : Nat) (x : Launch) : State :=
  let gs := s.gangs.filter (fun p => p.2.launch == l && p.2.state == .batched)
  s.modLaunch l (fun y => { y with
    stackBars := (s.partitionStacks x.ctx).flatMap (fun st => (List.range 16).map (fun n =>
      (16 * st + n, Barrier.fresh ((gs.filter (fun p => p.2.batchStack == st)).map (fun p => p.1)))))
    pkgBars := List.replicate 16 (Barrier.fresh (gs.map (fun p => p.1))) })

/-- A round dispatches a plan. -/
def State.dispatchPlan (s : State) (l : Nat) (x : Launch) (p : Plan) : State :=
  let t := p.placed.foldl (fun t q => t.sendGang l x q.1 q.2) s
  let t := t.modLaunch l (fun y => { y with next := if y.pool.isNone then y.next + p.placed.length else y.next })
  if x.desc.allResident then t.makeBars l x else t

/-- A round of a partition begins: n rises by 1 (R253). -/
def State.nextRound (s : State) (p : Nat) : State :=
  s.modPartition p (fun x => { x with round := x.round + 1, roundDue := false })

/-- DISPATCH_ROUND (R253, R254, R258, R259): a round of a partition. -/
def execDispatchRound (s : State) (p : Nat := 0) : Host.Outcome State Fault Refusal :=
  let order := s.roundOrder p
  if !s.complexRuns || !(s.partition p).roundDue || order.isEmpty then .next s
  else
    match order.find? (fun q => s.planGoes q.1 q.2 (s.plan q.1 q.2)) with
    | none => .next (s.nextRound p)
    | some (l, x) => .next (((s.nextRound p).dispatchPlan l x (s.plan l x)).roundsDue p)

/-! ### The stack dispatcher (R260, R261) -/

/-- The gang's flag-fall instant has passed on the stack (R322). -/
def State.pastFlagFall (s : State) (l : Launch) (st : Nat) : Bool :=
  l.desc.deadline != 0 && decide (l.desc.flagFall ≤ (s.stack st).now)

/-- A gang leaves its stack's batch. -/
def State.unbatch (s : State) (st g : Nat) : State :=
  s.modStack st (fun t => { t with batch := t.batch.filter (fun k => k != g) })

/-- The cores that the waves of a gang start with: a grid's waves at the entry, a pool's as its front end formed them. -/
def startCore (d : Desc) (x : Gang) (w : Nat) : WaveCore :=
  match x.waves[w]? with
  | some v => v.core
  | none => WaveCore.start 0xFFFFFFFF d.entryPc d.entryPrio d.args

/-- Change a pool. -/
def State.modPool (s : State) (k : Nat) (f : Pool → Pool) : State := { s with pools := amod s.pools k f }

/-- How a front end's access ends: with what it read and the state to go on in, or in a state in which it waits. -/
inductive PoolStep
  | go (bs : List (Byte × Bool)) (s : State)
  | wait (s : State)
  deriving DecidableEq, Repr

/-- The stop-record facts of a front end's fault (R412): how many front ends stop, and this one's block. -/
def State.poolHalt (s : State) (p : Pool) (x : Launch) (reason : Nat) : Halt :=
  { src := none, reason := reason, stack := p.home, slot := 29, ctx := x.ctx, launch := x.desc.launchid
    pc := BitVec.ofNat 64 (s.pools.filter (fun q => q.2.home == p.home && !q.2.stopped)).length, addr := p.block
    wave := 0xFF, performed := 0, skipped := 0, written := false }

/-- A front end takes bytes of its memory: a page may have to be asked for, host copies recalled, a route let go
(R350, R357), or the access be refused, which is a fault of slot 29 (R411). -/
def State.poolReach (s : State) (k : Nat) (p : Pool) (x : Launch) (write : Bool) (va n : Nat)
    (next : List (Target × Nat) → PoolStep) : PoolStep :=
  match s.reach x.ctx p.home 0 .engine write (sectorPieces va n) with
  | .hold page => .wait ((s.modPool k (fun q => { q with heldPage := some page })).pageRequest x.ctx p.home page .engine)
  | .fault reason _ => .wait (s.raiseHalt (s.poolHalt p x reason))
  | .wait lines => .wait (s.backInvalidate lines)
  | .ok ps =>
    if s.frozenPieces p.home ps then .wait s
    else if (s.recallLines write ps).isEmpty then next ps
    else .wait (s.backInvalidate (s.recallLines write ps))

/-- A front end writes a field of its control block, as a release at a scope. -/
def State.poolStore (s : State) (k : Nat) (p : Pool) (x : Launch) (sc : Scope) (off v : Nat) : PoolStep :=
  s.poolReach k p x true (p.block.toNat + off) 8 (fun ps =>
    .go [] ((s.fillFrom x.ctx p.home none ps).storePieces (s.poolAgent p.launch p sc) true p.home 0 (natLe 8 v) false ps))

/-- A front end writes a field of its control block, as a release at `.pkg` (R269, R271). -/
def State.poolWrite (s : State) (k : Nat) (p : Pool) (x : Launch) (off v : Nat) : PoolStep := s.poolStore k p x .pkg off v

/-- A front end has raised a fault that is not cleared. -/
def State.poolFaulted (s : State) (p : Pool) : Bool :=
  s.partitions.any (fun q => q.faults.any (fun h => h.slot == 29 && h.stack == p.home && h.addr == p.block))

/-- The type 4 record of a gang's dispatch or restore (R445): the group's first core to use. -/
def State.logPlace (s : State) (st k : Nat) (x : Gang) (l : Launch) : Option (Nat × State) :=
  match s.logged st l 4 k 0 8 (natLe 8 (gangIndex l x) ++ natLe 1 st ++ natLe 1 k ++
      natLe 4 (s.partition (s.partitionOf l.ctx)).round) with
  | .hold => none
  | .go p t => some (leNat ((p.drop 9).take 1), t)

/-- Start gang g of a batch on the group at core k of its stack, or on the group that a replayed log gives. -/
def State.placeGang (s : State) (st g k : Nat) (x : Gang) (l : Launch) : State :=
  let start := fun (t : State) =>
    match t.logPlace st k x l with
    | none => s
    | some (j, u) =>
      if (u.room st).fits l.desc j then (u.unbatch st g).startGang g st j l.desc (startCore l.desc x) else s
  match l.pool.bind (fun q => (aget s.pools q).map (fun p => (q, p))) with
  | none => start s
  | some (q, p) =>
    if s.poolFaulted p || p.heldPage.isSome then s
    else match s.poolWrite q p l 32 (p.raised + 1) with
    | .wait t => t
    | .go _ t => start (t.modPool q (fun y => { y with raised := y.raised + 1 }))

/-- The first gang of a stack's batches whose context still dispatches. -/
def State.firstBatched (s : State) (st : Nat) : Option Nat :=
  (s.stack st).batch.find? (fun g =>
    match aget s.gangs g with | none => false | some x => s.dispatches (s.ctxOf x))

/-- STACK_DISPATCH_GANG (R260, R261, R322). -/
def execStackDispatchGang (st : Nat) (s : State) : Host.Outcome State Fault Refusal :=
  if (s.stack st).sdState || (s.stack st).haltArrived || !s.maskAgrees st then .next s
  else match s.firstBatched st with
  | none => .next s
  | some g =>
    match aget s.gangs g with
    | none => .next s
    | some x =>
      match s.launchOf x with
      | none => .next s
      | some l =>
        if s.pastFlagFall l st then .next ((s.neverStarts g).unbatch st g)
        else match (s.room st).pick l.desc with
        | none => .next s
        | some k => .next (s.placeGang st g k x l)

/-! ### Two-phase reservation (R262) -/

/-- The seed of a reservation sequence. -/
def reservationSeed (l : Launch) (x : Gang) : W32 :=
  let v := l.desc.launchid.setWidth 32 ^^^ BitVec.ofNat 32 (gangIndex l x)
  if v = 0 then 1 else v

/-- The reservation under way for a gang, or a new one on a group that the agent chooses. -/
def State.reservation (s : State) (g st : Nat) (x : Gang) (l : Launch) : Reservation :=
  let groups := groupStarts l.desc.cores
  (aget s.reservations g).getD
    { gang := g, stack := st, core0 := (groups[s.choose 50 groups.length]?).getD 0, x := reservationSeed l x, attempt := 0
      waiting := false, due := 0 }

/-- RESERVATION_ATTEMPT (R262): in reservation mode an agent tries to start a gang; every reservation of an attempt is
made and released, or committed, in one step. -/
def execReservationAttempt (r : Nat) (s : State) : Host.Outcome State Fault Refusal :=
  match aget s.gangs r with
  | none => .next s
  | some x =>
    let st := x.stack
    match s.launchOf x with
    | none => .next s
    | some l =>
      let v := s.reservation r st x l
      if x.state != .batched || !(s.stack st).batch.contains r || !(s.stack st).sdState || (s.stack st).haltArrived ||
          !s.maskAgrees st || v.waiting || !s.dispatches l.ctx then .next s
      else if s.pastFlagFall l st then
        .next { (s.neverStarts r).unbatch st r with reservations := adel s.reservations r }
      else if (s.room st).fits l.desc v.core0 then
        let t : State := { s with reservations := adel s.reservations r }
        .next (t.placeGang st r v.core0 x l)
      else
        let seed := xorshift v.x
        let n := v.attempt + 1
        let wait := (1 + seed.toNat % 2 ^ min n 8) * 32
        let next : Reservation := { v with x := seed, attempt := n, waiting := true, due := (s.stack st).now + wait }
        .next { s with reservations := aput s.reservations r next }

/-- RESERVATION_BACKOFF_EXPIRY (R262): the next attempt may come; after 64 the failure is reported. -/
def execReservationBackoffExpiry (r : Nat) (s : State) : Host.Outcome State Fault Refusal :=
  match aget s.reservations r, aget s.gangs r with
  | some v, some x =>
    if !v.waiting || decide ((s.stack v.stack).now < v.due) then .next s
    else if v.attempt < 64 then
      let next : Reservation := { v with waiting := false }
      .next { s with reservations := aput s.reservations r next }
    else
      let index := ((s.launchOf x).map (fun l => gangIndex l x)).getD 0
      let t : State := { s with reservations := adel s.reservations r }
      .next (t.event 0x0004 v.stack (s.ctxOf x)
        (natLe 8 (s.launchid x).toNat ++ natLe 8 index))
  | _, _ => .next s

end Sys2Proof.Machine
end

