-- ==== Sys2Proof/Machine/Pools.lean ====
section
/-! DEFINITION. The front ends of continuation pools (R266 to R271): records taken into bins, waves formed from bins, and
the drain of a pool's input. -/
namespace Sys2Proof.Machine

/-! ### Reading and writing a pool's memory -/

/-- A front end reads its memory, a poisoned sector as marked zeros; each read is an acquire at `.sys` (R268), and
system data goes through the log of its launch (R445). -/
def State.poolRead (s : State) (k : Nat) (p : Pool) (x : Launch) (va n : Nat) : PoolStep :=
  s.poolReach k p x false va n (fun ps =>
    let a := s.poolAgent p.launch p .sys
    match State.readThrough (a.look [51, k]) p.home 0 0 (some x) ps (s.fillFrom x.ctx p.home none ps) with
    | none => .wait (s.recallLog p.home)
    | some (xs, t) => .go ((gotBytes xs).map (fun b => (if b.2 then 0 else b.1, b.2)))
        (t.modPool k (fun q => { q with know := a.learn true (xs.flatMap (fun y => y.tops)) })))

/-- The front end works: not stopped by flag fall, a halt, its own fault or the ladder, and its launch is ready to run. -/
def State.poolRuns (s : State) (p : Pool) (x : Launch) : Bool :=
  !p.stopped && p.heldPage.isNone && !(s.stack p.home).haltArrived && !s.poolFaulted p && x.depMet && s.dispatches x.ctx

/-- Do something with a pool's front end that works. -/
def State.onPool (s : State) (k : Nat) (f : Pool → Launch → State) : State :=
  match aget s.pools k with
  | none => s
  | some p =>
    match aget s.launches p.launch with
    | none => s
    | some x => if s.poolRuns p x then f p x else s

/-! ### Forming waves (R271) -/

/-- A lane that holds a record: its payload in v0 to v7. -/
def PoolRecord.lane (r : PoolRecord) (n : Nat) : Lane :=
  (List.range 8).foldl (fun l k => l.put32 k (r.payload.getD k 0) (r.marks.getD k false)) (Lane.start n false)

/-- The core of a wave formed from a bin: lane l holds the l-th record, in claim order. -/
def formedCore (records : List PoolRecord) (args : List W64) : WaveCore :=
  let prio := records.foldl (fun (m : BitVec 6) r => maxPrio m r.prio) 0
  let pc := ((records.head?).map (fun r => r.pc)).getD 0
  let base := WaveCore.start (maskOf (List.range records.length)) pc prio args
  base.mapLanes (fun n l => match records[n]? with | some r => r.lane n | none => l)

/-- A bin becomes a wave, which enters dispatch as a gang of the pool launch (R271). -/
def State.formWave (s : State) (k : Nat) (records : List PoolRecord) : State :=
  match aget s.pools k with
  | none => s
  | some p =>
    match aget s.launches p.launch with
    | none => s
    | some x =>
      let wave := Wave.start (formedCore records x.desc.args) 0 0 (s.stack p.home).now
      let gang : Gang := { Gang.waiting p.launch (p.formed % 65535) 0 0 p.home with waves := [wave] }
      let t := s.fresh.2
      { t with
        gangs := t.gangs ++ [(s.nextId, gang)]
        pools := amod t.pools k (fun q => { q with formed := q.formed + 1 }) }.roundsDue (s.partitionOf x.ctx)

/-- Flush a bin: it leaves the open bins and becomes a wave. -/
def State.flushBin (s : State) (k n : Nat) : State :=
  match (aget s.pools k).bind (fun p => p.bins[n]?) with
  | none => s
  | some b => (s.modPool k (fun p => { p with bins := p.bins.eraseIdx n })).formWave k b

/-- The bin that holds the most records; of several, the one opened first. -/
def fullestBin (bins : List (List PoolRecord)) : Nat :=
  let most := bins.foldl (fun m b => max m b.length) 0
  (bins.findIdx? (fun b => b.length == most)).getD 0

/-- A record goes into the open bin of its PC, or opens one, for which the fullest of 64 bins is flushed first; a bin
of 32 records is formed at once (R269). -/
def State.binRecord (s : State) (k : Nat) (r : PoolRecord) : State :=
  match aget s.pools k with
  | none => s
  | some p =>
    let same := fun (b : List PoolRecord) => ((b.head?).map (fun x => x.pc)) == some r.pc
    match p.bins.findIdx? same with
    | some n =>
      let t := s.modPool k (fun q => { q with bins := q.bins.modify n (fun b => b ++ [r]) })
      if ((p.bins[n]?).map List.length).getD 0 + 1 = 32 then t.flushBin k n else t
    | none =>
      let t := if 64 ≤ p.bins.length then s.flushBin k (fullestBin p.bins) else s
      t.modPool k (fun q => { q with bins := q.bins ++ [[r]] })

/-! ### POOL_RECORD_TAKE (R267 to R269) -/

/-- A record's bytes are well formed (R269): head bits, PC in the kernel, reserved bytes 0. -/
def recordOk (x : Launch) (bs : List Byte) : Bool :=
  let head := pkt bs 0 8
  let pc := head % 2 ^ 56
  decide (head < 2 ^ 62) && pc % 4 == 0 && decide (x.desc.code.toNat ≤ pc) &&
  decide (pc < x.desc.code.toNat + x.desc.codeSize) && zeros bs 48 64

/-- The record that 64 bytes hold. -/
def recordOf (bs : List (Byte × Bool)) : PoolRecord :=
  let b := bs.map (fun y => y.1)
  { pc := BitVec.ofNat 64 (pkt b 0 8 % 2 ^ 56), prio := BitVec.ofNat 6 (pkt b 0 8 / 2 ^ 56)
    payload := (List.range 8).map (fun k => BitVec.ofNat 32 (pkt b (8 + 4 * k) 4))
    marks := (List.range 8).map (fun k => ((bs.drop (8 + 4 * k)).take 4).any (fun y => y.2)) }

/-- A marked slot is taken: a malformed record is counted as dropped, consumed rises, and a good one is binned. -/
def State.takeRecord (s : State) (k : Nat) (p : Pool) (x : Launch) (claim : Nat) (bs : List (Byte × Bool)) : State :=
  let ok := recordOk x (bs.map (fun y => y.1))
  match if ok then PoolStep.go [] s else s.poolWrite k p x 40 (p.dropped + 1) with
  | .wait t => t
  | .go _ t =>
    match t.poolWrite k p x 8 (p.taken + 1) with
    | .wait u => u
    | .go _ u =>
      let u := u.modPool k (fun q => { q with
        taken := q.taken + 1, lastClaim := claim, dropped := if ok then q.dropped else q.dropped + 1 })
      if ok then u.binRecord k (recordOf bs) else u

/-- The slot at hand: the mark as an acquire, and then the record, each of whose sectors is what that acquire leaves
it (R268). -/
def State.readRecord (s : State) (k : Nat) (p : Pool) (x : Launch) (va : Nat) : PoolStep :=
  match s.poolRead k p x (va + 40) 8 with
  | .wait t => .wait t
  | .go mark t =>
    match t.poolRead k ((aget t.pools k).getD p) x va 64 with
    | .wait u => .wait u
    | .go bs u => .go (bs.take 40 ++ mark ++ bs.drop 48) u

/-- POOL_RECORD_TAKE (R269): the next slot, once its mark says so. -/
def execPoolRecordTake (p : Nat) (s : State) : Host.Outcome State Fault Refusal :=
  .next (s.onPool p (fun pool x =>
    match s.poolRead p pool x pool.block.toNat 28 with
    | .wait t => t
    | .go bs t =>
      let b := bs.map (fun y => y.1)
      let entries := max 1 (pkt b 24 4)
      match t.readRecord p ((aget t.pools p).getD pool) x (pkt b 16 8 + 64 * (pool.taken % entries)) with
      | .wait u => u
      | .go rs u =>
        if pkt (rs.map (fun y => y.1)) 40 8 = pool.taken / entries + 1 then
          u.takeRecord p ((aget u.pools p).getD pool) x (pkt b 0 8) rs
        else s))

/-! ### POOL_DRAIN_FLUSH (R270) -/

/-- The launch has a wave that is resident or waits to be dispatched. -/
def State.launchBusy (s : State) (l : Nat) (x : Launch) : Bool :=
  !x.recorded && (decide (0 < s.undispatched l x) ||
    s.gangs.any (fun p => p.2.launch == l && p.2.state != .done))

/-- The pool's own launch and its producers are idle (R270, R373). -/
def State.producersIdle (s : State) (p : Pool) : Bool :=
  s.launches.all (fun q =>
    (q.1 != p.launch && !(q.2.desc.launchid != 0 && p.producers.contains q.2.desc.launchid)) || !s.launchBusy q.1 q.2)

/-- POOL_DRAIN_FLUSH (R270): the input has drained. Open bins become waves in the order in which they were opened; with no
bin open nothing can follow, and the front end ends. -/
def execPoolDrainFlush (p : Nat) (s : State) : Host.Outcome State Fault Refusal :=
  .next (s.onPool p (fun pool x =>
    match s.poolRead p pool x pool.block.toNat 8 with
    | .wait t => t
    | .go bs t =>
      let claim := pkt (bs.map (fun y => y.1)) 0 8
      if pool.taken < claim ∨ claim ≠ pool.lastClaim ∨ !s.producersIdle pool then s
      else if pool.bins.isEmpty then t.modPool p (fun q => { q with stopped := true })
      else (List.range pool.bins.length).foldl (fun u _ => u.flushBin p 0) t))

end Sys2Proof.Machine
end

