-- ==== Sys2Proof/Machine/Packets.lean ====
section
/-! DEFINITION. What packets and graph nodes do (R368 to R379): launches and their acceptance, engine commands, waits,
signals, graphs and notifications. -/
namespace Sys2Proof.Machine

/-- How the start of a packet or node ends: done; running; not yet possible, for a page, a host copy or a route; an error
of the packet, with its detail; or a refused write, with the state that it leaves (R451). -/
inductive Begun
  | done (s : State)
  | running (s : State)
  | blocked (s : State)
  | error (code detail : Nat)
  | writeRefused (s : State)
  deriving DecidableEq, Repr

/-! ### The end of a graph (R375, R377) -/

/-- Change the running graph of a packet. -/
def State.modGraph (s : State) (k i : Nat) (f : Graph → Graph) : State :=
  s.modOpen k i (fun p => { p with graph := p.graph.map f })

/-- Write the state block of a graph at an offset, if it has one. -/
def State.graphWrite (s : State) (k : Nat) (q : Queue) (g : Graph) (off : Nat) (bs : List Byte) (next : State → Begun) :
    Begun :=
  if g.state = 0 then next s
  else match s.cpWrite q (g.state.toNat + off) bs with
  | .ok t => next t
  | .hold page => .blocked (s.cpHold k q page)
  | .recall lines => .blocked (s.backInvalidate lines)
  | .refused => .writeRefused s

/-- The interrupts of the rings that a graph wrote (R379). -/
def State.graphInterrupts (s : State) (g : Graph) : State :=
  g.rings.foldl (fun (t : State) pa =>
    if (t.coalesce pa).pending = 0 then t else t.interrupt pa (t.ringBlock pa).vector) s

/-- A graph leaves at a node (R377): exit and node are written, its rings' interrupts are sent, and its packet completes;
after a node error the queue stops with error 7 instead. -/
def State.graphLeave (s : State) (k i : Nat) (q : Queue) (g : Graph) (exit node : Nat) : State :=
  match s.graphWrite k q g 8 (natLe 4 exit ++ natLe 4 node) .done with
  | .done t =>
    let t := t.graphInterrupts g
    if exit = 4 then t.failPacket k 7 0 i else t.completePacket k i
  | .blocked t => t
  | _ => s.failPacket k 8 0 i

/-! ### The launch descriptor (R372) -/

/-- A tensor record of a descriptor (R48). -/
def tileOf (b : List Byte) : TileSpec :=
  { slot := pkt b 0 1, arg := pkt b 1 1, access := pkt b 2 2
    extents := (List.range 3).map (fun k => pkt b (8 + 2 * k) 2)
    coefs := (List.range 12).map (fun k => sInt 32 (pkt b (16 + 4 * k) 4)) }

/-- The tensor records that follow a descriptor. -/
def tileBytes (b : List Byte) : List (List Byte) := (List.range (pkt b 31 1)).map (fun k => (b.drop (192 + 64 * k)).take 64)

/-- The fields of a descriptor (R372). -/
def descOf (b : List Byte) : Desc :=
  { code := BitVec.ofNat 64 (pkt b 0 8), codeSize := pkt b 8 4, entry := pkt b 12 4, wrapup := pkt b 16 4
    spad := pkt b 20 4, regs := pkt b 24 2, waves := pkt b 26 1, cores := pkt b 27 1
    fifos := (List.range (pkt b 28 1)).map (fun k => pkt b (32 + k) 1)
    entryPrio := BitVec.ofNat 6 (pkt b 29 1), wrapPrio := BitVec.ofNat 6 (pkt b 30 1)
    tiles := (tileBytes b).map tileOf
    nx := pkt b 40 2, ny := pkt b 42 2, nz := pkt b 44 2, cls := pkt b 46 1
    allResident := (pkt b 47 1).testBit 0, spill := (pkt b 47 1).testBit 1, capture := (pkt b 47 1).testBit 2
    deadline := pkt b 48 8, budget := pkt b 56 8, cost := pkt b 64 8, record := BitVec.ofNat 64 (pkt b 72 8)
    launchid := BitVec.ofNat 64 (pkt b 80 8), dep := BitVec.ofNat 64 (pkt b 88 8)
    depValue := BitVec.ofNat 64 (pkt b 96 8), done := BitVec.ofNat 64 (pkt b 104 8)
    args := (List.range 8).map (fun k => BitVec.ofNat 64 (pkt b (128 + 8 * k) 8)) }

/-- Reserved bits and bytes of a descriptor and of its tensor records are 0 (launch error 2); the owning kernel counts
among them. -/
def reservedOk (b : List Byte) : Bool :=
  zeros b 112 128 && decide (pkt b 46 1 < 4) && decide (pkt b 47 1 < 8) &&
  (tileBytes b).all (fun t => decide (pkt t 2 2 < 4) && zeros t 4 8 && zeros t 14 16)

/-- A tensor record keeps to R44 and R48. DESIGN CHOICE (assumption 105): a record with an extent of 0 and a
coefficient that is not 0 breaks R48, which R372 does not name; it is refused like a record that breaks R44, with
launch error 3. -/
def TileSpec.ok (t : TileSpec) : Bool :=
  decide (t.slot < 8) && decide (t.arg < 8) && t.access != 0 &&
  (List.range 3).all (fun k => t.extents.getD k 0 != 0 || (List.range 4).all (fun j => t.coefs.getD (4 * k + j) 0 == 0))

/-- The fields keep to R43, R44, R47 and R372 (launch error 3). `single` says that the launch is a continuation. -/
def fieldsOk (b : List Byte) (d : Desc) (single captureOk : Bool) : Bool :=
  d.code.toNat % 4096 == 0 && d.codeSize != 0 && d.codeSize % 4 == 0 &&
  decide (d.spad ≤ 4194304) && d.spad % 256 == 0 &&
  decide (8 ≤ d.regs ∧ d.regs ≤ 512) && d.regs % 8 == 0 &&
  decide (1 ≤ d.waves ∧ d.waves ≤ 64) && (d.cores == 1 || d.cores == 2 || d.cores == 4) && decide (d.waves ≤ 32 * d.cores) &&
  decide (d.fifos.length ≤ 8) && d.fifos.all (fun n => decide (1 ≤ n ∧ n ≤ 64)) && zeros b (32 + d.fifos.length) 40 &&
  decide (pkt b 29 1 < 64) && decide (pkt b 30 1 < 64) && (d.wrapup != 0xFFFFFFFF || pkt b 30 1 == 0) &&
  decide (pkt b 31 1 ≤ 8) && d.tiles.all TileSpec.ok && (d.tiles.map TileSpec.slot).eraseDups.length == d.tiles.length &&
  (if single then d.nx == 1 && d.ny == 1 && d.nz == 1 else d.nx != 0 && d.ny != 0 && d.nz != 0) &&
  d.dep.toNat % 8 == 0 && d.done.toNat % 8 == 0 && (!d.capture || captureOk)

/-- Entry and wrap-up lie in the code range, on instructions (launch error 4). -/
def entriesOk (d : Desc) : Bool :=
  decide (d.entry < d.codeSize) && d.entry % 4 == 0 &&
  (d.wrapup == 0xFFFFFFFF || (decide (d.wrapup < d.codeSize) && d.wrapup % 4 == 0))

/-- The room of a stack with nothing on it: the banks that are in scratchpad mode. -/
def Stack.idleRoom (t : Stack) : Room :=
  { cores := List.replicate 16 32
    banks := (List.range 4).map (fun k => (((t.banks.drop (64 * k)).take 64).filter (fun b => b.state != 0)).length) }

/-- The gangs of a launch that the partition holds when it is idle (launch error 6). -/
def State.idleFit (s : State) (members : List Nat) (d : Desc) : Nat :=
  (members.map (fun st => (s.stack st).idleRoom.count d 512)).foldl (fun n k => n + k) 0

/-- What a continuation packet adds to a launch: its control block's address, home stack and producers (R369). -/
structure Continuation where
  block : Nat
  home : Nat
  producers : List W64
  deriving DecidableEq, Repr

/-- The continuation fields of a packet or node. -/
def continuationOf (bs : List Byte) : Option Continuation :=
  if pktKind bs = 2 then some
    { block := pkt bs 16 8, home := pkt bs 24 1
      producers := ((List.range 4).map (fun k => BitVec.ofNat 64 (pkt bs (32 + 8 * k) 8))).filter (fun v => v != 0) }
  else none

/-- A pool's control block keeps to R266. -/
def poolBlockOk (b : List Byte) : Bool :=
  pkt b 16 8 % 64 == 0 && isPow2 (pkt b 24 4) && decide (64 ≤ pkt b 24 4 ∧ pkt b 24 4 ≤ 1048576) && zeros b 28 32 &&
  zeros b 48 64

/-- The launch error of a descriptor, 0 for none: of several the lowest (R372). Continuation launches are checked against
their control block apart. -/
def State.launchError (s : State) (q : Queue) (b : List Byte) (single : Bool) : Nat :=
  let d := descOf b
  let members := s.members (s.queuePartition q)
  let captureOk := ((aget s.contexts q.ctx).map Context.captureOk).getD false
  if !reservedOk b then 2
  else if !fieldsOk b d single captureOk then 3
  else if !entriesOk d then 4
  else if 64 < d.banks then 5
  else if d.allResident && decide (s.idleFit members d < d.nx * d.ny * d.nz) then 6
  else if d.record.toNat % 64 ≠ 0 then 7
  else if d.deadline ≠ 0 ∧ members.any (fun st => decide ((s.stack st).timeState < 2)) then 8
  else if single && (d.waves != 1 || d.cores != 1) then 9
  else 0

/-! ### Acceptance (R321, R372, R380) -/

/-- A launch as it is accepted. -/
def Launch.accepted (d : Desc) (ctx : Nat) (owner : LaunchOwner) (seq : Nat) (start : Seen) : Launch :=
  { desc := d, ctx := ctx, owner := owner, seq := seq, depMet := d.dep == 0, next := 0, normal := 0, wrapped := 0
    killed := 0, unstarted := 0, started := false, ff := false, ffEarly := false, ffStacks := [], dispatchFf := false
    validity := .full, anyRetired := false, stackBars := [], pkgBars := [], pool := none, recorded := false, cstFrom := 0
    codeFrom := [], start := start, finish := [], heldPage := none, wasReset := false }

/-- A launch whose T has passed when it is accepted starts no gang (R321). -/
def Launch.late (l : Launch) (now : Nat) : Launch :=
  if l.desc.deadline ≠ 0 ∧ l.desc.flagFall ≤ now then
    let n := if l.pool.isSome then 0 else l.desc.nx * l.desc.ny * l.desc.nz
    { l.falls with dispatchFf := true, unstarted := n, next := n }
  else l

/-- The active complex has read as a load-acquire (R288). -/
def State.cpLearns (s : State) (know : Know) : State := { s with cpKnow := know }

/-- A refused or poisoned read for a launch that waits: its graph ends with exit 4, or its queue stops with error 8
(R451), and the launch never runs. -/
def State.dependenceRefused (s : State) (l : Nat) (x : Launch) (q : Queue) : State :=
  let o := x.owner
  match (q.open o.index).bind OpenPacket.graph with
  | some g => s.graphLeave o.queue o.index q g 4 (g.node - 1)
  | none => (s.modLaunch l (fun y => { y with recorded := true, desc := { y.desc with done := 0 } })).failPacket o.queue 8 0 o.index

/-- Read the dependence counter of a launch as a load-acquire; the launch is ready once it holds, and its threads come
after the releases that the read met (R291, R372, R451). A launch whose graph has left never runs. -/
def State.readDependence (s : State) (l : Nat) : State :=
  match aget s.launches l with
  | none => s
  | some x =>
    match aget s.queues x.owner.queue with
    | none => s
    | some q =>
      if x.depMet || x.recorded || x.heldPage.isSome then s
      else if (q.open x.owner.index).isNone then
        s.modLaunch l (fun y => { y with recorded := true, desc := { y.desc with done := 0 } })
      else match s.cpRead q x.desc.dep.toNat 8 with
      | .hold page => s.launchHold l q page
      | .recall lines => s.backInvalidate lines
      | .refused => s.dependenceRefused l x q
      | .ok bs know =>
        if x.desc.depValue.toNat ≤ leNat bs then
          ((s.cpLearns know).modLaunch l (fun y => { y with depMet := true, start := Seen.join y.start know.view })).roundsDue
            (s.partitionOf x.ctx)
        else s

/-- Enter an accepted launch, with its pool if it continues one. `packet` is the packet as fetched. -/
def State.enterLaunch (s : State) (q : Queue) (d : Desc) (owner : LaunchOwner) (pool : Option (Continuation × List Byte))
    (packet : List Byte) (start : Seen) : Begun :=
  let l := s.nextId
  let x := Launch.accepted d q.ctx owner s.seq start
  match s.logged q.home x 1 0 0 12 (natLe 4 owner.queue ++ natLe 8 owner.index ++ packet) with
  | .hold => .blocked (s.recallLog q.home)
  | .go _ t =>
    let x : Launch := { x with pool := pool.map (fun _ => l + 1) }
    let pools := match pool with
      | none => t.pools
      | some (c, b) => t.pools ++ [(l + 1, ({ launch := l, home := c.home, block := BitVec.ofNat 64 c.block
                                              producers := c.producers, taken := pkt b 8 8, bins := [], formed := 0
                                              raised := pkt b 32 8, dropped := pkt b 40 8, lastClaim := pkt b 0 8
                                              stopped := false, heldPage := none, know := Know.start start } : Pool))]
    let u : State := { t.nextSeq with
      nextId := l + 2, launches := t.launches ++ [(l, x.late t.activeNow)], pools := pools }
    .running (u.roundsDue (t.partitionOf q.ctx))

/-- A launch or continuation packet or node: its descriptor is read once, checked and accepted (R372, R373). -/
def State.launchNow (s : State) (q : Queue) (owner : LaunchOwner) (bs packet : List Byte) (start : Seen) : Begun :=
  let va := pkt bs 8 8
  let c := continuationOf bs
  if va % 64 ≠ 0 then .error 4 1
  else match s.cpRead q va 192 with
  | .hold page => .blocked (s.cpHold owner.queue q page)
  | .recall lines => .blocked (s.backInvalidate lines)
  | .refused => .error 4 1
  | .ok head _ =>
    let n := if pkt head 31 1 ≤ 8 then pkt head 31 1 else 0
    match s.cpRead q (va + 192) (64 * n) with
    | .hold page => .blocked (s.cpHold owner.queue q page)
    | .recall lines => .blocked (s.backInvalidate lines)
    | .refused => .error 4 1
    | .ok tail _ =>
      let b := head ++ tail
      match s.launchError q b c.isSome, c with
      | 0, none => s.enterLaunch q (descOf b) owner none packet start
      | 0, some p =>
        if p.block % 64 ≠ 0 || !(s.members (s.queuePartition q)).contains p.home then .error 4 9
        else (match s.cpRead q p.block 64 with
          | .hold page => .blocked (s.cpHold owner.queue q page)
          | .recall lines => .blocked (s.backInvalidate lines)
          | .refused => .error 4 9
          | .ok block _ => if poolBlockOk block then s.enterLaunch q (descOf b) owner (some (p, block)) packet start else .error 4 9)
      | e, _ => .error 4 e

/-! ### Engine packets (R369 to R371) -/

/-- Unreleased held commands of a queue. -/
def State.queueHeld (s : State) (k : Nat) : Nat :=
  (s.commands.filter (fun p => p.2.state == .held && (match p.2.owner with | .queue j _ => j == k | _ => false))).length

/-- An engine packet or node: its command goes to the stack it names. The copy engine that takes a CPY is the device's
choice among the stack's clusters. -/
def State.engineNow (s : State) (k i : Nat) (q : Queue) (bs : List Byte) (view : Seen) : Begun :=
  let ws := packetWords bs
  let h := ws.getD 0 0
  match engineOf h with
  | none => .error 5 0
  | some e =>
    let ps := (ws.drop 1).take (field h 59 56)
    match s.capture s.cpAgent q.ctx (commandHandles e (hdrMode h) ps) with
    | none => .error 5 0
    | some es =>
      if e == .cpy && (es.filterMap (fun x => x.map Tensor.format)).eraseDups.length == 2 then .error 5 0
      else if pktHeld bs && decide (64 ≤ s.queueHeld k) then .error 6 0
      else if !pktHeld bs && hdrLength h == 0 && e != .bin then .done s
      else .running (s.addCommand
        (Command.new e (.queue k i) q.ctx (pkt bs 15 1) (s.choose 60 4) h ps es none (BitVec.ofNat 64 (pkt bs 8 7)) (pktHeld bs)
          view))

/-! ### Waits and signals (R370) -/

/-- A compare of R369. -/
def compareHolds (c v e : Nat) : Bool := match c with | 0 => v != e | 1 => v == e | _ => decide (e ≤ v)

/-- Bytes that a wait or signal accesses. -/
def valueSize (bs : List Byte) : Nat := if pkt bs 25 1 = 1 then 8 else 4

/-- A wait reads its word once. -/
def State.waitNow (s : State) (k : Nat) (q : Queue) (bs : List Byte) : Begun :=
  let n := valueSize bs
  match s.cpRead q (pkt bs 8 8) n with
  | .hold page => .blocked (s.cpHold k q page)
  | .recall lines => .blocked (s.backInvalidate lines)
  | .refused => .error 8 0
  | .ok v know => if compareHolds (pkt bs 24 1) (leNat v) (pkt bs 16 n) then .done (s.cpLearns know) else .running s

/-- A signal makes its one access: a store, or an atomic add at the point of `.sys`. -/
def State.signalNow (s : State) (k : Nat) (q : Queue) (bs : List Byte) : Begun :=
  let n := valueSize bs
  let va := pkt bs 8 8
  let v := pkt bs 16 n
  if pkt bs 24 1 = 0 then
    match s.cpWrite q va (natLe n v) with
    | .ok t => .done t
    | .hold page => .blocked (s.cpHold k q page)
    | .recall lines => .blocked (s.backInvalidate lines)
    | .refused => .writeRefused s
  else match s.cpAtomic q va n with
    | .hold page => .blocked (s.cpHold k q page)
    | .wait lines => .blocked (s.backInvalidate lines)
    | .fault _ _ => .writeRefused s
    | .ok ps =>
      let lines := s.recallLines true ps
      if !lines.isEmpty || s.frozenPieces q.home ps then .blocked (s.backInvalidate lines)
      else match ps with
      | [] => .done s
      | (t, _) :: _ =>
        let a := s.cpAgent
        let r := s.atomicAt a (a.heads true s.history.length) q.home (s.pointOf 0 q.home t false) false t n false
          (fun old => some (old + BitVec.ofNat 64 v))
        if r.mark then .error 8 0 else .done r.state

/-! ### Notifications (R378, R379) -/

/-- A notify control block as read. -/
def ringOf (b : List Byte) : RingBlock :=
  { ring := pkt b 0 8, entries := pkt b 8 4, vector := pkt b 12 2, count := pkt b 14 2, time := pkt b 16 4
    produced := pkt b 24 8, taken := pkt b 32 8
    ok := decide (16 ≤ pkt b 8 4 ∧ pkt b 8 4 ≤ 65536) && isPow2 (pkt b 8 4) && pkt b 14 2 != 0 &&
      decide (pkt b 16 4 ≤ 1000000) && pkt b 0 8 % 64 == 0 && zeros b 20 24 && zeros b 48 64 }

/-- The physical address of a control block. -/
def State.blockAddress (s : State) (q : Queue) (va : Nat) : Nat :=
  match s.cpReach q false va 8 with
  | .ok ((.mem pa _ _, _) :: _) => pa
  | _ => 0

/-- A write of a notify, and what comes after it. -/
def State.notifyWrite (s : State) (k : Nat) (q : Queue) (va : Nat) (bs : List Byte) (next : State → Begun) : Begun :=
  match s.cpWrite q va bs with
  | .ok t => next t
  | .hold page => .blocked (s.cpHold k q page)
  | .recall lines => .blocked (s.backInvalidate lines)
  | .refused => .writeRefused s

/-- A read of a notify, and what comes after it. -/
def State.notifyRead (s : State) (k : Nat) (q : Queue) (va n : Nat) (next : List Byte → Begun) : Begun :=
  match s.cpRead q va n with
  | .ok bs _ => next bs
  | .hold page => .blocked (s.cpHold k q page)
  | .recall lines => .blocked (s.backInvalidate lines)
  | .refused => .error 8 0

/-- A notify writes its record, its number last, raises produced and counts towards the interrupt; with the ring full
it goes on waiting. Produced and taken are compared as integers, as R8 says. A write that must wait leaves those
before it. -/
def State.notifyNow (s : State) (k : Nat) (q : Queue) (bs : List Byte) : Begun :=
  let va := pkt bs 8 8
  s.notifyRead k q va 64 (fun block =>
    let b := ringOf block
    let slot := b.ring + 64 * (b.produced % b.entries)
    if !b.ok then .error 5 0
    else if b.taken + b.entries ≤ b.produced then .running s
    else s.notifyRead k q (pkt bs 16 8) 56 (fun payload =>
      s.notifyWrite k q (slot + 8) payload (fun t =>
        t.notifyWrite k q slot (natLe 8 (b.produced + 1)) (fun t =>
          t.notifyWrite k q (va + 24) (natLe 8 (b.produced + 1)) (fun t =>
            .done (t.ringAdd (s.blockAddress q va) b))))))

/-- The coalescing time of a ring has run out (R379). -/
def State.ringDue (s : State) (pa : Nat) : Bool :=
  let r := s.coalesce pa
  r.pending != 0 && decide ((s.ringBlock pa).time * 1000 ≤ s.activeNow - r.first)

/-- NOTIFY_TIME_INTERRUPT (R379). -/
def execNotifyTimeInterrupt (ring : Nat) (s : State) : Host.Outcome State Fault Refusal :=
  if s.complexRuns && s.ringDue ring then .next (s.interrupt ring (s.ringBlock ring).vector) else .next s

/-! ### Starting a packet -/

/-- A fetched packet of a kind starts, if it may; `start` begins it. None starts once castling has written its table
(R385). -/
def State.packet (s : State) (k kind : Nat) (start : Queue → Nat → List Byte → Begun) : State :=
  s.onQueue k (fun q =>
    let i := q.consumed - 1
    let stop := fun (t : State) (code detail : Nat) =>
      (t.modQueue k (fun x => { x with phase := .idle })).stopQueue k code detail i
    if !q.mayStart || pktKind q.packet != kind || s.castling.any (fun c => c.table.isSome) then s
    else match start q i q.packet with
    | .done t => (t.startPacket k).completePacket k i
    | .running t => t.startPacket k
    | .blocked t => t
    | .error code detail => stop s code detail
    | .writeRefused t => stop t 8 0)

/-- LAUNCH_PACKET (R372): a launch that is accepted has its dependence read. -/
def execLaunchPacket (q : Nat) (s : State) : Host.Outcome State Fault Refusal :=
  .next ((s.packet q 1 (fun x i bs => s.launchNow x ⟨q, i, false⟩ bs bs x.packetView)).readDependence s.nextId)

/-- CONTINUATION_PACKET (R373). -/
def execContinuationPacket (q : Nat) (s : State) : Host.Outcome State Fault Refusal :=
  .next ((s.packet q 2 (fun x i bs => s.launchNow x ⟨q, i, false⟩ bs bs x.packetView)).readDependence s.nextId)

/-- ENGINE_PACKET (R370, R371). -/
def execEnginePacket (q : Nat) (s : State) : Host.Outcome State Fault Refusal :=
  .next (s.packet q 3 (fun x i bs => s.engineNow q i x bs x.packetView))

/-- WAIT_PACKET (R370). -/
def execWaitPacket (q : Nat) (s : State) : Host.Outcome State Fault Refusal :=
  .next (s.packet q 4 (fun x _ bs => s.waitNow q x bs))

/-- SIGNAL_PACKET (R370). -/
def execSignalPacket (q : Nat) (s : State) : Host.Outcome State Fault Refusal :=
  .next (s.packet q 5 (fun x _ bs => s.signalNow q x bs))

/-- NOTIFY_PACKET (R379). -/
def execNotifyPacket (q : Nat) (s : State) : Host.Outcome State Fault Refusal :=
  .next (s.packet q 7 (fun x _ bs => s.notifyNow q x bs))

/-- DEPENDENCE_REREAD (R372). -/
def execDependenceReread (l : Nat) (s : State) : Host.Outcome State Fault Refusal :=
  if s.complexRuns then .next (s.readDependence l) else .next s

/-! ### Graphs (R374 to R377) -/

/-- GRAPH_PACKET (R374, R375): the graph is about to start node 0 of pass 0. -/
def execGraphPacket (q : Nat) (s : State) : Host.Outcome State Fault Refusal :=
  .next (s.packet q 6 (fun x _ bs =>
    let g := graphOf bs
    s.graphWrite q x g 0 (natLe 8 0) .running))

/-- A node's 64 bytes keep to R374: no mark or check, a kind that a graph takes, flags and body in range. -/
def nodeOk (members : List Nat) (bs : List Byte) : Bool :=
  let kind := pktKind bs
  zeros bs 0 4 && zeros bs 6 8 && decide (pkt bs 5 1 < 4) && (!pktHeld bs || kind == 3) && kind != 6 && bodyOk members kind bs

/-- A graph without limit that would re-arm while its queue is being reset ends there (R390, R419): its packet
completes. DESIGN CHOICE (assumption 119): its exit field stays 0. -/
def State.graphReset (s : State) (k i : Nat) (g : Graph) : State := (s.graphInterrupts g).completePacket k i

/-- A conditional node (R376): it re-arms the graph, or the graph leaves there. A graph without limit does not re-arm
while its context is pre-empted (R402, R419). -/
def State.conditional (s : State) (k i : Nat) (q : Queue) (g : Graph) (bs : List Byte) : State :=
  match s.cpRead q (pkt bs 8 8) 4 with
  | .hold page => s.cpHold k q page
  | .recall lines => s.backInvalidate lines
  | .refused => s.graphLeave k i q g 4 g.node
  | .ok v know =>
    let s := s.cpLearns know
    if !compareHolds (pkt bs 20 1) (leNat v) (pkt bs 16 4) then s.graphLeave k i q g 1 g.node
    else if g.limit ≠ 0 ∧ g.limit ≤ g.pass + 1 then s.graphLeave k i q g 2 g.node
    else if g.limit = 0 ∧ q.resetting.isSome then s.graphReset k i g
    else if g.limit = 0 ∧ ((aget s.contexts q.ctx).map Context.fetchStopped).getD false then s
    else match s.graphWrite k q g 0 (natLe 8 (g.pass + 1)) .done with
    | .done t => t.modGraph k i (fun h => { h with pass := h.pass + 1, node := 0 })
    | .blocked t => t
    | _ => s.failPacket k 8 0 i

/-- The work of a node begins. -/
def State.nodeNow (s : State) (k i : Nat) (q : Queue) (bs packet : List Byte) (view : Seen) : Begun :=
  match pktKind bs with
  | 1 => s.launchNow q ⟨k, i, true⟩ bs packet view
  | 2 => s.launchNow q ⟨k, i, true⟩ bs packet view
  | 3 => s.engineNow k i q bs view
  | 4 => s.waitNow k q bs
  | 5 => s.signalNow k q bs
  | _ => s.notifyNow k q bs

/-- The graph has written a ring (R379). -/
def State.noteRing (s : State) (q : Queue) (bs : List Byte) (g : Graph) : Graph :=
  if pktKind bs = 7 then { g with rings := (s.blockAddress q (pkt bs 8 8) :: g.rings).eraseDups } else g

/-- The started packets of a queue go on (R367, R385): no halt and no page stops it. -/
def State.onOpen (s : State) (k i : Nat) (f : Queue → OpenPacket → State) : State :=
  match aget s.queues k with
  | none => s
  | some q =>
    if (s.stack q.home).haltArrived || q.heldPage.isSome then s
    else match q.open i with
    | none => s
    | some p => f q p

/-- Start node `g.node` of a graph, after every access of the nodes before it (R374). -/
def State.startNode (s : State) (k i : Nat) (q : Queue) (p : OpenPacket) (g : Graph) : State :=
  if g.count ≤ g.node then s.graphLeave k i q g 3 (g.count - 1)
  else match s.cpRead q ((g.nodes.toNat + 64 * g.node) % 2 ^ 64) 64 with
  | .hold page => s.cpHold k q page
  | .recall lines => s.backInvalidate lines
  | .refused => s.graphLeave k i q g 4 g.node
  | .ok bs know =>
    let s := s.cpLearns know
    if !nodeOk (s.members (s.queuePartition q)) bs then s.graphLeave k i q g 4 g.node
    else if pktKind bs = 8 then s.conditional k i q g bs
    else
      let begun := fun (t : State) (busy : Bool) => t.modGraph k i (fun h =>
        let h : Graph := { h with node := h.node + 1, busy := busy, current := bs }
        if busy then h else s.noteRing q bs h)
      let view := Seen.join p.view (Seen.join know.view [(cpThread, s.history.length)])
      match s.nodeNow k i q bs p.bytes view with
      | .done t => begun t false
      | .running t => (begun t true).readDependence s.nextId
      | .blocked t => t
      | .error _ _ => s.graphLeave k i q g 4 g.node
      | .writeRefused t => t.failPacket k 8 0 i

/-- GRAPH_NODE_START (R374): the node before has completed, and castling does not suspend graphs (R385). -/
def execGraphNodeStart (q i : Nat) (s : State) : Host.Outcome State Fault Refusal :=
  .next (s.onOpen q i (fun x p =>
    match p.graph with
    | none => s
    | some g => if g.busy || s.castling.isSome then s else s.startNode q i x p g))

/-! ### Waiting packets and nodes -/

/-- The wait or notify that goes on in an open packet: its bytes, and whether a graph runs it. -/
def OpenPacket.going (p : OpenPacket) (kind : Nat) : Option (List Byte × Bool) :=
  match p.graph with
  | none => if p.kind == kind then some (p.bytes, false) else none
  | some g => if g.busy && pktKind g.current == kind then some (g.current, true) else none

/-- A wait or notify is tried again. -/
def State.tryAgain (s : State) (k i kind : Nat) (again : Queue → List Byte → Begun) : State :=
  s.onOpen k i (fun q p =>
    match p.going kind with
    | none => s
    | some (bs, inGraph) =>
      match again q bs with
      | .done t => (t.modGraph k i (s.noteRing q bs)).ownerDone ⟨k, i, inGraph⟩
      | .running t => t
      | .blocked t => t
      | .error code detail =>
        (match p.graph with
         | some g => s.graphLeave k i q g 4 (g.node - 1)
         | none => s.failPacket k code detail i)
      | .writeRefused t => t.failPacket k 8 0 i)

/-- WAIT_REREAD (R370). -/
def execWaitReread (q i : Nat) (s : State) : Host.Outcome State Fault Refusal :=
  .next (s.tryAgain q i 4 (fun x bs => s.waitNow q x bs))

/-- NOTIFY_TAKEN_REREAD (R379). -/
def execNotifyTakenReread (q i : Nat) (s : State) : Host.Outcome State Fault Refusal :=
  .next (s.tryAgain q i 7 (fun x bs => s.notifyNow q x bs))

end Sys2Proof.Machine
end

