-- ==== Sys2Proof/Machine/Complex.lean ====
section
/-! DEFINITION. The event rings' registers, dispatch mode, and the two complexes with castling (R381 to R386), and the
verification of signed images (R422, R423). -/
namespace Sys2Proof.Machine

/-! ### EVRING (R381) -/

/-- The stack's registers answer: its boot is over (R420). -/
def Stack.answers (t : Stack) : Bool := t.bootState == 4

/-- EVRING_WRITE (R381): bits [51:6] and the valid bit are kept; the active complex takes up what its own stack holds, and
the events dropped meanwhile go into the ring's lost field. -/
def execEvringWrite (st n v : Nat) (s : State) : Host.Outcome State Fault Refusal :=
  if (st != 0 && st != 6) || decide (12 ≤ n) || !(s.stack st).answers then .next s
  else
    let block := v / 64 % 2 ^ 46 * 64
    let valid := v % 2 == 1
    let s := s.modStack st (fun t => { t with evring := t.evring.set n (BitVec.ofNat 64 (block + v % 2)) })
    if st ≠ s.activeStack then .next s
    else if !valid then .next (s.modPartition n (fun p => { p with evValid := false }))
    else if !(s.ringBlock block).ok then .next (s.modPartition n (fun p => { p with evValid := false, evBlock := block }))
    else if !(s.snoopLines block 64 true).isEmpty then .next (s.backInvalidate (s.snoopLines block 64 true))
    else
      let dropped := (s.partition n).evDropped
      let s := s.modPartition n (fun p => { p with evValid := true, evBlock := block, evDropped := 0 })
      if dropped = 0 then .next s
      else .next (s.putDevice (block + 40) (natLe 8 (s.readNat (block + 40) 8 + dropped)))

/-! ### SDMODE (R383) -/

/-- SDMODE_WRITE (R383): by the active complex. -/
def execSdmodeWrite (st v : Nat) (s : State) : Host.Outcome State Fault Refusal :=
  if s.complexRuns && (s.stack st).answers then .next (s.modStack st (fun t => { t with sdMode := v % 2 == 1 })) else .next s

/-- SDMODE_TAKE_EFFECT (R383): once the stack dispatcher holds no batch and no reservation. -/
def execSdmodeTakeEffect (st : Nat) (s : State) : Host.Outcome State Fault Refusal :=
  if (s.stack st).batch.isEmpty && !s.reservations.any (fun r => r.2.stack == st) then
    .next (s.modStack st (fun t => { t with sdState := t.sdMode }))
  else .next s

/-! ### Signed images (R422, R423) -/

/-- A stack can read n bytes of an image without error or poison: a system address over its own port, or backed HBM. -/
def State.imageReadable (s : State) (st pa n : Nat) : Bool :=
  !poisoned s.poison pa n &&
  (if isLocal pa then (s.stack (homeStack pa)).enable && decide (pa % stackSpan + n ≤ (s.stack (homeStack pa)).capacity)
   else (s.stack st).linkUp && decide (pa + n ≤ 2 ^ 52))

/-- Size of the header of an image. -/
def headerBytes : Nat := 192

/-- Magic, type and body size of an image header are right. -/
def imageShapeOk (type : Nat) (h : List Byte) : Bool :=
  let size := pkt h 16 8
  pkt h 0 4 == 0x4D49514B && pkt h 4 2 == type &&
  (if type = 1 then size % 64 == 0 && decide (64 ≤ size ∧ size ≤ 2 ^ 28) else size == 49152)

/-- The reserved bytes of a header are 0, and so are the fields that a firmware image does not use. -/
def imageReservedOk (type : Nat) (h : List Byte) : Bool :=
  zeros h 6 8 && zeros h 24 32 && (type != 1 || (zeros h 12 16 && zeros h 32 64))

/-- The section of a stack in a configuration image (R424). -/
def section_ (st : Nat) (image : List Byte) : List Byte := (image.drop (headerBytes + 4096 * st)).take 4096

/-- The channel that a section retires, and the layers that it maps out. -/
def sectionChannel (b : List Byte) : Option Nat := if pkt b 2048 1 < 32 then some (pkt b 2048 1) else none
def sectionLayers (b : List Byte) : List Nat := (List.range 16).filter (fun n => (pkt b 2050 2).testBit n)

/-- A section names one repair at most (R438). -/
def sectionOk (b : List Byte) : Bool :=
  decide ((sectionLayers b).length + (if (sectionChannel b).isSome then 1 else 0) ≤ 1)

/-- The signed message of an image (R422). -/
def signedMessage (image : List Byte) : List Byte := image.take 128 ++ image.drop 192

/-- How the read of an image ends: the image; host lines to recall or a frozen route; or the code of the first check
that fails (R423). -/
inductive ImageRead
  | ok (image : List Byte)
  | wait (lines : List Nat)
  | error (code : Nat)
  deriving DecidableEq, Repr

/-- The bytes of an image that are read: the header, and the body if its size may be that of its type. -/
def imageBytes (type : Nat) (h : List Byte) : Nat :=
  if type = 2 then headerBytes + 49152 else if pkt h 16 8 ≤ 2 ^ 28 then headerBytes + pkt h 16 8 else headerBytes

/-- Read an image and make the checks 1 to 4, in their order (R423). -/
def State.readImage (s : State) (st type pa : Nat) : ImageRead :=
  let h := readBytes s.mem pa headerBytes
  let size := imageBytes type h
  let lines := s.snoopLines pa size false
  if s.frozenFor st pa || !lines.isEmpty then .wait lines
  else if !s.imageReadable st pa headerBytes || !s.imageReadable st pa size then .error 1
  else
    let image := readBytes s.mem pa size
    if !imageShapeOk type h || !imageReservedOk type h || (type == 2 && !sectionOk (section_ st image)) then .error 2
    else if sha256 ((h.drop 64).take 64) ≠ Config.rootDigest then .error 3
    else if !ecdsaVerifies ((image.drop 64).take 64) ((image.drop 128).take 64) (signedMessage image) then .error 4
    else .ok image

/-! ### The complexes (R384, R385) -/

/-- A firmware image is loaded: on the first boot the complex becomes the active one (R423). -/
def State.booted (s : State) (cp : Nat) (image : List Byte) : State :=
  let first := (s.stack 0).cpState != 4 && (s.stack 6).cpState != 4
  s.modStack cp (fun t => { t with
    cpVersion := BitVec.ofNat 32 (pkt image 8 4), cpImage := image
    cpState := if first then 4 else 2, cpRole := first })

/-- The load of a complex ends (R423): the image is verified and runs, or the complex has failed. -/
def State.loaded (s : State) (cp : Nat) : State :=
  let t := s.stack cp
  let failed := fun (code : Nat) => s.modStack cp (fun x => { x with cpState := 5, bootError := code })
  match s.readImage cp 1 t.cpArg.toNat with
  | .wait lines => s.backInvalidate lines
  | .error code => failed code
  | .ok image => if pkt image 8 4 < t.minFirmware then failed 7 else s.booted cp image

/-- CP_LOAD (R384, R423): the command to the standby in state 0, 2 or 5, in a stack that is ready; then, with `done`,
the end of the load that is under way. -/
def execCpLoad (cp : Nat) (s : State) (done : Bool := false) : Host.Outcome State Fault Refusal :=
  let t := s.stack cp
  if (cp != 0 && cp != 6) || !t.answers || t.cpRole || s.castling.isSome then .next s
  else if done then .next (if t.cpState == 1 then s.loaded cp else s)
  else if t.cpState == 0 || t.cpState == 2 || t.cpState == 5 then .next (s.modStack cp (fun x => { x with cpState := 1 }))
  else .next s

/-- CP_CASTLE (R385 step 1): fetch, graphs and rounds stop. -/
def execCpCastle (s : State) : Host.Outcome State Fault Refusal :=
  if s.complexRuns && (s.stack s.standbyStack).cpState == 2 then .next { s with castling := some ⟨s.activeNow, none⟩ }
  else .next s

/-! ### The state table (R386) -/

/-- One step of the CRC-32 of IEEE 802.3, least significant bit first. -/
def crc32Bit (crc : Nat) (bit : Bool) : Nat :=
  if (crc.testBit 0) != bit then (crc / 2) ^^^ 0xEDB88320 else crc / 2

/-- The CRC-32 of IEEE 802.3 over bytes. -/
def crc32 (bs : List Byte) : Nat :=
  (bs.foldl (fun c b => (List.range 8).foldl (fun c k => crc32Bit c (has b k)) c) 0xFFFFFFFF) ^^^ 0xFFFFFFFF

/-- The section types of a state table. -/
def tableTypes : List Nat := [1, 2, 3, 4, 5, 6]

/-- The directory of sections that start at an offset. -/
def tableDirectory : Nat → List (Nat × Nat × List Byte) → List Byte
  | _, [] => []
  | off, (type, version, body) :: rest =>
    natLe 2 type ++ natLe 2 version ++ natLe 4 0 ++ natLe 4 off ++ natLe 4 body.length ++
      tableDirectory (off + body.length) rest

/-- The state table of a firmware version: header, directory and sections, with `last` the number of the last event
numbered. -/
def tableBytes (major minor last : Nat) (sections : List (Nat × Nat × List Byte)) : List Byte :=
  let table := fun (crc : Nat) =>
    natLe 4 0x53544351 ++ natLe 2 major ++ natLe 2 minor ++ natLe 8 last ++ natLe 4 sections.length ++ natLe 4 crc ++ natLe 8 0 ++
    tableDirectory (32 + 16 * sections.length) sections ++ sections.flatMap (fun x => x.2.2)
  table (crc32 (table 0))

/-- The table that the active complex writes. -/
def State.stateTable (s : State) : List Byte :=
  let v := (s.stack s.activeStack).cpVersion
  let version := Config.tableVersion v
  tableBytes version.1 version.2 (s.seq - 1) (tableTypes.map (fun k => (k, Config.tableSection v k s.tick)))

/-- The importing firmware takes a table: a major version that it imports, a right CRC, and no section of a type with
bit 15 set that it does not know. -/
def tableOk (imports : Nat → Bool) (knows : Nat → Bool) (table : List Byte) : Bool :=
  imports (pkt table 4 2) &&
  crc32 (table.take 20 ++ natLe 4 0 ++ table.drop 24) == pkt table 20 4 &&
  (List.range (pkt table 16 4)).all (fun k =>
    let type := pkt table (32 + 16 * k) 2
    !type.testBit 15 || knows type)

/-! ### Castling goes on (R385) -/

/-- Nanoseconds since castling began, by the old active's clock. -/
def State.castlingTime (s : State) : Nat := s.activeNow - ((s.castling.map Castling.start).getD 0)

/-- No packet stands between the read of its mark and its acceptance: every queue is idle, waits for a mark, or holds
a packet that its after flag keeps from starting. -/
def State.packetBoundary (s : State) : Bool :=
  s.queues.all (fun p => p.2.stopped || p.2.phase == .idle || p.2.phase == .marking || (p.2.phase == .fetched && !p.2.mayStart))

/-- A new active complex takes up the EVRING registers of its own stack (R381). -/
def State.takeRings (s : State) (st : Nat) : State :=
  { s with partitions := s.partitions.mapIdx (fun n p =>
      let v := ((s.stack st).evring.getD n 0).toNat
      { p with evBlock := v / 64 * 64, evValid := v % 2 == 1 && (s.ringBlock (v / 64 * 64)).ok }) }

/-- Change the bytes that an import reads of the table, as errors of the standby's memory would: those of a number. -/
def flipBytes (table : List Byte) (errors : Nat) : List Byte :=
  table.mapIdx (fun k b => b ^^^ BitVec.ofNat 8 (errors / 2 ^ (8 * k)))

/-- The standby has imported a table and is active: it continues from the table's last number (R385). -/
def State.castled (s : State) (table : List Byte) : State :=
  let old := s.activeStack
  let new := s.standbyStack
  let t := (s.modStack old (fun x => { x with cpState := 2, cpRole := false })).modStack new (fun x =>
    { x with cpState := 4, cpRole := true })
  let t := ({ t with castling := none, seq := pkt table 8 8 + 1 } : State).takeRings new
  let t : State := { t with partitions := t.partitions.map (fun p => { p with roundDue := true }) }
  t.event 0x0007 new 0xFFFF (natLe 1 new ++ natLe 3 0 ++ natLe 4 (t.stack new).cpVersion.toNat)

/-- CASTLING_IMPORT (R385 steps 2 to 4, R386): at a packet boundary the table is written into the standby's memory;
then the standby imports what it reads there, `errors` apart, and is active, or refuses. -/
def execCastlingImport (errors : Nat) (s : State) : Host.Outcome State Fault Refusal :=
  match s.castling with
  | none => .next s
  | some c =>
    if 50000 < s.castlingTime then .next (s.castlingAborts 1)
    else match c.table with
    | none =>
      if s.packetBoundary then
        .next { s.modStack s.standbyStack (fun t => { t with cpState := 3 }) with
          castling := some { c with table := some s.stateTable } }
      else .next s
    | some table =>
      let v := (s.stack s.standbyStack).cpVersion
      let read := flipBytes table errors
      if tableOk (Config.tableImports v) (Config.tableKnows v) read then .next (s.castled read)
      else .next (s.castlingAborts 2)

/-- CASTLING_TIMEOUT (R385). -/
def execCastlingTimeout (s : State) : Host.Outcome State Fault Refusal :=
  if s.castling.isSome && decide (50000 ≤ s.castlingTime) then .next (s.castlingAborts 1) else .next s

/-- CP_POWER_OFF (R384): of the standby; a castling that it was to end aborts. -/
def execCpPowerOff (s : State) : Host.Outcome State Fault Refusal :=
  let st := s.standbyStack
  if (s.stack st).cpRole || !(s.stack st).answers then .next s
  else
    let t := if s.castling.isSome then s.castlingAborts 2 else s
    .next (t.modStack st (fun t => { t with cpState := 0, cpVersion := 0, cpImage := [] }))

end Sys2Proof.Machine
end

