-- ==== Sys2Proof/Machine/Save.lean ====
section
/-! DEFINITION. The save area (R406 to R409): the image of an evicted gang, field by field, what a restore takes back from
it, and the checks that resume makes. -/
namespace Sys2Proof.Machine

/-- A field of an image: offset, bytes, value. -/
abbrev Field := Nat × Nat × Nat

/-- Bytes from an offset on of a table of bytes. -/
def dense : Sparse Byte → Nat → Nat → List Byte
  | _, _, 0 => []
  | [], k, n + 1 => 0 :: dense [] (k + 1) n
  | (a, v) :: m, k, n + 1 => if a = k then v :: dense m (k + 1) n else 0 :: dense ((a, v) :: m) (k + 1) n

/-- An image of some fields; every other byte is 0 (R407). -/
def fieldBytes (size : Nat) (fs : List Field) : List Byte :=
  dense (fs.foldl (fun (m : Sparse Byte) (f : Field) => writeBytes m f.1 (natLe f.2.1 f.2.2)) []) 0 size

/-- Fields that begin at a base. -/
def placeFields (base : Nat) (fs : List Field) : List Field := fs.map (fun f => (base + f.1, f.2))

/-- The number whose set bits are these. -/
def bitsNat (xs : List Nat) : Nat := xs.eraseDups.foldl (fun n x => n + 2 ^ x) 0

/-- The set bits below n of a number. -/
def natBits (n v : Nat) : List Nat := (List.range n).filter (fun k => v.testBit k)

/-- Up to a multiple of 4096. -/
def roundPage (n : Nat) : Nat := (n + 4095) / 4096 * 4096

/-- No register (assumption 40). -/
def noToken : Nat := 255

/-! ### A wave's section (R408) -/

/-- The code of a barrier scope in an image (R408). -/
def barScopeCode : BarScope → Nat
  | .wave => 0 | .gang => 1 | .stack => 2 | .pkg => 3

/-- The wait kind and argument of an entry (R408). The arguments of kinds other than BAR are registers, and that of a
joining entry its j: DESIGN CHOICE (assumption 118). -/
def waitCode : EntryState → Nat × Nat
  | .blocked (.bar sc n phase) => (1, phase.toNat + 2 ^ 32 * n + 2 ^ 36 * barScopeCode sc)
  | .blocked (.mwait d _) => (2, d.toNat)
  | .blocked (.qr d q) => (3, d.toNat + 2 ^ 8 * q.toNat)
  | .blocked (.qw q a) => (4, a.toNat + 2 ^ 8 * q.toNat)
  | .blocked (.tkw vis a) => (5, a.toNat + 2 ^ 8 * vis.toNat)
  | .blocked (.fetch _) => (6, 0)
  | .joining j _ => (0, j.toNat)
  | .ready => (0, 0)

/-- A frontier entry; `held` says that an access of it is held. -/
def entryFields (e : Entry) (held : Bool) : List Field :=
  let state := if held then 1 else match e.state with | .ready => 0 | .blocked _ => 1 | .joining _ _ => 2
  let arrived := match e.state with | .joining _ a => a.toNat | _ => 0
  let w := if held then (6, 0) else waitCode e.state
  [(0, 4, e.lanes.toNat), (4, 4, e.guard.mask.toNat), (8, 8, e.pc.toNat), (16, 1, e.prio.toNat),
   (17, 1, state + if e.aside then 128 else 0), (18, 1, e.guard.count), (19, 1, w.1), (20, 8, w.2), (28, 4, arrived)]

/-- The deferred-trap item of a lane; of one that TRET has returned, what TRET read. -/
def trapFields (l : Lane) : List Field :=
  let guardOf := fun (n : Nat) (inside : Bool) => n + if inside then 32 else 0
  match l.returned, l.trap with
  | some r, _ => [(0, 8, r.resume.toNat), (10, 1, r.prio.toNat), (11, 1, guardOf r.guardCount r.guardIn)]
  | none, some t => [(0, 8, t.resume.toNat), (8, 1, t.cause.toNat), (9, 1, t.detail.toNat), (10, 1, t.prio.toNat),
      (11, 1, guardOf t.guardCount t.guardIn)]
  | none, none => []

/-- The monitor of a lane and its MWAIT status. -/
def monitorFields (l : Lane) (waiting : Bool) : List Field :=
  (match l.monitor with
   | none => []
   | some m => [(0, 8, m.addr.toNat), (8, 8, m.expected.toNat), (16, 1, 1), (17, 1, m.cmp.code), (18, 1, m.wide.toNat)]) ++
  [(20, 4, if waiting then (l.mwait.getD 0xFFFFFFFF).toNat else 0)]

/-- The state of a lane. -/
def laneFields (l : Lane) (waiting : Bool) : List Field :=
  [(0, 8, l.ffpc.toNat), (8, 1, l.xflags.toNat), (9, 1, l.xenable.toNat), (10, 2, l.preds.toNat), (12, 4, l.seed.toNat),
   (16, 4, l.winbase.toNat), (20, 4, l.ffwhy.toNat), (24, 1, l.stack.length),
   (25, 1, l.exited.toNat + if waiting then 2 else 0)]

/-- The words of queues, oldest first, 16 of 8 bytes each. -/
def queueFields (qs : List (List QWord)) : List Field :=
  (qs.take 6).mapIdx (fun q ws => ws.mapIdx (fun k w => (128 * q + 8 * k, 8, w.val.toNat))) |>.flatMap (fun x => x)

/-- The marks of the words of twelve queues, 16 bits each. -/
def queueMarks (qs : List (List QWord)) : Nat :=
  ((qs.mapIdx (fun q ws => ws.mapIdx (fun k w => (16 * q + k, w.mark)))).flatMap (fun x => x)).foldl
    (fun n p => if p.2 then n + 2 ^ p.1 else n) 0

/-- A barrier's numbers. -/
def barrierFields (b : Barrier) (width gap : Nat) : List Field :=
  [(0, 4, b.phase.toNat), (gap, width, bitsNat b.expected), (gap + width, width, bitsNat b.arrived),
   (gap + 2 * width, width, bitsNat b.drops), (gap + 3 * width, width, bitsNat b.joins)]

/-- The expiry of a wave's MWAIT; all ones for none (assumption 40). -/
def mwaitExpiry (c : WaveCore) : Nat :=
  (c.frontier.findSome? (fun e => match e.state with
    | .blocked (.mwait _ x) => some (x.getD (2 ^ 64 - 1))
    | _ => none)).getD 0

/-- Lanes that wait in MWAIT. -/
def mwaitLanes (c : WaveCore) : BitVec 32 :=
  c.frontier.foldl (fun m e => match e.state with | .blocked (.mwait _ _) => m ||| e.lanes | _ => m) 0

/-- Per-lane fields at a base and stride. -/
def perLaneFields (c : WaveCore) (base stride : Nat) (f : Nat → Lane → List Field) : List Field :=
  (List.range 32).flatMap (fun n => placeFields (base + stride * n) (f n (c.lane n)))

/-- The entry whose instruction is held on a page. -/
def Wave.heldEntry (v : Wave) : Option Nat :=
  v.held.bind (fun h => v.core.frontier.findIdx? (fun e => !e.aside && e.lanes &&& h.lanes != 0))

/-- The section of wave n, whose kernel has `a` registers a lane in the image. -/
def waveFields (n a : Nat) (v : Wave) : List Field :=
  let c := v.core
  let heldAt := v.heldEntry
  [(0, 1, n), (1, 1, c.latchCount), (2, 1, validityCode c.validity), (3, 1, c.handler.toNat + 2 * v.yieldHold.toNat),
   (4, 4, c.trapmask.toNat), (8, 1, c.frontier.length), (9, 1, v.slot), (10, 2, a), (16, 8, mwaitExpiry c),
   (24, 8, bitsNat v.pending)] ++
  (c.frontier.mapIdx (fun k e => placeFields (0x40 + 32 * k) (entryFields e (heldAt == some k)))).flatMap (fun x => x) ++
  perLaneFields c 0x440 16 (fun _ l => trapFields l) ++
  perLaneFields c 0x640 32 (fun k l => monitorFields l (has (mwaitLanes c) k)) ++
  perLaneFields c 0xA40 32 (fun k l => laneFields l (has c.waiting k)) ++
  perLaneFields c 0xE40 64 (fun _ l => l.latches.mapIdx (fun k b => (8 * k, 8, b.val.toNat))) ++
  perLaneFields c 0x1640 256 (fun _ l => l.stack.reverse.mapIdx (fun k p => (8 * k, 8, p.1.toNat + 2 ^ 56 * p.2.toNat))) ++
  c.s.map (fun p => (0x3640 + 8 * p.1, 8, p.2.toNat)) ++ c.j.map (fun p => (0x3840 + 4 * p.1, 4, p.2.toNat)) ++
  (v.push.take 6).mapIdx (fun q ws => (0x3860 + q, 1, ws.length)) ++
  (v.pop.take 6).mapIdx (fun q ws => (0x3866 + q, 1, ws.length)) ++
  [(0x386C, 1, bitsNat ((List.range 6).filter (fun q => v.lost.getD q false)))] ++
  placeFields 0x3870 (queueFields v.push) ++ placeFields 0x3B70 (queueFields v.pop) ++
  (c.bars.mapIdx (fun k b => placeFields (0x3E70 + 32 * k) (barrierFields b 4 4))).flatMap (fun x => x) ++
  [(0x4070, 64, bitsNat (c.stallV.map (fun p => p.1))), (0x40B0, 8, c.stallS.toNat), (0x40B8, 2, c.stallP.toNat)] ++
  perLaneFields c 0x4400 64 (fun _ l => [(0, 64, bitsNat (l.marks.map (fun p => p.1)))]) ++
  perLaneFields c 0x4C00 1 (fun _ l => [(0, 1, bitsNat ((List.range 8).filter (fun k => (l.latch k).mark)))]) ++
  perLaneFields c 0x4C20 2 (fun _ l => [(0, 2, l.predMarks.toNat)]) ++
  [(0x4C60, 8, bitsNat (c.sMarks.map (fun p => p.1))), (0x4C68, 24, queueMarks (v.push.take 6 ++ v.pop.take 6))] ++
  perLaneFields c 0x5000 (4 * a) (fun _ l => l.regs.map (fun p => (4 * p.1, 4, p.2.toNat)))

/-- Bytes of a wave's section. -/
def waveBytes (a : Nat) : Nat := roundPage (20480 + 128 * a)

/-! ### The sections before the waves (R407) -/

/-- Bytes of a unit's section, and of each of its planes. -/
def planeBytes : Nat := 151552
def unitBytes (n : Nat) : Nat := 4096 + 1024 * n + 2 * planeBytes

/-- Offsets of the sections of an image. -/
structure Layout where
  a : Nat
  spad : Nat
  fifos : Nat
  matrix : Nat
  waves : Nat
  size : Nat
  deriving DecidableEq, Repr

/-- The layout of a gang's image. -/
def imageLayout (d : Desc) (units : List MxUnit) : Layout :=
  let a := max d.regs 120
  let fifos := 16384 + roundPage d.spad
  let matrix := fifos + 65536 * d.fifos.foldl (fun n b => n + b) 0
  let waves := matrix + (units.map (fun u => unitBytes u.nMax)).foldl (fun n k => n + k) 0
  { a := a, spad := 16384, fifos := fifos, matrix := matrix, waves := waves, size := waves + d.waves * waveBytes a }

/-- The units of a gang's grant. -/
def Gang.units (x : Gang) : List MxUnit := (x.grant.map Grant.units).getD []

/-- The base of each of some sections that follow one another. -/
def bases (first : Nat) : List Nat → List Nat
  | [] => []
  | n :: ns => first :: bases (first + n) ns

/-- A held command's slot. -/
def commandFields (x : Command) : List Field :=
  ((x.header :: x.params).take 6).mapIdx (fun k w => (8 * k, 8, w.toNat)) ++
  [(48, 1, x.token.getD noToken), (56, 8, x.counter.toNat)]

/-- The instruction function of an operation (R223 to R225). -/
def MxFn.code : MxFn → Nat
  | .mxls => 14 | .mxsw => 15 | .mxgo => 16 | .mxz => 18 | .mxst => 19

/-- A queued matrix operation's slot. -/
def opFields (x : MxOp) : List Field :=
  x.block.mapIdx (fun k b => (k, 1, b.toNat)) ++
  [(128, 1, x.fn.code), (129, 1, x.unit), (130, 1, x.token.getD noToken), (131, 1, x.popped.length)] ++
  (x.popped.take 8).mapIdx (fun k h => (136 + 8 * k, 8, h.val.toNat))

/-- The values of row k of a plane that are kept, by column, in order; every value of a dense plane is (R90). -/
def Plane.keptRow (p : Plane) (k : Nat) : List (Nat × Weight) :=
  ((List.range p.n).map (fun c => (c, p.elems.getD (k * p.n + c) ⟨0, 127, 12, none⟩))).filter (fun x =>
    p.sparsity == 0 || decide (x.2.index < 12))

/-- The place of element (i0, i1) of a plane in units of half a byte from the start of its elements: B-port order
(R228), in tiles of 32 x 32. -/
def planeNibble (n h i0 i1 : Nat) : Nat :=
  (i1 / 32 * ((n + 31) / 32) + i0 / 32) * (1024 * h) + (i0 % 32 * 32 + i1 % 32) * h

/-- Add a number to a table of bytes at an offset in half bytes. -/
def putNibbles (m : Sparse Byte) (at_ h v : Nat) : Sparse Byte :=
  if h = 1 then Sparse.set 0 m (at_ / 2) (Sparse.get 0 m (at_ / 2) + BitVec.ofNat 8 (v % 16 * 16 ^ (at_ % 2)))
  else writeBytes m (at_ / 2) (natLe (h / 2) v)

/-- The element bytes of a plane, from the start of its block. -/
def Plane.elementBytes (p : Plane) : Sparse Byte :=
  let h := elementBits p.format / 4
  (List.range p.k).foldl (fun m k =>
    ((p.keptRow k).mapIdx (fun j x => (j, x.2))).foldl (fun m x =>
      putNibbles m (2 * 20480 + planeNibble p.n h x.1 k) h x.2.bits) m) []

/-- The sparsity indices of a plane, 64 bytes for each row: half a byte for each kept value, in order. -/
def Plane.indexBytes (p : Plane) : Sparse Byte :=
  if p.sparsity = 0 then []
  else (List.range p.k).foldl (fun m k =>
    (((p.keptRow k).take 128).mapIdx (fun j x => (j, x.2))).foldl (fun m x =>
      putNibbles m (2 * 4096 + 128 * k + x.1) 1 x.2.index) m) []

/-- A plane's block: format, sparsity, K and N; the codebook; 15 scale bytes for each row, one for 32 columns; the
indices and the elements. The order of scales and indices is the model's (DESIGN CHOICE, assumption 41). -/
def planeFields (p : Plane) : List Field :=
  [(0, 2, p.format), (2, 2, p.sparsity), (4, 2, p.k), (6, 2, p.n)] ++
  p.codebook.mapIdx (fun k v => (64 + 2 * k, 2, v % 65536)) ++
  (List.range p.k).flatMap (fun k => (List.range ((p.n + 31) / 32)).map (fun b =>
    (128 + 15 * k + b, 1, (p.elems.getD (k * p.n + 32 * b) ⟨0, 127, 12, none⟩).scale))) ++
  (p.indexBytes ++ p.elementBytes).map (fun x => (x.1, 1, x.2.toNat))

/-- A unit: accumulators and planes. -/
def unitFields (u : MxUnit) : List Field :=
  let planes := 4096 + 1024 * u.nMax
  u.acc.map (fun p => (4096 + 4 * p.1, 4, p.2.toNat)) ++ placeFields planes (planeFields u.cur) ++
  placeFields (planes + planeBytes) (planeFields u.next)

/-- The fields of a gang's header (R407). -/
def gangFields (x : Gang) (d : Desc) (held ops size : Nat) : List Field :=
  [(0, 8, d.launchid.toNat), (8, 2, x.x), (10, 2, x.y), (12, 2, x.z), (14, 1, d.waves), (15, 1, d.cores), (16, 4, d.spad),
   (20, 1, d.fifos.length)] ++ d.fifos.mapIdx (fun k n => (24 + k, 1, n)) ++
  [(32, 8, size), (40, 1, match x.grant with | none => 7 | some g => g.mode + 16 * g.units.length), (44, 1, held),
   (45, 1, ops), (48, 8, x.waves.foldl (fun m w => max m w.lastNow) x.lastNow)] ++
  x.fifos.mapIdx (fun k ws => (64 + 8 * k + 4, 4, ws.length)) ++
  (x.bars.mapIdx (fun k b => placeFields (128 + 48 * k) (barrierFields b 8 8))).flatMap (fun y => y)

/-- A gang's held commands, in the order in which they were submitted. -/
def State.heldCommands (s : State) (g : Nat) : List (Nat × Command) :=
  s.commands.filter (fun p => p.2.owner.gang == some g && p.2.state == .held)

/-- Every field of a gang's image. -/
def State.imageFields (s : State) (g : Nat) (x : Gang) (d : Desc) : List Field :=
  let held := (s.heldCommands g).map (fun p => p.2)
  let ops := (s.gangOps g).map (fun p => p.2)
  let l := imageLayout d x.units
  let fifoBases := bases l.fifos (d.fifos.map (fun b => 65536 * b))
  let unitBases := bases l.matrix (x.units.map (fun u => unitBytes u.nMax))
  gangFields x d held.length ops.length l.size ++
  ((held.take 64).mapIdx (fun k c => placeFields (4096 + 64 * k) (commandFields c))).flatMap (fun y => y) ++
  ((ops.take 32).mapIdx (fun k m => placeFields (8192 + 256 * k) (opFields m))).flatMap (fun y => y) ++
  x.spad.map (fun p => (l.spad + p.1, 1, p.2.toNat)) ++
  ((fifoBases.zip x.fifos).flatMap (fun p => p.2.mapIdx (fun k w => (p.1 + 8 * k, 8, w.val.toNat)))) ++
  ((unitBases.zip x.units).flatMap (fun p => placeFields p.1 (unitFields p.2))) ++
  ((x.waves.mapIdx (fun n v => placeFields (l.waves + n * waveBytes l.a) (waveFields n l.a v))).flatMap (fun y => y))

/-- The bytes of a gang's image. What a unit's header holds is open (assumption 41). -/
def State.image (s : State) (g : Nat) (x : Gang) (d : Desc) : List Byte :=
  let l := imageLayout d x.units
  let unitBases := bases l.matrix (x.units.map (fun u => unitBytes u.nMax))
  (fieldBytes l.size (s.imageFields g x d)).mapIdx (fun k b =>
    if unitBases.any (fun r => decide (r ≤ k) && decide (k < r + 4096)) then Config.freeByte s.tick k else b)

/-! ### The save area (R406) -/

/-- Save a gang that is quiet (R403 step 5): none when its image does not fit. -/
def State.saveGang (s : State) (ctx g : Nat) (x : Gang) (d : Desc) (c : Context) : Option State :=
  let image := s.image g x d
  let start := s.savedBytes ctx
  if c.saveSize < start + image.length then none
  else
    let t := s.putDevice (c.saveArea + start) image
    let largest := x.waves.foldl (fun m w => max m w.lastNow) x.lastNow
    let t := (t.modStack x.stack (fun k => k.freeBanksOf g)).modGang g (fun y => { y with
      state := .saved, bankList := [], image := start, imageSize := image.length, lastNow := largest })
    some ((t.writeCounts c (start + image.length) (t.savedGangs ctx).length).slotsReport x.stack)

/-- What the device finds of a saved image is what it wrote, in its sizes and reserved fields (R409): the counts, the
image size, and every byte of the header page and of each wave's first page that no field covers. -/
def State.imageIntact (s : State) (x : Gang) (d : Desc) (c : Context) : Bool :=
  let base := c.saveArea + x.image
  let l := imageLayout d x.units
  let reserved := fun (off n : Nat) => (readBytes s.mem (base + off) n).all (fun b => b == 0)
  s.readNat (base + 32) 8 == x.imageSize && reserved 21 3 && reserved 41 3 && reserved 46 2 && reserved 56 8 &&
  reserved 896 3200 &&
  (List.range 16).all (fun k => reserved (132 + 48 * k) 4 && reserved (168 + 48 * k) 8) &&
  (List.range 64).all (fun k => reserved (4096 + 64 * k + 49) 7) &&
  (List.range x.waves.length).all (fun n =>
    let w := l.waves + n * waveBytes l.a
    reserved (w + 12) 4 && reserved (w + 32) 32 && reserved (w + 0x386D) 3 && reserved (w + 0x40BA) 838 &&
    reserved (w + 0x4C80) 896 &&
    (List.range 32).all (fun k => reserved (w + 0x440 + 16 * k + 12) 4 && reserved (w + 0x640 + 32 * k + 19) 1 &&
      reserved (w + 0x640 + 32 * k + 24) 8 && reserved (w + 0xA40 + 32 * k + 26) 6) &&
    (List.range 16).all (fun k => reserved (w + 0x3E70 + 32 * k + 20) 12))

/-- The used-bytes count of the save area is what the device wrote, and its reserved bytes are 0; R409 names no check
of the image count. -/
def State.countsIntact (s : State) (ctx : Nat) (c : Context) : Bool :=
  (s.savedGangs ctx).isEmpty ||
  (s.readNat c.saveArea 8 == s.savedBytes ctx &&
   (readBytes s.mem (c.saveArea + 16) 4080).all (fun b => b == 0))

/-! ### Taking an image back (R409, R410) -/

/-- A field of memory as a bit vector. -/
def State.readBV (s : State) (w pa n : Nat) : BitVec w := BitVec.ofNat w (s.readNat pa n)

/-- A table of the fields at a stride. -/
def State.readTable {w : Nat} (s : State) (pa stride : Nat) (n : Nat) : Sparse (BitVec w) :=
  (List.range n).foldr (fun k m =>
    let v : BitVec w := s.readBV w (pa + stride * k) stride
    if v = 0 then m else (k, v) :: m) []

/-- The set bits below n of a field, as a table of marks. -/
def State.readMarks (s : State) (pa n : Nat) : Sparse Bool :=
  (natBits n (s.readNat pa ((n + 7) / 8))).map (fun k => (k, true))

/-- A trap item of the image (R408). -/
def State.readItem (s : State) (i : Nat) : TrapItem :=
  { cause := s.readBV 8 (i + 8) 1, detail := s.readBV 8 (i + 9) 1, resume := s.readBV 64 i 8, prio := s.readBV 6 (i + 10) 1
    guardCount := s.readNat (i + 11) 1 % 32, guardIn := (s.readNat (i + 11) 1).testBit 5 }

/-- The trap item of lane n of the image, and what its TRET has read: of a lane that waits, or that is in its handler,
the item; of one that the handler has returned, what it read. `core` holds the frontier and trapmask of the image. -/
def State.restoreTrap (s : State) (b n : Nat) (core : WaveCore) (l : Lane) : Option TrapItem × Option TrapReturn :=
  let x := s.readItem (b + 0x440 + 16 * n)
  let flags := s.readNat (b + 0xA40 + 32 * n + 25) 1
  if !core.handler then (if flags.testBit 1 then some x else none, none)
  else if !has core.trapmask n then (none, none)
  else if core.frontier.any (fun e => !e.aside && has e.lanes n) then (some x, none)
  else if flags.testBit 0 then (l.trap, none)
  else (l.trap, some ⟨x.resume, x.prio, x.guardCount, x.guardIn⟩)

/-- The monitor of the image at an offset. -/
def State.restoreMonitor (s : State) (m : Nat) : Option Monitor :=
  if s.readNat (m + 16) 1 = 0 then none
  else some { addr := s.readBV 64 m 8, expected := s.readBV 64 (m + 8) 8, wide := s.readNat (m + 18) 1 != 0
              cmp := (MonCmp.ofCode (s.readNat (m + 17) 1)).getD .ne }

/-- A lane with the values that the image at `b` holds for it. A lane in MWAIT keeps the status that it has (R197). -/
def State.restoreLane (s : State) (b a n : Nat) (core : WaveCore) (l : Lane) : Lane :=
  let st := b + 0xA40 + 32 * n
  let m := b + 0x640 + 32 * n
  let marks := natBits 8 (s.readNat (b + 0x4C00 + n) 1)
  let traps := s.restoreTrap b n core l
  let status := s.readBV 32 (m + 20) 4
  { regs := s.readTable (b + 0x5000 + 4 * a * n) 4 a
    marks := s.readMarks (b + 0x4400 + 64 * n) 512
    winbase := s.readBV 32 (st + 16) 4
    latches := l.latches.mapIdx (fun k _ => ⟨s.readBV 64 (b + 0xE40 + 64 * n + 8 * k) 8, marks.contains k⟩)
    preds := s.readBV 16 (st + 10) 2
    predMarks := s.readBV 16 (b + 0x4C20 + 2 * n) 2
    xflags := s.readBV 5 (st + 8) 1
    xenable := s.readBV 5 (st + 9) 1
    seed := s.readBV 32 (st + 12) 4
    ffpc := s.readBV 64 st 8
    ffwhy := s.readBV 32 (st + 20) 4
    exited := (s.readNat (st + 25) 1).testBit 0
    trap := traps.1
    returned := traps.2
    stack := ((List.range (min 32 (s.readNat (st + 24) 1))).map (fun k =>
      let v := s.readNat (b + 0x1640 + 256 * n + 8 * k) 8
      (BitVec.ofNat 56 v, BitVec.ofNat 6 (v / 2 ^ 56)))).reverse
    monitor := s.restoreMonitor m
    mwait := if has (mwaitLanes core) n && status != 0xFFFFFFFF then some status else none
    know := l.know }

/-- When an MWAIT of the image expires: the wave's section has one expiry; one that is as it was saved leaves each
entry its own. `old` is the wave as it was saved. -/
def State.restoreExpiry (s : State) (b k : Nat) (old : WaveCore) : Option Nat :=
  let x := s.readNat (b + 16) 8
  match x == mwaitExpiry old, (old.frontier[k]?).map Entry.state with
  | true, some (.blocked (.mwait _ own)) => own
  | _, _ => if x = 2 ^ 64 - 1 then none else some x

/-- The state of entry k that the image at `b` gives. An access or a fetch that was held walks again, as its entry issues
(R410). A value that R408 names no state for is ready (DESIGN CHOICE, assumption 118). -/
def State.restoreState (s : State) (b k : Nat) (old : WaveCore) : EntryState :=
  let e := b + 0x40 + 32 * k
  let arg := s.readNat (e + 20) 8
  let low : Reg := BitVec.ofNat 7 arg
  let high : Reg := BitVec.ofNat 7 (arg / 2 ^ 8)
  match s.readNat (e + 17) 1 % 4, s.readNat (e + 19) 1 with
  | 1, 1 =>
    let sc := match arg / 2 ^ 36 % 4 with | 0 => BarScope.wave | 1 => .gang | 2 => .stack | _ => .pkg
    .blocked (.bar sc (arg / 2 ^ 32 % 16) (BitVec.ofNat 32 arg))
  | 1, 2 => .blocked (.mwait low (s.restoreExpiry b k old))
  | 1, 3 => .blocked (.qr low high)
  | 1, 4 => .blocked (.qw high low)
  | 1, 5 => .blocked (.tkw (arg.testBit 8) low)
  | 2, _ => .joining (BitVec.ofNat 3 arg) (s.readBV 32 (e + 28) 4)
  | _, _ => .ready

/-- Entry k of the image. -/
def State.restoreEntry (s : State) (b k : Nat) (old : WaveCore) : Entry :=
  let e := b + 0x40 + 32 * k
  { lanes := s.readBV 32 e 4, pc := s.readBV 64 (e + 8) 8, prio := s.readBV 6 (e + 16) 1, state := s.restoreState b k old
    guard := ⟨s.readNat (e + 18) 1, s.readBV 32 (e + 4) 4⟩, aside := (s.readNat (e + 17) 1).testBit 7 }

/-- The words of queues from the image, as many as its counts say; `old` gives what happened before their pushes. -/
def State.restoreQueues (s : State) (b counts marks : Nat) (old : List (List QWord)) : List (List QWord) :=
  old.mapIdx (fun q ws => if 6 ≤ q then ws else
    (List.range (min 16 (s.readNat (counts + q) 1))).map (fun k =>
      ⟨s.readBV 64 (b + 128 * q + 8 * k) 8, marks.testBit (16 * q + k), ((ws[k]?).map QWord.view).getD []⟩))

/-- A barrier from the image. -/
def State.restoreBarrier (s : State) (b width gap n : Nat) (x : Barrier) : Barrier :=
  let set := fun (k : Nat) (old : List Nat) =>
    let v := s.readNat (b + gap + k * width) width
    if bitsNat old = v then old else natBits n v
  { phase := s.readBV 32 b 4, expected := set 0 x.expected, arrived := set 1 x.arrived, drops := set 2 x.drops
    joins := set 3 x.joins, gathered := x.gathered, passed := x.passed }

/-- The part of a wave's core that its lanes are read by: the frontier, trapmask and handler mode of the image. -/
def State.restoreFrontier (s : State) (b : Nat) (core : WaveCore) : WaveCore :=
  { core with
    frontier := (List.range (min 32 (s.readNat (b + 8) 1))).map (fun k => s.restoreEntry b k core)
    trapmask := s.readBV 32 (b + 4) 4
    handler := (s.readNat (b + 3) 1).testBit 0 }

/-- A wave's core with what the image holds for it. -/
def State.restoreCore (s : State) (b a : Nat) (core : WaveCore) : WaveCore :=
  let c := s.restoreFrontier b core
  { c with
    lanes := core.lanes.mapIdx (fun n l => s.restoreLane b a n c l)
    latchCount := s.readNat (b + 1) 1
    validity := (Validity.ofCode (s.readNat (b + 2) 1)).getD core.validity
    s := s.readTable (b + 0x3640) 8 64
    sMarks := s.readMarks (b + 0x4C60) 64
    j := s.readTable (b + 0x3840) 4 8
    stallV := s.readMarks (b + 0x4070) 512
    stallS := s.readBV 64 (b + 0x40B0) 8
    stallP := s.readBV 16 (b + 0x40B8) 2
    bars := core.bars.mapIdx (fun k x => s.restoreBarrier (b + 0x3E70 + 32 * k) 4 4 32 x) }

/-- A wave with what the image holds for it: values as they stand there (R409). What the image has no place for is as
it was saved (assumption 118). -/
def State.restoreWave (s : State) (b a : Nat) (v : Wave) : Wave :=
  let marks := s.readNat (b + 0x4C68) 24
  { v with
    core := s.restoreCore b a v.core
    pending := natBits 64 (s.readNat (b + 24) 8)
    push := s.restoreQueues (b + 0x3870) (b + 0x3860) marks v.push
    pop := s.restoreQueues (b + 0x3B70) (b + 0x3866) (marks / 2 ^ 96) v.pop
    lost := v.lost.mapIdx (fun q x => if q < 6 then (s.readNat (b + 0x386C) 1).testBit q else x)
    held := none
    yieldHold := (s.readNat (b + 3) 1).testBit 1 }

/-! ### Planes, commands and operations -/

/-- A number of the image at an offset in half bytes. -/
def State.readNibbles (s : State) (b at_ h : Nat) : Nat :=
  if h = 1 then s.readNat (b + at_ / 2) 1 / 16 ^ (at_ % 2) % 16 else s.readNat (b + at_ / 2) (h / 2)

/-- Value j of row k of the plane block at `b`: its column and itself. One that is as it was saved keeps the value it had
whatever its bits are (R93); a kept value stands in its group by its index (R90). -/
def State.restoreWeight (s : State) (b : Nat) (old p : Plane) (k j : Nat) : Nat × Weight :=
  let h := elementBits p.format / 4
  let was := (old.keptRow k)[j]?
  let bits := s.readNibbles b (2 * 20480 + planeNibble p.n h j k) h
  let index := if p.sparsity = 0 ∨ 128 ≤ j then (was.map (fun x => x.2.index)).getD 12
    else s.readNibbles b (2 * 4096 + 128 * k + j) 1
  let group := (was.map (fun x => x.1 - min x.1 x.2.index)).getD 0
  let col := if p.sparsity = 0 then j else group + index
  let byte := s.readNat (b + 128 + 15 * k + col / 32) 1
  let saved := (old.elems.getD (k * old.n + 32 * (col / 32)) ⟨0, 127, 12, none⟩).scale
  let scale := if byte = saved then (was.map (fun x => x.2.scale)).getD byte else byte
  (col, { bits := bits, scale := scale, index := index
          fixed := was.bind (fun x => if x.2.bits = bits ∧ old.format = p.format then x.2.fixed else none) })

/-- Row k of the plane block at `b`. -/
def State.restoreRow (s : State) (b : Nat) (old p : Plane) (k : Nat) : List Weight :=
  let kept := (List.range (if p.sparsity = 0 then p.n else (old.keptRow k).length)).map (fun j => s.restoreWeight b old p k j)
  (List.range p.n).map (fun c =>
    match kept.find? (fun x => x.1 == c) with
    | some x => x.2
    | none =>
      match old.elems[k * old.n + c]? with
      | some w => if w.index = 12 then w else ⟨0, 127, 12, some (.fin false 0 0)⟩
      | none => ⟨0, 127, 12, some (.fin false 0 0)⟩)

/-- A plane from its block (R407). -/
def State.restorePlane (s : State) (b : Nat) (old : Plane) : Plane :=
  let book := old.codebook.mapIdx (fun k v =>
    let x := s.readNat (b + 64 + 2 * k) 2
    if v % 65536 = x then v else x)
  let p : Plane := { format := s.readNat b 2, sparsity := s.readNat (b + 2) 2, k := min 256 (s.readNat (b + 4) 2)
                     n := min 256 (s.readNat (b + 6) 2), elems := [], codebook := book }
  { p with elems := (List.range p.k).flatMap (fun k => s.restoreRow b old p k) }

/-- A unit from its section. -/
def State.restoreUnit (s : State) (b : Nat) (u : MxUnit) : MxUnit :=
  let planes := b + 4096 + 1024 * u.nMax
  { u with acc := s.readTable (b + 4096) 4 (256 * u.nMax), cur := s.restorePlane planes u.cur
           next := s.restorePlane (planes + planeBytes) u.next }

/-- A token register of the image. -/
def State.restoreToken (s : State) (b : Nat) : Option Nat :=
  let t := s.readNat b 1
  if t = noToken then none else some t

/-- A held command from its slot; the entries that it captured are as they were. -/
def State.restoreCommand (s : State) (b : Nat) (x : Command) : Command :=
  let header := s.readBV 64 b 8
  { x with
    kind := (engineOf header).getD x.kind
    header := header
    params := (List.range x.params.length).map (fun k => s.readBV 64 (b + 8 * (k + 1)) 8)
    token := s.restoreToken (b + 48)
    counter := s.readBV 64 (b + 56) 8
    length := if header = x.header then x.length else hdrLength header }

/-- The instruction function of a code. -/
def MxFn.ofCode : Nat → Option MxFn
  | 14 => some .mxls | 15 => some .mxsw | 16 => some .mxgo | 18 => some .mxz | 19 => some .mxst | _ => none

/-- A queued matrix operation from its slot; the entries that it captured are as they were. -/
def State.restoreOp (s : State) (b : Nat) (x : MxOp) : MxOp :=
  { x with
    fn := (MxFn.ofCode (s.readNat (b + 128) 1)).getD x.fn
    unit := s.readNat (b + 129) 1
    block := x.block.mapIdx (fun k _ => s.readBV 8 (b + k) 1)
    token := s.restoreToken (b + 130)
    popped := (List.range (min 8 (s.readNat (b + 131) 1))).map (fun k =>
      let was := (x.popped[k]?).getD ⟨0, false, []⟩
      { was with val := s.readBV 64 (b + 136 + 8 * k) 8 }) }

/-- The things of a list, changed one by one with their places; those at or beyond n leave. -/
def restoreSlots {α : Type} (mine : List (Nat × α)) (n : Nat) (f : Nat → α → α) (xs : List (Nat × α)) : List (Nat × α) :=
  xs.filterMap (fun p =>
    match mine.findIdx? (fun q => q.1 == p.1) with
    | none => some p
    | some k => if k < n then some (p.1, f k p.2) else none)

/-- The held commands and queued operations of a gang, from their slots, as many as the image counts. -/
def State.restoreWork (s : State) (g b : Nat) : State :=
  { s with
    commands := restoreSlots (s.heldCommands g) (s.readNat (b + 44) 1) (fun k x => s.restoreCommand (b + 4096 + 64 * k) x)
      s.commands
    mxops := restoreSlots (s.gangOps g) (s.readNat (b + 45) 1) (fun k x => s.restoreOp (b + 8192 + 256 * k) x) s.mxops }

/-- A gang with what its image holds: values as they stand there (R409). The fields that give the image its layout are
as they were saved (assumption 118). -/
def State.restoreImage (s : State) (x : Gang) (d : Desc) (area : Nat) : Gang :=
  let b := area + x.image
  let l := imageLayout d x.units
  let fifoBases := bases (b + l.fifos) (d.fifos.map (fun n => 65536 * n))
  let unitBases := bases (b + l.matrix) (x.units.map (fun u => unitBytes u.nMax))
  { x with
    x := s.readNat (b + 8) 2, y := s.readNat (b + 10) 2, z := s.readNat (b + 12) 2
    waves := x.waves.mapIdx (fun n v => s.restoreWave (b + l.waves + n * waveBytes l.a) l.a v)
    spad := s.readTable (b + l.spad) 1 d.spad
    fifos := x.fifos.mapIdx (fun q ws =>
      let depth := 8192 * d.fifos.getD q 0
      let head := s.readNat (b + 64 + 8 * q) 4
      (List.range (min depth (s.readNat (b + 64 + 8 * q + 4) 4))).map (fun k =>
        let was := (ws[k]?).getD ⟨0, false, []⟩
        { was with val := s.readBV 64 (fifoBases.getD q 0 + 8 * ((head + k) % depth)) 8 }))
    bars := x.bars.mapIdx (fun k y => s.restoreBarrier (b + 128 + 48 * k) 8 8 64 y)
    lastNow := s.readNat (b + 48) 8
    grant := x.grant.map (fun g => { g with units := g.units.mapIdx (fun k u => s.restoreUnit (unitBases.getD k 0) u) }) }

end Sys2Proof.Machine
end

