-- ==== Sys2Proof/Machine/Contexts.lean ====
section
/-! DEFINITION. Contexts and queues as the administrative queue makes and ends them (R390, R391, R361), the reset of a
context (R405), and stop records (R411, R414). -/
namespace Sys2Proof.Machine

/-! ### Stop records (R411, R414) -/

/-- The bytes of a stop record. -/
def stopBytes (seq flags now : Nat) (h : Halt) : List Byte :=
  natLe 8 seq ++ natLe 1 h.reason ++ natLe 1 h.stack ++ natLe 1 h.slot ++ natLe 1 flags ++ natLe 2 h.ctx ++ natLe 2 0 ++
  natLe 8 h.launch.toNat ++ natLe 8 h.pc.toNat ++ natLe 8 h.addr.toNat ++ natLe 4 h.performed.toNat ++
  natLe 4 h.skipped.toNat ++ natLe 1 h.wave ++ natLe 7 0 ++ natLe 8 now

/-- Where the stop records of a stack stand. -/
def Stack.stopPlace (t : Stack) (st : Nat) : Nat := t.stopBase + 2048 * st

/-- An engine's stop record is numbered and written; its sequence number comes last. -/
def State.stopRecord (s : State) (h : Halt) (flags : Nat) : State :=
  let t := s.stack h.stack
  let place := t.stopPlace h.stack + 64 * h.slot
  let bytes := stopBytes s.seq flags t.now h
  (s.nextSeq.putDevice (place + 8) (bytes.drop 8)).putDevice place (bytes.take 8)

/-- The host's copies of the stop records of some stacks, which are recalled before the device writes them (R350). -/
def State.stopLines (s : State) (sts : List Nat) : List Nat :=
  sts.flatMap (fun st => s.snoopLines ((s.stack st).stopPlace st) 2048 true)

/-- An engine with no work: a record that names none. -/
def idleHalt (st slot : Nat) : Halt :=
  { src := none, reason := 0, stack := st, slot := slot, ctx := 0xFFFF, launch := 0, pc := 0, addr := 0, wave := 0xFF
    performed := 0, skipped := 0, written := false }

/-- The waves of a core, with the gang of each. -/
def State.coreWaves (s : State) (st core : Nat) : List (Nat × Nat × Gang × Wave) :=
  s.gangs.flatMap (fun p =>
    if p.2.placed && p.2.stack == st then
      (p.2.waves.mapIdx (fun w x => (p.1, w, p.2, x))).filter (fun q => q.2.2.2.coreId == core && !q.2.2.2.retired)
    else [])

/-- The wave that a core's record describes: the one that issued last (R414). -/
def lastIssued (ws : List (Nat × Nat × Gang × Wave)) : Option (Nat × Nat × Gang × Wave) :=
  ws.foldl (fun b q =>
    match b with
    | none => some q
    | some c => if c.2.2.2.issued < q.2.2.2.issued then some q else b) none

/-- Whether the device performs pending MATOM number n of a context that stops (R405, R415). -/
def State.performsMatom (s : State) (n : Nat) : Bool := s.choose (2000 + n) 2 == 1 && (s.performMatom n).isSome

/-- The lanes of a wave whose pending MATOMs are performed, or are not, at its stop. -/
def State.matomLanes (s : State) (g w : Nat) (done : Bool) : BitVec 32 :=
  maskOf (((s.matoms.mapIdx (fun n m => (n, m))).filter (fun p =>
    p.2.gang == g && p.2.wave == w && s.performsMatom p.1 == done)).map (fun p => p.2.lane))

/-- The wave has an access in flight. -/
def State.accessOpen (s : State) (g w : Nat) (v : Wave) : Bool :=
  !v.loads.isEmpty || !v.stores.isEmpty || v.waits || !v.left.isEmpty || s.matomPending g w

/-- Lanes of the plain loads of a wave that are in flight, of its stores and atomics, and of its held accesses. -/
def Wave.loadLanes (v : Wave) : BitVec 32 := (v.loads.filter (fun p => !p.atomic)).foldl (fun m p => m ||| p.lanes) 0
def Wave.storeLanes (v : Wave) : BitVec 32 :=
  (v.loads.filter (fun p => p.atomic)).foldl (fun m p => m ||| p.lanes) (maskOf (v.stores.map PendingStore.lane))
def Wave.heldLanes (v : Wave) : BitVec 32 :=
  v.left.foldl (fun m x => m ||| x.access.lanes) ((v.held.map HeldAccess.lanes).getD 0)

/-- The PC at which a wave stops: that of the instruction it issued last, or of the barrier in its checkpoint (R340). -/
def Wave.stopPc (v : Wave) : W64 :=
  match v.spec with
  | none => v.lastPc
  | some sp =>
    match sp.checkpoint.frontier.find? (fun e => e.state == .blocked (.bar .gang sp.barrier sp.phase)) with
    | some e => e.pc
    | none => v.lastPc

/-- The lanes of a wave whose accesses in flight are performed, and those whose are not (R198, R405, R415): loads and
pending MATOMs of the contexts that stop for good are decided now, and performed in every other; stores and other
atomics were performed as they issued (DESIGN CHOICE, assumption 47); a held access is not performed. -/
def State.flightLanes (s : State) (ending : List Nat) (g w : Nat) (x : Gang) (v : Wave) : BitVec 32 × BitVec 32 :=
  let matoms := s.matomLanes g w true
  let left := s.matomLanes g w false
  let loads := v.loadLanes &&& maskOf ((List.range 32).filter (fun n => s.chooseAt [32, g, w, n] 2 == 1))
  let out := (v.loadLanes &&& ~~~loads) &&& ~~~v.storeLanes
  if ending.contains (s.ctxOf x) then (v.storeLanes ||| matoms ||| loads, v.heldLanes ||| left ||| out)
  else (v.storeLanes ||| matoms ||| left ||| v.loadLanes, v.heldLanes)

/-- A core's record: the work of the wave that issued last, its lanes in flight, and flags [1] and [2]. -/
def State.coreHalt (s : State) (ending : List Nat) (st core : Nat) (ws : List (Nat × Nat × Gang × Wave)) (reason : Nat) :
    Halt × Nat :=
  match lastIssued ws with
  | none => (idleHalt st core, 0)
  | some (g, w, x, v) =>
    let lanes := s.flightLanes ending g w x v
    ({ idleHalt st core with
       reason := reason, ctx := s.ctxOf x, launch := s.launchid x, pc := v.stopPc
       performed := lanes.1, skipped := lanes.2 },
     (if v.spec.isSome then 2 else 0) + (if s.accessOpen g w v then 4 else 0))

/-- The commands of a stack that go to the engine of a slot (R302, R411). -/
def Command.atSlot (x : Command) (st slot : Nat) : Bool :=
  x.stack == st && x.state != .held &&
  (match x.kind with
   | .cpy => slot == 16 + x.cluster
   | .gat => slot == 20 | .sct => slot == 20
   | .bin => slot == 21
   | .coll => slot == 22)

/-- An engine's record for one of some commands: the first that has started, or else the first that waits. -/
def State.commandRecord (s : State) (st slot : Nat) (mine : Command → Bool) : Halt × Nat :=
  let xs := (s.commands.map (fun p => p.2)).filter (fun x => x.atSlot st slot && mine x)
  let busy := xs.filter (fun x => x.state != .queued)
  match (busy ++ xs).head? with
  | none => (idleHalt st slot, 0)
  | some x => ({ engineHalt s x 0 0 with slot := slot }, if busy.isEmpty then 0 else 4)

/-- A sub-array's record: an operation that has started on its unit, of some operations. -/
def State.subRecord (s : State) (st slot : Nat) (mine : MxOp → Bool) : Halt × Nat :=
  let xs := s.mxops.filter (fun p => p.2.started && mine p.2 && (match s.opPlace p.2, s.unitOf p.2 with
    | some (_, k), some u => k == st && u.subs.contains (slot - 23)
    | _, _ => false))
  match xs.head? with
  | none => (idleHalt st slot, 0)
  | some p => ({ s.opHalt p.2 0 0 with slot := slot }, 4)

/-! ### A context stops -/

/-- Those of some elements that the device chooses are written for a command or an operation that stops. -/
def State.someStores (s : State) (a : Agent) (ctx st spad : Nat) (key : List Nat) (els : List (Nat × List Byte × Bool)) : State :=
  let runs := elementRuns (((els.mapIdx (fun n e => (n, e))).filter (fun p => s.chooseAt (key ++ [p.1]) 2 == 1)).map
    (fun p => p.2))
  match s.reach ctx st spad .engine true (runs.map (fun r => r.1)) with
  | .ok ps =>
    if (s.recallLines true ps).isEmpty && !s.frozenPieces st ps then
      s.storeElements a st (key ++ [0]) ((ps.map (fun p => p.1)).zip (runs.map (fun r => r.2)))
    else s
  | _ => s

/-- A rise of a counter that is due is made or not, as a command or an operation stops. -/
def State.someRise (s : State) (a : Agent) (ctx st spad counter amount : Nat) (key : List Nat) : State :=
  if counter = 0 ∨ amount = 0 ∨ s.chooseAt key 2 = 0 then s
  else match s.reach ctx st spad .atomic true (sectorPieces counter 8) with
    | .ok ps => if (s.recallLines true ps).isEmpty && !s.frozenPieces st ps then s.riseAt a st amount ps else s
    | _ => s

/-- A command that stops for good: what it has read and not written is written or not, and a rise that is due is made
or not (R405, R415). -/
def State.partWritten (s : State) (k : Nat) (x : Command) : State :=
  let spad := s.ownerSpad x.owner
  let chunks := x.chunks.flatMap (fun p => x.chunkBytes p.1 p.2)
  let t := s.someStores (s.commandAgent k x) x.ctx x.stack spad [33, k]
    (if x.kind == .coll then chunks else x.unwritten.map (fun p => p.2))
  let t := x.landed.foldl (fun (u : State) p =>
    u.someRise (u.commandAgent k x) x.ctx x.stack spad (x.chunkCounter p.1) 1 [34, k, p.1]) t
  if x.state == .wrote then t.someRise (t.commandAgent k x) x.ctx x.stack spad x.counter.toNat x.amount [35, k] else t

/-- The same of a matrix operation. -/
def State.partStored (s : State) (m : Nat) (x : MxOp) : State :=
  match s.opPlace x, s.unitOf x with
  | some (ctx, st), some u =>
    let spad := s.ownerSpad (.wave x.gang 0)
    if x.vis then
      if x.fn.counts then s.someRise (s.mxAgent m x st) ctx st spad (blockCounter x.block) (x.units u) [36, m] else s
    else match x.fn, x.cEntry with
    | .mxst, some e =>
      if x.started && x.read.isNone then
        s.someStores (s.mxAgent m x st) ctx st spad [37, m] ((x.stores u e).filterMap (fun c => c.1.map (fun va =>
          (va, natLe (elementBits e.format / 8) c.2.bits, false))))
      else s
    | _, _ => s
  | _, _ => s

/-- The pending MATOMs of some gangs end: each is performed or dropped. -/
def State.endMatoms (s : State) (gs : List Nat) : State :=
  let mine := (s.matoms.mapIdx (fun n m => (n, m))).filter (fun p => gs.contains p.2.gang)
  let performed := (mine.filter (fun p => s.performsMatom p.1)).map (fun p => p.2)
  let t := performed.foldl (fun (u : State) m =>
    match u.matoms.findIdx? (fun x => x == m) with
    | none => u
    | some k => (u.performMatom k).getD u) s
  { t with matoms := t.matoms.filter (fun m => !gs.contains m.gang) }

/-- The commands and matrix operations of some gangs end where they are. -/
def State.endWork (s : State) (gs : List Nat) : State :=
  let mine := fun (x : Command) => match x.owner with | .wave g _ => gs.contains g | .queue _ _ => false
  let t := (s.commands.filter (fun p => mine p.2 && p.2.begun)).foldl (fun (u : State) p => u.partWritten p.1 p.2) s
  let t := (s.mxops.filter (fun p => gs.contains p.2.gang)).foldl (fun (u : State) p => u.partStored p.1 p.2) t
  { t with commands := t.commands.filter (fun p => !mine p.2), mxops := t.mxops.filter (fun p => !gs.contains p.2.gang) }

/-- Gangs that stop for good where they stand: accesses in flight are performed or not, their commands and operations go,
their cores and banks are free (R405). -/
def State.abandonGangs (s : State) (gs : List Nat) : State :=
  let t := gs.foldl (fun (u : State) g => u.rollbackGang g) s
  let t := t.endMatoms gs
  let t := t.endWork gs
  gs.foldl (fun (u : State) g =>
    (u.freeGang g .done).modGang g (fun x => { x with waves := [], spad := [], spadPoison := [], fifos := [] })) t

/-! ### Resetting queues and contexts (R390, R405) -/

/-- A queue begins its reset: an unstarted packet is dropped, unreleased held commands are released with length 0 (R371),
and once nothing is open the queue is cleared. -/
def State.resetQueue (s : State) (k : Nat) (by_ : Option (Nat × Nat)) : State :=
  let held := s.commands.filter (fun p => p.2.state == .held && (match p.2.owner with | .queue j _ => j == k | _ => false))
  let t := held.foldl (fun (u : State) p => u.release p.1 { p.2 with length := 0, state := .queued }) s
  (t.modQueue k (fun q => { q with resetting := some by_, phase := .idle, packet := [] })).settleReset k

/-- The user queues of a context. -/
def State.contextQueues (s : State) (ctx : Nat) : List Nat :=
  (s.queues.filter (fun p => p.2.ctx == ctx && p.2.admin.isNone)).map (fun p => p.1)

/-- A launch that a reset of its context ends: resident and saved gangs are killed, the rest never started. -/
def State.resetLaunch (s : State) (l : Nat) (x : Launch) : Launch :=
  let mine := s.gangs.filter (fun p => p.2.launch == l)
  let live := (mine.filter (fun p => p.2.placed || p.2.state == .saved)).length
  let waiting := (mine.filter (fun p => p.2.state == .batched)).length
  let grid := if x.pool.isNone then s.gangTotal x - x.next else 0
  { x with
    killed := x.killed + live, unstarted := x.unstarted + waiting + grid, next := x.next + grid
    wasReset := true, stackBars := [], pkgBars := [] }

/-- The stack that reports an administrative event of a partition. -/
def State.partitionStack (s : State) (p : Nat) : Nat :=
  match (s.partition p).adminQueue.bind (aget s.queues) with
  | some q => q.home
  | none => (s.members p).headD 0

/-- The engines that work for gangs which a reset stops write their records with reason 8: cores, copy and other
engines, and sub-arrays (R405, R411). -/
def State.resetRecords (s : State) (gs : List Nat) : State :=
  let ending := gs.filterMap (fun g => (aget s.gangs g).map s.ctxOf)
  let cores := (gs.flatMap (fun g =>
    match aget s.gangs g with
    | none => []
    | some x => x.waves.map (fun w => (x.stack, w.coreId)))).eraseDups
  let sts := (gs.filterMap (fun g => (aget s.gangs g).map Gang.stack)).eraseDups
  let mine := fun (x : Command) => match x.owner with | .wave g _ => gs.contains g | .queue _ _ => false
  let records := cores.map (fun p =>
      s.coreHalt ending p.1 p.2 ((s.coreWaves p.1 p.2).filter (fun q => gs.contains q.1)) reasonReset) ++
    sts.flatMap (fun st => [16, 17, 18, 19, 20, 21, 22].map (fun k => s.commandRecord st k mine) ++
      [23, 24, 25, 26].map (fun k => s.subRecord st k (fun x => gs.contains x.gang)))
  (records.filter (fun r => r.1.ctx != 0xFFFF)).foldl (fun (t : State) r =>
    t.stopRecord { r.1 with reason := reasonReset } r.2) s

/-- The event of a reset that ends the pre-emption ladder: it names rung 3 and counts the gangs killed (R402, R416). -/
def State.resetEvent (s : State) (ctx killed : Nat) : State :=
  let part := s.partitionOf ctx
  let st := s.partitionStack part
  s.send { code := 0x0105, partition := part, stack := st, ctx := ctx, time := (s.stack st).now, detail := natLe 4 killed }

/-- Gangs that a reset of a context kills: those on cores and those saved. -/
def State.resetKills (s : State) (ctx : Nat) : Nat := (s.gangsOn ctx).length + (s.savedGangs ctx).length

/-- The pre-empt request that a context was on ends on rung 3, with its event (R402). -/
def State.endLadder (s : State) (ctx killed : Nat) (r : Rung) : State :=
  match r with
  | .none => s
  | .drain q i _ _ => (s.resetEvent ctx killed).completePacket q i
  | .evict q i _ => (s.resetEvent ctx killed).completePacket q i

/-- The host's copies that a reset of a context waits for: of its stop records and of its save area's counts (R350). -/
def State.resetLines (s : State) (ctx : Nat) : List Nat :=
  s.stopLines (s.partitionStacks ctx) ++ ((aget s.contexts ctx).map (fun c => s.snoopLines c.saveArea 4096 true)).getD []

/-- The reset of a context (R405). Records are written when no halt has written them; a pre-empt request that was
under way ends with it (R402). -/
def State.resetContext (s : State) (ctx : Nat) (records : Bool) : State :=
  let gs := s.gangsOn ctx
  let gone := fun (g : Gang) => s.ctxOf g == ctx && (g.state == .batched || g.state == .saved)
  let dropped := (s.gangs.filter (fun p => gone p.2)).map (fun p => p.1)
  let launches := s.launches.filter (fun p => p.2.ctx == ctx && !p.2.recorded)
  let t := if records then s.resetRecords gs else s
  let t : State := { t with
    launches := t.launches.map (fun p => if launches.any (fun q => q.1 == p.1) then (p.1, s.resetLaunch p.1 p.2) else p)
    pools := t.pools.map (fun (p : Nat × Pool) =>
      if launches.any (fun q => q.1 == p.2.launch) then (p.1, { p.2 with stopped := true, bins := [], heldPage := none }) else p)
    reservations := t.reservations.filter (fun r => !dropped.contains r.1)
    stackTab := t.stackTab.map (fun k => { k with batch := k.batch.filter (fun g => !dropped.contains g) }) }
  let t := t.abandonGangs gs
  let t : State := { t with
    gangs := t.gangs.map (fun p => if dropped.contains p.1 then (p.1, { p.2 with state := .done, waves := [], spad := [] }) else p)
    commands := t.commands.filter (fun p => match p.2.owner with | .wave g _ => !dropped.contains g | .queue _ _ => true)
    mxops := t.mxops.filter (fun p => !dropped.contains p.2.gang) }
  let t := if (s.savedGangs ctx).isEmpty then t else match aget t.contexts ctx with
    | some c => t.writeCounts c 0 0
    | none => t
  let rung := ((aget t.contexts ctx).map Context.rung).getD .none
  let t := (t.modContext ctx (fun c => { c with rung := .none })).settleResume ctx
  let t := launches.foldl (fun (u : State) p => match aget u.launches p.1 with
    | some x => u.writeRecord p.1 x 2
    | none => u) t
  let t := (s.contextQueues ctx).foldl (fun (u : State) k => u.resetQueue k none) t
  t.endLadder ctx (s.resetKills ctx) rung

/-! ### CREATE_CONTEXT (R391) -/

/-- The context of a number, if the partition of the administrative queue has it. -/
def State.ownContext (s : State) (q : Queue) (ctx : Nat) : Option Context :=
  (aget s.contexts ctx).bind (fun c => if q.admin == some c.partition then some c else none)

/-- A context as its descriptor gives it. -/
def contextOf (b : List Byte) (part : Nat) : Context :=
  { root := pkt b 0 8, placeBase := pkt b 8 8, placeTable := pkt b 16 8, placeCount := pkt b 24 4
    breakNotify := (pkt b 30 1).testBit 0, captureOk := (pkt b 30 1).testBit 1, trapEntry := BitVec.ofNat 64 (pkt b 32 8)
    trapArea := BitVec.ofNat 64 (pkt b 40 8), saveArea := pkt b 48 8, saveSize := pkt b 56 8, watchdog := pkt b 64 4
    partition := part, tensors := [], requested := [], rung := .none, fetchStopped := false, resuming := []
    refusing := none }

/-- A descriptor keeps to R391. -/
def State.contextOk (s : State) (part home : Nat) (b : List Byte) : Bool :=
  pkt b 0 8 % 2048 == 0 && pkt b 8 8 % 65536 == 0 && pkt b 16 8 % 64 == 0 && decide (pkt b 24 4 ≤ 2 ^ 24) &&
  decide (pkt b 28 2 < 4096) && (aget s.contexts (pkt b 28 2)).isNone && decide (pkt b 30 1 < 4) && zeros b 31 32 &&
  pkt b 40 8 % 512 == 0 && pkt b 48 8 % 4096 == 0 && isLocal (pkt b 48 8) && s.reachable part home (pkt b 48 8) &&
  pkt b 56 8 % 4096 == 0 && decide (pkt b 64 4 ≤ 10000000) && zeros b 68 128

/-- CREATE_CONTEXT (R390, R391). -/
def execCreateContext (q : Nat) (s : State) : Host.Outcome State Fault Refusal :=
  .next (s.packet q 32 (fun x _ bs =>
    match s.cpRead x (pkt bs 8 8) 128 with
    | .hold page => .blocked (s.cpHold q x page)
    | .recall lines => .blocked (s.backInvalidate lines)
    | .refused => .error 8 0
    | .ok b _ =>
      let part := x.admin.getD 12
      if s.contextOk part x.home b then .done { s with contexts := s.contexts ++ [(pkt b 28 2, contextOf b part)] }
      else .error 5 0))

/-! ### DESTROY_CONTEXT (R390) -/

/-- Nothing of the context is left to finish. -/
def State.contextOver (s : State) (ctx : Nat) : Bool :=
  (s.gangsOn ctx).isEmpty && s.queues.all (fun p => p.2.ctx != ctx || p.2.admin.isSome || p.2.resetting.isNone) &&
  s.launches.all (fun p => p.2.ctx != ctx || (p.2.recorded && p.2.desc.done == 0)) &&
  s.commands.all (fun p => p.2.ctx != ctx)

/-- The invalidations of a context that is going: nothing of it is cached any more, and their requests complete (R390,
R397). -/
def State.endInvalidations (s : State) (ctx : Nat) : State :=
  let t : State := { s with
    invalidations := s.invalidations.filter (fun x => x.ctx != ctx)
    stackTab := s.stackTab.map (fun k => { k with tlb := k.tlb.drop ctx 0 (2 ^ 64) }) }
  (s.invalidations.filter (fun x => x.ctx == ctx)).foldl (fun (u : State) x =>
    (u.adminEvent x.queue 0x0106 ctx (natLe 8 x.index)).completePacket x.queue x.index) t

/-- A context is removed, with its queues, identifiers and whatever names it. -/
def State.removeContext (s : State) (ctx : Nat) : State :=
  let ls := (s.launches.filter (fun p => p.2.ctx == ctx)).map (fun p => p.1)
  let t := s.endInvalidations ctx
  { t with
    contexts := adel t.contexts ctx
    queues := t.queues.filter (fun p => p.2.ctx != ctx || p.2.admin.isSome)
    launches := t.launches.filter (fun p => p.2.ctx != ctx)
    gangs := t.gangs.filter (fun p => !ls.contains p.2.launch)
    pools := t.pools.filter (fun p => !ls.contains p.2.launch) }

/-- The destroy requests of a queue whose contexts are over complete. -/
def State.finishDestroy (s : State) (k : Nat) : State :=
  match aget s.queues k with
  | none => s
  | some q => (q.openPackets.filter (fun p => p.kind == 33)).foldl (fun (t : State) p =>
      let ctx := pkt p.bytes 8 2
      if t.contextOver ctx then (t.removeContext ctx).completePacket k p.index else t) s

/-- DESTROY_CONTEXT (R390): the reset, and once it has finished the removal. -/
def execDestroyContext (q : Nat) (s : State) : Host.Outcome State Fault Refusal :=
  .next ((s.packet q 33 (fun x _ bs =>
    let ctx := pkt bs 8 2
    match s.ownContext x ctx with
    | none => .error 5 0
    | some _ =>
      if (s.resetLines ctx).isEmpty then .running (s.resetContext ctx true)
      else .blocked (s.backInvalidate (s.resetLines ctx)))).finishDestroy q)

/-! ### REGISTER_QUEUE and RESET_QUEUE (R361, R390) -/

/-- A queue as it is registered. -/
def queueOf (b : List Byte) : Queue :=
  { ring := BitVec.ofNat 64 (pkt b 0 8), size := pkt b 8 1, check := (pkt b 9 1).testBit 0, ctx := pkt b 10 2
    home := pkt b 12 1, status := BitVec.ofNat 64 (pkt b 16 8), admin := none, kicked := 0, consumed := 0, completed := 0
    error := 0, detail := 0, index := 0, phase := .idle, packet := [], openPackets := [], doneAhead := []
    stopped := false, statusDue := false, heldPage := none, resetting := none, refusedPage := none, view := [], after := [] }

/-- A queue descriptor keeps to R361. -/
def State.queueOk (s : State) (part : Nat) (b : List Byte) : Bool :=
  pkt b 0 8 % 4096 == 0 && decide (4 ≤ pkt b 8 1 ∧ pkt b 8 1 ≤ 20) && decide (pkt b 9 1 < 2) &&
  ((aget s.contexts (pkt b 10 2)).map Context.partition) == some part && (s.members part).contains (pkt b 12 1) &&
  zeros b 13 16 && pkt b 16 8 % 32 == 0 && zeros b 24 64

/-- REGISTER_QUEUE (R361, R390). -/
def execRegisterQueue (q : Nat) (s : State) : Host.Outcome State Fault Refusal :=
  .next (s.packet q 34 (fun x _ bs =>
    match s.cpRead x (pkt bs 8 8) 64 with
    | .hold page => .blocked (s.cpHold q x page)
    | .recall lines => .blocked (s.backInvalidate lines)
    | .refused => .error 8 0
    | .ok b _ =>
      let n := pkt bs 16 4
      if s.queueOk (x.admin.getD 12) b && (aget s.queues n).isNone then
        .done { s with queues := s.queues ++ [(n, queueOf b)] }
      else .error 5 0))

/-- RESET_QUEUE (R390, R371). -/
def execResetQueue (q : Nat) (s : State) : Host.Outcome State Fault Refusal :=
  .next (s.packet q 35 (fun x i bs =>
    let n := pkt bs 8 4
    match aget s.queues n with
    | none => .error 5 0
    | some y =>
      if y.admin.isSome || (s.ownContext x y.ctx).isNone then .error 5 0
      else if y.openPackets.isEmpty then .done (s.resetQueue n none)
      else .running (s.resetQueue n (some (q, i)))))

end Sys2Proof.Machine
end

