-- ==== Sys2Proof/Machine/Replay.lean ====
section
/-! DEFINITION. Held accesses of waves that walk again (R398): those of an instruction that still stands in its entry, and
those that flag fall has left behind (R198, R323). -/
namespace Sys2Proof.Machine

/-- The meaning of an instruction that a page can hold. -/
def heldMeaning (i : Instr) : Option (State → Host.Outcome State Fault Refusal) :=
  match i with
  | .ld src o d a t c n => some (execLd src o d a t c n)
  | .ldv src o d a c n => some (execLdv src o d a c n)
  | .ldo i z d a => some (execLdo i z d a)
  | .st src o d a t c n => some (execSt src o d a t c n)
  | .stv src o d a c n => some (execStv src o d a c n)
  | .sto i z d a => some (execSto i z d a)
  | .ldx z d a b => some (execLdx z d a b)
  | .stx z d a b => some (execStx z d a b)
  | .atom f d a c o src => some (execAtom f d a c o src)
  | .atomr f d a c o src => some (execAtomr f d a c o src)
  | .matom f d a c o => some (execMatom f d a c o)
  | .matomr f d a c o => some (execMatomr f d a c o)
  | .tret => some execTret
  | _ => none

/-- Run a held instruction at an entry of wave w of gang g, whether or not the wave is parked; the entry that issues is
otherwise as it was. -/
def State.runHeld (s : State) (g w k : Nat) (i : Instr) (v : Wave) : State :=
  let t : State := { s.setWave g w { v with parked := false, yieldHold := false } with cur := some (g, w, k) }
  match (heldMeaning i).map (fun (f : State → Host.Outcome State Fault Refusal) => f t) with
  | some (.next u) => { u.modWave g w (fun x => { x with parked := v.parked, yieldHold := v.yieldHold }) with cur := s.cur }
  | _ => s.setWave g w v

/-- What a stack's clock shows for a gang. -/
def State.gangNow (s : State) (g : Nat) : Nat := (s.stack (((aget s.gangs g).map Gang.stack).getD 0)).now

/-- The held instruction of a wave walks again in its place; one that cannot go on now does so when the wave next
issues. Time in a held access is no time without progress (R392). -/
def State.replayHeld (s : State) (g w : Nat) (v : Wave) : State :=
  match v.held with
  | none => s
  | some h => s.runHeld g w ((v.heldEntry).getD 0) h.instr { v with held := none, progress := s.gangNow g }

/-- Handler entry whose record store waits is made again (R239). -/
def State.replayEntry (s : State) (g w : Nat) : State :=
  match execHandlerEntry g w s with
  | .next t => t
  | _ => s

/-- What both have learned. -/
def Know.merge (a b : Know) : Know :=
  { a with view := Seen.join a.view b.view, met := (a.met ++ b.met).eraseDups, floor := (a.floor ++ b.floor).eraseDups }

/-- The wave from which an access that flag fall left held walks again: the core it issued from, with one entry. -/
def leftWave (v : Wave) (x : LeftAccess) : Wave :=
  let pc := ((x.core.frontier.find? (fun e => e.lanes &&& x.access.lanes != 0)).map Entry.pc).getD 0
  { v with
    core := { x.core with
      frontier := [{ lanes := x.access.lanes, pc := pc, prio := 0, state := .ready, guard := ⟨0, 0⟩, aside := false }]
      trapmask := 0, handler := false, latchCount := 8, last := none, tokenWait := none, stallV := [], stallS := 0, stallP := 0 }
    held := none, left := [], entering := false, loads := [], stores := [], spec := none, pending := [] }

/-- Access n of those that flag fall left held walks again (R198): what it stores and loads goes on as the wave's own,
in the registers that its lanes issued with, while the wave keeps to its wrap-up code. One that a route or a host copy
still stops stays. -/
def State.replayLeft (s : State) (g w n : Nat) : State :=
  match s.wave g w with
  | none => s
  | some v =>
    match v.left[n]? with
    | none => s
    | some x =>
      let temp := leftWave v x
      let t := s.runHeld g w 0 x.access.instr temp
      match t.wave g w with
      | none => t
      | some u =>
        let stuck := u.core.frontier == temp.core.frontier && u.held.isNone && !t.faulted g w
        let rest : List LeftAccess :=
          if stuck then [x] else match u.held with | some h => [⟨h, x.core⟩] | none => []
        t.setWave g w { v with
          core := v.core.mapLanes (fun k l =>
            if has x.access.lanes k then { l with know := l.know.merge (u.core.lane k).know } else l)
          loads := v.loads ++ u.loads, stores := v.stores ++ u.stores, matoms := u.matoms, matomMet := u.matomMet
          left := v.left.take n ++ rest ++ v.left.drop (n + 1) }

/-- Whatever a wave holds walks again. -/
def State.replayWave (s : State) (g w : Nat) : State :=
  match s.wave g w with
  | none => s
  | some v =>
    let t := s.replayHeld g w v
    let t := if v.entering then t.replayEntry g w else t
    (List.range v.left.length).reverse.foldl (fun t n => t.replayLeft g w n) t

/-- Whatever the waves of a gang hold walks again. -/
def State.replayGang (s : State) (g : Nat) : State :=
  match aget s.gangs g with
  | none => s
  | some x => (List.range x.waves.length).foldl (fun t w => t.replayWave g w) s

/-- Fetches held on pages walk again: their entries are ready. -/
def WaveCore.wakeFetch (core : WaveCore) (page : Nat → Bool) : WaveCore :=
  { core with frontier := core.frontier.map (fun e =>
      match e.state with
      | .blocked (.fetch va) => if page (va.toNat / 65536 * 65536) then { e with state := .ready } else e
      | _ => e) }

/-- The same of a wave; time in a held fetch is no time without progress (R392). -/
def Wave.wakeFetch (v : Wave) (page : Nat → Bool) (now : Nat) : Wave :=
  let core := v.core.wakeFetch page
  if core = v.core then v else { v with core := core, progress := now }

end Sys2Proof.Machine
end

