-- ==== Sys2Proof/Machine/Preempt.lean ====
section
/-! DEFINITION. The pre-emption ladder and resume (R402 to R404, R406, R409, R410, R330): drain, eviction gang by
gang, the reset that ends the ladder, and the restore of saved gangs. -/
namespace Sys2Proof.Machine

/-! ### PREEMPT (R402) -/

/-- No halt stops a stack of the partition or the active complex. -/
def State.ladderRuns (s : State) (ctx : Nat) : Bool :=
  s.complexRuns && (s.partitionStacks ctx).all (fun st => !(s.stack st).haltArrived)

/-- E′ in nanoseconds (R402): the larger of the bound asked for and the partition's longest completion timeout plus 1
ms. -/
def State.evictBound (s : State) (ctx asked : Nat) : Nat :=
  1000 * max asked ((s.partitionStacks ctx).foldl (fun m st => max m (s.stack st).linkTimeout) 0 + 1000)

/-- Rung 2 begins: the waves of the context's gangs stop, and speculation rolls back (R403 steps 1 and 2). -/
def State.startEvict (s : State) (ctx queue index asked : Nat) : State :=
  let t := (s.gangsIn ctx .resident).foldl (fun (u : State) g => u.rollbackGang g) s
  t.modContext ctx (fun c => { c with rung := .evict queue index (s.activeNow + s.evictBound ctx asked) })

/-- PREEMPT (R390, R402): fetch and dispatch stop; a drain bound of 0 starts rung 2 at once. A context that is still on a
ladder makes the request wait. -/
def execPreempt (q : Nat) (s : State) : Host.Outcome State Fault Refusal :=
  let ctx := ((aget s.queues q).map (fun x => pkt x.packet 8 2)).getD 4096
  let t := s.packet q 36 (fun x i bs =>
    let drain := pkt bs 12 4
    let evict := pkt bs 16 4
    match s.ownContext x ctx with
    | none => .error 5 0
    | some c =>
      if c.rung != .none then .blocked s
      else
        let t := s.modContext ctx (fun y => { y with
          fetchStopped := true, rung := .drain q i evict (s.activeNow + 1000 * drain) })
        if drain = 0 && !(s.gangsOn ctx).isEmpty then .running (t.startEvict ctx q i evict) else .running t)
  .next (t.settleLadder ctx)

/-! ### Eviction (R403, R404) -/

/-- Operation m of a gang waits, or stands behind one of its unit that waits (R404). -/
def State.opSaved (s : State) (m : Nat) (x : MxOp) : Bool :=
  (s.unitOps x.gang x.unit).any (fun p => decide (p.1 ≤ m) && s.opWaits p.2)

/-- What R403 step 3 waits for is over: also a started operation behind one that waits has finished. -/
def State.evictable (s : State) (g : Nat) (x : Gang) : Bool :=
  (x.waves.mapIdx (fun w v => (w, v))).all (fun p =>
    p.2.loads.isEmpty && p.2.stores.isEmpty && !s.matomPending g p.1) &&
  s.commands.all (fun p => p.2.owner.gang != some g || p.2.state == .held) &&
  (s.gangOps g).all (fun p => s.opSaved p.1 p.2 && (!p.2.started || s.opWaits p.2))

/-- The operations that are saved begin again after the restore, from the accumulators of the shadow copy, with the
handles that they have popped (R308, R318). -/
def State.rewindOps (s : State) (g : Nat) : State :=
  (s.gangOps g).foldl (fun (t : State) p =>
    let t := if p.2.started && p.2.fn == .mxgo then t.modUnit g p.2.unit (fun u => { u with acc := p.2.shadow }) else t
    t.modOp p.1 (fun y => { y with started := false, status := 0, read := none, heldPage := none })) s

/-- A context is reset and the pre-empt request completes (R402 rung 3), once the host's copies are recalled. -/
def State.ladderReset (s : State) (ctx : Nat) : State :=
  if (s.resetLines ctx).isEmpty then s.resetContext ctx true else s.backInvalidate (s.resetLines ctx)

/-- The host's copies of the save area up to the end of an image of so many bytes, or up to its end now (R350). -/
def State.saveLines (s : State) (ctx : Nat) (c : Context) (more : Nat) (write : Bool) : List Nat :=
  s.snoopLines c.saveArea (s.savedBytes ctx + more) write

/-- Save the gangs that can be; the first whose image does not fit resets the context (R402, R406). -/
def State.evictGangs (s : State) (ctx : Nat) : List Nat → State
  | [] => s.settleLadder ctx
  | g :: gs =>
    match aget s.gangs g, aget s.contexts ctx with
    | some x, some c =>
      if !s.evictable g x then s.evictGangs ctx gs
      else
        let t := s.rewindOps g
        (match aget t.gangs g, t.launchOf x with
         | some y, some l =>
           let size := (imageLayout l.desc y.units).size
           let full := decide (c.saveSize < t.savedBytes ctx + size)
           let lines := if full then s.resetLines ctx else s.saveLines ctx c size true
           if !lines.isEmpty then s.backInvalidate lines
           else (match t.saveGang ctx g y l.desc c with
            | some u => u.evictGangs ctx gs
            | none => (t.event 0x0107 x.stack ctx (natLe 8 (t.savedBytes ctx + size))).ladderReset ctx)
         | _, _ => s.evictGangs ctx gs)
    | _, _ => s.evictGangs ctx gs

/-- DRAIN_BOUND_EXPIRY (R402, R403): the drain bound expires; on rung 2 every gang that has become quiet is saved. -/
def execDrainBoundExpiry (ctx : Nat) (s : State) : Host.Outcome State Fault Refusal :=
  match aget s.contexts ctx with
  | none => .next s
  | some c =>
    if !s.ladderRuns ctx then .next s
    else match c.rung with
    | .none => .next s
    | .drain q i asked expiry =>
      if s.activeNow < expiry then .next s
      else .next ((s.startEvict ctx q i asked).evictGangs ctx (s.gangsIn ctx .resident))
    | .evict _ _ _ => .next (s.evictGangs ctx (s.gangsIn ctx .resident))

/-- EVICT_BOUND_EXPIRY (R402, R405): a gang is still unsaved. -/
def execEvictBoundExpiry (ctx : Nat) (s : State) : Host.Outcome State Fault Refusal :=
  match aget s.contexts ctx with
  | none => .next s
  | some c =>
    match c.rung with
    | .evict _ _ expiry =>
      if s.ladderRuns ctx && decide (expiry ≤ s.activeNow) && !(s.gangsOn ctx).isEmpty then .next (s.ladderReset ctx)
      else .next s
    | _ => .next s

/-! ### RESUME and GANG_RESTORE (R409, R410) -/

/-- Every image of the context is as the device wrote it, where it checks (R409). -/
def State.imagesIntact (s : State) (ctx : Nat) (c : Context) : Bool :=
  s.countsIntact ctx c && (s.savedGangs ctx).all (fun p =>
    match s.launchOf p.2 with | none => true | some l => s.imageIntact p.2 l.desc c)

/-- RESUME (R409, R410): fetch is open again; a save area that was changed resets the context. -/
def execResume (q : Nat) (s : State) : Host.Outcome State Fault Refusal :=
  .next (s.packet q 37 (fun x i bs =>
    let ctx := pkt bs 8 2
    match s.ownContext x ctx with
    | none => .error 5 0
    | some c =>
      if c.rung != .none then .blocked s
      else
        let t := (s.modContext ctx (fun y => { y with fetchStopped := false })).roundsDue (s.partitionOf ctx)
        let lines := s.saveLines ctx c 0 false ++ s.resetLines ctx
        if !lines.isEmpty then .blocked (s.backInvalidate lines)
        else if !s.imagesIntact ctx c then .done ((t.resetContext ctx true).resetEvent ctx (t.resetKills ctx))
        else if (s.savedGangs ctx).isEmpty then .done t
        else .running (t.modContext ctx (fun y => { y with resuming := y.resuming ++ [(q, i)] }))))

/-- The stack that a saved gang goes to (R255, R256, R410), if it has room now. -/
def State.restoreStack (s : State) (l : Launch) (x : Gang) : Option Nat :=
  let places := (s.partitionStacks l.ctx).filter s.maskAgrees
  let p : Plan := { free := places.map (fun st => (st, s.freeSlots st l.desc)), placed := [] }
  let counts := s.gangCounts l x.x x.y x.z
  let home := match l.pool with
    | some k => (aget s.pools k).map Pool.home
    | none => (s.replayHome l (gangIndex l x)).orElse (fun _ => p.best counts places)
  match home with
  | none => none
  | some h =>
    if p.hasRoom true h then some h
    else if l.desc.spill && l.pool.isNone then p.best counts (places.filter (p.hasRoom true))
    else none

/-- The grant of a saved gang on a stack: the same mode and number of units, when they can be formed (R220). DESIGN CHOICE
(assumption 115): a unit that was lost counts too, and is given sub-arrays again, while it stays lost. -/
def State.regrant (s : State) (st g : Nat) (x : Gang) : Option (Option Grant) :=
  match x.grant with
  | none => some none
  | some r =>
    let groups := (s.groupsFree st g r.mode).take r.units.length
    if groups.length = r.units.length then
      some (some { r with units := (r.units.zip groups).map (fun p => { p.1 with subs := p.2 }) })
    else none

/-- The waves of a restored gang at their new place. -/
def rehome (waves : List Wave) (slots : List Nat) (k cores now : Nat) : List Wave :=
  waves.mapIdx (fun w v => { v with slot := slots.getD w 0, coreId := k + w % cores, parked := false, progress := now })

/-- The narrowest scope that contains both places of a gang: stacks and first cores (R296). -/
def moveScope (st k st' k' : Nat) : Scope :=
  if st != st' then .pkg else if k / 4 == k' / 4 then .gang else .stack

/-- The release at eviction and the acquire at restore, by every thread of the gang, at a scope (R296): every access
of the gang before comes before every one after. -/
def State.joinGang (s : State) (g : Nat) (sc : Scope) : State :=
  match aget s.gangs g with
  | none => s
  | some x =>
    let all := (x.waves.mapIdx (fun w v => (w, v))).foldl (fun a p =>
      Seen.join (Seen.join a (s.lanesView g p.1 p.2.core 0xFFFFFFFF)) p.2.matoms) []
    s.modGang g (fun y => { y with waves := y.waves.mapIdx (fun w v => v.modCore (fun c => c.mapLanes (fun n l =>
      let out := Seen.join l.know.view [(laneThread g w n, s.history.length)]
      let l := l.acquireFence sc (s.placeOf g w) []
      { l with know := { l.know with view := Seen.join l.know.view all, fenced := l.know.fenced ++ [(sc, out)] } }))) })

/-- The barriers of a restored gang are judged again (R410): entries that wait for a phase that has passed go on. -/
def State.rejudgeBars (s : State) (g : Nat) : State :=
  match aget s.gangs g with
  | none => s
  | some x =>
    let ns := List.range 16
    let t := s.modGang g (fun y => { y with waves := y.waves.mapIdx (fun w v =>
      (ns.flatMap (fun n => [Inst.wave g w n, .gang g n, x.groupInst false n, x.groupInst true n])).foldl
        (fun (v : Wave) i => v.wakeBar i.name (s.getBar i).phase (s.getBar i).passed) v) })
    let t := (List.range x.waves.length).foldl (fun (t : State) w => ns.foldl (fun (t : State) n => t.settle (.wave g w n)) t) t
    ns.foldl (fun (t : State) n => t.settle (.gang g n)) t

/-- A saved gang comes back on the group at core k of a stack, from its image (R410). -/
def State.restoreGang (s : State) (g st k : Nat) (x : Gang) (l : Launch) (grant : Option Grant) (area : Nat) : State :=
  let d := l.desc
  let y := s.restoreImage x d area
  let slots := s.giveSlots st k d
  let banks := s.pickSome 300 d.banks ((s.stack st).freeBanks (k / 4))
  let units := (y.grant.map Grant.units).getD []
  let y : Gang := { y with
    grant := grant.map (fun r => { r with units := (r.units.zip units).map (fun p => { p.2 with subs := p.1.subs }) })
    state := .resident, stack := st, core0 := k, bankList := banks
    waves := s.shelve st (rehome y.waves slots k d.cores (s.stack st).now) }
  let t := (((s.restoreWork g (area + x.image)).modStack st (fun t => t.giveBanks g d banks)).modGang g (fun _ => y)).modLaunch
    x.launch (fun z => z.startsOn st s.history.length)
  let t : State := { t with commands := t.commands.map (fun (p : Nat × Command) =>
      match p.2.owner with
      | .wave h w => if h = g then (p.1, { p.2 with stack := st, cluster := clusterOf (k + w % d.cores) }) else p
      | .queue _ _ => p) }
  ((t.joinGang g (moveScope x.stack x.core0 st k)).rejudgeBars g).slotsReport st

/-- GANG_RESTORE (R296, R410): the first saved gang of its launch goes to its stack, once that stack's now exceeds
every now its waves have read (R29) and its grant can be formed; past D it is killed instead, past T it is diverted
(R330). Held accesses walk again. -/
def execGangRestore (g st : Nat) (s : State) : Host.Outcome State Fault Refusal :=
  match aget s.gangs g with
  | none => .next s
  | some x =>
    match s.launchOf x, aget s.contexts (s.ctxOf x) with
    | some l, some c =>
      let ctx := l.ctx
      let first := ((s.savedGangs ctx).filter (fun p => p.2.launch == x.launch)).head?
      let now := (s.stack st).now
      let lines := s.saveLines ctx c 0 true
      if x.state != .saved || first.map (fun p => p.1) != some g || !s.dispatches ctx || c.resuming.isEmpty ||
          !s.ladderRuns ctx || (s.stack st).sdState || s.restoreStack l x != some st || now ≤ s.readNat (c.saveArea + x.image + 48) 8 then .next s
      else if !lines.isEmpty then .next (s.backInvalidate lines)
      else if l.desc.deadline != 0 && decide (l.desc.deadline ≤ now) then .next (s.killSaved g)
      else match (s.room st).pick l.desc, s.regrant st g x with
      | some k, some grant =>
        (match s.logPlace st k x l with
         | none => .next s
         | some (j, t) =>
           if !(t.room st).fits l.desc j then .next s
           else
             let t := t.restoreGang g st j x l grant c.saveArea
             let t := if l.desc.deadline != 0 && decide (l.desc.flagFall ≤ now) then
                 (t.launchFf x.launch).divertGang g 2
               else t
             .next ((t.replayGang g).settleResume ctx))
      | _, _ => .next s
    | _, _ => .next s

end Sys2Proof.Machine
end

