-- ==== Sys2Proof/Machine/Pages.lean ====
section
/-! DEFINITION. Requests about pages (R397, R398, R401): invalidation, resolving and refusing held accesses, migration. -/
namespace Sys2Proof.Machine

/-! ### INVALIDATE and INVALIDATION_ACK (R397) -/

/-- INVALIDATE (R390, R397): every stack of the partition is asked. -/
def execInvalidate (q : Nat) (s : State) : Host.Outcome State Fault Refusal :=
  .next (s.packet q 38 (fun x i bs =>
    let ctx := pkt bs 8 2
    let va := pkt bs 16 8
    let n := pkt bs 24 4
    let lo := if n = 0 then 0 else va / 65536 * 65536
    let hi := if n = 0 then 2 ^ 64 else lo + 65536 * n
    match s.ownContext x ctx with
    | none => .error 5 0
    | some c =>
      .running { s with invalidations := s.invalidations ++
        [{ queue := q, index := i, ctx := ctx, lo := lo, hi := hi, waiting := s.members c.partition }] }))

/-- A stack drops its translations of a range (R397 step 2). -/
def Stack.dropRange (t : Stack) (ctx lo hi : Nat) : Stack := { t with tlb := t.tlb.drop ctx lo hi }

/-- Some speculating waves roll back. -/
def State.rollbackWaves (s : State) (which : Nat → Gang → Spec → Bool) : State :=
  s.gangs.foldl (fun t p =>
    (p.2.waves.mapIdx (fun w v => (w, v))).foldl (fun t q =>
      if (q.2.spec.map (which p.1 p.2)).getD false then t.rollbackWave p.1 q.1 0x0B0 else t) t) s

/-- The page is in a range. -/
def inRange (lo hi page : Nat) : Bool := decide (lo < page + 65536) && decide (page < hi)

/-- The wave holds an access, its own or one that flag fall left, on a page of these. -/
def Wave.holdsPage (v : Wave) (page : Nat → Bool) : Bool :=
  (v.held.toList ++ v.left.map LeftAccess.access).any (fun h => h.pages.any page)

/-- Accesses of a context on a stack, held on pages of a range, are released to walk again (R397 step 3). -/
def State.releaseHeld (s : State) (ctx st lo hi : Nat) : State :=
  let free := fun (p : Option Nat) => match p with | some x => if inRange lo hi x then none else some x | none => none
  let gangs := (s.gangs.filter (fun p => s.ctxOf p.2 == ctx && p.2.placed && p.2.stack == st)).map (fun p => p.1)
  let waves := gangs.flatMap (fun g =>
    match aget s.gangs g with
    | none => []
    | some x => ((x.waves.mapIdx (fun w v => (w, v))).filter (fun p =>
        p.2.entering || p.2.holdsPage (inRange lo hi))).map (fun p => (g, p.1)))
  let t : State := { s with
    gangs := s.gangs.map (fun p => if gangs.contains p.1 then (p.1, { p.2 with waves := p.2.waves.map (fun (w : Wave) =>
        w.wakeFetch (inRange lo hi) (s.stack st).now) }) else p)
    commands := s.commands.map (fun (p : Nat × Command) => if p.2.ctx == ctx && p.2.stack == st then (p.1, { p.2 with heldPage := free p.2.heldPage }) else p)
    mxops := s.mxops.map (fun (p : Nat × MxOp) => if gangs.contains p.2.gang then (p.1, { p.2 with heldPage := free p.2.heldPage }) else p)
    queues := s.queues.map (fun (p : Nat × Queue) => if p.2.ctx == ctx && p.2.admin.isNone && p.2.home == st then
      (p.1, { p.2 with heldPage := free p.2.heldPage }) else p)
    launches := s.launches.map (fun p => if p.2.ctx == ctx then (p.1, { p.2 with heldPage := free p.2.heldPage }) else p)
    pools := s.pools.map (fun (p : Nat × Pool) =>
      if ((aget s.launches p.2.launch).map Launch.ctx) == some ctx && p.2.home == st then
        (p.1, { p.2 with heldPage := free p.2.heldPage }) else p) }
  waves.foldl (fun (u : State) p => u.replayWave p.1 p.2) t

/-- Accesses of the context from a stack that have begun and are not performed. -/
def State.unperformed (s : State) (ctx st : Nat) : Bool :=
  s.matoms.any (fun m => match aget s.gangs m.gang with | some x => s.ctxOf x == ctx && x.stack == st | none => false)

/-- INVALIDATION_ACK (R397, R298): a stack drops the range, waits until what used it is performed, and acknowledges;
at the last one the request completes. What waves have done speculatively over the range is rolled back, since it
counts as performed later (R301; DESIGN CHOICE, assumption 120). -/
def execInvalidationAck (q st : Nat) (s : State) : Host.Outcome State Fault Refusal :=
  match s.invalidations.find? (fun x => x.queue == q && x.waiting.contains st) with
  | none => .next s
  | some x =>
    let t := (s.modStack st (fun k => k.dropRange x.ctx x.lo x.hi)).rollbackWaves (fun _ g sp =>
      s.ctxOf g == x.ctx && g.stack == st && sp.pages.any (fun p => inRange x.lo x.hi p))
    if s.unperformed x.ctx st then .next t
    else
      let y : Invalidation := { x with waiting := x.waiting.filter (fun k => k != st) }
      let t : State := { t with invalidations := t.invalidations.map (fun z => if z == x then y else z) }
      let t := t.releaseHeld x.ctx st x.lo x.hi
      if !y.waiting.isEmpty then .next t
      else .next ((({ t with invalidations := t.invalidations.filter (fun z => z != y) }).adminEvent q 0x0106 x.ctx
        (natLe 8 x.index)).completePacket q x.index)

/-! ### RESOLVE and REFUSE (R398) -/

/-- The page of a request. -/
def requestPage (bs : List Byte) : Nat := pkt bs 16 8 / 65536 * 65536

/-- No event for the page is pending any more. -/
def State.answered (s : State) (ctx page : Nat) : State :=
  s.modContext ctx (fun c => { c with requested := c.requested.filter (fun p => p != page) })

/-- An access of a page that flag fall left held, and that a route or a host copy still stops. -/
def State.stillLeft (s : State) (ctx page : Nat) : Bool :=
  s.gangs.any (fun p => s.ctxOf p.2 == ctx && p.2.placed && p.2.waves.any (fun w =>
    w.left.any (fun x => x.access.pages.contains page))) &&
  !((aget s.contexts ctx).map (fun c => c.requested.contains page)).getD false

/-- RESOLVE (R390, R398): every held access of the page walks again, in every stack of the partition. -/
def execResolve (q : Nat) (s : State) : Host.Outcome State Fault Refusal :=
  .next (s.packet q 39 (fun x _ bs =>
    let ctx := pkt bs 8 2
    let page := requestPage bs
    match s.ownContext x ctx with
    | none => .error 5 0
    | some c =>
      let t := (s.members c.partition).foldl (fun (u : State) st => u.releaseHeld ctx st page (page + 65536))
        (s.answered ctx page)
      if t.stillLeft ctx page then .blocked t else .done t))

/-- The waves of a context that hold an access of the page. -/
def State.holders (s : State) (ctx page : Nat) : List (Nat × Nat) :=
  (s.gangs.filter (fun p => s.ctxOf p.2 == ctx && p.2.placed)).flatMap (fun p =>
    ((p.2.waves.mapIdx (fun w v => (w, v))).filter (fun q =>
      q.2.entering || q.2.holdsPage (fun x => x == page))).map (fun q => (p.1, q.1)))

/-- The accesses that a wave holds on the page become a translation failure (R398); one that something else stops too
fails at once. -/
def State.refuseWave (s : State) (g w page : Nat) : State :=
  let t := s.replayWave g w
  match aget t.gangs g, t.wave g w with
  | some x, some v =>
    if t.faulted g w || (v.spec.map (fun sp => sp.fault.isSome)).getD false || !v.holdsPage (fun y => y == page) then t
    else
      let keep := fun (h : HeldAccess) => !h.pages.contains page
      (t.setWave g w { v with held := v.held.filter keep, left := v.left.filter (fun y => keep y.access) }).raiseHalt
        (waveHalt t g w x v reasonTranslation v.lastPc (BitVec.ofNat 64 page))
  | _, _ => t

/-- Fetches and monitors of a wave that the page holds fail: a fetch fault, or a fault of MWAIT's read. -/
def State.refuseEntries (s : State) (ctx page : Nat) : State :=
  (s.gangs.filter (fun p => s.ctxOf p.2 == ctx && p.2.placed)).foldl (fun (t : State) p =>
    (p.2.waves.mapIdx (fun w v => (w, v))).foldl (fun (t : State) q =>
      (q.2.core.frontier.mapIdx (fun k e => (k, e))).foldl (fun (t : State) r =>
        match r.2.state with
        | .blocked (.fetch va) =>
          if inRange page (page + 65536) (va.toNat / 65536 * 65536) && !t.faulted p.1 q.1 then
            t.raiseHalt (waveHalt t p.1 q.1 p.2 q.2 reasonTranslation va va)
          else t
        | .blocked (.mwait _ _) =>
          if (q.2.core.waitingLanes r.2).any (fun m => m.2.addr.toNat / 65536 * 65536 == page) && !t.faulted p.1 q.1 then
            t.mwaitLoop p.1 q.1 r.1 false
          else t
        | _ => t) t) t) s

/-- Commands, matrix operations and front ends that the page holds fail. -/
def State.refuseUnits (s : State) (ctx page : Nat) : State :=
  let t := (s.commands.filter (fun p => p.2.ctx == ctx && p.2.heldPage == some page)).foldl (fun (u : State) p =>
    u.commandFault p.1 p.2 reasonTranslation page) s
  let mine := fun (x : MxOp) => x.heldPage == some page && ((aget s.gangs x.gang).map s.ctxOf) == some ctx
  let t := (t.mxops.filter (fun p => mine p.2)).foldl (fun (u : State) p =>
    u.opFault p.1 p.2 reasonTranslation page) t
  (t.pools.filter (fun p => p.2.heldPage == some page)).foldl (fun (u : State) p =>
    match aget u.launches p.2.launch with
    | some x => if x.ctx == ctx then
        (u.modPool p.1 (fun y => { y with heldPage := none })).raiseHalt (u.poolHalt p.2 x reasonTranslation) else u
    | none => u) t

/-- Accesses of queues and of completion records that the page holds count as refused (R451). -/
def State.refuseQueues (s : State) (ctx page : Nat) : State :=
  let ls := s.launches.filter (fun p => p.2.ctx == ctx && p.2.heldPage == some page)
  let owners := ls.map (fun p => p.2.owner.queue)
  { s with
    queues := s.queues.map (fun (p : Nat × Queue) =>
      if (p.2.ctx == ctx && p.2.admin.isNone && p.2.heldPage == some page) || owners.contains p.1 then
        (p.1, { p.2 with heldPage := none, refusedPage := some page }) else p)
    launches := s.launches.map (fun p =>
      if ls.any (fun x => x.1 == p.1) then (p.1, { p.2 with heldPage := none }) else p) }

/-- REFUSE (R390, R398): every held access of the page fails. -/
def execRefuse (q : Nat) (s : State) : Host.Outcome State Fault Refusal :=
  .next (s.packet q 40 (fun x _ bs =>
    let ctx := pkt bs 8 2
    let page := requestPage bs
    match s.ownContext x ctx with
    | none => .error 5 0
    | some _ =>
      let t := (s.answered ctx page).modContext ctx (fun c => { c with refusing := some page })
      let t := (s.holders ctx page).foldl (fun (u : State) p => u.refuseWave p.1 p.2 page) t
      let t := ((t.refuseEntries ctx page).refuseUnits ctx page).refuseQueues ctx page
      .done (t.modContext ctx (fun c => { c with refusing := none }))))

/-! ### MIGRATE_PAGE (R401) -/

/-- Where the leaf of a virtual page stands: its address, itself and its size. -/
def State.leafPlace (s : State) (part st va table : Nat) : List (Nat × Nat × Nat × Option Nat) → Option (Nat × W64 × Nat)
  | [] => none
  | (shift, width, nextAlign, leaf) :: rest =>
    let pa := table + 8 * (va / 2 ^ shift % 2 ^ width)
    let e : W64 := BitVec.ofNat 64 (s.readNat pa 8)
    if !s.reachable part st pa then none
    else match (e.extractLsb' 62 2).toNat, leaf with
    | 1, _ => if entryReserved e || entryAddress e % nextAlign != 0 then none else s.leafPlace part st va (entryAddress e) rest
    | 2, some size => if entryReserved e || entryAddress e % size != 0 then none else some (pa, e, size)
    | _, _ => none

/-- The host's copies of the placement entry of a page (R350). -/
def State.placementLines (s : State) (ctx va : Nat) : List Nat :=
  ((aget s.contexts ctx).map (fun c => s.snoopLines (c.placeTable + 2 * ((va - va % 65536 - c.placeBase) / 65536)) 2 true)).getD []

/-- Write the placement entry of a page, if it has one (R399, R401). -/
def State.writePlacement (s : State) (ctx va : Nat) (f : BitVec 16 → BitVec 16) : State :=
  match s.placement ctx va, aget s.contexts ctx with
  | some e, some c =>
    let idx := (va - va % 65536 - c.placeBase) / 65536
    s.putDevice (c.placeTable + 2 * idx) (natLe 2 (f e).toNat)
  | _, _ => s

/-- The unperformed MATOMs of a page are performed (R401 step 2). -/
def State.performPage (s : State) (pa : Nat) : Nat → State
  | 0 => s
  | fuel + 1 =>
    match s.matoms.findIdx? (fun m => decide (pa ≤ m.pa) && decide (m.pa < pa + 65536)) with
    | none => s
    | some k => ((s.performMatom k).getD s).performPage pa fuel

/-- A page number moved from one 64 KiB page to another, in units of which 64 KiB hold n. -/
def movedTo (n src dst k : Nat) : Nat := if k / n = src / 65536 then dst / 65536 * n + k % n else k

/-- The 65,536 bytes and their poison move, with all that has happened to them (R297, R401 step 3). MATOMs that are
still not performed, and lines that instruction memories hold, follow. -/
def State.copyPage (s : State) (src dst : Nat) : State :=
  { s with
    mem := writeBytes s.mem dst (readBytes s.mem src 65536)
    poison := (List.range 4096).foldl (fun p k =>
      Sparse.set false p (dst / 16 + k) (Sparse.get false s.poison (src / 16 + k))) s.poison
    history := .move src dst :: s.history
    matoms := s.matoms.map (fun m => { m with pa := movedTo 65536 src dst m.pa })
    stackTab := s.stackTab.map (fun t => { t with lines := t.lines.map (fun l => (movedTo 512 src dst l.1, l.2)) }) }

/-- The page moves (R401 steps 1 to 6): migrating and destination are set; its MATOMs, its bytes, its leaf, its
translations and its placement entry follow; what waves have done speculatively on it is rolled back (assumption 120).
-/
def State.migrate (s : State) (ctx part va src dst st place : Nat) (leaf : W64) : State :=
  let t := s.writePlacement ctx va (fun e => (e &&& 0xB0FF#16) ||| 0x4000#16 ||| BitVec.ofNat 16 (st % 16 * 256))
  let t := (t.rollbackWaves (fun _ _ sp =>
    sp.reads.any (fun r => !r.1 && r.2 / 4096 == src / 65536) || sp.stores.any (fun b => !b.spad && b.addr / 65536 == src / 65536)))
  let t := (t.performPage src t.matoms.length).copyPage src dst
  let moved : W64 := (leaf &&& ~~~(BitVec.ofNat 64 (2 ^ 52 - 256))) ||| BitVec.ofNat 64 dst
  let t := t.putDevice place (natLe 8 moved.toNat)
  let t : State := { t with stackTab := t.stackTab.map (fun k => k.dropRange ctx va (va + 65536)) }
  let t := t.writePlacement ctx va (fun e => (e &&& 0xB0F0#16) ||| BitVec.ofNat 16 st)
  (s.members part).foldl (fun (u : State) k => u.releaseHeld ctx k va (va + 65536)) t

/-- MIGRATE_PAGE (R390, R401): a 64 KiB page of local HBM moves to a page of another stack, as one step: accesses that
arrive meanwhile come after the whole move. -/
def execMigratePage (q : Nat) (s : State) : Host.Outcome State Fault Refusal :=
  .next (s.packet q 41 (fun x _ bs =>
    let ctx := pkt bs 8 2
    let va := requestPage bs
    let dst := pkt bs 24 8
    let st := pkt bs 32 1
    match s.ownContext x ctx with
    | none => .error 5 0
    | some c =>
      match s.leafPlace c.partition x.home va c.root walkLevels with
      | none => .error 5 0
      | some (place, leaf, size) =>
        let src := entryAddress leaf
        if size ≠ 65536 || !isLocal src || !isLocal dst || dst % 65536 != 0 || homeStack dst != st ||
            !s.reachable c.partition x.home dst || !s.reachable c.partition x.home (dst + 65535) then .error 5 0
        else
          let lines := s.snoopLines src 65536 true ++ s.snoopLines dst 65536 true ++ s.snoopLines place 8 true ++
            s.placementLines ctx va
          if !lines.isEmpty then .blocked (s.backInvalidate lines)
          else .done ((s.migrate ctx c.partition va src dst st place leaf).adminEvent q 0x0103 ctx
            (natLe 8 va ++ natLe 1 st))))

end Sys2Proof.Machine
end

