-- ==== Sys2Proof/Machine/Halt.lean ====
section
/-! DEFINITION. The halt line reaches the stacks of a partition, whose engines stop and write stop records; and its clear
(R340, R411 to R415). -/
namespace Sys2Proof.Machine

/-! ### What the record of each engine says -/

/-- The contexts whose faults raised the line of a partition. -/
def Partition.ending (p : Partition) : List Nat := (p.faults.map Halt.ctx).eraseDups

/-- The queue processor's record: a queue whose packet it holds. -/
def State.queueRecord (s : State) (st slot : Nat) : Halt × Nat :=
  match (s.queues.map (fun p => p.2)).find? (fun q => q.home == st && q.phase != .idle) with
  | none => (idleHalt st slot, 0)
  | some q => ({ idleHalt st slot with ctx := q.ctx }, 0)

/-- The stack dispatcher's record: the first gang of its batches. -/
def State.dispatchRecord (s : State) (st slot : Nat) : Halt × Nat :=
  match ((s.stack st).batch.head?).bind (aget s.gangs) with
  | none => (idleHalt st slot, 0)
  | some x => ({ idleHalt st slot with ctx := s.ctxOf x, launch := s.launchid x }, 0)

/-- The front ends of a stack that have not ended, with their launches. -/
def State.frontEnds (s : State) (st : Nat) : List (Pool × Launch) :=
  s.pools.filterMap (fun p =>
    if p.2.home == st && !p.2.stopped then (aget s.launches p.2.launch).map (fun x => (p.2, x)) else none)

/-- The record of the front ends as a group (R412): one of a faulting context, or else the one of lowest launchid. -/
def State.poolRecord (s : State) (ending : List Nat) (st slot : Nat) : Halt × Nat :=
  let xs := s.frontEnds st
  let low := xs.foldl (fun (b : Option (Pool × Launch)) x => match b with
    | none => some x
    | some y => if x.2.desc.launchid < y.2.desc.launchid then some x else some y) none
  match (xs.find? (fun x => ending.contains x.2.ctx)).orElse (fun _ => low) with
  | none => (idleHalt st slot, 0)
  | some (p, x) => (s.poolHalt p x 0, 0)

/-- The record of an engine that raised nothing (R411, R414). -/
def State.bystander (s : State) (ending : List Nat) (st slot : Nat) : Halt × Nat :=
  if slot < 16 then s.coreHalt ending st slot (s.coreWaves st slot) 0
  else if slot < 23 then s.commandRecord st slot (fun _ => true)
  else if slot < 27 then s.subRecord st slot (fun _ => true)
  else if slot = 27 then s.queueRecord st slot
  else if slot = 28 then s.dispatchRecord st slot
  else if slot = 29 then s.poolRecord ending st slot
  else (idleHalt st slot, 0)

/-- The slots of a stack (R411). -/
def stopSlots (st : Nat) : List Nat := List.range (if st = 0 ∨ st = 6 then 31 else 30)

/-- The record of a fault: its lanes in flight beside those of the access that failed, and flags [0] and [2] (R414). -/
def State.faultRecord (s : State) (ending : List Nat) (h : Halt) : Halt × Nat :=
  match h.src.bind (fun p => (aget s.gangs p.1).bind (fun x => (x.waves[p.2]?).map (fun v => (p, x, v)))) with
  | some ((g, w), x, v) =>
    let lanes := s.flightLanes ending g w x v
    ({ h with performed := h.performed ||| lanes.1, skipped := h.skipped ||| lanes.2 },
     1 + (if s.accessOpen g w v then 4 else 0))
  | none => (h, 1)

/-! ### HALT_LINE_ARRIVAL (R411) -/

/-- The records of a stack's faults that are not yet written. -/
def State.writeFaults (s : State) (p st : Nat) : State :=
  let x := s.partition p
  let t := (x.faults.filter (fun h => h.stack == st && !h.written)).foldl (fun (u : State) h =>
    let r := s.faultRecord x.ending h
    u.stopRecord r.1 r.2) s
  t.modPartition p (fun y => { y with faults := y.faults.map (fun h => if h.stack == st then { h with written := true } else h) })

/-- The records of a stack's other engines. -/
def State.writeBystanders (s : State) (p st : Nat) : State :=
  let x := s.partition p
  let others := (stopSlots st).filter (fun k => !x.faults.any (fun h => h.stack == st && h.slot == k))
  others.foldl (fun (u : State) k =>
    let r := s.bystander x.ending st k
    u.stopRecord r.1 r.2) s

/-- Gangs of a stack. -/
def State.gangsAt (s : State) (st : Nat) : List Nat :=
  (s.gangs.filter (fun p => p.2.placed && p.2.stack == st)).map (fun p => p.1)

/-- Accesses in flight of the faulting contexts, and those of their engines, are performed or not (R415). -/
def State.decideFlight (s : State) (ending : List Nat) (st : Nat) : State :=
  let gs := (s.gangsAt st).filter (fun g => ((aget s.gangs g).map (fun x => ending.contains (s.ctxOf x))).getD false)
  (s.endMatoms gs).endWork gs

/-- The front ends of a stack, with their numbers and launches. -/
def State.poolsAt (s : State) (st : Nat) : List (Nat × Pool × Launch) :=
  s.pools.filterMap (fun p =>
    if p.2.home == st && !p.2.stopped then (aget s.launches p.2.launch).map (fun x => (p.1, p.2, x)) else none)

/-- The host's copies that the front ends' last writes wait for. -/
def State.poolLines (s : State) (st : Nat) : List Nat :=
  (s.poolsAt st).flatMap (fun p => match s.reach p.2.2.ctx st 0 .engine true (sectorPieces p.2.1.block.toNat 64) with
    | .ok ps => s.recallLines true ps
    | _ => [])

/-- Before it stops, a front end writes consumed, formed and dropped into its control block, as releases at `.sys`
(R412); one whose block cannot be reached writes nothing. -/
def State.poolProgress (s : State) (k : Nat) (p : Pool) (x : Launch) : State :=
  [(8, p.taken), (32, p.raised), (40, p.dropped)].foldl (fun (t : State) w =>
    match t.poolStore k p x .sys w.1 w.2 with
    | .go _ u => u
    | .wait _ => t) s

/-- Every stop record of a partition is written (R411). -/
def State.recordsWritten (s : State) (p : Nat) : Bool :=
  (s.members p).all (fun st => (s.stack st).haltArrived) && (s.partition p).faults.all (fun h => h.written)

/-- The fault event, once every record is written. -/
def State.faultEvent (s : State) (p : Nat) : State :=
  match (s.partition p).faults.head? with
  | none => s
  | some h => s.event 0x0102 h.stack h.ctx (natLe 1 h.reason ++ natLe 1 h.stack ++ natLe 1 h.slot)

/-- HALT_LINE_ARRIVAL (R411 to R415): the engines of a stack stop, their records are written, speculation is
discarded. The host's copies of what they write are recalled first (R350). A fault that comes after the stack has
stopped adds its own record. -/
def execHaltLineArrival (st : Nat) (s : State) : Host.Outcome State Fault Refusal :=
  let k := s.stack st
  let p := k.partNum
  let lines := s.stopLines [st] ++ (if k.haltArrived then [] else s.poolLines st)
  if !k.enable || !(s.partition p).halted || !decide (st < 12) then .next s
  else if !lines.isEmpty then .next (s.backInvalidate lines)
  else if k.haltArrived then
    let t := (s.writeFaults p st).decideFlight (s.partition p).ending st
    .next (if !s.recordsWritten p && t.recordsWritten p then t.faultEvent p else t)
  else
    let t := ((s.writeFaults p st).writeBystanders p st)
    let t := (t.poolsAt st).foldl (fun (u : State) x => u.poolProgress x.1 x.2.1 x.2.2) t
    let t := t.decideFlight (s.partition p).ending st
    let t := (t.gangsAt st).foldl (fun (u : State) g => u.rollbackGang g) t
    let t := t.modStack st (fun x => { x with haltArrived := true })
    .next (if t.recordsWritten p then t.faultEvent p else t)

/-! ### HALT_CLEAR (R413, R415) -/

/-- The line of a partition is low again, and its waves resume: what they waited is no lack of progress. -/
def State.lowerLine (s : State) (p : Nat) : State :=
  let here := s.members p
  let t := s.modPartition p (fun x => { x with faults := [], halted := false })
  { t with
    stackTab := t.stackTab.mapIdx (fun st x => if here.contains st then { x with haltArrived := false } else x)
    gangs := t.gangs.map (fun q => if here.contains q.2.stack then
      (q.1, { q.2 with waves := q.2.waves.map (fun (w : Wave) => { w with progress := (t.stack q.2.stack).now }) }) else q) }

/-- HALT_CLEAR (R415): each faulting context is reset, and the line is lowered; ignored before every record is written. -/
def execHaltClear (st : Nat) (s : State) : Host.Outcome State Fault Refusal :=
  let k := s.stack st
  let p := k.partNum
  if !k.answers || !k.enable || !(s.partition p).halted || !s.recordsWritten p then .next s
  else
    let ending := (s.partition p).ending.filter (fun c => (aget s.contexts c).isSome)
    let lines := ending.flatMap s.resetLines
    if !lines.isEmpty then .next (s.backInvalidate lines)
    else
      let t := ending.foldl (fun (u : State) c => u.resetContext c false) s
      .next ((t.event 0x0108 st 0xFFFF (natLe 1 ending.length)).lowerLine p)

end Sys2Proof.Machine
end

