-- ==== Sys2Proof/Machine/Registers.lean ====
section
/-! DEFINITION. Control-space registers (R6, R7): writes of registers that have no row of their own, CAPBASE, the bank
registers (R277, R278), PARTCFG with the scrub (R387, R389), ring transfers (R388), and what each register reads as
(R6). -/
namespace Sys2Proof.Machine

/-! ### REGISTER_WRITE (R6, R7) -/

/-- Bits hi to lo of a written value. -/
def bitsFrom (v hi lo : Nat) : Nat := v / 2 ^ lo % 2 ^ (hi + 1 - lo)

/-- A value kept within bounds (R354, R358). -/
def bounded (lo hi v : Nat) : Nat := max lo (min hi v)

/-- The first register of a route entry or host window: base, class and valid (R355, R388). -/
def windowBase (hasClass : Bool) (v : Nat) : W64 :=
  BitVec.ofNat 64 (bitsFrom v 51 30 * 2 ^ 30 + (if hasClass then bitsFrom v 2 1 * 2 else 0) + v % 2)

/-- The second register: limit and egress. -/
def windowEnd (hasEgress : Bool) (v : Nat) : W64 :=
  BitVec.ofNat 64 (bitsFrom v 51 30 * 2 ^ 30 + (if hasEgress then bitsFrom v 7 4 * 16 else 0))

/-- One register of a list of pairs written. -/
def writePair (xs : List (W64 × W64)) (k : Nat) (routes : Bool) (v : Nat) : List (W64 × W64) :=
  xs.modify (k / 2) (fun p => if k % 2 = 0 then (windowBase routes v, p.2) else (p.1, windowEnd routes v))

/-- TIMECTL (R358). -/
def Stack.writeTimeCtl (t : Stack) (v : Nat) : Stack :=
  { t with timeInterval := bounded 100 10000 (bitsFrom v 31 16), timeEnable := v.testBit 0 }

/-- CAPCTL (R444): size and mode are set, lost and diverged clear where 1 is written. -/
def Stack.writeCapCtl (t : Stack) (v : Nat) : Stack :=
  { t with
    capSize := bitsFrom v 35 12, capLost := t.capLost && !v.testBit 3, capDiverged := t.capDiverged && !v.testBit 2
    capMode := if 2 ≤ v % 4 then 0 else v % 4 }

/-- Eight bytes of a byte string replaced, which is all zero where it is not listed. -/
def writeWord (bs : List Byte) (size k v : Nat) : List Byte :=
  let full := (bs ++ List.replicate size 0).take size
  full.take (8 * k) ++ natLe 8 v ++ full.drop (8 * k + 8)

/-- The registers of R421, which answer whatever the boot state is. -/
def Stack.writeBoot (t : Stack) (off v : Nat) : Stack :=
  if off = 0x510 then { t with bootArg := BitVec.ofNat 64 v }
  else if off = 0x518 then { t with attArg := BitVec.ofNat 64 v }
  else if 0x520 ≤ off ∧ off < 0x540 then { t with attNonce := writeWord t.attNonce 32 ((off - 0x520) / 8) v }
  else t

/-- The registers that answer once the stack is ready. -/
def Stack.writeReady (t : Stack) (complex : Bool) (off v : Nat) : Stack :=
  if off = 0x210 then (if complex then { t with cpArg := BitVec.ofNat 64 v } else t)
  else if off = 0x308 then { t with stopBase := bitsFrom v 51 11 * 2048 }
  else if 0x400 ≤ off ∧ off < 0x480 then { t with windows := writePair t.windows ((off - 0x400) / 8) false v }
  else if off = 0x710 then { t with policy := v.testBit 0 }
  else if off = 0x720 then t.writeCapCtl v
  else if off = 0x2000 then t.writeTimeCtl v
  else if off = 0x2010 then { t with linkTimeout := bounded 50 64000 (v % 2 ^ 32) }
  else t

/-- REGISTER_WRITE (R6, R7): 64 bits at an offset of a stack's control space. Routes are written by the active complex
alone (R355); registers whose writes are events of their own are left to those; every other offset holds no field that a
write sets. -/
def execRegisterWrite (st off v : Nat) (s : State) : Host.Outcome State Fault Refusal :=
  if off % 8 ≠ 0 then .next s
  else if 0x1000 ≤ off ∧ off < 0x1200 then
    if s.complexRuns && (s.stack st).answers then
      .next (s.modStack st (fun t => { t with routes := writePair t.routes ((off - 0x1000) / 8) true v }))
    else .next s
  else
    let t := s.modStack st (fun t => t.writeBoot off v)
    if (s.stack st).answers then .next (t.modStack st (fun t => t.writeReady (st == 0 || st == 6) off v)) else .next t

/-- CAPBASE_WRITE (R444): the base is set, and the position starts at 0. -/
def execCapbaseWrite (st v : Nat) (s : State) : Host.Outcome State Fault Refusal :=
  if (s.stack st).answers then
    .next (s.modStack st (fun t => { t with capBase := bitsFrom v 51 12 * 4096, capPos := 0 }))
  else .next s

/-! ### Bank modes (R277, R278) -/

/-- A bank after a write of its mode: a free scratchpad bank becomes cache ways at once; a held one does when its gang
leaves; cache ways become a scratchpad bank once they are clean. -/
def Bank.writeMode (b : Bank) (v : Nat) : Bank :=
  if 2 ≤ v % 4 then b
  else { b with mode := v % 4, state := if v % 4 = 0 && b.state == 1 then 0 else b.state }

/-- BANK_MODE_WRITE (R278): a change that is complete at once makes the stack report its free slots. -/
def execBankModeWrite (st cl bank v : Nat) (s : State) : Host.Outcome State Fault Refusal :=
  if (s.stack st).answers && decide (cl < 4 ∧ bank < 64) then
    let t := s.modStack st (fun t => { t with banks := t.banks.modify (64 * cl + bank) (fun b => b.writeMode v) })
    let taken := ((s.stack st).banks[64 * cl + bank]?).any (fun b => b.state == 1 && v % 4 == 0)
    .next (if taken then t.slotsReport st else t)
  else .next s

/-- BANK_MODE_CHANGE_COMPLETE (R278): cache ways that are to be scratchpad have been written back and are free. -/
def execBankModeChangeComplete (st cl bank : Nat) (s : State) : Host.Outcome State Fault Refusal :=
  match (s.stack st).banks[64 * cl + bank]? with
  | none => .next s
  | some b =>
    if decide (cl < 4 ∧ bank < 64) && b.state == 0 && b.mode == 1 then
      .next ((s.modStack st (fun t => { t with banks := t.banks.set (64 * cl + bank) { b with state := 1 } })).slotsReport st)
    else .next s

/-! ### PARTCFG and the scrub (R387, R389) -/

/-- PARTITION_ENABLE (R387, R389): a write of PARTCFG. A stack that joins a partition or leaves one is not enabled, and is
scrubbed; any other write sets the fields alone. -/
def execPartitionEnable (st v : Nat) (s : State) : Host.Outcome State Fault Refusal :=
  let part := min 11 (bitsFrom v 11 8)
  let on := v.testBit 0
  let k := s.stack st
  if !k.answers then .next s
  else
    let serves := k.enable || (k.scrubbing && k.joins)
    let moves := (serves != on) || (on && k.partNum != part)
    .next (s.modStack st (fun t =>
      let t := { t with partNum := part, partMask := BitVec.ofNat 12 (bitsFrom v 23 12) }
      if moves then { t with enable := false, scrubbing := true, joins := on } else t))

/-- The memory of a stack is all zero and clean (R389). -/
def State.zeroStack (s : State) (st : Nat) : State :=
  { s with
    mem := s.mem.filter (fun p => !(isLocal p.1 && homeStack p.1 == st))
    poison := s.poison.filter (fun p => !(isLocal (16 * p.1) && homeStack (16 * p.1) == st))
    history := .fresh .mem (stackSpan * st) (stackSpan * (st + 1)) :: s.history }

/-- An administrative queue's descriptor keeps to R361; its context is none. -/
def State.adminOk (s : State) (part : Nat) (b : List Byte) : Bool :=
  pkt b 0 8 % 4096 == 0 && decide (4 ≤ pkt b 8 1 ∧ pkt b 8 1 ≤ 20) && decide (pkt b 9 1 < 2) &&
  (s.members part).contains (pkt b 12 1) && zeros b 13 16 && pkt b 16 8 % 32 == 0 && zeros b 24 64

/-- Firmware registers the administrative queue of a partition that has none (R390): number and descriptor's address. -/
def State.registerAdmin (s : State) (part aq desc : Nat) : State :=
  let b := readBytes s.mem desc 64
  if (s.partition part).adminQueue.isSome || (aget s.queues aq).isSome || decide (65536 ≤ aq) || !s.adminOk part b then s
  else
    { s.modPartition part (fun p => { p with adminQueue := some aq }) with
      queues := s.queues ++ [(aq, { queueOf b with ctx := 0xFFFF, admin := some part })] }

/-- The first stack of a partition starts it, with its round counter at 0 (R253) and a new key pair (R389). -/
def State.startPartition (s : State) (part : Nat) : State :=
  if (s.members part).isEmpty then
    s.modPartition part (fun p => { p with keys := s.tick + 1, round := 0, roundDue := false })
  else s

/-- A partition that has lost its last stack has no key (R389). -/
def State.dropKey (s : State) (part : Nat) : State :=
  if (s.members part).isEmpty then s.modPartition part (fun p => { p with keys := 0 }) else s

/-- SCRUB_COMPLETE (R389, R390): the stack's memory is zero under a new key; it serves its partition, whose
administrative queue firmware registers. -/
def execScrubComplete (st aq desc : Nat) (s : State) : Host.Outcome State Fault Refusal :=
  let k := s.stack st
  if !k.scrubbing then .next s
  else
    let t := if k.joins then s.startPartition k.partNum else s
    let t := (t.zeroStack st).modStack st (fun x => { x with scrubbing := false, enable := x.joins, joins := false })
    let t := t.dropKey k.partNum
    let t := t.event 0x0109 st 0xFFFF (natLe 1 st)
    .next (if k.joins then (t.registerAdmin k.partNum aq desc).slotsReport st else t)

/-! ### RING_TRANSFER (R388) -/

/-- RING_TRANSFER (R388): a transfer of another partition, or one that a stack with a disagreeing mask or
configuration refuses (R387, R427), is dropped and counted. -/
def execRingTransfer (src dst : Nat) (s : State) : Host.Outcome State Fault Refusal :=
  if src < 12 && dst < 12 && !s.ringOpen src dst then
    .next (s.modStack dst (fun t => { t with droppedTransfers := t.droppedTransfers + 1 }))
  else .next s

/-! ### What the registers read as (R6) -/

/-- A field of a register in its place. -/
def regField (lo v : Nat) : Nat := v * 2 ^ lo

/-- A bit of a register in its place. -/
def flagBit (k : Nat) (b : Bool) : Nat := if b then 2 ^ k else 0

/-- A signed field of n bits. -/
def signedField (n : Nat) (v : Int) : Nat := (v % (2 ^ n : Nat)).toNat

/-- Eight bytes of a byte string of `size` bytes, which is all zero where it is not listed. -/
def readWord (bs : List Byte) (size off : Nat) : Nat := leNat (((padded size bs).drop off).take 8)

/-- One register of a list of pairs. -/
def readPair (xs : List (W64 × W64)) (k : Nat) : Nat :=
  let p := xs.getD (k / 2) (0, 0)
  if k % 2 = 0 then p.1.toNat else p.2.toNat

/-- PARTCFG as it reads (R387). -/
def Stack.partCfg (t : Stack) : Nat := regField 12 t.partMask.toNat + regField 8 t.partNum + flagBit 0 t.enable

/-- BOOTSTAT (R421). -/
def Stack.bootStat (t : Stack) : Nat :=
  regField 32 t.bootConfig.toNat + flagBit 16 t.bootQuote + regField 8 t.bootError + t.bootState

/-- CPSTAT (R384). -/
def Stack.cpStat (t : Stack) : Nat := regField 32 t.cpVersion.toNat + regField 8 t.cpAbort + regField 1 t.cpState + flagBit 0 t.cpRole

/-- TIMESTAT (R359). -/
def Stack.timeStat (t : Stack) : Nat := regField 8 (signedField 32 t.timeOffset) + t.timeState

/-- REPSTAT (R429). -/
def Stack.repStat (t : Stack) : Nat := regField 24 t.cursor + regField 16 t.repLayer + regField 8 t.repChannel + t.repMode

/-- THERMSTAT (R441). -/
def Stack.thermStat (t : Stack) : Nat := regField 32 t.heat + regField 16 (signedField 16 t.tl) + signedField 16 t.td

/-- CAPCTL (R444). -/
def Stack.capCtl (t : Stack) : Nat := regField 12 t.capSize + flagBit 3 t.capLost + flagBit 2 t.capDiverged + t.capMode

/-- BKCFG (R277). -/
def Bank.cfg (b : Bank) : Nat := regField 6 b.state + b.mode

/-- The registers of R421, which answer whatever the boot state is; BOOTCMD reads as 0. -/
def Stack.readBoot (t : Stack) (off : Nat) : Option Nat :=
  if off = 0x500 then some t.bootStat
  else if off = 0x508 then some 0
  else if off = 0x510 then some t.bootArg.toNat
  else if off = 0x518 then some t.attArg.toNat
  else if 0x520 ≤ off ∧ off < 0x540 then some (readWord t.attNonce 32 (off - 0x520))
  else if 0x600 ≤ off ∧ off < 0x640 then some (readWord t.idpub 64 (off - 0x600))
  else if 0x800 ≤ off ∧ off < 0x1000 then some (readWord t.helper 2048 (off - 0x800))
  else none

/-- The registers of dispatch, complexes and the halt line; what a write triggers reads as 0. -/
def State.readControl (s : State) (st off : Nat) : Option Nat :=
  let t := s.stack st
  if off = 0 then some t.partCfg
  else if off = 0x100 then some (flagBit 1 t.sdState + flagBit 0 t.sdMode)
  else if off = 0x200 ∧ (st = 0 ∨ st = 6) then some t.cpStat
  else if off = 0x208 ∧ (st = 0 ∨ st = 6) then some 0
  else if off = 0x210 ∧ (st = 0 ∨ st = 6) then some t.cpArg.toNat
  else if off = 0x300 then some (flagBit 0 (s.partition t.partNum).halted)
  else if off = 0x308 then some t.stopBase
  else if 0x400 ≤ off ∧ off < 0x480 then some (readPair t.windows ((off - 0x400) / 8))
  else none

/-- The registers of repair, heat, capture, routes, time and counters. -/
def Stack.readUnits (t : Stack) (st off : Nat) : Option Nat :=
  if off = 0x700 then some t.capacity
  else if off = 0x708 then some t.repStat
  else if off = 0x710 then some (flagBit 0 t.policy)
  else if off = 0x718 then some t.thermStat
  else if off = 0x720 then some t.capCtl
  else if off = 0x728 then some t.capBase
  else if off = 0x730 then some t.capPos
  else if 0x1000 ≤ off ∧ off < 0x1200 then some (readPair t.routes ((off - 0x1000) / 8))
  else if off = 0x1200 then some (flagBit 1 t.frozen + flagBit 0 t.freeze)
  else if off = 0x2000 then some (regField 16 t.timeInterval + flagBit 0 t.timeEnable)
  else if off = 0x2008 then some t.timeStat
  else if off = 0x2010 then some t.linkTimeout
  else if 0x2100 ≤ off ∧ off < 0x2160 ∧ (st = 0 ∨ st = 6) then some (t.evring.getD ((off - 0x2100) / 8) 0).toNat
  else if 0x10000 ≤ off ∧ off < 0x100E8 then some (Sparse.get 0 t.counters (off - 0x10000)).toNat
  else none

/-- A bank's register, four bytes apart (R277). -/
def Stack.readBank (t : Stack) (off : Nat) : Option Nat :=
  let cl := (off - 0x100000) / 0x1000
  let bank := off % 0x1000 / 4
  if 0x100000 ≤ off ∧ off < 0x104000 ∧ bank < 64 then (t.banks[64 * cl + bank]?).map Bank.cfg else none

/-- A read of a stack's control space (R6, R420): the register at an offset, if one is there and answers. It changes
nothing: the one field that a read clears is QST's (R207). -/
def State.readRegister (s : State) (st off : Nat) : Option W64 :=
  let t := s.stack st
  let v :=
    if off % 8 = 4 ∧ 0x100000 ≤ off then (if t.answers then t.readBank off else none)
    else if off % 8 ≠ 0 then none
    else match t.readBoot off with
    | some v => some v
    | none => if !t.answers then none else ((s.readControl st off).or (t.readUnits st off)).or (t.readBank off)
  v.map (BitVec.ofNat 64)

end Sys2Proof.Machine
end

