-- ==== Sys2Proof/Machine/Links.lean ====
section
/-! DEFINITION. The CXL ports (R349 to R360): failed links and timeouts, routes that freeze, the clocks, and what the host
does to the package's memory. -/
namespace Sys2Proof.Machine

/-! ### Failed accesses (R354) -/

/-- A load that completes poisoned: registers 0 and marked. -/
def PendingLoad.failed (p : PendingLoad) : PendingLoad :=
  { p with writes := p.writes.map (fun (x : RegWrite) => { x with val := 0, mark := true }) }

/-- Some loads of a wave land poisoned. -/
def Wave.failLoads (w : Wave) (which : PendingLoad → Bool) : Wave :=
  let v := (w.loads.filter which).foldl (fun (v : Wave) p => { v.landLoad v.loads.length p.failed with loads := v.loads }) w
  { v with loads := w.loads.filter (fun p => !which p) }

/-- The bytes of a failed access to system memory are unknown, and an event gives the address (R354). -/
def State.failBytes (s : State) (port pa size : Nat) : State :=
  (s.put (s.hostAgent.author false s.history.length 4) pa ((List.range size).map (fun k => Config.freeByte s.tick (pa + k)))
    false).event 0x0222 port 0xFFFF (natLe 8 pa ++ natLe 1 port)

/-- Some accesses of a wave complete as R354 gives: a load poisoned, a store or atomic acknowledged with error. -/
def State.failWave (s : State) (g w : Nat) (load : PendingLoad → Bool) (store : PendingStore → Bool) : State :=
  match s.wave g w with
  | none => s
  | some v =>
    let t := s.setWave g w { v.failLoads load with stores := v.stores.filter (fun p => !store p) }
    (v.stores.filter store).foldl (fun (u : State) p => u.failBytes (p.port.getD 0) p.pa p.size) t

/-- The egress stack of a line of system memory, by the routes of the stack that holds it. -/
def State.lineEgress (s : State) (l : DevLine) : Option Nat :=
  l.copies.findSome? (fun c => (s.stack c.1).egress (128 * l.line))

/-- The line is dirty in the package (R352). -/
def DevLine.dirty (l : DevLine) : Bool := l.copies.any (fun c => c.2 == .m || c.2 == .o)

/-- The write-back of a dirty line is lost with its data (R354). -/
def State.loseLine (s : State) (port : Nat) (l : DevLine) : State :=
  ({ s with devLines := s.devLines.filter (fun x => x != l) }).failBytes port (128 * l.line) 128

/-- Lines of a port's destination: clean copies are invalidated everywhere; a dirty line whose write-back is under way
loses its data. -/
def State.failLines (s : State) (port : Nat) : State :=
  let mine := s.devLines.filter (fun l => s.lineEgress l == some port)
  let lost := mine.filter (fun l => l.dirty && s.chooseAt [39, l.line] 2 == 1)
  let kept := (mine.filter (fun l => l.dirty && !lost.contains l)).map (fun (l : DevLine) =>
    { l with copies := l.copies.filter (fun c => c.2 == .m || c.2 == .o) })
  let t : State := { s with devLines := s.devLines.filter (fun l => !mine.contains l) ++ kept }
  lost.foldl (fun (u : State) l => u.loseLine port l) t

/-- The reads of engines' commands that a failed link leaves without an answer (R354): those of any command in
progress. -/
def State.failReads (s : State) : State :=
  { s with commands := s.commands.map (fun p =>
      if p.2.state == .started && s.chooseAt [38, p.1] 2 == 1 then (p.1, { p.2 with late := true }) else p) }

/-- A back-invalidation ends with the host copy lost (R350): a line that was in M is poisoned, sector by sector, and an
event gives its address. -/
def State.loseCopy (s : State) (st : Nat) (x : SnoopLine) : State :=
  let pa := 128 * x.line
  let t := s.modStack st (fun k => { k with snoops := k.snoops.filter (fun y => y.line != x.line) })
  let t := if x.dirty then t.put (t.hostAgent.author false t.history.length 2) pa (readBytes t.mem pa 128) true else t
  t.event 0x0221 st 0xFFFF (natLe 8 pa)

/-- The back-invalidations that a stack waits for end so. -/
def State.loseCopies (s : State) (st : Nat) : State :=
  ((s.stack st).snoops.filter (fun x => x.waiting)).foldl (fun (u : State) x => u.loseCopy st x) s

/-- The link of a port is down (R354, R350): what was sent on it fails. -/
def State.failPort (s : State) (st : Nat) : State :=
  let t := s.modStack st (fun k => { k with linkUp := false })
  let t := t.allWaves.foldl (fun (u : State) p => u.failWave p.1 p.2
    (fun x => x.port == some st && !x.returned) (fun x => x.port == some st && !x.returned)) t
  (t.failReads.failLines st).loseCopies st

/-- LINK_DOWN (R354). -/
def execLinkDown (st : Nat) (s : State) : Host.Outcome State Fault Refusal :=
  if (s.stack st).linkUp && decide (st < 12) then .next (s.failPort st) else .next s

/-- VIRAL_RECEIVED (R354): it counts as link down. -/
def execViralReceived (st : Nat) (s : State) : Host.Outcome State Fault Refusal :=
  if (s.stack st).linkUp && decide (st < 12) then .next (s.failPort st) else .next s

/-- LINK_UP (R348, R360). -/
def execLinkUp (st : Nat) (s : State) : Host.Outcome State Fault Refusal :=
  .next (s.modStack st (fun k => { k with linkUp := true }))

/-- COMPLETION_TIMEOUT (R354, R350): one access that has been sent on a port has taken longer than LINKTO. -/
def execCompletionTimeout (x : Outstanding) (s : State) : Host.Outcome State Fault Refusal :=
  match x with
  | .load g w k =>
    .next (s.atWave g w (fun _ v =>
      match v.loads[k]? with
      | some p => if p.port.isSome && !p.returned then s.setWave g w (v.landLoad k p.failed) else s
      | none => s))
  | .store g w k =>
    .next (s.atWave g w (fun _ v =>
      match v.stores[k]? with
      | some p =>
        (match p.port with
         | some port =>
           if p.returned then s
           else (s.setWave g w { v with stores := v.stores.eraseIdx k }).failBytes port p.pa p.size
         | none => s)
      | none => s))
  | .snoop st line =>
    match (s.stack st).snoops.find? (fun y => y.line == line && y.waiting) with
    | some y => .next (s.loseCopy st y)
    | none => .next s
  | .engine k => .next (s.modCommand k (fun y => { y with late := y.late || y.state == .started }))
  | .line n =>
    match s.devLines.find? (fun l => l.line == n && l.dirty) with
    | some l => .next (s.loseLine ((s.lineEgress l).getD 0) l)
    | none => .next s

/-! ### Routes (R356, R357) -/

/-- The requests of a stack's waves that have not been sent go back to their origin queue (R356). -/
def State.returnRequests (s : State) (st : Nat) : State :=
  s.allWaves.foldl (fun (t : State) p =>
    if ((aget t.gangs p.1).map Gang.stack) = some st then
      t.modWave p.1 p.2 (fun v => { v with
        loads := v.loads.mapIdx (fun k x =>
          { x with returned := x.returned || (x.port.isSome && s.chooseAt [34, p.1, p.2, 0, k] 2 == 1) })
        stores := v.stores.mapIdx (fun k x =>
          { x with returned := x.returned || (x.port.isSome && s.chooseAt [34, p.1, p.2, 1, k] 2 == 1) }) })
    else t) s

/-- Returned requests of a stack's waves are sent once more, by the routes that stand now; one that fails again
completes as R354 gives (R356). -/
def State.resendRequests (s : State) (st : Nat) : State :=
  let goes := fun (t : State) (pa : Nat) => ((t.stack st).egress pa).isSome && !t.portDown st pa
  s.allWaves.foldl (fun (t : State) p =>
    if ((aget t.gangs p.1).map Gang.stack) = some st then
      (t.failWave p.1 p.2 (fun x => x.returned && !goes t x.addr) (fun x => x.returned && !goes t x.pa)).modWave p.1 p.2
        (fun v => { v with
          loads := v.loads.map (fun x => if x.returned then { x with port := (t.stack st).egress x.addr, returned := false } else x)
          stores := v.stores.map (fun x =>
            if x.returned then { x with port := (t.stack st).egress x.pa, returned := false } else x) })
    else t) s

/-- ROUTE_FREEZE (R356, R357): the stack sends no new system request, and what it has not sent returns. -/
def execRouteFreeze (st : Nat) (s : State) : Host.Outcome State Fault Refusal :=
  if s.complexRuns && (s.stack st).answers then
    .next ((if (s.stack st).freeze then s else s.returnRequests st).modStack st (fun k => { k with freeze := true, frozen := true }))
  else .next s

/-- ROUTE_UNFREEZE (R356, R357): sending resumes by the entries that stand now, returned requests first; once no stack is
frozen the active complex raises the route-change event. -/
def execRouteUnfreeze (st retired : Nat) (s : State) : Host.Outcome State Fault Refusal :=
  if s.complexRuns && (s.stack st).answers && (s.stack st).freeze then
    let t := (s.modStack st (fun k => { k with freeze := false, frozen := false })).resendRequests st
    if t.stackTab.any (fun k => k.freeze) then .next t
    else .next (t.event 0x0005 s.activeStack 0xFFFF (natLe 1 retired))
  else .next s

/-! ### Time (R358 to R360) -/

/-- Nanoseconds that make an exchange a good one. -/
def goodOffset : Nat := 50

/-- An offset as TIMESTAT holds it. -/
def saturated (n : Int) : Int := max (-(2 ^ 31 - 1)) (min (2 ^ 31 - 1) n)

/-- The runs of good and bad exchanges after one with this offset; a state change starts them again. `near` says that
the clock lies within 100 ns of every locked one: without that it is not locked (assumption 117). -/
def Stack.judgeOffset (t : Stack) (near : Bool) (offset : Int) : Stack :=
  let good := decide (offset.natAbs ≤ goodOffset)
  let t := { t with
    timeOffset := saturated offset
    goodRun := if good then t.goodRun + 1 else 0
    badRun := if good then 0 else t.badRun + 1
    lastExchange := t.now }
  let enter := fun (x : Nat) => { t with timeState := x, goodRun := 0, badRun := 0 }
  match t.timeState with
  | 1 => if 8 ≤ t.goodRun && near then enter 2 else t
  | 2 => if 4 ≤ t.badRun then enter 3 else t
  | 3 => if 8 ≤ t.goodRun && near then enter 2 else t
  | _ => t

/-- A clock lies within 100 ns of every locked clock of the package (R319, R360). -/
def State.nearLocked (s : State) (now : Nat) : Bool :=
  s.stackTab.all (fun t => t.timeState != 2 || (decide (now ≤ t.now + 100) && decide (t.now ≤ now + 100)))

/-- An exchange may complete: they are enabled, the link is up and the interval has passed. -/
def Stack.exchanges (t : Stack) : Bool :=
  t.answers && t.timeEnable && t.linkUp && (t.timeState == 0 || decide (t.lastExchange + 1000 * t.timeInterval ≤ t.now))

/-- Holdover or relock sends an event (R360). -/
def State.timeEvent (s : State) (st old : Nat) : State :=
  let new := (s.stack st).timeState
  if old ≠ new ∧ (new = 3 ∨ old = 3) then s.event 0x0006 st 0xFFFF (natLe 1 new) else s

/-- PTM_EXCHANGE (R358, R360): the host's clock reads `master`, which never goes back. The first exchange steps now
forward to it; each gives the offset and moves the state. -/
def execPtmExchange (st master : Nat) (s : State) : Host.Outcome State Fault Refusal :=
  let k := s.stack st
  if !k.exchanges then .next s
  else
    let m := max s.master master
    let t := ({ s with master := m }).modStack st (fun t =>
      let first := t.timeState == 0
      let t := if first then { t with now := max t.now m, timeState := 1 } else t
      t.judgeOffset (s.nearLocked t.now) ((m : Int) - (k.now : Int)))
    .next (t.timeEvent st k.timeState)

/-- PTM_HOLDOVER_TIMEOUT (R360): 16 ms in state 2 without an exchange. -/
def execPtmHoldoverTimeout (st : Nat) (s : State) : Host.Outcome State Fault Refusal :=
  let k := s.stack st
  if k.timeState = 2 ∧ k.lastExchange + 16000000 ≤ k.now then
    .next ((s.modStack st (fun t => { t with timeState := 3, goodRun := 0, badRun := 0 })).timeEvent st 2)
  else .next s

/-! ### The host's requests (R349, R350, R352) -/

/-- The bytes lie in a host window of the stack and in its backed memory (R349, R388, R429). -/
def State.hostMay (s : State) (st pa size : Nat) : Bool :=
  isLocal pa && homeStack pa == st && decide (pa % stackSpan + size ≤ (s.stack st).capacity) &&
  (s.stack st).windows.any (fun e => has e.1 0 && windowHolds e pa)

/-- What the snoop filter holds of a line after a host request. -/
def Stack.filterLine (t : Stack) (line : Nat) (entry : Option SnoopLine) : Stack :=
  { t with snoops := t.snoops.filter (fun x => x.line != line) ++ entry.toList }

/-- What an access of an agent outside is besides `.sys`: a release or an acquire, or neither, as CXL.mem orders it
(R349). -/
def State.hostOrder (s : State) : Bool := s.chooseAt [36] 2 == 1

/-- A write of an agent outside the package (R282, R348): bytes, with the poison indicator of their flits. -/
def State.hostWrite (s : State) (pa : Nat) (bs : List Byte) (poison : Bool) (point : Nat) : State :=
  s.put (s.hostAgent.author s.hostOrder s.history.length point) pa bs poison

/-- What a read of the host tells it: the releases that it meets at each sector. -/
def State.hostRead (s : State) (pa size : Nat) : State :=
  (sectorRuns size pa (List.replicate size 0)).foldl (fun (t : State) r =>
    { t with hostKnow := t.hostAgent.learn s.hostOrder (t.observe t.hostAgent [40] .mem r.1 r.2.length).tops }) s

/-- The filter has no room for another line of the host's: how many it holds is the device's (R350). -/
def State.filterFull (s : State) (st line : Nat) : Bool :=
  !(s.stack st).snoops.any (fun x => x.line == line) && !(s.stack st).snoops.isEmpty && s.chooseAt [37] 2 == 1

/-- The line that a full filter gives up: the least recently filled. -/
def Stack.victim (t : Stack) : List Nat := (t.snoops.take 1).map (fun x => x.line)

/-- HOST_MEM_REQUEST (R349, R350): one request within a line. A read leaves the host with a copy, its own to write when it
asks so; a write leaves it one only when it asks. A copy that finds the filter full waits until a victim line has been
back-invalidated. Outside the host windows a read is answered with poison and a write is dropped, with an event. -/
def execHostMemRequest (st : Nat) (wr own : Bool) (addr size data : Nat) (s : State) (poison : Bool := false) :
    Host.Outcome State Fault Refusal :=
  if !(s.stack st).linkUp || decide (12 ≤ st) || size = 0 || decide (128 < addr % 128 + size) then .next s
  else if !s.hostMay st addr size then
    .next (s.event 0x0220 st 0xFFFF (natLe 8 addr ++ natLe 1 (if wr then 1 else 0)))
  else
    let line := addr / 128
    let keeps := !wr || own
    if keeps && s.filterFull st line then .next (s.backInvalidate (s.stack st).victim)
    else
      let t := if wr then s.hostWrite addr (natLe size data) poison 2 else s.hostRead addr size
      let entry : Option SnoopLine := if keeps then some ⟨line, own && !wr, false⟩ else none
      .next (t.modStack st (fun k => k.filterLine line entry))

/-- BACK_INVALIDATION_RESPONSE (R350): the host gives a line back, with the data it wrote; the access that waits for it is
performed when it is tried next. -/
def execBackInvalidationResponse (st line : Nat) (dirty : Bool) (data : Nat) (s : State) (poison : Bool := false) :
    Host.Outcome State Fault Refusal :=
  if (s.stack st).linkUp && (s.stack st).snoops.any (fun x => x.line == line && x.waiting) then
    let t := s.modStack st (fun k => k.filterLine line none)
    .next (if dirty then t.hostWrite (128 * line) (natLe 128 data) poison 2 else t)
  else .next s

/-- The device cache after a snoop of a port's line: every copy invalidated, or downgraded. -/
def State.snoopDown (s : State) (st line : Nat) (inv : Bool) : State :=
  { s with devLines := s.devLines.filterMap (fun l =>
      if l.line == line && s.lineEgress l == some st then
        if inv then none else some { l with copies := l.copies.map (fun c => (c.1, Moesi.s)) }
      else some l) }

/-- HOST_SNOOP (R352): every copy of the line is invalidated or downgraded, and the host has the data. An agent
outside that has invalidated every copy may then write the line (R282), and a shelf of pool memory that fails leaves
poison there (R354): `size` bytes at offset `off`; none where `size` is 0. -/
def execHostSnoop (st line : Nat) (inv : Bool) (s : State) (off size data : Nat := 0) (poison : Bool := false) :
    Host.Outcome State Fault Refusal :=
  if !(s.stack st).linkUp then .next s
  else
    let t := s.snoopDown st line inv
    if inv && size != 0 && decide (off + size ≤ 128) && !isLocal (128 * line) && decide (128 * line < 2 ^ 52) &&
        !t.devLines.any (fun l => l.line == line) then
      .next (t.hostWrite (128 * line + off) (natLe size data) poison 4)
    else .next t

end Sys2Proof.Machine
end

