-- ==== Sys2Proof/Machine/Boot.lean ====
section
/-! DEFINITION. Power-up, boot, identity and attestation (R420 to R428). -/
namespace Sys2Proof.Machine

/-! ### POWER_UP (R420) -/

/-- A partition with no stack left is gone, with what firmware and queues held for it: nothing survives power-off (R6,
R389). -/
def State.dropPartition (s : State) (p : Nat) : State :=
  let gone := fun (c : Nat) => (aget s.contexts c).any (fun x => x.partition == p)
  let ls := (s.launches.filter (fun l => gone l.2.ctx)).map (fun l => l.1)
  let gs := (s.gangs.filter (fun g => ls.contains g.2.launch)).map (fun g => g.1)
  { s with
    partitions := s.partitions.set p Partition.reset
    contexts := s.contexts.filter (fun c => !gone c.1)
    queues := s.queues.filter (fun q => !(gone q.2.ctx || q.2.admin == some p))
    launches := s.launches.filter (fun l => !ls.contains l.1)
    gangs := s.gangs.filter (fun g => !gs.contains g.1)
    commands := s.commands.filter (fun c => !gone c.2.ctx)
    mxops := s.mxops.filter (fun x => !gs.contains x.2.gang)
    matoms := s.matoms.filter (fun m => !gs.contains m.gang)
    pools := s.pools.filter (fun x => !ls.contains x.2.launch)
    reservations := s.reservations.filter (fun r => !gs.contains r.2.gang)
    invalidations := s.invalidations.filter (fun i => !gone i.ctx) }

/-- What ran in a stack is gone: its gangs, its engines, its queue processors and its device cache. -/
def State.dropStack (s : State) (st : Nat) : State :=
  let gs := s.gangsAt st
  { s with
    gangs := s.gangs.map (fun p => if gs.contains p.1 then
      (p.1, { p.2 with state := .done, waves := [], spad := [], spadPoison := [], fifos := [], grant := none, bankList := [] }) else p)
    queues := s.queues.filter (fun q => q.2.home != st)
    commands := s.commands.filter (fun p => p.2.stack != st && !(match p.2.owner with | .wave g _ => gs.contains g | .queue _ _ => false))
    mxops := s.mxops.filter (fun p => !gs.contains p.2.gang)
    matoms := s.matoms.filter (fun m => !gs.contains m.gang)
    pools := s.pools.filter (fun p => p.2.home != st)
    rings := s.rings.filter (fun r => !(isLocal r.block && homeStack r.block == st))
    reservations := s.reservations.filter (fun r => r.2.stack != st)
    devLines := s.devLines.map (fun (l : DevLine) => { l with copies := l.copies.filter (fun c => c.1 != st) }) }

/-- A complex that loses power: of the standby, a castling that it was to end aborts; of the active complex, what it
numbers, the rings that it writes and its handover are gone, and the next to boot starts anew (R380, R381). -/
def State.dropComplex (s : State) (st : Nat) : State :=
  if st ≠ s.activeStack then (if st = s.standbyStack ∧ s.castling.isSome then s.castlingAborts 2 else s)
  else
    { s with
      castling := none, waitingEvents := [], seq := 1, rings := [], cpKnow := Know.start []
      partitions := s.partitions.map (fun p => { p with evValid := false, evBlock := 0, evDropped := 0 }) }

/-- POWER_UP (R420): the stack's registers and units are at reset, what ran there is gone, and so are the bytes of its
memory, which are unknown and unreadable until a scrub. -/
def execPowerUp (st : Nat) (s : State) : Host.Outcome State Fault Refusal :=
  let part := (s.stack st).partNum
  let served := (s.stack st).enable
  let t := ((s.dropComplex st).dropStack st).zeroStack st
  let t : State := { t with stackTab := t.stackTab.set st Stack.reset, cur := none }
  .next (if served && (t.members part).isEmpty then t.dropPartition part else t)

/-! ### BOOT_LOAD_CONFIG (R423 to R427) -/

/-- A configuration failure (R423): the code, state 6, and nothing of the image is kept. A fence stays until the stack
powers off (R317). -/
def Stack.bootFails (t : Stack) (code : Nat) : Stack :=
  { t with
    bootError := code, bootState := 6, bootConfig := 0, minFirmware := 0, configHash := 0, configDigest := 0, bootMap := [] }

/-- What a stack takes from a verified configuration image: version, digests, minimum firmware and its own section. -/
def Stack.takeConfig (t : Stack) (st : Nat) (image : List Byte) : Stack :=
  { t with
    bootConfig := BitVec.ofNat 32 (pkt image 8 4), minFirmware := pkt image 12 4, configHash := sha256 image
    configDigest := BitVec.ofNat 256 (beNat ((image.drop 32).take 32)), bootMap := section_ st image }

/-- The stack applies its repair map (R317, R424, R427, R438): fences beside those that self-test has made, spare
rows, and the one repair of the boot. -/
def Stack.applyMap (t : Stack) : Stack :=
  let b := t.bootMap
  let t := { t with
    bootMap := [], fenced := t.fenced ||| BitVec.ofNat 4 (pkt b 2052 1), layersOut := BitVec.ofNat 16 (pkt b 2050 2)
    spareRows := (List.range 16).map (fun k =>
      if pkt b (2056 + 2 * k) 2 = 0xFFFF then t.spareRows.getD k 0xFFFF else pkt b (2056 + 2 * k) 2) }
  match sectionChannel b, sectionLayers b with
  | some f, _ => { t with repMode := 2, repChannel := f }
  | none, n :: _ => { t with repMode := 4, repLayer := n, capacity := 0xF00000000 }
  | none, [] => t

/-- The section or the image asks for enrolment (R422, R424). -/
def enrols (st : Nat) (image : List Byte) : Bool :=
  zeros image 32 64 || zeros (section_ st image) 0 2048

/-- Identity (R425, R426): the seed that the fingerprint gives with the image's helper data, or with helper data made
now, which HELPER then shows; the private key from the seed, and its public key in IDPUB. -/
def Stack.takeIdentity (t : Stack) (st : Nat) (image : List Byte) : Stack :=
  let new := padded 2048 (Config.helper st)
  let enrol := enrols st image
  match Config.seed st (if enrol then new else (section_ st image).take 2048) with
  | none => t.bootFails 6
  | some seed =>
    let d := privateKey seed
    let t := { t.takeConfig st image with secret := d, idpub := publicKey d, bootSince := t.now }
    if enrol then { t with helper := new, bootState := 5 } else { t with bootState := 2 }

/-- The image that command 1 names is verified, and identity follows, or the failure (R423). -/
def State.verified (s : State) (st : Nat) : State :=
  match s.readImage st 2 (s.stack st).bootArg.toNat with
  | .wait lines => s.backInvalidate lines
  | .error code => s.modStack st (fun x => x.bootFails code)
  | .ok image => s.modStack st (fun x => x.takeIdentity st image)

/-- BOOT_LOAD_CONFIG (R421, R423, R427): command 1, obeyed in states 0 and 6, starts verifying; then, with `done`, the
end of what the boot is at: the verification of state 1, or the self-test of state 3, after which the stack is ready
with SDMODE still 1. -/
def execBootLoadConfig (st : Nat) (s : State) (done : Bool := false) : Host.Outcome State Fault Refusal :=
  let state := (s.stack st).bootState
  if 12 ≤ st then .next s
  else if !done then
    .next (if state == 0 || state == 6 then s.modStack st (fun x => { x with bootState := 1 }) else s)
  else if state == 1 then .next (s.verified st)
  else if state == 3 then .next (s.modStack st (fun x => { x with bootState := 4, sdMode := true, sdState := true }))
  else .next s

/-- The identity keys of the twelve stacks, if all are published. -/
def State.allKeys (s : State) : Option (List Byte) :=
  if s.stackTab.all (fun t => t.idpub.length == 64) then some (s.stackTab.flatMap (fun t => t.idpub)) else none

/-- IDPUB_RECEIVED (R425, R427): the other stacks' keys have arrived. When the digest matches, the stack applies its
repair map and is in self-test. -/
def execIdpubReceived (st : Nat) (s : State) : Host.Outcome State Fault Refusal :=
  match (s.stack st).bootState, s.allKeys with
  | 2, some keys =>
    .next (s.modStack st (fun t =>
      if sha256 keys = t.configDigest then { t.applyMap with bootState := 3 } else t.bootFails 5))
  | _, _ => .next s

/-- IDPUB_TIMEOUT (R425): 100 ms without the other stacks' keys. -/
def execIdpubTimeout (st : Nat) (s : State) : Host.Outcome State Fault Refusal :=
  let t := s.stack st
  if t.bootState = 2 ∧ s.allKeys = none ∧ t.bootSince + 100000000 ≤ t.now then
    .next (s.modStack st (fun x => x.bootFails 5))
  else .next s

/-! ### Attestation (R428) -/

/-- The digest of a complex's firmware image. -/
def firmwareHash (t : Option Stack) : List Byte :=
  match t with
  | some k => beBytes 32 (sha256 k.cpImage).toNat
  | none => List.replicate 32 0

/-- Bytes 0 to 319 of a stack's quote. -/
def State.quoteBody (s : State) (st : Nat) : List Byte :=
  let t := s.stack st
  let a := s.stack s.activeStack
  let b := s.stack s.standbyStack
  let active := if a.cpState = 4 then some a else none
  let standby := if b.cpState = 2 then some b else none
  let version := fun (k : Option Stack) => natLe 4 ((k.map (fun x => x.cpVersion.toNat)).getD 0)
  natLe 4 0x544F5551 ++ natLe 1 st ++ natLe 3 0 ++ natLe 8 t.now ++ padded 32 t.attNonce ++
  beBytes 32 t.configHash.toNat ++ firmwareHash active ++ firmwareHash standby ++
  natLe 4 t.bootConfig.toNat ++ version active ++ version standby ++
  natLe 1 (if active.isSome then s.activeStack else 0xFF) ++ natLe 3 0 ++
  s.stackTab.flatMap (fun k => natLe 4 k.partCfg) ++ padded 64 t.idpub ++ natLe 48 0

/-- The quote that a stack samples and signs now (R428): bytes 0 to 319 and its identity key's signature over them. -/
def State.sampleQuote (s : State) (st : Nat) : State :=
  let body := s.quoteBody st
  s.modStack st (fun x => { x with quote := body ++ ecdsaSign x.secret ((List.range 8).map (Config.secret s.tick)) body })

/-- BOOT_PRODUCE_QUOTE (R421, R428): command 2, obeyed in states 4 and 5 while no quote is pending. A quote is pending
from then on; its sample waits for a castling handover to end. -/
def execBootProduceQuote (st : Nat) (s : State) : Host.Outcome State Fault Refusal :=
  let t := s.stack st
  if !(t.bootState == 4 || t.bootState == 5) || t.bootQuote then .next s
  else
    let t := s.modStack st (fun x => { x with bootQuote := true, quote := [] })
    .next (if s.castling.isSome then t else t.sampleQuote st)

/-- QUOTE_WRITE_COMPLETE (R428): the quote is sampled, if castling kept it from that; else it is in the buffer and
acknowledged, or its write has failed, and no quote is pending. -/
def execQuoteWriteComplete (st : Nat) (ok : Bool) (s : State) : Host.Outcome State Fault Refusal :=
  let t := s.stack st
  if !t.bootQuote then .next s
  else if t.quote.isEmpty then .next (if s.castling.isSome then s else s.sampleQuote st)
  else
    let done := s.modStack st (fun x => { x with bootQuote := false, quote := [] })
    let pa := t.attArg.toNat
    if s.frozenFor st pa then .next s
    else if ok && t.linkUp && !isLocal pa && decide (pa + 384 ≤ 2 ^ 52) then .next (done.putDevice pa t.quote)
    else .next done

end Sys2Proof.Machine
end

