-- ==== Sys2Proof/Machine/Codeword.lean ====
section
/-! DEFINITION. How a 512-byte block of HBM is stored: the encryption of R389 (AES-256 of FIPS 197 in the XTS mode)
and the codeword of R432. -/
namespace Sys2Proof.Machine

/-! ### Polynomials over GF(2) as numbers -/

/-- The product of two polynomials over GF(2), of which the first has n bits. -/
def polyMul (n a b : Nat) : Nat := (List.range n).foldl (fun r k => if a.testBit k then r ^^^ (b * 2 ^ k) else r) 0

/-- The remainder of a polynomial of n bits by one of degree d. -/
def polyMod (n d a g : Nat) : Nat :=
  (List.range (n - d)).foldr (fun k r => if r.testBit (d + k) then r ^^^ (g * 2 ^ k) else r) a

/-! ### AES-256 -/

/-- The product in the field of AES. -/
def aesMul (a b : Nat) : Nat := polyMod 15 8 (polyMul 8 a b) 0x11B

/-- The inverse in that field, 0 for 0. -/
def aesInv (a : Nat) : Nat :=
  let sq := fun x => aesMul x x
  (List.range 6).foldl (fun r _ => sq (aesMul r a)) (sq a)

/-- The S-box. -/
def sBox (a : Nat) : Nat :=
  let b := aesInv a
  let rot := fun k => (b * 2 ^ k) % 256 ^^^ b / 2 ^ (8 - k)
  b ^^^ rot 1 ^^^ rot 2 ^^^ rot 3 ^^^ rot 4 ^^^ 0x63

/-- The exclusive or of two lists of numbers. -/
def xorList (xs ys : List Nat) : List Nat := List.zipWith (· ^^^ ·) xs ys

/-- The words of the key schedule after those of the key, four bytes each: n more, from word i on. -/
def aesWords : Nat → Nat → Nat → List (List Nat) → List (List Nat)
  | 0, _, _, ws => ws
  | n + 1, i, rcon, ws =>
    let last := ws.getLastD []
    let t := if i % 8 = 0 then xorList ((last.drop 1 ++ last.take 1).map sBox) [rcon, 0, 0, 0]
      else if i % 8 = 4 then last.map sBox else last
    aesWords n (i + 1) (if i % 8 = 0 then aesMul rcon 2 else rcon) (ws ++ [xorList (ws.getD (i - 8) []) t])

/-- The fifteen round keys of a 32-byte key. -/
def aesKeys (key : List Nat) : List (List Nat) :=
  let ws := aesWords 52 8 1 ((List.range 8).map (fun k => (key.drop (4 * k)).take 4))
  (List.range 15).map (fun r => ((ws.drop (4 * r)).take 4).flatten)

/-- Rows shifted: byte r of column c comes from column c + r. -/
def shiftRows (x : List Nat) : List Nat := (List.range 16).map (fun i => x.getD ((i + 4 * (i % 4)) % 16) 0)

/-- Columns mixed. -/
def mixColumns (x : List Nat) : List Nat :=
  (List.range 16).map (fun i =>
    let at_ := fun k => x.getD (4 * (i / 4) + (i + k) % 4) 0
    aesMul 2 (at_ 0) ^^^ aesMul 3 (at_ 1) ^^^ at_ 2 ^^^ at_ 3)

/-- AES-256 of one 16-byte block. -/
def aes (keys : List (List Nat)) (block : List Nat) : List Nat :=
  let step := fun (x : List Nat) (r : Nat) =>
    let y := shiftRows (x.map sBox)
    xorList (if r = 14 then y else mixColumns y) (keys.getD r [])
  ((List.range 14).map (· + 1)).foldl step (xorList block (keys.getD 0 []))

/-! ### XTS -/

/-- A tweak multiplied by x in GF(2^128), as bytes from the least significant. -/
def xtsNext (t : List Nat) : List Nat :=
  let v := t.foldr (fun b n => 256 * n + b) 0
  let w := (2 * v) % 2 ^ 128 ^^^ (if v.testBit 127 then 0x87 else 0)
  (List.range 16).map (fun k => w / 256 ^ k % 256)

/-- The blocks of a data unit, each under its tweak. -/
def xtsBlocks (keys : List (List Nat)) : Nat → List Nat → List Nat → List Nat
  | 0, _, _ => []
  | n + 1, t, bs => xorList (aes keys (xorList (bs.take 16) t)) t ++ xtsBlocks keys n (xtsNext t) (bs.drop 16)

/-- AES-XTS-256 of a 512-byte data unit with a key pair of 64 bytes, under the tweak PA[51:9] (R389). -/
def xts (pair : List Byte) (tweak : Nat) (data : List Byte) : List Byte :=
  let nums := fun (bs : List Byte) => bs.map (fun b => b.toNat)
  let t := aes (aesKeys (nums (pair.drop 32))) ((List.range 16).map (fun k => tweak / 256 ^ k % 256))
  (xtsBlocks (aesKeys (nums (pair.take 32))) 32 t (nums data)).map (BitVec.ofNat 8)

/-! ### GF(2^13) -/

/-- The product in the field of R432. -/
def fieldMul (a b : Nat) : Nat := polyMod 25 13 (polyMul 13 a b) 0x201B

/-- The power of an element. -/
def fieldPow : Nat → Nat → Nat → Nat
  | 0, _, _ => 1
  | bits + 1, a, e =>
    let r := fieldPow bits (fieldMul a a) (e / 2)
    if e % 2 = 1 then fieldMul r a else r

/-- The power of the primitive element. -/
def alpha (e : Nat) : Nat := fieldPow 13 2 (e % 8191)

/-- The inverse of an element other than 0. -/
def fieldInv (a : Nat) : Nat := fieldPow 13 a 8190

/-! ### The generator (R432) -/

/-- A polynomial over the field, lowest coefficient first, times x + r. -/
def timesRoot (p : List Nat) (r : Nat) : List Nat :=
  List.zipWith (· ^^^ ·) (0 :: p) (p.map (fieldMul r) ++ [0])

/-- The minimal polynomial of the i-th power of the primitive element, whose roots are its thirteen conjugates. -/
def minPoly (i : Nat) : Nat :=
  let p := (List.range 13).foldl (fun p k => timesRoot p (alpha (i * 2 ^ k))) [1]
  p.foldr (fun c n => 2 * n + c) 0

/-- The generator: the least common multiple of the minimal polynomials of powers 1 to 32, which are those of the odd
powers, sixteen different ones of degree 13. -/
def generator : Nat := (List.range 16).foldl (fun g k => polyMul 14 (minPoly (2 * k + 1)) g) 1

/-! ### The codeword (R432) -/

/-- Bits of a message and of its check. -/
def messageBits : Nat := 4144
def checkBits : Nat := 208

/-- The message of a block: its data, its poison mask, bit i for sector i, and 16 reserved bits of 0, as one number
from the least significant bit of the first byte (assumption 121). -/
def blockMessage (data : List Byte) (mask : Nat) : Nat := leNat (data ++ natLe 4 mask ++ natLe 2 0)

/-- The codeword of a message: the coefficients of a multiple of the generator, whose upper ones are the message. -/
def codeword (m : Nat) : Nat :=
  let shifted := m * 2 ^ checkBits
  shifted ^^^ polyMod (messageBits + checkBits) checkBits shifted generator

/-- The 544 bytes that stand for a codeword: the message, then its check. -/
def storedBytes (c : Nat) : List Byte := natLe 518 (c / 2 ^ checkBits) ++ natLe 26 (c % 2 ^ checkBits)

/-! ### Correction -/

/-- A received word at a power of the primitive element. -/
def syndrome (r i : Nat) : Nat :=
  (List.range (messageBits + checkBits)).foldr (fun k v =>
    let w := fieldMul v (alpha i)
    if r.testBit k then w ^^^ 1 else w) 0

/-- The locator so far (Berlekamp and Massey): connection polynomials now and before the last change of length, the
length, the steps since, and the discrepancy then. -/
structure Locator where
  now : List Nat
  before : List Nat
  len : Nat
  gap : Nat
  disc : Nat
  deriving DecidableEq, Repr

/-- The sum of two polynomials over the field. -/
def polyAdd : List Nat → List Nat → List Nat
  | [], q => q
  | p, [] => p
  | a :: p, b :: q => (a ^^^ b) :: polyAdd p q

/-- One more syndrome; `ss` are those so far, newest first. -/
def Locator.step (x : Locator) (ss : List Nat) : Locator :=
  let d := (List.zipWith fieldMul x.now ss).foldl (· ^^^ ·) 0
  let fix := polyAdd x.now (List.replicate x.gap 0 ++ x.before.map (fieldMul (fieldMul d (fieldInv x.disc))))
  if d = 0 then { x with gap := x.gap + 1 }
  else if 2 * x.len < ss.length then ⟨fix, x.now, ss.length - x.len, 1, d⟩
  else { x with now := fix, gap := x.gap + 1 }

/-- The locator of a list of syndromes. -/
def locate : List Nat → List Nat → Locator → Locator
  | [], _, x => x
  | s :: rest, ss, x => locate rest (s :: ss) (x.step (s :: ss))

/-- A polynomial over the field at a point. -/
def polyAt (p : List Nat) (v : Nat) : Nat := p.foldr (fun c r => fieldMul r v ^^^ c) 0

/-- The message that a received word decodes to: up to 16 bit errors are corrected; a word that is further from every
codeword fails. -/
def decodeWord (r : Nat) : Option Nat :=
  let ss := (List.range 32).map (fun i => syndrome r (i + 1))
  let x := locate ss [] ⟨[1], [1], 0, 1, 1⟩
  let wrong := (List.range (messageBits + checkBits)).filter (fun p => polyAt x.now (alpha (8191 - p)) == 0)
  if 16 < x.len ∨ wrong.length ≠ x.len then none
  else some (wrong.foldl (fun v p => v ^^^ 2 ^ p) r / 2 ^ checkBits)

/-- A word with some of its bits in error. -/
def withErrors (c : Nat) (bits : List Nat) : Nat := bits.foldl (fun v p => v ^^^ 2 ^ (p % (messageBits + checkBits))) c

end Sys2Proof.Machine
end

