-- ==== Sys2Proof/Machine/Repair.lean ====
section
/-! DEFINITION. Memory repair (R429 to R438), patrol scrub (R433) and heat (R439 to R441). The model keeps bytes by
their addresses: what each place of the DRAM holds follows from them (R430 to R432), and a repair moves blocks between
places and changes no value (R281). -/
namespace Sys2Proof.Machine

/-! ### Where a block lies (R430) -/

/-- The exclusive or of the four upper 5-bit digits of a block index. -/
def upperDigits (b : Nat) : Nat := (b / 2 ^ 5 % 32) ^^^ (b / 2 ^ 10 % 32) ^^^ (b / 2 ^ 15 % 32) ^^^ (b / 2 ^ 20 % 32)

/-- Location of a block index. -/
def blockLoc (b : Nat) : Nat := b / 32

/-- Channel of a block index. -/
def blockChannel (b : Nat) : Nat := (b % 32) ^^^ upperDigits b

/-- The block index at a channel and location: R430 turned round. -/
def blockAt (c loc : Nat) : Nat := 32 * loc + (c ^^^ upperDigits (32 * loc))

/-- The DRAM coordinates of a channel and location (R430). -/
structure DramPlace where
  channel : Nat
  layer : Nat
  row : Nat
  bank : Nat
  bankGroup : Nat
  pseudoChannel : Nat
  column : Nat
  deriving DecidableEq, Repr

/-- Where a block stands in the DRAM (R430). -/
def dramPlace (c loc : Nat) : DramPlace :=
  { channel := c
    layer := loc / 2 ^ 18 % 16
    row := loc / 2 ^ 7 % 2 ^ 15
    bank := (loc / 2 ^ 5 ^^^ loc / 2 ^ 20) % 4
    bankGroup := (loc / 2 ^ 3 ^^^ loc / 2 ^ 18) % 4
    pseudoChannel := (loc / 2 ^ 2 ^^^ loc / 2 ^ 17) % 2
    column := loc % 4 }

/-- k and j of a location: its 17 low bits and the rest. -/
def locK (loc : Nat) : Nat := loc / 2 ^ 17
def locJ (loc : Nat) : Nat := loc % 2 ^ 17

/-- Where a block of a retired or rebuilt channel f has its new place: the surviving channel, and the location (R435). -/
def newPlace (f loc : Nat) : Nat × Nat :=
  let index := (loc % 31 + f) % 31
  (if index < f then index else index + 1, 31 * 2 ^ 17 + locJ loc)

/-- Where a data block of a stack lies now: channel and location (R430, R436, R437). -/
def Stack.place (t : Stack) (b : Nat) : Nat × Nat :=
  let c := blockChannel b
  let loc := blockLoc b
  let moved := c == t.repChannel && (t.repMode == 2 || (t.repMode == 1 && decide (locJ loc < t.cursor)))
  let copied := t.repMode == 4 || (t.repMode == 3 && decide (32 * (loc % 2 ^ 18) + c < t.mapCopied))
  if moved then newPlace t.repChannel loc
  else if copied && loc / 2 ^ 18 == t.repLayer then (c, loc % 2 ^ 18 + 15 * 2 ^ 18)
  else (c, loc)

/-- The physical address of a block of a stack. -/
def blockPa (st b : Nat) : Nat := st * stackSpan + 512 * b

/-- A block of data, within the stack's capacity. -/
def Stack.dataBlock (t : Stack) (b : Nat) : Bool := decide (512 * b + 512 ≤ t.capacity)

/-- The parity region of j stands: in mode 0, in mode 1 until the rebuild takes it, and in mode 3 until op 3 (R431, R435,
R437). -/
def Stack.parityAt (t : Stack) (j : Nat) : Bool :=
  t.repMode == 0 || (t.repMode == 1 && decide (t.cursor ≤ j)) || (t.repMode == 3 && t.capacity == 0xF80000000)

/-- What a place of the DRAM holds: a data block, or the parity block of a group. -/
inductive PlaceUse
  | data (b : Nat)
  | parity (g j : Nat)
  deriving DecidableEq, Repr

/-- The data blocks whose place may be this one: the one of R430, those of a channel that moves into the parity region
(R435), and the one of a layer that moves to layer 15 (R437). -/
def Stack.candidates (t : Stack) (c loc : Nat) : List Nat :=
  blockAt c loc :: (List.range 31).map (fun k => blockAt t.repChannel (k * 2 ^ 17 + locJ loc)) ++
    [blockAt c (t.repLayer * 2 ^ 18 + loc % 2 ^ 18)]

/-- What stands at a channel and location now. -/
def Stack.placeUse (t : Stack) (c loc : Nat) : Option PlaceUse :=
  if locK loc = 31 ∧ t.parityAt (locJ loc) then some (.parity c (locJ loc))
  else ((t.candidates c loc).find? (fun b => t.dataBlock b && t.place b == (c, loc))).map PlaceUse.data

/-- The channel is being rebuilt and this place of it has not moved: it is read from the parity group (R436). -/
def Stack.leaving (t : Stack) (c loc : Nat) : Bool :=
  t.repMode == 1 && c == t.repChannel && locK loc != 31 && decide (t.cursor ≤ locJ loc)

/-! ### Parity groups (R431) -/

/-- The group of a place: g = (c - k - 1) mod 32, which for a parity block is its own channel. -/
def parityGroup (c loc : Nat) : Nat := (c + 63 - locK loc) % 32

/-- The places of a group's data blocks. -/
def groupMembers (g j : Nat) : List (Nat × Nat) := (List.range 31).map (fun k => ((g + k + 1) % 32, k * 2 ^ 17 + j))

/-- The place of a group's parity block. -/
def parityPlace (g j : Nat) : Nat × Nat := (g, 31 * 2 ^ 17 + j)

/-- The contents of a block: its bytes and its poison mask, bit i for sector i (R432). -/
structure Block where
  data : List Byte
  mask : BitVec 32
  deriving DecidableEq, Repr

/-- The exclusive or of two blocks. -/
def Block.xor (x y : Block) : Block := ⟨List.zipWith (· ^^^ ·) x.data y.data, x.mask ^^^ y.mask⟩

/-- A block of zeros. -/
def Block.zero : Block := ⟨List.replicate 512 0, 0⟩

/-- A data block of a stack. -/
def State.block (s : State) (st b : Nat) : Block :=
  { data := readBytes s.mem (blockPa st b) 512
    mask := (List.range 32).foldl (fun m i => setBit m i (Sparse.get false s.poison (blockPa st b / 16 + i))) 0 }

/-- The exclusive or of data blocks at places of R430. -/
def State.xorOf (s : State) (st : Nat) (ps : List (Nat × Nat)) : Block :=
  ps.foldl (fun x p => x.xor (s.block st (blockAt p.1 p.2))) Block.zero

/-- The parity block of a group: the exclusive or of the group's data and of its poison masks, which every write
updates. -/
def State.parityBlock (s : State) (st g j : Nat) : Block := s.xorOf st (groupMembers g j)

/-- A block rebuilt from its group: the parity block and every other member (R433, R435, R436). -/
def State.rebuilt (s : State) (st c loc : Nat) : Block :=
  let g := parityGroup c loc
  (s.parityBlock st g (locJ loc)).xor (s.xorOf st ((groupMembers g (locJ loc)).filter (fun p => p != (c, loc))))

/-- A block is written back: its bytes and its poison. -/
def State.writeBack (s : State) (st b : Nat) (x : Block) : State :=
  { s with
    mem := writeBytes s.mem (blockPa st b) x.data
    poison := (List.range 32).foldl (fun p i => Sparse.set false p (blockPa st b / 16 + i) (has x.mask i)) s.poison }

/-! ### Codewords (R432, R433) -/

/-- The codeword of a block at an address: its bytes as the partition's key encrypts them (R389), with its poison mask. -/
def State.blockCode (s : State) (st b : Nat) (x : Block) : Nat :=
  codeword (blockMessage (xts (Config.keyPair (s.partition (s.stack st).partNum).keys) (blockPa st b / 512) x.data) x.mask.toNat)

/-- The bits in error at a place, which `errors` lists by the place's block index under R430. -/
def errorsAt (errors : List (Nat × Nat)) (c loc : Nat) : List Nat :=
  (errors.filter (fun e => e.1 == blockAt c loc)).map (fun e => e.2)

/-- A codeword with these bits in error decodes. A word that decodes to another message counts as one that fails:
correction never changes a value (R433). -/
def decodes (code : Nat) (bits : List Nat) : Bool :=
  bits.isEmpty || decodeWord (withErrors code bits) == some (code / 2 ^ checkBits)

/-- What stands at a place decodes. -/
def State.placeDecodes (s : State) (errors : List (Nat × Nat)) (st c loc : Nat) : Bool :=
  let bits := errorsAt errors c loc
  match (s.stack st).placeUse c loc with
  | none => true
  | some (.data b) => decodes (s.blockCode st b (s.block st b)) bits
  | some (.parity g j) => decodes (s.blockCode st (blockAt c loc) (s.parityBlock st g j)) bits

/-- Every other member of a place's group decodes, its parity block among them. -/
def State.groupDecodes (s : State) (errors : List (Nat × Nat)) (st c loc : Nat) : Bool :=
  let g := parityGroup c loc
  let p := parityPlace g (locJ loc)
  ((c, loc) == p || !(s.stack st).parityLost.contains (blockAt p.1 p.2)) &&
  ((p :: groupMembers g (locJ loc)).filter (fun q => q != (c, loc))).all (fun q => s.placeDecodes errors st q.1 q.2)

/-- The detail of events 0x0201 and 0x0202: address, channel and layer. -/
def State.blockDetail (s : State) (st b : Nat) : List Byte :=
  let p := (s.stack st).place b
  natLe 8 (blockPa st b) ++ natLe 1 p.1 ++ natLe 1 (dramPlace p.1 p.2).layer

/-- What writes poison is no thread: its writes order nothing. -/
def State.cellAuthor (s : State) : Author := ({ s.hostAgent with scope := .none } : Agent).author false s.history.length 3

/-- Every sector of a block is poisoned and its bytes are 0 (R433): event 0x0202 with its cause. -/
def State.poisonBlock (s : State) (st b cause : Nat) : State :=
  ((s.put s.cellAuthor (blockPa st b) (List.replicate 512 0) true).modStack st (fun k => k.count 0x010 1)).event 0x0202 st 0xFFFF
    (s.blockDetail st b ++ natLe 1 cause)

/-- The patrol goes on to the next place; after the last a pass is complete (R443). -/
def Stack.patrols (t : Stack) : Stack :=
  if t.patrolAt + 1 < 2 ^ 27 then { t with patrolAt := t.patrolAt + 1 } else { t.count 0x018 1 with patrolAt := 0 }

/-- A block that does not decode (R433): in mode 0 it is rebuilt from its parity group, provided every other member
decodes; otherwise it is poisoned. -/
def State.undecoded (s : State) (errors : List (Nat × Nat)) (st c loc cause : Nat) (use : PlaceUse) : State :=
  let b := match use with | .data b => b | .parity _ _ => blockAt c loc
  if (s.stack st).repMode = 0 ∧ s.groupDecodes errors st c loc then
    let t := match use with
      | .data b => s.writeBack st b (s.rebuilt st c loc)
      | .parity _ _ => s.modStack st (fun k => { k with parityLost := k.parityLost.filter (fun x => x != b) })
    (t.modStack st (fun k => k.count 0x008 1)).event 0x0201 st 0xFFFF (s.blockDetail st b)
  else match use with
    | .data b => s.poisonBlock st b cause
    | .parity _ _ => (s.modStack st (fun k => { k.count 0x010 1 with parityLost := b :: k.parityLost.filter (fun x => x != b) })).event
        0x0202 st 0xFFFF (s.blockDetail st b ++ natLe 1 cause)

/-- PATROL_SCRUB (R433): a place of the DRAM is read, by the patrol when it is the next of its pass, or by an access.
`errors` are the bits in error, by place. A block that decodes with bits corrected is written back and counted; one
that does not is rebuilt or poisoned. A place of the channel that is being rebuilt is read from its group (R436). -/
def execPatrolScrub (st blk : Nat) (errors : List (Nat × Nat)) (s : State) : Host.Outcome State Fault Refusal :=
  let t := s.stack st
  let c := blockChannel blk
  let loc := blockLoc blk
  if !t.answers || decide (2 ^ 27 ≤ blk) then .next s
  else
    let patrol := blk == t.patrolAt && s.choose 72 2 == 1
    let s := if patrol then s.modStack st Stack.patrols else s
    match t.placeUse c loc with
    | none => .next s
    | some use =>
      if t.leaving c loc then
        .next (if s.groupDecodes errors st c loc then s else s.undecoded errors st c loc (if patrol then 1 else 0) use)
      else if s.placeDecodes errors st c loc then
        .next (if (errorsAt errors c loc).isEmpty then s else s.modStack st (fun k => k.count 0x000 1))
      else .next (s.undecoded errors st c loc (if patrol then 1 else 0) use)

/-! ### Repair requests (R434) -/

/-- A memory-repair packet with one op: for a stack of the queue's partition, in a mode that allows it, with its index in
range. -/
def State.repair (s : State) (q op mode indices : Nat) (start : Nat → Nat → Nat → Begun) : State :=
  s.packet q 42 (fun x i bs =>
    let st := pkt bs 8 1
    let n := pkt bs 10 1
    if pkt bs 9 1 ≠ op then .blocked s
    else if !(s.members (s.queuePartition x)).contains st || (s.stack st).repMode != mode || decide (indices ≤ n) ||
        pkt bs 11 1 != 0 then .error 5 0
    else start i st n)

/-- A repair ends: its packet completes. -/
def State.repairDone (s : State) (st : Nat) : State :=
  match (s.stack st).repairQueue with
  | none => s
  | some (q, i) => (s.modStack st (fun t => { t with repairQueue := none })).completePacket q i

/-- REBUILD_CHANNEL (R434, R435): op 1 sets mode 1 and J = 0. -/
def execRebuildChannel (q : Nat) (s : State) : Host.Outcome State Fault Refusal :=
  .next (s.repair q 1 0 32 (fun i st f => .running (s.modStack st (fun t =>
    { t with repMode := 1, repChannel := f, cursor := 0, poisonedBlocks := 0, repairQueue := some (q, i) }))))

/-- The blocks of channel f at j that cannot be reconstructed: neither their own codeword nor the rest of their group
decodes (R435). -/
def State.lostBlocks (s : State) (errors : List (Nat × Nat)) (st f j : Nat) : List Nat :=
  ((List.range 31).filter (fun k => !s.placeDecodes errors st f (k * 2 ^ 17 + j) && !s.groupDecodes errors st f (k * 2 ^ 17 + j))).map
    (fun k => blockAt f (k * 2 ^ 17 + j))

/-- The blocks of channel f at j go to their new places, each as its own codeword or its group gives it (R435). -/
def State.moveBlocks (s : State) (errors : List (Nat × Nat)) (st f j : Nat) : State :=
  (List.range 31).foldl (fun (t : State) k =>
    let loc := k * 2 ^ 17 + j
    if s.placeDecodes errors st f loc then t else t.writeBack st (blockAt f loc) (s.rebuilt st f loc)) s

/-- REBUILD_STEP (R435): the blocks of one j move as one step, `errors` being the bits in error at their group's
places; after the last j the channel is retired. -/
def execRebuildStep (st : Nat) (s : State) (errors : List (Nat × Nat) := []) : Host.Outcome State Fault Refusal :=
  let t := s.stack st
  if t.repMode ≠ 1 then .next s
  else
    let lost := s.lostBlocks errors st t.repChannel t.cursor
    let s := (s.moveBlocks errors st t.repChannel t.cursor).modStack st (fun k =>
      { k with cursor := t.cursor + 1, poisonedBlocks := k.poisonedBlocks + lost.length })
    let s := lost.foldl (fun (u : State) b => u.poisonBlock st b 2) s
    if t.cursor + 1 < 2 ^ 17 then .next s
    else
      let s := s.modStack st (fun k => { k with repMode := 2, cursor := 0 })
      .next ((s.event 0x0205 st 0xFFFF (natLe 4 t.repChannel ++ natLe 4 (s.stack st).poisonedBlocks)).repairDone st)

/-- First address of the range that a map-out takes, as an offset of the stack (R437). -/
def mappedOutFrom : Nat := 0xF00000000

/-- BEGIN_LAYER_MAP_OUT (R434, R437): op 2 sets mode 3 and gives notice of the range that leaves. -/
def execBeginLayerMapOut (q : Nat) (s : State) : Host.Outcome State Fault Refusal :=
  .next (s.repair q 2 0 16 (fun _ st n =>
    let t := s.modStack st (fun k => { k with repMode := 3, repLayer := n })
    .done (t.event 0x0207 st 0xFFFF (natLe 8 n ++ natLe 8 (st * stackSpan + mappedOutFrom) ++
      natLe 8 (st * stackSpan + 0xF7FFFFFFF)))))

/-- The layer is mapped out (R437 step 5). -/
def State.mappedOut (s : State) (st : Nat) : State :=
  let t := s.modStack st (fun k => { k with repMode := 4 })
  t.event 0x0208 st 0xFFFF (natLe 8 (t.stack st).repLayer ++ natLe 8 (t.stack st).capacity)

/-- The bytes of the range that leaves are gone (R437 step 3). -/
def State.dropRange (s : State) (lo hi : Nat) : State :=
  { s with
    mem := s.mem.filter (fun p => decide (p.1 < lo) || decide (hi ≤ p.1))
    poison := s.poison.filter (fun p => decide (16 * p.1 < lo) || decide (hi ≤ 16 * p.1))
    history := .fresh .mem lo hi :: s.history }

/-- CONFIRM_LAYER_REMOVAL (R434, R437): op 3 takes the range away and starts the copy, of nothing for layer 15. While
a copy runs a second request waits. -/
def execConfirmLayerRemoval (q : Nat) (s : State) : Host.Outcome State Fault Refusal :=
  .next (s.repair q 3 3 1 (fun i st _ =>
    if (s.stack st).repairQueue.isSome then .blocked s
    else
      let lo := st * stackSpan + mappedOutFrom
      let t := (s.dropRange lo (lo + 2 ^ 31)).modStack st (fun k => { k with capacity := mappedOutFrom, mapCopied := 0 })
      if (s.stack st).repLayer = 15 then .done (t.mappedOut st)
      else .running (t.modStack st (fun k => { k with repairQueue := some (q, i) }))))

/-- Block n of a layer, in ascending location and channel. -/
def layerBlock (layer n : Nat) : Nat := blockAt (n % 32) (layer * 2 ^ 18 + n / 32)

/-- MAP_OUT_COPY_STEP (R437): one block is copied whole, poisoned when it does not decode; after the last the layer is
mapped out. -/
def execMapOutCopyStep (st : Nat) (s : State) (errors : List (Nat × Nat) := []) : Host.Outcome State Fault Refusal :=
  let t := s.stack st
  if t.repMode ≠ 3 ∨ t.repairQueue = none then .next s
  else
    let b := layerBlock t.repLayer t.mapCopied
    let s := if s.placeDecodes errors st (blockChannel b) (blockLoc b) then s else s.poisonBlock st b 3
    let s := s.modStack st (fun k => { k with mapCopied := t.mapCopied + 1 })
    if t.mapCopied + 1 < 2 ^ 23 then .next s else .next ((s.mappedOut st).repairDone st)

/-! ### Heat (R439 to R441) -/

/-- Issue cap and refresh multiplier of each heat state (R439). -/
def heatStates : List (Nat × Nat) := [(100, 1), (100, 2), (90, 1), (90, 2), (75, 2), (75, 4), (50, 4), (25, 4)]

/-- A temperature in whole degrees, in sixteenths as the sensors give it (R441). -/
def degrees (n : Int) : Int := 16 * n

/-- The refresh that the DRAM needs (R440). -/
def heatNeed (td : Int) : Nat := if td < degrees 85 then 1 else if td < degrees 95 then 2 else 4

/-- The issue cap that temperatures and policy allow (R440). -/
def heatCap (bandwidth : Bool) (td tl : Int) : Nat :=
  let cap := if tl < degrees 95 then 100 else if tl < degrees 100 then 90 else if tl < degrees 105 then 75
    else if tl < degrees 110 then 50 else 25
  if !bandwidth then cap
  else if degrees 88 ≤ td then min cap 75
  else if degrees 80 ≤ td then min cap 90
  else cap

/-- The target state (R440): of those with cap and refresh in bounds, the largest cap, and of those the smaller
refresh. -/
def heatTarget (cap need : Nat) : Nat :=
  let ok := (heatStates.mapIdx (fun k x => (k, x))).filter (fun p => decide (p.2.1 ≤ cap) && decide (need ≤ p.2.2))
  ((ok.foldl (fun (b : Option (Nat × Nat × Nat)) p =>
    match b with
    | none => some p
    | some q => if q.2.1 < p.2.1 ∨ (q.2.1 = p.2.1 ∧ p.2.2 < q.2.2) then some p else some q) none).map (fun p => p.1)).getD 7

/-- The governor's evaluation (R440). -/
def Stack.govern (t : Stack) (td tl : Int) : Stack :=
  let target := heatTarget (heatCap t.policy td tl) (heatNeed td)
  let t := { t with td := td, tl := tl }
  if t.heat < target then { t with heat := target, coolRuns := 0 }
  else if target < t.heat then
    (if t.coolRuns + 1 < 100 then { t with coolRuns := t.coolRuns + 1 } else { t with heat := t.heat - 1, coolRuns := 0 })
  else { t with coolRuns := 0 }

/-- GOVERNOR_TICK (R440): every 100 µs of the stack's clock, with what the hottest sensors read. -/
def execGovernorTick (st td tl : Nat) (s : State) : Host.Outcome State Fault Refusal :=
  let k := s.stack st
  if k.now < k.governorAt + 100000 then .next s
  else
    let t := s.modStack st (fun t => { (t.count (0x020 + 8 * t.heat) 100).govern (sInt 16 td) (sInt 16 tl) with
      governorAt := k.governorAt + 100000 })
    let new := (t.stack st).heat
    if new = k.heat then .next t
    else
      let detail := natLe 1 k.heat ++ natLe 1 new ++ natLe 2 td ++ natLe 2 tl
      let t := t.event 0x0209 st 0xFFFF detail
      .next (if new = 7 then t.event 0x020A st 0xFFFF detail else t)

end Sys2Proof.Machine
end

