-- ==== Sys2Proof/Machine/Dispatch.lean ====
section
/-! DEFINITION. Which meaning each instruction and event has: one arm for each constructor. -/
namespace Sys2Proof.Machine

/-- The meaning of an instruction or event. -/
def exec (i : Instr) (s : State) : Host.Outcome State Fault Refusal :=
  match i with
  | .nop => Sys2Proof.Machine.execNop s
  | .trap n => Sys2Proof.Machine.execTrap n s
  | .tret => Sys2Proof.Machine.execTret s
  | .brk n => Sys2Proof.Machine.execBrk n s
  | .gets nw d a => Sys2Proof.Machine.execGets nw d a s
  | .sets a b => Sys2Proof.Machine.execSets a b s
  | .xen o m => Sys2Proof.Machine.execXen o m s
  | .xflg o m => Sys2Proof.Machine.execXflg o m s
  | .exit => Sys2Proof.Machine.execExit s
  | .ret => Sys2Proof.Machine.execRet s
  | .brx a p => Sys2Proof.Machine.execBrx a p s
  | .callx a p => Sys2Proof.Machine.execCallx a p s
  | .prio p => Sys2Proof.Machine.execPrio p s
  | .jmsk j => Sys2Proof.Machine.execJmsk j s
  | .join j => Sys2Proof.Machine.execJoin j s
  | .winb b => Sys2Proof.Machine.execWinb b s
  | .valid v => Sys2Proof.Machine.execValid v s
  | .yield => Sys2Proof.Machine.execYield s
  | .guard n src q => Sys2Proof.Machine.execGuard n src q s
  | .bra p src t o => Sys2Proof.Machine.execBra p src t o s
  | .call p src t o => Sys2Proof.Machine.execCall p src t o s
  | .add32 nw d a b => Sys2Proof.Machine.execAdd32 nw d a b s
  | .sub32 nw d a b => Sys2Proof.Machine.execSub32 nw d a b s
  | .mull nw d a b => Sys2Proof.Machine.execMull nw d a b s
  | .mulhI32 nw d a b => Sys2Proof.Machine.execMulhI32 nw d a b s
  | .mulhN32 nw d a b => Sys2Proof.Machine.execMulhN32 nw d a b s
  | .mad nw d a b => Sys2Proof.Machine.execMad nw d a b s
  | .div32 t nw d a b => Sys2Proof.Machine.execDiv32 t nw d a b s
  | .rem32 t nw d a b => Sys2Proof.Machine.execRem32 t nw d a b s
  | .min32 t nw d a b => Sys2Proof.Machine.execMin32 t nw d a b s
  | .max32 t nw d a b => Sys2Proof.Machine.execMax32 t nw d a b s
  | .sadd t nw d a b => Sys2Proof.Machine.execSadd t nw d a b s
  | .ssub t nw d a b => Sys2Proof.Machine.execSsub t nw d a b s
  | .and32 nw d a b => Sys2Proof.Machine.execAnd32 nw d a b s
  | .or32 nw d a b => Sys2Proof.Machine.execOr32 nw d a b s
  | .xor32 nw d a b => Sys2Proof.Machine.execXor32 nw d a b s
  | .shl nw d a b => Sys2Proof.Machine.execShl nw d a b s
  | .shr nw d a b => Sys2Proof.Machine.execShr nw d a b s
  | .sar nw d a b => Sys2Proof.Machine.execSar nw d a b s
  | .rotl nw d a b => Sys2Proof.Machine.execRotl nw d a b s
  | .shli nw d a n => Sys2Proof.Machine.execShli nw d a n s
  | .shri nw d a n => Sys2Proof.Machine.execShri nw d a n s
  | .sari nw d a n => Sys2Proof.Machine.execSari nw d a n s
  | .bfx t nw d a b => Sys2Proof.Machine.execBfx t nw d a b s
  | .bfi nw d a b => Sys2Proof.Machine.execBfi nw d a b s
  | .permb nw d a b => Sys2Proof.Machine.execPermb nw d a b s
  | .mov nw d a => Sys2Proof.Machine.execMov nw d a s
  | .not32 nw d a => Sys2Proof.Machine.execNot32 nw d a s
  | .neg32 nw d a => Sys2Proof.Machine.execNeg32 nw d a s
  | .abs32 nw d a => Sys2Proof.Machine.execAbs32 nw d a s
  | .popc nw d a => Sys2Proof.Machine.execPopc nw d a s
  | .clz nw d a => Sys2Proof.Machine.execClz nw d a s
  | .ctz nw d a => Sys2Proof.Machine.execCtz nw d a s
  | .brev nw d a => Sys2Proof.Machine.execBrev nw d a s
  | .addInt64 nw d a b => Sys2Proof.Machine.execAddInt64 nw d a b s
  | .subInt64 nw d a b => Sys2Proof.Machine.execSubInt64 nw d a b s
  | .mullInt64 nw d a b => Sys2Proof.Machine.execMullInt64 nw d a b s
  | .minI64 nw d a b => Sys2Proof.Machine.execMinI64 nw d a b s
  | .minN64 nw d a b => Sys2Proof.Machine.execMinN64 nw d a b s
  | .maxI64 nw d a b => Sys2Proof.Machine.execMaxI64 nw d a b s
  | .maxN64 nw d a b => Sys2Proof.Machine.execMaxN64 nw d a b s
  | .andInt64 nw d a b => Sys2Proof.Machine.execAndInt64 nw d a b s
  | .orInt64 nw d a b => Sys2Proof.Machine.execOrInt64 nw d a b s
  | .xorInt64 nw d a b => Sys2Proof.Machine.execXorInt64 nw d a b s
  | .shlInt64 nw d a b => Sys2Proof.Machine.execShlInt64 nw d a b s
  | .shrInt64 nw d a b => Sys2Proof.Machine.execShrInt64 nw d a b s
  | .sarInt64 nw d a b => Sys2Proof.Machine.execSarInt64 nw d a b s
  | .shliInt64 nw d a n => Sys2Proof.Machine.execShliInt64 nw d a n s
  | .shriInt64 nw d a n => Sys2Proof.Machine.execShriInt64 nw d a n s
  | .sariInt64 nw d a n => Sys2Proof.Machine.execSariInt64 nw d a n s
  | .movInt64 nw d a => Sys2Proof.Machine.execMovInt64 nw d a s
  | .notInt64 nw d a => Sys2Proof.Machine.execNotInt64 nw d a s
  | .negInt64 nw d a => Sys2Proof.Machine.execNegInt64 nw d a s
  | .absInt64 nw d a => Sys2Proof.Machine.execAbsInt64 nw d a s
  | .popcInt64 nw d a => Sys2Proof.Machine.execPopcInt64 nw d a s
  | .clzInt64 nw d a => Sys2Proof.Machine.execClzInt64 nw d a s
  | .ctzInt64 nw d a => Sys2Proof.Machine.execCtzInt64 nw d a s
  | .brevInt64 nw d a => Sys2Proof.Machine.execBrevInt64 nw d a s
  | .leaI32 nw d a b => Sys2Proof.Machine.execLeaI32 nw d a b s
  | .leaN32 nw d a b => Sys2Proof.Machine.execLeaN32 nw d a b s
  | .addUint d a b => Sys2Proof.Machine.execAddUint d a b s
  | .subUint d a b => Sys2Proof.Machine.execSubUint d a b s
  | .mullUint d a b => Sys2Proof.Machine.execMullUint d a b s
  | .mulhI64 d a b => Sys2Proof.Machine.execMulhI64 d a b s
  | .mulhN64 d a b => Sys2Proof.Machine.execMulhN64 d a b s
  | .madUint d a b => Sys2Proof.Machine.execMadUint d a b s
  | .minUint t d a b => Sys2Proof.Machine.execMinUint t d a b s
  | .maxUint t d a b => Sys2Proof.Machine.execMaxUint t d a b s
  | .andUint d a b => Sys2Proof.Machine.execAndUint d a b s
  | .orUint d a b => Sys2Proof.Machine.execOrUint d a b s
  | .xorUint d a b => Sys2Proof.Machine.execXorUint d a b s
  | .shlUint d a b => Sys2Proof.Machine.execShlUint d a b s
  | .shrUint d a b => Sys2Proof.Machine.execShrUint d a b s
  | .sarUint d a b => Sys2Proof.Machine.execSarUint d a b s
  | .shliUint d a n => Sys2Proof.Machine.execShliUint d a n s
  | .shriUint d a n => Sys2Proof.Machine.execShriUint d a n s
  | .sariUint d a n => Sys2Proof.Machine.execSariUint d a n s
  | .bfxI64 d a b => Sys2Proof.Machine.execBfxI64 d a b s
  | .bfxN64 d a b => Sys2Proof.Machine.execBfxN64 d a b s
  | .bfiUint d a b => Sys2Proof.Machine.execBfiUint d a b s
  | .movUint d a => Sys2Proof.Machine.execMovUint d a s
  | .notUint d a => Sys2Proof.Machine.execNotUint d a s
  | .negUint d a => Sys2Proof.Machine.execNegUint d a s
  | .absUint d a => Sys2Proof.Machine.execAbsUint d a s
  | .popcUint d a => Sys2Proof.Machine.execPopcUint d a s
  | .clzUint d a => Sys2Proof.Machine.execClzUint d a s
  | .ctzUint d a => Sys2Proof.Machine.execCtzUint d a s
  | .brevUint d a => Sys2Proof.Machine.execBrevUint d a s
  | .cmp t c q a b => Sys2Proof.Machine.execCmp t c q a b s
  | .cmp64 t c q a b => Sys2Proof.Machine.execCmp64 t c q a b s
  | .pand q x p y r => Sys2Proof.Machine.execPand q x p y r s
  | .por q x p y r => Sys2Proof.Machine.execPor q x p y r s
  | .pxor q x p y r => Sys2Proof.Machine.execPxor q x p y r s
  | .pnot q x p => Sys2Proof.Machine.execPnot q x p s
  | .pmov q x p => Sys2Proof.Machine.execPmov q x p s
  | .voteAll q x p => Sys2Proof.Machine.execVoteAll q x p s
  | .voteAny q x p => Sys2Proof.Machine.execVoteAny q x p s
  | .voteBallot nw d x p => Sys2Proof.Machine.execVoteBallot nw d x p s
  | .shflIdx nw d a b => Sys2Proof.Machine.execShflIdx nw d a b s
  | .shflUp nw d a b => Sys2Proof.Machine.execShflUp nw d a b s
  | .shflDown nw d a b => Sys2Proof.Machine.execShflDown nw d a b s
  | .shflXor nw d a b => Sys2Proof.Machine.execShflXor nw d a b s
  | .bcst z d a => Sys2Proof.Machine.execBcst z d a s
  | .elect q => Sys2Proof.Machine.execElect q s
  | .movFromUniform nw d a z => Sys2Proof.Machine.execMovFromUniform nw d a z s
  | .selB32 p nw d a b => Sys2Proof.Machine.execSelB32 p nw d a b s
  | .selB64 p nw d a b => Sys2Proof.Machine.execSelB64 p nw d a b s
  | .addc p nw d a b => Sys2Proof.Machine.execAddc p nw d a b s
  | .subc p nw d a b => Sys2Proof.Machine.execSubc p nw d a b s
  | .addi imm nw d a => Sys2Proof.Machine.execAddi imm nw d a s
  | .andi imm nw d a => Sys2Proof.Machine.execAndi imm nw d a s
  | .ori imm nw d a => Sys2Proof.Machine.execOri imm nw d a s
  | .xori imm nw d a => Sys2Proof.Machine.execXori imm nw d a s
  | .cmpi imm t c q a => Sys2Proof.Machine.execCmpi imm t c q a s
  | .lui imm nw d => Sys2Proof.Machine.execLui imm nw d s
  | .movi imm nw d => Sys2Proof.Machine.execMovi imm nw d s
  | .uaddi imm d a => Sys2Proof.Machine.execUaddi imm d a s
  | .umovi imm d => Sys2Proof.Machine.execUmovi imm d s
  | .umoviLui imm d => Sys2Proof.Machine.execUmoviLui imm d s
  | .faddFp32 r nw d a b => Sys2Proof.Machine.execFaddFp32 r nw d a b s
  | .fsubFp32 r nw d a b => Sys2Proof.Machine.execFsubFp32 r nw d a b s
  | .fmulFp32 r nw d a b => Sys2Proof.Machine.execFmulFp32 r nw d a b s
  | .fdivFp32 r nw d a b => Sys2Proof.Machine.execFdivFp32 r nw d a b s
  | .fmaFp32 r nw d a b => Sys2Proof.Machine.execFmaFp32 r nw d a b s
  | .fnmaFp32 r nw d a b => Sys2Proof.Machine.execFnmaFp32 r nw d a b s
  | .fsclFp32 r nw d a b => Sys2Proof.Machine.execFsclFp32 r nw d a b s
  | .fsqrtFp32 r nw d a => Sys2Proof.Machine.execFsqrtFp32 r nw d a s
  | .frcp r nw d a => Sys2Proof.Machine.execFrcp r nw d a s
  | .frsq r nw d a => Sys2Proof.Machine.execFrsq r nw d a s
  | .fexp2 r nw d a => Sys2Proof.Machine.execFexp2 r nw d a s
  | .flog2 r nw d a => Sys2Proof.Machine.execFlog2 r nw d a s
  | .frndFp32 r nw d a => Sys2Proof.Machine.execFrndFp32 r nw d a s
  | .frndRnaFp32 nw d a => Sys2Proof.Machine.execFrndRnaFp32 nw d a s
  | .faddFp64 r nw d a b => Sys2Proof.Machine.execFaddFp64 r nw d a b s
  | .fsubFp64 r nw d a b => Sys2Proof.Machine.execFsubFp64 r nw d a b s
  | .fmulFp64 r nw d a b => Sys2Proof.Machine.execFmulFp64 r nw d a b s
  | .fdivFp64 r nw d a b => Sys2Proof.Machine.execFdivFp64 r nw d a b s
  | .fmaFp64 r nw d a b => Sys2Proof.Machine.execFmaFp64 r nw d a b s
  | .fnmaFp64 r nw d a b => Sys2Proof.Machine.execFnmaFp64 r nw d a b s
  | .fsclFp64 r nw d a b => Sys2Proof.Machine.execFsclFp64 r nw d a b s
  | .fsqrtFp64 r nw d a => Sys2Proof.Machine.execFsqrtFp64 r nw d a s
  | .frndFp64 r nw d a => Sys2Proof.Machine.execFrndFp64 r nw d a s
  | .frndRnaFp64 nw d a => Sys2Proof.Machine.execFrndRnaFp64 nw d a s
  | .hadd2 t r nw d a b => Sys2Proof.Machine.execHadd2 t r nw d a b s
  | .hmul2 t r nw d a b => Sys2Proof.Machine.execHmul2 t r nw d a b s
  | .hfma2 t r nw d a b => Sys2Proof.Machine.execHfma2 t r nw d a b s
  | .hmin2 t nw d a b => Sys2Proof.Machine.execHmin2 t nw d a b s
  | .hmax2 t nw d a b => Sys2Proof.Machine.execHmax2 t nw d a b s
  | .fmin t nw d a b => Sys2Proof.Machine.execFmin t nw d a b s
  | .fmax t nw d a b => Sys2Proof.Machine.execFmax t nw d a b s
  | .fminn t nw d a b => Sys2Proof.Machine.execFminn t nw d a b s
  | .fmaxn t nw d a b => Sys2Proof.Machine.execFmaxn t nw d a b s
  | .fabs t nw d a => Sys2Proof.Machine.execFabs t nw d a s
  | .fneg t nw d a => Sys2Proof.Machine.execFneg t nw d a s
  | .fcpys t nw d a b => Sys2Proof.Machine.execFcpys t nw d a b s
  | .fclass t nw d a => Sys2Proof.Machine.execFclass t nw d a s
  | .fext t nw d a => Sys2Proof.Machine.execFext t nw d a s
  | .fcmp t c q a b => Sys2Proof.Machine.execFcmp t c q a b s
  | .cvt r y nw d a src => Sys2Proof.Machine.execCvt r y nw d a src s
  | .pack4 r y nw d a src => Sys2Proof.Machine.execPack4 r y nw d a src s
  | .ldo imm z d a => Sys2Proof.Machine.execLdo imm z d a s
  | .sto imm z d a => Sys2Proof.Machine.execSto imm z d a s
  | .ld src o d a t c n => Sys2Proof.Machine.execLd src o d a t c n s
  | .ldv src o d a c n => Sys2Proof.Machine.execLdv src o d a c n s
  | .st src o d a t c n => Sys2Proof.Machine.execSt src o d a t c n s
  | .stv src o d a c n => Sys2Proof.Machine.execStv src o d a c n s
  | .ldx z d a b => Sys2Proof.Machine.execLdx z d a b s
  | .stx z d a b => Sys2Proof.Machine.execStx z d a b s
  | .pref a src n => Sys2Proof.Machine.execPref a src n s
  | .fence c o m => Sys2Proof.Machine.execFence c o m s
  | .mon k z a b => Sys2Proof.Machine.execMon k z a b s
  | .mwait d a => Sys2Proof.Machine.execMwait d a s
  | .atom f d a c o src => Sys2Proof.Machine.execAtom f d a c o src s
  | .atomr f d a c o src => Sys2Proof.Machine.execAtomr f d a c o src s
  | .matom f d a c o => Sys2Proof.Machine.execMatom f d a c o s
  | .matomr f d a c o => Sys2Proof.Machine.execMatomr f d a c o s
  | .bar n k c x => Sys2Proof.Machine.execBar n k c x s
  | .specx => Sys2Proof.Machine.execSpecx s
  | .qw q a => Sys2Proof.Machine.execQw q a s
  | .qr d q => Sys2Proof.Machine.execQr d q s
  | .qrt d q p => Sys2Proof.Machine.execQrt d q p s
  | .qst d q => Sys2Proof.Machine.execQst d q s
  | .tkwSrc a => Sys2Proof.Machine.execTkwSrc a s
  | .tkwVis a => Sys2Proof.Machine.execTkwVis a s
  | .cpy nw d a h => Sys2Proof.Machine.execCpy nw d a h s
  | .gat nw d a h => Sys2Proof.Machine.execGat nw d a h s
  | .sct nw d a h => Sys2Proof.Machine.execSct nw d a h s
  | .bin nw d a => Sys2Proof.Machine.execBin nw d a s
  | .coll nw d a h => Sys2Proof.Machine.execColl nw d a h s
  | .shape d a => Sys2Proof.Machine.execShape d a s
  | .mxls nw d a => Sys2Proof.Machine.execMxls nw d a s
  | .mxsw => Sys2Proof.Machine.execMxsw s
  | .mxgo nw d a => Sys2Proof.Machine.execMxgo nw d a s
  | .mxrd d a => Sys2Proof.Machine.execMxrd d a s
  | .mxz a => Sys2Proof.Machine.execMxz a s
  | .mxst nw d a => Sys2Proof.Machine.execMxst nw d a s
  | .tidw a b => Sys2Proof.Machine.execTidw a b s
  | .tidr a b => Sys2Proof.Machine.execTidr a b s
  | .handlerEntry g w => Sys2Proof.Machine.execHandlerEntry g w s
  | .joinRelease g w e => Sys2Proof.Machine.execJoinRelease g w e s
  | .illegalInstruction w => Sys2Proof.Machine.execIllegalInstruction w s
  | .fetchFault g w => Sys2Proof.Machine.execFetchFault g w s
  | .flagFall l st => Sys2Proof.Machine.execFlagFall l st s
  | .deadlineKill l st => Sys2Proof.Machine.execDeadlineKill l st s
  | .dispatcherFlagFall l => Sys2Proof.Machine.execDispatcherFlagFall l s
  | .waveRetire g w => Sys2Proof.Machine.execWaveRetire g w s
  | .gangRetire g => Sys2Proof.Machine.execGangRetire g s
  | .yieldHoldExpiry g w => Sys2Proof.Machine.execYieldHoldExpiry g w s
  | .issueAgePromotion g w => Sys2Proof.Machine.execIssueAgePromotion g w s
  | .parkWave g w => Sys2Proof.Machine.execParkWave g w s
  | .recallWave g w => Sys2Proof.Machine.execRecallWave g w s
  | .watchdogExpiry g w => Sys2Proof.Machine.execWatchdogExpiry g w s
  | .loadReply g w k => Sys2Proof.Machine.execLoadReply g w k s
  | .storeAck g w => Sys2Proof.Machine.execStoreAck g w s
  | .matomPerform k => Sys2Proof.Machine.execMatomPerform k s
  | .mwaitRecheck g w e => Sys2Proof.Machine.execMwaitRecheck g w e s
  | .mwaitTimeout g w e => Sys2Proof.Machine.execMwaitTimeout g w e s
  | .haltLineArrival st => Sys2Proof.Machine.execHaltLineArrival st s
  | .haltClear st => Sys2Proof.Machine.execHaltClear st s
  | .dispatchRound p => Sys2Proof.Machine.execDispatchRound s p
  | .stackDispatchGang st => Sys2Proof.Machine.execStackDispatchGang st s
  | .reservationAttempt r => Sys2Proof.Machine.execReservationAttempt r s
  | .reservationBackoffExpiry r => Sys2Proof.Machine.execReservationBackoffExpiry r s
  | .poolRecordTake p => Sys2Proof.Machine.execPoolRecordTake p s
  | .poolDrainFlush p => Sys2Proof.Machine.execPoolDrainFlush p s
  | .completionRecordWrite l => Sys2Proof.Machine.execCompletionRecordWrite l s
  | .engineCommandStart c => Sys2Proof.Machine.execEngineCommandStart c s
  | .engineSourceRead c => Sys2Proof.Machine.execEngineSourceRead c s
  | .engineComplete c => Sys2Proof.Machine.execEngineComplete c s
  | .collChunkDelivered c => Sys2Proof.Machine.execCollChunkDelivered c s
  | .matrixOpStart m => Sys2Proof.Machine.execMatrixOpStart m s
  | .matrixFetchPageMiss m => Sys2Proof.Machine.execMatrixFetchPageMiss m s
  | .matrixOpComplete m t => Sys2Proof.Machine.execMatrixOpComplete m t s
  | .selfTestPeriodic st sub t => Sys2Proof.Machine.execSelfTestPeriodic st sub t s
  | .kick port q bytes v => Sys2Proof.Machine.execKick port q bytes v s
  | .packetFetch q => Sys2Proof.Machine.execPacketFetch q s
  | .markReread q => Sys2Proof.Machine.execMarkReread q s
  | .bodyCheckRetry q => Sys2Proof.Machine.execBodyCheckRetry q s
  | .launchPacket q => Sys2Proof.Machine.execLaunchPacket q s
  | .continuationPacket q => Sys2Proof.Machine.execContinuationPacket q s
  | .enginePacket q => Sys2Proof.Machine.execEnginePacket q s
  | .waitPacket q => Sys2Proof.Machine.execWaitPacket q s
  | .waitReread q imm => Sys2Proof.Machine.execWaitReread q imm s
  | .signalPacket q => Sys2Proof.Machine.execSignalPacket q s
  | .graphPacket q => Sys2Proof.Machine.execGraphPacket q s
  | .graphNodeStart q imm => Sys2Proof.Machine.execGraphNodeStart q imm s
  | .notifyPacket q => Sys2Proof.Machine.execNotifyPacket q s
  | .notifyTakenReread q imm => Sys2Proof.Machine.execNotifyTakenReread q imm s
  | .notifyTimeInterrupt ring => Sys2Proof.Machine.execNotifyTimeInterrupt ring s
  | .dependenceReread l => Sys2Proof.Machine.execDependenceReread l s
  | .evringWrite st n v => Sys2Proof.Machine.execEvringWrite st n v s
  | .sdmodeWrite st v => Sys2Proof.Machine.execSdmodeWrite st v s
  | .sdmodeTakeEffect st => Sys2Proof.Machine.execSdmodeTakeEffect st s
  | .cpLoad cp done => Sys2Proof.Machine.execCpLoad cp s done
  | .cpCastle => Sys2Proof.Machine.execCpCastle s
  | .cpPowerOff => Sys2Proof.Machine.execCpPowerOff s
  | .castlingImport errors => Sys2Proof.Machine.execCastlingImport errors s
  | .castlingTimeout => Sys2Proof.Machine.execCastlingTimeout s
  | .createContext q => Sys2Proof.Machine.execCreateContext q s
  | .destroyContext q => Sys2Proof.Machine.execDestroyContext q s
  | .registerQueue q => Sys2Proof.Machine.execRegisterQueue q s
  | .resetQueue q => Sys2Proof.Machine.execResetQueue q s
  | .preempt q => Sys2Proof.Machine.execPreempt q s
  | .drainBoundExpiry ctx => Sys2Proof.Machine.execDrainBoundExpiry ctx s
  | .evictBoundExpiry ctx => Sys2Proof.Machine.execEvictBoundExpiry ctx s
  | .resume q => Sys2Proof.Machine.execResume q s
  | .gangRestore g st => Sys2Proof.Machine.execGangRestore g st s
  | .invalidate q => Sys2Proof.Machine.execInvalidate q s
  | .invalidationAck q st => Sys2Proof.Machine.execInvalidationAck q st s
  | .resolve q => Sys2Proof.Machine.execResolve q s
  | .refuse q => Sys2Proof.Machine.execRefuse q s
  | .migratePage q => Sys2Proof.Machine.execMigratePage q s
  | .rebuildChannel q => Sys2Proof.Machine.execRebuildChannel q s
  | .rebuildStep st errors => Sys2Proof.Machine.execRebuildStep st s errors
  | .beginLayerMapOut q => Sys2Proof.Machine.execBeginLayerMapOut q s
  | .confirmLayerRemoval q => Sys2Proof.Machine.execConfirmLayerRemoval q s
  | .mapOutCopyStep st errors => Sys2Proof.Machine.execMapOutCopyStep st s errors
  | .patrolScrub st blk errors => Sys2Proof.Machine.execPatrolScrub st blk errors s
  | .bankModeWrite st cl bank v => Sys2Proof.Machine.execBankModeWrite st cl bank v s
  | .bankModeChangeComplete st cl bank => Sys2Proof.Machine.execBankModeChangeComplete st cl bank s
  | .partitionEnable st v => Sys2Proof.Machine.execPartitionEnable st v s
  | .scrubComplete st aq desc => Sys2Proof.Machine.execScrubComplete st aq desc s
  | .ringTransfer src dst => Sys2Proof.Machine.execRingTransfer src dst s
  | .hostMemRequest st wr own addr size data poison => Sys2Proof.Machine.execHostMemRequest st wr own addr size data s poison
  | .backInvalidationResponse st line dirty data poison => Sys2Proof.Machine.execBackInvalidationResponse st line dirty data s poison
  | .hostSnoop st line inv off size data poison => Sys2Proof.Machine.execHostSnoop st line inv s off size data poison
  | .linkDown st => Sys2Proof.Machine.execLinkDown st s
  | .viralReceived st => Sys2Proof.Machine.execViralReceived st s
  | .completionTimeout x => Sys2Proof.Machine.execCompletionTimeout x s
  | .routeFreeze st => Sys2Proof.Machine.execRouteFreeze st s
  | .routeUnfreeze st retired => Sys2Proof.Machine.execRouteUnfreeze st retired s
  | .ptmExchange st master => Sys2Proof.Machine.execPtmExchange st master s
  | .ptmHoldoverTimeout st => Sys2Proof.Machine.execPtmHoldoverTimeout st s
  | .governorTick st td tl => Sys2Proof.Machine.execGovernorTick st td tl s
  | .powerUp st => Sys2Proof.Machine.execPowerUp st s
  | .bootLoadConfig st done => Sys2Proof.Machine.execBootLoadConfig st s done
  | .idpubReceived st => Sys2Proof.Machine.execIdpubReceived st s
  | .idpubTimeout st => Sys2Proof.Machine.execIdpubTimeout st s
  | .bootProduceQuote st => Sys2Proof.Machine.execBootProduceQuote st s
  | .quoteWriteComplete st ok => Sys2Proof.Machine.execQuoteWriteComplete st ok s
  | .capbaseWrite st v => Sys2Proof.Machine.execCapbaseWrite st v s
  | .registerWrite st off v => Sys2Proof.Machine.execRegisterWrite st off v s
  | .savedGangDeadline g => Sys2Proof.Machine.execSavedGangDeadline g s
  | .linkUp st => Sys2Proof.Machine.execLinkUp st s

end Sys2Proof.Machine
end

