-- ==== Sys2Proof/Machine/Schedule.lean ====
section
/-! DEFINITION. What the device does next: the move that a wave makes at an instruction boundary (R153, R170, R238), which
wave a core's issue group picks (R263, R264), and the choice among everything that can happen (R449). -/
namespace Sys2Proof.Machine

/-! ### A wave's move -/

/-- What a wave does at its boundary: a join is released, handler entry that has begun goes on, an instruction issues
from the selected entry, or the wave enters its trap handler. A wave that may not issue does nothing. -/
def State.waveMove (s : State) (g w : Nat) : Option (Instr × State) :=
  match aget s.gangs g with
  | none => none
  | some gang =>
    match gang.waves[w]? with
    | none => none
    | some wave =>
      if !s.waveAlive g w gang wave then none
      else
        let core := wave.core.boundary
        let t := s.setWave g w { wave with core := core }
        match core.releasable with
        | some e => some (.joinRelease g w e, t)
        | none =>
          if wave.entering then some (.handlerEntry g w, t)
          else match selectEntry core.frontier with
          | some k =>
            if !s.waveRuns g w gang wave || wave.yieldHold then none
            else (core.frontier[k]?).map (fun e =>
              (t.instructionAt g w gang wave e, { t.fetched gang wave e.pc with cur := some (g, w, k) }))
          | none => if core.handlerDue then some (.handlerEntry g w, t) else none

/-! ### Issue (R263, R264) -/

/-- A wave that competes for its group's issue: where it is, and what it is compared by. -/
structure Rival where
  g : Nat
  w : Nat
  stack : Nat
  core : Nat
  slot : Nat
  rank : Nat
  issued : Nat
  deriving DecidableEq, Repr

/-- The eligible waves: no stall, no hold, a selected entry. -/
def State.rivals (s : State) : List Rival :=
  s.gangs.flatMap (fun p => (p.2.waves.mapIdx (fun w x => (w, x))).filterMap (fun q =>
    if s.waveMayIssue p.1 q.1 p.2 q.2 && !s.waveStalled p.1 q.1 p.2 q.2 then
      some { g := p.1, w := q.1, stack := p.2.stack, core := q.2.coreId, slot := q.2.slot
             rank := if q.2.aged then 65 else q.2.rank, issued := q.2.issued }
    else none))

/-- The same issue group of the same core. -/
def Rival.meets (a b : Rival) : Bool := a.stack == b.stack && a.core == b.core && a.slot % 4 == b.slot % 4

/-- a is picked before b: higher priority, then longer since it issued, then the lower slot. -/
def Rival.beats (a b : Rival) : Bool :=
  decide (b.rank < a.rank) || (a.rank == b.rank && (decide (a.issued < b.issued) ||
    (a.issued == b.issued && decide (a.slot < b.slot))))

/-- The wave has a rival in its group that is picked before it. -/
def beaten (rs : List Rival) (g w : Nat) : Bool :=
  rs.any (fun a => a.g == g && a.w == w && rs.any (fun b => a.meets b && b.beats a))

/-! ### The next move -/

/-- The moves that waves can make: of an issue group only the wave that it picks issues. -/
def State.waveMoves (s : State) : List (Instr × State) :=
  let rs := s.rivals
  (s.allWaves.filter (fun p => !beaten rs p.1 p.2)).filterMap (fun p => s.waveMove p.1 p.2)

/-- An event of the device or of the outside world; words and illegal words come from waves alone. -/
def isEvent (i : Instr) : Bool := match i with | .illegalInstruction _ => false | i => !i.isWord

/-- A join that is judged satisfied, in a wave at its boundary: it releases before anything else changes (R170). -/
def State.dueRelease (s : State) : Option (Instr × State) :=
  (s.allWaves.filter (fun p => ((s.wave p.1 p.2).map (fun v => (v.core.boundary.releasable).isSome)).getD false)).findSome?
    (fun p => s.waveMove p.1 p.2)

/-- What must happen before anything else: a flag fall or deadline whose instant has come (R321, R329). -/
def State.urgent (s : State) : Option Instr :=
  s.launches.findSome? (fun p =>
    if s.dispatcherDue p.1 then some (.dispatcherFlagFall p.1)
    else (List.range 12).findSome? (fun st =>
      if s.flagFallDue p.1 st then some (.flagFall p.1 st)
      else if s.deadlineDue p.1 st then some (.deadlineKill p.1 st)
      else none))

/-- What comes next: the wave that `cur` names; else a join that is due; else the head of the agenda; else what is
urgent; else one of the things that can happen, the device's and the world's own event among them (assumptions 2 and
3). -/
def State.nextMove (s : State) : Option (Instr × State) :=
  match s.cur with
  | some (g, w, _) => s.waveMove g w
  | none =>
    match s.dueRelease with
    | some x => some x
    | none =>
    match s.agenda.filter isEvent with
    | i :: rest => some (i, { s with agenda := rest })
    | [] =>
      match s.urgent with
      | some i => some (i, s)
      | none =>
        let xs := s.waveMoves ++ ((Config.event s.tick).filter isEvent).toList.map (fun i => (i, s))
        xs[s.choose 0 xs.length]?

/-! ### Time (R319, R358 to R360) -/

/-- A clock that is steered: it has stepped to master time once (R360). -/
def Stack.steered (t : Stack) : Bool := t.timeState != 0

/-- Budget for leaving the rate, with e nanoseconds more: 200 ppm of them, and less than a nanosecond left from before. -/
def Stack.slewFor (t : Stack) (e : Nat) : Nat := min t.slew 999999 + 200 * e

/-- How far a steered clock leaves its rate in a step that takes e nanoseconds, as the device chooses within ±200 ppm:
toward master time by its last offset while exchanges complete, else either way (R360). -/
def State.drift (s : State) (st e : Nat) : Int :=
  let t := s.stack st
  let n := min e (t.slewFor e / 1000000)
  let d : Int := (s.chooseAt [32, st] (n + 1) : Nat)
  let back := if t.timeEnable && t.linkUp then decide (t.timeOffset < 0) else s.chooseAt [33, st] 2 == 1
  if back then -d else d

/-- A stack's clock after a step with this drift; one that has not been steered counts free. -/
def Stack.advanceClock (t : Stack) (e own : Nat) (d : Int) : Stack :=
  if t.steered then
    { t with now := ((t.now + e : Nat) + d : Int).toNat, slew := t.slewFor e - 1000000 * d.natAbs }
  else { t with now := t.now + own }

/-- The locked clocks lie within 100 ns of each other (R319, R360). -/
def State.clocksAgree (s : State) : Bool :=
  let locked := (s.stackTab.filter (fun t => t.timeState == 2)).map (fun t => t.now)
  locked.all (fun a => locked.all (fun b => decide (a ≤ b + 100)))

/-- The clocks after a step; where the drifts would part two locked clocks, none leaves its rate (assumption 4). -/
def State.tickClocks (s : State) : State :=
  let e := Config.elapsed s.tick 0
  let moved := fun (drift : Nat → Int) => ({ s with
    master := s.master + Config.elapsed s.tick 13
    stackTab := s.stackTab.mapIdx (fun st t => t.advanceClock e (Config.elapsed s.tick (st + 1)) (drift st)) } : State)
  let t := moved (s.drift · e)
  if t.clocksAgree then t else moved (fun _ => 0)

/-- The counters of the cycles for which R442 held sub-arrays and datapaths: timing that the device alone shows (R443). -/
def Stack.countHeld (t : Stack) (tick st : Nat) : Stack :=
  (List.range 8).foldl (fun (x : Stack) k => x.count (0x060 + 8 * k) (Config.elapsed tick (16 + 8 * st + k))) t

/-- The end of a step: the tick rises, nothing is issuing, events that waited are numbered if they can be, holds of
YIELD end (R175), and time passes (assumption 4). -/
def State.endStep (s : State) : State :=
  let t := (State.numberWaiting s.waitingEvents.length { s with cur := none }).endHolds.tickClocks
  { t with tick := t.tick + 1, stackTab := t.stackTab.mapIdx (fun st x => x.countHeld t.tick st) }

/-! ### A word placed to run -/

/-- A launch of one gang of one wave on one core, whose code is the 64 KiB at virtual address 0. -/
def wordDesc : Desc :=
  { code := 0, codeSize := 65536, entry := 0, wrapup := 0xFFFFFFFF, spad := 65536, regs := 512, waves := 1, cores := 1
    fifos := [1], entryPrio := 32, wrapPrio := 0, tiles := [], nx := 1, ny := 1, nz := 1, cls := 0
    allResident := false, spill := false, capture := false, deadline := 0, budget := 0, cost := 0, record := 0
    launchid := 0, dep := 0, depValue := 0, done := 0, args := [] }

/-- That launch, accepted, with its gang placed. -/
def wordLaunch (from_ : Nat) : Launch :=
  { desc := wordDesc, ctx := 0, owner := ⟨0, 0, false⟩, seq := 0, depMet := true, next := 1, normal := 0
    wrapped := 0, killed := 0, unstarted := 0, started := true, ff := false, ffEarly := false, ffStacks := [],
    dispatchFf := false, validity := .full, anyRetired := false, stackBars := [], pkgBars := [], pool := none, recorded := false
    cstFrom := from_, codeFrom := [(0, from_)], start := [], finish := [], heldPage := none, wasReset := false }

/-- Its context, with the page table at physical address 0x1000, in partition 0. -/
def wordContext : Context :=
  { root := 0x1000, placeBase := 0, placeTable := 0, placeCount := 0, breakNotify := false, captureOk := false
    trapEntry := 0, trapArea := 0, saveArea := 0, saveSize := 0, watchdog := 0, partition := 0, tensors := []
    requested := [], rung := .none, fetchStopped := false, resuming := []
    refusing := none }

/-- Its page tables (R393, R394): one table a level, and a leaf at 0x5000 for the page at 0x10000 that grants r, w and x;
then the word. -/
def wordBytes (v : W32) : List (Nat × List Byte) :=
  let table := fun (pa : Nat) => natLe 8 (2 ^ 62 + pa)
  [(0x1000, table 0x2000), (0x2000, table 0x3000), (0x3000, table 0x4000), (0x4000, table 0x5000),
   (0x5000, natLe 8 (2 ^ 63 + 0x10000 + 0xE)), (0x10000, natLe 4 v.toNat)]

/-- Its gang on stack 0: wave 0 in slot 0 of core 0. -/
def wordGang (now : Nat) : Gang :=
  (Gang.waiting 0 0 0 0 0).start wordDesc 0 0 [0, 1]
    [Wave.start (WaveCore.start 0xFFFFFFFF 0 32 []) 0 0 now]

/-- The state with a resident wave that is about to fetch this word, and all that this takes (assumption 12): launch,
gang and context 0, the page tables, stack 0 enabled in partition 0. -/
def State.withWord (s : State) (v : W32) : State :=
  let fresh := [Past.fresh .mem 0x1000 0x6000, .fresh .mem 0x10000 0x10010]
  let s : State := { s with
    agenda := []
    cur := some (0, 0, 0)
    mem := (wordBytes v).foldl (fun (m : Sparse Byte) (p : Nat × List Byte) => writeBytes m p.1 p.2) s.mem
    poison := (wordBytes v).foldl (fun (m : Sparse Bool) (p : Nat × List Byte) => Sparse.set false m (p.1 / 16) false)
      s.poison
    history := fresh ++ s.history
    contexts := aput s.contexts 0 wordContext
    launches := aput s.launches 0 (wordLaunch (s.history.length + 2))
    gangs := aput s.gangs 0 (wordGang (s.stack 0).now)
    partitions := s.partitions.map (fun p => { p with faults := p.faults.filter (fun h => h.src != some (0, 0)) }) }
  s.modStack 0 (fun t => { t with
    enable := true, partNum := 0, capacity := max t.capacity 0x20000, haltArrived := false
    snoops := t.snoops.filter (fun x => decide (0x11000 ≤ 128 * x.line))
    tlb := t.tlb.drop 0 0 (2 ^ 64) })

end Sys2Proof.Machine
end

