-- ==== Sys2Proof/Machine/Step.lean ====
section
/-! DEFINITION. One step of the package: the next move, its meaning, and the time that passes. -/
namespace Sys2Proof.Machine

/-- One step: what comes next happens, and time passes; when nothing happens, only time passes. -/
def step (s : State) : Host.Outcome State Fault Refusal :=
  match s.nextMove with
  | none => .next s.endStep
  | some (i, t) =>
    match exec i t with
    | .next u => .next u.endStep
    | .fault f => .fault f
    | .refused r => .refused r

/-- The state whose next step fetches and runs this word: see `State.withWord` (assumption 12). -/
def State.withFetchWord (s : State) (nbits w : Nat) : State := s.withWord (BitVec.ofNat 32 (w % 2 ^ nbits))

end Sys2Proof.Machine
end

