-- ==== Sys2Proof/Safety.lean ====
section
/-! DEFINITION. What counts as a safe run, the invariant that every step keeps, and the words in which the claims say
what an instruction does and what it leaves alone. -/
namespace Sys2Proof.Machine

/-! ### Safe runs and the invariant -/

/-- A table of bytes is in canonical form: addresses strictly rise and no entry holds 0, which an unlisted address reads
as. -/
def Memory.wf (m : Sparse Byte) : Bool := Sparse.wf 0 m

/-- Memory and the poison of its sectors are in canonical form. -/
def State.memoryOk (s : State) : Bool := Memory.wf s.mem && Sparse.wf false s.poison

/-- The package is whole: canonical memory, twelve stacks (R1), twelve partitions (R387). -/
def State.Inv (s : State) : Prop :=
  s.memoryOk = true ∧ s.stackTab.length = 12 ∧ s.partitions.length = 12

/-- A run of n steps that neither a fault nor a refusal ends. -/
def SafeFor (n : Nat) (s : State) : Prop := ∃ t, Sys2Proof.core.run n s = .next t

/-- A safe run: every one of its steps has a next state. -/
def Safe (s : State) : Prop := ∀ n, SafeFor n s

/-! ### What a word does

`Executes i s c` says that the word issues to execution: `State.cur` names a ready entry of a wave that runs, no access of
the wave is held, no step-1 check fails (R51, R167, R242), no pending token is named (R23), no load is due in a register it
names (R19), no stale latch is named (R20), and a speculating wave may execute it (R336). `c` is that issue: the gang,
the wave with its latches lost where the word is a switch point, the entry and its active lanes. -/

/-- The word executes. -/
def Executes (i : Instr) (s : State) (c : Issue) : Prop := decideIssue i s = .go c

/-- The word completes in place with this core of its wave: its entry goes on at PC + 4, and nothing outside the wave
changes. -/
def Completes (i : Instr) (s : State) (c : Issue) (core : WaveCore) : Prop :=
  exec i s = .next (s.setWave c.g c.w (c.advance i s core))

/-- Lane `l` becomes `l'` by taking a result in register d or, when `wide`, in the pair d and d + 1: under nw no register
is written; b0 takes the result and the other latches shift, unless the word is a Stall switch point; nothing else of the
lane changes (R13, R17, R18, R54, R109). -/
def Took (c : Issue) (nw wide : Bool) (d : Reg) (val : W64) (mark : Bool) (l l' : Lane) : Prop :=
  l' = { l with regs := l'.regs, marks := l'.marks, latches := l'.latches } ∧
  l'.latches = (if c.quiet then l.latches else (⟨val, mark⟩ :: l.latches).take 8) ∧
  (∀ r, Sparse.get 0 l'.regs r =
    if nw then Sparse.get 0 l.regs r
    else if r = l.arch d.toNat then val.setWidth 32
    else if wide ∧ r = l.arch (d.toNat + 1) then val.extractLsb' 32 32
    else Sparse.get 0 l.regs r) ∧
  (∀ r, Sparse.get false l'.marks r =
    if nw then Sparse.get false l.marks r
    else if r = l.arch d.toNat ∨ (wide ∧ r = l.arch (d.toNat + 1)) then mark
    else Sparse.get false l.marks r)

/-- Each lane of the wave changes by its number: `f n l l'` relates lane n before and after. -/
def LaneWise (before after : List Lane) (f : Nat → Lane → Lane → Prop) : Prop :=
  after.length = before.length ∧ ∀ n l l', before[n]? = some l → after[n]? = some l' → f n l l'

/-- A word with a per-lane result (R106, R109): every active lane takes `val`, marked as `mark` says; a lane that a
GUARD run masks off keeps its destination and passes it to b0; other lanes, uniform registers, predicates, special
registers and everything outside the wave stay as they are. -/
def GivesValue (i : Instr) (s : State) (c : Issue) (nw wide : Bool) (d : Reg) (val : Nat → Lane → W64)
    (mark : Nat → Lane → Bool) : Prop :=
  ∃ lanes, Completes i s c { c.wave.core with lanes := lanes, latchCount := c.latchesAfter } ∧
    LaneWise c.wave.core.lanes lanes (fun n l l' =>
      if c.on n then Took c nw wide d (val n l) (mark n l) l l'
      else if c.masked n then l' = c.keep nw wide d l
      else l' = l)

/-- The same with a 32-bit result. -/
def Gives32 (i : Instr) (s : State) (c : Issue) (nw : Bool) (d : Reg) (val : Lane → W32) (mark : Lane → Bool) : Prop :=
  GivesValue i s c nw false d (fun _ l => (val l).setWidth 64) (fun _ l => mark l)

/-- The same with a 64-bit result in a pair. -/
def Gives64 (i : Instr) (s : State) (c : Issue) (nw : Bool) (d : Reg) (val : Lane → W64) (mark : Lane → Bool) : Prop :=
  GivesValue i s c nw true d (fun _ l => val l) (fun _ l => mark l)

/-- A word that writes predicate q in each active lane, unless q is p0 (R21); nothing else changes. -/
def GivesPred (i : Instr) (s : State) (c : Issue) (q : BitVec 4) (val mark : Nat → Lane → Bool) : Prop :=
  ∃ lanes, Completes i s c { c.wave.core with lanes := lanes } ∧
    LaneWise c.wave.core.lanes lanes (fun n l l' =>
      l' = { l with preds := l'.preds, predMarks := l'.predMarks } ∧
      (∀ p : BitVec 4, p ≠ q ∨ c.on n = false → l'.pred p = l.pred p ∧ l'.predMark p = l.predMark p) ∧
      (c.on n = true → q ≠ 0 → l'.pred q = val n l ∧ l'.predMark q = mark n l))

/-- A uniform word (R106): once for the wave when some lane is active, it writes uniform register d; nothing else
changes. -/
def GivesUniform (i : Instr) (s : State) (c : Issue) (d : Reg) (val : WaveCore → W64) (mark : WaveCore → Bool) : Prop :=
  ∃ regs marks, Completes i s c { c.wave.core with s := regs, sMarks := marks } ∧
    (∀ r, Sparse.get 0 regs r =
      if c.any ∧ r = d.toNat then val c.wave.core else Sparse.get 0 c.wave.core.s r) ∧
    (∀ r, Sparse.get false marks r =
      if c.any ∧ r = d.toNat then mark c.wave.core else Sparse.get false c.wave.core.sMarks r)

/-- A word whose 32-bit result is a function of its source a; marked when a is. -/
def Unary32 (i : Instr) (nw : Bool) (d a : Reg) (f : W32 → W32) : Prop :=
  ∀ s c, Executes i s c → Gives32 i s c nw d (fun l => f (l.src32 a)) (fun l => l.marked a 1)

/-- A word whose 32-bit result is a function of its sources a and b; marked when one of them is (R109). -/
def Binary32 (i : Instr) (nw : Bool) (d a b : Reg) (f : W32 → W32 → W32) : Prop :=
  ∀ s c, Executes i s c →
    Gives32 i s c nw d (fun l => f (l.src32 a) (l.src32 b)) (fun l => l.marked a 1 || l.marked b 1)

/-- The same with d read as a third source. -/
def Ternary32 (i : Instr) (nw : Bool) (d a b : Reg) (f : W32 → W32 → W32 → W32) : Prop :=
  ∀ s c, Executes i s c →
    Gives32 i s c nw d (fun l => f (l.src32 a) (l.src32 b) (l.src32 d))
      (fun l => l.marked a 1 || l.marked b 1 || l.marked d 1)

/-- A word whose 64-bit result is a function of the pair a. -/
def Unary64 (i : Instr) (nw : Bool) (d a : Reg) (f : W64 → W64) : Prop :=
  ∀ s c, Executes i s c → Gives64 i s c nw d (fun l => f (l.src64 a)) (fun l => l.marked a 2)

/-- A word whose 64-bit result is a function of the pairs a and b. -/
def Binary64 (i : Instr) (nw : Bool) (d a b : Reg) (f : W64 → W64 → W64) : Prop :=
  ∀ s c, Executes i s c →
    Gives64 i s c nw d (fun l => f (l.src64 a) (l.src64 b)) (fun l => l.marked a 2 || l.marked b 2)

/-- A word whose 64-bit result is a function of the pair a and of the register b. -/
def Mixed64 (i : Instr) (nw : Bool) (d a b : Reg) (f : W64 → W32 → W64) : Prop :=
  ∀ s c, Executes i s c →
    Gives64 i s c nw d (fun l => f (l.src64 a) (l.src32 b)) (fun l => l.marked a 2 || l.marked b 1)

/-- A uniform word whose result is a function of a. -/
def UnaryU (i : Instr) (d a : Reg) (f : W64 → W64) : Prop :=
  ∀ s c, Executes i s c → GivesUniform i s c d (fun w => f (w.uni a)) (fun w => w.uniMark a)

/-- A uniform word whose result is a function of a and b. -/
def BinaryU (i : Instr) (d a b : Reg) (f : W64 → W64 → W64) : Prop :=
  ∀ s c, Executes i s c →
    GivesUniform i s c d (fun w => f (w.uni a) (w.uni b)) (fun w => w.uniMark a || w.uniMark b)

/-- The same with d read as a third source. -/
def TernaryU (i : Instr) (d a b : Reg) (f : W64 → W64 → W64 → W64) : Prop :=
  ∀ s c, Executes i s c →
    GivesUniform i s c d (fun w => f (w.uni a) (w.uni b) (w.uni d))
      (fun w => w.uniMark a || w.uniMark b || w.uniMark d)

/-! ### Floating-point words -/

/-- Lane n raises an exception that it enables (R133). -/
def Raises (c : Issue) (exc : Lane → Exc) (n : Nat) : Bool :=
  c.on n && (exc (c.wave.core.lane n) &&& (c.wave.core.lane n).xenable != 0)

/-- A lane that takes a floating-point result also ORs its exceptions into xflags and keeps its seed as drawn (R96,
R133). -/
def TookFloat (c : Issue) (nw wide : Bool) (d : Reg) (r : FpOut) (mark : Bool) (l l' : Lane) : Prop :=
  ∃ k, Took c nw wide d r.val mark l k ∧ l' = { k with xflags := l.xflags ||| r.exc, seed := r.seed }

/-- A lane recorded for the deferred path by the issuing entry (R236). -/
def Recorded (c : Issue) (n : Nat) (why : Cause) (resume : W64) (l : Lane) : Lane :=
  { l with trap := some (c.entry.item n why resume) }

/-- The wave after an instruction at which the lanes of `traps` are recorded: they leave the entry, which goes on without
them, and enter trapmask (R236). -/
def Traps (i : Instr) (s : State) (c : Issue) (traps : BitVec 32) (core : WaveCore) : Prop :=
  exec i s = .next (s.setWave c.g c.w (c.note s { c.wave with core := { core with
    frontier := putEntry c.wave.core.frontier c.k { c.entry.next with lanes := c.entry.lanes &&& ~~~traps }
    trapmask := c.wave.core.trapmask ||| traps } }))

/-- An instruction at which some lane traps, where no lane can be recorded: a speculating wave stalls before it
(R244), and a trap in handler mode is a double trap (R241). -/
def TrapRefused (i : Instr) (s : State) (c : Issue) : Prop :=
  (c.wave.spec.isSome = true → exec i s = .next (c.specStall s 0x0C8)) ∧
  (c.wave.spec = none → c.wave.core.handler = true →
    exec i s = .next (s.raiseHalt (c.halt s reasonDoubleTrap 0 0 0)))

/-- An illegal-instruction trap in every active lane, at execution: the word has no other effect (R79, R236, R248). -/
def TrapsActive (i : Instr) (s : State) (c : Issue) : Prop :=
  TrapRefused i s c ∧ (c.wave.spec = none → c.wave.core.handler = false →
    ∃ lanes, Traps i s c c.active { c.wave.core with lanes := lanes } ∧
      LaneWise c.wave.core.lanes lanes (fun n l l' =>
        l' = if c.on n then Recorded c n causeIllegalLane c.entry.pc l else l))

/-- The word raises the halt line with this reason and address, and has no other effect (R247, R411); a speculating wave
holds the fault (R337). -/
def FaultsAt (i : Instr) (s : State) (c : Issue) (reason va : Nat) : Prop :=
  exec i s = .next (c.fault s reason va 0 0)

/-- A value-producing floating-point word (R130, R132, R133): where no active lane raises an exception it enables, it
completes; where some do, those lanes write nothing and are recorded with cause 1 at the word, to run it again, and the
others take their results. -/
def FloatWord (i : Instr) (nw wide : Bool) (d : Reg) (out : Lane → FpOut) (mark : Lane → Bool) : Prop :=
  ∀ s c, Executes i s c →
    ((∀ n, Raises c (fun l => (out l).exc) n = false) →
      ∃ lanes, Completes i s c { c.wave.core with lanes := lanes, latchCount := c.latchesAfter } ∧
        LaneWise c.wave.core.lanes lanes (fun n l l' =>
          if c.on n then TookFloat c nw wide d (out l) (mark l) l l'
          else if c.masked n then l' = c.keep nw wide d l
          else l' = l)) ∧
    ((∃ n, Raises c (fun l => (out l).exc) n = true) → TrapRefused i s c) ∧
    ((∃ n, Raises c (fun l => (out l).exc) n = true) → c.wave.spec = none → c.wave.core.handler = false →
      ∃ traps lanes, (∀ n, has traps n = Raises c (fun l => (out l).exc) n) ∧
        Traps i s c traps { c.wave.core with lanes := lanes, latchCount := c.latchesAfter } ∧
        LaneWise c.wave.core.lanes lanes (fun n l l' =>
          if has traps n then
            l' = Recorded c n (causeArithmetic (out l).exc) c.entry.pc (c.keep nw wide d l)
          else if c.on n then TookFloat c nw wide d (out l) (mark l) l l'
          else if c.masked n then l' = c.keep nw wide d l
          else l' = l))

/-- A source as the number it encodes. -/
def Lane.num (l : Lane) (wide : Bool) (f : Reg) : XVal := (fmtOfWidth wide).decode (l.srcOf wide f)

/-- A floating-point word whose result is a function of the encodings of a and b. -/
def FloatBinary (i : Instr) (nw wide : Bool) (d a b : Reg) (f : Nat → Nat → Res) : Prop :=
  FloatWord i nw wide d (fun l => fpOut l (f (l.srcOf wide a) (l.srcOf wide b)))
    (fun l => l.markOf wide a || l.markOf wide b)

/-- The same for the exact values of a and b, rounded once. -/
def FloatExact (i : Instr) (nw wide : Bool) (mode : Rounding) (d a b : Reg) (f : XVal → XVal → XVal) : Prop :=
  FloatWord i nw wide d (fun l => fpOut l ((fmtOfWidth wide).round mode (f (l.num wide a) (l.num wide b))))
    (fun l => l.markOf wide a || l.markOf wide b)

/-- The same for the exact values of a, b and d. -/
def FloatFused (i : Instr) (nw wide : Bool) (mode : Rounding) (d a b : Reg) (f : XVal → XVal → XVal → XVal) : Prop :=
  FloatWord i nw wide d
    (fun l => fpOut l ((fmtOfWidth wide).round mode (f (l.num wide a) (l.num wide b) (l.num wide d))))
    (fun l => l.markOf wide a || l.markOf wide b || l.markOf wide d)

/-- A floating-point word whose result is a function of the encoding of a. -/
def FloatUnary (i : Instr) (nw wide : Bool) (d a : Reg) (f : Nat → Res) : Prop :=
  FloatWord i nw wide d (fun l => fpOut l (f (l.srcOf wide a))) (fun l => l.markOf wide a)

/-- A packed word: the same function on the halves of a, b and d (R146), exceptions ORed (R147). -/
def FloatPacked (i : Instr) (nw : Bool) (d a b : Reg) (usesD : Bool) (f : Nat → Nat → Nat → Res) : Prop :=
  FloatWord i nw false d
    (fun l =>
      let half := fun (v : W32) (k : Nat) => (v.extractLsb' (16 * k) 16).toNat
      let r := fun k => f (half (l.src32 a) k) (half (l.src32 b) k) (half (l.src32 d) k)
      ⟨(BitVec.ofNat 16 (r 1).bits ++ BitVec.ofNat 16 (r 0).bits).setWidth 64, (r 0).exc ||| (r 1).exc, l.seed⟩)
    (fun l => l.marked a 1 || l.marked b 1 || (usesD && l.marked d 1))

/-! ### Transfers -/

/-- A transfer (R158): `goes` says where each active lane goes, or that it traps there alone; `change` what else
becomes of it. The lanes that go on form the entries of `news`, one ready entry for each target and priority, without
a guard run; the issuing entry is gone. An entry that parts into two or more has switched (R156). -/
def Transfers (i : Instr) (s : State) (c : Issue) (goes : Nat → Option (W64 × BitVec 6)) (change : Nat → Lane → Lane) :
    Prop :=
  ((∃ n, c.on n = true ∧ goes n = none) → TrapRefused i s c) ∧
  ((∀ n, c.on n = true → goes n ≠ none) ∨ (c.wave.spec = none ∧ c.wave.core.handler = false) →
  ∃ traps lanes news, (∀ n, has traps n = (c.on n && (goes n).isNone)) ∧
    exec i s = .next (s.setWave c.g c.w (({ c with parts := decide (2 ≤ news.length) } : Issue).note s
      { c.wave with core := { c.wave.core with
        lanes := lanes
        frontier := c.wave.core.frontier.eraseIdx c.k ++ news
        trapmask := c.wave.core.trapmask ||| traps } })) ∧
    LaneWise c.wave.core.lanes lanes (fun n l l' =>
      l' = if has traps n then Recorded c n causeIllegalLane c.entry.pc (change n l)
        else if c.on n then change n l else l) ∧
    news.Pairwise (fun e f => e.pc ≠ f.pc ∨ e.prio ≠ f.prio) ∧
    (∀ e ∈ news, e.state = .ready ∧ e.guard = ⟨0, 0⟩ ∧ e.aside = false ∧ e.lanes ≠ 0 ∧
      ∀ n, has e.lanes n = (c.on n && goes n == some (e.pc, e.prio))) ∧
    (∀ n, c.on n = true → goes n ≠ none → ∃ e ∈ news, has e.lanes n = true))

/-! ### Queues, engines and the matrix unit -/

/-- The issuing wave completed a word that names a token: the token register holds 0 and is pending (R23). -/
def Issue.doneWith (c : Issue) (i : Instr) (s : State) (token : Option Nat) : State :=
  ({ c with wave := c.wave.newToken token } : Issue).done i s (c.wave.newToken token).core

/-- The parameter block that a matrix word names passes the checks of R221 and R222: 128 bytes of the scratchpad at a
multiple of 128, reserved fields 0, naming a unit of the grant that is not lost. -/
structure ReadsBlock (s : State) (c : Issue) (a : Reg) (b : List Byte) (u : MxUnit) : Prop where
  acts : c.any = true
  clean : c.wave.core.uniMark a = false
  placed : (c.wave.core.uni a).toNat % 128 = 0 ∧ (c.wave.core.uni a).toNat + 128 ≤ s.spadSize c.gang
  bytes : b = c.blockBytes s (c.wave.core.uni a).toNat
  reserved : blockReserved b = true
  unit : ∃ r, c.gang.grant = some r ∧ r.units[blockUnit b]? = some u
  kept : u.lost = false

/-- A matrix operation goes to the queue of its unit, the wave goes on, and nothing else changes; a full queue stalls the
wave before the word (R222). -/
def Enqueues (i : Instr) (s : State) (c : Issue) (token : Option Nat) (x : MxOp) : Prop :=
  (unitQueue ≤ (s.unitOps c.g x.unit).length → exec i s = .next s) ∧
  ((s.unitOps c.g x.unit).length < unitQueue →
    exec i s = .next { c.doneWith i s token with nextId := s.nextId + 1, mxops := s.mxops ++ [(s.nextId, x)] })

/-- Queue k is worked on: it runs, nothing stops it, and its status block has caught up (R367, R411, R451). -/
structure Worked (s : State) (k : Nat) (q : Queue) : Prop where
  here : aget s.queues k = some q
  runs : s.queueRuns q = true
  caughtUp : q.statusDue = false

/-- How the start of a packet ends: a finished packet completes, a running one stays open, one that must wait changes
nothing but what it waits for, and an error stops the queue, which names the packet (R367, R368, R370). -/
def Begun.ends (k i : Nat) (s : State) (b : Begun) : State :=
  let stop := fun (t : State) (code detail : Nat) =>
    (t.modQueue k (fun x => { x with phase := .idle })).stopQueue k code detail i
  match b with
  | .done t => (t.startPacket k).completePacket k i
  | .running t => t.startPacket k
  | .blocked t => t
  | .error code detail => stop s code detail
  | .writeRefused t => stop t 8 0

/-- An event whose start of packet i of queue k ends so. -/
def PacketBegins (e : Instr) (s : State) (k i : Nat) (b : Begun) : Prop := exec e s = .next (b.ends k i s)

/-! ### Accesses of lanes -/

/-- The scratchpad size of the issuing gang's kernel. -/
def Issue.spadSize (c : Issue) (s : State) : Nat := ((s.launchOf c.gang).map (fun l => l.desc.spad)).getD 0

/-- What the checks of R179 make of a lane's request. -/
def Issue.fateOf (c : Issue) (s : State) (r : Request) : Fate :=
  s.fate (s.ctxOf c.gang) c.gang.stack (c.spadSize s) r

/-- Where a request goes once its checks pass. -/
def Issue.pieces (c : Issue) (s : State) (r : Request) : List (Target × Nat) :=
  match c.fateOf s r with | .ok ps => ps | _ => []

/-- All pieces of an instruction's requests, lane after lane. -/
def Issue.allPieces (c : Issue) (s : State) (rs : List (Nat × Request)) : List (Target × Nat) :=
  rs.flatMap (fun r => c.pieces s r.2)

/-- The request of lane n: the space, the 64-bit sum of its a pair and an offset, the size, and whether R178 demands
alignment. -/
def Issue.request (c : Issue) (n : Nat) (a : Reg) (off : Int) (sp : Sp) (size : Nat) (aligned : Bool) (access : Access)
    (write : Bool) : Request :=
  let l := c.wave.core.lane n
  ⟨sp, (l.src64 a + BitVec.ofInt 64 off).toNat, size, aligned, access, write, l.marked a 2, some c.wave.coreId, n⟩

/-- Nothing outside the lanes' own checks stands in the way of an instruction's accesses: the wave does not speculate,
its launch is not captured, its core has room for the requests, and neither a frozen route, nor the host's copies, nor
a port that is down is met. -/
structure Unhindered (s : State) (c : Issue) (write : Bool) (ps : List (Target × Nat)) : Prop where
  alone : c.wave.spec = none
  free : ∀ l, s.launchOf c.gang = some l → l.desc.capture = false
  room : s.requestRoom c.gang.stack c.wave.coreId ps = true
  thawed : s.frozenPieces c.gang.stack ps = false
  clear : s.recallLines write ps = []
  up : ∀ pa leaf va n, (Target.mem pa leaf va, n) ∈ ps → s.portDown c.gang.stack pa = false

/-- The lanes of requests with their pieces. -/
def Issue.landing (c : Issue) (s : State) (rs : List (Nat × Request)) : List (Nat × List (Target × Nat)) :=
  rs.map (fun r => (r.1, c.pieces s r.2))

/-- Every request passes its checks, and nothing stands in the way. -/
def Passes (s : State) (c : Issue) (write : Bool) (rs : List (Nat × Request)) : Prop :=
  (∀ r ∈ rs, ∃ ps, c.fateOf s r.2 = .ok ps) ∧ Unhindered s c write (c.allPieces s rs)

/-- The same, and no MATOM of the lanes pends at their bytes (R192). -/
def Performs (s : State) (c : Issue) (write : Bool) (rs : List (Nat × Request)) : Prop :=
  Passes s c write rs ∧ s.settled c.g c.w (c.landing s rs) = true

/-- The state in which the accesses are made: the translation caches hold what they used (R396), and nothing else
differs. -/
def Issue.filled (c : Issue) (s : State) (rs : List (Nat × Request)) : State :=
  s.fillFrom (s.ctxOf c.gang) c.gang.stack (some c.wave.coreId) (c.allPieces s rs)

/-- Only the translation caches differ. -/
def SameButCaches (s t : State) : Prop :=
  t = { s with stackTab := t.stackTab } ∧ ∀ x, ∃ tlb, t.stack x = { s.stack x with tlb := tlb }

/-- Only what a wave's lanes know of the order of accesses differs (R284). -/
def SameButKnowledge (w w' : WaveCore) : Prop :=
  w' = { w with lanes := w'.lanes } ∧ LaneWise w.lanes w'.lanes (fun _ l l' => l' = { l with know := l'.know })

/-- A load (R182, R198): each lane reads its pieces as it issues, each piece by what order and coherence let its load find
(R285, R286); the pending load holds, for each lane and each register of its destination, the word to write, 0 and marked
where a poisoned sector was touched (R180). The translation caches and what the lanes know of order apart, nothing else
changes: no register, no byte of memory. -/
def Loads (i : Instr) (s : State) (c : Issue) (cst : Bool) (sc : Scope) (d : Reg) (rs : List (Nat × Request))
    (words : Nat → List Byte → List W32) (fills : List RegWrite) : Prop :=
  let ps := c.allPieces s rs
  let t := c.filled s rs
  let writes := fills ++ rs.flatMap (fun r =>
    let found := (c.pieces s r.2).map (fun p => c.look cst sc r.1 t p.1 p.2)
    let mark := found.any (fun x => x.mark)
    (words r.1 (found.flatMap (fun x => x.bytes))).mapIdx (fun k w =>
      ⟨r.1, (c.wave.core.lane r.1).arch (d.toNat + k), if mark then 0 else w, mark⟩))
  let loads := if writes.isEmpty then c.wave.loads
    else c.wave.loads ++ [t.inFlight c.gang.stack writes false false (t.fillLines c.gang.stack ps) (rs.map (fun r => r.1)) ps]
  ∃ core, SameButKnowledge c.wave.core core ∧
    exec i s = .next (t.setWave c.g c.w (({ c with wave := { c.wave with loads := loads } } : Issue).advance i t core))

/-- The bytes of memory that an instruction's requests store to: for each request its pieces in rising order, each at its
own physical address. -/
def StoredAt (ps : List (Target × Nat)) (pa : Nat) : Prop :=
  ∃ n q leaf va, (Target.mem q leaf va, n) ∈ ps ∧ q ≤ pa ∧ pa < q + n

/-- A store (R182): lanes in ascending order, each writing its data at the address it computed; the acknowledgements
are outstanding (R198). Every byte of memory outside the stored bytes reads as before. A release at `.sys` is only
made once the earlier system stores of its lanes are acknowledged; until then the wave stalls before the instruction
(R353). -/
def Stores (i : Instr) (s : State) (c : Issue) (sc : Scope) (release : Bool) (rs : List (Nat × Request))
    (data : Nat → List Byte × Bool) : Prop :=
  let ps := c.allPieces s rs
  let t := c.filled s rs
  let u := rs.foldl (fun u r => u.storePieces (u.laneAgent c.g c.w r.1 (c.wave.core.lane r.1) sc) release c.gang.stack c.wave.coreId
    (data r.1).1 (data r.1).2 (c.pieces s r.2)) t
  let waits := c.wave.sysReleaseWaits release sc (maskOf (rs.map (fun r => r.1)))
  (waits = true → exec i s = .next s) ∧
  (waits = false → exec i s = .next (u.setWave c.g c.w (({ c with wave := { c.wave with
    stores := c.wave.stores ++ rs.flatMap (fun r => t.acksOf c.gang.stack r.1 (c.pieces s r.2)) } } : Issue).advance i u
      c.wave.core))) ∧
  ∀ pa, ¬ StoredAt ps pa → Sparse.get 0 u.mem pa = Sparse.get 0 s.mem pa

end Sys2Proof.Machine
end

