-- ==== Sys2Proof/Certificates/Slice0/Obligations.lean ====
section
/-! DEFINITION. The statements for the provers, in the words of Safety.lean. -/
open Sys2Proof Sys2Proof.Machine

/-- In each active lane, or on the uniform registers, ADD, SUB, MULL, MULH and MAD complete with the wrapped sum,
difference, low product, high product and product plus d, at every width they have, and change nothing else. -/
def Obligations.ArithmeticWraps : Prop :=
  ∀ (nw : Bool) (d a b : Reg),
  Binary32 (.add32 nw d a b) nw d a b (fun x y => x + y) ∧
  Binary32 (.sub32 nw d a b) nw d a b (fun x y => x - y) ∧
  Binary32 (.mull nw d a b) nw d a b (fun x y => x * y) ∧
  Binary32 (.mulhI32 nw d a b) nw d a b (fun x y => (x.signExtend 64 * y.signExtend 64).extractLsb' 32 32) ∧
  Binary32 (.mulhN32 nw d a b) nw d a b (fun x y => (x.setWidth 64 * y.setWidth 64).extractLsb' 32 32) ∧
  Ternary32 (.mad nw d a b) nw d a b (fun x y z => x * y + z) ∧
  Binary64 (.addInt64 nw d a b) nw d a b (fun x y => x + y) ∧
  Binary64 (.subInt64 nw d a b) nw d a b (fun x y => x - y) ∧
  Binary64 (.mullInt64 nw d a b) nw d a b (fun x y => x * y) ∧
  BinaryU (.addUint d a b) d a b (fun x y => x + y) ∧
  BinaryU (.subUint d a b) d a b (fun x y => x - y) ∧
  BinaryU (.mullUint d a b) d a b (fun x y => x * y) ∧
  BinaryU (.mulhI64 d a b) d a b (fun x y => (x.signExtend 128 * y.signExtend 128).extractLsb' 64 64) ∧
  BinaryU (.mulhN64 d a b) d a b (fun x y => (x.setWidth 128 * y.setWidth 128).extractLsb' 64 64) ∧
  TernaryU (.madUint d a b) d a b (fun x y z => x * y + z)

/-- DIV and REM complete with the quotient truncated toward zero and the remainder of the dividend's sign, with all
ones and the dividend for a zero divisor; signed overflow wraps to the dividend and 0. -/
def Obligations.DivisionTruncates : Prop :=
  ∀ (nw : Bool) (d a b : Reg),
  Binary32 (.div32 true nw d a b) nw d a b (fun x y => if y = 0 then 0xFFFFFFFF else BitVec.ofNat 32 (x.toNat / y.toNat)) ∧
  Binary32 (.div32 false nw d a b) nw d a b (fun x y => if y = 0 then 0xFFFFFFFF else BitVec.ofInt 32 (x.toInt.tdiv y.toInt)) ∧
  Binary32 (.rem32 true nw d a b) nw d a b (fun x y => if y = 0 then x else BitVec.ofNat 32 (x.toNat % y.toNat)) ∧
  Binary32 (.rem32 false nw d a b) nw d a b (fun x y => if y = 0 then x else BitVec.ofInt 32 (x.toInt.tmod y.toInt))

/-- MIN and MAX complete with the smaller and the larger operand as their type compares; SADD and SSUB with the exact
sum or difference clamped to the range of the type; nothing else changes. -/
def Obligations.MinMaxAndSaturation : Prop :=
  ∀ (nw : Bool) (d a b : Reg),
  Binary32 (.min32 true nw d a b) nw d a b (fun x y => if y.toNat < x.toNat then y else x) ∧
  Binary32 (.min32 false nw d a b) nw d a b (fun x y => if y.toInt < x.toInt then y else x) ∧
  Binary32 (.max32 true nw d a b) nw d a b (fun x y => if x.toNat < y.toNat then y else x) ∧
  Binary32 (.max32 false nw d a b) nw d a b (fun x y => if x.toInt < y.toInt then y else x) ∧
  Binary64 (.minN64 nw d a b) nw d a b (fun x y => if y.toNat < x.toNat then y else x) ∧
  Binary64 (.minI64 nw d a b) nw d a b (fun x y => if y.toInt < x.toInt then y else x) ∧
  Binary64 (.maxN64 nw d a b) nw d a b (fun x y => if x.toNat < y.toNat then y else x) ∧
  Binary64 (.maxI64 nw d a b) nw d a b (fun x y => if x.toInt < y.toInt then y else x) ∧
  BinaryU (.minUint true d a b) d a b (fun x y => if y.toNat < x.toNat then y else x) ∧
  BinaryU (.minUint false d a b) d a b (fun x y => if y.toInt < x.toInt then y else x) ∧
  BinaryU (.maxUint true d a b) d a b (fun x y => if x.toNat < y.toNat then y else x) ∧
  BinaryU (.maxUint false d a b) d a b (fun x y => if x.toInt < y.toInt then y else x) ∧
  Binary32 (.sadd true nw d a b) nw d a b (fun x y => BitVec.ofNat 32 (min (x.toNat + y.toNat) (2 ^ 32 - 1))) ∧
  Binary32 (.sadd false nw d a b) nw d a b (fun x y => BitVec.ofInt 32 (max (-2 ^ 31) (min (x.toInt + y.toInt) (2 ^ 31 - 1)))) ∧
  Binary32 (.ssub true nw d a b) nw d a b (fun x y => BitVec.ofNat 32 (x.toNat - y.toNat)) ∧
  Binary32 (.ssub false nw d a b) nw d a b (fun x y => BitVec.ofInt 32 (max (-2 ^ 31) (min (x.toInt - y.toInt) (2 ^ 31 - 1))))

/-- A shift by the width or more gives 0, or the sign in every bit for SAR; a smaller amount shifts; ROTL rotates by
the amount modulo 32; immediate shifts act with the encoded amount; nothing else changes. -/
def Obligations.Shifts : Prop :=
  ∀ (nw : Bool) (d a b : Reg) (n : BitVec 5) (k : BitVec 6),
  Binary32 (.shl nw d a b) nw d a b (fun x y => if 32 ≤ y.toNat then 0 else x <<< y.toNat) ∧
  Binary32 (.shr nw d a b) nw d a b (fun x y => if 32 ≤ y.toNat then 0 else x >>> y.toNat) ∧
  Binary32 (.sar nw d a b) nw d a b (fun x y => if 32 ≤ y.toNat then (if x.msb then 0xFFFFFFFF else 0) else x.sshiftRight y.toNat) ∧
  Binary32 (.rotl nw d a b) nw d a b (fun x y => (x <<< (y.toNat % 32)) ||| (x >>> (32 - y.toNat % 32))) ∧
  Unary32 (.shli nw d a n) nw d a (fun x => x <<< n.toNat) ∧
  Unary32 (.shri nw d a n) nw d a (fun x => x >>> n.toNat) ∧
  Unary32 (.sari nw d a n) nw d a (fun x => x.sshiftRight n.toNat) ∧
  Mixed64 (.shlInt64 nw d a b) nw d a b (fun x y => if 64 ≤ y.toNat then 0 else x <<< y.toNat) ∧
  Mixed64 (.shrInt64 nw d a b) nw d a b (fun x y => if 64 ≤ y.toNat then 0 else x >>> y.toNat) ∧
  Mixed64 (.sarInt64 nw d a b) nw d a b (fun x y => if 64 ≤ y.toNat then (if x.msb then 0xFFFFFFFFFFFFFFFF else 0) else x.sshiftRight y.toNat) ∧
  Unary64 (.shliInt64 nw d a k) nw d a (fun x => x <<< k.toNat) ∧
  Unary64 (.shriInt64 nw d a k) nw d a (fun x => x >>> k.toNat) ∧
  Unary64 (.sariInt64 nw d a k) nw d a (fun x => x.sshiftRight k.toNat) ∧
  BinaryU (.shlUint d a b) d a b (fun x y => if 64 ≤ y.toNat then 0 else x <<< y.toNat) ∧
  BinaryU (.shrUint d a b) d a b (fun x y => if 64 ≤ y.toNat then 0 else x >>> y.toNat) ∧
  BinaryU (.sarUint d a b) d a b (fun x y => if 64 ≤ y.toNat then (if x.msb then 0xFFFFFFFFFFFFFFFF else 0) else x.sshiftRight y.toNat) ∧
  UnaryU (.shliUint d a k) d a (fun x => x <<< k.toNat) ∧
  UnaryU (.shriUint d a k) d a (fun x => x >>> k.toNat) ∧
  UnaryU (.sariUint d a k) d a (fun x => x.sshiftRight k.toNat)

/-- BFX extracts the field that b names, sign-extended or not; BFI writes the field of d from a; PERMB builds each
byte from the pool that b names; each completes and changes nothing else. -/
def Obligations.BitFieldsAndBytes : Prop :=
  ∀ (nw : Bool) (d a b : Reg),
  Binary32 (.bfx false nw d a b) nw d a b (fun x y =>
    let pos := y.toNat % 256; let len := min (y.toNat / 256 % 256) 32
    let f := x.toInt / (2 ^ pos : Nat) % (2 ^ len : Nat)
    if len = 0 then 0 else BitVec.ofInt 32 (if f < (2 ^ (len - 1) : Nat) then f else f - (2 ^ len : Nat))) ∧
  Binary32 (.bfx true nw d a b) nw d a b (fun x y =>
    BitVec.ofNat 32 (x.toNat / 2 ^ (y.toNat % 256) % 2 ^ min (y.toNat / 256 % 256) 32)) ∧
  Ternary32 (.bfi nw d a b) nw d a b (fun x y z =>
    let pos := y.toNat % 256; let m := BitVec.ofNat 32 (2 ^ min (y.toNat / 256 % 256) 32 - 1) <<< pos
    (z &&& ~~~m) ||| ((x <<< pos) &&& m)) ∧
  BinaryU (.bfxI64 d a b) d a b (fun x y =>
    let pos := y.toNat % 256; let len := min (y.toNat / 256 % 256) 64
    let f := x.toInt / (2 ^ pos : Nat) % (2 ^ len : Nat)
    if len = 0 then 0 else BitVec.ofInt 64 (if f < (2 ^ (len - 1) : Nat) then f else f - (2 ^ len : Nat))) ∧
  BinaryU (.bfxN64 d a b) d a b (fun x y =>
    BitVec.ofNat 64 (x.toNat / 2 ^ (y.toNat % 256) % 2 ^ min (y.toNat / 256 % 256) 64)) ∧
  TernaryU (.bfiUint d a b) d a b (fun x y z =>
    let pos := y.toNat % 256; let m := BitVec.ofNat 64 (2 ^ min (y.toNat / 256 % 256) 64 - 1) <<< pos
    (z &&& ~~~m) ||| ((x <<< pos) &&& m)) ∧
  Ternary32 (.permb nw d a b) nw d a b (fun x y z =>
    let pool : W64 := z ++ x
    let at_ := fun (i : Nat) => let p : Byte := pool.extractLsb' (8 * (y.toNat / 16 ^ i % 8)) 8
      if y.toNat / 16 ^ i / 8 % 2 = 1 then (if p.msb then (0xFF : Byte) else 0) else p
    at_ 3 ++ at_ 2 ++ at_ 1 ++ at_ 0)

/-- Each unary operation completes with the copy, complement, negation, absolute value, count of ones, of leading
zeros, of trailing zeros or the reversed bits of a, at 32 bits, on pairs and on uniform registers; nothing else
changes. -/
def Obligations.UnaryOperations : Prop :=
  ∀ (nw : Bool) (d a : Reg),
  Unary32 (.mov nw d a) nw d a (fun x => x) ∧
  Unary32 (.not32 nw d a) nw d a (fun x => ~~~x) ∧
  Unary32 (.neg32 nw d a) nw d a (fun x => 0 - x) ∧
  Unary32 (.abs32 nw d a) nw d a (fun x => if x.toInt < 0 then 0 - x else x) ∧
  Unary32 (.popc nw d a) nw d a (fun x => BitVec.ofNat 32 ((List.range 32).countP (fun k => x.getLsbD k))) ∧
  Unary32 (.clz nw d a) nw d a (fun x => BitVec.ofNat 32 (((List.range 32).map (fun k => x.getLsbD (31 - k))).findIdx (fun b => b))) ∧
  Unary32 (.ctz nw d a) nw d a (fun x => BitVec.ofNat 32 (((List.range 32).map (fun k => x.getLsbD k)).findIdx (fun b => b))) ∧
  Unary32 (.brev nw d a) nw d a (fun x => x.reverse) ∧
  Unary64 (.movInt64 nw d a) nw d a (fun x => x) ∧
  Unary64 (.notInt64 nw d a) nw d a (fun x => ~~~x) ∧
  Unary64 (.negInt64 nw d a) nw d a (fun x => 0 - x) ∧
  Unary64 (.absInt64 nw d a) nw d a (fun x => if x.toInt < 0 then 0 - x else x) ∧
  Unary64 (.popcInt64 nw d a) nw d a (fun x => BitVec.ofNat 64 ((List.range 64).countP (fun k => x.getLsbD k))) ∧
  Unary64 (.clzInt64 nw d a) nw d a (fun x => BitVec.ofNat 64 (((List.range 64).map (fun k => x.getLsbD (63 - k))).findIdx (fun b => b))) ∧
  Unary64 (.ctzInt64 nw d a) nw d a (fun x => BitVec.ofNat 64 (((List.range 64).map (fun k => x.getLsbD k)).findIdx (fun b => b))) ∧
  Unary64 (.brevInt64 nw d a) nw d a (fun x => x.reverse) ∧
  UnaryU (.movUint d a) d a (fun x => x) ∧
  UnaryU (.notUint d a) d a (fun x => ~~~x) ∧
  UnaryU (.negUint d a) d a (fun x => 0 - x) ∧
  UnaryU (.absUint d a) d a (fun x => if x.toInt < 0 then 0 - x else x) ∧
  UnaryU (.popcUint d a) d a (fun x => BitVec.ofNat 64 ((List.range 64).countP (fun k => x.getLsbD k))) ∧
  UnaryU (.clzUint d a) d a (fun x => BitVec.ofNat 64 (((List.range 64).map (fun k => x.getLsbD (63 - k))).findIdx (fun b => b))) ∧
  UnaryU (.ctzUint d a) d a (fun x => BitVec.ofNat 64 (((List.range 64).map (fun k => x.getLsbD k)).findIdx (fun b => b))) ∧
  UnaryU (.brevUint d a) d a (fun x => x.reverse)

/-- AND, OR and XOR complete with the bitwise result at 32 bits, on pairs and on uniform registers; LEA adds the
extended 32-bit offset to the 64-bit base; the immediate forms use the sign-extended imm12; LUI writes the sign-
extended imm19 times 4096 and MOVI the sign-extended imm19; the uniform forms do so at 64 bits; each completes and
changes nothing else. -/
def Obligations.LogicAndImmediates : Prop :=
  ∀ (nw : Bool) (d a b : Reg) (i : BitVec 12) (j : BitVec 19),
  Binary32 (.and32 nw d a b) nw d a b (fun x y => x &&& y) ∧
  Binary32 (.or32 nw d a b) nw d a b (fun x y => x ||| y) ∧
  Binary32 (.xor32 nw d a b) nw d a b (fun x y => x ^^^ y) ∧
  Binary64 (.andInt64 nw d a b) nw d a b (fun x y => x &&& y) ∧
  Binary64 (.orInt64 nw d a b) nw d a b (fun x y => x ||| y) ∧
  Binary64 (.xorInt64 nw d a b) nw d a b (fun x y => x ^^^ y) ∧
  BinaryU (.andUint d a b) d a b (fun x y => x &&& y) ∧
  BinaryU (.orUint d a b) d a b (fun x y => x ||| y) ∧
  BinaryU (.xorUint d a b) d a b (fun x y => x ^^^ y) ∧
  Mixed64 (.leaI32 nw d a b) nw d a b (fun x y => x + y.signExtend 64) ∧
  Mixed64 (.leaN32 nw d a b) nw d a b (fun x y => x + y.setWidth 64) ∧
  Unary32 (.addi i nw d a) nw d a (fun x => x + i.signExtend 32) ∧
  Unary32 (.andi i nw d a) nw d a (fun x => x &&& i.signExtend 32) ∧
  Unary32 (.ori i nw d a) nw d a (fun x => x ||| i.signExtend 32) ∧
  Unary32 (.xori i nw d a) nw d a (fun x => x ^^^ i.signExtend 32) ∧
  (∀ s c, Executes (.lui j nw d) s c → Gives32 (.lui j nw d) s c nw d (fun _ => BitVec.ofInt 32 (j.toInt * 4096)) (fun _ => false)) ∧
  (∀ s c, Executes (.movi j nw d) s c → Gives32 (.movi j nw d) s c nw d (fun _ => BitVec.ofInt 32 j.toInt) (fun _ => false)) ∧
  UnaryU (.uaddi i d a) d a (fun x => x + i.signExtend 64) ∧
  (∀ s c, Executes (.umovi j d) s c → GivesUniform (.umovi j d) s c d (fun _ => BitVec.ofInt 64 j.toInt) (fun _ => false)) ∧
  (∀ s c, Executes (.umoviLui j d) s c → GivesUniform (.umoviLui j d) s c d (fun _ => BitVec.ofInt 64 (j.toInt * 4096)) (fun _ => false))

/-- Each active lane's destination predicate receives the comparison, signed or unsigned as the type says, or the
logic of the source predicates; a write to p0 is ignored; each completes and nothing else changes. -/
def Obligations.ComparesAndPredicates : Prop :=
  ∀ (k : Cond) (q p r : BitVec 4) (x y : Bool) (a b : Reg) (i : BitVec 12),
  (∀ s c, Executes (.cmp false k q a b) s c → GivesPred (.cmp false k q a b) s c q (fun _ l => match k with
    | .eq => decide (l.src32 a = l.src32 b) | .ne => decide (l.src32 a ≠ l.src32 b)
    | .lt => decide ((l.src32 a).toInt < (l.src32 b).toInt) | .le => decide ((l.src32 a).toInt ≤ (l.src32 b).toInt)
    | .gt => decide ((l.src32 b).toInt < (l.src32 a).toInt) | .ge => decide ((l.src32 b).toInt ≤ (l.src32 a).toInt)) (fun _ l => l.marked a 1 || l.marked b 1)) ∧
  (∀ s c, Executes (.cmp64 false k q a b) s c → GivesPred (.cmp64 false k q a b) s c q (fun _ l => match k with
    | .eq => decide (l.src64 a = l.src64 b) | .ne => decide (l.src64 a ≠ l.src64 b)
    | .lt => decide ((l.src64 a).toInt < (l.src64 b).toInt) | .le => decide ((l.src64 a).toInt ≤ (l.src64 b).toInt)
    | .gt => decide ((l.src64 b).toInt < (l.src64 a).toInt) | .ge => decide ((l.src64 b).toInt ≤ (l.src64 a).toInt)) (fun _ l => l.marked a 2 || l.marked b 2)) ∧
  (∀ s c, Executes (.cmpi i false k q a) s c → GivesPred (.cmpi i false k q a) s c q (fun _ l => match k with
    | .eq => decide (l.src32 a = i.signExtend 32) | .ne => decide (l.src32 a ≠ i.signExtend 32)
    | .lt => decide ((l.src32 a).toInt < (i.signExtend 32).toInt) | .le => decide ((l.src32 a).toInt ≤ (i.signExtend 32).toInt)
    | .gt => decide ((i.signExtend 32).toInt < (l.src32 a).toInt) | .ge => decide ((i.signExtend 32).toInt ≤ (l.src32 a).toInt)) (fun _ l => l.marked a 1)) ∧
  (∀ s c, Executes (.cmp true k q a b) s c → GivesPred (.cmp true k q a b) s c q (fun _ l => match k with
    | .eq => decide (l.src32 a = l.src32 b) | .ne => decide (l.src32 a ≠ l.src32 b)
    | .lt => decide ((l.src32 a).toNat < (l.src32 b).toNat) | .le => decide ((l.src32 a).toNat ≤ (l.src32 b).toNat)
    | .gt => decide ((l.src32 b).toNat < (l.src32 a).toNat) | .ge => decide ((l.src32 b).toNat ≤ (l.src32 a).toNat)) (fun _ l => l.marked a 1 || l.marked b 1)) ∧
  (∀ s c, Executes (.cmp64 true k q a b) s c → GivesPred (.cmp64 true k q a b) s c q (fun _ l => match k with
    | .eq => decide (l.src64 a = l.src64 b) | .ne => decide (l.src64 a ≠ l.src64 b)
    | .lt => decide ((l.src64 a).toNat < (l.src64 b).toNat) | .le => decide ((l.src64 a).toNat ≤ (l.src64 b).toNat)
    | .gt => decide ((l.src64 b).toNat < (l.src64 a).toNat) | .ge => decide ((l.src64 b).toNat ≤ (l.src64 a).toNat)) (fun _ l => l.marked a 2 || l.marked b 2)) ∧
  (∀ s c, Executes (.cmpi i true k q a) s c → GivesPred (.cmpi i true k q a) s c q (fun _ l => match k with
    | .eq => decide (l.src32 a = i.signExtend 32) | .ne => decide (l.src32 a ≠ i.signExtend 32)
    | .lt => decide ((l.src32 a).toNat < (i.signExtend 32).toNat) | .le => decide ((l.src32 a).toNat ≤ (i.signExtend 32).toNat)
    | .gt => decide ((i.signExtend 32).toNat < (l.src32 a).toNat) | .ge => decide ((i.signExtend 32).toNat ≤ (l.src32 a).toNat)) (fun _ l => l.marked a 1)) ∧
  (∀ s c, Executes (.pand q x p y r) s c → GivesPred (.pand q x p y r) s c q (fun _ l => (l.pred p).xor x && (l.pred r).xor y) (fun _ l => l.predMark p || l.predMark r)) ∧
  (∀ s c, Executes (.por q x p y r) s c → GivesPred (.por q x p y r) s c q (fun _ l => (l.pred p).xor x || (l.pred r).xor y) (fun _ l => l.predMark p || l.predMark r)) ∧
  (∀ s c, Executes (.pxor q x p y r) s c → GivesPred (.pxor q x p y r) s c q (fun _ l => ((l.pred p).xor x).xor ((l.pred r).xor y)) (fun _ l => l.predMark p || l.predMark r)) ∧
  (∀ s c, Executes (.pnot q x p) s c → GivesPred (.pnot q x p) s c q (fun _ l => !((l.pred p).xor x)) (fun _ l => l.predMark p)) ∧
  (∀ s c, Executes (.pmov q x p) s c → GivesPred (.pmov q x p) s c q (fun _ l => (l.pred p).xor x) (fun _ l => l.predMark p))

/-- VOTE gives every active lane the AND, the OR or the mask of the source predicate over the active lanes; SHFL gives
a lane the value of the lane it names when that lane is active, its own otherwise, read before any lane writes; BCST
writes the value of the lowest active lane into a uniform register; ELECT picks that lane; nothing else changes. -/
def Obligations.LaneExchange : Prop :=
  ∀ (nw x z : Bool) (d a b : Reg) (q p : BitVec 4),
  (∀ s c, Executes (.voteAll q x p) s c → GivesPred (.voteAll q x p) s c q
    (fun _ _ => (List.range 32).all (fun m => !c.on m || ((c.wave.core.lane m).pred p).xor x)) (fun _ _ => (List.range 32).any (fun m => c.on m && (c.wave.core.lane m).predMark p))) ∧
  (∀ s c, Executes (.voteAny q x p) s c → GivesPred (.voteAny q x p) s c q
    (fun _ _ => (List.range 32).any (fun m => c.on m && ((c.wave.core.lane m).pred p).xor x)) (fun _ _ => (List.range 32).any (fun m => c.on m && (c.wave.core.lane m).predMark p))) ∧
  (∀ s c, Executes (.voteBallot nw d x p) s c → GivesValue (.voteBallot nw d x p) s c nw false d
    (fun _ _ => (BitVec.ofNat 32 (((List.range 32).filter (fun m => c.on m && (((c.wave.core.lane m).pred p).xor x))).foldl (fun v m => v + 2 ^ m) 0)).setWidth 64) (fun _ _ => (List.range 32).any (fun m => c.on m && (c.wave.core.lane m).predMark p))) ∧
  (∀ s c, Executes (.shflIdx nw d a b) s c → GivesValue (.shflIdx nw d a b) s c nw false d
    (fun n l => let m := (l.src32 b).toNat; ((if m < 32 ∧ c.on (m) then c.wave.core.lane (m) else l).src32 a).setWidth 64)
    (fun n l => let m := (l.src32 b).toNat; (if m < 32 ∧ c.on (m) then c.wave.core.lane (m) else l).marked a 1)) ∧
  (∀ s c, Executes (.shflUp nw d a b) s c → GivesValue (.shflUp nw d a b) s c nw false d
    (fun n l => let m := (l.src32 b).toNat; ((if m ≤ n ∧ c.on (n - m) then c.wave.core.lane (n - m) else l).src32 a).setWidth 64)
    (fun n l => let m := (l.src32 b).toNat; (if m ≤ n ∧ c.on (n - m) then c.wave.core.lane (n - m) else l).marked a 1)) ∧
  (∀ s c, Executes (.shflDown nw d a b) s c → GivesValue (.shflDown nw d a b) s c nw false d
    (fun n l => let m := (l.src32 b).toNat; ((if n + m < 32 ∧ c.on (n + m) then c.wave.core.lane (n + m) else l).src32 a).setWidth 64)
    (fun n l => let m := (l.src32 b).toNat; (if n + m < 32 ∧ c.on (n + m) then c.wave.core.lane (n + m) else l).marked a 1)) ∧
  (∀ s c, Executes (.shflXor nw d a b) s c → GivesValue (.shflXor nw d a b) s c nw false d
    (fun n l => let m := (l.src32 b).toNat; ((if (n ^^^ m) < 32 ∧ c.on (n ^^^ m) then c.wave.core.lane (n ^^^ m) else l).src32 a).setWidth 64)
    (fun n l => let m := (l.src32 b).toNat; (if (n ^^^ m) < 32 ∧ c.on (n ^^^ m) then c.wave.core.lane (n ^^^ m) else l).marked a 1)) ∧
  (∀ s c, Executes (.bcst z d a) s c → GivesUniform (.bcst z d a) s c d
    (fun w => if z then (w.lane c.first).src64 a else ((w.lane c.first).src32 a).setWidth 64)
    (fun w => (w.lane c.first).marked a (if z then 2 else 1))) ∧
  (∀ s c, Executes (.elect q) s c → GivesPred (.elect q) s c q (fun n _ => decide (n = c.first)) (fun _ _ => false)) ∧
  (∀ (c : Issue) (n : Nat), c.on n = true → n < 32 → c.on c.first = true ∧ c.first ≤ n)

/-- ADDC and SUBC write the wrapped sum or difference with the carry or borrow in, and the carry or borrow out into
the predicate unless it is p0; SEL writes a where the predicate is 1 and b where it is 0; MOV from a uniform register
writes its low half or all of it; each completes and nothing else changes. -/
def Obligations.CarryChainsAndSelection : Prop :=
  ∀ (nw z : Bool) (d a b : Reg) (p : BitVec 4),
  (∀ s c, Executes (.addc p nw d a b) s c → ∃ lanes,
    Completes (.addc p nw d a b) s c { c.wave.core with lanes := lanes, latchCount := c.latchesAfter } ∧
    LaneWise c.wave.core.lanes lanes (fun n l l' =>
      if c.on n then
        ∃ m, Took c nw false d ((l.src32 a + l.src32 b + (if l.pred p then 1 else 0)).setWidth 64) (l.marked a 1 || l.marked b 1 || l.predMark p) l m ∧
          l' = { m with preds := l'.preds, predMarks := l'.predMarks } ∧
          (∀ r, r ≠ p → l'.pred r = l.pred r ∧ l'.predMark r = l.predMark r) ∧
          (p ≠ 0 → l'.pred p = decide (2 ^ 32 ≤ (l.src32 a).toNat + (l.src32 b).toNat + (if l.pred p then 1 else 0)) ∧ l'.predMark p = (l.marked a 1 || l.marked b 1 || l.predMark p))
      else if c.masked n then l' = c.keep nw false d l
      else l' = l)) ∧
  (∀ s c, Executes (.subc p nw d a b) s c → ∃ lanes,
    Completes (.subc p nw d a b) s c { c.wave.core with lanes := lanes, latchCount := c.latchesAfter } ∧
    LaneWise c.wave.core.lanes lanes (fun n l l' =>
      if c.on n then
        ∃ m, Took c nw false d ((l.src32 a - l.src32 b - (if l.pred p then 1 else 0)).setWidth 64) (l.marked a 1 || l.marked b 1 || l.predMark p) l m ∧
          l' = { m with preds := l'.preds, predMarks := l'.predMarks } ∧
          (∀ r, r ≠ p → l'.pred r = l.pred r ∧ l'.predMark r = l.predMark r) ∧
          (p ≠ 0 → l'.pred p = decide ((l.src32 a).toNat < (l.src32 b).toNat + (if l.pred p then 1 else 0)) ∧ l'.predMark p = (l.marked a 1 || l.marked b 1 || l.predMark p))
      else if c.masked n then l' = c.keep nw false d l
      else l' = l)) ∧
  (∀ s c, Executes (.selB32 p nw d a b) s c → Gives32 (.selB32 p nw d a b) s c nw d (fun l => if l.pred p then l.src32 a else l.src32 b)
    (fun l => l.predMark p || (if l.pred p then l.marked a 1 else l.marked b 1))) ∧
  (∀ s c, Executes (.selB64 p nw d a b) s c → Gives64 (.selB64 p nw d a b) s c nw d (fun l => if l.pred p then l.src64 a else l.src64 b)
    (fun l => l.predMark p || (if l.pred p then l.marked a 2 else l.marked b 2))) ∧
  (∀ s c, Executes (.movFromUniform nw d a z) s c → GivesValue (.movFromUniform nw d a z) s c nw z d
    (fun _ _ => if z then c.wave.core.uni a else ((c.wave.core.uni a).setWidth 32).setWidth 64) (fun _ _ => c.wave.core.uniMark a))

/-- FADD, FSUB, FMUL, FDIV, FMA, FNMA, HADD2, HMUL2 and HFMA2 compute the exact result of their operands and round it
once in their mode; FSCL, FSQRT, FRND, FRCP, FRSQ, FEXP2 and FLOG2 the scaled value, the root, the integral value, the
reciprocal, the reciprocal root, the power or the logarithm. Active lanes that raise no exception they enable take the
result and its flags, the others are recorded with cause 1 and write nothing; a speculating wave stalls instead, and
in handler mode it is a double trap; nothing else changes. How FEXP2 and FLOG2 are computed before they are rounded is
the model's reading (assumption 6). -/
def Obligations.FloatArithmeticAndFunctions : Prop :=
  ∀ (t : Bool) (r : Rm) (nw : Bool) (d a b : Reg),
  FloatExact (.faddFp32 r nw d a b) nw false r.rounding d a b (fun x y => xadd r.rounding x y) ∧
  FloatExact (.fsubFp32 r nw d a b) nw false r.rounding d a b (fun x y => xadd r.rounding x y.flip) ∧
  FloatExact (.fmulFp32 r nw d a b) nw false r.rounding d a b (fun x y => xmul x y) ∧
  FloatBinary (.fdivFp32 r nw d a b) nw false d a b ((fmtOfWidth false).div r.rounding) ∧
  FloatFused (.fmaFp32 r nw d a b) nw false r.rounding d a b (fun x y z => xadd r.rounding (xmul x y) z) ∧
  FloatFused (.fnmaFp32 r nw d a b) nw false r.rounding d a b (fun x y z => xadd r.rounding (xmul x y).flip z) ∧
  FloatExact (.faddFp64 r nw d a b) nw true r.rounding d a b (fun x y => xadd r.rounding x y) ∧
  FloatExact (.fsubFp64 r nw d a b) nw true r.rounding d a b (fun x y => xadd r.rounding x y.flip) ∧
  FloatExact (.fmulFp64 r nw d a b) nw true r.rounding d a b (fun x y => xmul x y) ∧
  FloatBinary (.fdivFp64 r nw d a b) nw true d a b ((fmtOfWidth true).div r.rounding) ∧
  FloatFused (.fmaFp64 r nw d a b) nw true r.rounding d a b (fun x y z => xadd r.rounding (xmul x y) z) ∧
  FloatFused (.fnmaFp64 r nw d a b) nw true r.rounding d a b (fun x y z => xadd r.rounding (xmul x y).flip z) ∧
  FloatPacked (.hadd2 t r nw d a b) nw d a b false (fun x y _ =>
    (fmtOfHalf t).round r.rounding (xadd r.rounding ((fmtOfHalf t).decode x) ((fmtOfHalf t).decode y))) ∧
  FloatPacked (.hmul2 t r nw d a b) nw d a b false (fun x y _ =>
    (fmtOfHalf t).round r.rounding (xmul ((fmtOfHalf t).decode x) ((fmtOfHalf t).decode y))) ∧
  FloatPacked (.hfma2 t r nw d a b) nw d a b true (fun x y z =>
    (fmtOfHalf t).round r.rounding
      (xadd r.rounding (xmul ((fmtOfHalf t).decode x) ((fmtOfHalf t).decode y)) ((fmtOfHalf t).decode z))) ∧
  FloatWord (.fsclFp32 r nw d a b) nw false d
    (fun l => fpOut l ((fmtOfWidth false).scl r.rounding (l.srcOf false a) (l.src32 b).toInt))
    (fun l => l.markOf false a || l.marked b 1) ∧
  FloatUnary (.fsqrtFp32 r nw d a) nw false d a ((fmtOfWidth false).sqrt r.rounding) ∧
  FloatUnary (.frndFp32 r nw d a) nw false d a ((fmtOfWidth false).rnd r.rounding) ∧
  FloatUnary (.frndRnaFp32 nw d a) nw false d a ((fmtOfWidth false).rnd .rna) ∧
  FloatWord (.fsclFp64 r nw d a b) nw true d
    (fun l => fpOut l ((fmtOfWidth true).scl r.rounding (l.srcOf true a) (l.src32 b).toInt))
    (fun l => l.markOf true a || l.marked b 1) ∧
  FloatUnary (.fsqrtFp64 r nw d a) nw true d a ((fmtOfWidth true).sqrt r.rounding) ∧
  FloatUnary (.frndFp64 r nw d a) nw true d a ((fmtOfWidth true).rnd r.rounding) ∧
  FloatUnary (.frndRnaFp64 nw d a) nw true d a ((fmtOfWidth true).rnd .rna) ∧
  FloatUnary (.frcp r nw d a) nw false d a (fmtF32.rcp r.rounding) ∧
  FloatUnary (.frsq r nw d a) nw false d a (fmtF32.rsq r.rounding) ∧
  FloatUnary (.fexp2 r nw d a) nw false d a (fmtF32.exp2 r.rounding) ∧
  FloatUnary (.flog2 r nw d a) nw false d a (fmtF32.log2 r.rounding)

/-- The minimum and maximum words end as FADD does with the chosen operand or the canonical NaN; FABS, FNEG and FCPYS
complete with the operand and only its sign bit changed; FCLASS completes with the class mask and FEXT with the
exponent; nothing else changes. -/
def Obligations.FloatSelection : Prop :=
  ∀ (t : Bool) (nw : Bool) (d a b : Reg),
  FloatBinary (.fmin t nw d a b) nw t d a b ((fmtOfWidth t).pick false false) ∧
  FloatBinary (.fmax t nw d a b) nw t d a b ((fmtOfWidth t).pick true false) ∧
  FloatBinary (.fminn t nw d a b) nw t d a b ((fmtOfWidth t).pick false true) ∧
  FloatBinary (.fmaxn t nw d a b) nw t d a b ((fmtOfWidth t).pick true true) ∧
  FloatPacked (.hmin2 t nw d a b) nw d a b false (fun x y _ => (fmtOfHalf t).pick false false x y) ∧
  FloatPacked (.hmax2 t nw d a b) nw d a b false (fun x y _ => (fmtOfHalf t).pick true false x y) ∧
  (∀ s c, Executes (.fabs false nw d a) s c → GivesValue (.fabs false nw d a) s c nw false d (fun _ l => (l.src32 a &&& 0x7FFFFFFF : W32).setWidth 64) (fun _ l => l.marked a 1)) ∧
  (∀ s c, Executes (.fabs true nw d a) s c → GivesValue (.fabs true nw d a) s c nw true d (fun _ l => l.src64 a &&& 0x7FFFFFFFFFFFFFFF) (fun _ l => l.marked a 2)) ∧
  (∀ s c, Executes (.fneg false nw d a) s c → GivesValue (.fneg false nw d a) s c nw false d (fun _ l => (l.src32 a ^^^ 0x80000000 : W32).setWidth 64) (fun _ l => l.marked a 1)) ∧
  (∀ s c, Executes (.fneg true nw d a) s c → GivesValue (.fneg true nw d a) s c nw true d (fun _ l => l.src64 a ^^^ 0x8000000000000000) (fun _ l => l.marked a 2)) ∧
  (∀ s c, Executes (.fcpys false nw d a b) s c → GivesValue (.fcpys false nw d a b) s c nw false d (fun _ l => ((l.src32 a &&& 0x7FFFFFFF) ||| (l.src32 b &&& 0x80000000) : W32).setWidth 64) (fun _ l => l.marked a 1 || l.marked b 1)) ∧
  (∀ s c, Executes (.fcpys true nw d a b) s c → GivesValue (.fcpys true nw d a b) s c nw true d (fun _ l => (l.src64 a &&& 0x7FFFFFFFFFFFFFFF) ||| (l.src64 b &&& 0x8000000000000000)) (fun _ l => l.marked a 2 || l.marked b 2)) ∧
  (∀ s c, Executes (.fclass t nw d a) s c → GivesValue (.fclass t nw d a) s c nw false d (fun _ l => ((fmtOfWidth t).classify (l.srcOf t a)).setWidth 64) (fun _ l => l.markOf t a)) ∧
  (∀ s c, Executes (.fext t nw d a) s c → GivesValue (.fext t nw d a) s c nw false d (fun _ l => ((fmtOfWidth t).ext (l.srcOf t a)).setWidth 64) (fun _ l => l.markOf t a))

/-- Where no active lane raises an exception it enables, FCMP completes: each active lane writes the predicate and ORs
its exceptions into xflags. Where some do, those lanes are recorded with cause 1 and keep their predicate; a
speculating wave stalls, and in handler mode it is a double trap. -/
def Obligations.FloatCompare : Prop :=
  ∀ (t : Bool) (k : FCond) (q : BitVec 4) (a b : Reg) s c, Executes (.fcmp t k q a b) s c →
  let out := fun (l : Lane) => (fmtOfWidth t).compare k (l.srcOf t a) (l.srcOf t b)
  let took := fun (l l' : Lane) => l' = { l with preds := l'.preds, predMarks := l'.predMarks, xflags := l.xflags ||| (out l).2 } ∧
    (∀ p : BitVec 4, p ≠ q → l'.pred p = l.pred p ∧ l'.predMark p = l.predMark p) ∧
    (q ≠ 0 → l'.pred q = (out l).1 ∧ l'.predMark q = (l.markOf t a || l.markOf t b))
  ((∀ n, Raises c (fun l => (out l).2) n = false) →
    ∃ lanes, Completes (.fcmp t k q a b) s c { c.wave.core with lanes := lanes } ∧
      LaneWise c.wave.core.lanes lanes (fun n l l' => if c.on n then took l l' else l' = l)) ∧
  ((∃ n, Raises c (fun l => (out l).2) n = true) → TrapRefused (.fcmp t k q a b) s c) ∧
  ((∃ n, Raises c (fun l => (out l).2) n = true) → c.wave.spec = none → c.wave.core.handler = false →
    ∃ traps lanes, (∀ n, has traps n = Raises c (fun l => (out l).2) n) ∧
      Traps (.fcmp t k q a b) s c traps { c.wave.core with lanes := lanes } ∧
      LaneWise c.wave.core.lanes lanes (fun n l l' =>
        if has traps n then l' = Recorded c n (causeArithmetic (out l).2) c.entry.pc l
        else if c.on n then took l l' else l' = l))

/-- CVT ends as FADD does with the converted value in the register image of its type, drawing from the seed once under
.rs; PACK4 converts the four registers of a quad in element order into the four bytes of d, exceptions ORed, drawing
once for each element under .rs. -/
def Obligations.Conversions : Prop :=
  ∀ (r : Rounding) (y x : NumTy) (nw : Bool) (d a : Reg),
  FloatWord (.cvt r y nw d a x) nw y.is64 d
    (fun l =>
      let seed := if r = .rs then xorshift l.seed else l.seed
      let v := convert y x r seed.toNat (l.srcOf x.is64 a)
      ⟨image y v.bits, v.exc, seed⟩)
    (fun l => l.markOf x.is64 a) ∧
  FloatWord (.pack4 r y nw d a x) nw false d
    (fun l =>
      let seed := fun (k : Nat) => if r = .rs then Nat.repeat xorshift (k + 1) l.seed else l.seed
      let v := fun (k : Nat) => convert y .f32 r (seed k).toNat (Sparse.get 0 l.regs (l.winbase.toNat + a.toNat + k)).toNat
      ⟨(BitVec.ofNat 8 (v 3).bits ++ BitVec.ofNat 8 (v 2).bits ++ BitVec.ofNat 8 (v 1).bits ++
          BitVec.ofNat 8 (v 0).bits).setWidth 64,
        (v 0).exc ||| (v 1).exc ||| (v 2).exc ||| (v 3).exc, seed 3⟩)
    (fun l => l.marked a 4)

/-- For the exact magnitude m * 2^e and a unit 2^(e + k), rounding gives the multiple below or above, and reports
whether it differs: toward zero the one below; down and up as the sign says; to nearest the closer one, with ties to
even or away. For each of the seven formats, an encoding that is not a NaN decodes to a value that rounds in every
mode to the same encoding and raises nothing. Sums and products of dyadic numbers are exact. -/
def Obligations.NumberFormats : Prop :=
  (∀ (m k : Nat) (e : Int) (neg : Bool) (draw : Nat) (mode : Rounding),
  let r := ((⟨m, e, false⟩ : Mag).roundAt mode neg draw (e + k)).1
  (((⟨m, e, false⟩ : Mag).roundAt mode neg draw (e + k)).2 = decide (r * 2 ^ k ≠ m)) ∧
  (m % 2 ^ k = 0 → r * 2 ^ k = m) ∧
  (r * 2 ^ k < m + 2 ^ k ∧ m < r * 2 ^ k + 2 ^ k) ∧
  (mode = .rz → r * 2 ^ k ≤ m) ∧
  (mode = .rd → if neg then m ≤ r * 2 ^ k else r * 2 ^ k ≤ m) ∧
  (mode = .ru → if neg then r * 2 ^ k ≤ m else m ≤ r * 2 ^ k) ∧
  (mode = .rn → 2 * (r * 2 ^ k) ≤ 2 * m + 2 ^ k ∧ 2 * m ≤ 2 * (r * 2 ^ k) + 2 ^ k ∧
    (2 * (m % 2 ^ k) = 2 ^ k → r % 2 = 0)) ∧
  (mode = .rna → 2 * (r * 2 ^ k) ≤ 2 * m + 2 ^ k ∧ 2 * m < 2 * (r * 2 ^ k) + 2 ^ k)) ∧
  (∀ f ∈ [fmtF64, fmtF32, fmtF16, fmtBf16, fmtE5m2, fmtE4m3, fmtE2m1], ∀ (mode : Rounding) (b : Nat),
  b < 2 ^ (1 + f.eb + f.tb) → (f.decode b).isNan = false → f.round mode (f.decode b) = ⟨b, 0⟩) ∧
  (∀ (x y : Dy) (k : Int), k ≤ x.e → k ≤ y.e →
    (x.add y).m * 2 ^ ((x.add y).e - k).toNat = x.m * 2 ^ (x.e - k).toNat + y.m * 2 ^ (y.e - k).toNat) ∧
  (∀ (x y : Dy) (j k : Int), j ≤ x.e → k ≤ y.e →
    (x.mul y).m * 2 ^ ((x.mul y).e - (j + k)).toNat = (x.m * 2 ^ (x.e - j).toNat) * (y.m * 2 ^ (y.e - k).toNat))

/-- NOP completes with no change; GETS completes with the value of the special register, now included; SETS writes
xflags, xenable or seed of each active lane, a seed of 0 as 1; XEN and XFLG write, set or clear the bits of the mask;
nothing else changes. -/
def Obligations.SystemWords : Prop :=
  ∀ (nw : Bool) (d a b : Reg) (m : BitVec 5) s c,
  (Executes .nop s c → Completes .nop s c c.wave.core) ∧
  (∀ x, s.launchOf c.gang = some x →
    ∀ e ∈ ([(0x00, false, fun n _ => BitVec.ofNat 64 n), (0x01, false, fun _ _ => BitVec.ofNat 64 c.w),
        (0x02, false, fun _ _ => BitVec.ofNat 64 c.gang.x), (0x03, false, fun _ _ => BitVec.ofNat 64 c.gang.y),
        (0x04, false, fun _ _ => BitVec.ofNat 64 c.gang.z),
        (0x05, true, fun _ _ => BitVec.ofNat 64 (x.desc.waves * 2 ^ 48 + x.desc.nz * 2 ^ 32 + x.desc.ny * 2 ^ 16 +
          if x.pool.isSome then 65535 else x.desc.nx)),
        (0x06, false, fun _ _ => BitVec.ofNat 64 c.gang.stack), (0x07, false, fun _ _ => BitVec.ofNat 64 c.wave.coreId),
        (0x08, false, fun _ _ => BitVec.ofNat 64 x.ctx), (0x09, true, fun _ _ => x.desc.launchid),
        (0x0B, false, fun _ _ => BitVec.ofNat 64 (s.stack c.gang.stack).heat), (0x0C, true, fun _ l => l.ffpc),
        (0x0D, false, fun _ l => l.ffwhy.setWidth 64), (0x0E, false, fun _ l => l.xflags.setWidth 64),
        (0x0F, false, fun _ l => l.xenable.setWidth 64), (0x10, false, fun _ _ => c.wave.core.trapmask.setWidth 64),
        (0x11, false, fun _ l => l.winbase.setWidth 64), (0x12, false, fun _ l => l.seed.setWidth 64)] :
        List (Reg × Bool × (Nat → Lane → W64))),
      Executes (.gets nw d e.1) s c → GivesValue (.gets nw d e.1) s c nw e.2.1 d e.2.2 (fun _ _ => false)) ∧
  (∀ x, s.launchOf c.gang = some x → x.desc.capture = false → (s.stack c.gang.stack).now < 2 ^ 64 →
    Executes (.gets nw d 0x0A) s c →
    ∃ lanes, exec (.gets nw d 0x0A) s = .next ((s.modGang c.g (fun y =>
        { y with lastNow := max y.lastNow (s.stack c.gang.stack).now })).setWave c.g c.w
        (({ c with wave := { c.wave with lastNow := max c.wave.lastNow (s.stack c.gang.stack).now } } : Issue).advance
          (.gets nw d 0x0A) s { c.wave.core with lanes := lanes })) ∧
      LaneWise c.wave.core.lanes lanes (fun n l l' =>
        l' = if c.on n ∧ nw = false then l.put true d (BitVec.ofNat 64 (s.stack c.gang.stack).now) false else l)) ∧
  ((∀ n, c.on n = true → (c.wave.core.lane n).marked b 1 = false) →
    ∀ e ∈ ([(0x0E, fun l v => { l with xflags := v.setWidth 5 }), (0x0F, fun l v => { l with xenable := v.setWidth 5 }),
        (0x12, fun l v => { l with seed := if v = 0 then 1 else v })] : List (Reg × (Lane → W32 → Lane))),
      Executes (.sets e.1 b) s c → ∃ lanes, Completes (.sets e.1 b) s c { c.wave.core with lanes := lanes } ∧
        LaneWise c.wave.core.lanes lanes (fun n l l' => l' = if c.on n then e.2 l (l.src32 b) else l)) ∧
  (∀ e ∈ ([(.write, fun _ y => y), (.set, fun x y => x ||| y), (.clear, fun x y => x &&& ~~~y)] :
      List (MaskOp × (BitVec 5 → BitVec 5 → BitVec 5))),
    (Executes (.xen e.1 m) s c → ∃ lanes, Completes (.xen e.1 m) s c { c.wave.core with lanes := lanes } ∧
      LaneWise c.wave.core.lanes lanes (fun n l l' => l' = if c.on n then { l with xenable := e.2 l.xenable m } else l)) ∧
    (Executes (.xflg e.1 m) s c → ∃ lanes, Completes (.xflg e.1 m) s c { c.wave.core with lanes := lanes } ∧
      LaneWise c.wave.core.lanes lanes (fun n l l' => l' = if c.on n then { l with xflags := e.2 l.xflags m } else l)))

/-- GUARD starts a run of n instructions in the lanes that its predicate selects; PRIO sets the priority of the entry;
JMSK writes the active lanes into a rejoin mask; JOIN makes the entry join with those that already join there; WINB
sets the window base of active lanes, or traps in them when the window passes the end; VALID sets the validity; YIELD
only advances and holds the wave; EXIT takes the active lanes out of the frontier for good. -/
def Obligations.EntryWords : Prop :=
  ∀ (n : BitVec 7) (sense : Bool) (q : BitVec 4) (p b : BitVec 6) (j : BitVec 3) (v : Validity) s c,
  (Executes (.guard n sense q) s c → (∀ l, c.on l = true → (c.wave.core.lane l).predMark q = false) →
    ∃ mask, (∀ l, has mask l = (c.on l && ((c.wave.core.lane l).pred q != sense))) ∧
      exec (.guard n sense q) s = .next (s.setWave c.g c.w (c.note s { c.wave with core := { c.wave.core with
        frontier := c.wave.core.frontier.set c.k { c.entry with pc := c.entry.pc + 4, guard := ⟨n.toNat, mask⟩ } } }))) ∧
  (Executes (.guard n sense q) s c → (∃ l, c.on l = true ∧ (c.wave.core.lane l).predMark q = true) → c.wave.spec = none →
    exec (.guard n sense q) s = .next (s.raiseHalt (c.halt s reasonPoison 0 0 c.active))) ∧
  (Executes (.prio p) s c → exec (.prio p) s = .next (s.setWave c.g c.w { c.note s c.wave with core := { c.wave.core with
    frontier := c.wave.core.frontier.set c.k { c.entry.next with prio := p }, last := none, tokenWait := none } })) ∧
  (Executes (.jmsk j) s c → ∃ masks, Completes (.jmsk j) s c { c.wave.core with j := masks } ∧
    ∀ r, Sparse.get 0 masks r = if c.any ∧ r = j.toNat then c.active else Sparse.get 0 c.wave.core.j r) ∧
  (Executes (.join j) s c → ∃ e, exec (.join j) s = .next (s.setWave c.g c.w (c.note s { c.wave with
      core := { c.wave.core with
        frontier := (c.wave.core.frontier.eraseIdx c.k).filter (fun x => !x.joiningAt c.entry.pc) ++ [e] } })) ∧
    e = { c.entry with lanes := e.lanes, prio := e.prio, state := .joining j e.arrived } ∧
    (∀ l, has e.lanes l = (has c.entry.lanes l || (c.wave.core.frontier.eraseIdx c.k).any (fun x =>
      x.joiningAt c.entry.pc && has x.lanes l))) ∧
    (∀ l, has e.arrived l = (has c.entry.lanes l || (c.wave.core.frontier.eraseIdx c.k).any (fun x =>
      x.joiningAt c.entry.pc && has x.arrived l))) ∧
    (∀ x ∈ c.entry :: (c.wave.core.frontier.eraseIdx c.k).filter (fun x => x.joiningAt c.entry.pc), x.prio ≤ e.prio) ∧
    (∃ x ∈ c.entry :: (c.wave.core.frontier.eraseIdx c.k).filter (fun x => x.joiningAt c.entry.pc), x.prio = e.prio)) ∧
  (Executes (.winb b) s c → 8 * b.toNat + 120 ≤ s.windowLimit c.gang →
    ∃ lanes, Completes (.winb b) s c { c.wave.core with lanes := lanes } ∧
      LaneWise c.wave.core.lanes lanes (fun k l l' =>
        l' = if c.on k then { l with winbase := BitVec.ofNat 32 (8 * b.toNat) } else l)) ∧
  (Executes (.winb b) s c → s.windowLimit c.gang < 8 * b.toNat + 120 → c.any = true →
    TrapRefused (.winb b) s c ∧ (c.wave.spec = none → c.wave.core.handler = false →
      ∃ lanes, Traps (.winb b) s c c.active { c.wave.core with lanes := lanes } ∧
        LaneWise c.wave.core.lanes lanes (fun k l l' =>
          l' = if c.on k then Recorded c k causeIllegalLane c.entry.pc l else l))) ∧
  (Executes (.valid v) s c →
    Completes (.valid v) s c { c.wave.core with validity := if c.any then v else c.wave.core.validity }) ∧
  (Executes .yield s c → exec .yield s = .next (s.setWave c.g c.w { c.advance .yield s c.wave.core with yieldHold := true })) ∧
  (Executes .exit s c → ∃ core : WaveCore, exec .exit s = .next
      (let t := (s.setWave c.g c.w (c.note s { c.wave with core := core.endHandlerIfOver })).exitLanes c.g c.w c.active
       if core.live = 0 then t.releaseWave c.g c.w else t) ∧
    core = { c.wave.core with lanes := core.lanes, frontier := c.wave.core.frontier.eraseIdx c.k } ∧
    LaneWise c.wave.core.lanes core.lanes (fun k l l' =>
      l' = if c.on k then { l with exited := true, trap := none } else l))

/-- Each active lane of a transfer goes to its target at the target priority or on to PC + 4, as its predicate says;
CALL and CALLX push PC + 4 and the priority, RET pops them; a lane with a full or empty return stack or a bad target
traps there alone; the lanes that go on form one ready entry for each target and priority, and the issuing entry is
gone; a marked predicate or target is a fault. -/
def Obligations.Branches : Prop :=
  ∀ (p : BitVec 4) (sense : Bool) (t : BitVec 6) (o : BitVec 16) (a : Reg) s c,
  let lane := c.wave.core.lane
  let here := c.entry
  let target := here.pc + 4 * o.signExtend 64
  let push := fun (l : Lane) => { l with stack := ((here.pc + 4).setWidth 56, here.prio) :: l.stack }
  let room := fun (l : Lane) => decide (l.stack.length < 32)
  let takes := fun n => (lane n).pred p != sense
  let ok := fun n => (((lane n).src64 a).toNat % 4 == 0 && decide (((lane n).src64 a).toNat < 2 ^ 56))
  let clean := ∀ n, c.on n = true → (lane n).predMark p = false
  let cleanA := ∀ n, c.on n = true → (lane n).marked a 2 = false
  (Executes (.bra p sense t o) s c → clean → Transfers (.bra p sense t o) s c
    (fun n => some (if takes n then (target, t) else (here.pc + 4, here.prio))) (fun _ l => l)) ∧
  (Executes (.call p sense t o) s c → clean → Transfers (.call p sense t o) s c
    (fun n => if takes n then (if room (lane n) then some (target, t) else none) else some (here.pc + 4, here.prio))
    (fun n l => if takes n && room l then push l else l)) ∧
  (Executes (.brx a t) s c → cleanA → Transfers (.brx a t) s c
    (fun n => if ok n then some ((lane n).src64 a, t) else none) (fun _ l => l)) ∧
  (Executes (.callx a t) s c → cleanA → Transfers (.callx a t) s c
    (fun n => if ok n && room (lane n) then some ((lane n).src64 a, t) else none)
    (fun n l => if ok n && room l then push l else l)) ∧
  (Executes .ret s c → Transfers .ret s c (fun n => (lane n).stack.head?.map (fun r => (r.1.setWidth 64, r.2)))
    (fun _ l => { l with stack := l.stack.tail })) ∧
  (∀ i ∈ [Instr.bra p sense t o, .call p sense t o], Executes i s c → ¬ clean → c.wave.spec = none →
    exec i s = .next (s.raiseHalt (c.halt s reasonPoison 0 0 c.active))) ∧
  (∀ i ∈ [Instr.brx a t, .callx a t], Executes i s c → ¬ cleanA → c.wave.spec = none →
    exec i s = .next (s.raiseHalt (c.halt s reasonPoison 0 0 c.active)))

/-- TRAP and BRK record every active lane with their number and resume at PC + 4, and change nothing else, but that
BRK sends the break event when the context asks for it; in handler mode both are double traps, with no event. -/
def Obligations.TrapsAndBreaks : Prop :=
  ∀ (n : BitVec 7) s c,
  let asks := ((aget s.contexts (s.ctxOf c.gang)).map Context.breakNotify).getD false
  let u := if asks then s.event 0x0002 c.gang.stack (s.ctxOf c.gang) (natLe 8 (s.launchid c.gang).toNat ++
      natLe 8 c.entry.pc.toNat ++ natLe 1 c.wave.coreId ++ natLe 1 c.w ++ natLe 1 n.toNat) else s
  let gone := fun (core : WaveCore) => { core with
      frontier := putEntry c.wave.core.frontier c.k { c.entry.next with lanes := c.entry.lanes &&& ~~~c.active }
      trapmask := c.wave.core.trapmask ||| c.active }
  let recorded := fun (x : Cause) (lanes : List Lane) => LaneWise c.wave.core.lanes lanes (fun k l l' =>
      l' = if c.on k then Recorded c k x (c.entry.pc + 4) l else l)
  c.any = true →
  (Executes (.trap n) s c → c.wave.core.handler = false → ∃ lanes, recorded ⟨4, n.setWidth 8⟩ lanes ∧
    exec (.trap n) s = .next (s.setWave c.g c.w (c.note s { c.wave with core := gone { c.wave.core with lanes := lanes } }))) ∧
  (Executes (.brk n) s c → c.wave.core.handler = false → ∃ lanes, recorded ⟨5, n.setWidth 8⟩ lanes ∧
    exec (.brk n) s = .next (u.setWave c.g c.w (c.note u { c.wave with core := gone { c.wave.core with lanes := lanes } }))) ∧
  (∀ i ∈ [Instr.trap n, .brk n], Executes i s c → c.wave.core.handler = true →
    exec i s = .next (s.raiseHalt (c.halt s reasonDoubleTrap 0 0 0)))

/-- When lanes wait, no entry is ready and no join is due, or once entry has begun, a wave whose context has a handler
stores its trap record at T + 512 * (launchid + wave number in the launch), changes no other byte of memory, and goes
on in handler mode with one entry of the trapped lanes at the trap entry, priority 63, and every other entry set
aside. An absent page of the record holds the entry, which asks for the page; a refused store, no handler or no trap
area is a fault. Which fault is raised first and how a held step stays as it was are the model's readings (assumptions
44, 81). -/
def Obligations.HandlerEntry : Prop :=
  ∀ s g w gang wave x l, aget s.gangs g = some gang → gang.waves[w]? = some wave → s.waveAlive g w gang wave = true →
  wave.held = none → (wave.entering = true ∨ (wave.core.handler = false ∧ wave.core.trapmask ≠ 0 ∧
    (∀ e ∈ wave.core.frontier, e.state ≠ .ready) ∧ wave.core.releasable = none)) →
  aget s.contexts (s.ctxOf gang) = some x → s.launchOf gang = some l →
  ((x.trapEntry = 0 ∨ x.trapArea = 0) → exec (.handlerEntry g w) s = .next
    (s.raiseHalt (waveHalt s g w gang wave reasonNoHandler wave.lastPc 0))) ∧
  (x.trapEntry ≠ 0 → x.trapArea ≠ 0 →
    let record := (x.trapArea.toNat + 512 * (l.desc.launchid.toNat % 2 ^ 32 +
      (gang.x + l.desc.nx * (gang.y + l.desc.ny * gang.z)) * l.desc.waves + w)) % 2 ^ 64
    let reach := s.reachFrom (s.ctxOf gang) gang.stack (some wave.coreId) 32 (s.spadSize gang) .trapRecord true
      (sectorPieces record 512)
    (∀ page, reach = .hold page → exec (.handlerEntry g w) s = .next
      ((s.setWave g w { wave with entering := true }).pageRequest (s.ctxOf gang) gang.stack page .trapRecord)) ∧
    (∀ reason va, reach = .fault reason va → exec (.handlerEntry g w) s = .next
      (s.raiseHalt (waveHalt s g w gang wave reason wave.lastPc (BitVec.ofNat 64 va)))) ∧
    (∀ ps, reach = .ok ps → s.frozenPieces gang.stack ps = false → s.recallLines true ps = [] →
      let t := (s.fillFrom (s.ctxOf gang) gang.stack (some wave.coreId) ps).storePieces (s.recordAgent g w wave) false
        gang.stack wave.coreId (trapRecord wave.core (s.stack gang.stack).now l.desc.launchid) false ps
      ∃ core, SameButKnowledge { wave.core with
          frontier := wave.core.frontier.map (fun e => { e with aside := true }) ++
            [⟨wave.core.trapmask, x.trapEntry, 63, .ready, ⟨0, 0⟩, false⟩]
          handler := true, latchCount := 0, last := none } core ∧
        exec (.handlerEntry g w) s = .next (t.setWave g w { wave with
          core := core, stores := wave.stores ++ s.acksOf gang.stack 32 ps, entering := false }) ∧
        ∀ pa, ¬ StoredAt ps pa → Sparse.get 0 t.mem pa = Sparse.get 0 s.mem pa))

/-- In handler mode, when the reads of its lanes pass their checks and nothing stands in their way, TRET completes:
each active lane reads its priority, guard and resume PC from the trap record, takes them, and leaves the frontier.
When no handler lane is left, set-aside entries return, returned lanes form ready entries at their resume PC and
priority with their guard run, and trapmask is 0. A resume PC that is misaligned or at 2^56 or beyond, a guard count
above 16 or a nonzero reserved bit is a bad return. -/
def Obligations.ReturnFromTrap : Prop :=
  (∀ s c x l, Executes .tret s c → aget s.contexts (s.ctxOf c.gang) = some x → s.launchOf c.gang = some l →
    l.desc.capture = false →
    let record := (x.trapArea.toNat + 512 * (l.desc.launchid.toNat % 2 ^ 32 +
      (c.gang.x + l.desc.nx * (c.gang.y + l.desc.ny * c.gang.z)) * l.desc.waves + c.w)) % 2 ^ 64
    ∀ (ps : Nat → List (Target × Nat)) (rs : Nat → TrapReturn),
    (∀ n, c.on n = true → s.tretReach c record n = .ok (ps n) ∧ s.frozenPieces c.gang.stack (ps n) = false ∧
      s.recallLines false (ps n) = [] ∧ (∀ pa leaf va k, (Target.mem pa leaf va, k) ∈ ps n → s.portDown c.gang.stack pa = false) ∧
      let found := (ps n).map (fun p => (s.laneAgent c.g c.w n (c.wave.core.lane n) .none).look [19, n] s p.1 p.2)
      let bs := found.flatMap (fun g => g.bytes)
      (∀ g ∈ found, g.mark = false) ∧
        tretValue (bs.getD 0 0) (bs.getD 1 0) (BitVec.ofNat 64 (leNat (bs.drop 2))) record = .ok (rs n)) →
    ∃ t lanes, SameButCaches s t ∧ exec .tret s = .next (t.setWave c.g c.w { c.note s c.wave with
        core := { ({ c.wave.core with lanes := lanes, frontier := c.wave.core.frontier.eraseIdx c.k } :
          WaveCore).endHandlerIfOver with last := none, tokenWait := none } }) ∧
      LaneWise c.wave.core.lanes lanes (fun n l l' => l' = if c.on n then { l with returned := some (rs n) } else l)) ∧
  (∀ (prio guard : Byte) (resume : W64) (record : Nat),
    tretValue prio guard resume record =
      if resume.toNat % 4 = 0 ∧ resume.toNat < 2 ^ 56 ∧ prio.toNat < 64 ∧ guard.toNat < 64 ∧ guard.toNat % 32 ≤ 16 then
        .ok ⟨resume, BitVec.ofNat 6 prio.toNat, guard.toNat % 32, decide (32 ≤ guard.toNat)⟩
      else .fault reasonBadReturn record) ∧
  (∀ core : WaveCore, core.handler = true →
    ((∃ e ∈ core.frontier, e.aside = false) → core.endHandlerIfOver = core) ∧
    ((∀ e ∈ core.frontier, e.aside = true) → ∃ lanes back, core.endHandlerIfOver = { core with
        lanes := lanes, frontier := core.frontier.map (fun e => { e with aside := false }) ++ back
        handler := false, trapmask := 0, latchCount := 0, last := none } ∧
      LaneWise core.lanes lanes (fun _ l l' => l' = { l with trap := none, returned := none }) ∧
      (∀ e ∈ back, e.state = .ready ∧ e.aside = false) ∧
      (∀ n r, n < 32 → (core.lane n).returned = some r → ∃ e ∈ back, e.lanes = setBit 0 n true ∧ e.pc = r.resume ∧
        e.prio = r.prio ∧ e.guard.count = r.guardCount ∧ (r.guardCount ≠ 0 → has e.guard.mask n = r.guardIn)) ∧
      back.length = (List.range 32).countP (fun n => (core.lane n).returned.isSome)))

/-- A load whose lanes all pass their checks reads the bytes at the address of each active lane, in its space, as it
issues, and goes on; the pending load holds for each lane and register the zero- or sign-extended, whole or split
value, or 0 and a mark where a poisoned sector was read. A piece of whose sector no store is on record is found as it
stands. LDX reads elements of the named tensor, out of bounds the fill value, and traps its lanes where the entry
cannot be used. No byte of memory changes. What a read may find is the model's account of R285 (assumptions 20, 22). -/
def Obligations.LoadInstructions : Prop :=
  (∀ (sp : Space) (o z nt : Bool) (d a b : Reg) (ty : MemTy) (sc : Scope) (k : BitVec 12) s c,
  let on := bitsOf c.active
  let strict := o || sc != .none
  let word := fun (ty : MemTy) (_ : Nat) (bs : List Byte) =>
    match ty with
    | .n8 | .n16 | .b32 => [BitVec.ofNat 32 (leNat bs)]
    | .i8 => [(BitVec.ofNat 8 (leNat bs)).signExtend 32]
    | .i16 => [(BitVec.ofNat 16 (leNat bs)).signExtend 32]
    | .b64 => [BitVec.ofNat 32 (leNat bs), BitVec.ofNat 32 (leNat bs / 2 ^ 32)]
  let four := fun (_ : Nat) (bs : List Byte) =>
    (List.range 4).map (fun j => BitVec.ofNat 32 (leNat ((bs.drop (4 * j)).take 4)))
  let rs := on.map (fun n => (n, c.request n a 0 sp.sp ty.size strict .load false))
  let rsV := on.map (fun n => (n, c.request n a 0 sp.sp 16 true .load false))
  let ty1 : MemTy := if z then .b64 else .b32
  let rsO := on.map (fun n => (n, c.request n a (k.toInt * ty1.size) .gen ty1.size false .load false))
  let sb := c.wave.core.uni b
  let inside := fun (es : Nat → Tensor) n => (es n).inBounds ((c.wave.core.lane n).coords a sb)
  let rsX := fun (es : Nat → Tensor) => (on.filter (inside es)).map (fun n =>
    (n, (⟨Sp.gen, (es n).address ((c.wave.core.lane n).coords a sb), elementBits (es n).format / 8, false, .load, false,
      (c.wave.core.lane n).marked a 2 || c.wave.core.uniMark b, some c.wave.coreId, n⟩ : Request)))
  let fills := fun (es : Nat → Tensor) => (on.filter (fun n => !inside es n)).flatMap (fun n =>
    (imageWords (es n).format z (es n).fill.toNat).mapIdx (fun j w =>
      (⟨n, (c.wave.core.lane n).arch (d.toNat + j), w, false⟩ : RegWrite)))
  (Executes (.ld sp o d a ty sc nt) s c → Performs s c false rs →
    Loads (.ld sp o d a ty sc nt) s c (sp == .cst) sc d rs (word ty) []) ∧
  (Executes (.ldv sp o d a sc nt) s c → Performs s c false rsV →
    Loads (.ldv sp o d a sc nt) s c (sp == .cst) sc d rsV four []) ∧
  (Executes (.ldo k z d a) s c → Performs s c false rsO → Loads (.ldo k z d a) s c false .none d rsO (word ty1) []) ∧
  (∀ es : Nat → Tensor, Executes (.ldx z d a b) s c → (∀ n, c.on n = true → c.elementEntry s b z n = some (es n)) →
    Performs s c false (rsX es) →
    Loads (.ldx z d a b) s c false .none d (rsX es) (fun n bs => imageWords (es n).format z (leNat bs)) (fills es)) ∧
  (∀ i ∈ [Instr.ldx z d a b, .stx z d a b], Executes i s c → (∀ n, c.on n = true → c.elementEntry s b z n = none) →
    c.any = true → TrapRefused i s c ∧ (c.wave.spec = none → c.wave.core.handler = false → ∃ lanes,
      Traps i s c c.active { c.wave.core with lanes := lanes } ∧
      LaneWise c.wave.core.lanes lanes (fun n l l' =>
        l' = if c.on n then Recorded c n causeIllegalLane c.entry.pc l else l)))) ∧
  (∀ (s : State) (c : Issue) (cst : Bool) (sc : Scope) (n k pa va : Nat) (leaf : Leaf), c.wave.spec = none →
    s.past .mem pa = [] →
    (c.look cst sc n s (.mem pa leaf va) k).bytes = readBytes s.mem pa k ∧
    (c.look cst sc n s (.mem pa leaf va) k).mark = poisoned s.poison pa k)

/-- A store whose lanes all pass their checks writes the low bytes of its registers at the address it computes for
each active lane, lanes in ascending order, and goes on with the acknowledgements outstanding; every byte of memory
outside the stored bytes reads as before. A release at `.sys` waits for its lanes' system stores. STX drops lanes
whose element is out of bounds. A store is performed as it issues, a choice of the model (assumption 22). -/
def Obligations.StoresAndTheirFrame : Prop :=
  ∀ (sp : WSpace) (o z nt : Bool) (d a b : Reg) (ty : MemTy) (sc : Scope) (k : BitVec 12) s c,
  let on := bitsOf c.active
  let strict := o || sc != .none
  let data := fun (regs size : Nat) (n : Nat) =>
    ((((List.range regs).flatMap (fun j => natLe 4 (Sparse.get 0 (c.wave.core.lane n).regs
      ((c.wave.core.lane n).winbase.toNat + (d.toNat + j))).toNat)).take size, (c.wave.core.lane n).marked d regs) :
      List Byte × Bool)
  let rs := on.map (fun n => (n, c.request n a 0 sp.sp ty.size strict .store true))
  let rsV := on.map (fun n => (n, c.request n a 0 sp.sp 16 true .store true))
  let w := if z then 2 else 1
  let rsO := on.map (fun n => (n, c.request n a (k.toInt * (4 * w)) .gen (4 * w) false .store true))
  let sb := c.wave.core.uni b
  let rsX := fun (es : Nat → Tensor) =>
    (on.filter (fun n => (es n).inBounds ((c.wave.core.lane n).coords a sb))).map (fun n =>
    (n, (⟨Sp.gen, (es n).address ((c.wave.core.lane n).coords a sb), elementBits (es n).format / 8, false, .store, true,
      (c.wave.core.lane n).marked a 2 || c.wave.core.uniMark b, some c.wave.coreId, n⟩ : Request)))
  (Executes (.st sp o d a ty sc nt) s c → Performs s c true rs →
    Stores (.st sp o d a ty sc nt) s c sc o rs (data (if ty = .b64 then 2 else 1) ty.size)) ∧
  (Executes (.stv sp o d a sc nt) s c → Performs s c true rsV → Stores (.stv sp o d a sc nt) s c sc o rsV (data 4 16)) ∧
  (Executes (.sto k z d a) s c → Performs s c true rsO → Stores (.sto k z d a) s c .none false rsO (data w (4 * w))) ∧
  (∀ es : Nat → Tensor, Executes (.stx z d a b) s c → (∀ n, c.on n = true → c.elementEntry s b z n = some (es n)) →
    Performs s c true (rsX es) →
    Stores (.stx z d a b) s c .none false (rsX es) (fun n => data w (elementBits (es n).format / 8) n))

/-- Each lane of a memory instruction is judged in order: a marked address is a fault; a misaligned access that must
be aligned traps the lane; then translation and protection. A fault of any lane raises the halt line for one of them,
with the performed and the skipped lanes; where no lane faults, a trap in handler mode is a double trap; a page that
is not present holds the whole instruction and asks for the page; a speculating wave keeps a fault to itself. The
order of checks over several pieces, the first fault of a step and the limit of a core are the model's readings
(assumptions 44, 95, 125). -/
def Obligations.AccessChecks : Prop :=
  (∀ (s : State) ctx st spad (r : Request), r.marked = true → s.fate ctx st spad r = .fault reasonPoison r.addr) ∧
  (∀ (s : State) ctx st spad (r : Request), r.marked = false → r.aligned = true → r.addr % r.size ≠ 0 →
    s.fate ctx st spad r = .trap) ∧
  (∀ i (s : State) (c : Issue) (a : Ask) perform, c.wave.spec = none →
    (∃ r ∈ a.reqs, ∃ reason va, c.fateOf s r.2 = .fault reason va) →
    ∃ (u : State) (reason va : Nat) (done : BitVec 32), c.access i s a perform = u.raiseHalt (c.halt s reason va done (c.active &&& ~~~done)) ∧
      ∃ r ∈ a.reqs, c.fateOf s r.2 = .fault reason va) ∧
  (∀ i (s : State) (c : Issue) (a : Ask) perform, c.wave.spec = none → c.wave.core.handler = true →
    (∀ r ∈ a.reqs, ∀ reason va, c.fateOf s r.2 ≠ .fault reason va) →
    (a.traps ≠ 0 ∨ ∃ r ∈ a.reqs, r.1 < 32 ∧ c.fateOf s r.2 = .trap) →
    ∃ (u : State) (va : Nat) (done : BitVec 32),
      c.access i s a perform = u.raiseHalt (c.halt s reasonDoubleTrap va done (c.active &&& ~~~done))) ∧
  (∀ i (s : State) (c : Issue) (a : Ask) perform sp, c.wave.spec = some sp →
    (∃ r ∈ a.reqs, ∃ reason va, c.fateOf s r.2 = .fault reason va) →
    ∃ reason va, (∃ r ∈ a.reqs, c.fateOf s r.2 = .fault reason va) ∧
      c.access i s a perform = s.modWave c.g c.w (fun w =>
        { w with spec := w.spec.map (fun y => { y with fault := some (reason, BitVec.ofNat 64 va) }) })) ∧
  (∀ i (s : State) (c : Issue) (a : Ask) perform, a.traps = 0 →
    (∀ r ∈ a.reqs, (∃ ps, c.fateOf s r.2 = .ok ps) ∨ (∃ page, c.fateOf s r.2 = .hold page) ∨
      ∃ lines, c.fateOf s r.2 = .wait lines) →
    (∃ r ∈ a.reqs, ∃ page, c.fateOf s r.2 = .hold page) →
    ∃ pages : List Nat, (∀ page, page ∈ pages ↔ ∃ r ∈ a.reqs, c.fateOf s r.2 = .hold page) ∧
      c.access i s a perform = (let u := pages.foldl (fun t p => t.pageRequest (s.ctxOf c.gang) c.gang.stack p a.access) s
        u.setWave c.g c.w (c.note u { c.wave with
          core := { c.wave.core with frontier := putEntry c.wave.core.frontier c.k c.entry }
          held := some ⟨i, c.active, pages.eraseDups, s.tick⟩ })))

/-- An atomic whose lanes all pass their checks performs them one after another in some order, each reading the old
value and writing the new one at its location in one step: the sum, difference, smaller, larger, bitwise result, the
operand, the exchanged value when the old one is equal, or the float sum, minimum number or maximum number; no other
byte of memory changes. The returning forms land the old values as load data; the others wait for acknowledgements. A
release at `.sys` first waits for its lanes' system stores. What atomics that race at two points leave, and the
numbers of the points, are the model's (assumptions 10, 21). -/
def Obligations.Atomics : Prop :=
  (∀ (f : AtomOp) (d a : Reg) (sc : Scope) (o : AtomOrder) (sp : WSpace) s c,
    ∀ e ∈ ([(.atom f d a sc o sp, sp.sp, false, Scope.narrow sc), (.atomr f d a sc o sp, sp.sp, true, Scope.narrow sc),
        (.matomr f d a sc o, Sp.ms, true, false)] : List (Instr × Sp × Bool × Bool)),
      let rs := (bitsOf c.active).map (fun n => (n, c.request n a 0 e.2.1 f.size true .atomic true))
      Executes e.1 s c → Performs s c true rs →
      let waits := c.wave.sysReleaseWaits (o == .rel) sc (maskOf (rs.map (fun r => r.1)))
      (waits = true → exec e.1 s = .next s) ∧
      (waits = false →
      let ps := c.allPieces s rs
      let t := c.filled s rs
      ∃ xs u olds core, xs.Perm (c.atomics t f d e.2.2.1 e.2.2.2 (c.landing s rs)) ∧
        t.performAtomics c.g c.w (fun n => t.laneAgent c.g c.w n (c.wave.core.lane n) sc) (o == .rel) xs.length xs =
          some (u, olds) ∧
        SameButKnowledge c.wave.core core ∧
        let writes := olds.flatMap (fun x => ((if f.is64 then [x.2.1.setWidth 32, x.2.1.extractLsb' 32 32]
            else [x.2.1.setWidth 32] : List W32)).mapIdx (fun k v =>
          (⟨x.1, (c.wave.core.lane x.1).arch (d.toNat + k), if x.2.2.1 then 0 else v, x.2.2.1⟩ : RegWrite)))
        exec e.1 s = .next (u.setWave c.g c.w (({ c with wave := { c.wave with
          loads := if e.2.2.1 ∧ writes ≠ [] then c.wave.loads ++ [u.inFlight c.gang.stack writes false true []
            (rs.map (fun r => r.1)) ps] else c.wave.loads
          stores := if e.2.2.1 then c.wave.stores
            else c.wave.stores ++ rs.flatMap (fun r => u.acksOf c.gang.stack r.1 (c.pieces s r.2)) } } : Issue).advance e.1 u
            core)))) ∧
  (∀ (s : State) (a : Agent) heads g w gang (x : LaneAtomic), aget s.gangs g = some gang →
    (∀ l, s.launchOf gang = some l → l.desc.capture = false) →
    (∀ pa leaf va, x.target = .mem pa leaf va → s.portDown gang.stack pa = false ∧
      s.racing a x.point pa x.op.size true = none) →
    let q := x.target.place (a.place.gang.getD 0)
    let found := s.present q.1 q.2 x.op.size
    let old : W64 := if found.mark then 0 else BitVec.ofNat 64 (leNat found.bytes)
    ∃ r, s.performAtomic a heads g w x = some r ∧ r.old = old ∧ r.mark = found.mark ∧
      (x.op.apply old x.operand x.cas = none → r.state.mem = s.mem ∧ r.state.poison = s.poison) ∧
      (∀ off, x.target = .spd off → r.state.mem = s.mem) ∧
      (∀ v pa leaf va, x.op.apply old x.operand x.cas = some v → x.target = .mem pa leaf va →
        readBytes r.state.mem pa x.op.size = natLe x.op.size v.toNat ∧
        ∀ b, (b < pa ∨ pa + x.op.size ≤ b) → Sparse.get 0 r.state.mem b = Sparse.get 0 s.mem b)) ∧
  (∀ (x y z : W32),
    (∀ e ∈ ([(AtomOp.add32, fun x y => x + y),
      (AtomOp.sub32, fun x y => x - y),
      (AtomOp.minI32, fun x y => if y.toInt < x.toInt then y else x),
      (AtomOp.minN32, fun x y => if y.toNat < x.toNat then y else x),
      (AtomOp.maxI32, fun x y => if x.toInt < y.toInt then y else x),
      (AtomOp.maxN32, fun x y => if x.toNat < y.toNat then y else x),
      (AtomOp.and32, fun x y => x &&& y),
      (AtomOp.or32, fun x y => x ||| y),
      (AtomOp.xor32, fun x y => x ^^^ y),
      (AtomOp.exch32, fun _ y => y)] : List (AtomOp × (W32 → W32 → W32))),
      e.1.is64 = false ∧ e.1.apply (x.setWidth 64) (y.setWidth 64) (z.setWidth 64) = some ((e.2 x y).setWidth 64)) ∧
    AtomOp.cas32.apply (x.setWidth 64) (y.setWidth 64) (z.setWidth 64) = (if x = y then some (z.setWidth 64) else none) ∧
    (∀ e ∈ [(AtomOp.faddF32, fmtF32.add .rn x.toNat y.toNat), (.fminF32, fmtF32.pick false true x.toNat y.toNat),
        (.fmaxF32, fmtF32.pick true true x.toNat y.toNat)],
      e.1.apply (x.setWidth 64) (y.setWidth 64) (z.setWidth 64) = some ((BitVec.ofNat 32 e.2.bits).setWidth 64))) ∧
  (∀ (x y z : W64),
    (∀ e ∈ ([(AtomOp.add64, fun x y => x + y),
      (AtomOp.sub64, fun x y => x - y),
      (AtomOp.minI64, fun x y => if y.toInt < x.toInt then y else x),
      (AtomOp.minN64, fun x y => if y.toNat < x.toNat then y else x),
      (AtomOp.maxI64, fun x y => if x.toInt < y.toInt then y else x),
      (AtomOp.maxN64, fun x y => if x.toNat < y.toNat then y else x),
      (AtomOp.and64, fun x y => x &&& y),
      (AtomOp.or64, fun x y => x ||| y),
      (AtomOp.xor64, fun x y => x ^^^ y),
      (AtomOp.exch64, fun _ y => y)] : List (AtomOp × (W64 → W64 → W64))), e.1.is64 = true ∧ e.1.apply x y z = some (e.2 x y)) ∧
    AtomOp.cas64.apply x y z = (if x = y then some z else none) ∧
    (∀ e ∈ [(AtomOp.faddF64, fmtF64.add .rn x.toNat y.toNat), (.fminF64, fmtF64.pick false true x.toNat y.toNat),
        (.fmaxF64, fmtF64.pick true true x.toNat y.toNat)], e.1.apply x y z = some (BitVec.ofNat 64 e.2.bits)))

/-- MATOM completes at issue: the atomics of its lanes join those that are not performed, in some order, each with the
point that held at issue, and no byte of memory changes; MATOM_PERFORM performs the first one that its lane has
pending at its bytes, which reads and writes its location in one step, changes no other byte, and leaves the list. A
release at `.sys` first waits for its lanes' system stores. What atomics that race at two points leave, and the
numbers of the points, are the model's (assumptions 10, 21). -/
def Obligations.ReturnFreeAtomics : Prop :=
  (∀ (f : AtomOp) (d a : Reg) (sc : Scope) (o : AtomOrder) s c,
    let rs := (bitsOf c.active).map (fun n => (n, c.request n a 0 .ms f.size true .atomic true))
    let waits := c.wave.sysReleaseWaits (o == .rel) sc (maskOf (rs.map (fun r => r.1)))
    Executes (.matom f d a sc o) s c → Passes s c true rs →
    (waits = true → exec (.matom f d a sc o) s = .next s) ∧
    (waits = false → ∃ (adds : List Matom) (u : State), u = { c.filled s rs with matoms := s.matoms ++ adds, nextId := u.nextId } ∧ u.mem = s.mem ∧
      (adds.map (fun m => (m.lane, m.pa, m.op, m.operand, m.cas, m.mark, m.point))).Perm
        (rs.flatMap (fun r => ((c.pieces s r.2).head?.toList).filterMap (fun p => match p.1 with
          | .spd _ => none
          | .mem pa leaf _ => some (r.1, pa, f, ((c.wave.core.lane r.1).atomOperand f d).1,
              ((c.wave.core.lane r.1).atomOperand f d).2.1, ((c.wave.core.lane r.1).atomOperand f d).2.2,
              if leaf.side then 3 else 2)))) ∧
      (∀ m ∈ adds, m.gang = c.g ∧ m.wave = c.w ∧ m.scope = sc) ∧
      exec (.matom f d a sc o) s = .next (u.setWave c.g c.w (c.advance (.matom f d a sc o) u c.wave.core)))) ∧
  (∀ (s : State) k m gang, s.matoms[k]? = some m → aget s.gangs m.gang = some gang →
    (∀ j x, j < k → s.matoms[j]? = some x → ¬(x.gang = m.gang ∧ x.wave = m.wave ∧ x.lane = m.lane ∧
      x.pa < m.pa + m.op.size ∧ m.pa < x.pa + x.op.size)) →
    s.snoopLines m.pa m.op.size true = [] → s.portDown gang.stack m.pa = false →
    (∀ l, s.launchOf gang = some l → l.desc.capture = false) →
    s.racing (s.matomAgent m) m.point m.pa m.op.size true = none →
    let old : W64 := if poisoned s.poison m.pa m.op.size then 0 else BitVec.ofNat 64 (leNat (readBytes s.mem m.pa m.op.size))
    ∃ t, exec (.matomPerform k) s = .next t ∧ t.matoms = s.matoms.eraseIdx k ∧
      (m.op.apply old m.operand m.cas = none → t.mem = s.mem ∧ t.poison = s.poison) ∧
      ∀ v, m.op.apply old m.operand m.cas = some v →
        readBytes t.mem m.pa m.op.size = natLe m.op.size v.toNat ∧
        ∀ b, (b < m.pa ∨ m.pa + m.op.size ≤ b) → Sparse.get 0 t.mem b = Sparse.get 0 s.mem b)

/-- PREF and FENCE complete with no change of a register or of memory, but that fence.ms waits while a MATOM of the
wave is not performed, and a release at `.sys` while a system write of its lanes is not acknowledged; MON arms the
monitor of each active lane with address, size, compare and expected value, traps a misaligned lane and faults on a
marked address; MWAIT blocks its entry until a pass ends it, with the expiry that the lowest active lane gives, and
lanes without a monitor have status 3. That MON drops a mark of its expected value is the model's choice (assumption
108). -/
def Obligations.FencesMonitorsAndPrefetch : Prop :=
  ∀ (a b d : Reg) (sp : WSpace) (nt ms z : Bool) (sc : Scope) (o : FenceOrder) (k : MonCmp) s c,
  let lane := c.wave.core.lane
  let size := if z then 8 else 4
  (Executes (.pref a sp nt) s c → Completes (.pref a sp nt) s c c.wave.core) ∧
  (Executes (.fence sc o ms) s c →
    let waits := (c.any = true ∧ ms = true ∧ ∃ m ∈ s.matoms, m.gang = c.g ∧ m.wave = c.w) ∨
      (o ≠ .acq ∧ sc = .sys ∧ ∃ p ∈ c.wave.stores, p.port ≠ none ∧ c.on p.lane = true)
    (waits → exec (.fence sc o ms) s = .next s) ∧
    (¬ waits → ∃ core fences spec, SameButKnowledge c.wave.core core ∧ (c.wave.spec = none → spec = none) ∧
      (c.wave.spec ≠ none → fences = s.fences) ∧
      let t : State := { s with fences := fences }
      exec (.fence sc o ms) s = .next (t.setWave c.g c.w
        (({ c with wave := { c.wave with spec := spec } } : Issue).advance (.fence sc o ms) t core)))) ∧
  (Executes (.mon k z a b) s c →
    ((∃ n, c.on n = true ∧ (lane n).marked a 2 = true) → ∃ va, exec (.mon k z a b) s = .next (c.fault s reasonPoison va 0 c.active)) ∧
    ((∀ n, c.on n = true → (lane n).marked a 2 = false ∧ ((lane n).src64 a).toNat % size = 0) →
      ∃ lanes, Completes (.mon k z a b) s c { c.wave.core with lanes := lanes } ∧
        LaneWise c.wave.core.lanes lanes (fun n l l' => l' = if c.on n then { l with
          monitor := some ⟨l.src64 a, z, k, if z then l.src64 b else (l.src32 b).setWidth 64⟩ } else l)) ∧
    ((∀ n, c.on n = true → (lane n).marked a 2 = false) → (∃ n, c.on n = true ∧ ((lane n).src64 a).toNat % size ≠ 0) →
      TrapRefused (.mon k z a b) s c ∧ (c.wave.spec = none → c.wave.core.handler = false → ∃ traps lanes,
        (∀ n, has traps n = (c.on n && decide (((lane n).src64 a).toNat % size ≠ 0))) ∧
        Traps (.mon k z a b) s c traps { c.wave.core with lanes := lanes } ∧
        LaneWise c.wave.core.lanes lanes (fun n l l' =>
          l' = if has traps n then Recorded c n causeIllegalLane c.entry.pc l
            else if c.on n then { l with
              monitor := some ⟨l.src64 a, z, k, if z then l.src64 b else (l.src32 b).setWidth 64⟩ } else l)))) ∧
  (Executes (.mwait d a) s c → c.any = true → (lane c.first).marked a 1 = false →
    let t := ((lane c.first).src32 a).toNat
    ∃ lanes,
      let core : WaveCore := { c.wave.core with
        lanes := lanes
        frontier := c.wave.core.frontier.set c.k { c.entry with state := .blocked (.mwait d
          (if t = 0xFFFFFFFF then none else some ((s.stack c.gang.stack).now + t))) } }
      exec (.mwait d a) s = .next (s.setWave c.g c.w (c.note s { c.wave with
        core := markStalls (.mwait d a) core c.active })) ∧
      LaneWise c.wave.core.lanes lanes (fun n l l' =>
        l' = if c.on n then { l with mwait := if l.monitor.isNone then some 3 else none } else l))

/-- Bytes written at an address are read back there, every other byte is unchanged, and the table stays canonical.
After a write, a sector that it touches is poisoned when the write is marked; when it is not, a sector that it covers
whole is clean, and any other sector stays as it was. A thread that comes after the one recorded store of a sector
finds what it wrote there. What a read may find is the model's account of R285 (assumption 20). -/
def Obligations.MemoryReadAfterWrite : Prop :=
  ∀ (s : State) (au : Author) (pa : Nat) (bs : List Byte) (mark : Bool),
  let t := s.writeMem au pa bs mark
  readBytes t.mem pa bs.length = bs ∧
  (∀ a, a < pa ∨ pa + bs.length ≤ a → Sparse.get 0 t.mem a = Sparse.get 0 s.mem a) ∧
  (s.memoryOk = true → t.memoryOk = true) ∧
  (∀ x, Sparse.get false t.poison x =
    if bs = [] ∨ 16 * x + 16 ≤ pa ∨ pa + bs.length ≤ 16 * x then Sparse.get false s.poison x
    else if mark then true
    else if pa ≤ 16 * x ∧ 16 * x + 16 ≤ pa + bs.length then false
    else Sparse.get false s.poison x) ∧
  (bs ≠ [] → pa % 16 + bs.length ≤ 16 → s.past .mem pa = [] → Sparse.get 0 au.view au.thread ≤ s.history.length → ∀ (a : Agent) key,
    (∀ x ∈ t.past .mem pa, a.knows x = true) → (t.observe a key .mem pa bs.length).bytes = bs)

/-- Every piece of memory at which an access that passes its checks lands was granted by a page leaf for that kind of
access, and is backed local memory of an enabled stack of the context's own partition, over an open ring, or a routed
system address; an access to the scratchpad stays below the size the kernel declared. Which rings are open is the
model's choice (assumptions 65, 104). -/
def Obligations.AccessesStayInReach : Prop :=
  ∀ (s : State) ctx st spad (r : Request) ps, s.fate ctx st spad r = .ok ps → ∀ p ∈ ps,
  match p.1 with
  | .spd off => off + p.2 ≤ spad
  | .mem pa leaf va => ∃ x, aget s.contexts ctx = some x ∧ leafAllows leaf.bits r.access r.write = true ∧ va < 2 ^ 56 ∧
      (isLocal pa = true → (s.stack (homeStack pa)).enable = true ∧ (s.stack (homeStack pa)).partNum = x.partition ∧
        pa % stackSpan < (s.stack (homeStack pa)).capacity ∧ s.ringOpen st (homeStack pa) = true) ∧
      (isLocal pa = false → pa < 2 ^ 52 ∧ ((s.stack st).egress pa).isSome = true)

/-- For every well-formed instruction word, with every operand at every value that the encoding admits, the decoder
reads the encoded word as that instruction. -/
def Obligations.DecodeOfEncode : Prop :=
  ∀ i : Instr, i.isWord = true → i.wellFormed = true → decode (encode i) = .ok i

/-- Whatever the decoder answers for a word is an instruction, not an event, is well formed, and encodes to that very
word, so that no bit of the word is ignored; two words never decode to one instruction. -/
def Obligations.WordsHaveOneMeaning : Prop :=
  ∀ (w : W32) (i : Instr), decode w = .ok i → i.isWord = true ∧ i.wellFormed = true ∧ encode i = w

/-- A word whose major is 0x1C to 0x1F, or which is SYS function 0x00, decodes to no instruction; a wave that fetches
such a word records every lane of its entry with cause 3 at that word. A word that fails a step-1 check where it
issues, or that names a latch at or above the latch count, has no effect of its own, whichever word it is: every lane
of the entry, masked lanes too, is recorded at the word with cause 3, or with cause 2 and the lowest stale latch; in
handler mode it is a double trap, and a speculating wave stalls before it. -/
def Obligations.WholeWordTraps : Prop :=
  (∀ w : W32, 28 ≤ (w >>> 27).toNat ∨ (w >>> 22 = 0) → ∃ e, decode w = .error e) ∧
  (∀ (w : W32) s c, decideIssue (.illegalInstruction w) s = .illegal c → c.wave.spec = none → c.wave.core.handler = false →
    c.entry.lanes ≠ 0 → ∃ lanes, exec (.illegalInstruction w) s = .next (s.setWave c.g c.w (c.note s { c.wave with
      core := { c.wave.core with
        lanes := lanes
        frontier := c.wave.core.frontier.eraseIdx c.k
        trapmask := c.wave.core.trapmask ||| c.entry.lanes } })) ∧
    LaneWise c.wave.core.lanes lanes (fun n l l' =>
      l' = if has c.entry.lanes n then Recorded c n causeIllegalWord c.entry.pc l else l)) ∧
  ∀ (i : Instr) s c x, i.isWord = true → c.entry.lanes ≠ 0 →
    (decideIssue i s = .illegal c ∧ x = causeIllegalWord ∨
      ∃ k, decideIssue i s = .stale c k ∧ x = causeStale k ∧ staleLatch i c.wave.core.latchCount = some k) →
    TrapRefused i s c ∧ (c.wave.spec = none → c.wave.core.handler = false →
      ∃ lanes, exec i s = .next (s.setWave c.g c.w (c.note s { c.wave with
        core := { c.wave.core with
          lanes := lanes
          frontier := c.wave.core.frontier.eraseIdx c.k
          trapmask := c.wave.core.trapmask ||| c.entry.lanes } })) ∧
      LaneWise c.wave.core.lanes lanes (fun n l l' =>
        l' = if has c.entry.lanes n then Recorded c n x c.entry.pc l else l))

/-- A word executes exactly when the wave waits for no held access and no handler entry, the word passes the step-1
checks at its place, names no pending token, unless it is TKW, and no register with a result still to land, names no
latch at or above the latch count that stands when it issues, and is not held back by speculation; the wave is then as
it was but for latches, stall marks, the tokens that it writes, and what it has learned from the tokens that it reads.
Which registers a word counts as naming is the model's choice (assumptions 79, 103, 106). -/
def Obligations.WhatIssues : Prop :=
  ∀ (i : Instr) s c, Executes i s c ↔ ∃ c0, s.issuing = some c0 ∧ c0.wave.held = none ∧ c0.wave.entering = false ∧
    illegalHere i c0.gang c0.wave.core c0.entry = false ∧
    (isTkw i = true ∨ ∀ r ∈ (operands i).ur ++ (operands i).uw, r.toNat ∉ c0.wave.pending) ∧
    scoreboardHolds i c0.wave c0.entry = false ∧
    (∀ p ∈ (operands i).vr, 120 ≤ p.1.toNat → p.1.toNat - 120 < c.wave.core.latchCount) ∧
    (∀ sp, c0.wave.spec = some sp → sp.fault = none ∧ nonSpec i = false) ∧
    let core : WaveCore := { c0.wave.core with
      latchCount := if stallSwitch i c0.wave.core c0.entry ∨
        c0.wave.core.last ≠ some (c0.entry.lanes, c0.entry.prio) then 0 else c0.wave.core.latchCount
      stallV := if stallMarked i c0.wave.core c0.entry then [] else c0.wave.core.stallV
      stallS := if stallMarked i c0.wave.core c0.entry then 0 else c0.wave.core.stallS
      stallP := if stallMarked i c0.wave.core c0.entry then 0 else c0.wave.core.stallP }
    c = { c0 with
      wave := { c0.wave with
        core := core.learn (c0.wave.observed i)
        tokens := c0.wave.tokens.filter (fun p => (operands i).uw.all (fun r => r.toNat != p.1)) }
      quiet := stallSwitch i c0.wave.core c0.entry }

/-- A register of the window is the architectural register at winbase plus its number; what is written to it is read
back, a pair through both halves, and other registers keep their values; a result enters b0 and the older latches
shift; p0 reads 1 and ignores writes; uniform registers read back what is written. -/
def Obligations.RegistersAndLatches : Prop :=
  ∀ (l : Lane) (w : WaveCore) (f g : Reg) (v : W32) (x : W64) (m : Bool) (p q : BitVec 4) (k : Nat),
  (f.toNat < 120 → (l.put32 f.toNat v m).src32 f = v ∧ (l.put32 f.toNat v m).marked f 1 = m) ∧
  (f.toNat < 120 → g ≠ f → (l.put32 f.toNat v m).src32 g = l.src32 g ∧
    (l.put32 f.toNat v m).marked g 1 = l.marked g 1) ∧
  (∀ r, r ≠ l.winbase.toNat + f.toNat → Sparse.get 0 (l.put32 f.toNat v m).regs r = Sparse.get 0 l.regs r) ∧
  (f.toNat < 119 → (l.put64 f.toNat x m).src64 f = x ∧ (l.put64 f.toNat x m).src32 f = x.setWidth 32 ∧
    (l.put64 f.toNat x m).marked f 2 = m) ∧
  (l.pushLatch x m).latch 0 = ⟨x, m⟩ ∧ (k < 7 → (l.pushLatch x m).latch (k + 1) = l.latch k) ∧
  (l.pushLatch x m).src64 120 = x ∧ (l.pushLatch x m).src32 120 = x.setWidth 32 ∧
  l.pred 0 = true ∧ l.predMark 0 = false ∧ l.putPred 0 m m = l ∧
  (p ≠ 0 → (l.putPred p m true).pred p = m ∧ (q ≠ p → (l.putPred p m true).pred q = l.pred q)) ∧
  (w.putUni f.toNat x m).uni g = (if g = f then x else w.uni g) ∧
  (w.putUni f.toNat x m).uniMark g = (if g = f then m else w.uniMark g)

/-- Whatever a step does, a word of a wave or an event of the device or the world, memory and poison stay in canonical
form, and the package stays one of twelve stacks and twelve partitions. The sequence number that the event arbiter
gives next never falls, but where a stack powers up, whose partition's device starts anew, or a castling hands over
the state table's own number. -/
def Obligations.StepKeepsInvariant : Prop :=
  (∀ s t : State, Sys2Proof.Machine.step s = .next t → s.Inv → t.Inv) ∧
  (∀ (i : Instr) (s t : State), (∀ st, i ≠ .powerUp st) → (∀ n, i ≠ .castlingImport n) → exec i s = .next t → s.seq ≤ t.seq)

/-- From every state a step has a next state: no instruction, no event and no data end a run. Every event, of the
device or of the world, completes from every state, with its effect where it is due and without one where it is not. -/
def Obligations.StepNeverStops : Prop :=
  (∀ s : State, ∃ t, Sys2Proof.Machine.step s = .next t) ∧
  (∀ (i : Instr) (s : State), i.isWord = false → (∀ w, i ≠ .illegalInstruction w) → ∃ t, exec i s = .next t)

/-- The package right after power-up meets the invariant. Every stack starts with clock 0, in no partition and not
enabled, in boot state 0 with no error, its complex in state 0, its interfaces stopped in dispatch mode 1, no route,
no window, no counter; no partition has a key pair; nothing is resident, queued or in flight, and the first event
sequence number is 1. That memory reads 0 before it is written is the model's choice (assumption 1). -/
def Obligations.ResetState : Prop :=
  State.reset.Inv ∧
  (∀ st, st < 12 → (State.reset.stack st).now = 0 ∧ (State.reset.stack st).enable = false ∧
    (State.reset.stack st).bootState = 0 ∧ (State.reset.stack st).bootError = 0 ∧ (State.reset.stack st).cpState = 0 ∧
    (State.reset.stack st).cpRole = false ∧ (State.reset.stack st).sdMode = true ∧
    (State.reset.stack st).timeInterval = 1000 ∧ (State.reset.stack st).linkTimeout = 10000 ∧
    (State.reset.stack st).counters = [] ∧ (State.reset.stack st).haltArrived = false ∧
    (∀ r ∈ (State.reset.stack st).routes, r = (0, 0)) ∧ (State.reset.stack st).routes.length = 32 ∧
    (∀ r ∈ (State.reset.stack st).windows, r = (0, 0)) ∧ (State.reset.stack st).windows.length = 8) ∧
  (∀ p, State.reset.members p = []) ∧
  (∀ p, p < 12 → (State.reset.partition p).keys = 0 ∧ (State.reset.partition p).round = 0 ∧
    (State.reset.partition p).halted = false) ∧ State.reset.gangs = [] ∧ State.reset.launches = [] ∧ State.reset.queues = [] ∧
  State.reset.contexts = [] ∧ State.reset.commands = [] ∧ State.reset.seq = 1 ∧
  (∀ pa, Sparse.get 0 State.reset.mem pa = 0)

/-- One word or more of each family, written out from its encoding, decodes to the instruction that it stands for. -/
def Obligations.DecodeWords : Prop :=
  ∀ p ∈ ([(0x00400000#32, .nop), (0x01400000#32, .gets false 0 0), (0x04C08013#32, .guard 2 true 3),
    (0x101E0010#32, .call 0 false 30 16), (0x02C0020C#32, .brx 4 12),
    (0x1841C189#32, .sub32 false 7 3 9), (0x1E4082A3#32, .shri false 2 5 3),
    (0x3008C082#32, .cmp false .lt 3 1 2), (0x39018083#32, .selB32 2 false 6 1 3), (0x42020082#32, .addc 4 false 8 1 2),
    (0x4D43063C#32, .addi 0xABC false 12 12), (0x28010202#32, .addUint 4 4 2), (0x3342818B#32, .shflXor false 10 3 11),
    (0x94420103#32, .fmaFp32 .rz false 8 2 3), (0x9F028300#32, .fsqrtFp64 .rn false 10 6),
    (0xA5024082#32, .hfma2 true .rn false 9 1 2), (0xAA58C082#32, .fcmp false .un 3 1 2),
    (0xB50182B1#32, .cvt .rs .bf16 false 6 5 .f32), (0xB8228303#32, .ldo 3 true 10 6), (0xC0014102#32, .sto 2 false 5 2),
    (0xCAC00046#32, .fence .pkg .rel true), (0xD5814443#32, .matom .faddF32 5 8 .pkg .rlx),
    (0xD5630225#32, .atomr .cas64 12 4 .gang .acq .glb), (0xD800C024#32, .bar 3 .sync .gang false),
    (0xD8C18400#32, .qr 6 8), (0xDA030181#32, .cpy false 12 3 true), (0xDC020480#32, .mxgo false 8 9)] :
    List (W32 × Instr)), decode p.1 = .ok p.2

/-- Where State.cur names a wave that runs, no YIELD holds it and no join or handler entry of it is due, its selected
entry fetches: when the PC translates, its sector is not poisoned, no route, host copy or port stands in the way, and
no write to the sector has been made since the stack may hold an older word, the four bytes there, little-endian, are
the word; when they decode to i, the step is exec of i from the entry that was selected, and then time passes; when
they decode to nothing, the step is the illegal word. The fetch leaves its translation and its line in the stack's
caches. What an older line or a broken fetch gives is the model's choice (assumptions 11, 94). -/
def Obligations.StepRunsTheWord : Prop :=
  ∀ (s : State) g w k0 k gang wave e pa leaf, s.cur = some (g, w, k0) → aget s.gangs g = some gang →
    gang.waves[w]? = some wave → s.waveRuns g w gang wave = true → wave.yieldHold = false → wave.entering = false →
    wave.core.boundary.releasable = none → selectEntry wave.core.boundary.frontier = some k →
    wave.core.boundary.frontier[k]? = some e →
    s.translate (s.ctxOf gang) gang.stack (some wave.coreId) 65 e.pc.toNat .fetch false = .ok pa leaf → e.pc.toNat < 2 ^ 56 →
    s.frozenFor gang.stack pa = false → s.snoopLines pa 4 false = [] → s.portDown gang.stack pa = false →
    poisoned s.poison pa 4 = false → (∀ x ∈ s.past .mem pa, x.stamp < s.codeSince gang e.pc.toNat pa) →
    let s1 := s.setWave g w { wave with core := wave.core.boundary }
    let t : State := { s1.fetched gang wave e.pc with cur := some (g, w, k) }
    let i := match decode (BitVec.ofNat 32 (leNat (readBytes s.mem pa 4))) with
      | .ok i => i
      | .error _ => .illegalInstruction (BitVec.ofNat 32 (leNat (readBytes s.mem pa 4)))
    Sys2Proof.Machine.step s = match exec i t with
      | .next u => .next u.endStep
      | .fault f => .fault f
      | .refused r => .refused r

/-- A barrier flips when every expected participant has arrived: its phase rises, drops leave, joins enter. BAR.arv,
.drop and .join complete; .wait blocks while an arrived participant waits for the flip; .sync goes on when its arrival
flips the barrier, speculates where it may, and else blocks; stack and package barriers trap in a launch that is not
all resident. What passes a barrier acquires what its arrivals released. SPECX completes with no effect. Without
speculation in the gang no BAR changes memory, a lane's registers or uniform registers. What entries and gangs of
differing members do is the model's choice (assumptions 15, 97, 98, 109 to 111). -/
def Obligations.Barriers : Prop :=
  (∀ (b : Barrier) (v : Seen) (p q : Nat),
    (b.due = true ↔ b.arrived ≠ [] ∧ ∀ x ∈ b.expected, x ∈ b.arrived) ∧
    b.flip.phase = b.phase + 1 ∧ b.flip.arrived = [] ∧ b.flip.drops = [] ∧ b.flip.joins = [] ∧
    b.flip.passed = b.gathered ∧
    (p ∈ b.flip.expected ↔ (p ∈ b.expected ∧ p ∉ b.drops) ∨ (p ∈ b.joins ∧ (p ∈ b.drops ∨ p ∉ b.expected))) ∧
    (q ∈ (b.arrive v p).arrived ↔ q ∈ b.arrived ∨ q = p) ∧ (q ∈ (b.drop p).drops ↔ q ∈ b.drops ∨ q = p) ∧
    (q ∈ (b.join p).joins ↔ q ∈ b.joins ∨ (q = p ∧ p ∉ b.expected)) ∧
    (q ∈ (b.leave p).expected ↔ q ∈ b.expected ∧ q ≠ p)) ∧
  (∀ s c, Executes .specx s c → Completes .specx s c c.wave.core) ∧
  (∀ n k sc x s c, Executes (.bar n k sc x) s c →
    let i := Instr.bar n k sc x
    let inst := c.inst sc n.toNat
    let b := s.getBar inst
    let s1 := s.setWave c.g c.w c.wave
    let s2 := c.arrive s1 sc n.toNat
    let barred := (sc = .stack ∨ sc = .pkg) ∧
      ((∀ l, s.launchOf c.gang = some l → l.desc.allResident = false) ∨ c.wave.diverted = true)
    (c.any = false → Completes i s c c.wave.core) ∧
    (c.any = true → barred → TrapsActive i s c) ∧
    (c.any = true → ¬ barred →
      (k = .arv → exec i s = .next (c.advanceIn i s2)) ∧
      (k = .drop → exec i s = .next (c.advanceIn i
        (c.arrive (s1.setBar inst ((c.participants sc).foldl Barrier.drop b)) sc n.toNat))) ∧
      (k = .join → exec i s = .next (c.advanceIn i (s1.setBar inst ((c.participants sc).foldl Barrier.join b)))) ∧
      (k = .wait → (∃ p ∈ c.participants sc, p ∈ b.arrived) →
        exec i s = .next (c.blockIn i s1 (.bar sc n.toNat b.phase))) ∧
      (k = .wait → (∀ p ∈ c.participants sc, p ∉ b.arrived) → exec i s = .next (c.advanceIn i (c.acquires s1 b.passed))) ∧
      (k = .sync → b.phase.toNat < (s2.getBar inst).phase.toNat →
        exec i s = .next (c.advanceIn i (c.acquires s2 (s2.getBar inst).passed))) ∧
      (k = .sync → (s2.getBar inst).phase.toNat ≤ b.phase.toNat →
        exec i s = .next (if x = true ∧ sc = .gang ∧ c.maySpeculate s = true then c.speculate i s2 n.toNat b.phase
          else c.blockIn i s2 (.bar sc n.toNat b.phase))) ∧
      ((∀ w ∈ c.gang.waves, w.spec = none) → ∀ t, exec i s = .next t → t.mem = s.mem ∧ t.poison = s.poison ∧
        t.contexts = s.contexts ∧ t.commands = s.commands ∧ ∀ g w v v', s.wave g w = some v → t.wave g w = some v' →
          LaneWise v.core.lanes v'.core.lanes (fun _ l l' => l' = { l with know := l'.know }) ∧
          v'.core.s = v.core.s ∧ v'.core.j = v.core.j)))

/-- QW pushes the word of its uniform register with its mark, or at a full queue traps on an engine queue and blocks
on others; QR takes the oldest word into its uniform register, or blocks; QRT takes it and writes 1 to its predicate
in the active lanes, or writes 0; QST writes the status word and clears the lost bit; TKW completes when its bit is
set or the token is not pending, and else blocks. A FIFO gives words back in the order in which they were pushed. None
of them writes memory or a window register. -/
def Obligations.QueueWords : Prop :=
  ∀ (q d a : Reg) (p : BitVec 4) (s : State) (c : Issue),
  let s1 := s.setWave c.g c.w c.wave
  let took := fun (x : QWord) (f : WaveCore → WaveCore) =>
    (s1.popWord c.g c.w q.toNat).modWave c.g c.w (fun u => u.modCore (fun k => f (k.takeWord c.active d x)))
  let flag := fun (v : Bool) (k : WaveCore) => k.mapLanes (fun n l => if c.on n then l.putPred p v false else l)
  let failed := fun (k : WaveCore) => if p = 0 then flag false k
    else { flag false k with stallP := setBit k.stallP p.toNat true }
  (∀ (k : WaveCore) lanes (x : QWord), SameButKnowledge { k with
      s := Sparse.set 0 k.s d.toNat x.val, sMarks := Sparse.set false k.sMarks d.toNat x.mark } (k.takeWord lanes d x)) ∧
  (∀ i ∈ ([.qw q a, .qr d q, .qrt d q p, .qst d q, .tkwSrc a, .tkwVis a] : List Instr), Executes i s c →
    c.any = false → Completes i s c c.wave.core) ∧
  (Executes (.qw q a) s c → c.any = true →
    (s.pushFree c.gang c.wave q.toNat = 0 → q.toNat < 5 → TrapsActive (.qw q a) s c) ∧
    (s.pushFree c.gang c.wave q.toNat = 0 → 5 ≤ q.toNat →
      exec (.qw q a) s = .next (c.blockIn (.qw q a) s1 (.qw q a))) ∧
    (0 < s.pushFree c.gang c.wave q.toNat → exec (.qw q a) s = .next ((c.advanceIn (.qw q a)
      (s1.pushWord c.g c.w q.toNat ⟨c.wave.core.uni a, c.wave.core.uniMark a, c.released s⟩)).settleGangQueues c.g))) ∧
  (Executes (.qr d q) s c → c.any = true →
    (popSide c.gang c.wave q.toNat = [] → exec (.qr d q) s = .next (c.blockIn (.qr d q) s1 (.qr d q))) ∧
    (∀ x xs, popSide c.gang c.wave q.toNat = x :: xs →
      exec (.qr d q) s = .next ((c.advanceIn (.qr d q) (took x id)).settleGangQueues c.g))) ∧
  (Executes (.qrt d q p) s c → c.any = true →
    (popSide c.gang c.wave q.toNat = [] →
      exec (.qrt d q p) s = .next (c.advanceIn .nop (s1.modWave c.g c.w (fun u => u.modCore failed)))) ∧
    (∀ x xs, popSide c.gang c.wave q.toNat = x :: xs →
      exec (.qrt d q p) s = .next ((c.advanceIn (.qrt d q p) (took x (flag true))).settleGangQueues c.g))) ∧
  (Executes (.qst d q) s c → c.any = true → exec (.qst d q) s = .next (s.setWave c.g c.w
    (({ c with wave := { c.wave with lost := c.wave.lost.set q.toNat false } } : Issue).advance (.qst d q) s
      (c.wave.core.putUni d.toNat (BitVec.ofNat 64 ((if q.toNat < 8 ∧ c.wave.lost.getD q.toNat false = true then 2 ^ 56
        else 0) + s.pushFree c.gang c.wave q.toNat * 2 ^ 32 + (popSide c.gang c.wave q.toNat).length)) false)))) ∧
  (∀ e ∈ ([(.tkwSrc a, false, 0), (.tkwVis a, true, 1)] : List (Instr × Bool × Nat)), Executes e.1 s c → c.any = true →
    ((a.toNat ∉ c.wave.pending ∨ has (c.wave.core.uni a) e.2.2 = true) → Completes e.1 s c c.wave.core) ∧
    (a.toNat ∈ c.wave.pending → has (c.wave.core.uni a) e.2.2 = false → exec e.1 s = .next (s.setWave c.g c.w
      (c.note s { c.wave with core := { c.wave.core with
        frontier := c.wave.core.frontier.set c.k { c.entry with state := .blocked (.tkw e.2.1 a) } } })))) ∧
  (∀ g w x y n v, aget s.gangs g = some x → 8 ≤ n → n - 8 < x.fifos.length →
    ∃ z, aget (s.pushWord g w n v).gangs g = some z ∧ popSide z y n = popSide x y n ++ [v]) ∧
  (∀ g w x y n, aget s.gangs g = some x → 8 ≤ n →
    ∃ z, aget (s.popWord g w n).gangs g = some z ∧ popSide z y n = (popSide x y n).tail) ∧
  (∀ i ∈ ([.qw q a, .qr d q, .qrt d q p, .qst d q, .tkwSrc a, .tkwVis a] : List Instr), Executes i s c →
    c.wave.core.handler = false → ∀ t, exec i s = .next t → t.mem = s.mem ∧ t.poison = s.poison ∧
      t.contexts = s.contexts ∧ t.commands = s.commands ∧ ∀ g w v v', s.wave g w = some v → t.wave g w = some v' → ∀ n,
        (v'.core.lane n).regs = (v.core.lane n).regs ∧ (v'.core.lane n).marks = (v.core.lane n).marks)

/-- A submit takes its header and parameter words from the engine's queue. When they, the counter address, the
captured tensor entries and the number of held commands are in order, a command with their contents reaches the
engine, held or queued; the words leave the queue and the token is pending; a command of length 0 other than BIN, not
held, ends at once instead. Otherwise every active lane traps and nothing is submitted; a poisoned word is a fault.
Memory and lane registers stay as they are. The limit counts held submits, the model's choice (assumption 112). -/
def Obligations.EngineSubmits : Prop :=
  ∀ (nw : Bool) (d a : Reg) (h : Bool) (s : State) (c : Issue),
  ∀ e ∈ ([(.cpy nw d a h, .cpy, h), (.gat nw d a h, .gat, h), (.sct nw d a h, .sct, h), (.bin nw d a, .bin, false),
      (.coll nw d a h, .coll, h)] : List (Instr × EngineKind × Bool)),
    let i := e.1
    let k := e.2.1
    let held := e.2.2
    let ctx := s.ctxOf c.gang
    let token := if nw = true then none else some d.toNat
    Executes i s c →
    (c.any = false → Completes i s c c.wave.core) ∧
    (c.any = true → c.wave.core.uniMark a = true → FaultsAt i s c reasonPoison 0) ∧
    (c.any = true → c.wave.core.uniMark a = false → c.wave.push.getD k.queue [] = [] → TrapsActive i s c) ∧
    (∀ hw rest, c.any = true → c.wave.core.uniMark a = false → c.wave.push.getD k.queue [] = hw :: rest →
      let n := (hw.val.toNat / 2 ^ 56) % 16
      let ps := (rest.take n).map QWord.val
      let entries := s.capture (c.waveAgent s .pkg) ctx (commandHandles k (hdrMode hw.val) ps)
      let ok := n ≤ rest.length ∧ headerOk k held hw.val = true ∧
        paramsOk k (hdrMode hw.val) (hdrLength hw.val) (s.partitionStacks ctx) ps = true ∧
        (c.wave.core.uni a).toNat % 8 = 0 ∧ (held = true → s.heldCount c.g < 64)
      ((hw.mark = true ∨ ∃ x ∈ rest.take n, x.mark = true) → FaultsAt i s c reasonPoison 0) ∧
      (hw.mark = false → (∀ x ∈ rest.take n, x.mark = false) →
        (¬ ok → TrapsActive i s c) ∧
        (ok → entries = none → TrapsActive i s c) ∧
        (∀ x y, ok → k = .cpy → entries = some [some x, some y] → x.format ≠ y.format → TrapsActive i s c) ∧
        (∀ es, ok → entries = some es →
          (k = .cpy → ∀ x y, some x ∈ es → some y ∈ es → x.format = y.format) →
          (held = true ∨ k = .bin ∨ hdrLength hw.val ≠ 0) →
          ∃ t v x, exec i s = .next t ∧ t.commands = s.commands ++ [(s.nextId, x)] ∧ x.kind = k ∧
            x.owner = .wave c.g c.w ∧ x.ctx = ctx ∧ x.stack = c.gang.stack ∧ x.header = hw.val ∧ x.params = ps ∧
            x.entries = es ∧ x.token = token ∧ x.counter = c.wave.core.uni a ∧ x.length = hdrLength hw.val ∧
            x.state = (if held then .held else .queued) ∧ x.got = [] ∧ x.put = [] ∧
            t.wave c.g c.w = some v ∧ v.push.getD k.queue [] = rest.drop n ∧
            v.core.frontier[c.k]? = some c.entry.next ∧ v.core.lanes = c.wave.core.lanes ∧
            (∀ r, token = some r → r ∈ v.pending ∧ Sparse.get 0 v.core.s r = 0) ∧
            (∀ r, token ≠ some r → Sparse.get 0 v.core.s r = Sparse.get 0 c.wave.core.s r) ∧
            t.mem = s.mem ∧ t.poison = s.poison ∧ t.contexts = s.contexts) ∧
        (∀ es, ok → entries = some es →
          (k = .cpy → ∀ x y, some x ∈ es → some y ∈ es → x.format = y.format) →
          held = false → k ≠ .bin → hdrLength hw.val = 0 →
          ∃ t v, exec i s = .next t ∧ t.commands = s.commands ∧ t.mem = s.mem ∧ t.poison = s.poison ∧
            t.wave c.g c.w = some v ∧ (∀ r, token = some r → r ∉ v.pending) ∧
            ∀ n, (v.core.lane n).regs = (c.wave.core.lane n).regs)))

/-- SHAPE changes the gang's grant and writes the grant word; a new unit has clear accumulators and only sub-arrays
that are neither fenced nor held by another gang. MXLS, MXGO, MXZ, MXST and MXSW put one operation on their unit's
queue, with the block as read and the tensor entries captured, and a full queue stalls them; MXRD writes four
accumulators of row row0 + lane to its quad. A block, unit or entry that is not in order traps every active lane. That
the operation that runs counts among the eight of a queue is the model's choice (assumption 114). -/
def Obligations.MatrixWords : Prop :=
  (∀ (d a : Reg) (s : State) (c : Issue), Executes (.shape d a) s c →
    let v := c.wave.core.uni a
    let mode := v.toNat % 8
    let wanted := v.toNat / 16 % 8
    (c.any = false → Completes (.shape d a) s c c.wave.core) ∧
    (c.any = true → c.wave.core.uniMark a = true → FaultsAt (.shape d a) s c reasonPoison 0) ∧
    (c.any = true → c.wave.core.uniMark a = false → shapeOk v = false → TrapsActive (.shape d a) s c) ∧
    (c.any = true → c.wave.core.uniMark a = false → shapeOk v = true → s.gangOps c.g ≠ [] →
      exec (.shape d a) s = .next s) ∧
    (c.any = true → c.wave.core.uniMark a = false → shapeOk v = true → s.gangOps c.g = [] →
      ∃ r, (mode = 4 → r = c.gang.grant) ∧ (mode = 3 → r = none) ∧
        (mode < 3 → r = s.formGrant c.gang.stack c.g mode wanted (has v 3)) ∧
        exec (.shape d a) s = .next ((s.modGang c.g (fun x => { x with grant := r })).setWave c.g c.w
          (c.advance (.shape d a) s (c.wave.core.putUni d.toNat
            (grantWord (s.stack c.gang.stack).fenced r) false))))) ∧
  (∀ (s : State) st g mode wanted fb r, s.formGrant st g mode wanted fb = some r →
    (r.mode = mode ∨ (fb = true ∧ r.mode = 0)) ∧ r.units ≠ [] ∧ ∀ u ∈ r.units, u.acc = [] ∧ u.lost = false ∧
      u.cur = Plane.empty ∧ u.next = Plane.empty ∧ u.subs ∈ modeGroups r.mode ∧
      ∀ k ∈ u.subs, has (s.stack st).fenced k = false ∧ k ∉ s.subsTaken st g) ∧
  (∀ (nw : Bool) (d a : Reg) (s : State) (c : Issue) b u, ReadsBlock s c a b u →
    let off := (c.wave.core.uni a).toNat
    let token := if nw = true then none else some d.toNat
    (Executes (.mxls nw d a) s c →
      (∀ e, c.handleEntry s (blockB b) = some e → 1 ≤ blockK b → blockK b ≤ u.kMax → 1 ≤ blockN b →
        blockN b ≤ u.nMax → Enqueues (.mxls nw d a) s c token (c.op s .mxls (blockUnit b) off b none (some e) none token)) ∧
      ((c.handleEntry s (blockB b) = none ∨ blockK b = 0 ∨ u.kMax < blockK b ∨ blockN b = 0 ∨ u.nMax < blockN b) →
        TrapsActive (.mxls nw d a) s c)) ∧
    (Executes (.mxgo nw d a) s c →
      let ea := if blockStream b then none else c.handleEntry s (blockA b)
      let ec := if blockLoadC b then c.handleEntry s (blockC b) else none
      let ok := (blockStream b = true ∨ ea ≠ none) ∧ (blockLoadC b = true → ec ≠ none) ∧ 1 ≤ blockM b ∧
        blockM b ≤ 256 ∧ blockCounter b % 8 = 0
      (ok → Enqueues (.mxgo nw d a) s c token (c.op s .mxgo (blockUnit b) off b ea none ec token)) ∧
      (¬ ok → TrapsActive (.mxgo nw d a) s c)) ∧
    (Executes (.mxz a) s c → Enqueues (.mxz a) s c none (c.op s .mxz (blockUnit b) off b none none none none)) ∧
    (Executes (.mxst nw d a) s c →
      let ok := (∃ e, c.handleEntry s (blockC b) = some e ∧ e.format = blockFormat b ∧ e.sparsity = 0) ∧
        1 ≤ blockFormat b ∧ blockFormat b ≤ 5 ∧ 1 ≤ blockM b ∧ blockM b ≤ 256 ∧ 1 ≤ blockN b ∧ blockN b ≤ u.nMax ∧
        blockCounter b % 8 = 0
      (ok → Enqueues (.mxst nw d a) s c token
        (c.op s .mxst (blockUnit b) off b none none (c.handleEntry s (blockC b)) token)) ∧
      (¬ ok → TrapsActive (.mxst nw d a) s c)) ∧
    (Executes (.mxrd d a) s c →
      ((256 ≤ blockRow0 b ∨ blockCol0 b % 4 ≠ 0) → TrapsActive (.mxrd d a) s c) ∧
      (blockRow0 b < 256 → blockCol0 b % 4 = 0 → c.earlierOps s (blockUnit b) ≠ [] →
        exec (.mxrd d a) s = .next (c.readStall s)) ∧
      (blockRow0 b < 256 → blockCol0 b % 4 = 0 → c.earlierOps s (blockUnit b) = [] →
        ∃ lanes, Completes (.mxrd d a) s c { c.wave.core with lanes := lanes } ∧
          LaneWise c.wave.core.lanes lanes (fun n l l' =>
            l' = { l with regs := l'.regs, marks := l'.marks } ∧ (c.on n = false → l' = l) ∧
            (c.on n = true → (∀ k, k < 4 → Sparse.get 0 l'.regs (l.arch (d.toNat + k)) =
                (if blockRow0 b + n < 256 ∧ blockCol0 b + k < u.nMax then
                  Sparse.get 0 u.acc ((blockRow0 b + n) * u.nMax + (blockCol0 b + k)) else 0) ∧
                Sparse.get false l'.marks (l.arch (d.toNat + k)) = false) ∧
              (∀ r, (r < l.arch d.toNat ∨ l.arch d.toNat + 4 ≤ r) →
                Sparse.get 0 l'.regs r = Sparse.get 0 l.regs r)))))) ∧
  (∀ (nw : Bool) (d a : Reg) (s : State) (c : Issue),
    let off := (c.wave.core.uni a).toNat
    ∀ i ∈ ([.mxls nw d a, .mxgo nw d a, .mxz a, .mxst nw d a, .mxrd d a] : List Instr), Executes i s c →
    (c.any = false → Completes i s c c.wave.core) ∧
    (c.any = true → c.wave.core.uniMark a = true → FaultsAt i s c reasonPoison off) ∧
    (c.any = true → c.wave.core.uniMark a = false → (c.gang.grant = none ∨ off % 128 ≠ 0) → TrapsActive i s c) ∧
    (∀ r, c.any = true → c.wave.core.uniMark a = false → c.gang.grant = some r → off % 128 = 0 →
      (s.spadSize c.gang < off + 128 → FaultsAt i s c reasonProtection off) ∧
      (off + 128 ≤ s.spadSize c.gang → (blockReserved (c.blockBytes s off) = false ∨
        ∀ u, r.units[blockUnit (c.blockBytes s off)]? = some u → u.lost = true) → TrapsActive i s c))) ∧
  (∀ (s : State) (c : Issue), Executes .mxsw s c →
    (c.any = false → Completes .mxsw s c c.wave.core) ∧
    (c.any = true → c.gang.grant = none → TrapsActive .mxsw s c) ∧
    (∀ r, c.any = true → c.gang.grant = some r →
      let us := (List.range r.units.length).filter (fun k => !((r.units[k]?).map MxUnit.lost).getD true)
      ((∃ k ∈ us, unitQueue ≤ (s.unitOps c.g k).length) → exec .mxsw s = .next s) ∧
      ((∀ k ∈ us, (s.unitOps c.g k).length < unitQueue) → exec .mxsw s = .next { c.doneWith .mxsw s none with
        nextId := s.nextId + us.length
        mxops := s.mxops ++ us.mapIdx (fun n k => (s.nextId + n, c.op s .mxsw k 0 [] none none none none)) })))

/-- TIDW writes the identifier's entry from the 128-byte image that it reads in the scratchpad, or makes it invalid
for the image of format 0xFF, and traps on an image that breaks the layout; TIDR stores the image of the entry that it
sees in the scratchpad. Offsets that are not multiples of 128 and identifiers above 1023 trap; an image past the
scratchpad is a protection fault, a poisoned one a poison fault. Memory and the lanes stay as they are. -/
def Obligations.TensorIdentifiers : Prop :=
  ∀ (a b : Reg) (s : State) (c : Issue) (x : Context),
  let id := (c.wave.core.uni a).toNat
  let off := (c.wave.core.uni b).toNat
  let ctx := s.ctxOf c.gang
  let got := c.readImage s off
  let bytes := got.flatMap (fun p => p.bytes)
  (∀ i ∈ ([.tidw a b, .tidr a b] : List Instr), Executes i s c →
    (c.any = false → Completes i s c c.wave.core) ∧
    (c.any = true → c.wave.core.uniMark b = true → FaultsAt i s c reasonPoison off) ∧
    (c.any = true → c.wave.core.uniMark b = false → (off % 128 ≠ 0 ∨ 1024 ≤ id) → TrapsActive i s c) ∧
    (c.any = true → c.wave.core.uniMark b = false → off % 128 = 0 → id < 1024 → s.spadSize c.gang < off + 128 →
      FaultsAt i s c reasonProtection off)) ∧
  (c.any = true → c.wave.core.uniMark b = false → off % 128 = 0 → id < 1024 → off + 128 ≤ s.spadSize c.gang →
    aget s.contexts ctx = some x →
    (Executes (.tidw a b) s c →
      ((∃ p ∈ got, p.mark = true) → FaultsAt (.tidw a b) s c reasonPoison off) ∧
      ((∀ p ∈ got, p.mark = false) →
        (imageField bytes 0 1 ≠ 0xFF → imageOk bytes = false → TrapsActive (.tidw a b) s c) ∧
        ((imageField bytes 0 1 = 0xFF ∨ imageOk bytes = true) → ∃ tab t v,
          exec (.tidw a b) s = .next t ∧ aget t.contexts ctx = some { x with tensors := tab } ∧
          (∀ n, n ≠ ctx → aget t.contexts n = aget s.contexts n) ∧
          t.entry ctx id = (if imageField bytes 0 1 = 0xFF then none else some (tensorOf bytes)) ∧
          (∀ n, n ≠ id → t.entry ctx n = s.entry ctx n) ∧ t.mem = s.mem ∧ t.poison = s.poison ∧
          t.wave c.g c.w = some v ∧ v.core.lanes = c.wave.core.lanes ∧
          v.core.frontier[c.k]? = some c.entry.next))) ∧
    (Executes (.tidr a b) s c → ∃ t v y, exec (.tidr a b) s = .next t ∧ aget t.gangs c.g = some y ∧
      readBytes y.spad off 128 = (match s.seeEntry (c.waveAgent s .pkg) [18] ctx id with
        | some e => e.image | none => invalidImage) ∧
      (∀ o, (o < off ∨ off + 128 ≤ o) → Sparse.get 0 y.spad o = Sparse.get 0 c.gang.spad o) ∧
      t.mem = s.mem ∧ t.contexts = s.contexts ∧
      t.wave c.g c.w = some v ∧ v.core.lanes = c.wave.core.lanes))

/-- A join whose waiters are all satisfied releases its entry at PC + 4 and takes the arrived lanes off its mask; a
YIELD hold ends 256 core cycles after the YIELD; a wave that could issue is promoted; the shelf takes and gives back a
wave: the wave taken stalls at a switch point, loses its latches and is counted; a wave or a gang that is done
retires; a watchdog that has expired and a refused instruction fetch raise the halt line; a fetch that meets an absent
page blocks its entry and asks for the page. Which of R265's waves are compared is read from the spec; that time on
the shelf does not count against the watchdog is the model's choice (assumption 116). -/
def Obligations.WaveEvents : Prop :=
  ∀ (s : State) (g w : Nat) (gang : Gang) (wave : Wave), aget s.gangs g = some gang → gang.waves[w]? = some wave →
  (∀ k x j arrived, wave.core.frontier[k]? = some x → x.state = .joining j arrived → x.aside = false →
    s.waveAlive g w gang wave = true →
    (∀ n, has (Sparse.get 0 wave.core.j j.toNat) n = true → wave.core.satisfies arrived x.pc x.prio n = true) →
    ∃ masks, exec (.joinRelease g w k) s = .next (s.setWave g w { wave with core := { wave.core with
        j := masks, frontier := wave.core.frontier.set k { x.next with state := .ready } } }) ∧
      ∀ r, Sparse.get 0 masks r =
        if r = j.toNat then Sparse.get 0 wave.core.j r &&& ~~~arrived else Sparse.get 0 wave.core.j r) ∧
  (s.waveAlive g w gang wave = true → wave.progress + 71 ≤ (s.stack gang.stack).now →
    exec (.yieldHoldExpiry g w) s = .next (s.setWave g w { wave with yieldHold := false })) ∧
  (s.waveMayIssue g w gang wave = true → s.waveStalled g w gang wave = false →
    exec (.issueAgePromotion g w) s = .next (s.setWave g w { wave with aged := true })) ∧
  (s.waveRuns g w gang wave = true → s.parksHere g w gang wave = true → 16 ≤ s.windowsHeld gang.stack wave.coreId →
    (∃ q ∈ s.coreMates gang wave, q.2.2.2.parked = true ∧ q.2.2.2.rank ≠ 0) →
    (∀ q ∈ s.coreMates gang wave, q.2.2.2.parked = false → s.parksHere q.1 q.2.1 q.2.2.1 q.2.2.2 = true →
      wave.rank ≤ q.2.2.2.rank) →
    exec (.parkWave g w) s = .next ((s.modStack gang.stack (fun t => t.count 0x0D0 1)).setWave g w { wave with
      parked := true, core := { wave.core with latchCount := 0 } })) ∧
  (s.waveAlive g w gang wave = true → wave.parked = true → wave.rank ≠ 0 → s.windowsHeld gang.stack wave.coreId < 16 →
    (∀ q ∈ s.coreMates gang wave, (q.1 ≠ g ∨ q.2.1 ≠ w) → q.2.2.2.parked = true → q.2.2.2.rank ≠ 0 →
      q.2.2.2.ahead wave = false) →
    exec (.recallWave g w) s = .next (s.setWave g w { wave with
      parked := false, progress := (s.stack gang.stack).now })) ∧
  (∀ c, aget s.contexts (s.ctxOf gang) = some c → s.waveAlive g w gang wave = true → wave.watched = true →
    c.watchdog ≠ 0 → wave.progress + 1000 * c.watchdog < (s.stack gang.stack).now →
    exec (.watchdogExpiry g w) s = .next (s.raiseHalt (waveHalt s g w gang wave reasonWatchdog wave.lastPc 0))) ∧
  (∀ c, aget s.contexts (s.ctxOf gang) = some c → (c.watchdog = 0 ∨
    (s.stack gang.stack).now ≤ wave.progress + 1000 * c.watchdog) → exec (.watchdogExpiry g w) s = .next s) ∧
  (gang.state = .resident → wave.retired = false → (s.stack gang.stack).haltArrived = false → wave.core.live = 0 →
    wave.pending = [] → wave.loads = [] → wave.stores = [] → wave.held = none → wave.left = [] →
    s.matomPending g w = false →
    ∃ q5, (s.streams g w = true → q5 = wave.push.getD 5 []) ∧ (s.streams g w = false → q5 = []) ∧
      exec (.waveRetire g w) s = .next (((s.setWave g w { wave with
          retired := true, push := (List.replicate 8 []).set 5 q5, pop := List.replicate 8 [] }).modLaunch gang.launch
        (fun l =>
          let done := Seen.join (s.lanesView g w wave.core 0xFFFFFFFF) wave.matoms
          { l with finish := Seen.join l.finish done })).retireFromBarriers g w)) ∧
  (gang.state = .resident → (s.stack gang.stack).haltArrived = false → (∀ v ∈ gang.waves, v.retired = true) →
    s.gangOps g = [] → s.pastDeadline gang = false →
    exec (.gangRetire g) s = .next ((s.modLaunch gang.launch (fun l => { l with
      normal := if gang.diverted then l.normal else l.normal + 1
      wrapped := if gang.diverted then l.wrapped + 1 else l.wrapped
      validity := minValidity l.validity gang.validity
      anyRetired := true })).gangGone g)) ∧
  (gang.state = .dying → s.quiet g = true → (s.stack gang.stack).haltArrived = false →
    exec (.gangRetire g) s = .next ((s.modLaunch gang.launch (fun l => { l with killed := l.killed + 1 })).gangGone g)) ∧
  (∀ k e, s.waveMayIssue g w gang wave = true → selectEntry wave.core.boundary.frontier = some k →
    wave.core.boundary.frontier[k]? = some e →
    (∀ page, s.fetch gang wave e.pc = .hold page → exec (.fetchFault g w) s = .next
      ((s.setWave g w { wave with
        core := { wave.core.boundary with
          frontier := wave.core.boundary.frontier.set k { e with state := .blocked (.fetch e.pc) } } }).pageRequest
        (s.ctxOf gang) gang.stack page .fetch)) ∧
    (∀ reason, s.fetch gang wave e.pc = .fault reason → wave.spec = none → exec (.fetchFault g w) s =
      .next ((s.setWave g w { wave with core := wave.core.boundary }).raiseHalt
        (waveHalt s g w gang wave reason e.pc e.pc))) ∧
    (∀ lines, s.fetch gang wave e.pc = .wait lines → exec (.fetchFault g w) s = .next (s.backInvalidate lines)) ∧
    (∀ v, s.fetch gang wave e.pc = .word v → exec (.fetchFault g w) s = .next s))

/-- The reply of a pending load writes its registers, each in its lane, with its mark, and no other; an
acknowledgement takes one outstanding store away; neither comes over a link that is down, nor for a request that a new
route has returned. A pass of MWAIT reads the waiting lanes' locations, or holds, or raises the halt line; a lane
whose location is poisoned takes status 4, one whose compare holds status 0. The entry leaves when every lane has its
status, or with status 2 at flag fall or 1 at its expiry in the lanes that have none; leaving writes the status,
marked for status 4, in each active lane's register, and the entry is ready at PC + 4. -/
def Obligations.MemoryEvents : Prop :=
  ∀ (s : State) (g w : Nat) (gang : Gang) (wave : Wave), aget s.gangs g = some gang → gang.waves[w]? = some wave →
  (∀ k p, wave.loads[k]? = some p → (s.portUp p.port = false ∨ p.returned = true) →
    exec (.loadReply g w k) s = .next s) ∧
  (∀ k p, wave.loads[k]? = some p → s.portUp p.port = true → p.returned = false →
    p.writes.Pairwise (fun x y => x.lane ≠ y.lane ∨ x.reg ≠ y.reg) →
    ∃ lanes spec, exec (.loadReply g w k) s = .next ((s.setWave g w { wave with
        core := { wave.core with lanes := lanes }, loads := wave.loads.eraseIdx k, spec := spec }).install p.lines) ∧
      (wave.spec = none → spec = none) ∧ (p.spec = true → spec = wave.spec) ∧
      LaneWise wave.core.lanes lanes (fun n l l' => l' = { l with regs := l'.regs, marks := l'.marks } ∧
        (∀ x ∈ p.writes, x.lane = n → Sparse.get 0 l'.regs x.reg = x.val ∧ Sparse.get false l'.marks x.reg = x.mark) ∧
        (∀ r, (∀ x ∈ p.writes, x.lane = n → x.reg ≠ r) → Sparse.get 0 l'.regs r = Sparse.get 0 l.regs r ∧
          Sparse.get false l'.marks r = Sparse.get false l.marks r))) ∧
  ((∀ p ∈ wave.stores, s.portUp p.port = true ∧ p.returned = false) → wave.stores ≠ [] → ∃ k, k < wave.stores.length ∧
    exec (.storeAck g w) s = .next (s.setWave g w { wave with stores := wave.stores.eraseIdx k })) ∧
  ((∀ p ∈ wave.stores, s.portUp p.port = false ∨ p.returned = true) → exec (.storeAck g w) s = .next s) ∧
  (∀ k e d expiry, wave.core.frontier[k]? = some e → e.state = .blocked (.mwait d expiry) →
    s.waveAlive g w gang wave = true →
    let due := ∃ x, expiry = some x ∧ x ≤ (s.stack gang.stack).now
    let outcome := match s.mwaitPass g w gang wave e with
      | .read t core => t.mwaitEnd g w k gang wave core e d expiry
      | .wait t => t
      | .fault t => t
    exec (.mwaitRecheck g w k) s = .next outcome ∧ (due → exec (.mwaitTimeout g w k) s = .next outcome) ∧
    (¬ due → exec (.mwaitTimeout g w k) s = .next s) ∧
    (∀ (t : State) (core : WaveCore),
      let due' := ∃ x, expiry = some x ∧ x ≤ (t.stack gang.stack).now
      let left := fun (c : WaveCore) => t.modWave g w (fun v => { v with
        core := c.leaveMwait k e d, progress := (t.stack gang.stack).now })
      (core.waitingLanes e = [] → t.mwaitEnd g w k gang wave core e d expiry = left core) ∧
      (core.waitingLanes e ≠ [] → t.flagFell gang wave = true →
        t.mwaitEnd g w k gang wave core e d expiry = left (core.giveStatus e 2)) ∧
      (core.waitingLanes e ≠ [] → t.flagFell gang wave = false → due' →
        t.mwaitEnd g w k gang wave core e d expiry = left (core.giveStatus e 1)) ∧
      (core.waitingLanes e ≠ [] → t.flagFell gang wave = false → ¬ due' →
        t.mwaitEnd g w k gang wave core e d expiry = t.modWave g w (fun v => { v with core := core })) ∧
      (core.leaveMwait k e d).frontier = core.frontier.set k { e.next with state := .ready } ∧
      LaneWise core.lanes (core.leaveMwait k e d).lanes (fun n l l' =>
        (has e.active n = false → l' = l) ∧
        (has e.active n = true → l' = { l.put32 d.toNat (l.mwait.getD 1) (l.mwait == some 4) with mwait := none })) ∧
      (∀ n (m : Monitor) ps xs u, State.readThrough ((t.laneAgent g w n (core.lane n) .sys).look [2, n]) gang.stack
          wave.coreId wave.slot (t.launchOf gang) ps t = some (xs, u) →
        ∃ lanes, State.readMonitors g w gang wave [(n, m, ps)] t core = some (u, { core with lanes := lanes }) ∧
          LaneWise core.lanes lanes (fun j l l' => (j ≠ n → l' = l) ∧
            (j = n → l' = { l with know := l'.know, mwait := l'.mwait } ∧
              ((∃ x ∈ xs, x.mark = true) → l'.mwait = some 4) ∧
              ((∀ x ∈ xs, x.mark = false) → m.holds (leNat (xs.flatMap (fun x => x.bytes))) = true →
                l'.mwait = some 0) ∧
              ((∀ x ∈ xs, x.mark = false) → m.holds (leNat (xs.flatMap (fun x => x.bytes))) = false →
                l'.mwait = none))))))

/-- At flag fall a stack drops the launch's waiting gangs, diverts or kills its resident ones, stops its front end,
marks the launch and sends the event 0x0003, once; a diverted wave has one ready entry with its lanes at the wrap-up
PC, validity none, and in each lane ffpc and ffwhy; the deadline kills the resident gangs, which roll back and abandon
what they hold, and a saved gang ends as killed; the dispatcher's own flag fall counts what was not dispatched as
never started; the completion record is written with the first status that applies. Which gangs are killed, what ffwhy
says and what has started are the model's readings (assumptions 16, 17, 25, 85). -/
def Obligations.DeadlineEvents : Prop :=
  (∀ (s : State) l st (x : Launch), aget s.launches l = some x → x.recorded = false → x.desc.deadline ≠ 0 →
    st ∉ x.ffStacks → (s.stack st).haltArrived = false → s.stackHolds l st = true →
    x.desc.deadline - x.desc.budget ≤ (s.stack st).now → x.desc.capture = false →
    let gs := s.residents l st
    let t := gs.foldl (fun u g => u.divertGang g 1) (s.dropBatched l st)
    exec (.flagFall l st) s = .next (({ t with
        pools := t.pools.map (fun p => if p.2.launch = l ∧ p.2.home = st then (p.1, { p.2 with stopped := true }) else p)
        launches := amod t.launches l (fun y => { y with
          ff := true, ffEarly := if y.ff then y.ffEarly else !y.started, ffStacks := st :: y.ffStacks }) } : State).event
      0x0003 st x.ctx (natLe 8 x.desc.launchid.toNat ++ natLe 8 (x.desc.deadline - x.desc.budget)))) ∧
  (∀ (s : State) l st, s.flagFallDue l st = false → exec (.flagFall l st) s = .next s) ∧
  (∀ (v : Wave) cause spec pc prio, (v.divert cause spec pc prio).core.frontier =
      [{ lanes := v.core.live, pc := pc, prio := prio, state := .ready, guard := ⟨0, 0⟩, aside := false }] ∧
    (v.divert cause spec pc prio).core.validity = .none ∧ (v.divert cause spec pc prio).core.trapmask = 0 ∧
    (v.divert cause spec pc prio).core.handler = false ∧ (v.divert cause spec pc prio).core.latchCount = 0 ∧
    (v.divert cause spec pc prio).push = List.replicate 8 [] ∧ (v.divert cause spec pc prio).diverted = true ∧
    (v.divert cause spec pc prio).held = none ∧ (v.divert cause spec pc prio).core.s = v.core.s ∧
    (v.divert cause spec pc prio).core.j = v.core.j ∧ (v.divert cause spec pc prio).pop = v.pop ∧
    (v.divert cause spec pc prio).loads = v.loads ∧ (v.divert cause spec pc prio).stores = v.stores ∧
    LaneWise v.core.dropMwaits.lanes (v.divert cause spec pc prio).core.lanes (fun n l l' =>
      (l.exited = true → l' = l) ∧
      (l.exited = false → l'.regs = l.regs ∧ l'.preds = l.preds ∧ l'.trap = none ∧ l'.stack = [] ∧ l'.mwait = none ∧
        l'.ffpc.toNat = (v.core.dropMwaits.place n).1.toNat % 2 ^ 56 ∧
        l'.ffwhy = ffwhyOf cause (v.core.place n).2.1 spec (v.core.dropMwaits.place n).2.2 v.core.handler))) ∧
  (∀ (s : State) l st (x : Launch), aget s.launches l = some x → x.desc.deadline ≠ 0 →
    x.desc.deadline ≤ (s.stack st).now → (s.stack st).haltArrived = false → s.residents l st ≠ [] →
    exec (.deadlineKill l st) s = .next ((s.residents l st).foldl (fun t g => t.killGang g) s)) ∧
  (∀ (s : State) g (x : Gang), aget s.gangs g = some x → ∃ y, aget (s.killGang g).gangs g = some y ∧ y.state = .dying ∧
    ∀ v ∈ y.waves, v.held = none ∧ v.left = [] ∧ v.spec = none ∧ v.entering = false) ∧
  (∀ (s : State) l st (x : Launch), aget s.launches l = some x → (x.desc.deadline = 0 ∨
    (s.stack st).now < x.desc.deadline) → exec (.deadlineKill l st) s = .next s) ∧
  (∀ (s : State) g (x : Gang) (l : Launch), aget s.gangs g = some x → s.launchOf x = some l → x.state = .saved →
    l.desc.deadline ≠ 0 → l.desc.deadline ≤ s.activeNow → ∃ t l' y, exec (.savedGangDeadline g) s = .next t ∧
      aget t.launches x.launch = some l' ∧ l'.killed = l.killed + 1 ∧ aget t.gangs g = some y ∧ y.state = .done) ∧
  (∀ (s : State) l (x : Launch), aget s.launches l = some x → x.pool = none → x.recorded = false →
    x.desc.deadline ≠ 0 → x.desc.deadline - x.desc.budget ≤ s.activeNow → s.complexRuns = true →
    x.next < x.desc.nx * x.desc.ny * x.desc.nz →
    ∃ t y, exec (.dispatcherFlagFall l) s = .next t ∧ aget t.launches l = some y ∧ y.ff = true ∧
      y.dispatchFf = true ∧ y.next = x.desc.nx * x.desc.ny * x.desc.nz ∧
      x.unstarted + (x.desc.nx * x.desc.ny * x.desc.nz - x.next) ≤ y.unstarted) ∧
  (∀ (s : State) l (x : Launch), aget s.launches l = some x → s.complexRuns = true → x.heldPage = none →
    x.recorded = false → s.accounted l x = true → exec (.completionRecordWrite l) s = .next (s.writeRecord l x
      (if x.wasReset then 2 else if x.ff ∧ x.ffEarly then 3 else if x.killed ≠ 0 then 2
        else if x.ff then 1 else 0))) ∧
  (∀ (s : State) l (x : Launch) q t, aget s.queues x.owner.queue = some q →
    (s.joinLaunch x).cpWrite q x.desc.record.toNat (natLe 4 x.status ++
      natLe 1 (if x.anyRetired then validityCode x.validity else 2) ++ natLe 3 0 ++ natLe 8 x.desc.launchid.toNat ++
      natLe 8 x.normal ++ natLe 8 x.wrapped ++ natLe 8 x.killed ++ natLe 8 x.unstarted ++
      natLe 8 (if x.ff then x.desc.deadline - x.desc.budget else 0) ++ natLe 8 s.activeNow) = .ok t →
    let u := t.modLaunch l (fun y => { y with recorded := true })
    s.writeRecord l x x.status = (if x.desc.done = 0 then u.ownerDone x.owner else u.writeDone l x q))

/-- When the line of its partition is high, a stack that had not stopped stops: the records of its faults and of its
other engines are written, its front ends write their progress, the accesses of the faulting contexts are decided,
speculation is rolled back; once every record of the partition is written, the fault event is sent. Copies that the
host holds of what is written are recalled first. A clear is ignored before every record is written; it resets each
faulting context, sends the event 0x0108 and lowers the line. The number of events, the time of a clear and what is
decided of an access in flight are the model's readings (assumptions 44 to 48, 124). -/
def Obligations.HaltLine : Prop :=
  ∀ (s : State) st,
  let k := s.stack st
  let p := k.partNum
  (k.enable = true → (s.partition p).halted = true → st < 12 → k.haltArrived = true → s.stopLines [st] = [] →
    let t := (s.writeFaults p st).decideFlight (s.partition p).ending st
    exec (.haltLineArrival st) s =
      .next (if s.recordsWritten p = false ∧ t.recordsWritten p = true then t.faultEvent p else t)) ∧
  (k.enable = true → (s.partition p).halted = true → st < 12 → k.haltArrived = false → s.stopLines [st] = [] →
    s.poolLines st = [] →
    let r := (s.writeFaults p st).writeBystanders p st
    let t := ((r.poolsAt st).foldl (fun (u : State) x => u.poolProgress x.1 x.2.1 x.2.2) r).decideFlight
      (s.partition p).ending st
    let u := ((t.gangsAt st).foldl (fun (u : State) g => u.rollbackGang g) t).modStack st (fun x =>
      { x with haltArrived := true })
    exec (.haltLineArrival st) s = .next (if u.recordsWritten p then u.faultEvent p else u)) ∧
  (k.enable = true → (s.partition p).halted = true → st < 12 → s.stopLines [st] ≠ [] →
    ∃ lines, exec (.haltLineArrival st) s = .next (s.backInvalidate lines)) ∧
  ((k.enable = false ∨ (s.partition p).halted = false) → exec (.haltLineArrival st) s = .next s) ∧
  (k.answers = true → k.enable = true → (s.partition p).halted = true → s.recordsWritten p = true →
    let ending := (s.partition p).ending.filter (fun c => (aget s.contexts c).isSome)
    let lines := ending.flatMap s.resetLines
    (lines ≠ [] → exec (.haltClear st) s = .next (s.backInvalidate lines)) ∧
    (lines = [] → exec (.haltClear st) s = .next (((ending.foldl (fun (u : State) c => u.resetContext c false) s).event
      0x0108 st 0xFFFF (natLe 1 ending.length)).lowerLine p))) ∧
  ((s.recordsWritten p = false ∨ (s.partition p).halted = false) → exec (.haltClear st) s = .next s) ∧
  (s.partitions.length = 12 → p < 12 → ((s.lowerLine p).partition p).halted = false ∧
    ((s.lowerLine p).partition p).faults = []) ∧
  (st ∈ s.members p → ((s.lowerLine p).stack st).haltArrived = false)

/-- A round of a partition's dispatcher serves the first launch in its order whose plan goes, and counts; no plan
fills a stack beyond its free slots or, unless all-resident, 64 gangs; the scheduled classes of fifteen rounds are 3 2
3 1 3 2 3 0 3 2 3 1 3 2 3. A stack starts the first gang of its batch on the group it picks, with fresh waves at the
kernel entry, or drops one whose flag fall has passed; a reservation that finds no room backs off by its seed, and
fails after 64 attempts. A front end takes a slot whose mark says so, and drains its bins. How masks agree and how a
reservation retries are the model's choices (assumptions 65 to 68). -/
def Obligations.DispatchEvents : Prop :=
  ((List.range 15).map scheduledClass = [3, 2, 3, 1, 3, 2, 3, 0, 3, 2, 3, 1, 3, 2, 3]) ∧
  (∀ (s : State) l x st, (s.plan l x).filled st ≤ s.freeSlots st x.desc ∧
    (x.desc.allResident = false → (s.plan l x).filled st ≤ 64)) ∧
  (∀ (s : State) p, (s.complexRuns = false ∨ (s.partition p).roundDue = false ∨ s.roundOrder p = []) →
    exec (.dispatchRound p) s = .next s) ∧
  (∀ (s : State) p, s.complexRuns = true → (s.partition p).roundDue = true → s.roundOrder p ≠ [] →
    let next := s.modPartition p (fun y => { y with round := y.round + 1, roundDue := false })
    ((∀ q ∈ s.roundOrder p, s.planGoes q.1 q.2 (s.plan q.1 q.2) = false) → exec (.dispatchRound p) s = .next next) ∧
    (∀ l x before after, s.roundOrder p = before ++ (l, x) :: after →
      (∀ q ∈ before, s.planGoes q.1 q.2 (s.plan q.1 q.2) = false) → s.planGoes l x (s.plan l x) = true →
      exec (.dispatchRound p) s = .next ((next.dispatchPlan l x (s.plan l x)).modPartition p
        (fun y => { y with roundDue := true })))) ∧
  (∀ (s : State) st g x (l : Launch), (s.stack st).sdState = false → (s.stack st).haltArrived = false →
    s.maskAgrees st = true → s.firstBatched st = some g → aget s.gangs g = some x → s.launchOf x = some l →
    (s.pastFlagFall l st = true → exec (.stackDispatchGang st) s = .next ((s.neverStarts g).unbatch st g)) ∧
    (s.pastFlagFall l st = false → (s.room st).pick l.desc = none → exec (.stackDispatchGang st) s = .next s) ∧
    (∀ k, s.pastFlagFall l st = false → (s.room st).pick l.desc = some k → l.pool = none → l.desc.capture = false →
      x.waves = [] → ∃ t y, exec (.stackDispatchGang st) s = .next t ∧ aget t.gangs g = some y ∧ y.state = .resident ∧
        y.stack = st ∧ y.core0 = k ∧ y.spad = [] ∧ y.spadPoison = [] ∧ y.grant = none ∧
        y.waves.length = l.desc.waves ∧ t.mem = s.mem ∧ ∀ w v, y.waves[w]? = some v →
          v.core = (WaveCore.start 0xFFFFFFFF (l.desc.code + BitVec.ofNat 64 l.desc.entry) l.desc.entryPrio
            l.desc.args).from l.start ∧
          v.coreId = k + w % l.desc.cores ∧ v.pending = [] ∧ v.retired = false ∧ v.diverted = false)) ∧
  (∀ (s : State) st, ((s.stack st).sdState = true ∨ (s.stack st).haltArrived = true ∨ s.firstBatched st = none) →
    exec (.stackDispatchGang st) s = .next s) ∧
  (∀ (s : State) r x (l : Launch), aget s.gangs r = some x → s.launchOf x = some l → x.state = .batched →
    r ∈ (s.stack x.stack).batch → (s.stack x.stack).sdState = true → (s.stack x.stack).haltArrived = false →
    s.maskAgrees x.stack = true → (s.reservation r x.stack x l).waiting = false → s.dispatches l.ctx = true →
    s.pastFlagFall l x.stack = false →
    let v := s.reservation r x.stack x l
    ((s.room x.stack).fits l.desc v.core0 = true → exec (.reservationAttempt r) s =
      .next (({ s with reservations := adel s.reservations r } : State).placeGang x.stack r v.core0 x l)) ∧
    ((s.room x.stack).fits l.desc v.core0 = false → exec (.reservationAttempt r) s =
      .next { s with reservations := aput s.reservations r { v with
        x := xorshift v.x, attempt := v.attempt + 1, waiting := true
        due := (s.stack x.stack).now + (1 + (xorshift v.x).toNat % 2 ^ min (v.attempt + 1) 8) * 32 } })) ∧
  (∀ (s : State) r x v, aget s.gangs r = some x → aget s.reservations r = some v → v.waiting = true →
    v.due ≤ (s.stack v.stack).now →
    (v.attempt < 64 → exec (.reservationBackoffExpiry r) s =
      .next { s with reservations := aput s.reservations r { v with waiting := false } }) ∧
    (64 ≤ v.attempt → exec (.reservationBackoffExpiry r) s = .next
      (({ s with reservations := adel s.reservations r } : State).event 0x0004 v.stack (s.ctxOf x)
        (natLe 8 (s.launchid x).toNat ++
          natLe 8 (((s.launchOf x).map (fun l => gangIndex l x)).getD 0))))) ∧
  (∀ (s : State) k p x, aget s.pools k = some p → aget s.launches p.launch = some x → s.poolRuns p x = true →
    (∀ t, s.poolRead k p x p.block.toNat 28 = .wait t → exec (.poolRecordTake k) s = .next t) ∧
    (∀ bs t, s.poolRead k p x p.block.toNat 28 = .go bs t →
      let b := bs.map Prod.fst
      let slot := p.taken % max 1 (pkt b 24 4)
      let generation := p.taken / max 1 (pkt b 24 4) + 1
      let here := t.readRecord k ((aget t.pools k).getD p) x (pkt b 16 8 + 64 * slot)
      (∀ u, here = .wait u → exec (.poolRecordTake k) s = .next u) ∧
      (∀ rs u, here = .go rs u → exec (.poolRecordTake k) s = .next
        (if pkt (rs.map Prod.fst) 40 8 = generation then u.takeRecord k ((aget u.pools k).getD p) x (pkt b 0 8) rs
         else s))) ∧
    (∀ t, s.poolRead k p x p.block.toNat 8 = .wait t → exec (.poolDrainFlush k) s = .next t) ∧
    (∀ bs t, s.poolRead k p x p.block.toNat 8 = .go bs t →
      let claim := pkt (bs.map Prod.fst) 0 8
      ((p.taken < claim ∨ claim ≠ p.lastClaim ∨ s.producersIdle p = false) → exec (.poolDrainFlush k) s = .next s) ∧
      (claim ≤ p.taken → claim = p.lastClaim → s.producersIdle p = true → p.bins = [] →
        exec (.poolDrainFlush k) s = .next (t.modPool k (fun q => { q with stopped := true }))) ∧
      (claim ≤ p.taken → claim = p.lastClaim → s.producersIdle p = true → p.bins ≠ [] →
        exec (.poolDrainFlush k) s = .next ((List.range p.bins.length).foldl (fun u _ => u.flushBin k 0) t)))) ∧
  (∀ (s : State) k p x claim bs b u, recordOk x (bs.map Prod.fst) = true →
    s.poolWrite k p x 8 (p.taken + 1) = .go b u → s.takeRecord k p x claim bs =
      (u.modPool k (fun q => { q with taken := q.taken + 1, lastClaim := claim })).binRecord k (recordOf bs)) ∧
  (∀ (s : State) k p x claim bs b c t u, recordOk x (bs.map Prod.fst) = false →
    s.poolWrite k p x 40 (p.dropped + 1) = .go b t → t.poolWrite k p x 8 (p.taken + 1) = .go c u →
    s.takeRecord k p x claim bs =
      u.modPool k (fun q => { q with taken := q.taken + 1, lastClaim := claim, dropped := q.dropped + 1 })) ∧
  (∀ (s : State) k p x records, aget s.pools k = some p → aget s.launches p.launch = some x →
    s.partitionOf x.ctx < s.partitions.length →
    ∃ y v, (s.formWave k records).gangs = s.gangs ++ [(s.nextId, y)] ∧ y.launch = p.launch ∧ y.state = .batched ∧
      y.waves = [v] ∧ v.core = formedCore records x.desc.args ∧
      ((s.formWave k records).partition (s.partitionOf x.ctx)).roundDue = true)

/-- An engine starts a queued command in arrival order while it has room, after the MATOMs that its wave issued before
it; a started command reads its index list and then its sources, in parts and in an order that the device chooses, or
faults or waits with nothing moved; what was read is written, which may begin before all is read; once all is read and
written the command is visible, its token has its bits, its counter rises, its report follows, and it is gone; COLL
delivers its chunks one by one to their stacks, whose counters rise by 1. The order of commands and of their accesses
is the model's choice (assumptions 8, 23, 24, 26). -/
def Obligations.EngineEvents : Prop :=
  ∀ (s : State) k x, aget s.commands k = some x → (s.stack x.stack).haltArrived = false →
  let reach := fun (write : Bool) ps => s.reach x.ctx x.stack (s.ownerSpad x.owner) .engine write ps
  let moves := x.moves (x.idx.getD [])
  (let mine := (s.commands.map Prod.snd).filter x.sameEngine
   x.state = .queued →
    (mine.filter (fun y => y.state == .started || y.state == .read || y.state == .wrote)).length < x.kind.depth →
    (∀ y ∈ mine, y.state = .queued → x.order ≤ y.order) →
    (∀ q i, x.owner = .queue q i → exec (.engineCommandStart k) s = .next { s with commands := amod s.commands k (fun y =>
      { y with state := .started }) }) ∧
    (∀ g w t v, x.owner = .wave g w → s.flushBefore g w k s.matoms.length x.view = some (t, v) →
      exec (.engineCommandStart k) s = .next { t with commands := amod t.commands k (fun y =>
        { y with state := .started, view := v }) }) ∧
    (∀ g w, x.owner = .wave g w → s.flushBefore g w k s.matoms.length x.view = none →
      exec (.engineCommandStart k) s = .next (s.backInvalidate (s.matomLines g w)))) ∧
  (x.state ≠ .queued → exec (.engineCommandStart k) s = .next s) ∧
  (x.state = .started → x.heldPage = none →
    ((x.kind = .cpy ∨ (x.kind = .coll ∧ inAperture (param x.params 2).toNat = false ∧
        inAperture (param x.params 5).toNat = false) ∨ (x.kind.indexed = true ∧ x.idx ≠ none)) →
      exec (.engineSourceRead k) s = .next (s.readMoves k x (x.idx.getD []))) ∧
    (x.kind.indexed = true → x.idx = none →
      exec (.engineSourceRead k) s = .next (s.commandRead k x (sectorPieces (param x.params 1).toNat (4 * x.length))
        (fun t gs => t.modCommand k (fun y => { y with
          idx := some (indexWords (gotBytes gs) x.length)
          poison := (indexWords (gotBytes gs) x.length).any (fun i => i.2) })))) ∧
    (x.kind = .coll → inAperture (param x.params 2).toNat = true → exec (.engineSourceRead k) s =
      .next (({ s with commands := adel s.commands k } : State).raiseHalt
        (engineHalt s x reasonProtection (param x.params 2).toNat)))) ∧
  ((x.state ≠ .started ∨ x.heldPage ≠ none) → exec (.engineSourceRead k) s = .next s) ∧
  (∀ rs next reason va page lines qs,
    (reach false rs = .fault reason va → s.commandRead k x rs next =
      ({ s with commands := adel s.commands k } : State).raiseHalt (engineHalt s x reason va)) ∧
    (reach false rs = .hold page → s.commandRead k x rs next =
      ({ s with commands := amod s.commands k (fun c => { c with heldPage := some page }) } : State).pageRequest
        x.ctx x.stack page .engine) ∧
    (reach false rs = .wait lines → s.commandRead k x rs next = s.backInvalidate lines) ∧
    (∀ g w wave gs t, reach false rs = .ok qs → s.frozenPieces x.stack qs = false → s.recallLines false qs = [] →
      x.owner = .wave g w → s.wave g w = some wave →
      State.readThrough (x.look (s.commandAgent k x) [28, k]) x.stack wave.coreId wave.slot
        ((aget s.gangs g).bind s.launchOf) qs (s.fillFrom x.ctx x.stack none qs) = some (gs, t) →
      s.commandRead k x rs next = next (t.modCommand k (fun y => { y with late := false })) gs)) ∧
  (∀ idx, let mine := s.someOf [29, k] (x.unread (x.moves idx))
    (∀ n ∈ mine, n ∈ x.unread (x.moves idx)) ∧ (x.unread (x.moves idx) ≠ [] → mine ≠ []) ∧
    let pieces := mine.map (fun i => (i, match (x.moves idx)[i]? with
      | some m => (match m.src with | some va => elementPieces va m.size | none => [])
      | none => []))
    s.readMoves k x idx = s.commandRead k x (pieces.flatMap Prod.snd) (fun t gs =>
      t.gotMoves k x (x.moves idx) (splitGot (pieces.map (fun p => (p.1, p.2.length))) gs))) ∧
  (x.heldPage = none →
    (x.kind ≠ .coll → (x.state = .started ∨ x.state = .read) →
      exec (.engineComplete k) s = .next (s.writeMoves k x)) ∧
    (x.kind = .coll → x.state = .read → x.chunks = [] → x.landed = [] →
      exec (.engineComplete k) s = .next (s.visibleCommand k x)) ∧
    (x.kind = .coll → (x.state = .started ∨ (x.state = .read ∧ (x.chunks ≠ [] ∨ x.landed ≠ []))) →
      exec (.engineComplete k) s = .next s) ∧
    (x.state = .wrote → exec (.engineComplete k) s = .next (s.finishCommand k x))) ∧
  (let mine := s.someOf [31, k] (x.unwritten.map Prod.fst)
   let now := x.unwritten.filter (fun p => mine.contains p.1)
   (x.unwritten ≠ [] → now ≠ []) ∧
   s.writeMoves k x = s.commandWrite k x (now.map Prod.snd) (fun t =>
    let y := { x with put := x.put ++ now.map Prod.fst }
    let t := { t with commands := amod t.commands k (fun _ => y) }
    if x.state = .read ∧ y.unwritten = [] then t.visibleCommand k y else t)) ∧
  (∀ els next qs, reach true ((elementRuns els).map Prod.fst) = .ok qs → s.frozenPieces x.stack qs = false →
    s.recallLines true qs = [] → s.commandWrite k x els next =
      next ((s.fillFrom x.ctx x.stack none qs).storeElements (s.commandAgent k x) x.stack [30, k]
        ((qs.map Prod.fst).zip ((elementRuns els).map Prod.snd)))) ∧
  (∀ a st bs mark pa leaf va j, s.portDown st pa = false →
    Sparse.get 0 (s.storeElement a st bs mark (.mem pa leaf va)).mem j =
      if pa ≤ j ∧ j < pa + bs.length then bs.getD (j - pa) 0 else Sparse.get 0 s.mem j) ∧
  (∀ i, x.kind = .cpy → x.entries = [] → i < x.length → moves[i]? =
    some ⟨some ((param x.params 1).toNat + i), 0, 0, false, some (((param x.params 2).toNat + i) % 2 ^ 64), 1⟩) ∧
  (∀ g w wave, x.owner = .wave g w → s.wave g w = some wave → x.kind ≠ .bin → x.counter = 0 →
    (s.visibleCommand k x).commands = adel s.commands k ∧
    ∃ v, (s.visibleCommand k x).wave g w = some v ∧ ∀ n, x.token = some n → n ∉ v.pending) ∧
  (∀ g w, x.owner = .wave g w → (x.counter = 0 ∨ x.amount = 0) → (s.finishCommand k x).commands = adel s.commands k ∧
    (s.finishCommand k x).mem = s.mem) ∧
  (x.state = .read → x.heldPage = none → x.kind = .coll → x.landed = [] → x.chunks ≠ [] →
    ∃ n st j, x.chunks[n]? = some (st, j) ∧
      exec (.collChunkDelivered k) s = .next (s.commandWrite k x (x.chunkBytes st j) (fun t =>
        let y := { x with chunks := x.chunks.eraseIdx n, landed := [(st, j)] }
        ({ t with commands := amod t.commands k (fun _ => y) } : State).landedChunk k y 0))) ∧
  (x.state = .read → x.heldPage = none → x.kind = .coll → x.landed ≠ [] → ∃ n, n < x.landed.length ∧
    exec (.collChunkDelivered k) s = .next (s.landedChunk k x n)) ∧
  (∀ n st j qs, x.landed[n]? = some (st, j) → s.reach x.ctx x.stack (s.ownerSpad x.owner) .atomic true
      (sectorPieces (((param x.params 5).toNat + 8 * st) % 2 ^ 64) 8) = .ok qs → x.chunkCounter st ≠ 0 →
    s.frozenPieces x.stack qs = false → s.recallLines true qs = [] → ∃ a : Agent, s.landedChunk k x n =
      (((s.fillFrom x.ctx x.stack none qs).riseAt a x.stack 1 qs).modCommand k
        (fun z => { z with landed := z.landed.eraseIdx n }))) ∧
  (∀ st j i, let lo := j * collChunk x
    let base := if hdrMode x.header = 1 then ((collStacks x).filter (fun y => decide (y < st))).length * collPart x else 0
    i < min (collPart x) (lo + collChunk x) - lo → ∃ b mark, (x.chunkBytes st j)[i]? =
      some (((param x.params 2).toNat + st * (param x.params 3).toNat + lo + i) % 2 ^ 64, [b], mark) ∧
      ∀ r, aget x.got (base + lo + i) = some [r] → b = r.1 ∧ mark = r.2)

/-- The first operation of a unit starts, after the MATOMs that its wave issued before it: an MXGO loads C and keeps a
shadow copy, an MXST keeps what it will store, an MXLS reads its codebook; an absent page gives an MXGO's accumulators
back and holds it. A started operation pops its handles, reads its sources, has its effect and becomes visible; MXZ
clears the accumulators and MXSW swaps the planes; then its counter rises and it leaves its unit. A self-test that
fails remaps a row, or fences the sub-array and moves or loses the unit. The order of operations, handles and a unit's
accesses is the model's reading (assumptions 23, 27, 28, 99, 101). -/
def Obligations.MatrixEvents : Prop :=
  (∀ (s : State) m x ctx st u, aget s.mxops m = some x → s.opPlace x = some (ctx, st) → s.unitOf x = some u →
    (∀ t v, x.started = false → x.heldPage = none → s.opFirst m x = true →
      s.flushBefore x.gang x.wave m s.matoms.length x.view = some (t, v) →
      exec (.matrixOpStart m) s =
        .next ((t.modOp m (fun y => { y with view := v })).startOp m { x with view := v } u ctx st)) ∧
    (x.started = false → x.heldPage = none → s.opFirst m x = true →
      s.flushBefore x.gang x.wave m s.matoms.length x.view = none →
      exec (.matrixOpStart m) s = .next (s.backInvalidate (s.matomLines x.gang x.wave))) ∧
    ((x.started = true ∨ x.heldPage ≠ none ∨ s.opFirst m x = false) → exec (.matrixOpStart m) s = .next s) ∧
    ((x.fn = .mxz ∨ x.fn = .mxsw) → s.startOp m x u ctx st = s.modOp m (fun y => { y with started := true })) ∧
    (x.fn = .mxst → s.startOp m x u ctx st = s.modOp m (fun y => { y with started := true, shadow := u.acc })) ∧
    (x.fn = .mxls → s.startOp m x u ctx st = s.opRead m x ctx st x.bookRanges (fun t f =>
      t.modOp m (fun y => { y with started := true, book := x.bookOf f }))) ∧
    (x.fn = .mxgo → s.startOp m x u ctx st = s.opRead m x ctx st (x.cRanges u.cur.n) (fun t f =>
      (t.setAcc x.gang x.unit u (x.loadC u f).1).modOp m (fun y => { y with
        started := true, shadow := (x.loadC u f).1, status := if (x.loadC u f).2 then 2 else 0 }))) ∧
    (let needs := match x.fn with
       | .mxls => x.bRanges
       | .mxgo => x.aRanges (s.rowGroups (s.mxAgent m x st) ctx x) u.cur.k
       | _ => []
     ∀ page, x.started = true → x.heldPage = none → x.read = none → x.vis = false →
      s.reach ctx st (s.ownerSpad (.wave x.gang 0)) .matrix false (needs.flatMap (fun r => sectorPieces r.1 r.2)) =
        .hold page →
      exec (.matrixFetchPageMiss m) s = .next (((s.modUnit x.gang x.unit (fun v =>
        if x.fn == .mxgo then { v with acc := x.shadow } else v)).modOp m (fun y =>
          { y with heldPage := some page })).pageRequest ctx st page .matrix)) ∧
    (∀ test, (x.started = false ∨ x.heldPage ≠ none) → exec (.matrixOpComplete m test) s = .next s) ∧
    (∀ test, x.started = true → x.heldPage = none →
      (x.vis = true → exec (.matrixOpComplete m test) s = .next (s.finishOp m ctx st)) ∧
      (x.vis = false → x.lost ≠ none → exec (.matrixOpComplete m test) s = .next (s.loseOp m ctx st)) ∧
      (x.vis = false → x.lost = none → x.read ≠ none →
        exec (.matrixOpComplete m test) s = .next (s.applyOp m test ctx st)) ∧
      (x.vis = false → x.lost = none → x.read = none → s.handlesDue x = 0 →
        (x.fn = .mxz → exec (.matrixOpComplete m test) s =
          .next ((s.setAcc x.gang x.unit u []).opDone m x 0 ctx st)) ∧
        (x.fn = .mxsw → exec (.matrixOpComplete m test) s = .next ((s.modUnit x.gang x.unit (fun v =>
          { v with cur := v.next, next := v.cur })).opDone m x 0 ctx st)) ∧
        ((x.fn = .mxls ∨ x.fn = .mxgo ∨ x.fn = .mxst) →
          exec (.matrixOpComplete m test) s = .next (s.runOp m x u test ctx st))) ∧
      (x.vis = false → x.lost = none → x.read = none → s.handlesDue x ≠ 0 → s.handlesPushed x ≠ [] →
        ∃ n, 1 ≤ n ∧ n ≤ s.handlesDue x ∧ n ≤ (s.handlesPushed x).length ∧
          exec (.matrixOpComplete m test) s = .next (s.popHandles m x n)) ∧
      (x.vis = false → x.lost = none → x.read = none → s.handlesDue x ≠ 0 → s.handlesPushed x = [] →
        exec (.matrixOpComplete m test) s = .next s)) ∧
    (∀ r test, x.read = some r →
      (x.fn = .mxls → s.applyOp m test ctx st = (s.modUnit x.gang x.unit (fun v => { v with
          cur := if s.usesCurrent m x then r.plane else v.cur
          next := if s.usesCurrent m x then v.next else r.plane })).opDone m x (if r.poison then 2 else 0) ctx st) ∧
      (x.fn = .mxst → s.applyOp m test ctx st = (s.orFlags m x st r.exc).opDone m x 0 ctx st) ∧
      (x.fn = .mxgo → ∃ n sub, n ≤ u.subs.length ∧ (u.subs ≠ [] → sub ∈ u.subs) ∧
        let ran := s.modStack st (fun t => t.count 0x0D8 n)
        (test = .pass → s.applyOp m test ctx st = ((ran.setAcc x.gang x.unit u r.acc).orFlags m x st r.exc).opDone m x
          (if r.poison || x.status == 2 then 2 else 0) ctx st) ∧
        (test ≠ .pass → s.applyOp m test ctx st = ran.failedTest st sub x.gang x.unit u test))) ∧
    (∀ status, s.opDone m x status ctx st = (s.opVisible m x status).finishOp m ctx st ∧
      ∃ v, aget (s.opVisible m x status).mxops m = some { x with vis := true, status := status, view := v }) ∧
    ((x.fn.counts = false ∨ blockCounter x.block = 0 ∨ x.units u = 0) →
      (s.finishOp m ctx st).mxops = adel s.mxops m ∧ (s.finishOp m ctx st).mem = s.mem) ∧
    (∀ ps, x.fn.counts = true → blockCounter x.block ≠ 0 → x.units u ≠ 0 →
      s.reach ctx st (s.ownerSpad (.wave x.gang 0)) .atomic true (sectorPieces (blockCounter x.block) 8) = .ok ps →
      s.frozenPieces st ps = false → s.recallLines true ps = [] → s.finishOp m ctx st =
        ((s.fillFrom ctx st none ps).riseAt (s.mxAgent m x st) st (x.units u) ps).opReported m x u)) ∧
  (∀ (s : State) g k u acc,
    ((∀ p ∈ s.mxops, ¬ (p.2.fn = .mxst ∧ p.2.started = true ∧ p.2.gang = g ∧ p.2.unit = k)) →
      s.setAcc g k u acc = s.modUnit g k (fun v => { v with acc := acc })) ∧
    (∀ p ∈ (s.setAcc g k u acc).mxops, ∃ y, (p.1, y) ∈ s.mxops ∧ p.2 = { y with shadow := p.2.shadow } ∧
      ∀ e, Sparse.get 0 p.2.shadow e = Sparse.get 0 y.shadow e ∨ Sparse.get 0 p.2.shadow e = Sparse.get 0 acc e)) ∧
  (∀ (s : State) g x r k u f, aget s.gangs g = some x → x.grant = some r → r.units[k]? = some u →
    ∃ y q, aget (s.modUnit g k f).gangs g = some y ∧ y.grant = some q ∧ q.units[k]? = some (f u) ∧
      ∀ j, j ≠ k → q.units[j]? = r.units[j]?) ∧
  (∀ (s : State) st sub, st < 12 → sub < 4 → has (s.stack st).fenced sub = false → (s.stack st).haltArrived = false →
    let ran := s.modStack st (fun t => t.count 0x0D8 1)
    (s.unitAt st sub = none →
      exec (.selfTestPeriodic st sub .pass) s = .next ran ∧
      exec (.selfTestPeriodic st sub .array) s = .next (ran.fence st sub) ∧
      (∀ row, (ran.stack st).spareLeft sub = none → exec (.selfTestPeriodic st sub (.row row)) s = .next (ran.fence st sub)) ∧
      (∀ row k, (ran.stack st).spareLeft sub = some k → exec (.selfTestPeriodic st sub (.row row)) s =
        .next (ran.remapRow st sub row k))) ∧
    (∀ g k u test, s.unitAt st sub = some (g, k, u) →
      exec (.selfTestPeriodic st sub test) s = .next (ran.failedTest st sub g k u test))) ∧
  (∀ (s : State) st sub test, (12 ≤ st ∨ 4 ≤ sub ∨ has (s.stack st).fenced sub = true ∨
    (s.stack st).haltArrived = true) → exec (.selfTestPeriodic st sub test) s = .next s) ∧
  (∀ (s : State) st sub g k u x r, s.stackTab.length = 12 → st < 12 → sub < 4 → aget s.gangs g = some x →
    x.grant = some r → r.units[k]? = some u →
    s.failedTest st sub g k u .pass = s ∧
    (∀ row n, (s.stack st).spareLeft sub = some n → s.failedTest st sub g k u (.row row) = s.remapRow st sub row n) ∧
    ∀ test, (test = .array ∨ ((s.stack st).spareLeft sub = none ∧ test ≠ .pass)) →
      let t := s.failedTest st sub g k u test
      has (t.stack st).fenced sub = true ∧ ∃ y q v, aget t.gangs g = some y ∧ y.grant = some q ∧ q.units[k]? = some v ∧
        (v.lost = true ∨ (v = { u with subs := v.subs } ∧ v.subs ∈ modeGroups r.mode ∧ sub ∉ v.subs)))

/-- A kick of 8 bytes through a port of the queue's partition raises KICKED, and any other is dropped and counted. The
queue processor reads the mark of the slot of CONSUMED and then its body: a mark that is not yet right is read again,
a body check that fails is tried eight times more, a packet in order is consumed, refused memory and a KICKED value
too far ahead stop the queue. COMPLETED is the lowest index that has not completed; the status block holds the five
fields in order; a stopped queue does nothing. -/
def Obligations.QueueEvents : Prop :=
  (∀ (s : State) port k v x, aget s.queues k = some x → (s.stack port).enable = true →
    (s.stack port).partNum = s.queuePartition x → exec (.kick port k 8 v) s =
      .next { s with queues := amod s.queues k (fun y => { y with kicked := max y.kicked (v % 2 ^ 64) }) }) ∧
  (∀ (s : State) port k n v, (aget s.queues k = none ∨ n ≠ 8 ∨ (s.stack port).enable = false ∨
      ∀ x, aget s.queues k = some x → (s.stack port).partNum ≠ s.queuePartition x) → exec (.kick port k n v) s =
    .next (s.modStack port (fun x => { x with droppedKicks := x.droppedKicks + 1 }))) ∧
  (∀ (s : State) k q, Worked s k q →
    (∀ e ∈ ([(.packetFetch k, s.castling = none ∧ q.phase = .idle ∧ q.consumed < q.kicked),
        (.markReread k, s.castling = none ∧ q.phase = .marking),
        (.bodyCheckRetry k, ∃ n, q.phase = .checking n)] : List (Instr × Prop)),
      e.2 →
      let fresh := { s.cpAgent with know := Know.start [] }
      let mark := s.cpReadAs fresh q (q.slot q.consumed) 4
      let body := fun (known : Know) => s.cpReadAs { fresh with know := known } q (q.slot q.consumed) 64
      let right := fun (bs : List Byte) => leNat bs = (q.consumed + 1) % 2 ^ 32
      (q.consumed + 2 ^ q.size < q.kicked → exec e.1 s = .next (s.stopQueue k 2 0 q.consumed)) ∧
      (q.kicked ≤ q.consumed + 2 ^ q.size →
        (∀ page, mark = .hold page → exec e.1 s = .next (s.cpHold k q page)) ∧
        (∀ lines, mark = .recall lines → exec e.1 s = .next (s.backInvalidate lines)) ∧
        (mark = .refused → exec e.1 s = .next (s.stopQueue k 8 0 q.consumed)) ∧
        (∀ bs known, mark = .ok bs known → ¬ right bs →
          exec e.1 s = .next (s.modQueue k (fun x => { x with phase := .marking }))) ∧
        (∀ bs known, mark = .ok bs known → right bs →
          (∀ page, body known = .hold page → exec e.1 s = .next (s.cpHold k q page)) ∧
          (∀ lines, body known = .recall lines → exec e.1 s = .next (s.backInvalidate lines)) ∧
          (body known = .refused → exec e.1 s = .next (s.stopQueue k 8 0 q.consumed)) ∧
          (∀ cs learnt, body known = .ok cs learnt →
            let packet := bs ++ cs.drop 4
            (q.checked packet = true → exec e.1 s = .next
              ((({ s with cpKnow := { s.cpKnow with view := Seen.join s.cpKnow.view known.view } } : State).modQueue k
                (fun x => { x with view := known.view })).takePacket k { q with view := known.view } packet)) ∧
            (∀ n, q.checked packet = false → q.phase = .checking n → exec e.1 s = .next
              (if 7 ≤ n then s.stopQueue k 3 0 q.consumed
               else s.modQueue k (fun x => { x with phase := .checking (n + 1) }))) ∧
            (q.checked packet = false → (∀ n, q.phase ≠ .checking n) →
              exec e.1 s = .next (s.modQueue k (fun x => { x with phase := .checking 0 }))))))) ∧
    ((s.castling.isSome = true ∨ q.phase ≠ .idle ∨ q.kicked ≤ q.consumed) →
      exec (.packetFetch k) s = .next s) ∧
    (∀ bs, (∀ p ∈ s.launches, p.2.desc.capture = false) →
      let t := (s.modQueue k (fun x => { x with consumed := q.consumed + 1, packet := bs, phase := .fetched })).writeStatus k
      (t.packetError q bs = 0 → s.takePacket k q bs = t) ∧
      (t.packetError q bs ≠ 0 → s.takePacket k q bs =
        (t.modQueue k (fun x => { x with phase := .idle })).stopQueue k (t.packetError q bs) 0 q.consumed))) ∧
  (∀ (s : State) k q, aget s.queues k = some q → q.stopped = true → q.statusDue = false →
    aget s.launches s.nextId = none → ∀ e ∈ ([.packetFetch k,
    .markReread k, .bodyCheckRetry k, .launchPacket k, .waitPacket k, .signalPacket k] : List Instr), exec e s = .next s) ∧
  (∀ (q : Queue) i, (q.complete i).openPackets = q.openPackets.filter (fun p => p.index != i) ∧
    q.completed ≤ (q.complete i).completed ∧ (q.complete i).completed ∉ i :: q.doneAhead ∧
    ∀ j, q.completed ≤ j → j < (q.complete i).completed → j ∈ i :: q.doneAhead) ∧
  (∀ q : Queue, q.statusBytes.length = 32 ∧ leNat (q.statusBytes.take 8) = q.consumed % 2 ^ 64 ∧
    leNat ((q.statusBytes.drop 8).take 8) = q.completed % 2 ^ 64 ∧
    leNat ((q.statusBytes.drop 16).take 4) = q.error % 2 ^ 32 ∧
    leNat ((q.statusBytes.drop 20).take 4) = q.detail % 2 ^ 32 ∧
    leNat ((q.statusBytes.drop 24).take 8) = q.index % 2 ^ 64)

/-- A fetched packet starts when its flag lets it, by its kind: its one access or the reading of its descriptor is
made, and it completes, stays open, waits or stops its queue with an error. A wait completes when its compare holds; a
signal stores or adds its value; a launch in order is accepted with the next sequence number; a dependence is met when
its counter has reached the value; a graph starts its nodes in order and leaves with exit 3 after the last; the
interrupt of a ring is sent when its time has run out. How a graph's node stops, and a graph without limit, are the
model's choices (assumptions 55, 58, 119). -/
def Obligations.PacketEvents : Prop :=
  (∀ (s : State) k q, Worked s k q →
    let i := q.consumed - 1
    let bs := q.packet
    let may := q.mayStart = true ∧ s.castling = none
    (∀ e ∈ ([(.launchPacket k, 1), (.continuationPacket k, 2)] : List (Instr × Nat)),
      (may → pktKind bs = e.2 → exec e.1 s =
        .next (((s.launchNow q ⟨k, i, false⟩ bs bs q.packetView).ends k i s).readDependence s.nextId)) ∧
      ((q.mayStart = false ∨ pktKind bs ≠ e.2) → exec e.1 s = .next (s.readDependence s.nextId))) ∧
    (∀ e ∈ ([(.enginePacket k, 3, s.engineNow k i q bs q.packetView),
        (.waitPacket k, 4, s.waitNow k q bs), (.signalPacket k, 5, s.signalNow k q bs),
        (.graphPacket k, 6, s.graphWrite k q (graphOf bs) 0 (natLe 8 0) .running),
        (.notifyPacket k, 7, s.notifyNow k q bs)] : List (Instr × Nat × Begun)),
      (may → pktKind bs = e.2.1 → PacketBegins e.1 s k i e.2.2) ∧
      ((q.mayStart = false ∨ pktKind bs ≠ e.2.1) → exec e.1 s = .next s))) ∧
  (∀ (s : State) k (q : Queue) bs v known t,
    let n := if pkt bs 25 1 = 1 then 8 else 4
    let holds := (pkt bs 24 1 = 0 ∧ leNat v ≠ pkt bs 16 n) ∨ (pkt bs 24 1 = 1 ∧ leNat v = pkt bs 16 n) ∨
      (2 ≤ pkt bs 24 1 ∧ pkt bs 16 n ≤ leNat v)
    (s.cpRead q (pkt bs 8 8) n = .ok v known →
      (holds → s.waitNow k q bs = .done { s with cpKnow := known }) ∧ (¬ holds → s.waitNow k q bs = .running s)) ∧
    (pkt bs 24 1 = 0 → s.cpWrite q (pkt bs 8 8) (natLe n (pkt bs 16 n)) = .ok t → s.signalNow k q bs = .done t)) ∧
  (∀ (s : State) (q : Queue) d owner packet start, d.capture = false → d.dep = 0 → d.deadline = 0 →
    aget s.launches s.nextId = none → s.partitionOf q.ctx < s.partitions.length →
    ∃ u y, s.enterLaunch q d owner none packet start = .running u ∧ aget u.launches s.nextId = some y ∧ y.desc = d ∧
      y.ctx = q.ctx ∧ y.owner = owner ∧ y.seq = s.seq ∧ u.seq = s.seq + 1 ∧ y.depMet = true ∧ y.next = 0 ∧
      (u.partition (s.partitionOf q.ctx)).roundDue = true ∧ u.gangs = s.gangs ∧ u.mem = s.mem) ∧
  (∀ (s : State) l x q bs known, s.complexRuns = true → aget s.launches l = some x →
    aget s.queues x.owner.queue = some q → (q.open x.owner.index).isSome = true →
    x.depMet = false → x.recorded = false → x.heldPage = none → s.cpRead q x.desc.dep.toNat 8 = .ok bs known →
    (x.desc.depValue.toNat ≤ leNat bs → exec (.dependenceReread l) s = .next
      (({ s with cpKnow := known, launches := amod s.launches l (fun y => { y with
        depMet := true, start := Seen.join y.start known.view }) } : State).modPartition (s.partitionOf x.ctx)
          (fun p => { p with roundDue := true }))) ∧
    (leNat bs < x.desc.depValue.toNat → exec (.dependenceReread l) s = .next s)) ∧
  (∀ (s : State) l, s.complexRuns = false → exec (.dependenceReread l) s = .next s) ∧
  (∀ (s : State) k i q p, aget s.queues k = some q → (s.stack q.home).haltArrived = false →
    q.heldPage = none → q.open i = some p →
    (∀ g, p.graph = some g →
      ((g.busy = true ∨ s.castling.isSome = true) → exec (.graphNodeStart k i) s = .next s) ∧
      (g.busy = false → s.castling = none → g.count ≤ g.node →
        exec (.graphNodeStart k i) s = .next (s.graphLeave k i q g 3 (g.count - 1))) ∧
      (∀ bs known, g.busy = false → s.castling = none → g.node < g.count →
        s.cpRead q ((g.nodes.toNat + 64 * g.node) % 2 ^ 64) 64 = .ok bs known →
        let r := { s with cpKnow := known }
        let view := Seen.join p.view (Seen.join known.view [(cpThread, s.history.length)])
        (nodeOk (s.members (s.queuePartition q)) bs = false →
          exec (.graphNodeStart k i) s = .next (r.graphLeave k i q g 4 g.node)) ∧
        (nodeOk (s.members (s.queuePartition q)) bs = true → pktKind bs = 8 →
          exec (.graphNodeStart k i) s = .next (r.conditional k i q g bs)) ∧
        (∀ t, nodeOk (s.members (s.queuePartition q)) bs = true → pktKind bs ≠ 8 →
          r.nodeNow k i q bs p.bytes view = .running t → exec (.graphNodeStart k i) s = .next ((t.modGraph k i (fun h =>
            { h with node := h.node + 1, busy := true, current := bs })).readDependence s.nextId)))) ∧
    (∀ e ∈ ([(.waitReread k i, 4, s.waitNow k q), (.notifyTakenReread k i, 7, s.notifyNow k q)] :
        List (Instr × Nat × (List Byte → Begun))),
      p.graph = none → p.kind = e.2.1 →
      (∀ t, e.2.2 p.bytes = .running t → exec e.1 s = .next t) ∧
      (∀ t, e.2.2 p.bytes = .blocked t → exec e.1 s = .next t) ∧
      (∀ code d, e.2.2 p.bytes = .error code d → exec e.1 s = .next (s.failPacket k code d i)) ∧
      (∀ t, e.2.2 p.bytes = .writeRefused t → exec e.1 s = .next (t.failPacket k 8 0 i)) ∧
      (∀ t, e.2.2 p.bytes = .done t → exec e.1 s =
        .next ((t.modGraph k i (s.noteRing q p.bytes)).completePacket k i)))) ∧
  (∀ (s : State) ring, (s.complexRuns = true → (s.coalesce ring).pending ≠ 0 →
      (s.ringBlock ring).time * 1000 ≤ s.activeNow - (s.coalesce ring).first →
      exec (.notifyTimeInterrupt ring) s = .next (s.interrupt ring (s.ringBlock ring).vector)) ∧
    ((s.coalesce ring).pending = 0 → exec (.notifyTimeInterrupt ring) s = .next s) ∧
    ∀ v, (s.interrupt ring v).msix = s.msix ++ [(s.ringPort ring, v)] ∧
      ((s.interrupt ring v).coalesce ring).pending = 0)

/-- EVRING is written in the stacks of complexes alone, and in the active one sets the partition's ring, invalid when
its control block breaks the rules; SDMODE takes effect once nothing waits; a load takes the complex through state 1
and brings it up with a verified image, the first one as active, or leaves it failed with an error; castling suspends
the old active, writes the state table at a packet boundary, hands over to the standby that imports it with the event
0x0007, or aborts with a reason; power-off empties the standby. The state table's sections and the code of an abort
are the model's choices (assumptions 69, 71). -/
def Obligations.ComplexEvents : Prop :=
  ∀ s : State,
  (∀ st n v, ((st ≠ 0 ∧ st ≠ 6) ∨ 12 ≤ n ∨ (s.stack st).bootState ≠ 4) → exec (.evringWrite st n v) s = .next s) ∧
  (∀ st n v, (st = 0 ∨ st = 6) → n < 12 → (s.stack st).bootState = 4 →
    let block := v / 64 % 2 ^ 46 * 64
    let t := s.modStack st (fun k => { k with evring := k.evring.set n (BitVec.ofNat 64 (block + v % 2)) })
    (st ≠ s.activeStack → exec (.evringWrite st n v) s = .next t) ∧
    (st = s.activeStack → v % 2 = 0 → exec (.evringWrite st n v) s =
      .next (t.modPartition n (fun p => { p with evValid := false }))) ∧
    (st = s.activeStack → v % 2 = 1 → (t.ringBlock block).ok = false → exec (.evringWrite st n v) s =
      .next (t.modPartition n (fun p => { p with evValid := false, evBlock := block }))) ∧
    (st = s.activeStack → v % 2 = 1 → (t.ringBlock block).ok = true → t.snoopLines block 64 true ≠ [] →
      exec (.evringWrite st n v) s = .next (t.backInvalidate (t.snoopLines block 64 true))) ∧
    (st = s.activeStack → v % 2 = 1 → (t.ringBlock block).ok = true → t.snoopLines block 64 true = [] →
      (t.partition n).evDropped = 0 → exec (.evringWrite st n v) s =
        .next (t.modPartition n (fun p => { p with evValid := true, evBlock := block, evDropped := 0 })))) ∧
  (∀ st v, (s.complexRuns = true → (s.stack st).bootState = 4 → exec (.sdmodeWrite st v) s =
      .next (s.modStack st (fun k => { k with sdMode := v % 2 == 1 }))) ∧
    ((s.complexRuns = false ∨ (s.stack st).bootState ≠ 4) → exec (.sdmodeWrite st v) s = .next s)) ∧
  (∀ st, ((s.stack st).batch = [] → (∀ r ∈ s.reservations, r.2.stack ≠ st) → exec (.sdmodeTakeEffect st) s =
      .next (s.modStack st (fun k => { k with sdState := k.sdMode }))) ∧
    ((s.stack st).batch ≠ [] → exec (.sdmodeTakeEffect st) s = .next s)) ∧
  (∀ cp, (cp = 0 ∨ cp = 6) → (s.stack cp).bootState = 4 → (s.stack cp).cpRole = false → s.castling = none →
    (((s.stack cp).cpState = 0 ∨ (s.stack cp).cpState = 2 ∨ (s.stack cp).cpState = 5) →
      exec (.cpLoad cp false) s = .next (s.modStack cp (fun x => { x with cpState := 1 }))) ∧
    ((s.stack cp).cpState = 1 →
      (∀ lines, s.readImage cp 1 (s.stack cp).cpArg.toNat = .wait lines →
        exec (.cpLoad cp true) s = .next (s.backInvalidate lines)) ∧
      (∀ code, s.readImage cp 1 (s.stack cp).cpArg.toNat = .error code → exec (.cpLoad cp true) s =
        .next (s.modStack cp (fun x => { x with cpState := 5, bootError := code }))) ∧
      (∀ image, s.readImage cp 1 (s.stack cp).cpArg.toNat = .ok image →
        (pkt image 8 4 < (s.stack cp).minFirmware → exec (.cpLoad cp true) s =
          .next (s.modStack cp (fun x => { x with cpState := 5, bootError := 7 }))) ∧
        ((s.stack cp).minFirmware ≤ pkt image 8 4 →
          let first := (s.stack 0).cpState != 4 && (s.stack 6).cpState != 4
          exec (.cpLoad cp true) s = .next (s.modStack cp (fun x => { x with
            cpVersion := BitVec.ofNat 32 (pkt image 8 4), cpImage := image
            cpState := if first then 4 else 2, cpRole := first })))))) ∧
  (∀ cp done, ((cp ≠ 0 ∧ cp ≠ 6) ∨ (s.stack cp).bootState ≠ 4 ∨ (s.stack cp).cpRole = true ∨
      s.castling.isSome = true ∨ (done = false ∧ (s.stack cp).cpState = 1)) →
    exec (.cpLoad cp done) s = .next s) ∧
  (s.complexRuns = true → (s.stack s.standbyStack).cpState = 2 → exec .cpCastle s =
    .next { s with castling := some ⟨s.activeNow, none⟩ }) ∧
  ((s.complexRuns = false ∨ (s.stack s.standbyStack).cpState ≠ 2) → exec .cpCastle s = .next s) ∧
  (∀ c, s.castling = some c →
    let new := s.standbyStack
    let v := (s.stack new).cpVersion
    (s.activeNow - c.start ≤ 50000 → c.table = none → s.packetBoundary = true → ∀ errors,
      exec (.castlingImport errors) s = .next { s.modStack new (fun t => { t with cpState := 3 }) with
        castling := some { c with table := some s.stateTable } }) ∧
    (s.activeNow - c.start ≤ 50000 → c.table = none → s.packetBoundary = false → ∀ errors,
      exec (.castlingImport errors) s = .next s) ∧
    (∀ table errors, s.activeNow - c.start ≤ 50000 → c.table = some table →
      let read := flipBytes table errors
      (tableOk (Config.tableImports v) (Config.tableKnows v) read = true →
        let t := (s.modStack s.activeStack (fun x => { x with cpState := 2, cpRole := false })).modStack new (fun x =>
          { x with cpState := 4, cpRole := true })
        let u := ({ t with castling := none, seq := pkt read 8 8 + 1 } : State).takeRings new
        let w : State := { u with partitions := u.partitions.map (fun p => { p with roundDue := true }) }
        exec (.castlingImport errors) s = .next (w.event 0x0007 new 0xFFFF
          (natLe 1 new ++ natLe 3 0 ++ natLe 4 (w.stack new).cpVersion.toNat))) ∧
      (tableOk (Config.tableImports v) (Config.tableKnows v) read = false →
        exec (.castlingImport errors) s = .next (s.castlingAborts 2))) ∧
    (50000 < s.activeNow - c.start → ∀ errors, exec (.castlingImport errors) s = .next (s.castlingAborts 1)) ∧
    (50000 ≤ s.activeNow - c.start → exec .castlingTimeout s = .next (s.castlingAborts 1)) ∧
    (s.activeNow - c.start < 50000 → exec .castlingTimeout s = .next s)) ∧
  (s.castling = none → (∀ errors, exec (.castlingImport errors) s = .next s) ∧ exec .castlingTimeout s = .next s) ∧
  ((s.stack s.standbyStack).cpRole = false → (s.stack s.standbyStack).bootState = 4 →
    let t := if s.castling.isSome then s.castlingAborts 2 else s
    exec .cpPowerOff s = .next (t.modStack s.standbyStack (fun t =>
      { t with cpState := 0, cpVersion := 0, cpImage := [] })))

/-- CREATE_CONTEXT and REGISTER_QUEUE read a descriptor once and enter the context or queue, or stop the queue with
error 5, or 8 when it cannot be read, and wait for a page or a host copy; DESTROY_CONTEXT resets the context and
removes it once nothing of it is left; RESET_QUEUE drops what has not started; PREEMPT stops fetch and dispatch and
starts the ladder, and waits while the context is on one; RESUME opens fetch again; INVALIDATE asks every stack of the
partition; RESOLVE and REFUSE answer a page, and MIGRATE_PAGE moves one. What needs memory of which the host holds
copies recalls them first. A packet for a context of another partition is error 5. The packets' corners are the
model's readings (assumptions 59 to 61, 63, 64, 87, 120). -/
def Obligations.AdministrativePackets : Prop :=
  (∀ (s : State) k q, Worked s k q →
    let i := q.consumed - 1
    let bs := q.packet
    let ctx := pkt bs 8 2
    let kind := pktKind bs
    q.mayStart = true → s.castling = none →
    (∀ e ∈ ([(.createContext k, 32, 128, fun b => if s.contextOk (q.admin.getD 12) q.home b then
          .done { s with contexts := s.contexts ++ [(pkt b 28 2, contextOf b (q.admin.getD 12))] } else .error 5 0),
        (.registerQueue k, 34, 64, fun b =>
          if s.queueOk (q.admin.getD 12) b = true ∧ aget s.queues (pkt bs 16 4) = none then
            .done { s with queues := s.queues ++ [(pkt bs 16 4, queueOf b)] } else .error 5 0)] :
        List (Instr × Nat × Nat × (List Byte → Begun))), kind = e.2.1 →
      (∀ b known, s.cpRead q (pkt bs 8 8) e.2.2.1 = .ok b known → PacketBegins e.1 s k i (e.2.2.2 b)) ∧
      (∀ page, s.cpRead q (pkt bs 8 8) e.2.2.1 = .hold page → PacketBegins e.1 s k i (.blocked (s.cpHold k q page))) ∧
      (∀ lines, s.cpRead q (pkt bs 8 8) e.2.2.1 = .recall lines →
        PacketBegins e.1 s k i (.blocked (s.backInvalidate lines))) ∧
      (s.cpRead q (pkt bs 8 8) e.2.2.1 = .refused → PacketBegins e.1 s k i (.error 8 0))) ∧
    (kind = 33 → exec (.destroyContext k) s = .next (State.finishDestroy (Begun.ends k i s
      (if (s.ownContext q ctx).isNone then .error 5 0
      else if s.resetLines ctx = [] then .running (s.resetContext ctx true)
      else .blocked (s.backInvalidate (s.resetLines ctx)))) k)) ∧
    (kind = 35 → PacketBegins (.resetQueue k) s k i (match aget s.queues (pkt bs 8 4) with
      | none => .error 5 0
      | some y =>
        if y.admin.isSome || (s.ownContext q y.ctx).isNone then .error 5 0
        else if y.openPackets.isEmpty then .done (s.resetQueue (pkt bs 8 4) none)
        else .running (s.resetQueue (pkt bs 8 4) (some (k, i))))) ∧
    (kind = 36 → s.ownContext q ctx = none → exec (.preempt k) s = .next
      ((Begun.ends k i s (.error 5 0)).settleLadder ctx)) ∧
    (∀ c, kind = 36 → s.ownContext q ctx = some c → c.rung = .none →
      let t := s.modContext ctx (fun y => { y with
        fetchStopped := true, rung := .drain k i (pkt bs 16 4) (s.activeNow + 1000 * pkt bs 12 4) })
      exec (.preempt k) s = .next (((if pkt bs 12 4 = 0 ∧ s.gangsOn ctx ≠ [] then
        t.startEvict ctx k i (pkt bs 16 4) else t).startPacket k).settleLadder ctx)) ∧
    (∀ c, kind = 36 → s.ownContext q ctx = some c → c.rung ≠ .none →
      exec (.preempt k) s = .next (s.settleLadder ctx)) ∧
    (∀ c, kind = 37 → s.ownContext q ctx = some c → c.rung = .none →
      let t := (s.modContext ctx (fun y => { y with fetchStopped := false })).roundsDue (s.partitionOf ctx)
      let lines := s.saveLines ctx c 0 false ++ s.resetLines ctx
      (lines ≠ [] → PacketBegins (.resume k) s k i (.blocked (s.backInvalidate lines))) ∧
      (lines = [] → s.imagesIntact ctx c = true → s.savedGangs ctx = [] → PacketBegins (.resume k) s k i (.done t)) ∧
      (lines = [] → s.imagesIntact ctx c = true → s.savedGangs ctx ≠ [] → PacketBegins (.resume k) s k i
        (.running (t.modContext ctx (fun y => { y with resuming := y.resuming ++ [(k, i)] })))) ∧
      (lines = [] → s.imagesIntact ctx c = false → PacketBegins (.resume k) s k i
        (.done ((t.resetContext ctx true).resetEvent ctx (t.resetKills ctx))))) ∧
    (∀ c, kind = 37 → s.ownContext q ctx = some c → c.rung ≠ .none → PacketBegins (.resume k) s k i (.blocked s)) ∧
    (∀ c, kind = 38 → s.ownContext q ctx = some c →
      let lo := if pkt bs 24 4 = 0 then 0 else pkt bs 16 8 / 65536 * 65536
      let hi := if pkt bs 24 4 = 0 then 2 ^ 64 else lo + 65536 * pkt bs 24 4
      PacketBegins (.invalidate k) s k i (.running { s with invalidations := s.invalidations ++
        [{ queue := k, index := i, ctx := ctx, lo := lo, hi := hi, waiting := s.members c.partition }] })) ∧
    (∀ c, kind = 39 → s.ownContext q ctx = some c →
      let page := requestPage bs
      let t := (s.members c.partition).foldl (fun (u : State) st => u.releaseHeld ctx st page (page + 65536))
        (s.answered ctx page)
      PacketBegins (.resolve k) s k i (if t.stillLeft ctx page then .blocked t else .done t)) ∧
    (∀ c, kind = 40 → s.ownContext q ctx = some c →
      let page := requestPage bs
      let t := (s.answered ctx page).modContext ctx (fun c => { c with refusing := some page })
      let u := (s.holders ctx page).foldl (fun (u : State) p => u.refuseWave p.1 p.2 page) t
      PacketBegins (.refuse k) s k i (.done ((((u.refuseEntries ctx page).refuseUnits ctx page).refuseQueues ctx
        page).modContext ctx (fun c => { c with refusing := none })))) ∧
    (∀ c, kind = 41 → s.ownContext q ctx = some c →
      let found := s.leafPlace c.partition q.home (requestPage bs) c.root walkLevels
      let dst := pkt bs 24 8
      let local_ := isLocal dst = true ∧ dst % 65536 = 0 ∧ homeStack dst = pkt bs 32 1 ∧
        s.reachable c.partition q.home dst = true ∧ s.reachable c.partition q.home (dst + 65535) = true
      (found = none → PacketBegins (.migratePage k) s k i (.error 5 0)) ∧
      (∀ place leaf size, found = some (place, leaf, size) →
        (¬ (local_ ∧ size = 65536 ∧ isLocal (entryAddress leaf) = true) →
          PacketBegins (.migratePage k) s k i (.error 5 0)) ∧
        (local_ → size = 65536 → isLocal (entryAddress leaf) = true →
          let lines := s.snoopLines (entryAddress leaf) 65536 true ++ s.snoopLines dst 65536 true ++
            s.snoopLines place 8 true ++ s.placementLines ctx (requestPage bs)
          PacketBegins (.migratePage k) s k i (if lines = [] then
            .done ((s.migrate ctx c.partition (requestPage bs) (entryAddress leaf) dst (pkt bs 32 1) place
              leaf).adminEvent k 0x0103 ctx (natLe 8 (requestPage bs) ++ natLe 1 (pkt bs 32 1)))
            else .blocked (s.backInvalidate lines))))) ∧
    (∀ e ∈ ([(.resume k, 37), (.invalidate k, 38), (.resolve k, 39), (.refuse k, 40), (.migratePage k, 41)] :
      List (Instr × Nat)), kind = e.2 → s.ownContext q ctx = none → PacketBegins e.1 s k i (.error 5 0))) ∧
  (∀ (s : State) k q, Worked s k q → ∀ e ∈ ([(.createContext k, 32), (.registerQueue k, 34), (.resetQueue k, 35),
      (.resume k, 37), (.invalidate k, 38), (.resolve k, 39), (.refuse k, 40), (.migratePage k, 41)] : List (Instr × Nat)),
    (q.mayStart = false ∨ pktKind q.packet ≠ e.2) → exec e.1 s = .next s) ∧
  (∀ (s : State) ctx, aget (s.removeContext ctx).contexts ctx = none ∧
    (∀ p ∈ (s.removeContext ctx).queues, p.2.ctx = ctx → p.2.admin.isSome = true) ∧
    ((∀ x ∈ s.invalidations, x.ctx ≠ ctx) → (s.removeContext ctx).mem = s.mem ∧
      ∀ n, n ≠ ctx → aget (s.removeContext ctx).contexts n = aget s.contexts n)) ∧
  (∀ (s : State) ctx part va src dst st place leaf c, aget s.contexts ctx = some c → c.placeCount = 0 → s.matoms = [] →
    s.gangs = [] → (place + 8 ≤ dst ∨ dst + 65536 ≤ place) →
    let t := s.migrate ctx part va src dst st place leaf
    readBytes t.mem dst 65536 = readBytes s.mem src 65536 ∧
    t.readNat place 8 = ((leaf &&& ~~~(BitVec.ofNat 64 (2 ^ 52 - 256))) ||| BitVec.ofNat 64 dst).toNat ∧
    ∀ a, (a < dst ∨ dst + 65536 ≤ a) → (a < place ∨ place + 8 ≤ a) → Sparse.get 0 t.mem a = Sparse.get 0 s.mem a)

/-- When the drain bound expires eviction begins, and its gangs are saved as they become quiet; when the evict bound
expires with a gang still on a core, the context is reset; without a rung neither does anything. The first saved gang
of its launch is restored on the stack it would go to, with its state as its image has it, is killed past its deadline
and diverted past its flag fall. A stack acknowledges an invalidation once nothing that used the range is unperformed,
and the request completes at the last. The ladder's clock and what a restore reads back are the model's choices
(assumptions 49, 51, 52, 62, 115, 118). -/
def Obligations.PreemptionEvents : Prop :=
  (∀ (s : State) ctx c, aget s.contexts ctx = some c → s.ladderRuns ctx = true →
    (c.rung = .none → exec (.drainBoundExpiry ctx) s = .next s ∧ exec (.evictBoundExpiry ctx) s = .next s) ∧
    (∀ q i asked expiry, c.rung = .drain q i asked expiry →
      (s.activeNow < expiry → exec (.drainBoundExpiry ctx) s = .next s) ∧
      (expiry ≤ s.activeNow → exec (.drainBoundExpiry ctx) s =
        .next ((s.startEvict ctx q i asked).evictGangs ctx (s.gangsIn ctx .resident))) ∧
      exec (.evictBoundExpiry ctx) s = .next s) ∧
    (∀ q i expiry, c.rung = .evict q i expiry →
      exec (.drainBoundExpiry ctx) s = .next (s.evictGangs ctx (s.gangsIn ctx .resident)) ∧
      (expiry ≤ s.activeNow → s.gangsOn ctx ≠ [] → exec (.evictBoundExpiry ctx) s = .next
        (if s.resetLines ctx = [] then s.resetContext ctx true else s.backInvalidate (s.resetLines ctx))) ∧
      ((s.activeNow < expiry ∨ s.gangsOn ctx = []) → exec (.evictBoundExpiry ctx) s = .next s))) ∧
  (∀ (s : State) ctx, s.ladderRuns ctx = false →
    exec (.drainBoundExpiry ctx) s = .next s ∧ exec (.evictBoundExpiry ctx) s = .next s) ∧
  (∀ (s : State) ctx killed q i asked expiry,
    s.endLadder ctx killed .none = s ∧
    s.endLadder ctx killed (.drain q i asked expiry) = (s.resetEvent ctx killed).completePacket q i ∧
    s.endLadder ctx killed (.evict q i expiry) = (s.resetEvent ctx killed).completePacket q i) ∧
  (∀ (s : State) ctx asked, 1000 * asked ≤ s.evictBound ctx asked ∧
    ∀ st ∈ s.partitionStacks ctx, 1000 * ((s.stack st).linkTimeout + 1000) ≤ s.evictBound ctx asked) ∧
  (∀ (s : State) g st x (l : Launch) c, aget s.gangs g = some x → s.launchOf x = some l →
    aget s.contexts l.ctx = some c → x.state = .saved →
    (((s.savedGangs l.ctx).filter (fun p => p.2.launch == x.launch)).head?).map Prod.fst = some g →
    s.dispatches l.ctx = true → c.resuming ≠ [] → s.ladderRuns l.ctx = true → (s.stack st).sdState = false →
    s.restoreStack l x = some st →
    let left := s.readNat (c.saveArea + x.image + 48) 8
    (left < (s.stack st).now → s.saveLines l.ctx c 0 true ≠ [] →
      exec (.gangRestore g st) s = .next (s.backInvalidate (s.saveLines l.ctx c 0 true))) ∧
    (left < (s.stack st).now → s.saveLines l.ctx c 0 true = [] →
      (l.desc.deadline ≠ 0 → l.desc.deadline ≤ (s.stack st).now → exec (.gangRestore g st) s = .next (s.killSaved g)) ∧
      ((l.desc.deadline = 0 ∨ (s.stack st).now < l.desc.deadline) →
        (∀ k grant, (s.room st).pick l.desc = some k → s.regrant st g x = some grant → l.desc.capture = false →
          (s.room st).fits l.desc k = true →
          let t := s.restoreGang g st k x l grant c.saveArea
          let late := l.desc.deadline ≠ 0 ∧ l.desc.flagFall ≤ (s.stack st).now
          exec (.gangRestore g st) s = .next (((if late then
            (t.launchFf x.launch).divertGang g 2 else t).replayGang g).settleResume l.ctx)) ∧
        (((s.room st).pick l.desc = none ∨ s.regrant st g x = none) → exec (.gangRestore g st) s = .next s))) ∧
    ((s.stack st).now ≤ left → exec (.gangRestore g st) s = .next s)) ∧
  (∀ (s : State) g st x, aget s.gangs g = some x → x.state ≠ .saved → exec (.gangRestore g st) s = .next s) ∧
  (∀ (s : State) k st x, s.invalidations.find? (fun x => x.queue == k && x.waiting.contains st) = some x →
    let t := (s.modStack st (fun k => k.dropRange x.ctx x.lo x.hi)).rollbackWaves (fun _ g sp =>
      s.ctxOf g == x.ctx && g.stack == st && sp.pages.any (inRange x.lo x.hi))
    let y : Invalidation := { x with waiting := x.waiting.filter (fun k => k != st) }
    let u : State := State.releaseHeld { t with invalidations := t.invalidations.map (fun z => if z = x then y else z) }
      x.ctx st x.lo x.hi
    (s.unperformed x.ctx st = true → exec (.invalidationAck k st) s = .next t) ∧
    (s.unperformed x.ctx st = false → y.waiting ≠ [] → exec (.invalidationAck k st) s = .next u) ∧
    (s.unperformed x.ctx st = false → y.waiting = [] → exec (.invalidationAck k st) s =
      .next ((State.adminEvent { u with invalidations := u.invalidations.filter (fun z => z != y) } k 0x0106 x.ctx
        (natLe 8 x.index)).completePacket k x.index))) ∧
  (∀ (s : State) k st, (∀ x ∈ s.invalidations, x.queue = k → st ∉ x.waiting) →
    exec (.invalidationAck k st) s = .next s)

/-- A register write sets the fields its offset holds, within their bounds, and nothing else; most registers answer
once the stack is ready, and routes are written by the active complex alone. A bank changes mode when it is free,
clean or left. PARTCFG sets its fields; a stack that joins or leaves a partition is scrubbed first, and then serves
with zero memory, its partition's key pair being drawn with the first stack and gone with the last. A ring transfer
between partitions, or one that a stack with a disagreeing mask or configuration refuses, is dropped and counted. What
a register holds is what a read of it gives. When a register answers, when a scrub ends and which rings are open are
the model's choices (assumptions 37 to 39, 65, 104). -/
def Obligations.RegistersAndPartitions : Prop :=
  ∀ (s : State) (st : Nat),
  let ready := (s.stack st).bootState = 4
  let field := fun (v hi lo : Nat) => v / 2 ^ lo % 2 ^ (hi + 1 - lo)
  (∀ off v, off % 8 ≠ 0 → exec (.registerWrite st off v) s = .next s) ∧
  (∀ e v, e < 32 → ready → s.complexRuns = true →
    exec (.registerWrite st (0x1000 + 16 * e) v) s = .next (s.modStack st (fun t => { t with
      routes := t.routes.modify e (fun p =>
        (BitVec.ofNat 64 (field v 51 30 * 2 ^ 30 + field v 2 1 * 2 + v % 2), p.2)) })) ∧
    exec (.registerWrite st (0x1008 + 16 * e) v) s = .next (s.modStack st (fun t => { t with
      routes := t.routes.modify e (fun p => (p.1, BitVec.ofNat 64 (field v 51 30 * 2 ^ 30 + field v 7 4 * 16))) }))) ∧
  (∀ off v, 0x1000 ≤ off → off < 0x1200 → (s.complexRuns = false ∨ ¬ ready) →
    exec (.registerWrite st off v) s = .next s) ∧
  (∀ v, exec (.registerWrite st 0x510 v) s = .next (s.modStack st (fun t => { t with bootArg := BitVec.ofNat 64 v })) ∧
    exec (.registerWrite st 0x518 v) s = .next (s.modStack st (fun t => { t with attArg := BitVec.ofNat 64 v })) ∧
    ∀ k, k < 4 → exec (.registerWrite st (0x520 + 8 * k) v) s =
      .next (s.modStack st (fun t => { t with attNonce := writeWord t.attNonce 32 k v }))) ∧
  (∀ off v, ¬ ready → ¬ (0x510 ≤ off ∧ off < 0x540) → exec (.registerWrite st off v) s = .next s) ∧
  (∀ v w, ready → w < 8 →
    exec (.registerWrite st (0x400 + 16 * w) v) s = .next (s.modStack st (fun t => { t with
      windows := t.windows.modify w (fun p => (BitVec.ofNat 64 (field v 51 30 * 2 ^ 30 + v % 2), p.2)) })) ∧
    exec (.registerWrite st (0x408 + 16 * w) v) s = .next (s.modStack st (fun t => { t with
      windows := t.windows.modify w (fun p => (p.1, BitVec.ofNat 64 (field v 51 30 * 2 ^ 30))) }))) ∧
  (∀ v, ready →
    exec (.registerWrite st 0x308 v) s = .next (s.modStack st (fun t => { t with stopBase := field v 51 11 * 2048 })) ∧
    exec (.registerWrite st 0x710 v) s = .next (s.modStack st (fun t => { t with policy := v.testBit 0 })) ∧
    exec (.registerWrite st 0x720 v) s = .next (s.modStack st (fun t => { t with
      capSize := field v 35 12, capLost := t.capLost && !v.testBit 3, capDiverged := t.capDiverged && !v.testBit 2
      capMode := if v % 4 < 2 then v % 4 else 0 })) ∧
    exec (.registerWrite st 0x2000 v) s = .next (s.modStack st (fun t => { t with
      timeInterval := max 100 (min 10000 (field v 31 16)), timeEnable := v.testBit 0 })) ∧
    exec (.registerWrite st 0x2010 v) s = .next (s.modStack st (fun t => { t with
      linkTimeout := max 50 (min 64000 (v % 2 ^ 32)) })) ∧
    exec (.registerWrite st 0x210 v) s = .next (if st = 0 ∨ st = 6 then
      s.modStack st (fun t => { t with cpArg := BitVec.ofNat 64 v }) else s) ∧
    exec (.capbaseWrite st v) s = .next (s.modStack st (fun t => { t with capBase := field v 51 12 * 4096, capPos := 0 }))) ∧
  (∀ v, ¬ ready → exec (.capbaseWrite st v) s = .next s) ∧
  (∀ cl bank v, ready → cl < 4 → bank < 64 →
    let t := s.modStack st (fun t => { t with
      banks := t.banks.modify (64 * cl + bank) (fun b =>
        if v % 4 = 0 then { b with mode := 0, state := if b.state = 1 then 0 else b.state }
        else if v % 4 = 1 then { b with mode := 1 } else b) })
    let taken := ((s.stack st).banks[64 * cl + bank]?).any (fun b => b.state == 1 && v % 4 == 0)
    exec (.bankModeWrite st cl bank v) s = .next (if taken = true then t.slotsReport st else t)) ∧
  (∀ cl bank v, (¬ ready ∨ 4 ≤ cl ∨ 64 ≤ bank) → exec (.bankModeWrite st cl bank v) s = .next s) ∧
  (∀ cl bank b, cl < 4 → bank < 64 → (s.stack st).banks[64 * cl + bank]? = some b →
    (b.state = 0 → b.mode = 1 → exec (.bankModeChangeComplete st cl bank) s =
      .next ((s.modStack st (fun t => { t with
        banks := t.banks.set (64 * cl + bank) { b with state := 1 } })).slotsReport st)) ∧
    ((b.state ≠ 0 ∨ b.mode ≠ 1) → exec (.bankModeChangeComplete st cl bank) s = .next s)) ∧
  (∀ v, ready →
    let k := s.stack st
    let part := min 11 (field v 11 8)
    let serves := k.enable || (k.scrubbing && k.joins)
    ((serves = v.testBit 0 ∧ (v.testBit 0 = true → k.partNum = part)) → exec (.partitionEnable st v) s =
      .next (s.modStack st (fun t => { t with partNum := part, partMask := BitVec.ofNat 12 (field v 23 12) }))) ∧
    ((serves ≠ v.testBit 0 ∨ (v.testBit 0 = true ∧ k.partNum ≠ part)) → exec (.partitionEnable st v) s =
      .next (s.modStack st (fun t => { t with
        partNum := part, partMask := BitVec.ofNat 12 (field v 23 12), enable := false, scrubbing := true
        joins := v.testBit 0 })))) ∧
  (∀ v, ¬ ready → exec (.partitionEnable st v) s = .next s) ∧
  (∀ aq desc, (s.stack st).scrubbing = false → exec (.scrubComplete st aq desc) s = .next s) ∧
  (∀ aq desc, (s.stack st).scrubbing = true →
    let k := s.stack st
    let empty := fun (t : State) => (t.members k.partNum).isEmpty
    let begun := if k.joins ∧ empty s then
      s.modPartition k.partNum (fun p => { p with keys := s.tick + 1, round := 0, roundDue := false }) else s
    let clean := (begun.zeroStack st).modStack st (fun x => { x with scrubbing := false, enable := x.joins, joins := false })
    let t := (if empty clean then clean.modPartition k.partNum (fun p => { p with keys := 0 }) else clean).event 0x0109 st
      0xFFFF (natLe 1 st)
    (∀ pa, Sparse.get 0 (s.zeroStack st).mem pa =
      if isLocal pa ∧ homeStack pa = st then 0 else Sparse.get 0 s.mem pa) ∧
    exec (.scrubComplete st aq desc) s =
      .next (if k.joins then (t.registerAdmin k.partNum aq desc).slotsReport st else t)) ∧
  (∀ dst, st < 12 → dst < 12 →
    let mine := fun (k : Nat) => s.maskAgrees k = true
    ((st = dst ∨ (mine st ∧ mine dst ∧ (s.stack st).partNum = (s.stack dst).partNum)) →
      exec (.ringTransfer st dst) s = .next s) ∧
    (st ≠ dst → (¬ mine st ∨ ¬ mine dst ∨ (s.stack st).partNum ≠ (s.stack dst).partNum) →
      exec (.ringTransfer st dst) s =
        .next (s.modStack dst (fun t => { t with droppedTransfers := t.droppedTransfers + 1 })))) ∧
  (∀ dst, (12 ≤ st ∨ 12 ≤ dst) → exec (.ringTransfer st dst) s = .next s) ∧
  (s.readRegister st 0x510 = some (s.stack st).bootArg ∧ s.readRegister st 0x508 = some 0 ∧
    (ready → s.readRegister st 0x730 = some (BitVec.ofNat 64 (s.stack st).capPos) ∧
      s.readRegister st 0x700 = some (BitVec.ofNat 64 (s.stack st).capacity)) ∧
    (¬ ready → s.readRegister st 0 = none ∧ s.readRegister st 0x730 = none) ∧
    ∀ off, off % 4 ≠ 0 → s.readRegister st off = none)

/-- Power-up puts the registers of one stack at reset, drops what ran there and loses the bytes of its memory, leaving
the other stacks. Boot command 1 is obeyed in states 0 and 6 alone and starts verifying: an image that fails ends in
state 6 with the first error, and one that passes gives the stack its configuration, the private key that its seed
gives and its public key, in state 2, or 5 for an enrolment. Matching keys of all stacks apply the repair map and
start the self-test, after which the stack is ready in state 4 with SDMODE 1; a mismatch, or 100 ms without them, is
error 5. A quote is pending from its command on, is sampled and signed at one instant while no castling runs, is
written to system memory alone, and is no longer pending afterwards. The silicon's seed and chance are free, and the
order of boot is the model's reading (assumptions 31, 72 to 74, 92). -/
def Obligations.BootAndIdentity : Prop :=
  ∀ (s : State) (st : Nat),
  let k := s.stack st
  let state := k.bootState
  (∃ t, exec (.powerUp st) s = .next t ∧ (∀ p ∈ t.commands, p.2.stack ≠ st) ∧ (∀ r ∈ t.reservations, r.2.stack ≠ st) ∧
    (∀ l ∈ t.devLines, ∀ c ∈ l.copies, c.1 ≠ st) ∧ (∀ q ∈ t.queues, q.2.home ≠ st) ∧
    (∀ pa, isLocal pa = true → homeStack pa = st → Sparse.get 0 t.mem pa = 0) ∧
    (st ≠ s.activeStack → s.castling = none →
      t.stackTab = s.stackTab.set st Stack.reset ∧ t.mem = (s.zeroStack st).mem ∧ t.poison = (s.zeroStack st).poison ∧
      (k.enable = false → t.partitions = s.partitions ∧ t.contexts = s.contexts ∧ t.launches = s.launches))) ∧
  (st < 12 →
    ((state = 0 ∨ state = 6) →
      exec (.bootLoadConfig st false) s = .next (s.modStack st (fun t => { t with bootState := 1 }))) ∧
    (state ≠ 0 → state ≠ 6 → exec (.bootLoadConfig st false) s = .next s) ∧
    (state = 1 →
      (∀ lines, s.readImage st 2 k.bootArg.toNat = .wait lines →
        exec (.bootLoadConfig st true) s = .next (s.backInvalidate lines)) ∧
      (∀ code, s.readImage st 2 k.bootArg.toNat = .error code →
        exec (.bootLoadConfig st true) s = .next (s.modStack st (fun t => t.bootFails code))) ∧
      (∀ image, s.readImage st 2 k.bootArg.toNat = .ok image →
        let new := padded 2048 (Config.helper st)
        let data := if enrols st image then new else (section_ st image).take 2048
        (Config.seed st data = none →
          exec (.bootLoadConfig st true) s = .next (s.modStack st (fun t => t.bootFails 6))) ∧
        (∀ seed, Config.seed st data = some seed →
          let d := (sha256 (beBytes 32 seed.toNat)).toNat % (p256Order - 1) + 1
          exec (.bootLoadConfig st true) s = .next (s.modStack st (fun t =>
            let u := { t.takeConfig st image with secret := d, idpub := publicKey d, bootSince := t.now }
            if enrols st image then { u with helper := new, bootState := 5 } else { u with bootState := 2 }))))) ∧
    (state = 3 → exec (.bootLoadConfig st true) s = .next (s.modStack st (fun t =>
      { t with bootState := 4, sdMode := true, sdState := true }))) ∧
    (state ≠ 1 → state ≠ 3 → exec (.bootLoadConfig st true) s = .next s)) ∧
  (∀ done, 12 ≤ st → exec (.bootLoadConfig st done) s = .next s) ∧
  (∀ type pa, s.frozenFor st pa = false → s.snoopLines pa (imageBytes type (readBytes s.mem pa 192)) false = [] →
    let h := readBytes s.mem pa 192
    let size := imageBytes type h
    let image := readBytes s.mem pa size
    let shape := imageShapeOk type h = true ∧ imageReservedOk type h = true ∧
      (type = 2 → sectionOk (section_ st image) = true)
    let there := s.imageReadable st pa 192 = true ∧ s.imageReadable st pa size = true
    (¬ there → s.readImage st type pa = .error 1) ∧
    (there → ¬ shape → s.readImage st type pa = .error 2) ∧
    (there → shape → sha256 ((h.drop 64).take 64) ≠ Config.rootDigest → s.readImage st type pa = .error 3) ∧
    (there → shape → sha256 ((h.drop 64).take 64) = Config.rootDigest →
      s.readImage st type pa = if ecdsaVerifies ((image.drop 64).take 64) ((image.drop 128).take 64)
        (image.take 128 ++ image.drop 192) then .ok image else .error 4)) ∧
  (∀ keys, state = 2 → s.allKeys = some keys →
    exec (.idpubReceived st) s = .next (s.modStack st (fun t =>
      if sha256 keys = t.configDigest then { t.applyMap with bootState := 3 } else t.bootFails 5))) ∧
  ((state ≠ 2 ∨ s.allKeys = none) → exec (.idpubReceived st) s = .next s) ∧
  (state = 2 → s.allKeys = none →
    exec (.idpubTimeout st) s = .next (if k.bootSince + 100000000 ≤ k.now then
      s.modStack st (fun t => t.bootFails 5) else s)) ∧
  ((state ≠ 2 ∨ s.allKeys ≠ none) → exec (.idpubTimeout st) s = .next s) ∧
  (let pending := s.modStack st (fun t => { t with bootQuote := true, quote := [] })
    let sampled := fun (u : State) =>
      let body := u.quoteBody st
      u.modStack st (fun t => { t with
        quote := body ++ ecdsaSign t.secret ((List.range 8).map (Config.secret u.tick)) body })
    ((state = 4 ∨ state = 5) → k.bootQuote = false →
      (s.castling = none → exec (.bootProduceQuote st) s = .next (sampled pending)) ∧
      (s.castling ≠ none → exec (.bootProduceQuote st) s = .next pending)) ∧
    (((state ≠ 4 ∧ state ≠ 5) ∨ k.bootQuote = true) → exec (.bootProduceQuote st) s = .next s) ∧
    (∀ ok, k.bootQuote = false → exec (.quoteWriteComplete st ok) s = .next s) ∧
    (∀ ok, k.bootQuote = true → k.quote = [] →
      exec (.quoteWriteComplete st ok) s = .next (if s.castling = none then sampled s else s))) ∧
  (∀ ok, k.bootQuote = true → k.quote ≠ [] →
    let done := s.modStack st (fun t => { t with bootQuote := false, quote := [] })
    let pa := k.attArg.toNat
    let written := ok = true ∧ k.linkUp = true ∧ isLocal pa = false ∧ pa + 384 ≤ 2 ^ 52
    (s.frozenFor st pa = true → exec (.quoteWriteComplete st ok) s = .next s) ∧
    (s.frozenFor st pa = false → written → exec (.quoteWriteComplete st ok) s = .next (done.putDevice pa k.quote)) ∧
    (s.frozenFor st pa = false → ¬ written → exec (.quoteWriteComplete st ok) s = .next done))

/-- A place of the DRAM that decodes is corrected and counted when bits were in error; one that does not is rebuilt
from its parity group, which gives its contents back, or poisoned. A repair packet starts only for a stack of the
partition in the mode its op needs and with its index in range; a channel is rebuilt one j at a time, a layer is
mapped out with notice, loss of the range and a copy block by block. The governor takes the state with the largest cap
allowed and the refresh needed, heating at once and cooling one state after 100 ticks. What the DRAM gives is an
input, and corners of repair are the model's readings (assumptions 75 to 77, 102, 121). -/
def Obligations.RepairAndHeat : Prop :=
  (∀ (s : State) st blk errors,
    let t := s.stack st
    let c := blockChannel blk
    let loc := blockLoc blk
    let patrol := blk = t.patrolAt ∧ s.choose 72 2 = 1
    let u := if patrol then s.modStack st (fun k => if k.patrolAt + 1 < 2 ^ 27 then { k with patrolAt := k.patrolAt + 1 }
      else { k.count 0x018 1 with patrolAt := 0 }) else s
    let scrub := exec (.patrolScrub st blk errors) s
    let fails := fun use => u.undecoded errors st c loc (if patrol then 1 else 0) use
    (t.bootState ≠ 4 ∨ 2 ^ 27 ≤ blk → scrub = .next s) ∧
    (t.bootState = 4 → blk < 2 ^ 27 →
      (t.placeUse c loc = none → scrub = .next u) ∧
      (∀ use, t.placeUse c loc = some use →
        (t.leaving c loc = true → scrub = .next (if u.groupDecodes errors st c loc then u else fails use)) ∧
        (t.leaving c loc = false → u.placeDecodes errors st c loc = true → scrub = .next
          (if errorsAt errors c loc = [] then u else u.modStack st (fun k => k.count 0x000 1))) ∧
        (t.leaving c loc = false → u.placeDecodes errors st c loc = false → scrub = .next (fails use))))) ∧
  (∀ (s : State) errors st c loc cause b,
    (((s.stack st).repMode = 0 ∧ s.groupDecodes errors st c loc = true) → s.undecoded errors st c loc cause (.data b) =
      (((s.writeBack st b (s.rebuilt st c loc)).modStack st (fun k => k.count 0x008 1)).event 0x0201 st 0xFFFF
        (s.blockDetail st b))) ∧
    (¬ ((s.stack st).repMode = 0 ∧ s.groupDecodes errors st c loc = true) → s.undecoded errors st c loc cause (.data b) =
      s.poisonBlock st b cause)) ∧
  (∀ (s : State) st c loc, c < 32 → locK loc < 31 → blockChannel (blockAt c loc) = c ∧ blockLoc (blockAt c loc) = loc ∧
    s.rebuilt st c loc = s.block st (blockAt c loc)) ∧
  (∀ (s : State) k q, Worked s k q → q.mayStart = true → s.castling = none → pktKind q.packet = 42 →
    let i := q.consumed - 1
    let bs := q.packet
    let st := pkt bs 8 1
    let n := pkt bs 10 1
    let lo := st * 0x1000000000 + 0xF00000000
    let out := (s.dropRange lo (lo + 2 ^ 31)).modStack st (fun t => { t with capacity := 0xF00000000, mapCopied := 0 })
    (∀ e ∈ ([(.rebuildChannel k, 1, 0, 32), (.beginLayerMapOut k, 2, 0, 16), (.confirmLayerRemoval k, 3, 3, 1)]
        : List (Instr × Nat × Nat × Nat)),
      (pkt bs 9 1 ≠ e.2.1 → PacketBegins e.1 s k i (.blocked s)) ∧
      (pkt bs 9 1 = e.2.1 → ((s.members (s.queuePartition q)).contains st = false ∨ (s.stack st).repMode ≠ e.2.2.1 ∨
        e.2.2.2 ≤ n ∨ pkt bs 11 1 ≠ 0) → PacketBegins e.1 s k i (.error 5 0))) ∧
    ((s.members (s.queuePartition q)).contains st = true → pkt bs 11 1 = 0 →
      (pkt bs 9 1 = 1 → (s.stack st).repMode = 0 → n < 32 → PacketBegins (.rebuildChannel k) s k i
        (.running (s.modStack st (fun t => { t with
          repMode := 1, repChannel := n, cursor := 0, poisonedBlocks := 0, repairQueue := some (k, i) })))) ∧
      (pkt bs 9 1 = 2 → (s.stack st).repMode = 0 → n < 16 → PacketBegins (.beginLayerMapOut k) s k i
        (.done ((s.modStack st (fun t => { t with repMode := 3, repLayer := n })).event 0x0207 st 0xFFFF
          (natLe 8 n ++ natLe 8 lo ++ natLe 8 (lo + 0x7FFFFFFF))))) ∧
      (pkt bs 9 1 = 3 → (s.stack st).repMode = 3 → n = 0 → (s.stack st).repairQueue = none →
        PacketBegins (.confirmLayerRemoval k) s k i (if (s.stack st).repLayer = 15 then .done (out.mappedOut st)
          else .running (out.modStack st (fun t => { t with repairQueue := some (k, i) })))) ∧
      (pkt bs 9 1 = 3 → (s.stack st).repMode = 3 → n = 0 → (s.stack st).repairQueue ≠ none →
        PacketBegins (.confirmLayerRemoval k) s k i (.blocked s)))) ∧
  (∀ (s : State) st errors,
    let t := s.stack st
    let lost := s.lostBlocks errors st t.repChannel t.cursor
    let moved := lost.foldl (fun (u : State) b => u.poisonBlock st b 2)
      ((s.moveBlocks errors st t.repChannel t.cursor).modStack st (fun k =>
        { k with cursor := t.cursor + 1, poisonedBlocks := k.poisonedBlocks + lost.length }))
    let ended := moved.modStack st (fun k => { k with repMode := 2, cursor := 0 })
    (t.repMode ≠ 1 → exec (.rebuildStep st errors) s = .next s) ∧
    (t.repMode = 1 → t.cursor + 1 < 2 ^ 17 → exec (.rebuildStep st errors) s = .next moved) ∧
    (t.repMode = 1 → 2 ^ 17 ≤ t.cursor + 1 → exec (.rebuildStep st errors) s =
      .next ((ended.event 0x0205 st 0xFFFF (natLe 4 t.repChannel ++ natLe 4 (ended.stack st).poisonedBlocks)).repairDone st))) ∧
  (∀ (s : State) st errors,
    let t := s.stack st
    let b := layerBlock t.repLayer t.mapCopied
    let u := if s.placeDecodes errors st (blockChannel b) (blockLoc b) then s else s.poisonBlock st b 3
    let copied := u.modStack st (fun k => { k with mapCopied := t.mapCopied + 1 })
    ((t.repMode ≠ 3 ∨ t.repairQueue = none) → exec (.mapOutCopyStep st errors) s = .next s) ∧
    (t.repMode = 3 → t.repairQueue ≠ none → exec (.mapOutCopyStep st errors) s =
      .next (if t.mapCopied + 1 < 2 ^ 23 then copied else (copied.mappedOut st).repairDone st))) ∧
  (∀ cap ∈ [100, 90, 75, 50, 25], ∀ need ∈ [1, 2, 4], ∃ x, heatStates[heatTarget cap need]? = some x ∧
    x.1 ≤ cap ∧ need ≤ x.2 ∧ ∀ y ∈ heatStates, y.1 ≤ cap → need ≤ y.2 → y.1 < x.1 ∨ (y.1 = x.1 ∧ x.2 ≤ y.2)) ∧
  (∀ (s : State) st td tl, st < s.stackTab.length →
    let k := s.stack st
    let target := heatTarget (heatCap k.policy (sInt 16 td) (sInt 16 tl)) (heatNeed (sInt 16 td))
    let new := if k.heat < target then target else if target < k.heat ∧ 100 ≤ k.coolRuns + 1 then k.heat - 1 else k.heat
    let runs := if target < k.heat ∧ k.coolRuns + 1 < 100 then k.coolRuns + 1 else 0
    (k.now < k.governorAt + 100000 → exec (.governorTick st td tl) s = .next s) ∧
    (k.governorAt + 100000 ≤ k.now →
      let t := s.modStack st (fun x => { x.count (0x020 + 8 * k.heat) 100 with
        td := sInt 16 td, tl := sInt 16 tl, heat := new, coolRuns := runs, governorAt := k.governorAt + 100000 })
      let detail := natLe 1 k.heat ++ natLe 1 new ++ natLe 2 td ++ natLe 2 tl
      exec (.governorTick st td tl) s = .next (if new = k.heat then t
        else if new = 7 then (t.event 0x0209 st 0xFFFF detail).event 0x020A st 0xFFFF detail
        else t.event 0x0209 st 0xFFFF detail)))

/-- A link that goes down, or a viral indication, fails what was sent on the port; one access that times out fails
alone: a load lands as 0 and marked, a store or atomic is acknowledged with an event, an engine's read stays
unanswered, and a host copy or the data of a dirty line is lost. Only the running active complex freezes and unfreezes
sending: what was not sent returns and goes again by the routes that stand then, with an event once no stack is
frozen. The first exchange steps the clock forward, runs of good and bad ones move its state, 16 ms without one is
holdover, and locked clocks stay within 100 ns of each other. The host reaches its windows alone, and its snoops and
responses give up copies. Free bytes, the filter's size, the number of events and which requests return are the
model's choices (assumptions 32 to 36, 88, 117, 122). -/
def Obligations.LinksRoutesAndTime : Prop :=
  ∀ (s : State) (st : Nat),
  let k := s.stack st
  (∀ e ∈ ([.linkDown st, .viralReceived st] : List Instr),
    (k.linkUp = true → st < 12 → exec e s = .next (s.failPort st)) ∧
    ((k.linkUp = false ∨ 12 ≤ st) → exec e s = .next s)) ∧
  (∀ (v : Wave) which, (v.failLoads which).loads = v.loads.filter (fun p => !which p)) ∧
  exec (.linkUp st) s = .next (s.modStack st (fun t => { t with linkUp := true })) ∧
  (∀ g w v n p, s.wave g w = some v → v.loads[n]? = some p →
    ((p.port ≠ none ∧ p.returned = false) → exec (.completionTimeout (.load g w n)) s = .next (s.setWave g w (v.landLoad n
      { p with writes := p.writes.map (fun (x : RegWrite) => { x with val := 0, mark := true }) }))) ∧
    ((p.port = none ∨ p.returned = true) → exec (.completionTimeout (.load g w n)) s = .next s)) ∧
  (∀ g w v n p, s.wave g w = some v → v.stores[n]? = some p →
    (∀ port, p.port = some port → p.returned = false → exec (.completionTimeout (.store g w n)) s = .next
      ((s.setWave g w { v with stores := v.stores.eraseIdx n }).failBytes port p.pa p.size)) ∧
    ((p.port = none ∨ p.returned = true) → exec (.completionTimeout (.store g w n)) s = .next s)) ∧
  (∀ port pa size, ∃ u : State, s.failBytes port pa size = u.event 0x0222 port 0xFFFF (natLe 8 pa ++ natLe 1 port) ∧
    ∀ a, (a < pa ∨ pa + size ≤ a) → Sparse.get 0 u.mem a = Sparse.get 0 s.mem a) ∧
  (∀ n x, aget s.commands n = some x → exec (.completionTimeout (.engine n)) s = .next { s with
    commands := amod s.commands n (fun y => { y with late := y.late || y.state == .started }) }) ∧
  (∀ n, (∀ l, s.devLines.find? (fun l => l.line == n && l.dirty) = some l → exec (.completionTimeout (.line n)) s =
      .next (({ s with devLines := s.devLines.filter (fun x => x != l) } : State).failBytes ((s.lineEgress l).getD 0)
        (128 * l.line) 128)) ∧
    (s.devLines.find? (fun l => l.line == n && l.dirty) = none → exec (.completionTimeout (.line n)) s = .next s)) ∧
  (∀ line, (∀ y, k.snoops.find? (fun y => y.line == line && y.waiting) = some y →
      exec (.completionTimeout (.snoop st line)) s = .next (s.loseCopy st y)) ∧
    (k.snoops.find? (fun y => y.line == line && y.waiting) = none →
      exec (.completionTimeout (.snoop st line)) s = .next s)) ∧
  (s.complexRuns = true → k.bootState = 4 →
    exec (.routeFreeze st) s = .next ((if k.freeze then s else s.returnRequests st).modStack st (fun t =>
      { t with freeze := true, frozen := true })) ∧
    (k.freeze = true → ∀ old,
      let t := (s.modStack st (fun t => { t with freeze := false, frozen := false })).resendRequests st
      ((∃ x ∈ t.stackTab, x.freeze = true) → exec (.routeUnfreeze st old) s = .next t) ∧
      ((∀ x ∈ t.stackTab, x.freeze = false) → exec (.routeUnfreeze st old) s =
        .next (t.event 0x0005 s.activeStack 0xFFFF (natLe 1 old)))) ∧
    (k.freeze = false → ∀ old, exec (.routeUnfreeze st old) s = .next s)) ∧
  ((s.complexRuns = false ∨ k.bootState ≠ 4) →
    exec (.routeFreeze st) s = .next s ∧ ∀ old, exec (.routeUnfreeze st old) s = .next s) ∧
  (∀ master : Nat, k.exchanges = false → exec (.ptmExchange st master) s = .next s) ∧
  (∀ master : Nat, k.exchanges = true →
    let m := max s.master master
    let offset : Int := (m : Int) - (k.now : Int)
    let good := decide (offset.natAbs ≤ 50)
    let goods := if good then k.goodRun + 1 else 0
    let bads := if good then 0 else k.badRun + 1
    let first := k.timeState = 0
    let now := if first then max k.now m else k.now
    let old := if first then 1 else k.timeState
    let new := if (old = 1 ∨ old = 3) ∧ 8 ≤ goods ∧ s.nearLocked now = true then 2 else if old = 2 ∧ 4 ≤ bads then 3 else old
    let t := ({ s with master := m } : State).modStack st (fun x => { x with
      now := now, timeOffset := saturated offset, lastExchange := now, timeState := new
      goodRun := if new = old then goods else 0, badRun := if new = old then bads else 0 })
    exec (.ptmExchange st master) s = .next (t.timeEvent st k.timeState)) ∧
  (exec (.ptmHoldoverTimeout st) s = .next (if k.timeState = 2 ∧ k.lastExchange + 16000000 ≤ k.now then
    (s.modStack st (fun t => { t with timeState := 3, goodRun := 0, badRun := 0 })).timeEvent st 2 else s)) ∧
  (s.clocksAgree = true → s.tickClocks.clocksAgree = true) ∧
  (∀ wr own addr size data poison,
    let event := exec (.hostMemRequest st wr own addr size data poison) s
    ((k.linkUp = false ∨ 12 ≤ st ∨ size = 0 ∨ 128 < addr % 128 + size) → event = .next s) ∧
    (k.linkUp = true → st < 12 → 0 < size → addr % 128 + size ≤ 128 →
      let keeps := wr = false ∨ own = true
      (s.hostMay st addr size = false →
        event = .next (s.event 0x0220 st 0xFFFF (natLe 8 addr ++ natLe 1 (if wr then 1 else 0)))) ∧
      (s.hostMay st addr size = true → keeps → s.filterFull st (addr / 128) = true →
        event = .next (s.backInvalidate ((k.snoops.take 1).map (fun x => x.line)))) ∧
      (s.hostMay st addr size = true → ¬ (keeps ∧ s.filterFull st (addr / 128) = true) →
        event = .next ((if wr then s.hostWrite addr (natLe size data) poison 2 else s.hostRead addr size).modStack st
          (fun t => { t with snoops := t.snoops.filter (fun x => x.line != addr / 128) ++
            (if keeps then [⟨addr / 128, own && !wr, false⟩] else []) }))))) ∧
  (∀ line dirty data poison, k.linkUp = true → (∃ x ∈ k.snoops, x.line = line ∧ x.waiting = true) →
    let t := s.modStack st (fun x => { x with snoops := x.snoops.filter (fun y => y.line != line) })
    exec (.backInvalidationResponse st line dirty data poison) s =
      .next (if dirty then t.hostWrite (128 * line) (natLe 128 data) poison 2 else t)) ∧
  (∀ line dirty data poison, (k.linkUp = false ∨ ∀ x ∈ k.snoops, ¬ (x.line = line ∧ x.waiting = true)) →
    exec (.backInvalidationResponse st line dirty data poison) s = .next s) ∧
  (∀ line inv off size data poison, k.linkUp = false → exec (.hostSnoop st line inv off size data poison) s = .next s) ∧
  (∀ line off size data poison, k.linkUp = true →
    let gone : State := { s with
      devLines := s.devLines.filter (fun l => !(l.line == line && s.lineEgress l == some st)) }
    let writes := 0 < size ∧ off + size ≤ 128 ∧ isLocal (128 * line) = false ∧ 128 * line < 2 ^ 52 ∧
      ∀ l ∈ gone.devLines, l.line ≠ line
    (writes → exec (.hostSnoop st line true off size data poison) s =
      .next (gone.hostWrite (128 * line + off) (natLe size data) poison 4)) ∧
    (¬ writes → exec (.hostSnoop st line true off size data poison) s = .next gone) ∧
    exec (.hostSnoop st line false off size data poison) s = .next { s with
      devLines := s.devLines.map (fun l => if l.line == line && s.lineEgress l == some st then
        { l with copies := l.copies.map (fun c => (c.1, Moesi.s)) } else l) })
end

