-- ==== Sys2Proof/Laws/Memory.lean ====
section
/-! SUPPORT. Tables, bytes and poison: a read after a write, the canonical form that every write keeps, and what a write
leaves alone. -/
namespace Sys2Proof.Machine

variable {α : Type} [DecidableEq α]

/-! ### Tables -/

omit [DecidableEq α] in
theorem Sparse.get_insert_same (dflt v : α) (m : Sparse α) (k : Nat) (h : ∀ p ∈ m, p.1 ≠ k) :
    Sparse.get dflt (Sparse.insert k v m) k = v := by
  induction m with
  | nil => simp [Sparse.insert, Sparse.get]
  | cons p m ih =>
    obtain ⟨a, w⟩ := p
    have ha : a ≠ k := h (a, w) (by simp)
    unfold Sparse.insert
    split
    · simp [Sparse.get]
    · simp only [Sparse.get, ha, if_false]
      exact ih (fun q hq => h q (List.mem_cons_of_mem _ hq))

omit [DecidableEq α] in
theorem Sparse.get_insert_other (dflt v : α) (m : Sparse α) (k j : Nat) (h : j ≠ k) :
    Sparse.get dflt (Sparse.insert k v m) j = Sparse.get dflt m j := by
  induction m with
  | nil => simp [Sparse.insert, Sparse.get, Ne.symm h]
  | cons p m ih =>
    obtain ⟨a, w⟩ := p
    unfold Sparse.insert
    split
    · simp [Sparse.get, Ne.symm h]
    · simp only [Sparse.get, ih]

omit [DecidableEq α] in
theorem Sparse.get_filter_same (dflt : α) (m : Sparse α) (k : Nat) :
    Sparse.get dflt (m.filter (fun p => p.1 ≠ k)) k = dflt := by
  induction m with
  | nil => rfl
  | cons p m ih =>
    obtain ⟨a, w⟩ := p
    by_cases h : a = k
    · simpa [h] using ih
    · simpa [List.filter_cons, h, Sparse.get] using ih

omit [DecidableEq α] in
theorem Sparse.get_filter_other (dflt : α) (m : Sparse α) (k j : Nat) (h : j ≠ k) :
    Sparse.get dflt (m.filter (fun p => p.1 ≠ k)) j = Sparse.get dflt m j := by
  induction m with
  | nil => rfl
  | cons p m ih =>
    obtain ⟨a, w⟩ := p
    by_cases hk : a = k
    · have : a ≠ j := fun e => h (e ▸ hk)
      simpa [hk, Sparse.get, Ne.symm h] using ih
    · simp only [ne_eq, hk, not_false_eq_true, decide_true, List.filter_cons_of_pos, Sparse.get]
      rw [← ih]

/-- A read of the key just written. -/
@[simp] theorem Sparse.get_set_same (dflt v : α) (m : Sparse α) (k : Nat) :
    Sparse.get dflt (Sparse.set dflt m k v) k = v := by
  unfold Sparse.set
  by_cases h : v = dflt
  · simpa [h] using Sparse.get_filter_same dflt m k
  · simp only [h, if_false]
    exact Sparse.get_insert_same _ _ _ _ (fun p hp => by simpa using (List.mem_filter.mp hp).2)

/-- A read of another key. -/
theorem Sparse.get_set_other (dflt v : α) (m : Sparse α) (k j : Nat) (h : j ≠ k) :
    Sparse.get dflt (Sparse.set dflt m k v) j = Sparse.get dflt m j := by
  unfold Sparse.set
  split
  · exact Sparse.get_filter_other _ _ _ _ h
  · rw [Sparse.get_insert_other _ _ _ _ _ h, Sparse.get_filter_other _ _ _ _ h]

/-- Both at once. -/
theorem Sparse.get_set (dflt v : α) (m : Sparse α) (k j : Nat) :
    Sparse.get dflt (Sparse.set dflt m k v) j = if j = k then v else Sparse.get dflt m j := by
  by_cases h : j = k
  · simp [h]
  · simp [h, Sparse.get_set_other]

omit [DecidableEq α] in
theorem Sparse.mem_insert (v : α) (m : Sparse α) (k : Nat) (p : Nat × α) :
    p ∈ Sparse.insert k v m ↔ p = (k, v) ∨ p ∈ m := by
  induction m with
  | nil => simp [Sparse.insert]
  | cons q m ih =>
    obtain ⟨a, w⟩ := q
    unfold Sparse.insert
    split
    · simp
    · simp only [List.mem_cons, ih]
      exact or_left_comm

omit [DecidableEq α] in
theorem Sparse.insert_pairwise (v : α) (m : Sparse α) (k : Nat) (hk : ∀ p ∈ m, p.1 ≠ k)
    (h : m.Pairwise (fun p q => p.1 < q.1)) : (Sparse.insert k v m).Pairwise (fun p q => p.1 < q.1) := by
  induction m with
  | nil => simp [Sparse.insert]
  | cons q m ih =>
    obtain ⟨a, w⟩ := q
    rw [List.pairwise_cons] at h
    unfold Sparse.insert
    split
    · rename_i hlt
      refine List.pairwise_cons.mpr ⟨?_, List.pairwise_cons.mpr h⟩
      intro p hp
      rcases List.mem_cons.mp hp with rfl | hp
      · exact hlt
      · exact Nat.lt_trans hlt (h.1 p hp)
    · rename_i hle
      refine List.pairwise_cons.mpr ⟨?_, ih (fun p hp => hk p (List.mem_cons_of_mem _ hp)) h.2⟩
      intro p hp
      rcases (Sparse.mem_insert v m k p).mp hp with rfl | hp
      · have : a ≠ k := hk (a, w) (by simp)
        show a < k
        omega
      · exact h.1 p hp

theorem Sparse.wf_iff (dflt : α) (m : Sparse α) :
    Sparse.wf dflt m = true ↔ m.Pairwise (fun p q => p.1 < q.1) ∧ ∀ p ∈ m, p.2 ≠ dflt := by
  simp [Sparse.wf]

/-- Dropping keys keeps the canonical form. -/
theorem Sparse.wf_filter (dflt : α) (m : Sparse α) (f : Nat × α → Bool) (h : Sparse.wf dflt m = true) :
    Sparse.wf dflt (m.filter f) = true := by
  rw [Sparse.wf_iff] at h ⊢
  exact ⟨h.1.filter f, fun p hp => h.2 p (List.mem_filter.mp hp).1⟩

/-- A write keeps the canonical form. -/
theorem Sparse.wf_set (dflt v : α) (m : Sparse α) (k : Nat) (h : Sparse.wf dflt m = true) :
    Sparse.wf dflt (Sparse.set dflt m k v) = true := by
  unfold Sparse.set
  split
  · exact Sparse.wf_filter dflt m _ h
  · rename_i hv
    have hf := (Sparse.wf_iff _ _).mp (Sparse.wf_filter dflt m (fun p => decide (p.1 ≠ k)) h)
    refine (Sparse.wf_iff _ _).mpr ⟨Sparse.insert_pairwise _ _ _ ?_ hf.1, ?_⟩
    · intro p hp
      simpa using (List.mem_filter.mp hp).2
    · intro p hp
      rcases (Sparse.mem_insert _ _ _ _).mp hp with rfl | hp
      · exact hv
      · exact hf.2 p hp

/-! ### Bytes -/

/-- A write of bytes keeps the canonical form. -/
theorem writeBytes_wf (m : Sparse Byte) (a : Nat) (bs : List Byte) (h : Memory.wf m = true) :
    Memory.wf (writeBytes m a bs) = true := by
  induction bs generalizing m a with
  | nil => exact h
  | cons b bs ih => exact ih _ _ (Sparse.wf_set 0 b m a h)

/-- A byte outside the bytes written reads as before. -/
theorem get_writeBytes_other (m : Sparse Byte) (a x : Nat) (bs : List Byte) (h : x < a ∨ a + bs.length ≤ x) :
    Sparse.get 0 (writeBytes m a bs) x = Sparse.get 0 m x := by
  induction bs generalizing m a with
  | nil => rfl
  | cons b bs ih =>
    simp only [List.length_cons] at h
    unfold writeBytes
    rw [ih _ _ (by omega), Sparse.get_set_other _ _ _ _ _ (by omega)]

/-- A byte that was written reads as what was written. -/
theorem get_writeBytes_same (m : Sparse Byte) (a k : Nat) (bs : List Byte) (h : k < bs.length) :
    Sparse.get 0 (writeBytes m a bs) (a + k) = bs[k] := by
  induction bs generalizing m a k with
  | nil => simp at h
  | cons b bs ih =>
    unfold writeBytes
    cases k with
    | zero => rw [get_writeBytes_other _ _ _ _ (by omega)]; simp
    | succ k =>
      have := ih (Sparse.set 0 m a b) (a + 1) k (by simpa using h)
      rw [show a + (k + 1) = a + 1 + k by omega, this]
      simp

@[simp] theorem readBytes_length (m : Sparse Byte) (a n : Nat) : (readBytes m a n).length = n := by
  induction n generalizing a with
  | zero => rfl
  | succ n ih => simp [readBytes, ih]

/-- Reading back the bytes just written. -/
theorem readBytes_writeBytes_same (m : Sparse Byte) (a : Nat) (bs : List Byte) :
    readBytes (writeBytes m a bs) a bs.length = bs := by
  induction bs generalizing m a with
  | nil => rfl
  | cons b bs ih =>
    simp only [List.length_cons, readBytes, writeBytes]
    rw [get_writeBytes_other _ _ _ _ (by omega), Sparse.get_set_same, ih]

/-- Reading bytes that a write does not touch. -/
theorem readBytes_writeBytes_other (m : Sparse Byte) (a x n : Nat) (bs : List Byte)
    (h : x + n ≤ a ∨ a + bs.length ≤ x) : readBytes (writeBytes m a bs) x n = readBytes m x n := by
  induction n generalizing x with
  | zero => rfl
  | succ n ih =>
    simp only [readBytes]
    rw [get_writeBytes_other _ _ _ _ (by omega), ih _ (by omega)]

/-! ### Poison -/

/-- A store keeps the canonical form of poison marks. -/
theorem storePoison_wf (p : Sparse Bool) (a n : Nat) (mark : Bool) (h : Sparse.wf false p = true) :
    Sparse.wf false (storePoison p a n mark) = true := by
  unfold storePoison
  generalize sectors a n = secs
  induction secs generalizing p with
  | nil => exact h
  | cons x xs ih =>
    simp only [List.foldl_cons]
    refine ih _ ?_
    split
    · exact Sparse.wf_set _ _ _ _ h
    · split
      · exact Sparse.wf_set _ _ _ _ h
      · exact h

/-- A sector that a store does not touch keeps its poison. -/
theorem get_storePoison_other (p : Sparse Bool) (a n x : Nat) (mark : Bool) (h : x ∉ sectors a n) :
    Sparse.get false (storePoison p a n mark) x = Sparse.get false p x := by
  unfold storePoison
  revert h
  generalize sectors a n = secs
  intro h
  induction secs generalizing p with
  | nil => rfl
  | cons y ys ih =>
    simp only [List.mem_cons, not_or] at h
    simp only [List.foldl_cons]
    rw [ih _ h.2]
    split
    · exact Sparse.get_set_other _ _ _ _ _ h.1
    · split
      · exact Sparse.get_set_other _ _ _ _ _ h.1
      · rfl

/-- Setting the poison of one sector keeps the table canonical. -/
theorem setPoison_wf (p : Sparse Bool) (a : Nat) (mark : Option Bool) (h : Sparse.wf false p = true) :
    Sparse.wf false (setPoison p a mark) = true := by
  unfold setPoison; split
  · exact h
  · exact Sparse.wf_set _ _ _ _ h

end Sys2Proof.Machine
end

