-- ==== Sys2Proof/Laws/Issue.lean ====
section
/-! SUPPORT. What a word does once it issues to execution: one law for each shared shape of the meanings. -/
namespace Sys2Proof.Machine

/-- A word that executes has its effect. -/
theorem issueWord_go {i : Instr} {s : State} {c : Issue} (h : Executes i s c) (f : Issue → State) :
    issueWord i s f = .next (f c) := by
  unfold issueWord
  rw [show decideIssue i s = .go c from h]

theorem mapIdx_laneWise (lanes : List Lane) (f : Nat → Lane → Lane) (p : Nat → Lane → Lane → Prop)
    (h : ∀ n l, lanes[n]? = some l → p n l (f n l)) : LaneWise lanes (lanes.mapIdx f) p := by
  refine ⟨List.length_mapIdx, ?_⟩
  intro n l l' hl hl'
  rw [List.getElem?_mapIdx, hl] at hl'
  simp only [Option.map_some, Option.some.injEq] at hl'
  exact hl' ▸ h n l hl

/-- Writing a register or a pair, by what every register then holds. -/
theorem Lane.get_put (l : Lane) (wide : Bool) (d : Reg) (v : W64) (m : Bool) (r : Nat) :
    Sparse.get 0 (l.put wide d v m).regs r =
      if r = l.arch d.toNat then v.setWidth 32
      else if wide ∧ r = l.arch (d.toNat + 1) then v.extractLsb' 32 32
      else Sparse.get 0 l.regs r := by
  cases wide
  · simp [Lane.put, Lane.put32, Sparse.get_set]
  · simp only [Lane.put, Lane.put64, Lane.put32, Lane.arch, Sparse.get_set, if_true, true_and]
    split <;> split <;> first | rfl | omega

/-- The marks after that write. -/
theorem Lane.get_put_mark (l : Lane) (wide : Bool) (d : Reg) (v : W64) (m : Bool) (r : Nat) :
    Sparse.get false (l.put wide d v m).marks r =
      if r = l.arch d.toNat ∨ (wide ∧ r = l.arch (d.toNat + 1)) then m else Sparse.get false l.marks r := by
  cases wide
  · simp [Lane.put, Lane.put32, Sparse.get_set]
  · simp only [Lane.put, Lane.put64, Lane.put32, Lane.arch, Sparse.get_set, if_true, true_and]
    split <;> split <;> simp_all

/-- What a lane that takes a result becomes. -/
theorem Issue.take_took (c : Issue) (nw wide : Bool) (d : Reg) (v : W64) (m : Bool) (l : Lane) :
    Took c nw wide d v m l (c.take nw wide d v m l) := by
  refine ⟨?_, ?_, fun r => ?_, fun r => ?_⟩
  · cases hq : c.quiet <;> cases nw <;> cases wide <;> simp [Issue.take, hq, Lane.put, Lane.put64, Lane.put32, Lane.pushLatch]
  · cases hq : c.quiet <;> cases nw <;> cases wide <;> simp [Issue.take, hq, Lane.put, Lane.put64, Lane.put32, Lane.pushLatch]
  · cases hq : c.quiet <;> cases nw <;> simp only [Issue.take, hq, Lane.pushLatch, if_true, if_false, Bool.false_eq_true] <;>
      exact l.get_put ..
  · cases hq : c.quiet <;> cases nw <;> simp [Issue.take, hq, Lane.pushLatch, Lane.get_put_mark]

/-- The law of `Issue.valued`. -/
theorem valued_gives {i : Instr} {s : State} {c : Issue} {nw wide : Bool} {d : Reg} {f : Nat → Lane → W64 × Bool}
    (h : exec i s = .next (c.done i s (c.valued nw wide d f))) :
    GivesValue i s c nw wide d (fun n l => (f n l).1) (fun n l => (f n l).2) := by
  refine ⟨_, h, mapIdx_laneWise _ _ _ (fun n l _ => ?_)⟩
  by_cases hn : c.on n = true
  · simp only [hn, if_true]; exact c.take_took ..
  · by_cases hm : c.masked n = true <;> simp [hn, hm]

/-- The law of `lane32`. -/
theorem lane32_gives {i : Instr} {s : State} {c : Issue} (h : Executes i s c) {nw : Bool} {d : Reg} {f : Lane → W32}
    {m : Lane → Bool} (e : exec i s = lane32 i nw d f m s) : Gives32 i s c nw d f m :=
  valued_gives (e.trans (issueWord_go h _))

/-- The law of `lane64`. -/
theorem lane64_gives {i : Instr} {s : State} {c : Issue} (h : Executes i s c) {nw : Bool} {d : Reg} {f : Lane → W64}
    {m : Lane → Bool} (e : exec i s = lane64 i nw d f m s) : Gives64 i s c nw d f m :=
  valued_gives (e.trans (issueWord_go h _))

theorem has_setBit {w : Nat} (m : BitVec w) (k n : Nat) (v : Bool) (hk : k < w) :
    has (setBit m k v) n = if n = k then v else has m n := by
  unfold has setBit
  have hone : (BitVec.ofNat w 1 <<< k).getLsbD n = decide (n = k) := by
    rw [BitVec.getLsbD_shiftLeft, BitVec.getLsbD_ofNat]
    rcases Nat.lt_trichotomy n k with h | h | h
    · simp [h, Nat.ne_of_lt h]
    · subst h; simp; omega
    · have h1 : Nat.testBit 1 (n - k) = false := Nat.testBit_lt_two_pow (by
        have := Nat.one_lt_two_pow (n := n - k) (by omega); omega)
      simp [h1, Nat.ne_of_gt h]
  by_cases h : n = k
  · subst h
    cases v <;> simp [hone]
  · by_cases hn : n < w
    · cases v <;> simp [h, hn] <;> omega
    · cases v <;> simp [h, BitVec.getLsbD_of_ge _ _ (Nat.le_of_not_lt hn)]

/-- The law of writing a predicate. -/
theorem Lane.putPred_law (l : Lane) (q : BitVec 4) (v m : Bool) :
    l.putPred q v m = { l with preds := (l.putPred q v m).preds, predMarks := (l.putPred q v m).predMarks } ∧
    (∀ p : BitVec 4, p ≠ q → (l.putPred q v m).pred p = l.pred p ∧ (l.putPred q v m).predMark p = l.predMark p) ∧
    (q ≠ 0 → (l.putPred q v m).pred q = v ∧ (l.putPred q v m).predMark q = m) := by
  by_cases hq : q = 0
  · simp [hq, Lane.putPred]
  · replace hq : q ≠ 0#4 := hq
    refine ⟨by simp [Lane.putPred, hq], fun p hp => ?_, fun _ => ?_⟩
    · have : p.toNat ≠ q.toNat := fun e => hp (BitVec.eq_of_toNat_eq e)
      simp [Lane.putPred, hq, Lane.pred, Lane.predMark, has_setBit _ _ _ _ q.isLt, this]
    · simp [Lane.putPred, hq, Lane.pred, Lane.predMark, has_setBit _ _ _ _ q.isLt]

/-- The law of `lanePred`. -/
theorem lanePred_gives {i : Instr} {s : State} {c : Issue} (h : Executes i s c) {q : BitVec 4}
    {f m : Issue → Nat → Lane → Bool} (e : exec i s = lanePred i q f m s) : GivesPred i s c q (f c) (m c) := by
  refine ⟨_, e.trans (issueWord_go h _), mapIdx_laneWise _ _ _ (fun n l _ => ?_)⟩
  cases hn : c.on n
  · simp
  · obtain ⟨h1, h2, h3⟩ := l.putPred_law q (f c n l) (m c n l)
    exact ⟨h1, fun p hp => h2 p (hp.resolve_right (by simp)), fun _ => h3⟩

/-- The law of `uniform64`. -/
theorem uniform64_gives {i : Instr} {s : State} {c : Issue} (h : Executes i s c) {d : Reg} {f : WaveCore → W64}
    {m : WaveCore → Bool} (e : exec i s = uniform64 i d f m s) : GivesUniform i s c d f m := by
  have e' := e.trans (issueWord_go h _)
  cases ha : c.any
  · refine ⟨c.wave.core.s, c.wave.core.sMarks, ?_, by simp [ha], by simp [ha]⟩
    simpa [Issue.uniform, ha, Completes, Issue.done] using e'
  · refine ⟨Sparse.set 0 c.wave.core.s d.toNat (f c.wave.core), Sparse.set false c.wave.core.sMarks d.toNat (m c.wave.core),
      ?_, fun r => by simp [ha, Sparse.get_set], fun r => by simp [ha, Sparse.get_set]⟩
    simpa [Issue.uniform, ha, Completes, Issue.done, WaveCore.putUni] using e'

/-! ### Traps and floating-point words -/

/-- Bits gathered over a list of lanes. -/
theorem has_gather (p : Nat → Bool) (ns : List Nat) (h : ∀ n ∈ ns, n < 32) (m : BitVec 32) (n : Nat) :
    has (ns.foldl (fun m n => if p n then setBit m n true else m) m) n = (has m n || (ns.contains n && p n)) := by
  induction ns generalizing m with
  | nil => simp
  | cons k ks ih =>
    have hk : k < 32 := h k (by simp)
    simp only [List.foldl_cons]
    rw [ih (fun n hn => h n (by simp [hn]))]
    by_cases hp : p k = true
    · rw [if_pos hp, has_setBit _ _ _ _ hk]
      by_cases e : n = k
      · subst e; simp [hp]
      · simp [e]
    · rw [if_neg hp]
      by_cases e : n = k
      · subst e; simp [hp]
      · simp [e]

theorem mem_bitsOf (m : BitVec 32) (n : Nat) : n ∈ bitsOf m ↔ has m n = true := by
  simp only [bitsOf, List.mem_filter, List.mem_range]
  exact ⟨fun h => h.2, fun h => ⟨BitVec.lt_of_getLsbD h, h⟩⟩

/-- The lanes that trap are those that raise an exception they enable. -/
theorem Issue.has_fpTraps (c : Issue) (exc : Lane → Exc) (n : Nat) : has (c.fpTraps exc) n = Raises c exc n := by
  have := has_gather (fun n => exc (c.wave.core.lane n) &&& (c.wave.core.lane n).xenable != 0) (bitsOf c.active)
    (fun n hn => by simp only [bitsOf, List.mem_filter, List.mem_range] at hn; exact hn.1) 0 n
  rw [show has (0 : BitVec 32) n = false by simp [has], Bool.false_or] at this
  unfold Issue.fpTraps Raises
  refine this.trans ?_
  congr 1
  have e := mem_bitsOf c.active n
  cases h : has c.active n <;> simp_all [Issue.on]

theorem mask_eq_zero (m : BitVec 32) (h : ∀ n, has m n = false) : m = 0 :=
  BitVec.eq_of_getLsbD_eq fun n _ => by simpa [has] using h n

theorem mask_ne_zero {m : BitVec 32} (n : Nat) (h : has m n = true) : m ≠ 0 := fun e => by simp [e, has] at h

/-- The instruction marks no register as written by a Stall class. -/
def MarksNone (i : Instr) : Prop := ∀ core m, markStalls i core m = core

theorem marksNone_of_empty {i : Instr} (hv : (operands i).vw = []) (hu : (operands i).uw = []) (hp : (operands i).pw = []) :
    MarksNone i := by
  intro core m
  unfold markStalls
  split
  · have : (bitsOf m).flatMap (fun _ => ([] : List Nat)) = [] := by simp
    simp only [hv, hu, hp, List.flatMap_nil, this, List.foldl_nil]
  · rfl

/-- An instruction that is not of a Stall class marks no register. -/
theorem markStalls_of_not {i : Instr} (h : stallClass i = false) (core : WaveCore) (m : BitVec 32) :
    markStalls i core m = core := by simp [markStalls, h]

theorem WaveCore.lane_of {core : WaveCore} {n : Nat} {l : Lane} (h : core.lanes[n]? = some l) : core.lane n = l := by
  simp [WaveCore.lane, List.getD, h]

/-- An instruction that traps in no lane completes. -/
theorem Issue.finish_none (c : Issue) (i : Instr) (s0 s : State) (core : WaveCore) (why : Nat → Cause) (resume : W64) :
    c.finish i s0 s core 0 why resume = s.setWave c.g c.w (c.note s { c.wave with
      core := markStalls i { core with frontier := putEntry core.frontier c.k c.entry.next } c.active }) := by
  have e : c.entry.next.lanes &&& ~~~(0 : BitVec 32) = c.entry.next.lanes :=
    by
    rw [show ~~~(0 : BitVec 32) = BitVec.allOnes 32 from rfl, BitVec.and_allOnes]
  simp only [Issue.finish, Issue.finishAt, e, if_true]

/-- An instruction that traps in some lane where none can be recorded. -/
theorem Issue.finish_refused (c : Issue) (i : Instr) (s0 s : State) (core : WaveCore) {traps : BitVec 32}
    (ht : traps ≠ 0) (why : Nat → Cause) (resume : W64) :
    (c.wave.spec.isSome = true → c.finish i s0 s core traps why resume = c.specStall s0 0x0C8) ∧
    (c.wave.spec = none → core.handler = true →
      c.finish i s0 s core traps why resume = s0.raiseHalt (c.halt s0 reasonDoubleTrap 0 0 0)) := by
  simp only [Issue.finish, Issue.finishAt, ht, if_false]
  exact ⟨fun h => by simp [h], fun h h' => by simp [h, h']⟩

/-- An instruction that traps in the lanes of `traps`, which are recorded. -/
theorem Issue.finish_traps (c : Issue) {i : Instr} (hi : MarksNone i) (s0 s : State) (core : WaveCore)
    {traps : BitVec 32} (ht : traps ≠ 0) (why : Nat → Cause) (resume : W64) (hs : c.wave.spec = none)
    (hh : core.handler = false) :
    c.finish i s0 s core traps why resume = s.setWave c.g c.w (c.note s { c.wave with core := { core with
      lanes := core.lanes.mapIdx (fun n l => if has traps n then Recorded c n (why n) resume l else l)
      frontier := putEntry core.frontier c.k { c.entry.next with lanes := c.entry.lanes &&& ~~~traps }
      trapmask := core.trapmask ||| traps } }) := by
  simp only [Issue.finish, Issue.finishAt, ht, if_false, hs, hh, Option.isSome_none, Bool.false_eq_true,
    hi _ _, WaveCore.recordItems, WaveCore.mapLanes, Recorded, Entry.next]

theorem State.issuing_active {s : State} {c : Issue} (h : s.issuing = some c) : c.active = c.entry.active := by
  unfold State.issuing at h
  repeat' split at h
  all_goals first | (simp at h; done) | (simp only [Option.some.injEq] at h; subst h; rfl)

/-- The issue of a word that executes is the wave's as it issues. -/
theorem Executes.issues {i : Instr} {s : State} {c : Issue} (h : Executes i s c) :
    ∃ x, s.issuing = some x ∧ c = x.issues i := by
  unfold Executes decideIssue Issue.unlessSpec at h
  repeat' split at h
  all_goals first | (simp at h; done) | (simp only [Decision.go.injEq] at h; exact ⟨_, ‹_›, h.symm⟩)

/-- The lanes in which a word is active belong to its entry. -/
theorem Executes.active {i : Instr} {s : State} {c : Issue} (h : Executes i s c) : c.active = c.entry.active := by
  obtain ⟨x, hx, rfl⟩ := h.issues
  exact State.issuing_active (c := x) hx

theorem Executes.on_lanes {i : Instr} {s : State} {c : Issue} (h : Executes i s c) {n : Nat} (hn : c.on n = true) :
    has c.entry.lanes n = true := by
  rw [Issue.on, h.active, Entry.active] at hn
  split at hn
  · exact hn
  · simp only [has, BitVec.getLsbD_and, Bool.and_eq_true] at hn; exact hn.1

/-- What a lane that does not trap becomes. -/
def FpOut.lane (c : Issue) (nw wide : Bool) (d : Reg) (r : FpOut) (mark : Bool) (l : Lane) : Lane :=
  { c.take nw wide d r.val mark l with xflags := l.xflags ||| r.exc, seed := r.seed }

/-- The law of `fpLane`. -/
theorem fpLane_gives {i : Instr} {nw wide : Bool} {d : Reg} {f : Lane → FpOut} {m : Lane → Bool}
    (e : ∀ s, exec i s = fpLane i nw wide d f m s) (hi : stallClass i = false) : FloatWord i nw wide d f m := by
  intro s c h
  have h1 := (e s).trans (issueWord_go h _)
  have hm : ∀ n, c.on n = false → c.masked n = has c.entry.lanes n := fun n hn => by
    simp only [Issue.masked, Issue.on] at *; simp [hn]
  have took : ∀ l, TookFloat c nw wide d (f l) (m l) l (FpOut.lane c nw wide d (f l) (m l) l) :=
    fun l => ⟨_, c.take_took .., rfl⟩
  have lanesEq : (c.wave.core.mapLanes (fun n l =>
        if c.on n && !has (c.fpTraps (fun l => (f l).exc)) n then
          { c.take nw wide d (f l).val (m l) l with xflags := l.xflags ||| (f l).exc, seed := (f l).seed }
        else if has c.entry.lanes n then c.keep nw wide d l
        else l)) = { c.wave.core with lanes := c.wave.core.lanes.mapIdx (fun n l =>
          if c.on n && !has (c.fpTraps (fun l => (f l).exc)) n then FpOut.lane c nw wide d (f l) (m l) l
          else if has c.entry.lanes n then c.keep nw wide d l else l) } := rfl
  simp only [lanesEq] at h1
  refine ⟨fun hn => ?_, fun ⟨n, hn⟩ => ?_, fun ⟨n, hn⟩ hs hh => ?_⟩
  · have h0 : c.fpTraps (fun l => (f l).exc) = 0 := mask_eq_zero _ fun n => by rw [c.has_fpTraps, hn]
    rw [h0, c.finish_none] at h1
    refine ⟨_, h1, mapIdx_laneWise _ _ _ (fun n l hl => ?_)⟩
    cases ho : c.on n
    · simp only [hm n ho, Bool.false_and, Bool.false_eq_true, if_false]; split <;> rfl
    · simp only [has, BitVec.ofNat_eq_ofNat, BitVec.getLsbD_zero, Bool.not_false, Bool.and_self, if_true]; exact took l
  · have h0 : c.fpTraps (fun l => (f l).exc) ≠ 0 := mask_ne_zero n (by rw [c.has_fpTraps, hn])
    have := fun core => c.finish_refused i s s core h0 (fun n => causeArithmetic (f (c.wave.core.lane n)).exc) c.entry.pc
    exact ⟨fun hs => h1.trans (congrArg _ ((this _).1 hs)), fun hs hh => h1.trans (congrArg _ ((this _).2 hs hh))⟩
  · have h0 : c.fpTraps (fun l => (f l).exc) ≠ 0 := mask_ne_zero n (by rw [c.has_fpTraps, hn])
    rw [c.finish_traps (markStalls_of_not hi) s s _ h0 _ _ hs (by exact hh)] at h1
    simp only [List.mapIdx_mapIdx] at h1
    refine ⟨_, _, c.has_fpTraps _, h1, mapIdx_laneWise _ _ _ (fun n l hl => ?_)⟩
    simp only [Function.comp, WaveCore.lane_of hl]
    cases ht : has (c.fpTraps (fun l => (f l).exc)) n
    · cases ho : c.on n
      · simp only [hm n ho, Bool.false_and, Bool.false_eq_true, if_false]; split <;> rfl
      · simp only [Bool.not_false, Bool.and_self, if_true, if_false, Bool.false_eq_true]; exact took l
    · have ho : c.on n = true := by
        rw [c.has_fpTraps, Raises] at ht; simp only [Bool.and_eq_true] at ht; exact ht.1
      simp [ho, h.on_lanes ho]
end Sys2Proof.Machine
end

