-- ==== Sys2Proof/Laws/Transfer.lean ====
section
/-! SUPPORT. What a transfer of control does (R158): the law of `Issue.transfer`. -/
namespace Sys2Proof.Machine

/-- The mask of listed lanes. -/
theorem has_maskOf (ns : List Nat) (h : ∀ n ∈ ns, n < 32) (n : Nat) : has (maskOf ns) n = ns.contains n := by
  have := has_gather (fun _ => true) ns h 0 n
  simpa [maskOf, has] using this
theorem bitsOf_lt {m : BitVec 32} {n} (h : n ∈ bitsOf m) : n < 32 := by
  simp only [bitsOf, List.mem_filter, List.mem_range] at h; exact h.1

/-- What an entry that a transfer forms is: ready, unguarded, and of the lanes of `who` that go to its target. -/
def Entry.FormedOf (who : Nat → Bool) (goes : Nat → Option (W64 × BitVec 6)) (e : Entry) : Prop :=
  e.state = .ready ∧ e.guard = ⟨0, 0⟩ ∧ e.aside = false ∧ e.lanes ≠ 0 ∧
    ∀ n, has e.lanes n = (who n && goes n == some (e.pc, e.prio))

/-- The targets of the entries after a lane is added. -/
theorem addLane_keys (n : Nat) (pc : W64) (prio : BitVec 6) (k : W64 × BitVec 6) (es : List Entry) :
    (∃ e ∈ addLane n pc prio es, (e.pc, e.prio) = k) ↔ k = (pc, prio) ∨ ∃ e ∈ es, (e.pc, e.prio) = k := by
  induction es with
  | nil => simp [addLane, eq_comm]
  | cons x xs ih =>
    unfold addLane
    split
    · rename_i hx; simp only [Bool.and_eq_true, beq_iff_eq] at hx
      simp only [List.mem_cons, exists_eq_or_imp, hx.1, hx.2]
      constructor
      · rintro (h | h)
        · exact .inl h.symm
        · exact .inr (.inr h)
      · rintro (h | h | h)
        · exact .inl h.symm
        · exact .inl h
        · exact .inr h
    · simp only [List.mem_cons, exists_eq_or_imp, ih]
      constructor
      · rintro (h | h | h)
        · exact .inr (.inl h)
        · exact .inl h
        · exact .inr (.inr h)
      · rintro (h | h | h)
        · exact .inr (.inl h)
        · exact .inl h
        · exact .inr (.inr h)

/-- Adding a lane keeps what the entries are. -/
theorem addLane_formed {who : Nat → Bool} {goes : Nat → Option (W64 × BitVec 6)} {n : Nat} {pc : W64} {prio : BitVec 6}
    (hn : n < 32) (hg : goes n = some (pc, prio)) (es : List Entry)
    (hp : es.Pairwise (fun e f => (e.pc, e.prio) ≠ (f.pc, f.prio))) (he : ∀ e ∈ es, e.FormedOf who goes)
    (hc : ∀ m, who m = true → goes m = some (pc, prio) → ∃ e ∈ es, (e.pc, e.prio) = (pc, prio)) :
    (addLane n pc prio es).Pairwise (fun e f => (e.pc, e.prio) ≠ (f.pc, f.prio)) ∧
      ∀ e ∈ addLane n pc prio es, e.FormedOf (fun m => m == n || who m) goes := by
  induction es with
  | nil =>
    refine ⟨by simp [addLane], ?_⟩
    intro e h
    simp only [addLane, List.mem_singleton] at h
    subst h
    refine ⟨rfl, rfl, rfl, mask_ne_zero n (by rw [has_setBit _ _ _ _ hn]; simp), fun m => ?_⟩
    rw [has_setBit _ _ _ _ hn]
    by_cases e : m = n
    · subst e; simp [hg]
    · have : ¬(who m = true ∧ goes m = some (pc, prio)) := fun ⟨h1, h2⟩ => by simpa using hc m h1 h2
      simp [e, has]; simpa using this
  | cons x xs ih =>
    have hx := he x (by simp)
    rw [List.pairwise_cons] at hp
    unfold addLane
    split
    · rename_i hk; simp only [Bool.and_eq_true, beq_iff_eq] at hk
      refine ⟨List.pairwise_cons.2 ⟨hp.1, hp.2⟩, fun e h => ?_⟩
      rcases List.mem_cons.1 h with rfl | h
      · refine ⟨hx.1, hx.2.1, hx.2.2.1, mask_ne_zero n (by rw [has_setBit _ _ _ _ hn]; simp), fun m => ?_⟩
        simp only [has_setBit _ _ _ _ hn, hx.2.2.2.2 m]
        by_cases e : m = n
        · subst e; simp [hg, hk.1, hk.2]
        · rw [if_neg e, show (m == n) = false by simpa using e, Bool.false_or]
      · have h1 := he e (by simp [h])
        refine ⟨h1.1, h1.2.1, h1.2.2.1, h1.2.2.2.1, fun m => ?_⟩
        rw [h1.2.2.2.2 m]
        by_cases e' : m = n
        · have : (goes m == some (e.pc, e.prio)) = false := beq_eq_false_iff_ne.2 fun h2 => by
            rw [e', hg] at h2; simp only [Option.some.injEq] at h2
            exact hp.1 e h (by rw [hk.1, hk.2]; exact h2)
          dsimp only; rw [this, Bool.and_false, Bool.and_false]
        · dsimp only; rw [show (m == n) = false by simpa using e', Bool.false_or]
    · rename_i hk; simp only [Bool.and_eq_true, beq_iff_eq] at hk
      have hkx : ¬ (x.pc, x.prio) = (pc, prio) := fun h => hk (by simpa using h)
      obtain ⟨h1, h2⟩ := ih hp.2 (fun e h => he e (by simp [h])) (fun m hm hgm => by
        obtain ⟨e, h, h'⟩ := hc m hm hgm
        rcases List.mem_cons.1 h with rfl | h
        · exact absurd h' hkx
        · exact ⟨e, h, h'⟩)
      refine ⟨List.pairwise_cons.2 ⟨fun f hf => ?_, h1⟩, fun e h => ?_⟩
      · intro h
        rcases (addLane_keys n pc prio (x.pc, x.prio) xs).1 ⟨f, hf, h.symm⟩ with h | ⟨f', hf', h⟩
        · exact hkx h
        · exact hp.1 f' hf' h.symm
      · rcases List.mem_cons.1 h with rfl | h
        · refine ⟨hx.1, hx.2.1, hx.2.2.1, hx.2.2.2.1, fun m => ?_⟩
          rw [hx.2.2.2.2 m]
          by_cases e' : m = n
          · have : (goes m == some (e.pc, e.prio)) = false := beq_eq_false_iff_ne.2 fun h2 => by
              rw [e', hg] at h2; simp only [Option.some.injEq] at h2; exact hkx h2.symm
            dsimp only; rw [this, Bool.and_false, Bool.and_false]
          · dsimp only; rw [show (m == n) = false by simpa using e', Bool.false_or]
        · exact h2 e h

/-- The entries that a transfer's lanes form, lane after lane. -/
theorem formed_law (goes : Nat → Option (W64 × BitVec 6)) (ns : List Nat) (h : ∀ n ∈ ns, n < 32) :
    let es := (ns.map (fun n => (n, (match goes n with | some x => Goes.to x.1 x.2 | none => .trap)))).foldl
      (fun acc m => match m.2 with | .to pc p => addLane m.1 pc p acc | .trap => acc) []
    es.Pairwise (fun e f => (e.pc, e.prio) ≠ (f.pc, f.prio)) ∧ (∀ e ∈ es, e.FormedOf (fun n => ns.contains n) goes) ∧
      ∀ n ∈ ns, ∀ k, goes n = some k → ∃ e ∈ es, (e.pc, e.prio) = k := by
  rw [← List.reverse_reverse ns] at h ⊢
  generalize ns.reverse = rs at h
  induction rs with
  | nil => simp
  | cons n rs ih =>
    obtain ⟨h1, h2, h3⟩ := ih (fun m hm => h m (by simp_all))
    have hn : n < 32 := h n (by simp)
    have e : ∀ m, ((n :: rs).reverse.contains m) = (m == n || rs.reverse.contains m) := by
      intro m; rw [Bool.eq_iff_iff]; simp [Or.comm]
    simp only [List.reverse_cons, List.map_append, List.map_cons, List.map_nil, List.foldl_append, List.foldl_cons,
      List.foldl_nil]
    simp only [List.reverse_cons] at e
    cases hg : goes n with
    | none =>
      simp only
      refine ⟨h1, fun x hx => ?_, fun m hm k hk => ?_⟩
      · obtain ⟨a1, a2, a3, a4, a5⟩ := h2 x hx
        refine ⟨a1, a2, a3, a4, fun m => ?_⟩
        rw [a5]; dsimp only; rw [e]
        by_cases hm : m = n
        · simp [hm, hg]
        · rw [show (m == n) = false by simpa using hm, Bool.false_or]
      · simp only [List.mem_append, List.mem_singleton] at hm
        rcases hm with hm | rfl
        · exact h3 m hm k hk
        · rw [hg] at hk; simp at hk
    | some x =>
      simp only
      obtain ⟨b1, b2⟩ := addLane_formed (who := fun m => rs.reverse.contains m) hn hg _ h1 h2 (fun m hm hgm => by
        exact h3 m (by simpa using hm) x hgm)
      refine ⟨b1, fun y hy => ?_, fun m hm k hk => ?_⟩
      · obtain ⟨a1, a2, a3, a4, a5⟩ := b2 y hy
        exact ⟨a1, a2, a3, a4, fun m => by rw [a5]; dsimp only; rw [e]⟩
      · rw [addLane_keys]
        simp only [List.mem_append, List.mem_singleton] at hm
        rcases hm with hm | rfl
        · exact .inr (h3 m hm k hk)
        · rw [hg] at hk; exact .inl (by simpa using hk.symm)
/-- Two changes that agree on the lanes of a wave. -/
theorem mapIdx_congr {lanes : List Lane} {f g : Nat → Lane → Lane} (h : ∀ n l, lanes[n]? = some l → f n l = g n l) :
    lanes.mapIdx f = lanes.mapIdx g := by
  apply List.ext_getElem?
  intro n
  simp only [List.getElem?_mapIdx]
  cases hl : lanes[n]? with
  | none => rfl
  | some l => simp [h n l hl]

/-- The law of a transfer (R158). -/
theorem transfer_gives {i : Instr} {s : State} {c : Issue} (hi : MarksNone i)
    (goes : Nat → Option (W64 × BitVec 6)) (change : Nat → Lane → Lane)
    (e : exec i s = .next (c.transfer i s
      (c.wave.core.mapLanes (fun n l => if c.on n && (goes n).isSome then change n l else l))
      (fun n => match goes n with | some x => .to x.1 x.2 | none => .trap)))
    (keep : ∀ n l, c.wave.core.lanes[n]? = some l → goes n = none → change n l = l) : Transfers i s c goes change := by
  have hl : ∀ n ∈ bitsOf c.active, n < 32 := fun n h => bitsOf_lt h
  obtain ⟨h1, h2, h3⟩ := formed_law goes (bitsOf c.active) hl
  have ho : ∀ n, (bitsOf c.active).contains n = c.on n := by
    intro n; rw [Bool.eq_iff_iff]; simp [mem_bitsOf, Issue.on]
  have ht : ∀ n, has (maskOf (((bitsOf c.active).map (fun n => (n, (match goes n with | some x => Goes.to x.1 x.2 | none => .trap)))).filterMap
      (fun m => match m.2 with | .trap => some m.1 | _ => none))) n = (c.on n && (goes n).isNone) := by
    intro n
    rw [has_maskOf]
    · rw [Bool.eq_iff_iff]
      simp only [List.contains_iff_mem, List.mem_filterMap, List.mem_map, Bool.and_eq_true]
      constructor
      · rintro ⟨_, ⟨m, hm, rfl⟩, h⟩
        cases hg : goes m with
        | some x => simp [hg] at h
        | none => simp only [hg, Option.some.injEq] at h; subst h; exact ⟨(mem_bitsOf _ _).1 hm, by simp [hg]⟩
      · rintro ⟨hm, hg⟩
        rw [Option.isNone_iff_eq_none] at hg
        exact ⟨_, ⟨n, (mem_bitsOf _ _).2 hm, rfl⟩, by simp [hg]⟩
    · intro m hm
      simp only [List.mem_filterMap, List.mem_map] at hm
      obtain ⟨_, ⟨k, hk, rfl⟩, h⟩ := hm
      cases hg : goes k with
      | some x => simp [hg] at h
      | none => simp only [hg, Option.some.injEq] at h; subst h; exact hl _ hk
  have hpw : ∀ {es : List Entry}, es.Pairwise (fun e f => (e.pc, e.prio) ≠ (f.pc, f.prio)) →
      es.Pairwise (fun e f => e.pc ≠ f.pc ∨ e.prio ≠ f.prio) := fun h => h.imp (fun {a b} hab => by
    by_cases hp : a.pc = b.pc
    · exact .inr (fun hq => hab (by rw [hp, hq]))
    · exact .inl hp)
  have lanesEq : ∀ (f g : Nat → Lane → Lane), (∀ n l, c.wave.core.lanes[n]? = some l → g n l = f n l) →
      c.wave.core.lanes.mapIdx g = c.wave.core.lanes.mapIdx f := fun f g h => mapIdx_congr h
  unfold Issue.transfer at e
  dsimp only at e
  generalize hT : maskOf _ = traps at e ht
  generalize hN : List.foldl _ [] _ = news at e h1 h2 h3
  refine ⟨fun ⟨n, hn, hg⟩ => ?_, fun hok => ?_⟩
  · have h0 : traps ≠ 0 := mask_ne_zero n (by rw [ht, hn, hg]; rfl)
    simp only [Issue.finishAt, h0, if_false] at e
    refine ⟨fun hs => ?_, fun hs hh => ?_⟩
    · simp only [hs, if_true] at e; exact e
    · simp only [hs, Option.isSome_none, Bool.false_eq_true, if_false, WaveCore.mapLanes, hh, if_true] at e; exact e
  · refine ⟨traps, c.wave.core.lanes.mapIdx (fun n l => if has traps n then Recorded c n causeIllegalLane c.entry.pc (change n l) else if c.on n then change n l else l), news, ht, ?_,
      mapIdx_laneWise _ _ _ (fun n l _ => rfl), hpw h1, fun x hx => ?_, fun n hn hg => ?_⟩
    · rw [e]
      congr 1
      by_cases h0 : traps = 0
      · simp only [Issue.finishAt, h0, if_true, hi _ _, WaveCore.mapLanes, BitVec.ofNat_eq_ofNat, BitVec.or_zero]
        rw [h0] at ht
        rw [lanesEq (fun n l => if has 0 n then Recorded c n causeIllegalLane c.entry.pc (change n l) else if c.on n then change n l else l)]
        · rfl
        intro n l hl
        have hz : has (0 : BitVec 32) n = false := by simp [has]
        have := ht n
        rw [hz] at this
        cases hn : c.on n
        · simp [has]
        · cases hg : goes n
          · simp [hn, hg] at this
          · simp [has]
      · have hb : c.wave.spec = none ∧ c.wave.core.handler = false := by
          rcases hok with hok | hok
          · exfalso; apply h0; apply mask_eq_zero; intro n; rw [ht]
            cases hn : c.on n
            · rfl
            · cases hg : goes n with
              | none => exact absurd hg (hok n hn)
              | some x => rfl
          · exact hok
        simp only [Issue.finishAt, h0, if_false, hi _ _, WaveCore.mapLanes, hb.1, hb.2, Option.isSome_none, Bool.false_eq_true,
          WaveCore.recordItems, List.mapIdx_mapIdx]
        rw [lanesEq (fun n l => if has traps n then Recorded c n causeIllegalLane c.entry.pc (change n l) else if c.on n then change n l else l)]
        intro n l hl
        have := ht n
        cases hn : c.on n
        · simp [this, hn]
        · cases hg : goes n
          · simp [this, hn, hg, keep n l hl hg, Recorded]
          · simp [this, hn, hg]
    · obtain ⟨a1, a2, a3, a4, a5⟩ := h2 x hx
      exact ⟨a1, a2, a3, a4, fun n => by rw [a5]; dsimp only; rw [ho]⟩
    · obtain ⟨k, hk⟩ := Option.ne_none_iff_exists'.1 hg
      obtain ⟨x, hx, h⟩ := h3 n ((mem_bitsOf _ _).2 hn) k hk
      refine ⟨x, hx, ?_⟩
      rw [(h2 x hx).2.2.2.2]; dsimp only; rw [ho, hn, hk, h]; simp
end Sys2Proof.Machine
end

