-- ==== Sys2Proof/Laws/Access.lean ====
section
/-! SUPPORT. Laws that statements about accesses, lane masks and registers of stacks cite: what an access does when
all its requests pass, what a mask built from lanes holds, and how two changes of one stack compose. -/
namespace Sys2Proof.Machine

/-- The verdicts when every request passes. -/
theorem judge_ok {s : State} {ctx st spad : Nat} {rs : List (Nat × Request)}
    (h : ∀ r ∈ rs, ∃ ps, s.fate ctx st spad r.2 = .ok ps) :
    s.judge ctx st spad rs =
      ⟨rs.map (fun r => (r.1, match s.fate ctx st spad r.2 with | .ok ps => ps | _ => [])), 0, [], [], []⟩ := by
  unfold State.judge
  induction rs with
  | nil => rfl
  | cons r rs ih =>
    obtain ⟨ps, hp⟩ := h r (by simp)
    rw [List.foldr_cons, ih (fun r hr => h r (by simp [hr])), hp]
    simp [hp]

theorem Wave.usedPages_none {w : Wave} (h : w.spec = none) (ps : List (Target × Nat)) : w.usedPages ps = w := by
  cases w; simp only at h; subst h; rfl

theorem not_captured {o : Option Launch} (h : ∀ l, o = some l → l.desc.capture = false) :
    o.any (fun l => l.desc.capture) = false := by
  cases o with
  | none => rfl
  | some l => exact h l rfl

/-- The law of an access whose lanes all pass: its lanes perform in the state whose translation caches are filled. -/
theorem access_performs {c : Issue} {i : Instr} {s : State} {a : Ask} (ht : a.traps = 0) (h : Passes s c a.write a.reqs)
    (perform : List (Nat × List (Target × Nat)) → State → Wave → Option (State × Wave)) :
    c.access i s a perform =
      match perform (c.landing s a.reqs) (c.filled s a.reqs) c.wave with
      | none => if (s.launchOf c.gang).any (fun l => l.desc.capture) then s.recallLog c.gang.stack else s
      | some r => ({ c with wave := r.2 } : Issue).finish i s r.1 r.2.core 0 (fun _ => causeIllegalLane) c.entry.pc := by
  obtain ⟨h1, h2⟩ := h
  have hj : s.judge (s.ctxOf c.gang) c.gang.stack (((s.launchOf c.gang).map (fun l => l.desc.spad)).getD 0) a.reqs =
      ⟨c.landing s a.reqs, 0, [], [], []⟩ := judge_ok h1
  have hps : (c.landing s a.reqs).flatMap (fun p => p.2) = c.allPieces s a.reqs := by
    simp only [Issue.allPieces, Issue.landing, List.flatMap_map]
  unfold Issue.access
  simp only [hj, ht, show ((0 : BitVec 32) ||| 0) = 0 from rfl, bne_self_eq_false, Bool.false_and, Bool.and_false, Bool.false_eq_true,
    if_false, List.getElem?_nil, h2.alone, Option.isSome_none, List.isEmpty_nil, Bool.not_true, Issue.overfull, hps, List.flatten_nil,
    List.nil_append, h2.clear, h2.thawed, Bool.or_false, h2.room, Wave.usedPages_none h2.alone]
  rfl

/-! ### Masks and lanes -/

/-- No active lane has a property that no lane has. -/
theorem on_any_false {c : Issue} {f : Nat → Bool} (h : ∀ n, c.on n = true → f n = false) : (bitsOf c.active).any f = false := by
  rw [List.any_eq_false]; intro n hn; rw [mem_bitsOf] at hn; simp [h n hn]

/-- Some active lane has a property that a lane has. -/
theorem on_any_true {c : Issue} {f : Nat → Bool} {n} (h : c.on n = true) (h' : f n = true) : (bitsOf c.active).any f = true := by
  rw [List.any_eq_true]; exact ⟨n, (mem_bitsOf _ _).2 h, h'⟩

/-- Two changes of the lanes are equal when they agree on the lanes that stand. -/
theorem mapLanes_congr {c : Issue} (f g : Nat → Lane → Lane) (h : ∀ n l, c.wave.core.lanes[n]? = some l → f n l = g n l) : c.wave.core.mapLanes f = c.wave.core.mapLanes g := by
  unfold WaveCore.mapLanes
  congr 1
  apply List.ext_getElem?
  intro n
  simp only [List.getElem?_mapIdx]
  cases hl : c.wave.core.lanes[n]? with
  | none => rfl
  | some l => simp [h n l hl]

/-- A change of the lanes that changes none. -/
theorem mapLanes_self {c : Issue} (f : Nat → Lane → Lane) (h : ∀ n l, c.wave.core.lanes[n]? = some l → f n l = l) : c.wave.core.mapLanes f = c.wave.core := by
  rw [mapLanes_congr f (fun _ l => l) h]
  unfold WaveCore.mapLanes
  have : c.wave.core.lanes.mapIdx (fun _ l => l) = c.wave.core.lanes := by
    apply List.ext_getElem?; intro n; simp
  rw [this]

/-- A lane of a union of masks. -/
theorem has_foldl_or (f : Entry → BitVec 32) (xs : List Entry) (m : BitVec 32) (l : Nat) : has (xs.foldl (fun m e => m ||| f e) m) l = (has m l || xs.any (fun e => has (f e) l)) := by
  induction xs generalizing m with
  | nil => simp
  | cons x xs ih => rw [List.foldl_cons, ih]; simp only [List.any_cons, has, BitVec.getLsbD_or, Bool.or_assoc]

/-! ### Changes of one stack -/

/-- Two changes of one element agree when they agree on it. -/
theorem modify_congr_getD {α} (xs : List α) (n : Nat) (d : α) (f g : α → α) (h : f (xs.getD n d) = g (xs.getD n d)) :
    xs.modify n f = xs.modify n g := by
  apply List.ext_getElem? ; intro i
  rw [List.getElem?_modify, List.getElem?_modify]
  by_cases hi : n = i
  · subst hi
    cases hx : xs[n]? with
    | none => rfl
    | some x => simp [List.getD, hx] at h ⊢; exact h
  · simp [hi]

/-- A change that changes nothing. -/
theorem modify_same {α} (xs : List α) (n : Nat) : xs.modify n (fun x => x) = xs := by
  apply List.ext_getElem? ; intro i
  rw [List.getElem?_modify]; split <;> simp

/-- Two changes of one element are one. -/
theorem modify_twice {α} (xs : List α) (n : Nat) (f g : α → α) : (xs.modify n f).modify n g = xs.modify n (fun x => g (f x)) := by
  apply List.ext_getElem? ; intro i
  rw [List.getElem?_modify, List.getElem?_modify, List.getElem?_modify]
  by_cases hi : n = i
  · simp [hi]; rfl
  · simp [hi]

/-- Two changes of one stack agree when they agree on it. -/
theorem State.modStack_congr {s : State} {st : Nat} {f g : Stack → Stack} (h : f (s.stack st) = g (s.stack st)) :
    s.modStack st f = s.modStack st g := by
  unfold State.modStack; rw [modify_congr_getD _ _ Stack.reset f g h]

/-- A change of a stack that changes nothing. -/
theorem State.modStack_self {s : State} {st : Nat} {f : Stack → Stack} (h : f (s.stack st) = s.stack st) :
    s.modStack st f = s := by
  rw [State.modStack_congr (g := fun x => x) h]; unfold State.modStack; rw [modify_same]

/-- Two changes of one stack are one. -/
theorem State.modStack_modStack {s : State} {st : Nat} {f g : Stack → Stack} :
    (s.modStack st f).modStack st g = s.modStack st (fun t => g (f t)) := by
  simp only [State.modStack, modify_twice]

/-! ### Loads and stores whose requests pass -/

theorem leNat_natLe (k n : Nat) : leNat (natLe k n) = n % 256 ^ k := by
  induction k generalizing n with
  | zero => simp [leNat, natLe, Nat.mod_one]
  | succ k ih => simp only [natLe, leNat, ih]; rw [Nat.pow_succ, Nat.mul_comm (256^k) 256, Nat.mod_mul, BitVec.toNat_ofNat]

theorem natLe_length (k n : Nat) : (natLe k n).length = k := by
  induction k generalizing n with
  | zero => rfl
  | succ k ih => simp [natLe, ih]

theorem SameButCaches.rfl' (s : State) : SameButCaches s s := ⟨rfl, fun x => ⟨(s.stack x).tlb, rfl⟩⟩

theorem SameButCaches.trans {s t u : State} (h : SameButCaches s t) (h' : SameButCaches t u) : SameButCaches s u := by
  refine ⟨?_, fun x => ?_⟩
  · rw [h'.1, h.1]
  · obtain ⟨a, ha⟩ := h.2 x
    obtain ⟨b, hb⟩ := h'.2 x
    exact ⟨b, by rw [hb, ha]⟩

theorem fillTlb_caches (s : State) (ctx st : Nat) (core : Option Nat) (va pa : Nat) (leaf : Leaf) :
    SameButCaches s (s.fillTlb ctx st core va pa leaf) := by
  refine ⟨rfl, fun x => ?_⟩
  unfold State.fillTlb State.modStack State.stack
  dsimp only
  simp only [List.getD_eq_getElem?_getD, List.getElem?_modify]
  cases h : s.stackTab[x]? with
  | none => exact ⟨_, rfl⟩
  | some k =>
    by_cases hx : st = x
    · simp only [hx, if_true, Option.map_eq_map, Option.map_some, Option.getD_some]; exact ⟨_, rfl⟩
    · simp only [hx, if_false, Option.map_eq_map, Option.map_some, Option.getD_some]; exact ⟨_, rfl⟩

/-- Filling translation caches changes nothing else. -/
theorem fillFrom_caches (s : State) (ctx st : Nat) (core : Option Nat) (ps : List (Target × Nat)) :
    SameButCaches s (s.fillFrom ctx st core ps) := by
  unfold State.fillFrom
  induction ps generalizing s with
  | nil => exact .rfl' s
  | cons p ps ih =>
    obtain ⟨t, n⟩ := p
    rw [List.foldl_cons]
    refine SameButCaches.trans ?_ (ih _)
    cases t with
    | spd off => exact .rfl' s
    | mem pa leaf va => exact fillTlb_caches s ctx st core va pa leaf

theorem SameButCaches.port {s t : State} (h : SameButCaches s t) (st pa : Nat) : t.port st pa = s.port st pa := by
  obtain ⟨tlb, e⟩ := h.2 st
  unfold State.port
  rw [e]; rfl

theorem SameButCaches.portDown {s t : State} (h : SameButCaches s t) (st pa : Nat) : t.portDown st pa = s.portDown st pa := by
  have hr : ∀ p, t.ringOpen st p = s.ringOpen st p := by
    intro p
    have h1 : ∀ k, (t.stack k).partNum = (s.stack k).partNum := fun k => by obtain ⟨x, e⟩ := h.2 k; rw [e]
    have h2 : ∀ k, (t.stack k).partMask = (s.stack k).partMask := fun k => by obtain ⟨x, e⟩ := h.2 k; rw [e]
    have h3 : ∀ k, (t.stack k).configHash = (s.stack k).configHash := fun k => by obtain ⟨x, e⟩ := h.2 k; rw [e]
    have h4 : ∀ k, (t.stack k).enable = (s.stack k).enable := fun k => by obtain ⟨x, e⟩ := h.2 k; rw [e]
    simp only [State.ringOpen, State.maskAgrees, State.members, h1, h2, h3, h4]
  unfold State.portDown
  rw [h.port]
  cases s.port st pa with
  | none => rfl
  | some p => obtain ⟨tlb, e⟩ := h.2 p; simp only [e, hr]

/-- MATOMs that do not pend do not pend in the state with filled caches. -/
theorem SameButCaches.settled {s t : State} (h : SameButCaches s t) (g w : Nat) (oks : List (Nat × List (Target × Nat))) :
    t.settled g w oks = s.settled g w oks := by
  rw [h.1]; rfl

/-- Reads of a launch that is not captured, through ports that are up, find what `look` says. -/
theorem readThrough_plain {look : State → Target → Nat → Got} {s : State} {st core slot : Nat} {l : Option Launch}
    {ps : List (Target × Nat)} (hl : ∀ x, l = some x → x.desc.capture = false)
    (hp : ∀ pa leaf va n, (Target.mem pa leaf va, n) ∈ ps → s.portDown st pa = false) :
    State.readThrough look st core slot l ps s = some (ps.map (fun p => look s p.1 p.2), s) := by
  induction ps with
  | nil => rfl
  | cons p ps ih =>
    obtain ⟨t, n⟩ := p
    have ih' := ih (fun pa leaf va n h => hp pa leaf va n (List.mem_cons_of_mem _ h))
    have hr : s.readPiece look st core slot l t n = some (look s t n, s) := by
      unfold State.readPiece
      cases t with
      | spd off => rfl
      | mem pa leaf va =>
        simp only [hp _ _ _ _ List.mem_cons_self, Bool.false_eq_true, if_false]
        cases l with
        | none => rfl
        | some x =>
          have hx := hl x rfl
          simp only [State.logged, hx, Bool.not_false, if_true, Bool.false_and, Bool.false_eq_true, if_false]
          split <;> rfl
    simp only [State.readThrough, hr, ih', List.map_cons]

/-- The lanes of a load read what they find. -/
theorem readLanes_plain {c : Issue} {t : State} {cst : Bool} {sc : Scope} {oks : List (Nat × List (Target × Nat))}
    (hl : ∀ x, t.launchOf c.gang = some x → x.desc.capture = false)
    (hp : ∀ o ∈ oks, ∀ pa leaf va n, (Target.mem pa leaf va, n) ∈ o.2 → t.portDown c.gang.stack pa = false) :
    c.readLanes cst sc oks t = some (oks.map (fun o =>
      let xs := o.2.map (fun p => c.look cst sc o.1 t p.1 p.2)
      ⟨o.1, xs.flatMap (fun x => x.bytes), xs.any (fun x => x.mark), xs.flatMap (fun x => x.tops)⟩), t) := by
  induction oks with
  | nil => rfl
  | cons o oks ih =>
    obtain ⟨n, ps⟩ := o
    unfold Issue.readLanes
    rw [readThrough_plain hl (hp _ List.mem_cons_self)]
    simp only [ih (fun o ho => hp o (List.mem_cons_of_mem _ ho)), List.map_cons]

theorem learnTops_same (core : WaveCore) (s : State) (g w : Nat) (sc : Scope) (acquire : Nat → Bool)
    (reads : List (Nat × List (Nat × Stored))) : SameButKnowledge core (core.learnTops s g w sc acquire reads) := by
  refine ⟨rfl, ?_⟩
  unfold WaveCore.learnTops WaveCore.mapLanes
  exact mapIdx_laneWise _ _ _ (fun n l _ => by split <;> rfl)

/-- The law of a load whose requests all pass. -/
theorem load_performs {c : Issue} {i : Instr} {s : State} {a : Ask} {d : Reg} {cst : Bool} {sc : Scope} {acquire : Bool}
    {ws : Nat → List Byte → List W32} {fills : List RegWrite} (ht : a.traps = 0) (hw : a.write = false)
    (h : Performs s c false a.reqs) (he : exec i s = .next (c.load i s a d cst sc acquire ws fills)) :
    Loads i s c cst sc d a.reqs ws fills := by
  have h0 : SameButCaches s (c.filled s a.reqs) := fillFrom_caches ..
  obtain ⟨hp, hm⟩ := h
  have hs : c.wave.spec = none := hp.2.alone
  unfold Loads
  rw [he]
  unfold Issue.load
  rw [access_performs ht (by rw [hw]; exact hp)]
  generalize c.filled s a.reqs = t at h0 ⊢
  have e1 : c.flush (c.landing s a.reqs) t c.wave = some (t, c.wave) := by
    unfold Issue.flush; rw [h0.settled, hm]; rfl
  have e2 := readLanes_plain (c := c) (t := t) (cst := cst) (sc := sc) (oks := c.landing s a.reqs)
    (by rw [show t.launchOf c.gang = s.launchOf c.gang by rw [h0.1]; rfl]; exact hp.2.free)
    (by
      intro o ho pa leaf va n hmem
      obtain ⟨r, hr, rfl⟩ := List.mem_map.1 ho
      rw [h0.portDown]
      exact hp.2.up pa leaf va n (List.mem_flatMap.2 ⟨r, hr, hmem⟩))
  have e3 : (c.landing s a.reqs).flatMap (fun p => p.2) = c.allPieces s a.reqs := by
    simp only [Issue.allPieces, Issue.landing, List.flatMap_map]
  simp only [e1, e2, e3, hs, Option.map_none, Option.isSome_none, Issue.finish_none]
  refine ⟨c.wave.core.learnTops t c.g c.w sc (fun _ => acquire) ((a.reqs.map (fun r =>
    (r.1, ((c.pieces s r.2).map (fun p => c.look cst sc r.1 t p.1 p.2)).flatMap (fun x => x.tops))))), learnTops_same .., ?_⟩
  simp only [Issue.landing, List.flatMap_map, List.map_map, Function.comp_def, loadWrites, Issue.advance]
  clear e1 e2 e3 hm h0 he hp
  obtain ⟨g, w, k, gang, wave, entry, active, quiet⟩ := c
  cases wave
  dsimp only at hs ⊢
  subst hs
  congr 1
  split <;> rfl

/-- The law of a store whose requests all pass. -/
theorem store_performs {c : Issue} {i : Instr} {s : State} {a : Ask} {sc : Scope} {release : Bool} {bs : Nat → List Byte × Bool}
    (ht : a.traps = 0) (hw : a.write = true) (h : Performs s c true a.reqs)
    (he : exec i s = .next (c.store i s a sc release bs))
    (hr : c.wave.sysReleaseWaits release sc (maskOf (a.reqs.map (fun r => r.1))) = false) :
    let t := c.filled s a.reqs
    let u := a.reqs.foldl (fun u r => u.storePieces (u.laneAgent c.g c.w r.1 (c.wave.core.lane r.1) sc) release c.gang.stack
      c.wave.coreId (bs r.1).1 (bs r.1).2 (c.pieces s r.2)) t
    exec i s = .next (u.setWave c.g c.w (({ c with wave := { c.wave with
      stores := c.wave.stores ++ a.reqs.flatMap (fun r => t.acksOf c.gang.stack r.1 (c.pieces s r.2)) } } : Issue).advance i u
        c.wave.core)) := by
  have h0 : SameButCaches s (c.filled s a.reqs) := fillFrom_caches ..
  obtain ⟨hp, hm⟩ := h
  have hs : c.wave.spec = none := hp.2.alone
  rw [he]
  unfold Issue.store
  rw [access_performs ht (by rw [hw]; exact hp)]
  generalize c.filled s a.reqs = t at h0 ⊢
  have e1 : c.flush (c.landing s a.reqs) t c.wave = some (t, c.wave) := by
    unfold Issue.flush; rw [h0.settled, hm]; rfl
  have e2 : maskOf ((c.landing s a.reqs).map (fun p => p.1)) = maskOf (a.reqs.map (fun r => r.1)) := by
    simp only [Issue.landing, List.map_map]; rfl
  simp only [e1, hs, e2, hr, Bool.false_eq_true, if_false, Issue.finish_none, Issue.advance]
  simp only [Issue.landing, List.foldl_map, List.flatMap_map]

/-- The law of a store that must wait for its lanes' earlier system stores. -/
theorem store_waits {c : Issue} {i : Instr} {s : State} {a : Ask} {sc : Scope} {release : Bool} {bs : Nat → List Byte × Bool}
    (ht : a.traps = 0) (hw : a.write = true) (h : Performs s c true a.reqs)
    (he : exec i s = .next (c.store i s a sc release bs))
    (hr : c.wave.sysReleaseWaits release sc (maskOf (a.reqs.map (fun r => r.1))) = true) : exec i s = .next s := by
  have h0 : SameButCaches s (c.filled s a.reqs) := fillFrom_caches ..
  obtain ⟨hp, hm⟩ := h
  rw [he]
  unfold Issue.store
  rw [access_performs ht (by rw [hw]; exact hp)]
  generalize c.filled s a.reqs = t at h0 ⊢
  have e1 : c.flush (c.landing s a.reqs) t c.wave = some (t, c.wave) := by
    unfold Issue.flush; rw [h0.settled, hm]; rfl
  have e2 : maskOf ((c.landing s a.reqs).map (fun p => p.1)) = maskOf (a.reqs.map (fun r => r.1)) := by
    simp only [Issue.landing, List.map_map]; rfl
  simp only [e1, hp.2.alone, e2, hr, if_true, not_captured hp.2.free, Bool.false_eq_true, if_false]

end Sys2Proof.Machine
end

