-- ==== Sys2Proof/Laws/Keeps.lean ====
section
/-! SUPPORT. Every shared operation keeps the invariant and lets no sequence number fall: what that means, and how it goes
through lists, options and records. -/
set_option Elab.async false
set_option linter.unusedSimpArgs false
set_option maxRecDepth 4000

namespace Sys2Proof.Machine

/-- From b to t the invariant is kept and sequence numbers do not fall (R380). -/
structure Keeps (b t : State) : Prop where
  inv : b.Inv → t.Inv
  seq : b.seq ≤ t.seq

/-- The same of the next state of an outcome. -/
structure KeepsOut (b : State) (o : Host.Outcome State Fault Refusal) : Prop where
  of_next : ∀ t, o = .next t → Keeps b t

/-- The same of every state that the start of a packet or node answers. -/
structure KeepsBegun (b : State) (x : Begun) : Prop where
  of_done : ∀ t, x = .done t → Keeps b t
  of_running : ∀ t, x = .running t → Keeps b t
  of_blocked : ∀ t, x = .blocked t → Keeps b t
  of_refused : ∀ t, x = .writeRefused t → Keeps b t

/-- The same of what a log answers. -/
structure KeepsLogged (b : State) (x : Logged) : Prop where
  of_go : ∀ p t, x = .go p t → Keeps b t

/-- The same of a write for a queue. -/
structure KeepsCp (b : State) (x : CpWrite) : Prop where
  of_ok : ∀ t, x = .ok t → Keeps b t

/-- The same of what a monitor's read answers. -/
structure KeepsMonitor (b : State) (x : MwaitPass) : Prop where
  of_read : ∀ t c, x = .read t c → Keeps b t
  of_wait : ∀ t, x = .wait t → Keeps b t
  of_fault : ∀ t, x = .fault t → Keeps b t

/-- The same of what an access of a pool's front end answers. -/
structure KeepsPool (b : State) (x : PoolStep) : Prop where
  of_go : ∀ bs t, x = .go bs t → Keeps b t
  of_wait : ∀ t, x = .wait t → Keeps b t

/-- The same of the state that an answer holds, if there is one. -/
structure KeepsOpt {α : Type} (p : α → State) (b : State) (o : Option α) : Prop where
  of_some : ∀ x, o = some x → Keeps b (p x)

theorem Keeps.of_lengths {b s t : State} (h : Keeps b s) (h1 : Sparse.wf 0 s.mem = true → Sparse.wf 0 t.mem = true)
    (h2 : Sparse.wf false s.poison = true → Sparse.wf false t.poison = true)
    (h3 : t.stackTab.length = s.stackTab.length) (h4 : t.partitions.length = s.partitions.length) (h5 : t.seq = s.seq) : Keeps b t := by
  refine ⟨fun hb => ?_, h5 ▸ h.seq⟩
  obtain ⟨hm, hs, hp⟩ := h.inv hb
  simp only [State.memoryOk, Memory.wf, Bool.and_eq_true] at hm
  exact ⟨by simp only [State.memoryOk, Memory.wf, Bool.and_eq_true]; exact ⟨h1 hm.1, h2 hm.2⟩, h3 ▸ hs, h4 ▸ hp⟩

/-- A record that leaves memory and sequence numbers, and as many stacks and partitions. -/
theorem Keeps.record {b s : State} {x0 x1 x2 x3 x6 x7 x8 x9 x12 x13 x14 x15 x16 x17 x18 x19 x20 x21 x22 x23 x24 x26 x27 x28} {v10 : List Stack} {v11 : List Partition} (h : Keeps b s)
    (h10 : v10.length = s.stackTab.length) (h11 : v11.length = s.partitions.length) :
    Keeps b (State.mk x0 x1 x2 x3 s.mem s.poison x6 x7 x8 x9 v10 v11 x12 x13 x14 x15 x16 x17 x18 x19 x20 x21 x22 x23 x24 s.seq x26 x27 x28) := h.of_lengths id id h10 h11 rfl

theorem Keeps.mk_iff {b s : State} {x0 x1 x2 x3 x6 x7 x8 x9 x12 x13 x14 x15 x16 x17 x18 x19 x20 x21 x22 x23 x24 x26 x27 x28} : Keeps b (State.mk x0 x1 x2 x3 s.mem s.poison x6 x7 x8 x9 s.stackTab s.partitions x12 x13 x14 x15 x16 x17 x18 x19 x20 x21 x22 x23 x24 s.seq x26 x27 x28) ↔ Keeps b s :=
  ⟨fun h => h.of_lengths id id rfl rfl rfl, fun h => h.of_lengths id id rfl rfl rfl⟩

theorem keeps_foldl {α : Type} {b s : State} {f : State → α → State} {l : List α}
    (h : ∀ t x, Keeps b t → Keeps b (f t x)) (hs : Keeps b s) : Keeps b (l.foldl f s) := by
  induction l generalizing s with
  | nil => exact hs
  | cons x l ih => exact ih (h _ _ hs)

theorem keepsOpt_foldl {α β : Type} {p : β → State} {b : State} {o : Option β} {f : Option β → α → Option β} {l : List α}
    (h : ∀ t x, KeepsOpt p b t → KeepsOpt p b (f t x)) (hs : KeepsOpt p b o) : KeepsOpt p b (l.foldl f o) := by
  induction l generalizing o with
  | nil => exact hs
  | cons x l ih => exact ih (h _ _ hs)

theorem keepsOpt_none {α : Type} {p : α → State} {b : State} : KeepsOpt p b none := ⟨nofun⟩
theorem keepsOpt_some {α : Type} {p : α → State} {b : State} {x : α} (h : Keeps b (p x)) : KeepsOpt p b (some x) :=
  ⟨fun _ e => Option.some.inj e ▸ h⟩
theorem keepsOpt_map {α β : Type} {p : β → State} {b : State} {o : Option α} {f : α → β} (h : ∀ x, o = some x → Keeps b (p (f x))) :
    KeepsOpt p b (o.map f) := ⟨fun y e => by
  rw [Option.map_eq_some_iff] at e; obtain ⟨x, hx, rfl⟩ := e; exact h x hx⟩
theorem keepsOpt_bind {α β : Type} {p : β → State} {b : State} {o : Option α} {f : α → Option β}
    (h : ∀ x, o = some x → KeepsOpt p b (f x)) : KeepsOpt p b (o.bind f) := ⟨fun y e => by
  rw [Option.bind_eq_some_iff] at e; obtain ⟨x, hx, hy⟩ := e; exact (h x hx).of_some y hy⟩
theorem keeps_getD {b s : State} {o : Option State} (h : KeepsOpt (fun x => x) b o) (hs : Keeps b s) : Keeps b (o.getD s) := by
  cases o with
  | none => exact hs
  | some r => exact h.of_some r rfl

theorem KeepsOpt.id {b t : State} {o : Option State} (e : o = some t) (h : KeepsOpt (fun x => x) b o) : Keeps b t := h.of_some t e
theorem KeepsOpt.fst {α : Type} {b : State} {x : State × α} {o : Option (State × α)} (e : o = some x) (h : KeepsOpt Prod.fst b o) :
    Keeps b x.1 := h.of_some x e
theorem KeepsOpt.snd {α : Type} {b : State} {x : α × State} {o : Option (α × State)} (e : o = some x) (h : KeepsOpt Prod.snd b o) :
    Keeps b x.2 := h.of_some x e
theorem KeepsOpt.fst' {α : Type} {b t : State} {v : α} {o : Option (State × α)} (e : o = some (t, v)) (h : KeepsOpt Prod.fst b o) :
    Keeps b t := h.of_some _ e
theorem KeepsOpt.snd' {α : Type} {b t : State} {v : α} {o : Option (α × State)} (e : o = some (v, t)) (h : KeepsOpt Prod.snd b o) :
    Keeps b t := h.of_some _ e
theorem KeepsOpt.performed {b : State} {x : Performed} {o : Option Performed} (e : o = some x) (h : KeepsOpt Performed.state b o) :
    Keeps b x.state := h.of_some x e
theorem keeps_pair {α : Type} {b t : State} {v : α} {x : α × State} (e : x = (v, t)) (h : Keeps b x.2) : Keeps b t := by subst e; exact h
theorem KeepsLogged.of {b t : State} {p : List Byte} {x : Logged} (e : x = .go p t) (h : KeepsLogged b x) : Keeps b t := h.of_go _ _ e
theorem KeepsCp.of {b t : State} {x : CpWrite} (e : x = .ok t) (h : KeepsCp b x) : Keeps b t := h.of_ok _ e
theorem KeepsMonitor.ofRead {b t : State} {c} {x : MwaitPass} (e : x = .read t c) (h : KeepsMonitor b x) : Keeps b t := h.of_read _ _ e
theorem KeepsMonitor.ofWait {b t : State} {x : MwaitPass} (e : x = .wait t) (h : KeepsMonitor b x) : Keeps b t := h.of_wait _ e
theorem KeepsMonitor.ofFault {b t : State} {x : MwaitPass} (e : x = .fault t) (h : KeepsMonitor b x) : Keeps b t := h.of_fault _ e
theorem KeepsPool.ofGo {b t : State} {bs} {x : PoolStep} (e : x = .go bs t) (h : KeepsPool b x) : Keeps b t := h.of_go _ _ e
theorem KeepsPool.ofWait {b t : State} {x : PoolStep} (e : x = .wait t) (h : KeepsPool b x) : Keeps b t := h.of_wait _ e
theorem KeepsBegun.ofDone {b t : State} {x : Begun} (e : x = .done t) (h : KeepsBegun b x) : Keeps b t := h.of_done _ e
theorem KeepsBegun.ofRunning {b t : State} {x : Begun} (e : x = .running t) (h : KeepsBegun b x) : Keeps b t := h.of_running _ e
theorem KeepsBegun.ofBlocked {b t : State} {x : Begun} (e : x = .blocked t) (h : KeepsBegun b x) : Keeps b t := h.of_blocked _ e
theorem KeepsBegun.ofRefused {b t : State} {x : Begun} (e : x = .writeRefused t) (h : KeepsBegun b x) : Keeps b t := h.of_refused _ e
theorem KeepsOut.of {b t : State} {x : Host.Outcome State Fault Refusal} (e : x = .next t) (h : KeepsOut b x) : Keeps b t := h.of_next _ e
theorem KeepsOut.next {b t : State} (h : Keeps b t) : KeepsOut b (.next t) := ⟨fun _ e => by simp only [Host.Outcome.next.injEq] at e; exact e ▸ h⟩
theorem KeepsOut.fault {b : State} {f : Fault} : KeepsOut b (.fault f) := ⟨nofun⟩
theorem KeepsBegun.done {b t : State} (h : Keeps b t) : KeepsBegun b (.done t) :=
  ⟨fun _ e => by simp only [Begun.done.injEq] at e; exact e ▸ h, nofun, nofun, nofun⟩
theorem KeepsBegun.running {b t : State} (h : Keeps b t) : KeepsBegun b (.running t) :=
  ⟨nofun, fun _ e => by simp only [Begun.running.injEq] at e; exact e ▸ h, nofun, nofun⟩
theorem KeepsBegun.blocked {b t : State} (h : Keeps b t) : KeepsBegun b (.blocked t) :=
  ⟨nofun, nofun, fun _ e => by simp only [Begun.blocked.injEq] at e; exact e ▸ h, nofun⟩
theorem KeepsBegun.refused {b t : State} (h : Keeps b t) : KeepsBegun b (.writeRefused t) :=
  ⟨nofun, nofun, nofun, fun _ e => by simp only [Begun.writeRefused.injEq] at e; exact e ▸ h⟩
theorem KeepsBegun.error {b : State} {c d : Nat} : KeepsBegun b (.error c d) := ⟨nofun, nofun, nofun, nofun⟩
theorem KeepsLogged.go {b t : State} {p : List Byte} (h : Keeps b t) : KeepsLogged b (.go p t) :=
  ⟨fun _ _ e => by simp only [Logged.go.injEq] at e; exact e.2 ▸ h⟩
theorem KeepsLogged.hold {b : State} : KeepsLogged b .hold := ⟨nofun⟩
theorem KeepsCp.ok {b t : State} (h : Keeps b t) : KeepsCp b (.ok t) := ⟨fun _ e => by simp only [CpWrite.ok.injEq] at e; exact e ▸ h⟩
theorem KeepsCp.hold {b : State} {n : Nat} : KeepsCp b (.hold n) := ⟨nofun⟩
theorem KeepsCp.recall {b : State} {n : List Nat} : KeepsCp b (.recall n) := ⟨nofun⟩
theorem KeepsCp.refused {b : State} : KeepsCp b .refused := ⟨nofun⟩
theorem KeepsMonitor.read {b t : State} {c} (h : Keeps b t) : KeepsMonitor b (.read t c) :=
  ⟨fun _ _ e => by simp only [MwaitPass.read.injEq] at e; exact e.1 ▸ h, nofun, nofun⟩
theorem KeepsMonitor.wait {b t : State} (h : Keeps b t) : KeepsMonitor b (.wait t) :=
  ⟨nofun, fun _ e => by simp only [MwaitPass.wait.injEq] at e; exact e ▸ h, nofun⟩
theorem KeepsMonitor.fault {b t : State} (h : Keeps b t) : KeepsMonitor b (.fault t) :=
  ⟨nofun, nofun, fun _ e => by simp only [MwaitPass.fault.injEq] at e; exact e ▸ h⟩
theorem KeepsPool.go {b t : State} {bs} (h : Keeps b t) : KeepsPool b (.go bs t) :=
  ⟨fun _ _ e => by simp only [PoolStep.go.injEq] at e; exact e.2 ▸ h, nofun⟩
theorem KeepsPool.wait {b t : State} (h : Keeps b t) : KeepsPool b (.wait t) :=
  ⟨nofun, fun _ e => by simp only [PoolStep.wait.injEq] at e; exact e ▸ h⟩

theorem foldl_set_wf {f : Nat → Nat} {v : Nat → Bool} (l : List Nat) (p : Sparse Bool) (h : Sparse.wf false p = true) :
    Sparse.wf false (l.foldl (fun p k => Sparse.set false p (f k) (v k)) p) = true := by
  induction l generalizing p with
  | nil => exact h
  | cons x l ih => exact ih _ (Sparse.wf_set _ _ _ _ h)

/-! ### Of Machine/Base.lean -/

theorem State.modStack_keeps {b0 s : State} {st : Nat} {f : Stack → Stack} (h : Keeps b0 s) : Keeps b0 (s.modStack st f) :=
  h.of_lengths id id (by simp [State.modStack]) rfl rfl

theorem State.modPartition_keeps {b0 s : State} {p : Nat} {f : Partition → Partition} (h : Keeps b0 s) :
    Keeps b0 (s.modPartition p f) :=
  h.of_lengths id id rfl (by simp [State.modPartition]) rfl

theorem State.modGang_keeps {b0 : State} {s : State} {g : Nat} {f : Gang → Gang} (h0 : Keeps b0 s) : Keeps b0 (State.modGang s g f) := by
  unfold State.modGang
  try dsimp only
  repeat' first | with_reducible assumption | intro _ | simp only [Keeps.mk_iff] | split | (with_reducible refine Keeps.record ?_ (by simp) (by simp)) | dsimp only

theorem State.modWave_keeps {b0 : State} {s : State} {g w : Nat} {f : Wave → Wave} (h0 : Keeps b0 s) : Keeps b0 (State.modWave s g w f) := by
  unfold State.modWave
  try dsimp only
  repeat' first | with_reducible assumption | intro _ | with_reducible apply State.modGang_keeps | simp only [Keeps.mk_iff] | split | (with_reducible refine Keeps.record ?_ (by simp) (by simp)) | dsimp only

theorem State.setWave_keeps {b0 : State} {s : State} {g w : Nat} {v : Wave} (h0 : Keeps b0 s) : Keeps b0 (State.setWave s g w v) := by
  unfold State.setWave
  try dsimp only
  repeat' first | with_reducible assumption | intro _ | with_reducible apply State.modWave_keeps | simp only [Keeps.mk_iff] | split | (with_reducible refine Keeps.record ?_ (by simp) (by simp)) | dsimp only

theorem State.modLaunch_keeps {b0 : State} {s : State} {l : Nat} {f : Launch → Launch} (h0 : Keeps b0 s) : Keeps b0 (State.modLaunch s l f) := by
  unfold State.modLaunch
  try dsimp only
  repeat' first | with_reducible assumption | intro _ | simp only [Keeps.mk_iff] | split | (with_reducible refine Keeps.record ?_ (by simp) (by simp)) | dsimp only

theorem State.modContext_keeps {b0 : State} {s : State} {c : Nat} {f : Context → Context} (h0 : Keeps b0 s) : Keeps b0 (State.modContext s c f) := by
  unfold State.modContext
  try dsimp only
  repeat' first | with_reducible assumption | intro _ | simp only [Keeps.mk_iff] | split | (with_reducible refine Keeps.record ?_ (by simp) (by simp)) | dsimp only

theorem State.modQueue_keeps {b0 : State} {s : State} {q : Nat} {f : Queue → Queue} (h0 : Keeps b0 s) : Keeps b0 (State.modQueue s q f) := by
  unfold State.modQueue
  try dsimp only
  repeat' first | with_reducible assumption | intro _ | simp only [Keeps.mk_iff] | split | (with_reducible refine Keeps.record ?_ (by simp) (by simp)) | dsimp only

theorem Issue.specStall_keeps {b0 : State} {c : Issue} {s : State} {counter : Nat} (h1 : Keeps b0 s) : Keeps b0 (Issue.specStall c s counter) := by
  unfold Issue.specStall
  try dsimp only
  repeat' first | with_reducible assumption | intro _ | with_reducible apply State.modStack_keeps | with_reducible apply State.modWave_keeps | simp only [Keeps.mk_iff] | split | (with_reducible refine Keeps.record ?_ (by simp) (by simp)) | dsimp only

theorem Issue.tokenStall_keeps {b0 : State} {c : Issue} {s : State} (h1 : Keeps b0 s) : Keeps b0 (Issue.tokenStall c s) := by
  unfold Issue.tokenStall
  try dsimp only
  repeat' first | with_reducible assumption | intro _ | with_reducible apply State.setWave_keeps | simp only [Keeps.mk_iff] | split | (with_reducible refine Keeps.record ?_ (by simp) (by simp)) | dsimp only

theorem Issue.done_keeps {b0 : State} {c : Issue} {i : Instr} {s : State} {core : WaveCore} (h2 : Keeps b0 s) : Keeps b0 (Issue.done c i s core) := by
  unfold Issue.done
  try dsimp only
  repeat' first | with_reducible assumption | intro _ | with_reducible apply State.setWave_keeps | simp only [Keeps.mk_iff] | split | (with_reducible refine Keeps.record ?_ (by simp) (by simp)) | dsimp only

/-! ### Of Machine/Memory.lean -/

theorem State.fillTlb_keeps {b0 : State} {s : State} {ctx st : Nat} {core : Option Nat} {va pa : Nat} {leaf : Leaf} (h0 : Keeps b0 s) : Keeps b0 (State.fillTlb s ctx st core va pa leaf) := by
  unfold State.fillTlb
  try dsimp only
  repeat' first | with_reducible assumption | intro _ | with_reducible apply State.modStack_keeps | simp only [Keeps.mk_iff] | split | (with_reducible refine Keeps.record ?_ (by simp) (by simp)) | dsimp only

theorem State.writeMem_keeps {b0 s : State} {au : Author} {pa : Nat} {bs : List Byte} {mark : Bool} (h : Keeps b0 s) :
    Keeps b0 (s.writeMem au pa bs mark) :=
  h.of_lengths (writeBytes_wf _ _ _) (storePoison_wf _ _ _ _) rfl rfl rfl

theorem State.writeSpad_keeps {b0 : State} {s : State} {au : Author} {g off : Nat} {bs : List Byte} {mark : Bool} (h0 : Keeps b0 s) : Keeps b0 (State.writeSpad s au g off bs mark) := by
  unfold State.writeSpad
  try dsimp only
  repeat' first | with_reducible assumption | intro _ | simp only [Keeps.mk_iff] | split | (with_reducible refine Keeps.record ?_ (by simp) (by simp)) | dsimp only

theorem State.writeElement_keeps {b0 s : State} {au : Author} {pa : Nat} {bs : List Byte} {mark : Option Bool} (h : Keeps b0 s) :
    Keeps b0 (s.writeElement au pa bs mark) :=
  h.of_lengths (writeBytes_wf _ _ _) (setPoison_wf _ _ _) rfl rfl rfl

theorem State.writeSpadElement_keeps {b0 : State} {s : State} {au : Author} {g off : Nat} {bs : List Byte} {mark : Option Bool} (h0 : Keeps b0 s) : Keeps b0 (State.writeSpadElement s au g off bs mark) := by
  unfold State.writeSpadElement
  try dsimp only
  repeat' first | with_reducible assumption | intro _ | simp only [Keeps.mk_iff] | split | (with_reducible refine Keeps.record ?_ (by simp) (by simp)) | dsimp only

/-! ### Of Machine/Ops.lean -/

theorem State.rollbackWave_keeps {b0 : State} {s : State} {g w counter : Nat} (h0 : Keeps b0 s) : Keeps b0 (State.rollbackWave s g w counter) := by
  unfold State.rollbackWave
  try dsimp only
  repeat' first | with_reducible assumption | intro _ | with_reducible apply State.modStack_keeps | with_reducible apply State.modWave_keeps | simp only [Keeps.mk_iff] | split | (with_reducible refine Keeps.record ?_ (by simp) (by simp)) | dsimp only

theorem State.conflicts_keeps {b0 : State} {s : State} {own : Option (Nat × Nat)} {spadOf : Option Nat} {secs : List Nat} (h0 : Keeps b0 s) : Keeps b0 (State.conflicts s own spadOf secs) := by
  unfold State.conflicts
  try dsimp only
  repeat' first | with_reducible assumption | intro _ | with_reducible apply State.rollbackWave_keeps | with_reducible apply keeps_foldl | simp only [Keeps.mk_iff] | split | (with_reducible refine Keeps.record ?_ (by simp) (by simp)) | dsimp only

theorem State.put_keeps {b0 : State} {s : State} {au : Author} {pa : Nat} {bs : List Byte} {mark : Bool} (h0 : Keeps b0 s) : Keeps b0 (State.put s au pa bs mark) := by
  unfold State.put
  try dsimp only
  repeat' first | with_reducible assumption | intro _ | with_reducible apply State.writeMem_keeps | with_reducible apply State.conflicts_keeps | simp only [Keeps.mk_iff] | split | (with_reducible refine Keeps.record ?_ (by simp) (by simp)) | dsimp only

theorem State.putSpad_keeps {b0 : State} {s : State} {au : Author} {g off : Nat} {bs : List Byte} {mark : Bool} (h0 : Keeps b0 s) : Keeps b0 (State.putSpad s au g off bs mark) := by
  unfold State.putSpad
  try dsimp only
  repeat' first | with_reducible assumption | intro _ | with_reducible apply State.writeSpad_keeps | with_reducible apply State.conflicts_keeps | simp only [Keeps.mk_iff] | split | (with_reducible refine Keeps.record ?_ (by simp) (by simp)) | dsimp only

theorem State.putDevice_keeps {b0 : State} {s : State} {pa : Nat} {bs : List Byte} (h0 : Keeps b0 s) : Keeps b0 (State.putDevice s pa bs) := by
  unfold State.putDevice
  try dsimp only
  repeat' first | with_reducible assumption | intro _ | with_reducible apply State.put_keeps | simp only [Keeps.mk_iff] | split | (with_reducible refine Keeps.record ?_ (by simp) (by simp)) | dsimp only

theorem State.backInvalidate_keeps {b0 : State} {s : State} {lines : List Nat} (h0 : Keeps b0 s) : Keeps b0 (State.backInvalidate s lines) := by
  unfold State.backInvalidate
  try dsimp only
  repeat' first | with_reducible assumption | intro _ | with_reducible apply State.conflicts_keeps | simp only [Keeps.mk_iff] | split | (with_reducible refine Keeps.record ?_ (by simp) (by simp)) | dsimp only

theorem State.snooped_keeps {b0 : State} {s : State} {accesses : List (Nat × Nat × Bool)} {next : State} (h0 : Keeps b0 s) (h2 : Keeps b0 next) : Keeps b0 (State.snooped s accesses next) := by
  unfold State.snooped
  try dsimp only
  repeat' first | with_reducible assumption | intro _ | with_reducible apply State.backInvalidate_keeps | simp only [Keeps.mk_iff] | split | (with_reducible refine Keeps.record ?_ (by simp) (by simp)) | dsimp only

theorem State.setRing_keeps {b0 : State} {s : State} {r : Ring} (h0 : Keeps b0 s) : Keeps b0 (State.setRing s r) := by
  unfold State.setRing
  try dsimp only
  repeat' first | with_reducible assumption | intro _ | simp only [Keeps.mk_iff] | split | (with_reducible refine Keeps.record ?_ (by simp) (by simp)) | dsimp only

theorem State.interrupt_keeps {b0 : State} {s : State} {pa vector : Nat} (h0 : Keeps b0 s) : Keeps b0 (State.interrupt s pa vector) := by
  unfold State.interrupt
  try dsimp only
  repeat' first | with_reducible assumption | intro _ | with_reducible apply State.setRing_keeps | simp only [Keeps.mk_iff] | split | (with_reducible refine Keeps.record ?_ (by simp) (by simp)) | dsimp only

theorem State.ringAdd_keeps {b0 : State} {s : State} {pa : Nat} {b : RingBlock} (h0 : Keeps b0 s) : Keeps b0 (State.ringAdd s pa b) := by
  unfold State.ringAdd
  try dsimp only
  repeat' first | with_reducible assumption | intro _ | with_reducible apply State.setRing_keeps | with_reducible apply State.interrupt_keeps | simp only [Keeps.mk_iff] | split | (with_reducible refine Keeps.record ?_ (by simp) (by simp)) | dsimp only

theorem State.ringWrite_keeps {b0 : State} {s : State} {pa recordPa : Nat} {b : RingBlock} {record : List Byte} (h0 : Keeps b0 s) : Keeps b0 (State.ringWrite s pa recordPa b record) := by
  unfold State.ringWrite
  try dsimp only
  repeat' first | with_reducible assumption | intro _ | with_reducible apply State.putDevice_keeps | with_reducible apply State.ringAdd_keeps | simp only [Keeps.mk_iff] | split | (with_reducible refine Keeps.record ?_ (by simp) (by simp)) | dsimp only

theorem State.nextSeq_keeps {b0 s : State} (h : Keeps b0 s) : Keeps b0 s.nextSeq := ⟨h.inv, Nat.le_succ_of_le h.seq⟩

theorem State.number_keeps {b0 : State} {s : State} {e : Event} (h0 : Keeps b0 s) : Keeps b0 (State.number s e) := by
  unfold State.number
  try dsimp only
  repeat' first | with_reducible assumption | intro _ | with_reducible apply State.modPartition_keeps | with_reducible apply State.putDevice_keeps | with_reducible apply State.ringWrite_keeps | with_reducible apply State.nextSeq_keeps | simp only [Keeps.mk_iff] | split | (with_reducible refine Keeps.record ?_ (by simp) (by simp)) | dsimp only

theorem State.numberWaiting_keeps {b0 : State} {y0 : Nat} {y1 : State} (h1 : Keeps b0 y1) : Keeps b0 (State.numberWaiting y0 y1) := by
  revert h1
  fun_induction State.numberWaiting y0 y1 <;> intros
  all_goals (try dsimp only)
  all_goals (repeat' first | with_reducible assumption | intro _ | with_reducible apply State.backInvalidate_keeps | with_reducible apply State.number_keeps | with_reducible apply_assumption | simp only [Keeps.mk_iff] | split | (with_reducible refine Keeps.record ?_ (by simp) (by simp)) | dsimp only)

theorem State.send_keeps {b0 : State} {s : State} {e : Event} (h0 : Keeps b0 s) : Keeps b0 (State.send s e) := by
  unfold State.send
  try dsimp only
  repeat' first | with_reducible assumption | intro _ | with_reducible apply State.numberWaiting_keeps | simp only [Keeps.mk_iff] | split | (with_reducible refine Keeps.record ?_ (by simp) (by simp)) | dsimp only

theorem State.event_keeps {b0 : State} {s : State} {code st ctx : Nat} {detail : List Byte} (h0 : Keeps b0 s) : Keeps b0 (State.event s code st ctx detail) := by
  unfold State.event
  try dsimp only
  repeat' first | with_reducible assumption | intro _ | with_reducible apply State.send_keeps | simp only [Keeps.mk_iff] | split | (with_reducible refine Keeps.record ?_ (by simp) (by simp)) | dsimp only

theorem State.pageRequest_keeps {b0 : State} {s : State} {ctx st page : Nat} {a : Access} (h0 : Keeps b0 s) : Keeps b0 (State.pageRequest s ctx st page a) := by
  unfold State.pageRequest
  try dsimp only
  repeat' first | with_reducible assumption | intro _ | with_reducible apply State.modContext_keeps | with_reducible apply State.event_keeps | simp only [Keeps.mk_iff] | split | (with_reducible refine Keeps.record ?_ (by simp) (by simp)) | dsimp only

theorem State.castlingAborts_keeps {b0 : State} {s : State} {reason : Nat} (h0 : Keeps b0 s) : Keeps b0 (State.castlingAborts s reason) := by
  unfold State.castlingAborts
  try dsimp only
  repeat' first | with_reducible assumption | intro _ | with_reducible apply State.modStack_keeps | with_reducible apply State.event_keeps | simp only [Keeps.mk_iff] | split | (with_reducible refine Keeps.record ?_ (by simp) (by simp)) | dsimp only

theorem State.raiseHalt_keeps {b0 : State} {s : State} {h : Halt} (h0 : Keeps b0 s) : Keeps b0 (State.raiseHalt s h) := by
  unfold State.raiseHalt
  try dsimp only
  repeat' first | with_reducible assumption | intro _ | with_reducible apply State.modPartition_keeps | with_reducible apply State.castlingAborts_keeps | simp only [Keeps.mk_iff] | split | (with_reducible refine Keeps.record ?_ (by simp) (by simp)) | dsimp only

theorem Issue.fault_keeps {b0 : State} {c : Issue} {s : State} {reason va : Nat} {performed skipped : BitVec 32} (h1 : Keeps b0 s) : Keeps b0 (Issue.fault c s reason va performed skipped) := by
  unfold Issue.fault
  try dsimp only
  repeat' first | with_reducible assumption | intro _ | with_reducible apply State.modWave_keeps | with_reducible apply State.raiseHalt_keeps | simp only [Keeps.mk_iff] | split | (with_reducible refine Keeps.record ?_ (by simp) (by simp)) | dsimp only

theorem Issue.finishAt_keeps {b0 : State} {c : Issue} {i : Instr} {s0 s : State} {core : WaveCore} {traps : BitVec 32} {why : Nat → Cause} {resume : W64} (h2 : Keeps b0 s0) (h3 : Keeps b0 s) : Keeps b0 (Issue.finishAt c i s0 s core traps why resume) := by
  unfold Issue.finishAt
  try dsimp only
  repeat' first | with_reducible assumption | intro _ | with_reducible apply State.setWave_keeps | with_reducible apply Issue.specStall_keeps | with_reducible apply State.raiseHalt_keeps | simp only [Keeps.mk_iff] | split | (with_reducible refine Keeps.record ?_ (by simp) (by simp)) | dsimp only

theorem Issue.finish_keeps {b0 : State} {c : Issue} {i : Instr} {s0 s : State} {core : WaveCore} {traps : BitVec 32} {why : Nat → Cause} {resume : W64} (h2 : Keeps b0 s0) (h3 : Keeps b0 s) : Keeps b0 (Issue.finish c i s0 s core traps why resume) := by
  unfold Issue.finish
  try dsimp only
  repeat' first | with_reducible assumption | intro _ | with_reducible apply Issue.finishAt_keeps | simp only [Keeps.mk_iff] | split | (with_reducible refine Keeps.record ?_ (by simp) (by simp)) | dsimp only

theorem Issue.trapWhole_keeps {b0 : State} {c : Issue} {i : Instr} {s : State} {x : Cause} (h2 : Keeps b0 s) : Keeps b0 (Issue.trapWhole c i s x) := by
  unfold Issue.trapWhole
  try dsimp only
  repeat' first | with_reducible assumption | intro _ | with_reducible apply Issue.finish_keeps | simp only [Keeps.mk_iff] | split | (with_reducible refine Keeps.record ?_ (by simp) (by simp)) | dsimp only

theorem decideIssue_keeps {b0 : State} {i : Instr} {s t : State} (h : Keeps b0 s) (e : decideIssue i s = .hold t) : Keeps b0 t := by
  unfold decideIssue at e
  repeat' split at e
  all_goals first | (simp at e; done) | skip
  all_goals first
    | (simp only [Decision.hold.injEq] at e; subst e; first | with_reducible assumption | (unfold Issue.tokenStall; with_reducible apply State.setWave_keeps; with_reducible assumption))
    | (unfold Issue.unlessSpec at e
       repeat' split at e
       all_goals first | (simp at e; done) | skip
       all_goals (simp only [Decision.hold.injEq] at e; subst e)
       all_goals first | with_reducible assumption | (with_reducible apply Issue.specStall_keeps; with_reducible assumption))

theorem issueWord_keeps {b0 : State} {i : Instr} {s : State} {effect : Issue → State} (h : Keeps b0 s)
    (he : ∀ c, Keeps b0 (effect c)) : KeepsOut b0 (issueWord i s effect) := by
  unfold issueWord
  split
  · exact .fault
  · exact .next (decideIssue_keeps h ‹_›)
  · exact .next (Issue.trapWhole_keeps h)
  · exact .next (Issue.trapWhole_keeps h)
  · exact .next (he _)

theorem State.touch_keeps {b0 : State} {s : State} {st pa : Nat} {write : Bool} (h0 : Keeps b0 s) : Keeps b0 (State.touch s st pa write) := by
  unfold State.touch
  try dsimp only
  repeat' first | with_reducible assumption | intro _ | simp only [Keeps.mk_iff] | split | (with_reducible refine Keeps.record ?_ (by simp) (by simp)) | dsimp only

theorem State.fillFrom_keeps {b0 : State} {s : State} {ctx st : Nat} {core : Option Nat} {ps : List (Target × Nat)} (h0 : Keeps b0 s) : Keeps b0 (State.fillFrom s ctx st core ps) := by
  unfold State.fillFrom
  try dsimp only
  repeat' first | with_reducible assumption | intro _ | with_reducible apply State.fillTlb_keeps | with_reducible apply keeps_foldl | simp only [Keeps.mk_iff] | split | (with_reducible refine Keeps.record ?_ (by simp) (by simp)) | dsimp only

theorem State.recallLog_keeps {b0 : State} {s : State} {st : Nat} (h0 : Keeps b0 s) : Keeps b0 (State.recallLog s st) := by
  unfold State.recallLog
  try dsimp only
  repeat' first | with_reducible assumption | intro _ | with_reducible apply State.backInvalidate_keeps | simp only [Keeps.mk_iff] | split | (with_reducible refine Keeps.record ?_ (by simp) (by simp)) | dsimp only

theorem Issue.access_keeps {b0 : State} {c : Issue} {i : Instr} {s : State} {a : Ask} {perform : List (Nat × List (Target × Nat)) → State → Wave → Option (State × Wave)} (h2 : Keeps b0 s) (h4 : ∀ z0 z1 z2, Keeps b0 z1 → KeepsOpt Prod.fst b0 (perform z0 z1 z2)) : Keeps b0 (Issue.access c i s a perform) := by
  unfold Issue.access
  try dsimp only
  repeat' first | with_reducible assumption | intro _ | with_reducible apply h4 | with_reducible apply State.setWave_keeps | with_reducible apply Issue.specStall_keeps | with_reducible apply State.backInvalidate_keeps | with_reducible apply State.pageRequest_keeps | with_reducible apply State.raiseHalt_keeps | with_reducible apply Issue.fault_keeps | with_reducible apply Issue.finish_keeps | with_reducible apply State.fillFrom_keeps | with_reducible apply State.recallLog_keeps | with_reducible apply keeps_foldl | with_reducible apply keeps_getD | exact keepsOpt_none | with_reducible apply keepsOpt_map | with_reducible apply keepsOpt_foldl | (with_reducible apply keepsOpt_some; try dsimp only) | with_reducible refine KeepsOpt.fst (by assumption) ?_ | with_reducible refine KeepsOpt.fst' (by assumption) ?_ | simp only [Keeps.mk_iff] | split | (with_reducible refine Keeps.record ?_ (by simp) (by simp)) | dsimp only

theorem State.failedWrite_keeps {b0 : State} {s : State} {au : Author} {st pa : Nat} {n : Nat} {mark : Bool} (h0 : Keeps b0 s) : Keeps b0 (State.failedWrite s au st pa n mark) := by
  unfold State.failedWrite
  try dsimp only
  repeat' first | with_reducible assumption | intro _ | with_reducible apply State.modStack_keeps | with_reducible apply State.put_keeps | with_reducible apply State.event_keeps | with_reducible apply keeps_getD | simp only [Keeps.mk_iff] | split | (with_reducible refine Keeps.record ?_ (by simp) (by simp)) | dsimp only

theorem State.storePiece_keeps {b0 : State} {s : State} {a : Agent} {au : Author} {st : Nat} {dir : Bool} {bs : List Byte} {mark : Bool} {y0 : Target} (h0 : Keeps b0 s) : Keeps b0 (State.storePiece s a au st dir bs mark y0) := by
  unfold State.storePiece
  try dsimp only
  repeat' first | with_reducible assumption | intro _ | with_reducible apply State.put_keeps | with_reducible apply State.putSpad_keeps | with_reducible apply State.touch_keeps | with_reducible apply State.failedWrite_keeps | with_reducible apply keeps_getD | simp only [Keeps.mk_iff] | split | (with_reducible refine Keeps.record ?_ (by simp) (by simp)) | dsimp only

theorem State.storePieces_keeps {b0 : State} {s : State} {a : Agent} {release : Bool} {st core : Nat} {bs : List Byte} {mark : Bool} {y0 : List (Target × Nat)} (h0 : Keeps b0 s) : Keeps b0 (State.storePieces s a release st core bs mark y0) := by
  revert h0
  fun_induction State.storePieces s a release st core bs mark y0 <;> intros
  all_goals (try dsimp only)
  all_goals (repeat' first | with_reducible assumption | intro _ | with_reducible apply State.storePiece_keeps | with_reducible apply_assumption | simp only [Keeps.mk_iff] | split | (with_reducible refine Keeps.record ?_ (by simp) (by simp)) | dsimp only)

end Sys2Proof.Machine
end

