-- ==== Sys2Proof/Laws/KeepsWave.lean ====
section
/-! SUPPORT. Every shared operation and meaning of the waves keeps the invariant and lets no sequence number fall. -/
set_option Elab.async false
set_option linter.unusedSimpArgs false
set_option maxRecDepth 4000

namespace Sys2Proof.Machine

/-! ### Of Machine/Integer.lean -/

theorem lane32_keeps {b0 : State} {i : Instr} {nw : Bool} {d : Reg} {f : Lane → W32} {m : Lane → Bool} {s : State} (h5 : Keeps b0 s) : KeepsOut b0 (lane32 i nw d f m s) := by
  unfold lane32
  try dsimp only
  repeat' first | with_reducible assumption | intro _ | with_reducible apply Issue.done_keeps | with_reducible apply issueWord_keeps | with_reducible apply KeepsOut.next | simp only [Keeps.mk_iff] | split | (with_reducible refine Keeps.record ?_ (by simp) (by simp)) | dsimp only

theorem lane64_keeps {b0 : State} {i : Instr} {nw : Bool} {d : Reg} {f : Lane → W64} {m : Lane → Bool} {s : State} (h5 : Keeps b0 s) : KeepsOut b0 (lane64 i nw d f m s) := by
  unfold lane64
  try dsimp only
  repeat' first | with_reducible assumption | intro _ | with_reducible apply Issue.done_keeps | with_reducible apply issueWord_keeps | with_reducible apply KeepsOut.next | simp only [Keeps.mk_iff] | split | (with_reducible refine Keeps.record ?_ (by simp) (by simp)) | dsimp only

theorem uniform64_keeps {b0 : State} {i : Instr} {d : Reg} {f : WaveCore → W64} {m : WaveCore → Bool} {s : State} (h4 : Keeps b0 s) : KeepsOut b0 (uniform64 i d f m s) := by
  unfold uniform64
  try dsimp only
  repeat' first | with_reducible assumption | intro _ | with_reducible apply Issue.done_keeps | with_reducible apply issueWord_keeps | with_reducible apply KeepsOut.next | simp only [Keeps.mk_iff] | split | (with_reducible refine Keeps.record ?_ (by simp) (by simp)) | dsimp only

theorem lanePred_keeps {b0 : State} {i : Instr} {q : BitVec 4} {f : Issue → Nat → Lane → Bool} {m : Issue → Nat → Lane → Bool} {s : State} (h4 : Keeps b0 s) : KeepsOut b0 (lanePred i q f m s) := by
  unfold lanePred
  try dsimp only
  repeat' first | with_reducible assumption | intro _ | with_reducible apply Issue.done_keeps | with_reducible apply issueWord_keeps | with_reducible apply KeepsOut.next | simp only [Keeps.mk_iff] | split | (with_reducible refine Keeps.record ?_ (by simp) (by simp)) | dsimp only

theorem shuffle_keeps {b0 : State} {i : Instr} {nw : Bool} {d a b : Reg} {source : Nat → Nat → Int} {s : State} (h6 : Keeps b0 s) : KeepsOut b0 (shuffle i nw d a b source s) := by
  unfold shuffle
  try dsimp only
  repeat' first | with_reducible assumption | intro _ | with_reducible apply Issue.done_keeps | with_reducible apply issueWord_keeps | with_reducible apply KeepsOut.next | simp only [Keeps.mk_iff] | split | (with_reducible refine Keeps.record ?_ (by simp) (by simp)) | dsimp only

theorem carryChain_keeps {b0 : State} {i : Instr} {p : BitVec 4} {nw : Bool} {d a b : Reg} {t : Int → Int → Int → Int} {s : State} (h7 : Keeps b0 s) : KeepsOut b0 (carryChain i p nw d a b t s) := by
  unfold carryChain
  try dsimp only
  repeat' first | with_reducible assumption | intro _ | with_reducible apply Issue.done_keeps | with_reducible apply issueWord_keeps | with_reducible apply KeepsOut.next | simp only [Keeps.mk_iff] | split | (with_reducible refine Keeps.record ?_ (by simp) (by simp)) | dsimp only

/-! ### Of Machine/Float.lean -/

theorem fpLane_keeps {b0 : State} {i : Instr} {nw wide : Bool} {d : Reg} {f : Lane → FpOut} {m : Lane → Bool} {s : State} (h6 : Keeps b0 s) : KeepsOut b0 (fpLane i nw wide d f m s) := by
  unfold fpLane
  try dsimp only
  repeat' first | with_reducible assumption | intro _ | with_reducible apply Issue.finish_keeps | with_reducible apply issueWord_keeps | with_reducible apply KeepsOut.next | simp only [Keeps.mk_iff] | split | (with_reducible refine Keeps.record ?_ (by simp) (by simp)) | dsimp only

theorem fpBinary_keeps {b0 : State} {i : Instr} {nw wide : Bool} {d a b : Reg} {f : Nat → Nat → Res} {s : State} (h7 : Keeps b0 s) : KeepsOut b0 (fpBinary i nw wide d a b f s) := by
  unfold fpBinary
  try dsimp only
  repeat' first | with_reducible assumption | intro _ | with_reducible apply fpLane_keeps | with_reducible apply KeepsOut.next | with_reducible refine KeepsOut.of (by assumption) ?_ | simp only [Keeps.mk_iff] | split | (with_reducible refine Keeps.record ?_ (by simp) (by simp)) | dsimp only

theorem fpFused_keeps {b0 : State} {i : Instr} {nw wide : Bool} {d a b : Reg} {f : Nat → Nat → Nat → Res} {s : State} (h7 : Keeps b0 s) : KeepsOut b0 (fpFused i nw wide d a b f s) := by
  unfold fpFused
  try dsimp only
  repeat' first | with_reducible assumption | intro _ | with_reducible apply fpLane_keeps | with_reducible apply KeepsOut.next | with_reducible refine KeepsOut.of (by assumption) ?_ | simp only [Keeps.mk_iff] | split | (with_reducible refine Keeps.record ?_ (by simp) (by simp)) | dsimp only

theorem fpUnary_keeps {b0 : State} {i : Instr} {nw wide : Bool} {d a : Reg} {f : Nat → Res} {s : State} (h6 : Keeps b0 s) : KeepsOut b0 (fpUnary i nw wide d a f s) := by
  unfold fpUnary
  try dsimp only
  repeat' first | with_reducible assumption | intro _ | with_reducible apply fpLane_keeps | with_reducible apply KeepsOut.next | with_reducible refine KeepsOut.of (by assumption) ?_ | simp only [Keeps.mk_iff] | split | (with_reducible refine Keeps.record ?_ (by simp) (by simp)) | dsimp only

theorem fpPacked_keeps {b0 : State} {i : Instr} {nw : Bool} {d a b : Reg} {f : Nat → Nat → Res} {s : State} (h6 : Keeps b0 s) : KeepsOut b0 (fpPacked i nw d a b f s) := by
  unfold fpPacked
  try dsimp only
  repeat' first | with_reducible assumption | intro _ | with_reducible apply fpLane_keeps | with_reducible apply KeepsOut.next | with_reducible refine KeepsOut.of (by assumption) ?_ | simp only [Keeps.mk_iff] | split | (with_reducible refine Keeps.record ?_ (by simp) (by simp)) | dsimp only

theorem fpQuiet_keeps {b0 : State} {i : Instr} {nw wide : Bool} {d : Reg} {f : Lane → W64} {m : Lane → Bool} {s : State} (h6 : Keeps b0 s) : KeepsOut b0 (fpQuiet i nw wide d f m s) := by
  unfold fpQuiet
  try dsimp only
  repeat' first | with_reducible assumption | intro _ | with_reducible apply Issue.done_keeps | with_reducible apply issueWord_keeps | with_reducible apply KeepsOut.next | simp only [Keeps.mk_iff] | split | (with_reducible refine Keeps.record ?_ (by simp) (by simp)) | dsimp only

/-! ### Of Machine/Sync.lean -/

theorem State.setBar_keeps {b0 : State} {s : State} {i : Inst} {b : Barrier} (h0 : Keeps b0 s) : Keeps b0 (State.setBar s i b) := by
  unfold State.setBar
  try dsimp only
  repeat' first | with_reducible assumption | intro _ | with_reducible apply State.modGang_keeps | with_reducible apply State.modWave_keeps | with_reducible apply State.modLaunch_keeps | simp only [Keeps.mk_iff] | split | (with_reducible refine Keeps.record ?_ (by simp) (by simp)) | dsimp only

theorem State.wakeAll_keeps {b0 : State} {s : State} {i : Inst} {phase : W32} {v : Seen} (h0 : Keeps b0 s) : Keeps b0 (State.wakeAll s i phase v) := by
  unfold State.wakeAll
  try dsimp only
  repeat' first | with_reducible assumption | intro _ | simp only [Keeps.mk_iff] | split | (with_reducible refine Keeps.record ?_ (by simp) (by simp)) | dsimp only

theorem State.drain_keeps {b0 : State} {s : State} {g w st core : Nat} {x : Buffered} (h0 : Keeps b0 s) : Keeps b0 (State.drain s g w st core x) := by
  unfold State.drain
  try dsimp only
  repeat' first | with_reducible assumption | intro _ | with_reducible apply State.storePieces_keeps | simp only [Keeps.mk_iff] | split | (with_reducible refine Keeps.record ?_ (by simp) (by simp)) | dsimp only

theorem State.drainAll_keeps {b0 : State} {s : State} {g st : Nat} {y0 : Nat} {y1 : List (Nat × Nat × List Buffered)} (h0 : Keeps b0 s) : Keeps b0 (State.drainAll s g st y0 y1) := by
  revert h0
  fun_induction State.drainAll s g st y0 y1 <;> intros
  all_goals (try dsimp only)
  all_goals (repeat' first | with_reducible assumption | intro _ | with_reducible apply State.drain_keeps | with_reducible apply_assumption | simp only [Keeps.mk_iff] | split | (with_reducible refine Keeps.record ?_ (by simp) (by simp)) | dsimp only)

theorem State.heldFault_keeps {b0 : State} {s : State} {g w : Nat} {sp : Spec} (h0 : Keeps b0 s) : Keeps b0 (State.heldFault s g w sp) := by
  unfold State.heldFault
  try dsimp only
  repeat' first | with_reducible assumption | intro _ | with_reducible apply State.raiseHalt_keeps | with_reducible apply Issue.fault_keeps | simp only [Keeps.mk_iff] | split | (with_reducible refine Keeps.record ?_ (by simp) (by simp)) | dsimp only

theorem State.commit_keeps {b0 : State} {s : State} {g n : Nat} {v : Seen} (h0 : Keeps b0 s) : Keeps b0 (State.commit s g n v) := by
  unfold State.commit
  try dsimp only
  repeat' first | with_reducible assumption | intro _ | with_reducible apply State.modStack_keeps | with_reducible apply State.modWave_keeps | with_reducible apply State.drainAll_keeps | with_reducible apply State.heldFault_keeps | with_reducible apply keeps_foldl | simp only [Keeps.mk_iff] | split | (with_reducible refine Keeps.record ?_ (by simp) (by simp)) | dsimp only

theorem State.settle_keeps {b0 : State} {s : State} {i : Inst} (h0 : Keeps b0 s) : Keeps b0 (State.settle s i) := by
  unfold State.settle
  try dsimp only
  repeat' first | with_reducible assumption | intro _ | with_reducible apply State.setBar_keeps | with_reducible apply State.wakeAll_keeps | with_reducible apply State.commit_keeps | simp only [Keeps.mk_iff] | split | (with_reducible refine Keeps.record ?_ (by simp) (by simp)) | dsimp only

theorem State.modBar_keeps {b0 : State} {s : State} {i : Inst} {f : Barrier → Barrier} (h0 : Keeps b0 s) : Keeps b0 (State.modBar s i f) := by
  unfold State.modBar
  try dsimp only
  repeat' first | with_reducible assumption | intro _ | with_reducible apply State.setBar_keeps | with_reducible apply State.settle_keeps | simp only [Keeps.mk_iff] | split | (with_reducible refine Keeps.record ?_ (by simp) (by simp)) | dsimp only

theorem State.exitLanes_keeps {b0 : State} {s : State} {g w : Nat} {lanes : BitVec 32} (h0 : Keeps b0 s) : Keeps b0 (State.exitLanes s g w lanes) := by
  unfold State.exitLanes
  try dsimp only
  repeat' first | with_reducible assumption | intro _ | with_reducible apply State.modBar_keeps | with_reducible apply keeps_foldl | simp only [Keeps.mk_iff] | split | (with_reducible refine Keeps.record ?_ (by simp) (by simp)) | dsimp only

theorem State.gangArrival_keeps {b0 : State} {s : State} {g : Nat} {pkg : Bool} {n : Nat} (h0 : Keeps b0 s) : Keeps b0 (State.gangArrival s g pkg n) := by
  unfold State.gangArrival
  try dsimp only
  repeat' first | with_reducible assumption | intro _ | with_reducible apply State.modBar_keeps | with_reducible apply keeps_getD | simp only [Keeps.mk_iff] | split | (with_reducible refine Keeps.record ?_ (by simp) (by simp)) | dsimp only

theorem State.retireFromBarriers_keeps {b0 : State} {s : State} {g w : Nat} (h0 : Keeps b0 s) : Keeps b0 (State.retireFromBarriers s g w) := by
  unfold State.retireFromBarriers
  try dsimp only
  repeat' first | with_reducible assumption | intro _ | with_reducible apply State.modBar_keeps | with_reducible apply State.gangArrival_keeps | with_reducible apply keeps_foldl | simp only [Keeps.mk_iff] | split | (with_reducible refine Keeps.record ?_ (by simp) (by simp)) | dsimp only

theorem State.gangLeaves_keeps {b0 : State} {s : State} {g : Nat} (h0 : Keeps b0 s) : Keeps b0 (State.gangLeaves s g) := by
  unfold State.gangLeaves
  try dsimp only
  repeat' first | with_reducible assumption | intro _ | with_reducible apply State.modBar_keeps | with_reducible apply keeps_foldl | simp only [Keeps.mk_iff] | split | (with_reducible refine Keeps.record ?_ (by simp) (by simp)) | dsimp only

theorem Issue.block_keeps {b0 : State} {c : Issue} {i : Instr} {s : State} {core : WaveCore} {x : Wait} (h2 : Keeps b0 s) : Keeps b0 (Issue.block c i s core x) := by
  unfold Issue.block
  try dsimp only
  repeat' first | with_reducible assumption | intro _ | with_reducible apply State.setWave_keeps | simp only [Keeps.mk_iff] | split | (with_reducible refine Keeps.record ?_ (by simp) (by simp)) | dsimp only

theorem Issue.trapActive_keeps {b0 : State} {c : Issue} {i : Instr} {s : State} (h2 : Keeps b0 s) : Keeps b0 (Issue.trapActive c i s) := by
  unfold Issue.trapActive
  try dsimp only
  repeat' first | with_reducible assumption | intro _ | with_reducible apply Issue.finish_keeps | simp only [Keeps.mk_iff] | split | (with_reducible refine Keeps.record ?_ (by simp) (by simp)) | dsimp only

theorem Issue.arrive_keeps {b0 : State} {c : Issue} {s : State} {sc : BarScope} {n : Nat} (h1 : Keeps b0 s) : Keeps b0 (Issue.arrive c s sc n) := by
  unfold Issue.arrive
  try dsimp only
  repeat' first | with_reducible assumption | intro _ | with_reducible apply State.modGang_keeps | with_reducible apply State.setBar_keeps | with_reducible apply State.modBar_keeps | with_reducible apply State.gangArrival_keeps | with_reducible apply keeps_foldl | with_reducible apply keeps_getD | simp only [Keeps.mk_iff] | split | (with_reducible refine Keeps.record ?_ (by simp) (by simp)) | dsimp only

theorem Issue.advanceIn_keeps {b0 : State} {c : Issue} {i : Instr} {s : State} (h2 : Keeps b0 s) : Keeps b0 (Issue.advanceIn c i s) := by
  unfold Issue.advanceIn
  try dsimp only
  repeat' first | with_reducible assumption | intro _ | with_reducible apply State.modWave_keeps | simp only [Keeps.mk_iff] | split | (with_reducible refine Keeps.record ?_ (by simp) (by simp)) | dsimp only

theorem Issue.blockIn_keeps {b0 : State} {c : Issue} {i : Instr} {s : State} {x : Wait} (h2 : Keeps b0 s) : Keeps b0 (Issue.blockIn c i s x) := by
  unfold Issue.blockIn
  try dsimp only
  repeat' first | with_reducible assumption | intro _ | with_reducible apply State.modWave_keeps | simp only [Keeps.mk_iff] | split | (with_reducible refine Keeps.record ?_ (by simp) (by simp)) | dsimp only

theorem Issue.acquires_keeps {b0 : State} {c : Issue} {s : State} {v : Seen} (h1 : Keeps b0 s) : Keeps b0 (Issue.acquires c s v) := by
  unfold Issue.acquires
  try dsimp only
  repeat' first | with_reducible assumption | intro _ | with_reducible apply State.modWave_keeps | simp only [Keeps.mk_iff] | split | (with_reducible refine Keeps.record ?_ (by simp) (by simp)) | dsimp only

theorem Issue.speculate_keeps {b0 : State} {c : Issue} {i : Instr} {s : State} {n : Nat} {mine : W32} (h2 : Keeps b0 s) : Keeps b0 (Issue.speculate c i s n mine) := by
  unfold Issue.speculate
  try dsimp only
  repeat' first | with_reducible assumption | intro _ | with_reducible apply State.modStack_keeps | with_reducible apply State.modWave_keeps | simp only [Keeps.mk_iff] | split | (with_reducible refine Keeps.record ?_ (by simp) (by simp)) | dsimp only

theorem State.popWord_keeps {b0 : State} {s : State} {g w q : Nat} (h0 : Keeps b0 s) : Keeps b0 (State.popWord s g w q) := by
  unfold State.popWord
  try dsimp only
  repeat' first | with_reducible assumption | intro _ | with_reducible apply State.modGang_keeps | with_reducible apply State.modWave_keeps | simp only [Keeps.mk_iff] | split | (with_reducible refine Keeps.record ?_ (by simp) (by simp)) | dsimp only

theorem State.pushWord_keeps {b0 : State} {s : State} {g w q : Nat} {v : QWord} (h0 : Keeps b0 s) : Keeps b0 (State.pushWord s g w q v) := by
  unfold State.pushWord
  try dsimp only
  repeat' first | with_reducible assumption | intro _ | with_reducible apply State.modGang_keeps | with_reducible apply State.modWave_keeps | simp only [Keeps.mk_iff] | split | (with_reducible refine Keeps.record ?_ (by simp) (by simp)) | dsimp only

theorem State.report_keeps {b0 : State} {s : State} {g w q : Nat} {v : QWord} (h0 : Keeps b0 s) : Keeps b0 (State.report s g w q v) := by
  unfold State.report
  try dsimp only
  repeat' first | with_reducible assumption | intro _ | with_reducible apply State.modWave_keeps | with_reducible apply keeps_getD | simp only [Keeps.mk_iff] | split | (with_reducible refine Keeps.record ?_ (by simp) (by simp)) | dsimp only

theorem State.queueStep_keeps {b0 : State} {s : State} {g w k : Nat} (h0 : Keeps b0 s) : KeepsOpt (fun x => x) b0 (State.queueStep s g w k) := by
  unfold State.queueStep
  try dsimp only
  repeat' first | with_reducible assumption | intro _ | with_reducible apply State.modWave_keeps | with_reducible apply State.popWord_keeps | with_reducible apply State.pushWord_keeps | exact keepsOpt_none | (with_reducible apply keepsOpt_some; try dsimp only) | simp only [Keeps.mk_iff] | split | (with_reducible refine Keeps.record ?_ (by simp) (by simp)) | dsimp only

theorem State.settleQueues_keeps {b0 : State} {s : State} {g : Nat} {y0 : Nat} (h0 : Keeps b0 s) : Keeps b0 (State.settleQueues s g y0) := by
  revert h0
  fun_induction State.settleQueues s g y0 <;> intros
  all_goals (try dsimp only)
  all_goals (repeat' first | with_reducible assumption | intro _ | with_reducible apply State.queueStep_keeps | with_reducible apply_assumption | with_reducible apply keeps_getD | exact keepsOpt_none | (with_reducible apply keepsOpt_some; try dsimp only) | with_reducible refine KeepsOpt.id (by assumption) ?_ | simp only [Keeps.mk_iff] | split | (with_reducible refine Keeps.record ?_ (by simp) (by simp)) | dsimp only)

theorem State.settleGangQueues_keeps {b0 : State} {s : State} {g : Nat} (h0 : Keeps b0 s) : Keeps b0 (State.settleGangQueues s g) := by
  unfold State.settleGangQueues
  try dsimp only
  repeat' first | with_reducible assumption | intro _ | with_reducible apply State.settleQueues_keeps | simp only [Keeps.mk_iff] | split | (with_reducible refine Keeps.record ?_ (by simp) (by simp)) | dsimp only

theorem State.setToken_keeps {b0 : State} {s : State} {g w : Nat} {t : Option Nat} {status : Nat} {vis src : Bool} {v : Seen} (h0 : Keeps b0 s) : Keeps b0 (State.setToken s g w t status vis src v) := by
  unfold State.setToken
  try dsimp only
  repeat' first | with_reducible assumption | intro _ | with_reducible apply State.modWave_keeps | simp only [Keeps.mk_iff] | split | (with_reducible refine Keeps.record ?_ (by simp) (by simp)) | dsimp only

theorem tokenWait_keeps {b0 : State} {i : Instr} {vis : Bool} {a : Reg} {s : State} (h3 : Keeps b0 s) : KeepsOut b0 (tokenWait i vis a s) := by
  unfold tokenWait
  try dsimp only
  repeat' first | with_reducible assumption | intro _ | with_reducible apply Issue.done_keeps | with_reducible apply issueWord_keeps | with_reducible apply Issue.block_keeps | with_reducible apply KeepsOut.next | simp only [Keeps.mk_iff] | split | (with_reducible refine Keeps.record ?_ (by simp) (by simp)) | dsimp only

/-! ### Of Machine/Capture.lean -/

theorem State.logAppend_keeps {b0 : State} {s : State} {st ctx : Nat} {record : List Byte} (h0 : Keeps b0 s) : Keeps b0 (State.logAppend s st ctx record) := by
  unfold State.logAppend
  try dsimp only
  repeat' first | with_reducible assumption | intro _ | with_reducible apply State.modStack_keeps | with_reducible apply State.putDevice_keeps | with_reducible apply State.event_keeps | simp only [Keeps.mk_iff] | split | (with_reducible refine Keeps.record ?_ (by simp) (by simp)) | dsimp only

theorem State.logged_keeps {b0 : State} {s : State} {st : Nat} {l : Launch} {type core slot keyLen : Nat} {payload : List Byte} (h0 : Keeps b0 s) : KeepsLogged b0 (State.logged s st l type core slot keyLen payload) := by
  unfold State.logged
  try dsimp only
  repeat' first | with_reducible assumption | intro _ | with_reducible apply State.modStack_keeps | with_reducible apply State.event_keeps | with_reducible apply State.logAppend_keeps | with_reducible apply KeepsLogged.go | exact KeepsLogged.hold | simp only [Keeps.mk_iff] | split | (with_reducible refine Keeps.record ?_ (by simp) (by simp)) | dsimp only

theorem State.readNow_keeps {b0 : State} {s : State} {c : Issue} (h0 : Keeps b0 s) : KeepsOpt Prod.snd b0 (State.readNow s c) := by
  unfold State.readNow
  try dsimp only
  repeat' first | with_reducible assumption | intro _ | with_reducible apply State.logged_keeps | with_reducible apply KeepsLogged.go | exact KeepsLogged.hold | exact keepsOpt_none | (with_reducible apply keepsOpt_some; try dsimp only) | with_reducible refine KeepsLogged.of (by assumption) ?_ | simp only [Keeps.mk_iff] | split | (with_reducible refine Keeps.record ?_ (by simp) (by simp)) | dsimp only

theorem State.readPiece_keeps {b0 : State} {s : State} {look : State → Target → Nat → Got} {st core slot : Nat} {l : Option Launch} {t : Target} {n : Nat} (h0 : Keeps b0 s) : KeepsOpt Prod.snd b0 (State.readPiece s look st core slot l t n) := by
  unfold State.readPiece
  try dsimp only
  repeat' first | with_reducible assumption | intro _ | with_reducible apply State.logged_keeps | with_reducible apply KeepsLogged.go | exact KeepsLogged.hold | exact keepsOpt_none | (with_reducible apply keepsOpt_some; try dsimp only) | with_reducible refine KeepsLogged.of (by assumption) ?_ | simp only [Keeps.mk_iff] | split | (with_reducible refine Keeps.record ?_ (by simp) (by simp)) | dsimp only

theorem State.readThrough_keeps {b0 : State} {look : State → Target → Nat → Got} {st core slot : Nat} {l : Option Launch} {y0 : List (Target × Nat)} {y1 : State} (h6 : Keeps b0 y1) : KeepsOpt Prod.snd b0 (State.readThrough look st core slot l y0 y1) := by
  revert h6
  fun_induction State.readThrough look st core slot l y0 y1 <;> intros
  all_goals (try dsimp only)
  all_goals (repeat' first | with_reducible assumption | intro _ | with_reducible apply State.readPiece_keeps | with_reducible apply_assumption | exact keepsOpt_none | (with_reducible apply keepsOpt_some; try dsimp only) | with_reducible refine KeepsOpt.snd (by assumption) ?_ | with_reducible refine KeepsOpt.snd' (by assumption) ?_ | simp only [Keeps.mk_iff] | split | (with_reducible refine Keeps.record ?_ (by simp) (by simp)) | dsimp only)

/-! ### Of Machine/Atomic.lean -/

theorem State.atomicAt_keeps {b0 : State} {s : State} {a : Agent} {heads : List Head} {st point : Nat} {returns : Bool} {t : Target} {n : Nat} {mark : Bool} {f : W64 → Option W64} (h0 : Keeps b0 s) : Keeps b0 (State.atomicAt s a heads st point returns t n mark f).state := by
  unfold State.atomicAt
  try dsimp only
  repeat' first | with_reducible assumption | intro _ | with_reducible apply State.touch_keeps | with_reducible apply State.storePiece_keeps | with_reducible apply keeps_getD | simp only [Keeps.mk_iff] | split | (with_reducible refine Keeps.record ?_ (by simp) (by simp)) | dsimp only

theorem State.performAtomic_keeps {b0 : State} {s : State} {a : Agent} {heads : List Head} {g w : Nat} {x : LaneAtomic} (h0 : Keeps b0 s) : KeepsOpt Performed.state b0 (State.performAtomic s a heads g w x) := by
  unfold State.performAtomic
  try dsimp only
  repeat' first | with_reducible assumption | intro _ | with_reducible apply State.logged_keeps | with_reducible apply State.atomicAt_keeps | with_reducible apply keeps_getD | with_reducible apply KeepsLogged.go | exact KeepsLogged.hold | exact keepsOpt_none | with_reducible apply keepsOpt_map | (with_reducible apply keepsOpt_some; try dsimp only) | with_reducible refine KeepsLogged.of (by assumption) ?_ | simp only [Keeps.mk_iff] | split | (with_reducible refine Keeps.record ?_ (by simp) (by simp)) | dsimp only

theorem State.performAtomics_keeps {b0 : State} {g w : Nat} {agent : Nat → Agent} {release : Bool} {fuel : Nat} :
    ∀ {s : State} {xs : List LaneAtomic}, Keeps b0 s → KeepsOpt Prod.fst b0 (s.performAtomics g w agent release fuel xs) := by
  induction fuel with
  | zero => intro s xs h; exact keepsOpt_some h
  | succ fuel ih =>
    intro s xs h
    unfold State.performAtomics
    dsimp only
    split
    · exact keepsOpt_some h
    · split
      · exact keepsOpt_none
      · rename_i r e
        have hr : Keeps b0 r.state := KeepsOpt.performed e (State.performAtomic_keeps h)
        split
        · exact keepsOpt_none
        · exact keepsOpt_some (KeepsOpt.fst' (by assumption) (ih hr))

theorem State.performMatom_keeps {b0 : State} {s : State} {k : Nat} (h0 : Keeps b0 s) : KeepsOpt (fun x => x) b0 (State.performMatom s k) := by
  unfold State.performMatom
  try dsimp only
  repeat' first | with_reducible assumption | intro _ | with_reducible apply State.modWave_keeps | with_reducible apply State.performAtomic_keeps | exact keepsOpt_none | with_reducible apply keepsOpt_map | (with_reducible apply keepsOpt_some; try dsimp only) | with_reducible refine KeepsOpt.performed (by assumption) ?_ | simp only [Keeps.mk_iff] | split | (with_reducible refine Keeps.record ?_ (by simp) (by simp)) | dsimp only

theorem State.flushMatoms_keeps {b0 : State} {s : State} {g w lane pa n : Nat} {y0 : Nat} (h0 : Keeps b0 s) : KeepsOpt (fun x => x) b0 (State.flushMatoms s g w lane pa n y0) := by
  revert h0
  fun_induction State.flushMatoms s g w lane pa n y0 <;> intros
  all_goals (try dsimp only)
  all_goals (repeat' first | with_reducible assumption | intro _ | with_reducible apply State.modWave_keeps | with_reducible apply State.performMatom_keeps | with_reducible apply_assumption | with_reducible apply keeps_getD | exact keepsOpt_none | with_reducible apply keepsOpt_map | (with_reducible apply keepsOpt_some; try dsimp only) | with_reducible refine KeepsOpt.id (by assumption) ?_ | simp only [Keeps.mk_iff] | split | (with_reducible refine Keeps.record ?_ (by simp) (by simp)) | dsimp only)

theorem State.flushBefore_keeps {b0 : State} {s : State} {g w k : Nat} {y0 : Nat} {y1 : Seen} (h0 : Keeps b0 s) : KeepsOpt Prod.fst b0 (State.flushBefore s g w k y0 y1) := by
  revert h0
  fun_induction State.flushBefore s g w k y0 y1 <;> intros
  all_goals (try dsimp only)
  all_goals (repeat' first | with_reducible assumption | intro _ | with_reducible apply State.performMatom_keeps | with_reducible apply_assumption | with_reducible apply keeps_getD | exact keepsOpt_none | with_reducible apply keepsOpt_map | (with_reducible apply keepsOpt_some; try dsimp only) | with_reducible refine KeepsOpt.id (by assumption) ?_ | simp only [Keeps.mk_iff] | split | (with_reducible refine Keeps.record ?_ (by simp) (by simp)) | dsimp only)

theorem State.flushLanes_keeps {b0 : State} {s : State} {g w : Nat} {oks : List (Nat × List (Target × Nat))} (h0 : Keeps b0 s) : KeepsOpt (fun x => x) b0 (State.flushLanes s g w oks) := by
  unfold State.flushLanes
  try dsimp only
  repeat' first | with_reducible assumption | intro _ | with_reducible apply State.flushMatoms_keeps | with_reducible apply keeps_foldl | exact keepsOpt_none | with_reducible apply keepsOpt_map | with_reducible apply keepsOpt_bind | with_reducible apply keepsOpt_foldl | (with_reducible apply keepsOpt_some; try dsimp only) | with_reducible refine KeepsOpt.id (by assumption) ?_ | simp only [Keeps.mk_iff] | split | (with_reducible refine Keeps.record ?_ (by simp) (by simp)) | dsimp only

/-! ### Of Machine/Tensor.lean -/

theorem State.writeEntry_keeps {b0 : State} {s : State} {au : Author} {ctx id : Nat} {t : Option Tensor} (h0 : Keeps b0 s) : Keeps b0 (State.writeEntry s au ctx id t) := by
  unfold State.writeEntry
  try dsimp only
  repeat' first | with_reducible assumption | intro _ | with_reducible apply State.modContext_keeps | with_reducible apply State.rollbackWave_keeps | with_reducible apply keeps_foldl | with_reducible apply keeps_getD | simp only [Keeps.mk_iff] | split | (with_reducible refine Keeps.record ?_ (by simp) (by simp)) | dsimp only

theorem tensorAccess_keeps {b0 : State} {i : Instr} {a b : Reg} {effect : Issue → Nat → Nat → State} {s : State} (h3 : ∀ z0 z1 z2, Keeps b0 (effect z0 z1 z2)) (h4 : Keeps b0 s) : KeepsOut b0 (tensorAccess i a b effect s) := by
  unfold tensorAccess
  try dsimp only
  repeat' first | with_reducible assumption | intro _ | with_reducible apply h3 | with_reducible apply Issue.done_keeps | with_reducible apply Issue.fault_keeps | with_reducible apply issueWord_keeps | with_reducible apply Issue.trapActive_keeps | with_reducible apply KeepsOut.next | exact KeepsOut.fault | simp only [Keeps.mk_iff] | split | (with_reducible refine Keeps.record ?_ (by simp) (by simp)) | dsimp only

/-! ### Of Machine/Engine.lean -/

theorem State.fresh_keeps {b0 : State} {s : State} (h0 : Keeps b0 s) : Keeps b0 (State.fresh s).2 := by
  unfold State.fresh
  try dsimp only
  repeat' first | with_reducible assumption | intro _ | simp only [Keeps.mk_iff] | split | (with_reducible refine Keeps.record ?_ (by simp) (by simp)) | dsimp only

theorem State.addCommand_keeps {b0 : State} {s : State} {x : Command} (h0 : Keeps b0 s) : Keeps b0 (State.addCommand s x) := by
  unfold State.addCommand
  try dsimp only
  repeat' first | with_reducible assumption | intro _ | with_reducible apply State.fresh_keeps | with_reducible refine keeps_pair (by assumption) ?_ | simp only [Keeps.mk_iff] | split | (with_reducible refine Keeps.record ?_ (by simp) (by simp)) | dsimp only

theorem State.commandEnd_keeps {b0 : State} {s : State} {x : Command} {status units : Nat} {v : Seen} (h0 : Keeps b0 s) : Keeps b0 (State.commandEnd s x status units v) := by
  unfold State.commandEnd
  try dsimp only
  repeat' first | with_reducible assumption | intro _ | with_reducible apply State.report_keeps | with_reducible apply State.settleGangQueues_keeps | with_reducible apply State.setToken_keeps | simp only [Keeps.mk_iff] | split | (with_reducible refine Keeps.record ?_ (by simp) (by simp)) | dsimp only

theorem submit_keeps {b0 : State} {i : Instr} {k : EngineKind} {nw : Bool} {d a : Reg} {held : Bool} {s : State} (h6 : Keeps b0 s) : KeepsOut b0 (submit i k nw d a held s) := by
  unfold submit
  try dsimp only
  repeat' first | with_reducible assumption | intro _ | with_reducible apply Issue.done_keeps | with_reducible apply Issue.fault_keeps | with_reducible apply issueWord_keeps | with_reducible apply Issue.trapActive_keeps | with_reducible apply State.addCommand_keeps | with_reducible apply State.commandEnd_keeps | with_reducible apply keeps_getD | with_reducible apply KeepsOut.next | exact KeepsOut.fault | simp only [Keeps.mk_iff] | split | (with_reducible refine Keeps.record ?_ (by simp) (by simp)) | dsimp only

theorem State.whenClear_keeps {b0 : State} {s : State} {st : Nat} {write : Bool} {ps : List (Target × Nat)} {next : State} (h0 : Keeps b0 s) (h4 : Keeps b0 next) : Keeps b0 (State.whenClear s st write ps next) := by
  unfold State.whenClear
  try dsimp only
  repeat' first | with_reducible assumption | intro _ | with_reducible apply State.backInvalidate_keeps | simp only [Keeps.mk_iff] | split | (with_reducible refine Keeps.record ?_ (by simp) (by simp)) | dsimp only

theorem State.storeElement_keeps {b0 : State} {s : State} {a : Agent} {st : Nat} {bs : List Byte} {mark : Bool} {t : Target} (h0 : Keeps b0 s) : Keeps b0 (State.storeElement s a st bs mark t) := by
  unfold State.storeElement
  try dsimp only
  repeat' first | with_reducible assumption | intro _ | with_reducible apply State.writeElement_keeps | with_reducible apply State.writeSpadElement_keeps | with_reducible apply State.conflicts_keeps | with_reducible apply State.touch_keeps | with_reducible apply State.failedWrite_keeps | with_reducible apply keeps_getD | simp only [Keeps.mk_iff] | split | (with_reducible refine Keeps.record ?_ (by simp) (by simp)) | dsimp only

theorem State.cleanSectors_keeps {b0 : State} {s : State} {a : Agent} (h0 : Keeps b0 s) : Keeps b0 (State.cleanSectors s a) := by
  unfold State.cleanSectors
  try dsimp only
  repeat' first | with_reducible assumption | intro _ | with_reducible apply State.writeElement_keeps | with_reducible apply State.writeSpadElement_keeps | with_reducible apply keeps_foldl | with_reducible apply keeps_getD | simp only [Keeps.mk_iff] | split | (with_reducible refine Keeps.record ?_ (by simp) (by simp)) | dsimp only

theorem State.delCommand_keeps {b0 : State} {s : State} {k : Nat} (h0 : Keeps b0 s) : Keeps b0 (State.delCommand s k) := by
  unfold State.delCommand
  try dsimp only
  repeat' first | with_reducible assumption | intro _ | simp only [Keeps.mk_iff] | split | (with_reducible refine Keeps.record ?_ (by simp) (by simp)) | dsimp only

theorem State.modCommand_keeps {b0 : State} {s : State} {k : Nat} {f : Command → Command} (h0 : Keeps b0 s) : Keeps b0 (State.modCommand s k f) := by
  unfold State.modCommand
  try dsimp only
  repeat' first | with_reducible assumption | intro _ | simp only [Keeps.mk_iff] | split | (with_reducible refine Keeps.record ?_ (by simp) (by simp)) | dsimp only

theorem State.commandFault_keeps {b0 : State} {s : State} {k : Nat} {x : Command} {reason va : Nat} (h0 : Keeps b0 s) : Keeps b0 (State.commandFault s k x reason va) := by
  unfold State.commandFault
  try dsimp only
  repeat' first | with_reducible assumption | intro _ | with_reducible apply State.raiseHalt_keeps | with_reducible apply State.delCommand_keeps | simp only [Keeps.mk_iff] | split | (with_reducible refine Keeps.record ?_ (by simp) (by simp)) | dsimp only

theorem State.commandHold_keeps {b0 : State} {s : State} {k : Nat} {x : Command} {page : Nat} (h0 : Keeps b0 s) : Keeps b0 (State.commandHold s k x page) := by
  unfold State.commandHold
  try dsimp only
  repeat' first | with_reducible assumption | intro _ | with_reducible apply State.pageRequest_keeps | with_reducible apply State.modCommand_keeps | simp only [Keeps.mk_iff] | split | (with_reducible refine Keeps.record ?_ (by simp) (by simp)) | dsimp only

theorem State.gangDid_keeps {b0 : State} {s : State} {g : Nat} {v : Seen} (h0 : Keeps b0 s) : Keeps b0 (State.gangDid s g v) := by
  unfold State.gangDid
  try dsimp only
  repeat' first | with_reducible assumption | intro _ | with_reducible apply State.modLaunch_keeps | with_reducible apply Issue.finish_keeps | simp only [Keeps.mk_iff] | split | (with_reducible refine Keeps.record ?_ (by simp) (by simp)) | dsimp only

theorem State.riseAt_keeps {b0 : State} {s : State} {a : Agent} {st amount : Nat} {y0 : List (Target × Nat)} (h0 : Keeps b0 s) : Keeps b0 (State.riseAt s a st amount y0) := by
  unfold State.riseAt
  try dsimp only
  repeat' first | with_reducible assumption | intro _ | with_reducible apply State.atomicAt_keeps | simp only [Keeps.mk_iff] | split | (with_reducible refine Keeps.record ?_ (by simp) (by simp)) | dsimp only

theorem State.release_keeps {b0 : State} {s : State} {k : Nat} {h : Command} (h0 : Keeps b0 s) : Keeps b0 (State.release s k h) := by
  unfold State.release
  try dsimp only
  repeat' first | with_reducible assumption | intro _ | with_reducible apply State.commandEnd_keeps | with_reducible apply State.delCommand_keeps | with_reducible apply State.modCommand_keeps | simp only [Keeps.mk_iff] | split | (with_reducible refine Keeps.record ?_ (by simp) (by simp)) | dsimp only

theorem State.patchGroup_keeps {b0 : State} {s : State} {bin : Command} {cnt : List Nat} (h0 : Keeps b0 s) : Keeps b0 (State.patchGroup s bin cnt) := by
  unfold State.patchGroup
  try dsimp only
  repeat' first | with_reducible assumption | intro _ | with_reducible apply State.release_keeps | with_reducible apply keeps_foldl | simp only [Keeps.mk_iff] | split | (with_reducible refine Keeps.record ?_ (by simp) (by simp)) | dsimp only

theorem State.releaseWave_keeps {b0 : State} {s : State} {g w : Nat} (h0 : Keeps b0 s) : Keeps b0 (State.releaseWave s g w) := by
  unfold State.releaseWave
  try dsimp only
  repeat' first | with_reducible assumption | intro _ | with_reducible apply State.release_keeps | with_reducible apply keeps_foldl | simp only [Keeps.mk_iff] | split | (with_reducible refine Keeps.record ?_ (by simp) (by simp)) | dsimp only

/-! ### Of Machine/System.lean -/

theorem Issue.breakEvent_keeps {b0 : State} {c : Issue} {s : State} {n : BitVec 7} (h1 : Keeps b0 s) : Keeps b0 (Issue.breakEvent c s n) := by
  unfold Issue.breakEvent
  try dsimp only
  repeat' first | with_reducible assumption | intro _ | with_reducible apply State.event_keeps | with_reducible apply keeps_getD | simp only [Keeps.mk_iff] | split | (with_reducible refine Keeps.record ?_ (by simp) (by simp)) | dsimp only

theorem State.tretLane_keeps {b0 : State} {s : State} {c : Issue} {record n : Nat} {reach : Reach} (h0 : Keeps b0 s) : Keeps b0 (State.tretLane s c record n reach).2 := by
  unfold State.tretLane
  try dsimp only
  repeat' first | with_reducible assumption | intro _ | with_reducible apply Issue.fault_keeps | with_reducible apply State.fillFrom_keeps | with_reducible apply State.readThrough_keeps | with_reducible apply keeps_getD | exact keepsOpt_none | (with_reducible apply keepsOpt_some; try dsimp only) | with_reducible refine KeepsOpt.snd (by assumption) ?_ | with_reducible refine KeepsOpt.snd' (by assumption) ?_ | simp only [Keeps.mk_iff] | split | (with_reducible refine Keeps.record ?_ (by simp) (by simp)) | dsimp only

theorem State.tretLanes_keeps {b0 : State} {c : Issue} {record : Nat} {y0 : List (Nat × Reach)} {y1 : State} (h3 : Keeps b0 y1) : Keeps b0 (State.tretLanes c record y0 y1).2 := by
  revert h3
  fun_induction State.tretLanes c record y0 y1 <;> intros
  all_goals (try dsimp only)
  all_goals (repeat' first | with_reducible assumption | intro _ | with_reducible apply State.tretLane_keeps | with_reducible apply_assumption | with_reducible refine keeps_pair (by assumption) ?_ | simp only [Keeps.mk_iff] | split | (with_reducible refine Keeps.record ?_ (by simp) (by simp)) | dsimp only)

theorem execTret_keeps {b0 : State} {s : State} (h0 : Keeps b0 s) : KeepsOut b0 (execTret s) := by
  unfold execTret
  try dsimp only
  repeat' first | with_reducible assumption | intro _ | with_reducible apply State.setWave_keeps | with_reducible apply State.backInvalidate_keeps | with_reducible apply State.pageRequest_keeps | with_reducible apply Issue.fault_keeps | with_reducible apply issueWord_keeps | with_reducible apply State.recallLog_keeps | with_reducible apply State.tretLanes_keeps | with_reducible apply keeps_foldl | with_reducible apply KeepsOut.next | exact KeepsOut.fault | with_reducible refine keeps_pair (by assumption) ?_ | simp only [Keeps.mk_iff] | split | (with_reducible refine Keeps.record ?_ (by simp) (by simp)) | dsimp only

theorem Issue.getNow_keeps {b0 : State} {c : Issue} {i : Instr} {s : State} {nw : Bool} {d : Reg} (h2 : Keeps b0 s) : Keeps b0 (Issue.getNow c i s nw d) := by
  unfold Issue.getNow
  try dsimp only
  repeat' first | with_reducible assumption | intro _ | with_reducible apply State.modGang_keeps | with_reducible apply Issue.done_keeps | with_reducible apply State.readNow_keeps | exact keepsOpt_none | with_reducible apply keepsOpt_map | (with_reducible apply keepsOpt_some; try dsimp only) | with_reducible refine KeepsOpt.snd (by assumption) ?_ | with_reducible refine KeepsOpt.snd' (by assumption) ?_ | simp only [Keeps.mk_iff] | split | (with_reducible refine Keeps.record ?_ (by simp) (by simp)) | dsimp only

/-! ### Of Machine/Control.lean -/

theorem Issue.transfer_keeps {b0 : State} {c : Issue} {i : Instr} {s : State} {core : WaveCore} {goes : Nat → Goes} (h2 : Keeps b0 s) : Keeps b0 (Issue.transfer c i s core goes) := by
  unfold Issue.transfer
  try dsimp only
  repeat' first | with_reducible assumption | intro _ | with_reducible apply Issue.finishAt_keeps | with_reducible apply keeps_foldl | simp only [Keeps.mk_iff] | split | (with_reducible refine Keeps.record ?_ (by simp) (by simp)) | dsimp only

/-! ### Of Machine/Matrix.lean -/

theorem matrixBlock_keeps {b0 : State} {i : Instr} {a : Reg} {effect : Issue → Nat → List Byte → MxUnit → State} {s : State} (h2 : ∀ z0 z1 z2 z3, Keeps b0 (effect z0 z1 z2 z3)) (h3 : Keeps b0 s) : KeepsOut b0 (matrixBlock i a effect s) := by
  unfold matrixBlock
  try dsimp only
  repeat' first | with_reducible assumption | intro _ | with_reducible apply h2 | with_reducible apply Issue.done_keeps | with_reducible apply Issue.fault_keeps | with_reducible apply issueWord_keeps | with_reducible apply Issue.trapActive_keeps | with_reducible apply KeepsOut.next | exact KeepsOut.fault | simp only [Keeps.mk_iff] | split | (with_reducible refine Keeps.record ?_ (by simp) (by simp)) | dsimp only

theorem Issue.enqueue_keeps {b0 : State} {c : Issue} {i : Instr} {s : State} {token : Option Nat} {xs : List MxOp} (h2 : Keeps b0 s) : Keeps b0 (Issue.enqueue c i s token xs) := by
  unfold Issue.enqueue
  try dsimp only
  repeat' first | with_reducible assumption | intro _ | with_reducible apply Issue.done_keeps | with_reducible apply State.fresh_keeps | with_reducible apply keeps_foldl | with_reducible refine keeps_pair (by assumption) ?_ | simp only [Keeps.mk_iff] | split | (with_reducible refine Keeps.record ?_ (by simp) (by simp)) | dsimp only

theorem Issue.readStall_keeps {b0 : State} {c : Issue} {s : State} (h1 : Keeps b0 s) : Keeps b0 (Issue.readStall c s) := by
  unfold Issue.readStall
  try dsimp only
  repeat' first | with_reducible assumption | intro _ | with_reducible apply State.modWave_keeps | with_reducible apply keeps_getD | simp only [Keeps.mk_iff] | split | (with_reducible refine Keeps.record ?_ (by simp) (by simp)) | dsimp only

/-! ### Of Machine/Gang.lean -/

theorem State.roundsDue_keeps {b0 : State} {s : State} {p : Nat} (h0 : Keeps b0 s) : Keeps b0 (State.roundsDue s p) := by
  unfold State.roundsDue
  try dsimp only
  repeat' first | with_reducible assumption | intro _ | with_reducible apply State.modPartition_keeps | simp only [Keeps.mk_iff] | split | (with_reducible refine Keeps.record ?_ (by simp) (by simp)) | dsimp only

theorem State.slotsReport_keeps {b0 : State} {s : State} {st : Nat} (h0 : Keeps b0 s) : Keeps b0 (State.slotsReport s st) := by
  unfold State.slotsReport
  try dsimp only
  repeat' first | with_reducible assumption | intro _ | with_reducible apply State.roundsDue_keeps | simp only [Keeps.mk_iff] | split | (with_reducible refine Keeps.record ?_ (by simp) (by simp)) | dsimp only

theorem State.startGang_keeps {b0 : State} {s : State} {g st k : Nat} {d : Desc} {core : Nat → WaveCore} (h0 : Keeps b0 s) : Keeps b0 (State.startGang s g st k d core) := by
  unfold State.startGang
  try dsimp only
  repeat' first | with_reducible assumption | intro _ | with_reducible apply State.modStack_keeps | with_reducible apply State.modGang_keeps | with_reducible apply State.modLaunch_keeps | with_reducible apply State.slotsReport_keeps | with_reducible apply keeps_getD | simp only [Keeps.mk_iff] | split | (with_reducible refine Keeps.record ?_ (by simp) (by simp)) | dsimp only

theorem State.freeGang_keeps {b0 : State} {s : State} {g : Nat} {next : GangState} (h0 : Keeps b0 s) : Keeps b0 (State.freeGang s g next) := by
  unfold State.freeGang
  try dsimp only
  repeat' first | with_reducible assumption | intro _ | with_reducible apply State.modStack_keeps | with_reducible apply State.modGang_keeps | with_reducible apply State.slotsReport_keeps | simp only [Keeps.mk_iff] | split | (with_reducible refine Keeps.record ?_ (by simp) (by simp)) | dsimp only

theorem State.neverStarts_keeps {b0 : State} {s : State} {g : Nat} (h0 : Keeps b0 s) : Keeps b0 (State.neverStarts s g) := by
  unfold State.neverStarts
  try dsimp only
  repeat' first | with_reducible assumption | intro _ | with_reducible apply State.modGang_keeps | with_reducible apply State.modLaunch_keeps | with_reducible apply Issue.done_keeps | with_reducible apply State.gangLeaves_keeps | simp only [Keeps.mk_iff] | split | (with_reducible refine Keeps.record ?_ (by simp) (by simp)) | dsimp only

theorem State.launchFf_keeps {b0 : State} {s : State} {l : Nat} (h0 : Keeps b0 s) : Keeps b0 (State.launchFf s l) := by
  unfold State.launchFf
  try dsimp only
  repeat' first | with_reducible assumption | intro _ | with_reducible apply State.modLaunch_keeps | simp only [Keeps.mk_iff] | split | (with_reducible refine Keeps.record ?_ (by simp) (by simp)) | dsimp only

/-! ### Of Machine/MemInstr.lean -/

theorem Issue.readLanes_keeps {b0 : State} {c : Issue} {cst : Bool} {sc : Scope} {y0 : List (Nat × List (Target × Nat))} {y1 : State} (h4 : Keeps b0 y1) : KeepsOpt Prod.snd b0 (Issue.readLanes c cst sc y0 y1) := by
  revert h4
  fun_induction Issue.readLanes c cst sc y0 y1 <;> intros
  all_goals (try dsimp only)
  all_goals (repeat' first | with_reducible assumption | intro _ | with_reducible apply State.readThrough_keeps | with_reducible apply_assumption | exact keepsOpt_none | (with_reducible apply keepsOpt_some; try dsimp only) | with_reducible refine KeepsOpt.snd (by assumption) ?_ | with_reducible refine KeepsOpt.snd' (by assumption) ?_ | simp only [Keeps.mk_iff] | split | (with_reducible refine Keeps.record ?_ (by simp) (by simp)) | dsimp only)

theorem Issue.flush_keeps {b0 : State} {c : Issue} {oks : List (Nat × List (Target × Nat))} {s : State} {w : Wave} (h2 : Keeps b0 s) : KeepsOpt Prod.fst b0 (Issue.flush c oks s w) := by
  unfold Issue.flush
  try dsimp only
  repeat' first | with_reducible assumption | intro _ | with_reducible apply State.flushLanes_keeps | exact keepsOpt_none | with_reducible apply keepsOpt_map | (with_reducible apply keepsOpt_some; try dsimp only) | with_reducible refine KeepsOpt.id (by assumption) ?_ | simp only [Keeps.mk_iff] | split | (with_reducible refine Keeps.record ?_ (by simp) (by simp)) | dsimp only

theorem Issue.load_keeps {b0 : State} {c : Issue} {i : Instr} {s : State} {a : Ask} {d : Reg} {cst : Bool} {sc : Scope} {acquire : Bool} {ws : Nat → List Byte → List W32} {fills : List RegWrite} (h2 : Keeps b0 s) : Keeps b0 (Issue.load c i s a d cst sc acquire ws fills) := by
  unfold Issue.load
  try dsimp only
  repeat' first | with_reducible assumption | intro _ | with_reducible apply Issue.access_keeps | with_reducible apply Issue.readLanes_keeps | with_reducible apply Issue.flush_keeps | exact keepsOpt_none | with_reducible apply keepsOpt_map | (with_reducible apply keepsOpt_some; try dsimp only) | with_reducible refine KeepsOpt.fst (by assumption) ?_ | with_reducible refine KeepsOpt.fst' (by assumption) ?_ | with_reducible refine KeepsOpt.snd (by assumption) ?_ | with_reducible refine KeepsOpt.snd' (by assumption) ?_ | simp only [Keeps.mk_iff] | split | (with_reducible refine Keeps.record ?_ (by simp) (by simp)) | dsimp only

theorem Issue.store_keeps {b0 : State} {c : Issue} {i : Instr} {s : State} {a : Ask} {sc : Scope} {release : Bool} {bs : Nat → List Byte × Bool} (h2 : Keeps b0 s) : Keeps b0 (Issue.store c i s a sc release bs) := by
  unfold Issue.store
  try dsimp only
  repeat' first | with_reducible assumption | intro _ | with_reducible apply Issue.access_keeps | with_reducible apply State.storePieces_keeps | with_reducible apply Issue.flush_keeps | with_reducible apply keeps_foldl | exact keepsOpt_none | with_reducible apply keepsOpt_map | with_reducible apply keepsOpt_foldl | (with_reducible apply keepsOpt_some; try dsimp only) | with_reducible refine KeepsOpt.fst (by assumption) ?_ | with_reducible refine KeepsOpt.fst' (by assumption) ?_ | simp only [Keeps.mk_iff] | split | (with_reducible refine Keeps.record ?_ (by simp) (by simp)) | dsimp only

theorem execLd_keeps {b0 : State} {sp : Space} {o : Bool} {d : Reg} {a : Reg} {t : MemTy} {sc : Scope} {n : Bool} {s : State} (h7 : Keeps b0 s) : KeepsOut b0 (execLd sp o d a t sc n s) := by
  unfold execLd
  try dsimp only
  repeat' first | with_reducible assumption | intro _ | with_reducible apply issueWord_keeps | with_reducible apply Issue.load_keeps | with_reducible apply KeepsOut.next | simp only [Keeps.mk_iff] | split | (with_reducible refine Keeps.record ?_ (by simp) (by simp)) | dsimp only

theorem execLdv_keeps {b0 : State} {sp : Space} {o : Bool} {d : Reg} {a : Reg} {sc : Scope} {n : Bool} {s : State} (h6 : Keeps b0 s) : KeepsOut b0 (execLdv sp o d a sc n s) := by
  unfold execLdv
  try dsimp only
  repeat' first | with_reducible assumption | intro _ | with_reducible apply issueWord_keeps | with_reducible apply Issue.load_keeps | with_reducible apply KeepsOut.next | simp only [Keeps.mk_iff] | split | (with_reducible refine Keeps.record ?_ (by simp) (by simp)) | dsimp only

theorem execLdo_keeps {b0 : State} {i : BitVec 12} {z : Bool} {d : Reg} {a : Reg} {s : State} (h4 : Keeps b0 s) : KeepsOut b0 (execLdo i z d a s) := by
  unfold execLdo
  try dsimp only
  repeat' first | with_reducible assumption | intro _ | with_reducible apply issueWord_keeps | with_reducible apply Issue.load_keeps | with_reducible apply KeepsOut.next | simp only [Keeps.mk_iff] | split | (with_reducible refine Keeps.record ?_ (by simp) (by simp)) | dsimp only

theorem execSt_keeps {b0 : State} {sp : WSpace} {o : Bool} {d : Reg} {a : Reg} {t : MemTy} {sc : Scope} {n : Bool} {s : State} (h7 : Keeps b0 s) : KeepsOut b0 (execSt sp o d a t sc n s) := by
  unfold execSt
  try dsimp only
  repeat' first | with_reducible assumption | intro _ | with_reducible apply issueWord_keeps | with_reducible apply Issue.store_keeps | with_reducible apply KeepsOut.next | simp only [Keeps.mk_iff] | split | (with_reducible refine Keeps.record ?_ (by simp) (by simp)) | dsimp only

theorem execStv_keeps {b0 : State} {sp : WSpace} {o : Bool} {d : Reg} {a : Reg} {sc : Scope} {n : Bool} {s : State} (h6 : Keeps b0 s) : KeepsOut b0 (execStv sp o d a sc n s) := by
  unfold execStv
  try dsimp only
  repeat' first | with_reducible assumption | intro _ | with_reducible apply issueWord_keeps | with_reducible apply Issue.store_keeps | with_reducible apply KeepsOut.next | simp only [Keeps.mk_iff] | split | (with_reducible refine Keeps.record ?_ (by simp) (by simp)) | dsimp only

theorem execSto_keeps {b0 : State} {i : BitVec 12} {z : Bool} {d : Reg} {a : Reg} {s : State} (h4 : Keeps b0 s) : KeepsOut b0 (execSto i z d a s) := by
  unfold execSto
  try dsimp only
  repeat' first | with_reducible assumption | intro _ | with_reducible apply issueWord_keeps | with_reducible apply Issue.store_keeps | with_reducible apply KeepsOut.next | simp only [Keeps.mk_iff] | split | (with_reducible refine Keeps.record ?_ (by simp) (by simp)) | dsimp only

theorem execLdx_keeps {b0 : State} {z : Bool} {d : Reg} {a : Reg} {b : Reg} {s : State} (h4 : Keeps b0 s) : KeepsOut b0 (execLdx z d a b s) := by
  unfold execLdx
  try dsimp only
  repeat' first | with_reducible assumption | intro _ | with_reducible apply issueWord_keeps | with_reducible apply Issue.load_keeps | with_reducible apply KeepsOut.next | simp only [Keeps.mk_iff] | split | (with_reducible refine Keeps.record ?_ (by simp) (by simp)) | dsimp only

theorem execStx_keeps {b0 : State} {z : Bool} {d : Reg} {a : Reg} {b : Reg} {s : State} (h4 : Keeps b0 s) : KeepsOut b0 (execStx z d a b s) := by
  unfold execStx
  try dsimp only
  repeat' first | with_reducible assumption | intro _ | with_reducible apply issueWord_keeps | with_reducible apply Issue.store_keeps | with_reducible apply KeepsOut.next | simp only [Keeps.mk_iff] | split | (with_reducible refine Keeps.record ?_ (by simp) (by simp)) | dsimp only

theorem Issue.atomic_keeps {b0 : State} {c : Issue} {i : Instr} {s : State} {op : AtomOp} {d a : Reg} {sp : Sp} {sc : Scope} {o : AtomOrder} {returns narrow : Bool} (h2 : Keeps b0 s) : Keeps b0 (Issue.atomic c i s op d a sp sc o returns narrow) := by
  unfold Issue.atomic
  try dsimp only
  repeat' first | with_reducible assumption | intro _ | with_reducible apply Issue.access_keeps | with_reducible apply State.performAtomics_keeps | with_reducible apply Issue.flush_keeps | exact keepsOpt_none | with_reducible apply keepsOpt_map | (with_reducible apply keepsOpt_some; try dsimp only) | with_reducible refine KeepsOpt.fst (by assumption) ?_ | with_reducible refine KeepsOpt.fst' (by assumption) ?_ | simp only [Keeps.mk_iff] | split | (with_reducible refine Keeps.record ?_ (by simp) (by simp)) | dsimp only

theorem execAtom_keeps {b0 : State} {f : AtomOp} {d : Reg} {a : Reg} {sc : Scope} {o : AtomOrder} {sp : WSpace} {s : State} (h6 : Keeps b0 s) : KeepsOut b0 (execAtom f d a sc o sp s) := by
  unfold execAtom
  try dsimp only
  repeat' first | with_reducible assumption | intro _ | with_reducible apply issueWord_keeps | with_reducible apply Issue.atomic_keeps | with_reducible apply KeepsOut.next | simp only [Keeps.mk_iff] | split | (with_reducible refine Keeps.record ?_ (by simp) (by simp)) | dsimp only

theorem execAtomr_keeps {b0 : State} {f : AtomOp} {d : Reg} {a : Reg} {sc : Scope} {o : AtomOrder} {sp : WSpace} {s : State} (h6 : Keeps b0 s) : KeepsOut b0 (execAtomr f d a sc o sp s) := by
  unfold execAtomr
  try dsimp only
  repeat' first | with_reducible assumption | intro _ | with_reducible apply issueWord_keeps | with_reducible apply Issue.atomic_keeps | with_reducible apply KeepsOut.next | simp only [Keeps.mk_iff] | split | (with_reducible refine Keeps.record ?_ (by simp) (by simp)) | dsimp only

theorem execMatomr_keeps {b0 : State} {f : AtomOp} {d : Reg} {a : Reg} {sc : Scope} {o : AtomOrder} {s : State} (h5 : Keeps b0 s) : KeepsOut b0 (execMatomr f d a sc o s) := by
  unfold execMatomr
  try dsimp only
  repeat' first | with_reducible assumption | intro _ | with_reducible apply issueWord_keeps | with_reducible apply Issue.atomic_keeps | with_reducible apply KeepsOut.next | simp only [Keeps.mk_iff] | split | (with_reducible refine Keeps.record ?_ (by simp) (by simp)) | dsimp only

theorem execMatom_keeps {b0 : State} {f : AtomOp} {d : Reg} {a : Reg} {sc : Scope} {o : AtomOrder} {s : State} (h5 : Keeps b0 s) : KeepsOut b0 (execMatom f d a sc o s) := by
  unfold execMatom
  try dsimp only
  repeat' first | with_reducible assumption | intro _ | with_reducible apply issueWord_keeps | with_reducible apply Issue.access_keeps | with_reducible apply Issue.atomic_keeps | with_reducible apply keeps_foldl | with_reducible apply KeepsOut.next | exact keepsOpt_none | with_reducible apply keepsOpt_map | with_reducible apply keepsOpt_foldl | (with_reducible apply keepsOpt_some; try dsimp only) | simp only [Keeps.mk_iff] | split | (with_reducible refine Keeps.record ?_ (by simp) (by simp)) | dsimp only

/-! ### Of Machine/Fetch.lean -/

theorem State.fetched_keeps {b0 : State} {s : State} {gang : Gang} {wave : Wave} {pc : W64} (h0 : Keeps b0 s) : Keeps b0 (State.fetched s gang wave pc) := by
  unfold State.fetched
  try dsimp only
  repeat' first | with_reducible assumption | intro _ | with_reducible apply State.modStack_keeps | with_reducible apply State.fillTlb_keeps | simp only [Keeps.mk_iff] | split | (with_reducible refine Keeps.record ?_ (by simp) (by simp)) | dsimp only

theorem State.atWave_keeps {b0 : State} {s : State} {g w : Nat} {f : Gang → Wave → State} (h0 : Keeps b0 s) (h3 : ∀ z0 z1, Keeps b0 (f z0 z1)) : Keeps b0 (State.atWave s g w f) := by
  unfold State.atWave
  try dsimp only
  repeat' first | with_reducible assumption | intro _ | with_reducible apply h3 | simp only [Keeps.mk_iff] | split | (with_reducible refine Keeps.record ?_ (by simp) (by simp)) | dsimp only

/-! ### Of Machine/Queue.lean -/

theorem State.cpWrite_keeps {b0 : State} {s : State} {q : Queue} {va : Nat} {bs : List Byte} (h0 : Keeps b0 s) : KeepsCp b0 (State.cpWrite s q va bs) := by
  unfold State.cpWrite
  try dsimp only
  repeat' first | with_reducible assumption | intro _ | with_reducible apply Issue.fault_keeps | with_reducible apply State.storePieces_keeps | with_reducible apply KeepsCp.ok | exact KeepsCp.hold | exact KeepsCp.recall | exact KeepsCp.refused | simp only [Keeps.mk_iff] | split | (with_reducible refine Keeps.record ?_ (by simp) (by simp)) | dsimp only

theorem State.cpHold_keeps {b0 : State} {s : State} {k : Nat} {q : Queue} {page : Nat} (h0 : Keeps b0 s) : Keeps b0 (State.cpHold s k q page) := by
  unfold State.cpHold
  try dsimp only
  repeat' first | with_reducible assumption | intro _ | with_reducible apply State.modQueue_keeps | with_reducible apply State.pageRequest_keeps | simp only [Keeps.mk_iff] | split | (with_reducible refine Keeps.record ?_ (by simp) (by simp)) | dsimp only

theorem State.queueErrorEvent_keeps {b0 : State} {s : State} {k : Nat} {q : Queue} (h0 : Keeps b0 s) : Keeps b0 (State.queueErrorEvent s k q) := by
  unfold State.queueErrorEvent
  try dsimp only
  repeat' first | with_reducible assumption | intro _ | with_reducible apply State.send_keeps | simp only [Keeps.mk_iff] | split | (with_reducible refine Keeps.record ?_ (by simp) (by simp)) | dsimp only

theorem State.stopSilently_keeps {b0 : State} {s : State} {k error detail index : Nat} (h0 : Keeps b0 s) : Keeps b0 (State.stopSilently s k error detail index) := by
  unfold State.stopSilently
  try dsimp only
  repeat' first | with_reducible assumption | intro _ | with_reducible apply State.modQueue_keeps | with_reducible apply State.queueErrorEvent_keeps | simp only [Keeps.mk_iff] | split | (with_reducible refine Keeps.record ?_ (by simp) (by simp)) | dsimp only

theorem State.writeStatus_keeps {b0 : State} {s : State} {k : Nat} (h0 : Keeps b0 s) : Keeps b0 (State.writeStatus s k) := by
  unfold State.writeStatus
  try dsimp only
  repeat' first | with_reducible assumption | intro _ | with_reducible apply State.modQueue_keeps | with_reducible apply State.backInvalidate_keeps | with_reducible apply State.cpWrite_keeps | with_reducible apply State.cpHold_keeps | with_reducible apply State.stopSilently_keeps | with_reducible refine KeepsCp.of (by assumption) ?_ | simp only [Keeps.mk_iff] | split | (with_reducible refine Keeps.record ?_ (by simp) (by simp)) | dsimp only

theorem State.stopQueue_keeps {b0 : State} {s : State} {k error detail index : Nat} (h0 : Keeps b0 s) : Keeps b0 (State.stopQueue s k error detail index) := by
  unfold State.stopQueue
  try dsimp only
  repeat' first | with_reducible assumption | intro _ | with_reducible apply State.stopSilently_keeps | with_reducible apply State.writeStatus_keeps | simp only [Keeps.mk_iff] | split | (with_reducible refine Keeps.record ?_ (by simp) (by simp)) | dsimp only

theorem State.logPacket_keeps {b0 s : State} {k : Nat} {q : Queue} {bs : List Byte} (h0 : Keeps b0 s) :
    KeepsOpt (fun x => x) b0 (s.logPacket k q bs) := by
  unfold State.logPacket
  refine keepsOpt_foldl (fun t x ht => ?_) (keepsOpt_some h0)
  split
  · exact keepsOpt_none
  · rename_i u
    have hu : Keeps b0 u := ht.of_some u rfl
    split
    · split
      · exact keepsOpt_none
      · exact keepsOpt_some (KeepsLogged.of (by assumption) (State.logged_keeps hu))
    · exact keepsOpt_some hu

theorem State.takePacket_keeps {b0 : State} {s : State} {k : Nat} {q : Queue} {bs : List Byte} (h0 : Keeps b0 s) : Keeps b0 (State.takePacket s k q bs) := by
  unfold State.takePacket
  try dsimp only
  repeat' first | with_reducible assumption | intro _ | with_reducible apply State.modQueue_keeps | with_reducible apply State.recallLog_keeps | with_reducible apply State.fetched_keeps | with_reducible apply State.writeStatus_keeps | with_reducible apply State.stopQueue_keeps | with_reducible apply State.logPacket_keeps | exact keepsOpt_none | (with_reducible apply keepsOpt_some; try dsimp only) | with_reducible refine KeepsOpt.id (by assumption) ?_ | simp only [Keeps.mk_iff] | split | (with_reducible refine Keeps.record ?_ (by simp) (by simp)) | dsimp only

theorem State.fetchPacket_keeps {b0 : State} {s : State} {k : Nat} {q : Queue} (h0 : Keeps b0 s) : Keeps b0 (State.fetchPacket s k q) := by
  unfold State.fetchPacket
  try dsimp only
  repeat' first | with_reducible assumption | intro _ | with_reducible apply State.modQueue_keeps | with_reducible apply State.backInvalidate_keeps | with_reducible apply State.cpHold_keeps | with_reducible apply State.stopQueue_keeps | with_reducible apply State.takePacket_keeps | simp only [Keeps.mk_iff] | split | (with_reducible refine Keeps.record ?_ (by simp) (by simp)) | dsimp only

theorem State.onQueue_keeps {b0 : State} {s : State} {k : Nat} {f : Queue → State} (h0 : Keeps b0 s) (h2 : ∀ z0, Keeps b0 (f z0)) : Keeps b0 (State.onQueue s k f) := by
  unfold State.onQueue
  try dsimp only
  repeat' first | with_reducible assumption | intro _ | with_reducible apply h2 | with_reducible apply State.writeStatus_keeps | simp only [Keeps.mk_iff] | split | (with_reducible refine Keeps.record ?_ (by simp) (by simp)) | dsimp only

theorem State.startPacket_keeps {b0 : State} {s : State} {k : Nat} (h0 : Keeps b0 s) : Keeps b0 (State.startPacket s k) := by
  unfold State.startPacket
  try dsimp only
  repeat' first | with_reducible assumption | intro _ | with_reducible apply State.modQueue_keeps | simp only [Keeps.mk_iff] | split | (with_reducible refine Keeps.record ?_ (by simp) (by simp)) | dsimp only

theorem State.notePacket_keeps {b0 : State} {s : State} {k i : Nat} (h0 : Keeps b0 s) : Keeps b0 (State.notePacket s k i) := by
  unfold State.notePacket
  try dsimp only
  repeat' first | with_reducible assumption | intro _ | with_reducible apply State.modQueue_keeps | with_reducible apply State.writeStatus_keeps | simp only [Keeps.mk_iff] | split | (with_reducible refine Keeps.record ?_ (by simp) (by simp)) | dsimp only

theorem State.settleReset_keeps {b0 : State} {s : State} {k : Nat} (h0 : Keeps b0 s) : Keeps b0 (State.settleReset s k) := by
  unfold State.settleReset
  try dsimp only
  repeat' first | with_reducible assumption | intro _ | with_reducible apply State.modQueue_keeps | with_reducible apply State.writeStatus_keeps | with_reducible apply State.notePacket_keeps | simp only [Keeps.mk_iff] | split | (with_reducible refine Keeps.record ?_ (by simp) (by simp)) | dsimp only

theorem State.failPacket_keeps {b0 : State} {s : State} {k code detail i : Nat} (h0 : Keeps b0 s) : Keeps b0 (State.failPacket s k code detail i) := by
  unfold State.failPacket
  try dsimp only
  repeat' first | with_reducible assumption | intro _ | with_reducible apply State.modQueue_keeps | with_reducible apply State.stopQueue_keeps | with_reducible apply State.settleReset_keeps | simp only [Keeps.mk_iff] | split | (with_reducible refine Keeps.record ?_ (by simp) (by simp)) | dsimp only

theorem State.completePacket_keeps {b0 : State} {s : State} {k i : Nat} (h0 : Keeps b0 s) : Keeps b0 (State.completePacket s k i) := by
  unfold State.completePacket
  try dsimp only
  repeat' first | with_reducible assumption | intro _ | with_reducible apply State.notePacket_keeps | with_reducible apply State.settleReset_keeps | simp only [Keeps.mk_iff] | split | (with_reducible refine Keeps.record ?_ (by simp) (by simp)) | dsimp only

theorem State.modOpen_keeps {b0 : State} {s : State} {k i : Nat} {f : OpenPacket → OpenPacket} (h0 : Keeps b0 s) : Keeps b0 (State.modOpen s k i f) := by
  unfold State.modOpen
  try dsimp only
  repeat' first | with_reducible assumption | intro _ | with_reducible apply State.modQueue_keeps | simp only [Keeps.mk_iff] | split | (with_reducible refine Keeps.record ?_ (by simp) (by simp)) | dsimp only

/-! ### Of Machine/Ladder.lean -/

theorem State.adminEvent_keeps {b0 : State} {s : State} {k code ctx : Nat} {detail : List Byte} (h0 : Keeps b0 s) : Keeps b0 (State.adminEvent s k code ctx detail) := by
  unfold State.adminEvent
  try dsimp only
  repeat' first | with_reducible assumption | intro _ | with_reducible apply State.send_keeps | simp only [Keeps.mk_iff] | split | (with_reducible refine Keeps.record ?_ (by simp) (by simp)) | dsimp only

theorem State.preempted_keeps {b0 : State} {s : State} {ctx rung queue index : Nat} (h0 : Keeps b0 s) : Keeps b0 (State.preempted s ctx rung queue index) := by
  unfold State.preempted
  try dsimp only
  repeat' first | with_reducible assumption | intro _ | with_reducible apply State.modContext_keeps | with_reducible apply State.completePacket_keeps | with_reducible apply State.adminEvent_keeps | simp only [Keeps.mk_iff] | split | (with_reducible refine Keeps.record ?_ (by simp) (by simp)) | dsimp only

theorem State.settleLadder_keeps {b0 : State} {s : State} {ctx : Nat} (h0 : Keeps b0 s) : Keeps b0 (State.settleLadder s ctx) := by
  unfold State.settleLadder
  try dsimp only
  repeat' first | with_reducible assumption | intro _ | with_reducible apply State.drain_keeps | with_reducible apply State.preempted_keeps | simp only [Keeps.mk_iff] | split | (with_reducible refine Keeps.record ?_ (by simp) (by simp)) | dsimp only

theorem State.writeCounts_keeps {b0 : State} {s : State} {c : Context} {used images : Nat} (h0 : Keeps b0 s) : Keeps b0 (State.writeCounts s c used images) := by
  unfold State.writeCounts
  try dsimp only
  repeat' first | with_reducible assumption | intro _ | with_reducible apply State.putDevice_keeps | simp only [Keeps.mk_iff] | split | (with_reducible refine Keeps.record ?_ (by simp) (by simp)) | dsimp only

theorem State.settleResume_keeps {b0 : State} {s : State} {ctx : Nat} (h0 : Keeps b0 s) : Keeps b0 (State.settleResume s ctx) := by
  unfold State.settleResume
  try dsimp only
  repeat' first | with_reducible assumption | intro _ | with_reducible apply State.modContext_keeps | with_reducible apply State.completePacket_keeps | with_reducible apply State.writeCounts_keeps | with_reducible apply keeps_foldl | simp only [Keeps.mk_iff] | split | (with_reducible refine Keeps.record ?_ (by simp) (by simp)) | dsimp only

theorem State.dropImage_keeps {b0 : State} {s : State} {ctx : Nat} (h0 : Keeps b0 s) : Keeps b0 (State.dropImage s ctx) := by
  unfold State.dropImage
  try dsimp only
  repeat' first | with_reducible assumption | intro _ | with_reducible apply State.writeCounts_keeps | with_reducible apply State.settleResume_keeps | simp only [Keeps.mk_iff] | split | (with_reducible refine Keeps.record ?_ (by simp) (by simp)) | dsimp only

/-! ### Of Machine/WaveEvents.lean -/

theorem State.enterHandler_keeps {b0 : State} {s : State} {g w : Nat} {gang : Gang} {wave : Wave} {c : Context} {l : Launch} {ps : List (Target × Nat)} (h0 : Keeps b0 s) : Keeps b0 (State.enterHandler s g w gang wave c l ps) := by
  unfold State.enterHandler
  try dsimp only
  repeat' first | with_reducible assumption | intro _ | with_reducible apply State.setWave_keeps | with_reducible apply State.fillFrom_keeps | with_reducible apply State.storePieces_keeps | simp only [Keeps.mk_iff] | split | (with_reducible refine Keeps.record ?_ (by simp) (by simp)) | dsimp only

theorem execHandlerEntry_keeps {b0 : State} {g w : Nat} {s : State} (h2 : Keeps b0 s) : KeepsOut b0 (execHandlerEntry g w s) := by
  unfold execHandlerEntry
  try dsimp only
  repeat' first | with_reducible assumption | intro _ | with_reducible apply State.setWave_keeps | with_reducible apply State.backInvalidate_keeps | with_reducible apply State.pageRequest_keeps | with_reducible apply State.raiseHalt_keeps | with_reducible apply Issue.fault_keeps | with_reducible apply State.whenClear_keeps | with_reducible apply State.atWave_keeps | with_reducible apply State.enterHandler_keeps | with_reducible apply KeepsOut.next | exact KeepsOut.fault | simp only [Keeps.mk_iff] | split | (with_reducible refine Keeps.record ?_ (by simp) (by simp)) | dsimp only

theorem State.gangGone_keeps {b0 : State} {s : State} {g : Nat} (h0 : Keeps b0 s) : Keeps b0 (State.gangGone s g) := by
  unfold State.gangGone
  try dsimp only
  repeat' first | with_reducible assumption | intro _ | with_reducible apply Issue.done_keeps | with_reducible apply State.gangLeaves_keeps | with_reducible apply State.freeGang_keeps | with_reducible apply State.settleLadder_keeps | simp only [Keeps.mk_iff] | split | (with_reducible refine Keeps.record ?_ (by simp) (by simp)) | dsimp only

theorem State.endHolds_keeps {b0 : State} {s : State} (h0 : Keeps b0 s) : Keeps b0 (State.endHolds s) := by
  unfold State.endHolds
  try dsimp only
  repeat' first | with_reducible assumption | intro _ | simp only [Keeps.mk_iff] | split | (with_reducible refine Keeps.record ?_ (by simp) (by simp)) | dsimp only

/-! ### Of Machine/MemEvents.lean -/

theorem State.install_keeps {b0 : State} {s : State} {lines : List (Nat × Nat)} (h0 : Keeps b0 s) : Keeps b0 (State.install s lines) := by
  unfold State.install
  try dsimp only
  repeat' first | with_reducible assumption | intro _ | with_reducible apply State.touch_keeps | with_reducible apply keeps_foldl | simp only [Keeps.mk_iff] | split | (with_reducible refine Keeps.record ?_ (by simp) (by simp)) | dsimp only

theorem State.readMonitors_keeps {b0 : State} {g w : Nat} {gang : Gang} {wave : Wave} {y0 : List (Nat × Monitor × List (Target × Nat))} {y1 : State} {y2 : WaveCore} (h5 : Keeps b0 y1) : KeepsOpt Prod.fst b0 (State.readMonitors g w gang wave y0 y1 y2) := by
  revert h5
  fun_induction State.readMonitors g w gang wave y0 y1 y2 <;> intros
  all_goals (try dsimp only)
  all_goals (repeat' first | with_reducible assumption | intro _ | with_reducible apply State.readThrough_keeps | with_reducible apply_assumption | exact keepsOpt_none | with_reducible apply keepsOpt_map | (with_reducible apply keepsOpt_some; try dsimp only) | with_reducible refine KeepsOpt.snd (by assumption) ?_ | with_reducible refine KeepsOpt.snd' (by assumption) ?_ | simp only [Keeps.mk_iff] | split | (with_reducible refine Keeps.record ?_ (by simp) (by simp)) | dsimp only)

theorem State.mwaitPass_keeps {b0 : State} {s : State} {g w : Nat} {gang : Gang} {wave : Wave} {e : Entry} (h0 : Keeps b0 s) : KeepsMonitor b0 (State.mwaitPass s g w gang wave e) := by
  unfold State.mwaitPass
  try dsimp only
  repeat' first | with_reducible assumption | intro _ | with_reducible apply State.backInvalidate_keeps | with_reducible apply State.pageRequest_keeps | with_reducible apply State.raiseHalt_keeps | with_reducible apply Issue.fault_keeps | with_reducible apply State.fillFrom_keeps | with_reducible apply State.recallLog_keeps | with_reducible apply State.flushLanes_keeps | with_reducible apply Issue.load_keeps | with_reducible apply State.install_keeps | with_reducible apply State.readMonitors_keeps | with_reducible apply keeps_foldl | with_reducible apply keeps_getD | with_reducible apply KeepsMonitor.read | with_reducible apply KeepsMonitor.wait | with_reducible apply KeepsMonitor.fault | exact keepsOpt_none | with_reducible apply keepsOpt_map | with_reducible apply keepsOpt_foldl | (with_reducible apply keepsOpt_some; try dsimp only) | with_reducible refine KeepsOpt.id (by assumption) ?_ | with_reducible refine KeepsOpt.fst (by assumption) ?_ | with_reducible refine KeepsOpt.fst' (by assumption) ?_ | simp only [Keeps.mk_iff] | split | (with_reducible refine Keeps.record ?_ (by simp) (by simp)) | dsimp only

theorem State.mwaitEnd_keeps {b0 : State} {s : State} {g w k : Nat} {gang : Gang} {wave : Wave} {core : WaveCore} {e : Entry} {d : Reg} {expiry : Option Nat} (h0 : Keeps b0 s) : Keeps b0 (State.mwaitEnd s g w k gang wave core e d expiry) := by
  unfold State.mwaitEnd
  try dsimp only
  repeat' first | with_reducible assumption | intro _ | with_reducible apply State.modWave_keeps | simp only [Keeps.mk_iff] | split | (with_reducible refine Keeps.record ?_ (by simp) (by simp)) | dsimp only

theorem State.mwaitLoop_keeps {b0 : State} {s : State} {g w k : Nat} {needExpiry : Bool} (h0 : Keeps b0 s) : Keeps b0 (State.mwaitLoop s g w k needExpiry) := by
  unfold State.mwaitLoop
  try dsimp only
  repeat' first | with_reducible assumption | intro _ | with_reducible apply Issue.fault_keeps | with_reducible apply State.atWave_keeps | with_reducible apply State.mwaitPass_keeps | with_reducible apply State.mwaitEnd_keeps | with_reducible refine KeepsMonitor.ofRead (by assumption) ?_ | with_reducible refine KeepsMonitor.ofWait (by assumption) ?_ | with_reducible refine KeepsMonitor.ofFault (by assumption) ?_ | simp only [Keeps.mk_iff] | split | (with_reducible refine Keeps.record ?_ (by simp) (by simp)) | dsimp only

/-! ### Of Machine/Replay.lean -/

theorem heldMeaning_keeps {b0 : State} {i : Instr} : ∀ f, heldMeaning i = some f → ∀ t, Keeps b0 t → KeepsOut b0 (f t) := by
  have none_case : ∀ f : State → Host.Outcome State Fault Refusal, none = some f → ∀ t, Keeps b0 t → KeepsOut b0 (f t) := nofun
  have some_case : ∀ g : State → Host.Outcome State Fault Refusal, (∀ t, Keeps b0 t → KeepsOut b0 (g t)) →
      ∀ f, some g = some f → ∀ t, Keeps b0 t → KeepsOut b0 (f t) := fun g h f e => Option.some.inj e ▸ h
  cases i
  case ld => exact some_case _ fun t ht => execLd_keeps ht
  case ldv => exact some_case _ fun t ht => execLdv_keeps ht
  case ldo => exact some_case _ fun t ht => execLdo_keeps ht
  case st => exact some_case _ fun t ht => execSt_keeps ht
  case stv => exact some_case _ fun t ht => execStv_keeps ht
  case sto => exact some_case _ fun t ht => execSto_keeps ht
  case ldx => exact some_case _ fun t ht => execLdx_keeps ht
  case stx => exact some_case _ fun t ht => execStx_keeps ht
  case atom => exact some_case _ fun t ht => execAtom_keeps ht
  case atomr => exact some_case _ fun t ht => execAtomr_keeps ht
  case matom => exact some_case _ fun t ht => execMatom_keeps ht
  case matomr => exact some_case _ fun t ht => execMatomr_keeps ht
  case tret => exact some_case _ fun t ht => execTret_keeps ht
  all_goals exact none_case

theorem State.runHeld_keeps {b0 s : State} {g w k : Nat} {i : Instr} {v : Wave} (h0 : Keeps b0 s) :
    Keeps b0 (s.runHeld g w k i v) := by
  have ht : Keeps b0 { s.setWave g w { v with parked := false, yieldHold := false } with cur := some (g, w, k) } := by
    simp only [Keeps.mk_iff]; exact State.setWave_keeps h0
  unfold State.runHeld
  dsimp only
  split
  · rename_i u e
    rw [Option.map_eq_some_iff] at e
    obtain ⟨f, hf, e⟩ := e
    simp only [Keeps.mk_iff]
    exact State.modWave_keeps (KeepsOut.of e (heldMeaning_keeps f hf _ ht))
  · exact State.setWave_keeps h0

theorem State.replayHeld_keeps {b0 : State} {s : State} {g w : Nat} {v : Wave} (h0 : Keeps b0 s) : Keeps b0 (State.replayHeld s g w v) := by
  unfold State.replayHeld
  try dsimp only
  repeat' first | with_reducible assumption | intro _ | with_reducible apply State.runHeld_keeps | with_reducible apply keeps_getD | with_reducible refine KeepsOut.of (by assumption) ?_ | simp only [Keeps.mk_iff] | split | (with_reducible refine Keeps.record ?_ (by simp) (by simp)) | dsimp only

theorem State.replayEntry_keeps {b0 : State} {s : State} {g w : Nat} (h0 : Keeps b0 s) : Keeps b0 (State.replayEntry s g w) := by
  unfold State.replayEntry
  try dsimp only
  repeat' first | with_reducible assumption | intro _ | with_reducible apply execHandlerEntry_keeps | with_reducible refine KeepsOut.of (by assumption) ?_ | simp only [Keeps.mk_iff] | split | (with_reducible refine Keeps.record ?_ (by simp) (by simp)) | dsimp only

theorem State.replayLeft_keeps {b0 : State} {s : State} {g w n : Nat} (h0 : Keeps b0 s) : Keeps b0 (State.replayLeft s g w n) := by
  unfold State.replayLeft
  try dsimp only
  repeat' first | with_reducible assumption | intro _ | with_reducible apply State.setWave_keeps | with_reducible apply Issue.access_keeps | with_reducible apply State.runHeld_keeps | exact keepsOpt_none | with_reducible apply keepsOpt_map | (with_reducible apply keepsOpt_some; try dsimp only) | with_reducible refine KeepsOut.of (by assumption) ?_ | simp only [Keeps.mk_iff] | split | (with_reducible refine Keeps.record ?_ (by simp) (by simp)) | dsimp only

theorem State.replayWave_keeps {b0 : State} {s : State} {g w : Nat} (h0 : Keeps b0 s) : Keeps b0 (State.replayWave s g w) := by
  unfold State.replayWave
  try dsimp only
  repeat' first | with_reducible assumption | intro _ | with_reducible apply State.replayHeld_keeps | with_reducible apply State.replayEntry_keeps | with_reducible apply State.replayLeft_keeps | with_reducible apply keeps_foldl | simp only [Keeps.mk_iff] | split | (with_reducible refine Keeps.record ?_ (by simp) (by simp)) | dsimp only

theorem State.replayGang_keeps {b0 : State} {s : State} {g : Nat} (h0 : Keeps b0 s) : Keeps b0 (State.replayGang s g) := by
  unfold State.replayGang
  try dsimp only
  repeat' first | with_reducible assumption | intro _ | with_reducible apply State.replayWave_keeps | with_reducible apply keeps_foldl | simp only [Keeps.mk_iff] | split | (with_reducible refine Keeps.record ?_ (by simp) (by simp)) | dsimp only

end Sys2Proof.Machine
end

