-- ==== Sys2Proof/Laws/KeepsDevice.lean ====
section
/-! SUPPORT. Every shared operation and event of the engines, the queues, the links and the package keeps the
invariant and lets no sequence number fall, but for powering up a stack and a castling's import. -/
set_option Elab.async false
set_option linter.unusedSimpArgs false
set_option maxRecDepth 4000

namespace Sys2Proof.Machine

/-! ### Of Machine/MatrixEvents.lean -/

theorem State.modUnit_keeps {b0 : State} {s : State} {g u : Nat} {f : MxUnit → MxUnit} (h0 : Keeps b0 s) : Keeps b0 (State.modUnit s g u f) := by
  unfold State.modUnit
  try dsimp only
  repeat' first | with_reducible assumption | intro _ | with_reducible apply State.modGang_keeps | simp only [Keeps.mk_iff] | split | (with_reducible refine Keeps.record ?_ (by simp) (by simp)) | dsimp only

theorem State.modOp_keeps {b0 : State} {s : State} {m : Nat} {f : MxOp → MxOp} (h0 : Keeps b0 s) : Keeps b0 (State.modOp s m f) := by
  unfold State.modOp
  try dsimp only
  repeat' first | with_reducible assumption | intro _ | simp only [Keeps.mk_iff] | split | (with_reducible refine Keeps.record ?_ (by simp) (by simp)) | dsimp only

theorem State.delOp_keeps {b0 : State} {s : State} {m : Nat} (h0 : Keeps b0 s) : Keeps b0 (State.delOp s m) := by
  unfold State.delOp
  try dsimp only
  repeat' first | with_reducible assumption | intro _ | simp only [Keeps.mk_iff] | split | (with_reducible refine Keeps.record ?_ (by simp) (by simp)) | dsimp only

theorem State.opHold_keeps {b0 : State} {s : State} {m ctx st page : Nat} (h0 : Keeps b0 s) : Keeps b0 (State.opHold s m ctx st page) := by
  unfold State.opHold
  try dsimp only
  repeat' first | with_reducible assumption | intro _ | with_reducible apply State.pageRequest_keeps | with_reducible apply State.modOp_keeps | simp only [Keeps.mk_iff] | split | (with_reducible refine Keeps.record ?_ (by simp) (by simp)) | dsimp only

theorem State.opFault_keeps {b0 : State} {s : State} {m : Nat} {x : MxOp} {reason va : Nat} (h0 : Keeps b0 s) : Keeps b0 (State.opFault s m x reason va) := by
  unfold State.opFault
  try dsimp only
  repeat' first | with_reducible assumption | intro _ | with_reducible apply State.raiseHalt_keeps | with_reducible apply State.delOp_keeps | simp only [Keeps.mk_iff] | split | (with_reducible refine Keeps.record ?_ (by simp) (by simp)) | dsimp only

theorem State.opReach_keeps {b0 : State} {s : State} {m : Nat} {x : MxOp} {ctx st : Nat} {a : Access} {write : Bool} {ps : List (Nat × Nat)} {next : List (Target × Nat) → State} (h0 : Keeps b0 s) (h8 : ∀ z0, Keeps b0 (next z0)) : Keeps b0 (State.opReach s m x ctx st a write ps next) := by
  unfold State.opReach
  try dsimp only
  repeat' first | with_reducible assumption | intro _ | with_reducible apply h8 | with_reducible apply State.backInvalidate_keeps | with_reducible apply Issue.fault_keeps | with_reducible apply State.whenClear_keeps | with_reducible apply State.opHold_keeps | with_reducible apply State.opFault_keeps | simp only [Keeps.mk_iff] | split | (with_reducible refine Keeps.record ?_ (by simp) (by simp)) | dsimp only

theorem State.opRead_keeps {b0 : State} {s : State} {m : Nat} {x : MxOp} {ctx st : Nat} {rs : List (Nat × Nat)} {next : State → Fetched → State} (h0 : Keeps b0 s) (h6 : ∀ z0 z1, Keeps b0 z0 → Keeps b0 (next z0 z1)) : Keeps b0 (State.opRead s m x ctx st rs next) := by
  unfold State.opRead
  try dsimp only
  repeat' first | with_reducible assumption | intro _ | with_reducible apply h6 | with_reducible apply State.fillFrom_keeps | with_reducible apply State.recallLog_keeps | with_reducible apply State.readThrough_keeps | with_reducible apply State.opReach_keeps | with_reducible apply keeps_getD | exact keepsOpt_none | with_reducible apply keepsOpt_map | with_reducible apply keepsOpt_bind | (with_reducible apply keepsOpt_some; try dsimp only) | with_reducible refine KeepsOpt.snd (by assumption) ?_ | with_reducible refine KeepsOpt.snd' (by assumption) ?_ | simp only [Keeps.mk_iff] | split | (with_reducible refine Keeps.record ?_ (by simp) (by simp)) | dsimp only

theorem State.popHandles_keeps {b0 : State} {s : State} {m : Nat} {x : MxOp} {n : Nat} (h0 : Keeps b0 s) : Keeps b0 (State.popHandles s m x n) := by
  unfold State.popHandles
  try dsimp only
  repeat' first | with_reducible assumption | intro _ | with_reducible apply State.modWave_keeps | with_reducible apply State.settleGangQueues_keeps | with_reducible apply State.modOp_keeps | with_reducible apply keeps_foldl | simp only [Keeps.mk_iff] | split | (with_reducible refine Keeps.record ?_ (by simp) (by simp)) | dsimp only

theorem State.popAll_keeps {b0 : State} {s : State} {g : Nat} (h0 : Keeps b0 s) : Keeps b0 (State.popAll s g) := by
  unfold State.popAll
  try dsimp only
  repeat' first | with_reducible assumption | intro _ | with_reducible apply State.popHandles_keeps | with_reducible apply keeps_foldl | simp only [Keeps.mk_iff] | split | (with_reducible refine Keeps.record ?_ (by simp) (by simp)) | dsimp only

theorem State.storeElements_keeps {b0 : State} {s : State} {a : Agent} {st : Nat} {key : List Nat} {xs : List (Target × List Byte × Bool)} (h0 : Keeps b0 s) : Keeps b0 (State.storeElements s a st key xs) := by
  unfold State.storeElements
  try dsimp only
  repeat' first | with_reducible assumption | intro _ | with_reducible apply State.storeElement_keeps | with_reducible apply keeps_foldl | simp only [Keeps.mk_iff] | split | (with_reducible refine Keeps.record ?_ (by simp) (by simp)) | dsimp only

theorem State.opWrite_keeps {b0 : State} {s : State} {m : Nat} {x : MxOp} {ctx st : Nat} {els : List (Nat × List Byte × Bool)} {next : State → State} (h0 : Keeps b0 s) (h6 : ∀ z0, Keeps b0 z0 → Keeps b0 (next z0)) : Keeps b0 (State.opWrite s m x ctx st els next) := by
  unfold State.opWrite
  try dsimp only
  repeat' first | with_reducible assumption | intro _ | with_reducible apply h6 | with_reducible apply State.fillFrom_keeps | with_reducible apply State.cleanSectors_keeps | with_reducible apply State.opReach_keeps | with_reducible apply State.storeElements_keeps | simp only [Keeps.mk_iff] | split | (with_reducible refine Keeps.record ?_ (by simp) (by simp)) | dsimp only

theorem State.orFlags_keeps {b0 : State} {s : State} {m : Nat} {x : MxOp} {st : Nat} {exc : Exc} (h0 : Keeps b0 s) : Keeps b0 (State.orFlags s m x st exc) := by
  unfold State.orFlags
  try dsimp only
  repeat' first | with_reducible assumption | intro _ | with_reducible apply State.putSpad_keeps | simp only [Keeps.mk_iff] | split | (with_reducible refine Keeps.record ?_ (by simp) (by simp)) | dsimp only

theorem State.opSourced_keeps {b0 : State} {s : State} {m : Nat} {x : MxOp} {r : MxRead} (h0 : Keeps b0 s) : Keeps b0 (State.opSourced s m x r) := by
  unfold State.opSourced
  try dsimp only
  repeat' first | with_reducible assumption | intro _ | with_reducible apply State.setToken_keeps | with_reducible apply State.modOp_keeps | simp only [Keeps.mk_iff] | split | (with_reducible refine Keeps.record ?_ (by simp) (by simp)) | dsimp only

theorem State.opVisible_keeps {b0 : State} {s : State} {m : Nat} {x : MxOp} {status : Nat} (h0 : Keeps b0 s) : Keeps b0 (State.opVisible s m x status) := by
  unfold State.opVisible
  try dsimp only
  repeat' first | with_reducible assumption | intro _ | with_reducible apply State.setToken_keeps | with_reducible apply State.modOp_keeps | simp only [Keeps.mk_iff] | split | (with_reducible refine Keeps.record ?_ (by simp) (by simp)) | dsimp only

theorem State.opReported_keeps {b0 : State} {s : State} {m : Nat} {x : MxOp} {u : MxUnit} (h0 : Keeps b0 s) : Keeps b0 (State.opReported s m x u) := by
  unfold State.opReported
  try dsimp only
  repeat' first | with_reducible assumption | intro _ | with_reducible apply Issue.block_keeps | with_reducible apply State.report_keeps | with_reducible apply State.settleGangQueues_keeps | with_reducible apply State.gangDid_keeps | with_reducible apply State.delOp_keeps | simp only [Keeps.mk_iff] | split | (with_reducible refine Keeps.record ?_ (by simp) (by simp)) | dsimp only

theorem State.finishOp_keeps {b0 : State} {s : State} {m ctx st : Nat} (h0 : Keeps b0 s) : Keeps b0 (State.finishOp s m ctx st) := by
  unfold State.finishOp
  try dsimp only
  repeat' first | with_reducible assumption | intro _ | with_reducible apply State.fillFrom_keeps | with_reducible apply Issue.block_keeps | with_reducible apply State.riseAt_keeps | with_reducible apply Issue.atomic_keeps | with_reducible apply State.opReach_keeps | with_reducible apply State.opReported_keeps | simp only [Keeps.mk_iff] | split | (with_reducible refine Keeps.record ?_ (by simp) (by simp)) | dsimp only

theorem State.opDone_keeps {b0 : State} {s : State} {m : Nat} {x : MxOp} {status ctx st : Nat} (h0 : Keeps b0 s) : Keeps b0 (State.opDone s m x status ctx st) := by
  unfold State.opDone
  try dsimp only
  repeat' first | with_reducible assumption | intro _ | with_reducible apply State.opVisible_keeps | with_reducible apply State.finishOp_keeps | simp only [Keeps.mk_iff] | split | (with_reducible refine Keeps.record ?_ (by simp) (by simp)) | dsimp only

theorem State.setAcc_keeps {b0 : State} {s : State} {g u : Nat} {unit : MxUnit} {acc : Sparse W32} (h0 : Keeps b0 s) : Keeps b0 (State.setAcc s g u unit acc) := by
  unfold State.setAcc
  try dsimp only
  repeat' first | with_reducible assumption | intro _ | with_reducible apply State.modUnit_keeps | simp only [Keeps.mk_iff] | split | (with_reducible refine Keeps.record ?_ (by simp) (by simp)) | dsimp only

theorem State.startOp_keeps {b0 : State} {s : State} {m : Nat} {x : MxOp} {u : MxUnit} {ctx st : Nat} (h0 : Keeps b0 s) : Keeps b0 (State.startOp s m x u ctx st) := by
  unfold State.startOp
  try dsimp only
  repeat' first | with_reducible assumption | intro _ | with_reducible apply State.modOp_keeps | with_reducible apply State.opRead_keeps | with_reducible apply State.setAcc_keeps | simp only [Keeps.mk_iff] | split | (with_reducible refine Keeps.record ?_ (by simp) (by simp)) | dsimp only

theorem State.remapRow_keeps {b0 : State} {s : State} {st sub row spare : Nat} (h0 : Keeps b0 s) : Keeps b0 (State.remapRow s st sub row spare) := by
  unfold State.remapRow
  try dsimp only
  repeat' first | with_reducible assumption | intro _ | with_reducible apply State.modStack_keeps | with_reducible apply State.event_keeps | simp only [Keeps.mk_iff] | split | (with_reducible refine Keeps.record ?_ (by simp) (by simp)) | dsimp only

theorem State.fence_keeps {b0 : State} {s : State} {st sub : Nat} (h0 : Keeps b0 s) : Keeps b0 (State.fence s st sub) := by
  unfold State.fence
  try dsimp only
  repeat' first | with_reducible assumption | intro _ | with_reducible apply State.modStack_keeps | with_reducible apply State.event_keeps | simp only [Keeps.mk_iff] | split | (with_reducible refine Keeps.record ?_ (by simp) (by simp)) | dsimp only

theorem State.loseOp_keeps {b0 : State} {s : State} {m ctx st : Nat} (h0 : Keeps b0 s) : Keeps b0 (State.loseOp s m ctx st) := by
  unfold State.loseOp
  try dsimp only
  repeat' first | with_reducible assumption | intro _ | with_reducible apply State.fresh_keeps | with_reducible apply State.opWrite_keeps | with_reducible apply State.orFlags_keeps | with_reducible apply State.opDone_keeps | with_reducible refine keeps_pair (by assumption) ?_ | simp only [Keeps.mk_iff] | split | (with_reducible refine Keeps.record ?_ (by simp) (by simp)) | dsimp only

theorem State.loseUnit_keeps {b0 : State} {s : State} {st sub g u : Nat} {unit : MxUnit} (h0 : Keeps b0 s) : Keeps b0 (State.loseUnit s st sub g u unit) := by
  unfold State.loseUnit
  try dsimp only
  repeat' first | with_reducible assumption | intro _ | with_reducible apply State.event_keeps | with_reducible apply State.modUnit_keeps | with_reducible apply State.modOp_keeps | with_reducible apply State.loseOp_keeps | with_reducible apply keeps_foldl | simp only [Keeps.mk_iff] | split | (with_reducible refine Keeps.record ?_ (by simp) (by simp)) | dsimp only

theorem State.failedTest_keeps {b0 : State} {s : State} {st sub g u : Nat} {unit : MxUnit} {t : SelfTest} (h0 : Keeps b0 s) : Keeps b0 (State.failedTest s st sub g u unit t) := by
  unfold State.failedTest
  try dsimp only
  repeat' first | with_reducible assumption | intro _ | with_reducible apply State.modUnit_keeps | with_reducible apply State.remapRow_keeps | with_reducible apply State.fence_keeps | with_reducible apply State.loseUnit_keeps | simp only [Keeps.mk_iff] | split | (with_reducible refine Keeps.record ?_ (by simp) (by simp)) | dsimp only

theorem State.testRan_keeps {b0 : State} {s : State} {st n : Nat} (h0 : Keeps b0 s) : Keeps b0 (State.testRan s st n) := by
  unfold State.testRan
  try dsimp only
  repeat' first | with_reducible assumption | intro _ | with_reducible apply State.modStack_keeps | simp only [Keeps.mk_iff] | split | (with_reducible refine Keeps.record ?_ (by simp) (by simp)) | dsimp only

theorem State.testedOp_keeps {b0 : State} {s : State} {m : Nat} {x : MxOp} {u : MxUnit} {r : MxRead} {t : SelfTest} {ctx st : Nat} (h0 : Keeps b0 s) : Keeps b0 (State.testedOp s m x u r t ctx st) := by
  unfold State.testedOp
  try dsimp only
  repeat' first | with_reducible assumption | intro _ | with_reducible apply State.orFlags_keeps | with_reducible apply State.opDone_keeps | with_reducible apply State.setAcc_keeps | with_reducible apply State.failedTest_keeps | with_reducible apply State.testRan_keeps | with_reducible apply keeps_getD | simp only [Keeps.mk_iff] | split | (with_reducible refine Keeps.record ?_ (by simp) (by simp)) | dsimp only

theorem State.applyOp_keeps {b0 : State} {s : State} {m : Nat} {t : SelfTest} {ctx st : Nat} (h0 : Keeps b0 s) : Keeps b0 (State.applyOp s m t ctx st) := by
  unfold State.applyOp
  try dsimp only
  repeat' first | with_reducible assumption | intro _ | with_reducible apply State.modUnit_keeps | with_reducible apply State.orFlags_keeps | with_reducible apply State.opDone_keeps | with_reducible apply State.testedOp_keeps | simp only [Keeps.mk_iff] | split | (with_reducible refine Keeps.record ?_ (by simp) (by simp)) | dsimp only

theorem State.goesOn_keeps {b0 : State} {s : State} {m : Nat} {next : State} (h0 : Keeps b0 s) (h2 : Keeps b0 next) : Keeps b0 (State.goesOn s m next) := by
  unfold State.goesOn
  try dsimp only
  repeat' first | with_reducible assumption | intro _ | simp only [Keeps.mk_iff] | split | (with_reducible refine Keeps.record ?_ (by simp) (by simp)) | dsimp only

theorem State.runOp_keeps {b0 : State} {s : State} {m : Nat} {x : MxOp} {u : MxUnit} {t : SelfTest} {ctx st : Nat} (h0 : Keeps b0 s) : Keeps b0 (State.runOp s m x u t ctx st) := by
  unfold State.runOp
  try dsimp only
  repeat' first | with_reducible assumption | intro _ | with_reducible apply State.modUnit_keeps | with_reducible apply State.opRead_keeps | with_reducible apply State.opWrite_keeps | with_reducible apply State.opSourced_keeps | with_reducible apply State.opDone_keeps | with_reducible apply State.setAcc_keeps | with_reducible apply State.applyOp_keeps | with_reducible apply State.goesOn_keeps | with_reducible apply keeps_foldl | simp only [Keeps.mk_iff] | split | (with_reducible refine Keeps.record ?_ (by simp) (by simp)) | dsimp only

/-! ### Of Machine/EngineEvents.lean -/

theorem State.commandReach_keeps {b0 : State} {s : State} {k : Nat} {x : Command} {a : Access} {write : Bool} {ps : List (Nat × Nat)} {next : List (Target × Nat) → State} (h0 : Keeps b0 s) (h6 : ∀ z0, Keeps b0 (next z0)) : Keeps b0 (State.commandReach s k x a write ps next) := by
  unfold State.commandReach
  try dsimp only
  repeat' first | with_reducible assumption | intro _ | with_reducible apply h6 | with_reducible apply State.backInvalidate_keeps | with_reducible apply Issue.fault_keeps | with_reducible apply State.whenClear_keeps | with_reducible apply State.commandFault_keeps | with_reducible apply State.commandHold_keeps | simp only [Keeps.mk_iff] | split | (with_reducible refine Keeps.record ?_ (by simp) (by simp)) | dsimp only

theorem State.commandRead_keeps {b0 : State} {s : State} {k : Nat} {x : Command} {ps : List (Nat × Nat)} {next : State → List Got → State} (h0 : Keeps b0 s) (h4 : ∀ z0 z1, Keeps b0 z0 → Keeps b0 (next z0 z1)) : Keeps b0 (State.commandRead s k x ps next) := by
  unfold State.commandRead
  try dsimp only
  repeat' first | with_reducible assumption | intro _ | with_reducible apply h4 | with_reducible apply State.fillFrom_keeps | with_reducible apply State.recallLog_keeps | with_reducible apply State.readThrough_keeps | with_reducible apply State.modCommand_keeps | with_reducible apply State.commandReach_keeps | with_reducible apply keeps_getD | exact keepsOpt_none | with_reducible apply keepsOpt_map | with_reducible apply keepsOpt_bind | (with_reducible apply keepsOpt_some; try dsimp only) | with_reducible refine KeepsOpt.snd (by assumption) ?_ | with_reducible refine KeepsOpt.snd' (by assumption) ?_ | simp only [Keeps.mk_iff] | split | (with_reducible refine Keeps.record ?_ (by simp) (by simp)) | dsimp only

theorem State.gotMoves_keeps {b0 : State} {s : State} {k : Nat} {x : Command} {moves : List Move} {got : List (Nat × List (Byte × Bool))} (h0 : Keeps b0 s) : Keeps b0 (State.gotMoves s k x moves got) := by
  unfold State.gotMoves
  try dsimp only
  repeat' first | with_reducible assumption | intro _ | with_reducible apply State.setToken_keeps | with_reducible apply State.modCommand_keeps | simp only [Keeps.mk_iff] | split | (with_reducible refine Keeps.record ?_ (by simp) (by simp)) | dsimp only

theorem State.readMoves_keeps {b0 : State} {s : State} {k : Nat} {x : Command} {idx : List (Nat × Bool)} (h0 : Keeps b0 s) : Keeps b0 (State.readMoves s k x idx) := by
  unfold State.readMoves
  try dsimp only
  repeat' first | with_reducible assumption | intro _ | with_reducible apply State.commandRead_keeps | with_reducible apply State.gotMoves_keeps | simp only [Keeps.mk_iff] | split | (with_reducible refine Keeps.record ?_ (by simp) (by simp)) | dsimp only

theorem State.commandWrite_keeps {b0 : State} {s : State} {k : Nat} {x : Command} {els : List (Nat × List Byte × Bool)} {next : State → State} (h0 : Keeps b0 s) (h4 : ∀ z0, Keeps b0 z0 → Keeps b0 (next z0)) : Keeps b0 (State.commandWrite s k x els next) := by
  unfold State.commandWrite
  try dsimp only
  repeat' first | with_reducible assumption | intro _ | with_reducible apply h4 | with_reducible apply State.fillFrom_keeps | with_reducible apply State.storeElements_keeps | with_reducible apply State.commandReach_keeps | simp only [Keeps.mk_iff] | split | (with_reducible refine Keeps.record ?_ (by simp) (by simp)) | dsimp only

theorem State.commandRise_keeps {b0 : State} {s : State} {k : Nat} {x : Command} {counter amount : Nat} {next : State → State} (h0 : Keeps b0 s) (h5 : ∀ z0, Keeps b0 z0 → Keeps b0 (next z0)) : Keeps b0 (State.commandRise s k x counter amount next) := by
  unfold State.commandRise
  try dsimp only
  repeat' first | with_reducible assumption | intro _ | with_reducible apply h5 | with_reducible apply State.fillFrom_keeps | with_reducible apply State.riseAt_keeps | with_reducible apply Issue.atomic_keeps | with_reducible apply State.commandReach_keeps | simp only [Keeps.mk_iff] | split | (with_reducible refine Keeps.record ?_ (by simp) (by simp)) | dsimp only

theorem State.engineDone_keeps {b0 : State} {q i : Nat} {v : Seen} {s : State} (h3 : Keeps b0 s) : Keeps b0 (State.engineDone q i v s) := by
  unfold State.engineDone
  try dsimp only
  repeat' first | with_reducible assumption | intro _ | with_reducible apply State.modQueue_keeps | with_reducible apply State.completePacket_keeps | with_reducible apply State.modOpen_keeps | simp only [Keeps.mk_iff] | split | (with_reducible refine Keeps.record ?_ (by simp) (by simp)) | dsimp only

theorem State.finishCommand_keeps {b0 : State} {s : State} {k : Nat} {x : Command} (h0 : Keeps b0 s) : Keeps b0 (State.finishCommand s k x) := by
  unfold State.finishCommand
  try dsimp only
  repeat' first | with_reducible assumption | intro _ | with_reducible apply State.commandEnd_keeps | with_reducible apply State.delCommand_keeps | with_reducible apply State.gangDid_keeps | with_reducible apply State.commandRise_keeps | with_reducible apply State.engineDone_keeps | simp only [Keeps.mk_iff] | split | (with_reducible refine Keeps.record ?_ (by simp) (by simp)) | dsimp only

theorem State.visibleCommand_keeps {b0 : State} {s : State} {k : Nat} {x : Command} (h0 : Keeps b0 s) : Keeps b0 (State.visibleCommand s k x) := by
  unfold State.visibleCommand
  try dsimp only
  repeat' first | with_reducible assumption | intro _ | with_reducible apply State.setToken_keeps | with_reducible apply State.cleanSectors_keeps | with_reducible apply State.modCommand_keeps | with_reducible apply State.patchGroup_keeps | with_reducible apply State.finishCommand_keeps | simp only [Keeps.mk_iff] | split | (with_reducible refine Keeps.record ?_ (by simp) (by simp)) | dsimp only

theorem State.writeMoves_keeps {b0 : State} {s : State} {k : Nat} {x : Command} (h0 : Keeps b0 s) : Keeps b0 (State.writeMoves s k x) := by
  unfold State.writeMoves
  try dsimp only
  repeat' first | with_reducible assumption | intro _ | with_reducible apply State.put_keeps | with_reducible apply State.modCommand_keeps | with_reducible apply State.commandWrite_keeps | with_reducible apply State.visibleCommand_keeps | simp only [Keeps.mk_iff] | split | (with_reducible refine Keeps.record ?_ (by simp) (by simp)) | dsimp only

theorem State.landedChunk_keeps {b0 : State} {s : State} {k : Nat} {x : Command} {n : Nat} (h0 : Keeps b0 s) : Keeps b0 (State.landedChunk s k x n) := by
  unfold State.landedChunk
  try dsimp only
  repeat' first | with_reducible assumption | intro _ | with_reducible apply State.modCommand_keeps | with_reducible apply State.commandRise_keeps | simp only [Keeps.mk_iff] | split | (with_reducible refine Keeps.record ?_ (by simp) (by simp)) | dsimp only

/-! ### Of Machine/Deadline.lean -/

theorem State.cancelCommands_keeps {b0 : State} {s : State} {g : Nat} (h0 : Keeps b0 s) : Keeps b0 (State.cancelCommands s g) := by
  unfold State.cancelCommands
  try dsimp only
  repeat' first | with_reducible assumption | intro _ | with_reducible apply State.commandEnd_keeps | with_reducible apply State.delCommand_keeps | with_reducible apply keeps_foldl | simp only [Keeps.mk_iff] | split | (with_reducible refine Keeps.record ?_ (by simp) (by simp)) | dsimp only

theorem State.cancelOp_keeps {b0 : State} {s : State} {m : Nat} {x : MxOp} (h0 : Keeps b0 s) : Keeps b0 (State.cancelOp s m x) := by
  unfold State.cancelOp
  try dsimp only
  repeat' first | with_reducible assumption | intro _ | with_reducible apply Issue.block_keeps | with_reducible apply State.report_keeps | with_reducible apply State.setToken_keeps | with_reducible apply State.modUnit_keeps | with_reducible apply State.delOp_keeps | simp only [Keeps.mk_iff] | split | (with_reducible refine Keeps.record ?_ (by simp) (by simp)) | dsimp only

theorem State.cancelOps_keeps {b0 : State} {s : State} {g : Nat} (h0 : Keeps b0 s) : Keeps b0 (State.cancelOps s g) := by
  unfold State.cancelOps
  try dsimp only
  repeat' first | with_reducible assumption | intro _ | with_reducible apply State.popAll_keeps | with_reducible apply State.cancelOp_keeps | with_reducible apply keeps_foldl | simp only [Keeps.mk_iff] | split | (with_reducible refine Keeps.record ?_ (by simp) (by simp)) | dsimp only

theorem State.rollbackGang_keeps {b0 : State} {s : State} {g : Nat} (h0 : Keeps b0 s) : Keeps b0 (State.rollbackGang s g) := by
  unfold State.rollbackGang
  try dsimp only
  repeat' first | with_reducible assumption | intro _ | with_reducible apply State.rollbackWave_keeps | with_reducible apply keeps_foldl | simp only [Keeps.mk_iff] | split | (with_reducible refine Keeps.record ?_ (by simp) (by simp)) | dsimp only

theorem State.killGang_keeps {b0 : State} {s : State} {g : Nat} (h0 : Keeps b0 s) : Keeps b0 (State.killGang s g) := by
  unfold State.killGang
  try dsimp only
  repeat' first | with_reducible assumption | intro _ | with_reducible apply State.modGang_keeps | with_reducible apply State.settleGangQueues_keeps | with_reducible apply State.cancelCommands_keeps | with_reducible apply State.cancelOps_keeps | with_reducible apply State.rollbackGang_keeps | simp only [Keeps.mk_iff] | split | (with_reducible refine Keeps.record ?_ (by simp) (by simp)) | dsimp only

theorem State.divertGang_keeps {b0 : State} {s : State} {g cause : Nat} (h0 : Keeps b0 s) : Keeps b0 (State.divertGang s g cause) := by
  unfold State.divertGang
  try dsimp only
  repeat' first | with_reducible assumption | intro _ | with_reducible apply State.modGang_keeps | with_reducible apply State.gangLeaves_keeps | with_reducible apply State.cancelCommands_keeps | with_reducible apply State.cancelOps_keeps | with_reducible apply State.rollbackGang_keeps | with_reducible apply State.killGang_keeps | simp only [Keeps.mk_iff] | split | (with_reducible refine Keeps.record ?_ (by simp) (by simp)) | dsimp only

theorem State.dropBatched_keeps {b0 : State} {s : State} {l st : Nat} (h0 : Keeps b0 s) : Keeps b0 (State.dropBatched s l st) := by
  unfold State.dropBatched
  try dsimp only
  repeat' first | with_reducible assumption | intro _ | with_reducible apply State.modStack_keeps | with_reducible apply State.neverStarts_keeps | with_reducible apply keeps_foldl | simp only [Keeps.mk_iff] | split | (with_reducible refine Keeps.record ?_ (by simp) (by simp)) | dsimp only

theorem State.killSaved_keeps {b0 : State} {s : State} {g : Nat} (h0 : Keeps b0 s) : Keeps b0 (State.killSaved s g) := by
  unfold State.killSaved
  try dsimp only
  repeat' first | with_reducible assumption | intro _ | with_reducible apply State.modGang_keeps | with_reducible apply State.modLaunch_keeps | with_reducible apply Issue.done_keeps | with_reducible apply State.gangLeaves_keeps | with_reducible apply State.dropImage_keeps | simp only [Keeps.mk_iff] | split | (with_reducible refine Keeps.record ?_ (by simp) (by simp)) | dsimp only

theorem State.ownerDone_keeps {b0 : State} {s : State} {o : LaunchOwner} (h0 : Keeps b0 s) : Keeps b0 (State.ownerDone s o) := by
  unfold State.ownerDone
  try dsimp only
  repeat' first | with_reducible assumption | intro _ | with_reducible apply State.completePacket_keeps | with_reducible apply State.modOpen_keeps | simp only [Keeps.mk_iff] | split | (with_reducible refine Keeps.record ?_ (by simp) (by simp)) | dsimp only

theorem State.launchHold_keeps {b0 : State} {s : State} {l : Nat} {q : Queue} {page : Nat} (h0 : Keeps b0 s) : Keeps b0 (State.launchHold s l q page) := by
  unfold State.launchHold
  try dsimp only
  repeat' first | with_reducible assumption | intro _ | with_reducible apply State.modLaunch_keeps | with_reducible apply State.pageRequest_keeps | simp only [Keeps.mk_iff] | split | (with_reducible refine Keeps.record ?_ (by simp) (by simp)) | dsimp only

theorem State.writeDone_keeps {b0 : State} {s : State} {l : Nat} {x : Launch} {q : Queue} (h0 : Keeps b0 s) : Keeps b0 (State.writeDone s l x q) := by
  unfold State.writeDone
  try dsimp only
  repeat' first | with_reducible assumption | intro _ | with_reducible apply State.modLaunch_keeps | with_reducible apply Issue.done_keeps | with_reducible apply State.backInvalidate_keeps | with_reducible apply Issue.fault_keeps | with_reducible apply State.whenClear_keeps | with_reducible apply State.riseAt_keeps | with_reducible apply State.stopQueue_keeps | with_reducible apply State.ownerDone_keeps | with_reducible apply State.launchHold_keeps | simp only [Keeps.mk_iff] | split | (with_reducible refine Keeps.record ?_ (by simp) (by simp)) | dsimp only

theorem State.joinLaunch_keeps {b0 : State} {s : State} {x : Launch} (h0 : Keeps b0 s) : Keeps b0 (State.joinLaunch s x) := by
  unfold State.joinLaunch
  try dsimp only
  repeat' first | with_reducible assumption | intro _ | with_reducible apply Issue.finish_keeps | simp only [Keeps.mk_iff] | split | (with_reducible refine Keeps.record ?_ (by simp) (by simp)) | dsimp only

theorem State.writeRecord_keeps {b0 : State} {s : State} {l : Nat} {x : Launch} {status : Nat} (h0 : Keeps b0 s) : Keeps b0 (State.writeRecord s l x status) := by
  unfold State.writeRecord
  try dsimp only
  repeat' first | with_reducible assumption | intro _ | with_reducible apply State.modLaunch_keeps | with_reducible apply Issue.done_keeps | with_reducible apply State.backInvalidate_keeps | with_reducible apply State.cpWrite_keeps | with_reducible apply State.stopQueue_keeps | with_reducible apply State.ownerDone_keeps | with_reducible apply State.launchHold_keeps | with_reducible apply State.writeDone_keeps | with_reducible apply State.joinLaunch_keeps | with_reducible refine KeepsCp.of (by assumption) ?_ | simp only [Keeps.mk_iff] | split | (with_reducible refine Keeps.record ?_ (by simp) (by simp)) | dsimp only

/-! ### Of Machine/Dispatching.lean -/

theorem State.sendGang_keeps {b0 : State} {s : State} {l : Nat} {x : Launch} {n st : Nat} (h0 : Keeps b0 s) : Keeps b0 (State.sendGang s l x n st) := by
  unfold State.sendGang
  try dsimp only
  repeat' first | with_reducible assumption | intro _ | with_reducible apply State.modStack_keeps | with_reducible apply State.modGang_keeps | with_reducible apply State.fresh_keeps | with_reducible refine keeps_pair (by assumption) ?_ | simp only [Keeps.mk_iff] | split | (with_reducible refine Keeps.record ?_ (by simp) (by simp)) | dsimp only

theorem State.makeBars_keeps {b0 : State} {s : State} {l : Nat} {x : Launch} (h0 : Keeps b0 s) : Keeps b0 (State.makeBars s l x) := by
  unfold State.makeBars
  try dsimp only
  repeat' first | with_reducible assumption | intro _ | with_reducible apply State.modLaunch_keeps | with_reducible apply State.fresh_keeps | with_reducible refine keeps_pair (by assumption) ?_ | simp only [Keeps.mk_iff] | split | (with_reducible refine Keeps.record ?_ (by simp) (by simp)) | dsimp only

theorem State.dispatchPlan_keeps {b0 : State} {s : State} {l : Nat} {x : Launch} {p : Plan} (h0 : Keeps b0 s) : Keeps b0 (State.dispatchPlan s l x p) := by
  unfold State.dispatchPlan
  try dsimp only
  repeat' first | with_reducible assumption | intro _ | with_reducible apply State.modLaunch_keeps | with_reducible apply State.sendGang_keeps | with_reducible apply State.makeBars_keeps | with_reducible apply keeps_foldl | simp only [Keeps.mk_iff] | split | (with_reducible refine Keeps.record ?_ (by simp) (by simp)) | dsimp only

theorem State.nextRound_keeps {b0 : State} {s : State} {p : Nat} (h0 : Keeps b0 s) : Keeps b0 (State.nextRound s p) := by
  unfold State.nextRound
  try dsimp only
  repeat' first | with_reducible assumption | intro _ | with_reducible apply State.modPartition_keeps | simp only [Keeps.mk_iff] | split | (with_reducible refine Keeps.record ?_ (by simp) (by simp)) | dsimp only

theorem State.unbatch_keeps {b0 : State} {s : State} {st g : Nat} (h0 : Keeps b0 s) : Keeps b0 (State.unbatch s st g) := by
  unfold State.unbatch
  try dsimp only
  repeat' first | with_reducible assumption | intro _ | with_reducible apply State.modStack_keeps | simp only [Keeps.mk_iff] | split | (with_reducible refine Keeps.record ?_ (by simp) (by simp)) | dsimp only

theorem State.modPool_keeps {b0 : State} {s : State} {k : Nat} {f : Pool → Pool} (h0 : Keeps b0 s) : Keeps b0 (State.modPool s k f) := by
  unfold State.modPool
  try dsimp only
  repeat' first | with_reducible assumption | intro _ | simp only [Keeps.mk_iff] | split | (with_reducible refine Keeps.record ?_ (by simp) (by simp)) | dsimp only

theorem State.poolReach_keeps {b0 : State} {s : State} {k : Nat} {p : Pool} {x : Launch} {write : Bool} {va n : Nat} {next : List (Target × Nat) → PoolStep} (h0 : Keeps b0 s) (h7 : ∀ z0, KeepsPool b0 (next z0)) : KeepsPool b0 (State.poolReach s k p x write va n next) := by
  unfold State.poolReach
  try dsimp only
  repeat' first | with_reducible assumption | intro _ | with_reducible apply h7 | with_reducible apply State.backInvalidate_keeps | with_reducible apply State.pageRequest_keeps | with_reducible apply State.raiseHalt_keeps | with_reducible apply Issue.fault_keeps | with_reducible apply State.modPool_keeps | with_reducible apply KeepsPool.wait | with_reducible refine KeepsPool.ofGo (by assumption) ?_ | with_reducible refine KeepsPool.ofWait (by assumption) ?_ | simp only [Keeps.mk_iff] | split | (with_reducible refine Keeps.record ?_ (by simp) (by simp)) | dsimp only

theorem State.poolStore_keeps {b0 : State} {s : State} {k : Nat} {p : Pool} {x : Launch} {sc : Scope} {off v : Nat} (h0 : Keeps b0 s) : KeepsPool b0 (State.poolStore s k p x sc off v) := by
  unfold State.poolStore
  try dsimp only
  repeat' first | with_reducible assumption | intro _ | with_reducible apply State.fillFrom_keeps | with_reducible apply State.storePieces_keeps | with_reducible apply Issue.block_keeps | with_reducible apply State.poolReach_keeps | with_reducible apply KeepsPool.go | with_reducible refine KeepsPool.ofGo (by assumption) ?_ | with_reducible refine KeepsPool.ofWait (by assumption) ?_ | simp only [Keeps.mk_iff] | split | (with_reducible refine Keeps.record ?_ (by simp) (by simp)) | dsimp only

theorem State.poolWrite_keeps {b0 : State} {s : State} {k : Nat} {p : Pool} {x : Launch} {off v : Nat} (h0 : Keeps b0 s) : KeepsPool b0 (State.poolWrite s k p x off v) := by
  unfold State.poolWrite
  try dsimp only
  repeat' first | with_reducible assumption | intro _ | with_reducible apply State.poolStore_keeps | with_reducible refine KeepsPool.ofGo (by assumption) ?_ | with_reducible refine KeepsPool.ofWait (by assumption) ?_ | simp only [Keeps.mk_iff] | split | (with_reducible refine Keeps.record ?_ (by simp) (by simp)) | dsimp only

theorem State.logPlace_keeps {b0 : State} {s : State} {st k : Nat} {x : Gang} {l : Launch} (h0 : Keeps b0 s) : KeepsOpt Prod.snd b0 (State.logPlace s st k x l) := by
  unfold State.logPlace
  try dsimp only
  repeat' first | with_reducible assumption | intro _ | with_reducible apply State.logged_keeps | with_reducible apply KeepsLogged.go | exact KeepsLogged.hold | exact keepsOpt_none | (with_reducible apply keepsOpt_some; try dsimp only) | with_reducible refine KeepsLogged.of (by assumption) ?_ | simp only [Keeps.mk_iff] | split | (with_reducible refine Keeps.record ?_ (by simp) (by simp)) | dsimp only

theorem State.placeGang_keeps {b0 : State} {s : State} {st g k : Nat} {x : Gang} {l : Launch} (h0 : Keeps b0 s) : Keeps b0 (State.placeGang s st g k x l) := by
  unfold State.placeGang
  try dsimp only
  repeat' first | with_reducible assumption | intro _ | with_reducible apply State.startGang_keeps | with_reducible apply State.unbatch_keeps | with_reducible apply State.modPool_keeps | with_reducible apply State.poolWrite_keeps | with_reducible apply State.logPlace_keeps | with_reducible apply KeepsPool.go | with_reducible apply KeepsPool.wait | exact keepsOpt_none | with_reducible apply keepsOpt_map | with_reducible apply keepsOpt_bind | (with_reducible apply keepsOpt_some; try dsimp only) | with_reducible refine KeepsPool.ofGo (by assumption) ?_ | with_reducible refine KeepsPool.ofWait (by assumption) ?_ | with_reducible refine KeepsOpt.snd (by assumption) ?_ | with_reducible refine KeepsOpt.snd' (by assumption) ?_ | simp only [Keeps.mk_iff] | split | (with_reducible refine Keeps.record ?_ (by simp) (by simp)) | dsimp only

/-! ### Of Machine/Pools.lean -/

theorem State.poolRead_keeps {b0 : State} {s : State} {k : Nat} {p : Pool} {x : Launch} {va n : Nat} (h0 : Keeps b0 s) : KeepsPool b0 (State.poolRead s k p x va n) := by
  unfold State.poolRead
  try dsimp only
  repeat' first | with_reducible assumption | intro _ | with_reducible apply State.fillFrom_keeps | with_reducible apply State.recallLog_keeps | with_reducible apply State.readThrough_keeps | with_reducible apply State.modPool_keeps | with_reducible apply State.poolReach_keeps | with_reducible apply KeepsPool.go | with_reducible apply KeepsPool.wait | exact keepsOpt_none | with_reducible apply keepsOpt_map | (with_reducible apply keepsOpt_some; try dsimp only) | with_reducible refine KeepsPool.ofGo (by assumption) ?_ | with_reducible refine KeepsPool.ofWait (by assumption) ?_ | with_reducible refine KeepsOpt.snd (by assumption) ?_ | with_reducible refine KeepsOpt.snd' (by assumption) ?_ | simp only [Keeps.mk_iff] | split | (with_reducible refine Keeps.record ?_ (by simp) (by simp)) | dsimp only

theorem State.onPool_keeps {b0 : State} {s : State} {k : Nat} {f : Pool → Launch → State} (h0 : Keeps b0 s) (h2 : ∀ z0 z1, Keeps b0 (f z0 z1)) : Keeps b0 (State.onPool s k f) := by
  unfold State.onPool
  try dsimp only
  repeat' first | with_reducible assumption | intro _ | with_reducible apply h2 | simp only [Keeps.mk_iff] | split | (with_reducible refine Keeps.record ?_ (by simp) (by simp)) | dsimp only

theorem State.formWave_keeps {b0 : State} {s : State} {k : Nat} {records : List PoolRecord} (h0 : Keeps b0 s) : Keeps b0 (State.formWave s k records) := by
  unfold State.formWave
  try dsimp only
  repeat' first | with_reducible assumption | intro _ | with_reducible apply State.fresh_keeps | with_reducible apply State.roundsDue_keeps | with_reducible refine keeps_pair (by assumption) ?_ | simp only [Keeps.mk_iff] | split | (with_reducible refine Keeps.record ?_ (by simp) (by simp)) | dsimp only

theorem State.flushBin_keeps {b0 : State} {s : State} {k n : Nat} (h0 : Keeps b0 s) : Keeps b0 (State.flushBin s k n) := by
  unfold State.flushBin
  try dsimp only
  repeat' first | with_reducible assumption | intro _ | with_reducible apply State.modPool_keeps | with_reducible apply State.formWave_keeps | simp only [Keeps.mk_iff] | split | (with_reducible refine Keeps.record ?_ (by simp) (by simp)) | dsimp only

theorem State.binRecord_keeps {b0 : State} {s : State} {k : Nat} {r : PoolRecord} (h0 : Keeps b0 s) : Keeps b0 (State.binRecord s k r) := by
  unfold State.binRecord
  try dsimp only
  repeat' first | with_reducible assumption | intro _ | with_reducible apply State.modPool_keeps | with_reducible apply State.flushBin_keeps | with_reducible apply keeps_getD | simp only [Keeps.mk_iff] | split | (with_reducible refine Keeps.record ?_ (by simp) (by simp)) | dsimp only

theorem State.takeRecord_keeps {b0 : State} {s : State} {k : Nat} {p : Pool} {x : Launch} {claim : Nat} {bs : List (Byte × Bool)} (h0 : Keeps b0 s) : Keeps b0 (State.takeRecord s k p x claim bs) := by
  unfold State.takeRecord
  try dsimp only
  repeat' first | with_reducible assumption | intro _ | with_reducible apply State.modPool_keeps | with_reducible apply State.poolWrite_keeps | with_reducible apply State.binRecord_keeps | with_reducible apply KeepsPool.go | with_reducible apply KeepsPool.wait | with_reducible refine KeepsPool.ofGo (by assumption) ?_ | with_reducible refine KeepsPool.ofWait (by assumption) ?_ | simp only [Keeps.mk_iff] | split | (with_reducible refine Keeps.record ?_ (by simp) (by simp)) | dsimp only

theorem State.readRecord_keeps {b0 : State} {s : State} {k : Nat} {p : Pool} {x : Launch} {va : Nat} (h0 : Keeps b0 s) : KeepsPool b0 (State.readRecord s k p x va) := by
  unfold State.readRecord
  try dsimp only
  repeat' first | with_reducible assumption | intro _ | with_reducible apply State.poolRead_keeps | with_reducible apply keeps_getD | with_reducible apply KeepsPool.go | with_reducible apply KeepsPool.wait | with_reducible refine KeepsPool.ofGo (by assumption) ?_ | with_reducible refine KeepsPool.ofWait (by assumption) ?_ | simp only [Keeps.mk_iff] | split | (with_reducible refine Keeps.record ?_ (by simp) (by simp)) | dsimp only

/-! ### Of Machine/Packets.lean -/

theorem State.modGraph_keeps {b0 : State} {s : State} {k i : Nat} {f : Graph → Graph} (h0 : Keeps b0 s) : Keeps b0 (State.modGraph s k i f) := by
  unfold State.modGraph
  try dsimp only
  repeat' first | with_reducible assumption | intro _ | with_reducible apply State.modOpen_keeps | simp only [Keeps.mk_iff] | split | (with_reducible refine Keeps.record ?_ (by simp) (by simp)) | dsimp only

theorem State.graphWrite_keeps {b0 : State} {s : State} {k : Nat} {q : Queue} {g : Graph} {off : Nat} {bs : List Byte} {next : State → Begun} (h0 : Keeps b0 s) (h6 : ∀ z0, Keeps b0 z0 → KeepsBegun b0 (next z0)) : KeepsBegun b0 (State.graphWrite s k q g off bs next) := by
  unfold State.graphWrite
  try dsimp only
  repeat' first | with_reducible assumption | intro _ | with_reducible apply h6 | with_reducible apply State.backInvalidate_keeps | with_reducible apply State.cpWrite_keeps | with_reducible apply State.cpHold_keeps | with_reducible apply KeepsBegun.blocked | with_reducible apply KeepsBegun.refused | with_reducible refine KeepsBegun.ofDone (by assumption) ?_ | with_reducible refine KeepsBegun.ofRunning (by assumption) ?_ | with_reducible refine KeepsBegun.ofBlocked (by assumption) ?_ | with_reducible refine KeepsBegun.ofRefused (by assumption) ?_ | with_reducible refine KeepsCp.of (by assumption) ?_ | simp only [Keeps.mk_iff] | split | (with_reducible refine Keeps.record ?_ (by simp) (by simp)) | dsimp only

theorem State.graphInterrupts_keeps {b0 : State} {s : State} {g : Graph} (h0 : Keeps b0 s) : Keeps b0 (State.graphInterrupts s g) := by
  unfold State.graphInterrupts
  try dsimp only
  repeat' first | with_reducible assumption | intro _ | with_reducible apply State.interrupt_keeps | with_reducible apply keeps_foldl | simp only [Keeps.mk_iff] | split | (with_reducible refine Keeps.record ?_ (by simp) (by simp)) | dsimp only

theorem State.graphLeave_keeps {b0 : State} {s : State} {k i : Nat} {q : Queue} {g : Graph} {exit node : Nat} (h0 : Keeps b0 s) : Keeps b0 (State.graphLeave s k i q g exit node) := by
  unfold State.graphLeave
  try dsimp only
  repeat' first | with_reducible assumption | intro _ | with_reducible apply Issue.done_keeps | with_reducible apply State.failPacket_keeps | with_reducible apply State.completePacket_keeps | with_reducible apply State.graphWrite_keeps | with_reducible apply State.graphInterrupts_keeps | with_reducible apply KeepsBegun.done | with_reducible apply KeepsBegun.blocked | with_reducible refine KeepsBegun.ofDone (by assumption) ?_ | with_reducible refine KeepsBegun.ofRunning (by assumption) ?_ | with_reducible refine KeepsBegun.ofBlocked (by assumption) ?_ | with_reducible refine KeepsBegun.ofRefused (by assumption) ?_ | simp only [Keeps.mk_iff] | split | (with_reducible refine Keeps.record ?_ (by simp) (by simp)) | dsimp only

theorem State.cpLearns_keeps {b0 : State} {s : State} {know : Know} (h0 : Keeps b0 s) : Keeps b0 (State.cpLearns s know) := by
  unfold State.cpLearns
  try dsimp only
  repeat' first | with_reducible assumption | intro _ | simp only [Keeps.mk_iff] | split | (with_reducible refine Keeps.record ?_ (by simp) (by simp)) | dsimp only

theorem State.dependenceRefused_keeps {b0 : State} {s : State} {l : Nat} {x : Launch} {q : Queue} (h0 : Keeps b0 s) : Keeps b0 (State.dependenceRefused s l x q) := by
  unfold State.dependenceRefused
  try dsimp only
  repeat' first | with_reducible assumption | intro _ | with_reducible apply State.modLaunch_keeps | with_reducible apply State.failPacket_keeps | with_reducible apply State.graphLeave_keeps | simp only [Keeps.mk_iff] | split | (with_reducible refine Keeps.record ?_ (by simp) (by simp)) | dsimp only

theorem State.readDependence_keeps {b0 : State} {s : State} {l : Nat} (h0 : Keeps b0 s) : Keeps b0 (State.readDependence s l) := by
  unfold State.readDependence
  try dsimp only
  repeat' first | with_reducible assumption | intro _ | with_reducible apply State.modLaunch_keeps | with_reducible apply State.backInvalidate_keeps | with_reducible apply State.roundsDue_keeps | with_reducible apply State.launchHold_keeps | with_reducible apply State.cpLearns_keeps | with_reducible apply State.dependenceRefused_keeps | simp only [Keeps.mk_iff] | split | (with_reducible refine Keeps.record ?_ (by simp) (by simp)) | dsimp only

theorem State.enterLaunch_keeps {b0 : State} {s : State} {q : Queue} {d : Desc} {owner : LaunchOwner} {pool : Option (Continuation × List Byte)} {packet : List Byte} {start : Seen} (h0 : Keeps b0 s) : KeepsBegun b0 (State.enterLaunch s q d owner pool packet start) := by
  unfold State.enterLaunch
  try dsimp only
  repeat' first | with_reducible assumption | intro _ | with_reducible apply State.nextSeq_keeps | with_reducible apply State.recallLog_keeps | with_reducible apply Issue.block_keeps | with_reducible apply State.logged_keeps | with_reducible apply State.roundsDue_keeps | with_reducible apply KeepsBegun.running | with_reducible apply KeepsBegun.blocked | with_reducible apply KeepsLogged.go | exact KeepsLogged.hold | with_reducible refine KeepsLogged.of (by assumption) ?_ | simp only [Keeps.mk_iff] | split | (with_reducible refine Keeps.record ?_ (by simp) (by simp)) | dsimp only

theorem State.launchNow_keeps {b0 : State} {s : State} {q : Queue} {owner : LaunchOwner} {bs packet : List Byte} {start : Seen} (h0 : Keeps b0 s) : KeepsBegun b0 (State.launchNow s q owner bs packet start) := by
  unfold State.launchNow
  try dsimp only
  repeat' first | with_reducible assumption | intro _ | with_reducible apply State.backInvalidate_keeps | with_reducible apply Issue.block_keeps | with_reducible apply State.cpHold_keeps | with_reducible apply State.enterLaunch_keeps | with_reducible apply KeepsBegun.blocked | with_reducible apply KeepsBegun.refused | exact KeepsBegun.error | with_reducible refine KeepsBegun.ofDone (by assumption) ?_ | with_reducible refine KeepsBegun.ofRunning (by assumption) ?_ | with_reducible refine KeepsBegun.ofBlocked (by assumption) ?_ | with_reducible refine KeepsBegun.ofRefused (by assumption) ?_ | simp only [Keeps.mk_iff] | split | (with_reducible refine Keeps.record ?_ (by simp) (by simp)) | dsimp only

theorem State.engineNow_keeps {b0 : State} {s : State} {k i : Nat} {q : Queue} {bs : List Byte} {view : Seen} (h0 : Keeps b0 s) : KeepsBegun b0 (State.engineNow s k i q bs view) := by
  unfold State.engineNow
  try dsimp only
  repeat' first | with_reducible assumption | intro _ | with_reducible apply Issue.done_keeps | with_reducible apply State.addCommand_keeps | with_reducible apply keeps_getD | with_reducible apply KeepsBegun.done | with_reducible apply KeepsBegun.running | exact KeepsBegun.error | simp only [Keeps.mk_iff] | split | (with_reducible refine Keeps.record ?_ (by simp) (by simp)) | dsimp only

theorem State.waitNow_keeps {b0 : State} {s : State} {k : Nat} {q : Queue} {bs : List Byte} (h0 : Keeps b0 s) : KeepsBegun b0 (State.waitNow s k q bs) := by
  unfold State.waitNow
  try dsimp only
  repeat' first | with_reducible assumption | intro _ | with_reducible apply Issue.done_keeps | with_reducible apply State.backInvalidate_keeps | with_reducible apply State.cpHold_keeps | with_reducible apply State.cpLearns_keeps | with_reducible apply KeepsBegun.done | with_reducible apply KeepsBegun.running | with_reducible apply KeepsBegun.blocked | with_reducible apply KeepsBegun.refused | exact KeepsBegun.error | simp only [Keeps.mk_iff] | split | (with_reducible refine Keeps.record ?_ (by simp) (by simp)) | dsimp only

theorem State.signalNow_keeps {b0 : State} {s : State} {k : Nat} {q : Queue} {bs : List Byte} (h0 : Keeps b0 s) : KeepsBegun b0 (State.signalNow s k q bs) := by
  unfold State.signalNow
  try dsimp only
  repeat' first | with_reducible assumption | intro _ | with_reducible apply Issue.done_keeps | with_reducible apply State.backInvalidate_keeps | with_reducible apply Issue.fault_keeps | with_reducible apply State.atomicAt_keeps | with_reducible apply State.cpWrite_keeps | with_reducible apply State.cpHold_keeps | with_reducible apply KeepsBegun.done | with_reducible apply KeepsBegun.blocked | with_reducible apply KeepsBegun.refused | exact KeepsBegun.error | with_reducible refine KeepsCp.of (by assumption) ?_ | simp only [Keeps.mk_iff] | split | (with_reducible refine Keeps.record ?_ (by simp) (by simp)) | dsimp only

theorem State.notifyWrite_keeps {b0 : State} {s : State} {k : Nat} {q : Queue} {va : Nat} {bs : List Byte} {next : State → Begun} (h0 : Keeps b0 s) (h5 : ∀ z0, Keeps b0 z0 → KeepsBegun b0 (next z0)) : KeepsBegun b0 (State.notifyWrite s k q va bs next) := by
  unfold State.notifyWrite
  try dsimp only
  repeat' first | with_reducible assumption | intro _ | with_reducible apply h5 | with_reducible apply State.backInvalidate_keeps | with_reducible apply State.cpWrite_keeps | with_reducible apply State.cpHold_keeps | with_reducible apply KeepsBegun.blocked | with_reducible apply KeepsBegun.refused | with_reducible refine KeepsBegun.ofDone (by assumption) ?_ | with_reducible refine KeepsBegun.ofRunning (by assumption) ?_ | with_reducible refine KeepsBegun.ofBlocked (by assumption) ?_ | with_reducible refine KeepsBegun.ofRefused (by assumption) ?_ | with_reducible refine KeepsCp.of (by assumption) ?_ | simp only [Keeps.mk_iff] | split | (with_reducible refine Keeps.record ?_ (by simp) (by simp)) | dsimp only

theorem State.notifyRead_keeps {b0 : State} {s : State} {k : Nat} {q : Queue} {va n : Nat} {next : List Byte → Begun} (h0 : Keeps b0 s) (h5 : ∀ z0, KeepsBegun b0 (next z0)) : KeepsBegun b0 (State.notifyRead s k q va n next) := by
  unfold State.notifyRead
  try dsimp only
  repeat' first | with_reducible assumption | intro _ | with_reducible apply h5 | with_reducible apply State.backInvalidate_keeps | with_reducible apply State.cpHold_keeps | with_reducible apply KeepsBegun.blocked | with_reducible apply KeepsBegun.refused | exact KeepsBegun.error | with_reducible refine KeepsBegun.ofDone (by assumption) ?_ | with_reducible refine KeepsBegun.ofRunning (by assumption) ?_ | with_reducible refine KeepsBegun.ofBlocked (by assumption) ?_ | with_reducible refine KeepsBegun.ofRefused (by assumption) ?_ | simp only [Keeps.mk_iff] | split | (with_reducible refine Keeps.record ?_ (by simp) (by simp)) | dsimp only

theorem State.notifyNow_keeps {b0 : State} {s : State} {k : Nat} {q : Queue} {bs : List Byte} (h0 : Keeps b0 s) : KeepsBegun b0 (State.notifyNow s k q bs) := by
  unfold State.notifyNow
  try dsimp only
  repeat' first | with_reducible assumption | intro _ | with_reducible apply Issue.done_keeps | with_reducible apply State.ringAdd_keeps | with_reducible apply State.notifyWrite_keeps | with_reducible apply State.notifyRead_keeps | with_reducible apply KeepsBegun.done | with_reducible apply KeepsBegun.running | exact KeepsBegun.error | with_reducible refine KeepsBegun.ofDone (by assumption) ?_ | with_reducible refine KeepsBegun.ofRunning (by assumption) ?_ | with_reducible refine KeepsBegun.ofBlocked (by assumption) ?_ | with_reducible refine KeepsBegun.ofRefused (by assumption) ?_ | simp only [Keeps.mk_iff] | split | (with_reducible refine Keeps.record ?_ (by simp) (by simp)) | dsimp only

theorem State.packet_keeps {b0 : State} {s : State} {k kind : Nat} {start : Queue → Nat → List Byte → Begun} (h0 : Keeps b0 s) (h3 : ∀ z0 z1 z2, KeepsBegun b0 (start z0 z1 z2)) : Keeps b0 (State.packet s k kind start) := by
  unfold State.packet
  try dsimp only
  repeat' first | with_reducible assumption | intro _ | with_reducible apply h3 | with_reducible apply State.modQueue_keeps | with_reducible apply Issue.done_keeps | with_reducible apply State.stopQueue_keeps | with_reducible apply State.onQueue_keeps | with_reducible apply State.startPacket_keeps | with_reducible apply State.completePacket_keeps | with_reducible apply KeepsBegun.done | with_reducible apply KeepsBegun.running | with_reducible apply KeepsBegun.blocked | with_reducible apply KeepsBegun.refused | exact KeepsBegun.error | with_reducible refine KeepsBegun.ofDone (by assumption) ?_ | with_reducible refine KeepsBegun.ofRunning (by assumption) ?_ | with_reducible refine KeepsBegun.ofBlocked (by assumption) ?_ | with_reducible refine KeepsBegun.ofRefused (by assumption) ?_ | simp only [Keeps.mk_iff] | split | (with_reducible refine Keeps.record ?_ (by simp) (by simp)) | dsimp only

theorem State.graphReset_keeps {b0 : State} {s : State} {k i : Nat} {g : Graph} (h0 : Keeps b0 s) : Keeps b0 (State.graphReset s k i g) := by
  unfold State.graphReset
  try dsimp only
  repeat' first | with_reducible assumption | intro _ | with_reducible apply State.completePacket_keeps | with_reducible apply State.graphInterrupts_keeps | simp only [Keeps.mk_iff] | split | (with_reducible refine Keeps.record ?_ (by simp) (by simp)) | dsimp only

theorem State.conditional_keeps {b0 : State} {s : State} {k i : Nat} {q : Queue} {g : Graph} {bs : List Byte} (h0 : Keeps b0 s) : Keeps b0 (State.conditional s k i q g bs) := by
  unfold State.conditional
  try dsimp only
  repeat' first | with_reducible assumption | intro _ | with_reducible apply Issue.done_keeps | with_reducible apply State.backInvalidate_keeps | with_reducible apply State.cpHold_keeps | with_reducible apply State.failPacket_keeps | with_reducible apply State.modGraph_keeps | with_reducible apply State.graphWrite_keeps | with_reducible apply State.graphLeave_keeps | with_reducible apply State.cpLearns_keeps | with_reducible apply State.graphReset_keeps | with_reducible apply keeps_getD | with_reducible apply KeepsBegun.done | with_reducible apply KeepsBegun.blocked | with_reducible apply KeepsBegun.refused | with_reducible refine KeepsBegun.ofDone (by assumption) ?_ | with_reducible refine KeepsBegun.ofRunning (by assumption) ?_ | with_reducible refine KeepsBegun.ofBlocked (by assumption) ?_ | with_reducible refine KeepsBegun.ofRefused (by assumption) ?_ | simp only [Keeps.mk_iff] | split | (with_reducible refine Keeps.record ?_ (by simp) (by simp)) | dsimp only

theorem State.nodeNow_keeps {b0 : State} {s : State} {k i : Nat} {q : Queue} {bs packet : List Byte} {view : Seen} (h0 : Keeps b0 s) : KeepsBegun b0 (State.nodeNow s k i q bs packet view) := by
  unfold State.nodeNow
  try dsimp only
  repeat' first | with_reducible assumption | intro _ | with_reducible apply State.launchNow_keeps | with_reducible apply State.engineNow_keeps | with_reducible apply State.waitNow_keeps | with_reducible apply State.signalNow_keeps | with_reducible apply State.notifyNow_keeps | with_reducible refine KeepsBegun.ofDone (by assumption) ?_ | with_reducible refine KeepsBegun.ofRunning (by assumption) ?_ | with_reducible refine KeepsBegun.ofBlocked (by assumption) ?_ | with_reducible refine KeepsBegun.ofRefused (by assumption) ?_ | simp only [Keeps.mk_iff] | split | (with_reducible refine Keeps.record ?_ (by simp) (by simp)) | dsimp only

theorem State.onOpen_keeps {b0 : State} {s : State} {k i : Nat} {f : Queue → OpenPacket → State} (h0 : Keeps b0 s) (h3 : ∀ z0 z1, Keeps b0 (f z0 z1)) : Keeps b0 (State.onOpen s k i f) := by
  unfold State.onOpen
  try dsimp only
  repeat' first | with_reducible assumption | intro _ | with_reducible apply h3 | simp only [Keeps.mk_iff] | split | (with_reducible refine Keeps.record ?_ (by simp) (by simp)) | dsimp only

theorem State.startNode_keeps {b0 : State} {s : State} {k i : Nat} {q : Queue} {p : OpenPacket} {g : Graph} (h0 : Keeps b0 s) : Keeps b0 (State.startNode s k i q p g) := by
  unfold State.startNode
  try dsimp only
  repeat' first | with_reducible assumption | intro _ | with_reducible apply Issue.done_keeps | with_reducible apply State.backInvalidate_keeps | with_reducible apply State.cpHold_keeps | with_reducible apply State.failPacket_keeps | with_reducible apply State.modGraph_keeps | with_reducible apply State.graphLeave_keeps | with_reducible apply State.cpLearns_keeps | with_reducible apply State.readDependence_keeps | with_reducible apply State.conditional_keeps | with_reducible apply State.nodeNow_keeps | with_reducible apply KeepsBegun.done | with_reducible apply KeepsBegun.running | with_reducible apply KeepsBegun.blocked | with_reducible apply KeepsBegun.refused | exact KeepsBegun.error | with_reducible refine KeepsBegun.ofDone (by assumption) ?_ | with_reducible refine KeepsBegun.ofRunning (by assumption) ?_ | with_reducible refine KeepsBegun.ofBlocked (by assumption) ?_ | with_reducible refine KeepsBegun.ofRefused (by assumption) ?_ | simp only [Keeps.mk_iff] | split | (with_reducible refine Keeps.record ?_ (by simp) (by simp)) | dsimp only

theorem State.tryAgain_keeps {b0 : State} {s : State} {k i kind : Nat} {again : Queue → List Byte → Begun} (h0 : Keeps b0 s) (h4 : ∀ z0 z1, KeepsBegun b0 (again z0 z1)) : Keeps b0 (State.tryAgain s k i kind again) := by
  unfold State.tryAgain
  try dsimp only
  repeat' first | with_reducible assumption | intro _ | with_reducible apply h4 | with_reducible apply Issue.done_keeps | with_reducible apply State.failPacket_keeps | with_reducible apply State.ownerDone_keeps | with_reducible apply State.modGraph_keeps | with_reducible apply State.graphLeave_keeps | with_reducible apply State.onOpen_keeps | with_reducible apply KeepsBegun.done | with_reducible apply KeepsBegun.running | with_reducible apply KeepsBegun.blocked | with_reducible apply KeepsBegun.refused | exact KeepsBegun.error | with_reducible refine KeepsBegun.ofDone (by assumption) ?_ | with_reducible refine KeepsBegun.ofRunning (by assumption) ?_ | with_reducible refine KeepsBegun.ofBlocked (by assumption) ?_ | with_reducible refine KeepsBegun.ofRefused (by assumption) ?_ | simp only [Keeps.mk_iff] | split | (with_reducible refine Keeps.record ?_ (by simp) (by simp)) | dsimp only

/-! ### Of Machine/Complex.lean -/

theorem State.booted_keeps {b0 : State} {s : State} {cp : Nat} {image : List Byte} (h0 : Keeps b0 s) : Keeps b0 (State.booted s cp image) := by
  unfold State.booted
  try dsimp only
  repeat' first | with_reducible assumption | intro _ | with_reducible apply State.modStack_keeps | simp only [Keeps.mk_iff] | split | (with_reducible refine Keeps.record ?_ (by simp) (by simp)) | dsimp only

theorem State.loaded_keeps {b0 : State} {s : State} {cp : Nat} (h0 : Keeps b0 s) : Keeps b0 (State.loaded s cp) := by
  unfold State.loaded
  try dsimp only
  repeat' first | with_reducible assumption | intro _ | with_reducible apply State.modStack_keeps | with_reducible apply State.backInvalidate_keeps | with_reducible apply State.booted_keeps | simp only [Keeps.mk_iff] | split | (with_reducible refine Keeps.record ?_ (by simp) (by simp)) | dsimp only

theorem State.takeRings_keeps {b0 : State} {s : State} {st : Nat} (h0 : Keeps b0 s) : Keeps b0 (State.takeRings s st) := by
  unfold State.takeRings
  try dsimp only
  repeat' first | with_reducible assumption | intro _ | with_reducible apply keeps_getD | simp only [Keeps.mk_iff] | split | (with_reducible refine Keeps.record ?_ (by simp) (by simp)) | dsimp only

/-! ### Of Machine/Save.lean -/

theorem State.saveGang_keeps {b0 : State} {s : State} {ctx g : Nat} {x : Gang} {d : Desc} {c : Context} (h0 : Keeps b0 s) : KeepsOpt (fun x => x) b0 (State.saveGang s ctx g x d c) := by
  unfold State.saveGang
  try dsimp only
  repeat' first | with_reducible assumption | intro _ | with_reducible apply State.modStack_keeps | with_reducible apply State.modGang_keeps | with_reducible apply State.putDevice_keeps | with_reducible apply State.slotsReport_keeps | with_reducible apply State.writeCounts_keeps | with_reducible apply keeps_foldl | exact keepsOpt_none | with_reducible apply keepsOpt_foldl | (with_reducible apply keepsOpt_some; try dsimp only) | simp only [Keeps.mk_iff] | split | (with_reducible refine Keeps.record ?_ (by simp) (by simp)) | dsimp only

theorem State.restoreWork_keeps {b0 : State} {s : State} {g b : Nat} (h0 : Keeps b0 s) : Keeps b0 (State.restoreWork s g b) := by
  unfold State.restoreWork
  try dsimp only
  repeat' first | with_reducible assumption | intro _ | simp only [Keeps.mk_iff] | split | (with_reducible refine Keeps.record ?_ (by simp) (by simp)) | dsimp only

/-! ### Of Machine/Contexts.lean -/

theorem State.stopRecord_keeps {b0 : State} {s : State} {h : Halt} {flags : Nat} (h0 : Keeps b0 s) : Keeps b0 (State.stopRecord s h flags) := by
  unfold State.stopRecord
  try dsimp only
  repeat' first | with_reducible assumption | intro _ | with_reducible apply State.putDevice_keeps | with_reducible apply State.nextSeq_keeps | simp only [Keeps.mk_iff] | split | (with_reducible refine Keeps.record ?_ (by simp) (by simp)) | dsimp only

theorem State.someStores_keeps {b0 : State} {s : State} {a : Agent} {ctx st spad : Nat} {key : List Nat} {els : List (Nat × List Byte × Bool)} (h0 : Keeps b0 s) : Keeps b0 (State.someStores s a ctx st spad key els) := by
  unfold State.someStores
  try dsimp only
  repeat' first | with_reducible assumption | intro _ | with_reducible apply State.storeElements_keeps | simp only [Keeps.mk_iff] | split | (with_reducible refine Keeps.record ?_ (by simp) (by simp)) | dsimp only

theorem State.someRise_keeps {b0 : State} {s : State} {a : Agent} {ctx st spad counter amount : Nat} {key : List Nat} (h0 : Keeps b0 s) : Keeps b0 (State.someRise s a ctx st spad counter amount key) := by
  unfold State.someRise
  try dsimp only
  repeat' first | with_reducible assumption | intro _ | with_reducible apply State.riseAt_keeps | with_reducible apply Issue.atomic_keeps | simp only [Keeps.mk_iff] | split | (with_reducible refine Keeps.record ?_ (by simp) (by simp)) | dsimp only

theorem State.partWritten_keeps {b0 : State} {s : State} {k : Nat} {x : Command} (h0 : Keeps b0 s) : Keeps b0 (State.partWritten s k x) := by
  unfold State.partWritten
  try dsimp only
  repeat' first | with_reducible assumption | intro _ | with_reducible apply State.someStores_keeps | with_reducible apply State.someRise_keeps | with_reducible apply keeps_foldl | simp only [Keeps.mk_iff] | split | (with_reducible refine Keeps.record ?_ (by simp) (by simp)) | dsimp only

theorem State.partStored_keeps {b0 : State} {s : State} {m : Nat} {x : MxOp} (h0 : Keeps b0 s) : Keeps b0 (State.partStored s m x) := by
  unfold State.partStored
  try dsimp only
  repeat' first | with_reducible assumption | intro _ | with_reducible apply Issue.block_keeps | with_reducible apply State.someStores_keeps | with_reducible apply State.someRise_keeps | simp only [Keeps.mk_iff] | split | (with_reducible refine Keeps.record ?_ (by simp) (by simp)) | dsimp only

theorem State.endMatoms_keeps {b0 : State} {s : State} {gs : List Nat} (h0 : Keeps b0 s) : Keeps b0 (State.endMatoms s gs) := by
  unfold State.endMatoms
  try dsimp only
  repeat' first | with_reducible assumption | intro _ | with_reducible apply State.performMatom_keeps | with_reducible apply keeps_foldl | with_reducible apply keeps_getD | exact keepsOpt_none | with_reducible apply keepsOpt_map | with_reducible apply keepsOpt_foldl | (with_reducible apply keepsOpt_some; try dsimp only) | with_reducible refine KeepsOpt.id (by assumption) ?_ | simp only [Keeps.mk_iff] | split | (with_reducible refine Keeps.record ?_ (by simp) (by simp)) | dsimp only

theorem State.endWork_keeps {b0 : State} {s : State} {gs : List Nat} (h0 : Keeps b0 s) : Keeps b0 (State.endWork s gs) := by
  unfold State.endWork
  try dsimp only
  repeat' first | with_reducible assumption | intro _ | with_reducible apply State.partWritten_keeps | with_reducible apply State.partStored_keeps | with_reducible apply keeps_foldl | simp only [Keeps.mk_iff] | split | (with_reducible refine Keeps.record ?_ (by simp) (by simp)) | dsimp only

theorem State.abandonGangs_keeps {b0 : State} {s : State} {gs : List Nat} (h0 : Keeps b0 s) : Keeps b0 (State.abandonGangs s gs) := by
  unfold State.abandonGangs
  try dsimp only
  repeat' first | with_reducible assumption | intro _ | with_reducible apply State.modGang_keeps | with_reducible apply Issue.done_keeps | with_reducible apply State.freeGang_keeps | with_reducible apply State.rollbackGang_keeps | with_reducible apply State.endMatoms_keeps | with_reducible apply State.endWork_keeps | with_reducible apply keeps_foldl | simp only [Keeps.mk_iff] | split | (with_reducible refine Keeps.record ?_ (by simp) (by simp)) | dsimp only

theorem State.resetQueue_keeps {b0 : State} {s : State} {k : Nat} {by_ : Option (Nat × Nat)} (h0 : Keeps b0 s) : Keeps b0 (State.resetQueue s k by_) := by
  unfold State.resetQueue
  try dsimp only
  repeat' first | with_reducible assumption | intro _ | with_reducible apply State.modQueue_keeps | with_reducible apply State.release_keeps | with_reducible apply State.settleReset_keeps | with_reducible apply keeps_foldl | simp only [Keeps.mk_iff] | split | (with_reducible refine Keeps.record ?_ (by simp) (by simp)) | dsimp only

theorem State.resetRecords_keeps {b0 : State} {s : State} {gs : List Nat} (h0 : Keeps b0 s) : Keeps b0 (State.resetRecords s gs) := by
  unfold State.resetRecords
  try dsimp only
  repeat' first | with_reducible assumption | intro _ | with_reducible apply State.stopRecord_keeps | with_reducible apply keeps_foldl | simp only [Keeps.mk_iff] | split | (with_reducible refine Keeps.record ?_ (by simp) (by simp)) | dsimp only

theorem State.resetEvent_keeps {b0 : State} {s : State} {ctx killed : Nat} (h0 : Keeps b0 s) : Keeps b0 (State.resetEvent s ctx killed) := by
  unfold State.resetEvent
  try dsimp only
  repeat' first | with_reducible assumption | intro _ | with_reducible apply State.send_keeps | simp only [Keeps.mk_iff] | split | (with_reducible refine Keeps.record ?_ (by simp) (by simp)) | dsimp only

theorem State.endLadder_keeps {b0 : State} {s : State} {ctx killed : Nat} {r : Rung} (h0 : Keeps b0 s) : Keeps b0 (State.endLadder s ctx killed r) := by
  unfold State.endLadder
  try dsimp only
  repeat' first | with_reducible assumption | intro _ | with_reducible apply State.drain_keeps | with_reducible apply State.completePacket_keeps | with_reducible apply State.resetEvent_keeps | simp only [Keeps.mk_iff] | split | (with_reducible refine Keeps.record ?_ (by simp) (by simp)) | dsimp only

theorem State.resetContext_keeps {b0 : State} {s : State} {ctx : Nat} {records : Bool} (h0 : Keeps b0 s) : Keeps b0 (State.resetContext s ctx records) := by
  unfold State.resetContext
  try dsimp only
  repeat' first | with_reducible assumption | intro _ | with_reducible apply State.modContext_keeps | with_reducible apply Issue.done_keeps | with_reducible apply State.writeCounts_keeps | with_reducible apply State.settleResume_keeps | with_reducible apply State.writeRecord_keeps | with_reducible apply State.abandonGangs_keeps | with_reducible apply State.resetQueue_keeps | with_reducible apply State.resetRecords_keeps | with_reducible apply State.endLadder_keeps | with_reducible apply keeps_foldl | with_reducible apply keeps_getD | simp only [Keeps.mk_iff] | split | (with_reducible refine Keeps.record ?_ (by simp) (by simp)) | dsimp only

theorem State.endInvalidations_keeps {b0 : State} {s : State} {ctx : Nat} (h0 : Keeps b0 s) : Keeps b0 (State.endInvalidations s ctx) := by
  unfold State.endInvalidations
  try dsimp only
  repeat' first | with_reducible assumption | intro _ | with_reducible apply State.completePacket_keeps | with_reducible apply State.adminEvent_keeps | with_reducible apply keeps_foldl | simp only [Keeps.mk_iff] | split | (with_reducible refine Keeps.record ?_ (by simp) (by simp)) | dsimp only

theorem State.removeContext_keeps {b0 : State} {s : State} {ctx : Nat} (h0 : Keeps b0 s) : Keeps b0 (State.removeContext s ctx) := by
  unfold State.removeContext
  try dsimp only
  repeat' first | with_reducible assumption | intro _ | with_reducible apply State.endInvalidations_keeps | simp only [Keeps.mk_iff] | split | (with_reducible refine Keeps.record ?_ (by simp) (by simp)) | dsimp only

theorem State.finishDestroy_keeps {b0 : State} {s : State} {k : Nat} (h0 : Keeps b0 s) : Keeps b0 (State.finishDestroy s k) := by
  unfold State.finishDestroy
  try dsimp only
  repeat' first | with_reducible assumption | intro _ | with_reducible apply State.completePacket_keeps | with_reducible apply State.removeContext_keeps | with_reducible apply keeps_foldl | simp only [Keeps.mk_iff] | split | (with_reducible refine Keeps.record ?_ (by simp) (by simp)) | dsimp only

/-! ### Of Machine/Preempt.lean -/

theorem State.startEvict_keeps {b0 : State} {s : State} {ctx queue index asked : Nat} (h0 : Keeps b0 s) : Keeps b0 (State.startEvict s ctx queue index asked) := by
  unfold State.startEvict
  try dsimp only
  repeat' first | with_reducible assumption | intro _ | with_reducible apply State.modContext_keeps | with_reducible apply State.rollbackGang_keeps | with_reducible apply keeps_foldl | simp only [Keeps.mk_iff] | split | (with_reducible refine Keeps.record ?_ (by simp) (by simp)) | dsimp only

theorem State.rewindOps_keeps {b0 : State} {s : State} {g : Nat} (h0 : Keeps b0 s) : Keeps b0 (State.rewindOps s g) := by
  unfold State.rewindOps
  try dsimp only
  repeat' first | with_reducible assumption | intro _ | with_reducible apply State.modUnit_keeps | with_reducible apply State.modOp_keeps | with_reducible apply keeps_foldl | simp only [Keeps.mk_iff] | split | (with_reducible refine Keeps.record ?_ (by simp) (by simp)) | dsimp only

theorem State.ladderReset_keeps {b0 : State} {s : State} {ctx : Nat} (h0 : Keeps b0 s) : Keeps b0 (State.ladderReset s ctx) := by
  unfold State.ladderReset
  try dsimp only
  repeat' first | with_reducible assumption | intro _ | with_reducible apply State.backInvalidate_keeps | with_reducible apply State.resetContext_keeps | simp only [Keeps.mk_iff] | split | (with_reducible refine Keeps.record ?_ (by simp) (by simp)) | dsimp only

theorem State.evictGangs_keeps {b0 : State} {ctx : Nat} (l : List Nat) : ∀ {s : State}, Keeps b0 s → Keeps b0 (s.evictGangs ctx l) := by
  induction l with
  | nil => intro s h; exact State.settleLadder_keeps h
  | cons g gs ih =>
    intro s h
    unfold State.evictGangs
    dsimp only
    repeat' first
      | with_reducible exact ih h
      | with_reducible exact State.backInvalidate_keeps h
      | with_reducible exact ih (KeepsOpt.id (by assumption) (State.saveGang_keeps (State.rewindOps_keeps h)))
      | with_reducible exact State.ladderReset_keeps (State.event_keeps (State.rewindOps_keeps h))
      | split

theorem State.joinGang_keeps {b0 : State} {s : State} {g : Nat} {sc : Scope} (h0 : Keeps b0 s) : Keeps b0 (State.joinGang s g sc) := by
  unfold State.joinGang
  try dsimp only
  repeat' first | with_reducible assumption | intro _ | with_reducible apply State.modGang_keeps | with_reducible apply keeps_foldl | simp only [Keeps.mk_iff] | split | (with_reducible refine Keeps.record ?_ (by simp) (by simp)) | dsimp only

theorem State.rejudgeBars_keeps {b0 : State} {s : State} {g : Nat} (h0 : Keeps b0 s) : Keeps b0 (State.rejudgeBars s g) := by
  unfold State.rejudgeBars
  try dsimp only
  repeat' first | with_reducible assumption | intro _ | with_reducible apply State.modGang_keeps | with_reducible apply State.settle_keeps | with_reducible apply keeps_foldl | simp only [Keeps.mk_iff] | split | (with_reducible refine Keeps.record ?_ (by simp) (by simp)) | dsimp only

theorem State.restoreGang_keeps {b0 : State} {s : State} {g st k : Nat} {x : Gang} {l : Launch} {grant : Option Grant} {area : Nat} (h0 : Keeps b0 s) : Keeps b0 (State.restoreGang s g st k x l grant area) := by
  unfold State.restoreGang
  try dsimp only
  repeat' first | with_reducible assumption | intro _ | with_reducible apply State.modStack_keeps | with_reducible apply State.modGang_keeps | with_reducible apply State.modLaunch_keeps | with_reducible apply State.slotsReport_keeps | with_reducible apply State.restoreWork_keeps | with_reducible apply State.joinGang_keeps | with_reducible apply State.rejudgeBars_keeps | with_reducible apply keeps_getD | simp only [Keeps.mk_iff] | split | (with_reducible refine Keeps.record ?_ (by simp) (by simp)) | dsimp only

/-! ### Of Machine/Pages.lean -/

theorem State.rollbackWaves_keeps {b0 : State} {s : State} {which : Nat → Gang → Spec → Bool} (h0 : Keeps b0 s) : Keeps b0 (State.rollbackWaves s which) := by
  unfold State.rollbackWaves
  try dsimp only
  repeat' first | with_reducible assumption | intro _ | with_reducible apply State.rollbackWave_keeps | with_reducible apply keeps_foldl | with_reducible apply keeps_getD | simp only [Keeps.mk_iff] | split | (with_reducible refine Keeps.record ?_ (by simp) (by simp)) | dsimp only

theorem State.releaseHeld_keeps {b0 : State} {s : State} {ctx st lo hi : Nat} (h0 : Keeps b0 s) : Keeps b0 (State.releaseHeld s ctx st lo hi) := by
  unfold State.releaseHeld
  try dsimp only
  repeat' first | with_reducible assumption | intro _ | with_reducible apply State.replayWave_keeps | with_reducible apply keeps_foldl | simp only [Keeps.mk_iff] | split | (with_reducible refine Keeps.record ?_ (by simp) (by simp)) | dsimp only

theorem State.answered_keeps {b0 : State} {s : State} {ctx page : Nat} (h0 : Keeps b0 s) : Keeps b0 (State.answered s ctx page) := by
  unfold State.answered
  try dsimp only
  repeat' first | with_reducible assumption | intro _ | with_reducible apply State.modContext_keeps | simp only [Keeps.mk_iff] | split | (with_reducible refine Keeps.record ?_ (by simp) (by simp)) | dsimp only

theorem State.refuseWave_keeps {b0 : State} {s : State} {g w page : Nat} (h0 : Keeps b0 s) : Keeps b0 (State.refuseWave s g w page) := by
  unfold State.refuseWave
  try dsimp only
  repeat' first | with_reducible assumption | intro _ | with_reducible apply State.setWave_keeps | with_reducible apply State.raiseHalt_keeps | with_reducible apply Issue.fault_keeps | with_reducible apply Issue.access_keeps | with_reducible apply State.replayWave_keeps | with_reducible apply keeps_getD | exact keepsOpt_none | with_reducible apply keepsOpt_map | (with_reducible apply keepsOpt_some; try dsimp only) | simp only [Keeps.mk_iff] | split | (with_reducible refine Keeps.record ?_ (by simp) (by simp)) | dsimp only

theorem State.refuseEntries_keeps {b0 : State} {s : State} {ctx page : Nat} (h0 : Keeps b0 s) : Keeps b0 (State.refuseEntries s ctx page) := by
  unfold State.refuseEntries
  try dsimp only
  repeat' first | with_reducible assumption | intro _ | with_reducible apply State.raiseHalt_keeps | with_reducible apply State.mwaitLoop_keeps | with_reducible apply keeps_foldl | simp only [Keeps.mk_iff] | split | (with_reducible refine Keeps.record ?_ (by simp) (by simp)) | dsimp only

theorem State.refuseUnits_keeps {b0 : State} {s : State} {ctx page : Nat} (h0 : Keeps b0 s) : Keeps b0 (State.refuseUnits s ctx page) := by
  unfold State.refuseUnits
  try dsimp only
  repeat' first | with_reducible assumption | intro _ | with_reducible apply State.raiseHalt_keeps | with_reducible apply State.commandFault_keeps | with_reducible apply State.opFault_keeps | with_reducible apply State.modPool_keeps | with_reducible apply keeps_foldl | simp only [Keeps.mk_iff] | split | (with_reducible refine Keeps.record ?_ (by simp) (by simp)) | dsimp only

theorem State.refuseQueues_keeps {b0 : State} {s : State} {ctx page : Nat} (h0 : Keeps b0 s) : Keeps b0 (State.refuseQueues s ctx page) := by
  unfold State.refuseQueues
  try dsimp only
  repeat' first | with_reducible assumption | intro _ | simp only [Keeps.mk_iff] | split | (with_reducible refine Keeps.record ?_ (by simp) (by simp)) | dsimp only

theorem State.writePlacement_keeps {b0 : State} {s : State} {ctx va : Nat} {f : BitVec 16 → BitVec 16} (h0 : Keeps b0 s) : Keeps b0 (State.writePlacement s ctx va f) := by
  unfold State.writePlacement
  try dsimp only
  repeat' first | with_reducible assumption | intro _ | with_reducible apply State.putDevice_keeps | simp only [Keeps.mk_iff] | split | (with_reducible refine Keeps.record ?_ (by simp) (by simp)) | dsimp only

theorem State.performPage_keeps {b0 : State} {s : State} {pa : Nat} {y0 : Nat} (h0 : Keeps b0 s) : Keeps b0 (State.performPage s pa y0) := by
  revert h0
  fun_induction State.performPage s pa y0 <;> intros
  all_goals (try dsimp only)
  all_goals (repeat' first | with_reducible assumption | intro _ | with_reducible apply State.performMatom_keeps | with_reducible apply_assumption | with_reducible apply keeps_getD | exact keepsOpt_none | (with_reducible apply keepsOpt_some; try dsimp only) | with_reducible refine KeepsOpt.id (by assumption) ?_ | simp only [Keeps.mk_iff] | split | (with_reducible refine Keeps.record ?_ (by simp) (by simp)) | dsimp only)

theorem State.copyPage_keeps {b0 s : State} {src dst : Nat} (h : Keeps b0 s) : Keeps b0 (s.copyPage src dst) := by
  unfold State.copyPage
  generalize 65536 = n
  generalize 4096 = m
  exact h.of_lengths (writeBytes_wf _ _ _) (fun hp => foldl_set_wf _ _ hp) (by simp) rfl rfl

theorem State.migrate_keeps {b0 : State} {s : State} {ctx part va src dst st place : Nat} {leaf : W64} (h0 : Keeps b0 s) : Keeps b0 (State.migrate s ctx part va src dst st place leaf) := by
  unfold State.migrate
  try dsimp only
  repeat' first | with_reducible assumption | intro _ | with_reducible apply State.putDevice_keeps | with_reducible apply State.rollbackWaves_keeps | with_reducible apply State.releaseHeld_keeps | with_reducible apply State.writePlacement_keeps | with_reducible apply State.performPage_keeps | with_reducible apply State.copyPage_keeps | with_reducible apply keeps_foldl | simp only [Keeps.mk_iff] | split | (with_reducible refine Keeps.record ?_ (by simp) (by simp)) | dsimp only

/-! ### Of Machine/Halt.lean -/

theorem State.writeFaults_keeps {b0 : State} {s : State} {p st : Nat} (h0 : Keeps b0 s) : Keeps b0 (State.writeFaults s p st) := by
  unfold State.writeFaults
  try dsimp only
  repeat' first | with_reducible assumption | intro _ | with_reducible apply State.modPartition_keeps | with_reducible apply State.stopRecord_keeps | with_reducible apply keeps_foldl | simp only [Keeps.mk_iff] | split | (with_reducible refine Keeps.record ?_ (by simp) (by simp)) | dsimp only

theorem State.writeBystanders_keeps {b0 : State} {s : State} {p st : Nat} (h0 : Keeps b0 s) : Keeps b0 (State.writeBystanders s p st) := by
  unfold State.writeBystanders
  try dsimp only
  repeat' first | with_reducible assumption | intro _ | with_reducible apply State.stopRecord_keeps | with_reducible apply keeps_foldl | simp only [Keeps.mk_iff] | split | (with_reducible refine Keeps.record ?_ (by simp) (by simp)) | dsimp only

theorem State.decideFlight_keeps {b0 : State} {s : State} {ending : List Nat} {st : Nat} (h0 : Keeps b0 s) : Keeps b0 (State.decideFlight s ending st) := by
  unfold State.decideFlight
  try dsimp only
  repeat' first | with_reducible assumption | intro _ | with_reducible apply State.endMatoms_keeps | with_reducible apply State.endWork_keeps | with_reducible apply keeps_getD | simp only [Keeps.mk_iff] | split | (with_reducible refine Keeps.record ?_ (by simp) (by simp)) | dsimp only

theorem State.poolProgress_keeps {b0 : State} {s : State} {k : Nat} {p : Pool} {x : Launch} (h0 : Keeps b0 s) : Keeps b0 (State.poolProgress s k p x) := by
  unfold State.poolProgress
  try dsimp only
  repeat' first | with_reducible assumption | intro _ | with_reducible apply State.poolStore_keeps | with_reducible apply keeps_foldl | with_reducible apply KeepsPool.go | with_reducible apply KeepsPool.wait | with_reducible refine KeepsPool.ofGo (by assumption) ?_ | with_reducible refine KeepsPool.ofWait (by assumption) ?_ | simp only [Keeps.mk_iff] | split | (with_reducible refine Keeps.record ?_ (by simp) (by simp)) | dsimp only

theorem State.faultEvent_keeps {b0 : State} {s : State} {p : Nat} (h0 : Keeps b0 s) : Keeps b0 (State.faultEvent s p) := by
  unfold State.faultEvent
  try dsimp only
  repeat' first | with_reducible assumption | intro _ | with_reducible apply State.event_keeps | simp only [Keeps.mk_iff] | split | (with_reducible refine Keeps.record ?_ (by simp) (by simp)) | dsimp only

theorem State.lowerLine_keeps {b0 : State} {s : State} {p : Nat} (h0 : Keeps b0 s) : Keeps b0 (State.lowerLine s p) := by
  unfold State.lowerLine
  try dsimp only
  repeat' first | with_reducible assumption | intro _ | with_reducible apply State.modPartition_keeps | simp only [Keeps.mk_iff] | split | (with_reducible refine Keeps.record ?_ (by simp) (by simp)) | dsimp only

/-! ### Of Machine/Registers.lean -/

theorem State.zeroStack_keeps {b0 s : State} {st : Nat} (h : Keeps b0 s) : Keeps b0 (s.zeroStack st) :=
  h.of_lengths (Sparse.wf_filter _ _ _) (Sparse.wf_filter _ _ _) rfl rfl rfl

theorem State.registerAdmin_keeps {b0 : State} {s : State} {part aq desc : Nat} (h0 : Keeps b0 s) : Keeps b0 (State.registerAdmin s part aq desc) := by
  unfold State.registerAdmin
  try dsimp only
  repeat' first | with_reducible assumption | intro _ | with_reducible apply State.modPartition_keeps | simp only [Keeps.mk_iff] | split | (with_reducible refine Keeps.record ?_ (by simp) (by simp)) | dsimp only

theorem State.startPartition_keeps {b0 : State} {s : State} {part : Nat} (h0 : Keeps b0 s) : Keeps b0 (State.startPartition s part) := by
  unfold State.startPartition
  try dsimp only
  repeat' first | with_reducible assumption | intro _ | with_reducible apply State.modPartition_keeps | simp only [Keeps.mk_iff] | split | (with_reducible refine Keeps.record ?_ (by simp) (by simp)) | dsimp only

theorem State.dropKey_keeps {b0 : State} {s : State} {part : Nat} (h0 : Keeps b0 s) : Keeps b0 (State.dropKey s part) := by
  unfold State.dropKey
  try dsimp only
  repeat' first | with_reducible assumption | intro _ | with_reducible apply State.modPartition_keeps | simp only [Keeps.mk_iff] | split | (with_reducible refine Keeps.record ?_ (by simp) (by simp)) | dsimp only

/-! ### Of Machine/Links.lean -/

theorem State.failBytes_keeps {b0 : State} {s : State} {port pa size : Nat} (h0 : Keeps b0 s) : Keeps b0 (State.failBytes s port pa size) := by
  unfold State.failBytes
  try dsimp only
  repeat' first | with_reducible assumption | intro _ | with_reducible apply State.put_keeps | with_reducible apply State.event_keeps | simp only [Keeps.mk_iff] | split | (with_reducible refine Keeps.record ?_ (by simp) (by simp)) | dsimp only

theorem State.failWave_keeps {b0 : State} {s : State} {g w : Nat} {load : PendingLoad → Bool} {store : PendingStore → Bool} (h0 : Keeps b0 s) : Keeps b0 (State.failWave s g w load store) := by
  unfold State.failWave
  try dsimp only
  repeat' first | with_reducible assumption | intro _ | with_reducible apply State.setWave_keeps | with_reducible apply State.failBytes_keeps | with_reducible apply keeps_foldl | with_reducible apply keeps_getD | simp only [Keeps.mk_iff] | split | (with_reducible refine Keeps.record ?_ (by simp) (by simp)) | dsimp only

theorem State.loseLine_keeps {b0 : State} {s : State} {port : Nat} {l : DevLine} (h0 : Keeps b0 s) : Keeps b0 (State.loseLine s port l) := by
  unfold State.loseLine
  try dsimp only
  repeat' first | with_reducible assumption | intro _ | with_reducible apply State.failBytes_keeps | simp only [Keeps.mk_iff] | split | (with_reducible refine Keeps.record ?_ (by simp) (by simp)) | dsimp only

theorem State.failLines_keeps {b0 : State} {s : State} {port : Nat} (h0 : Keeps b0 s) : Keeps b0 (State.failLines s port) := by
  unfold State.failLines
  try dsimp only
  repeat' first | with_reducible assumption | intro _ | with_reducible apply State.loseLine_keeps | with_reducible apply keeps_foldl | simp only [Keeps.mk_iff] | split | (with_reducible refine Keeps.record ?_ (by simp) (by simp)) | dsimp only

theorem State.failReads_keeps {b0 : State} {s : State} (h0 : Keeps b0 s) : Keeps b0 (State.failReads s) := by
  unfold State.failReads
  try dsimp only
  repeat' first | with_reducible assumption | intro _ | simp only [Keeps.mk_iff] | split | (with_reducible refine Keeps.record ?_ (by simp) (by simp)) | dsimp only

theorem State.loseCopy_keeps {b0 : State} {s : State} {st : Nat} {x : SnoopLine} (h0 : Keeps b0 s) : Keeps b0 (State.loseCopy s st x) := by
  unfold State.loseCopy
  try dsimp only
  repeat' first | with_reducible assumption | intro _ | with_reducible apply State.modStack_keeps | with_reducible apply State.put_keeps | with_reducible apply State.event_keeps | simp only [Keeps.mk_iff] | split | (with_reducible refine Keeps.record ?_ (by simp) (by simp)) | dsimp only

theorem State.loseCopies_keeps {b0 : State} {s : State} {st : Nat} (h0 : Keeps b0 s) : Keeps b0 (State.loseCopies s st) := by
  unfold State.loseCopies
  try dsimp only
  repeat' first | with_reducible assumption | intro _ | with_reducible apply State.loseCopy_keeps | with_reducible apply keeps_foldl | simp only [Keeps.mk_iff] | split | (with_reducible refine Keeps.record ?_ (by simp) (by simp)) | dsimp only

theorem State.failPort_keeps {b0 : State} {s : State} {st : Nat} (h0 : Keeps b0 s) : Keeps b0 (State.failPort s st) := by
  unfold State.failPort
  try dsimp only
  repeat' first | with_reducible assumption | intro _ | with_reducible apply State.modStack_keeps | with_reducible apply State.failWave_keeps | with_reducible apply State.failLines_keeps | with_reducible apply State.failReads_keeps | with_reducible apply State.loseCopies_keeps | with_reducible apply keeps_foldl | simp only [Keeps.mk_iff] | split | (with_reducible refine Keeps.record ?_ (by simp) (by simp)) | dsimp only

theorem State.returnRequests_keeps {b0 : State} {s : State} {st : Nat} (h0 : Keeps b0 s) : Keeps b0 (State.returnRequests s st) := by
  unfold State.returnRequests
  try dsimp only
  repeat' first | with_reducible assumption | intro _ | with_reducible apply State.modWave_keeps | with_reducible apply keeps_foldl | simp only [Keeps.mk_iff] | split | (with_reducible refine Keeps.record ?_ (by simp) (by simp)) | dsimp only

theorem State.resendRequests_keeps {b0 : State} {s : State} {st : Nat} (h0 : Keeps b0 s) : Keeps b0 (State.resendRequests s st) := by
  unfold State.resendRequests
  try dsimp only
  repeat' first | with_reducible assumption | intro _ | with_reducible apply State.modWave_keeps | with_reducible apply State.failWave_keeps | with_reducible apply keeps_foldl | simp only [Keeps.mk_iff] | split | (with_reducible refine Keeps.record ?_ (by simp) (by simp)) | dsimp only

theorem State.timeEvent_keeps {b0 : State} {s : State} {st old : Nat} (h0 : Keeps b0 s) : Keeps b0 (State.timeEvent s st old) := by
  unfold State.timeEvent
  try dsimp only
  repeat' first | with_reducible assumption | intro _ | with_reducible apply State.event_keeps | simp only [Keeps.mk_iff] | split | (with_reducible refine Keeps.record ?_ (by simp) (by simp)) | dsimp only

theorem State.hostWrite_keeps {b0 : State} {s : State} {pa : Nat} {bs : List Byte} {poison : Bool} {point : Nat} (h0 : Keeps b0 s) : Keeps b0 (State.hostWrite s pa bs poison point) := by
  unfold State.hostWrite
  try dsimp only
  repeat' first | with_reducible assumption | intro _ | with_reducible apply State.put_keeps | simp only [Keeps.mk_iff] | split | (with_reducible refine Keeps.record ?_ (by simp) (by simp)) | dsimp only

theorem State.hostRead_keeps {b0 : State} {s : State} {pa size : Nat} (h0 : Keeps b0 s) : Keeps b0 (State.hostRead s pa size) := by
  unfold State.hostRead
  try dsimp only
  repeat' first | with_reducible assumption | intro _ | with_reducible apply keeps_foldl | simp only [Keeps.mk_iff] | split | (with_reducible refine Keeps.record ?_ (by simp) (by simp)) | dsimp only

theorem State.snoopDown_keeps {b0 : State} {s : State} {st line : Nat} {inv : Bool} (h0 : Keeps b0 s) : Keeps b0 (State.snoopDown s st line inv) := by
  unfold State.snoopDown
  try dsimp only
  repeat' first | with_reducible assumption | intro _ | simp only [Keeps.mk_iff] | split | (with_reducible refine Keeps.record ?_ (by simp) (by simp)) | dsimp only

/-! ### Of Machine/Boot.lean -/

theorem State.dropPartition_keeps {b0 : State} {s : State} {p : Nat} (h0 : Keeps b0 s) : Keeps b0 (State.dropPartition s p) := by
  unfold State.dropPartition
  try dsimp only
  repeat' first | with_reducible assumption | intro _ | simp only [Keeps.mk_iff] | split | (with_reducible refine Keeps.record ?_ (by simp) (by simp)) | dsimp only

theorem State.dropStack_keeps {b0 : State} {s : State} {st : Nat} (h0 : Keeps b0 s) : Keeps b0 (State.dropStack s st) := by
  unfold State.dropStack
  try dsimp only
  repeat' first | with_reducible assumption | intro _ | with_reducible apply Issue.done_keeps | with_reducible apply Issue.block_keeps | simp only [Keeps.mk_iff] | split | (with_reducible refine Keeps.record ?_ (by simp) (by simp)) | dsimp only

theorem State.verified_keeps {b0 : State} {s : State} {st : Nat} (h0 : Keeps b0 s) : Keeps b0 (State.verified s st) := by
  unfold State.verified
  try dsimp only
  repeat' first | with_reducible assumption | intro _ | with_reducible apply State.modStack_keeps | with_reducible apply State.backInvalidate_keeps | simp only [Keeps.mk_iff] | split | (with_reducible refine Keeps.record ?_ (by simp) (by simp)) | dsimp only

theorem State.sampleQuote_keeps {b0 : State} {s : State} {st : Nat} (h0 : Keeps b0 s) : Keeps b0 (State.sampleQuote s st) := by
  unfold State.sampleQuote
  try dsimp only
  repeat' first | with_reducible assumption | intro _ | with_reducible apply State.modStack_keeps | simp only [Keeps.mk_iff] | split | (with_reducible refine Keeps.record ?_ (by simp) (by simp)) | dsimp only

/-! ### Of Machine/Repair.lean -/

theorem State.writeBack_keeps {b0 s : State} {st b : Nat} {x : Block} (h : Keeps b0 s) : Keeps b0 (s.writeBack st b x) :=
  h.of_lengths (writeBytes_wf _ _ _) (fun hp => foldl_set_wf _ _ hp) rfl rfl rfl

theorem State.poisonBlock_keeps {b0 : State} {s : State} {st b cause : Nat} (h0 : Keeps b0 s) : Keeps b0 (State.poisonBlock s st b cause) := by
  unfold State.poisonBlock
  try dsimp only
  repeat' first | with_reducible assumption | intro _ | with_reducible apply State.modStack_keeps | with_reducible apply State.put_keeps | with_reducible apply State.event_keeps | simp only [Keeps.mk_iff] | split | (with_reducible refine Keeps.record ?_ (by simp) (by simp)) | dsimp only

theorem State.undecoded_keeps {b0 : State} {s : State} {errors : List (Nat × Nat)} {st c loc cause : Nat} {use : PlaceUse} (h0 : Keeps b0 s) : Keeps b0 (State.undecoded s errors st c loc cause use) := by
  unfold State.undecoded
  try dsimp only
  repeat' first | with_reducible assumption | intro _ | with_reducible apply State.modStack_keeps | with_reducible apply State.event_keeps | with_reducible apply State.writeBack_keeps | with_reducible apply State.poisonBlock_keeps | simp only [Keeps.mk_iff] | split | (with_reducible refine Keeps.record ?_ (by simp) (by simp)) | dsimp only

theorem State.repair_keeps {b0 : State} {s : State} {q op mode indices : Nat} {start : Nat → Nat → Nat → Begun} (h0 : Keeps b0 s) (h5 : ∀ z0 z1 z2, KeepsBegun b0 (start z0 z1 z2)) : Keeps b0 (State.repair s q op mode indices start) := by
  unfold State.repair
  try dsimp only
  repeat' first | with_reducible assumption | intro _ | with_reducible apply h5 | with_reducible apply State.packet_keeps | with_reducible apply KeepsBegun.blocked | exact KeepsBegun.error | with_reducible refine KeepsBegun.ofDone (by assumption) ?_ | with_reducible refine KeepsBegun.ofRunning (by assumption) ?_ | with_reducible refine KeepsBegun.ofBlocked (by assumption) ?_ | with_reducible refine KeepsBegun.ofRefused (by assumption) ?_ | simp only [Keeps.mk_iff] | split | (with_reducible refine Keeps.record ?_ (by simp) (by simp)) | dsimp only

theorem State.repairDone_keeps {b0 : State} {s : State} {st : Nat} (h0 : Keeps b0 s) : Keeps b0 (State.repairDone s st) := by
  unfold State.repairDone
  try dsimp only
  repeat' first | with_reducible assumption | intro _ | with_reducible apply State.modStack_keeps | with_reducible apply State.completePacket_keeps | simp only [Keeps.mk_iff] | split | (with_reducible refine Keeps.record ?_ (by simp) (by simp)) | dsimp only

theorem State.moveBlocks_keeps {b0 : State} {s : State} {errors : List (Nat × Nat)} {st f j : Nat} (h0 : Keeps b0 s) : Keeps b0 (State.moveBlocks s errors st f j) := by
  unfold State.moveBlocks
  try dsimp only
  repeat' first | with_reducible assumption | intro _ | with_reducible apply State.writeBack_keeps | with_reducible apply keeps_foldl | simp only [Keeps.mk_iff] | split | (with_reducible refine Keeps.record ?_ (by simp) (by simp)) | dsimp only

theorem State.mappedOut_keeps {b0 : State} {s : State} {st : Nat} (h0 : Keeps b0 s) : Keeps b0 (State.mappedOut s st) := by
  unfold State.mappedOut
  try dsimp only
  repeat' first | with_reducible assumption | intro _ | with_reducible apply State.modStack_keeps | with_reducible apply State.event_keeps | simp only [Keeps.mk_iff] | split | (with_reducible refine Keeps.record ?_ (by simp) (by simp)) | dsimp only

theorem State.dropRange_keeps {b0 s : State} {lo hi : Nat} (h : Keeps b0 s) : Keeps b0 (s.dropRange lo hi) :=
  h.of_lengths (Sparse.wf_filter _ _ _) (Sparse.wf_filter _ _ _) rfl rfl rfl

/-! ### Of Machine/Schedule.lean -/

theorem State.waveMove_keeps {b0 : State} {s : State} {g w : Nat} (h0 : Keeps b0 s) : KeepsOpt Prod.snd b0 (State.waveMove s g w) := by
  unfold State.waveMove
  try dsimp only
  repeat' first | with_reducible assumption | intro _ | with_reducible apply State.setWave_keeps | with_reducible apply State.fetched_keeps | exact keepsOpt_none | with_reducible apply keepsOpt_map | (with_reducible apply keepsOpt_some; try dsimp only) | simp only [Keeps.mk_iff] | split | (with_reducible refine Keeps.record ?_ (by simp) (by simp)) | dsimp only

theorem State.dueRelease_keeps {b0 s : State} (h : Keeps b0 s) : KeepsOpt Prod.snd b0 s.dueRelease := ⟨fun x hx => by
  unfold State.dueRelease at hx
  obtain ⟨p, -, e⟩ := List.exists_of_findSome?_eq_some hx
  exact KeepsOpt.snd e (State.waveMove_keeps h)⟩

theorem State.nextMove_keeps {b0 s : State} (h : Keeps b0 s) : KeepsOpt Prod.snd b0 s.nextMove := by
  unfold State.nextMove
  split
  · exact State.waveMove_keeps h
  · split
    · exact ⟨fun x e => KeepsOpt.snd (by simp_all) (State.dueRelease_keeps h)⟩
    · split
      · exact keepsOpt_some (by simp only [Keeps.mk_iff]; exact h)
      · split
        · exact keepsOpt_some h
        · refine ⟨fun x e => ?_⟩
          have hx := List.mem_of_getElem? e
          rw [List.mem_append] at hx
          rcases hx with hx | hx
          · unfold State.waveMoves at hx
            simp only [List.mem_filterMap] at hx
            obtain ⟨p, -, e⟩ := hx
            exact KeepsOpt.snd e (State.waveMove_keeps h)
          · rw [List.mem_map] at hx
            obtain ⟨i, -, rfl⟩ := hx
            exact h

theorem State.tickClocks_keeps {b0 : State} {s : State} (h0 : Keeps b0 s) : Keeps b0 (State.tickClocks s) := by
  unfold State.tickClocks
  try dsimp only
  repeat' first | with_reducible assumption | intro _ | simp only [Keeps.mk_iff] | split | (with_reducible refine Keeps.record ?_ (by simp) (by simp)) | dsimp only

theorem State.endStep_keeps {b0 : State} {s : State} (h0 : Keeps b0 s) : Keeps b0 (State.endStep s) := by
  unfold State.endStep
  try dsimp only
  repeat' first | with_reducible assumption | intro _ | with_reducible apply State.numberWaiting_keeps | with_reducible apply State.endHolds_keeps | with_reducible apply State.tickClocks_keeps | simp only [Keeps.mk_iff] | split | (with_reducible refine Keeps.record ?_ (by simp) (by simp)) | dsimp only

end Sys2Proof.Machine
end

