-- ==== Sys2Proof/Laws/PerInstr.lean ====
section
/-! SUPPORT. Facts about every instruction as syntax, one lemma for each constructor. The family Encoding: the number
of an instruction's word fits in 32 bits, so that encoding it drops nothing (R51, R52). -/
set_option Elab.async false

namespace Sys2Proof.Laws.Encoding

/-- The number of the instruction's word fits in a word. -/
def Statement (i : Instr) : Prop := i.encodeNat < 2 ^ 32

theorem rm_code (x : Rm) : x.code ≤ 3 := by cases x <;> decide
theorem rounding_code (x : Rounding) : x.code ≤ 5 := by cases x <;> decide
theorem cond_code (x : Cond) : x.code ≤ 5 := by cases x <;> decide
theorem fCond_code (x : FCond) : x.code ≤ 7 := by cases x <;> decide
theorem numTy_code (x : NumTy) : x.code ≤ 13 := by cases x <;> decide
theorem memTy_code (x : MemTy) : x.code ≤ 5 := by cases x <;> decide
theorem space_code (x : Space) : x.code ≤ 3 := by cases x <;> decide
theorem wSpace_code (x : WSpace) : x.code ≤ 2 := by cases x <;> decide
theorem scope_code (x : Scope) : x.code ≤ 5 := by cases x <;> decide
theorem fenceOrder_code (x : FenceOrder) : x.code ≤ 2 := by cases x <;> decide
theorem atomOrder_code (x : AtomOrder) : x.code ≤ 2 := by cases x <;> decide
theorem monCmp_code (x : MonCmp) : x.code ≤ 2 := by cases x <;> decide
theorem barKind_code (x : BarKind) : x.code ≤ 4 := by cases x <;> decide
theorem barScope_code (x : BarScope) : x.code ≤ 3 := by cases x <;> decide
theorem maskOp_code (x : MaskOp) : x.code ≤ 2 := by cases x <;> decide
theorem validity_code (x : Validity) : x.code ≤ 2 := by cases x <;> decide
theorem atomOp_code (x : AtomOp) : x.code ≤ 27 := by cases x <;> decide

theorem nop : Statement .nop := by simp only [Statement, Instr.encodeNat]; decide
theorem trap (n : BitVec 7) : Statement (.trap n) := by
  simp only [Statement, Instr.encodeNat]; have := n.isLt; omega
theorem tret : Statement .tret := by simp only [Statement, Instr.encodeNat]; decide
theorem brk (n : BitVec 7) : Statement (.brk n) := by
  simp only [Statement, Instr.encodeNat]; have := n.isLt; omega
theorem gets (nw : Bool) (d : Reg) (a : Reg) : Statement (.gets nw d a) := by
  simp only [Statement, Instr.encodeNat]; have := Bool.toNat_lt nw; have := d.isLt; have := a.isLt; omega
theorem sets (a : Reg) (b : Reg) : Statement (.sets a b) := by
  simp only [Statement, Instr.encodeNat]; have := a.isLt; have := b.isLt; omega
theorem xen (o : MaskOp) (m : BitVec 5) : Statement (.xen o m) := by
  simp only [Statement, Instr.encodeNat]; have := maskOp_code o; have := m.isLt; omega
theorem xflg (o : MaskOp) (m : BitVec 5) : Statement (.xflg o m) := by
  simp only [Statement, Instr.encodeNat]; have := maskOp_code o; have := m.isLt; omega
theorem exit : Statement .exit := by simp only [Statement, Instr.encodeNat]; decide
theorem ret : Statement .ret := by simp only [Statement, Instr.encodeNat]; decide
theorem brx (a : Reg) (p : BitVec 6) : Statement (.brx a p) := by
  simp only [Statement, Instr.encodeNat]; have := a.isLt; have := p.isLt; omega
theorem callx (a : Reg) (p : BitVec 6) : Statement (.callx a p) := by
  simp only [Statement, Instr.encodeNat]; have := a.isLt; have := p.isLt; omega
theorem prio (p : BitVec 6) : Statement (.prio p) := by
  simp only [Statement, Instr.encodeNat]; have := p.isLt; omega
theorem jmsk (j : BitVec 3) : Statement (.jmsk j) := by
  simp only [Statement, Instr.encodeNat]; have := j.isLt; omega
theorem join (j : BitVec 3) : Statement (.join j) := by
  simp only [Statement, Instr.encodeNat]; have := j.isLt; omega
theorem winb (b : BitVec 6) : Statement (.winb b) := by
  simp only [Statement, Instr.encodeNat]; have := b.isLt; omega
theorem valid (v : Validity) : Statement (.valid v) := by
  simp only [Statement, Instr.encodeNat]; have := validity_code v; omega
theorem yield : Statement .yield := by simp only [Statement, Instr.encodeNat]; decide
theorem guard (n : BitVec 7) (s : Bool) (q : BitVec 4) : Statement (.guard n s q) := by
  simp only [Statement, Instr.encodeNat]; have := n.isLt; have := Bool.toNat_lt s; have := q.isLt; omega
theorem bra (p : BitVec 4) (s : Bool) (t : BitVec 6) (o : BitVec 16) : Statement (.bra p s t o) := by
  simp only [Statement, Instr.encodeNat]; have := p.isLt; have := Bool.toNat_lt s; have := t.isLt; have := o.isLt; omega
theorem call (p : BitVec 4) (s : Bool) (t : BitVec 6) (o : BitVec 16) : Statement (.call p s t o) := by
  simp only [Statement, Instr.encodeNat]; have := p.isLt; have := Bool.toNat_lt s; have := t.isLt; have := o.isLt; omega
theorem add32 (nw : Bool) (d : Reg) (a : Reg) (b : Reg) : Statement (.add32 nw d a b) := by
  simp only [Statement, Instr.encodeNat]; have := Bool.toNat_lt nw; have := d.isLt; have := a.isLt; have := b.isLt; omega
theorem sub32 (nw : Bool) (d : Reg) (a : Reg) (b : Reg) : Statement (.sub32 nw d a b) := by
  simp only [Statement, Instr.encodeNat]; have := Bool.toNat_lt nw; have := d.isLt; have := a.isLt; have := b.isLt; omega
theorem mull (nw : Bool) (d : Reg) (a : Reg) (b : Reg) : Statement (.mull nw d a b) := by
  simp only [Statement, Instr.encodeNat]; have := Bool.toNat_lt nw; have := d.isLt; have := a.isLt; have := b.isLt; omega
theorem mulhI32 (nw : Bool) (d : Reg) (a : Reg) (b : Reg) : Statement (.mulhI32 nw d a b) := by
  simp only [Statement, Instr.encodeNat]; have := Bool.toNat_lt nw; have := d.isLt; have := a.isLt; have := b.isLt; omega
theorem mulhN32 (nw : Bool) (d : Reg) (a : Reg) (b : Reg) : Statement (.mulhN32 nw d a b) := by
  simp only [Statement, Instr.encodeNat]; have := Bool.toNat_lt nw; have := d.isLt; have := a.isLt; have := b.isLt; omega
theorem mad (nw : Bool) (d : Reg) (a : Reg) (b : Reg) : Statement (.mad nw d a b) := by
  simp only [Statement, Instr.encodeNat]; have := Bool.toNat_lt nw; have := d.isLt; have := a.isLt; have := b.isLt; omega
theorem div32 (t : Bool) (nw : Bool) (d : Reg) (a : Reg) (b : Reg) : Statement (.div32 t nw d a b) := by
  simp only [Statement, Instr.encodeNat]; have := Bool.toNat_lt t; have := Bool.toNat_lt nw; have := d.isLt; have := a.isLt; have := b.isLt; omega
theorem rem32 (t : Bool) (nw : Bool) (d : Reg) (a : Reg) (b : Reg) : Statement (.rem32 t nw d a b) := by
  simp only [Statement, Instr.encodeNat]; have := Bool.toNat_lt t; have := Bool.toNat_lt nw; have := d.isLt; have := a.isLt; have := b.isLt; omega
theorem min32 (t : Bool) (nw : Bool) (d : Reg) (a : Reg) (b : Reg) : Statement (.min32 t nw d a b) := by
  simp only [Statement, Instr.encodeNat]; have := Bool.toNat_lt t; have := Bool.toNat_lt nw; have := d.isLt; have := a.isLt; have := b.isLt; omega
theorem max32 (t : Bool) (nw : Bool) (d : Reg) (a : Reg) (b : Reg) : Statement (.max32 t nw d a b) := by
  simp only [Statement, Instr.encodeNat]; have := Bool.toNat_lt t; have := Bool.toNat_lt nw; have := d.isLt; have := a.isLt; have := b.isLt; omega
theorem sadd (t : Bool) (nw : Bool) (d : Reg) (a : Reg) (b : Reg) : Statement (.sadd t nw d a b) := by
  simp only [Statement, Instr.encodeNat]; have := Bool.toNat_lt t; have := Bool.toNat_lt nw; have := d.isLt; have := a.isLt; have := b.isLt; omega
theorem ssub (t : Bool) (nw : Bool) (d : Reg) (a : Reg) (b : Reg) : Statement (.ssub t nw d a b) := by
  simp only [Statement, Instr.encodeNat]; have := Bool.toNat_lt t; have := Bool.toNat_lt nw; have := d.isLt; have := a.isLt; have := b.isLt; omega
theorem and32 (nw : Bool) (d : Reg) (a : Reg) (b : Reg) : Statement (.and32 nw d a b) := by
  simp only [Statement, Instr.encodeNat]; have := Bool.toNat_lt nw; have := d.isLt; have := a.isLt; have := b.isLt; omega
theorem or32 (nw : Bool) (d : Reg) (a : Reg) (b : Reg) : Statement (.or32 nw d a b) := by
  simp only [Statement, Instr.encodeNat]; have := Bool.toNat_lt nw; have := d.isLt; have := a.isLt; have := b.isLt; omega
theorem xor32 (nw : Bool) (d : Reg) (a : Reg) (b : Reg) : Statement (.xor32 nw d a b) := by
  simp only [Statement, Instr.encodeNat]; have := Bool.toNat_lt nw; have := d.isLt; have := a.isLt; have := b.isLt; omega
theorem shl (nw : Bool) (d : Reg) (a : Reg) (b : Reg) : Statement (.shl nw d a b) := by
  simp only [Statement, Instr.encodeNat]; have := Bool.toNat_lt nw; have := d.isLt; have := a.isLt; have := b.isLt; omega
theorem shr (nw : Bool) (d : Reg) (a : Reg) (b : Reg) : Statement (.shr nw d a b) := by
  simp only [Statement, Instr.encodeNat]; have := Bool.toNat_lt nw; have := d.isLt; have := a.isLt; have := b.isLt; omega
theorem sar (nw : Bool) (d : Reg) (a : Reg) (b : Reg) : Statement (.sar nw d a b) := by
  simp only [Statement, Instr.encodeNat]; have := Bool.toNat_lt nw; have := d.isLt; have := a.isLt; have := b.isLt; omega
theorem rotl (nw : Bool) (d : Reg) (a : Reg) (b : Reg) : Statement (.rotl nw d a b) := by
  simp only [Statement, Instr.encodeNat]; have := Bool.toNat_lt nw; have := d.isLt; have := a.isLt; have := b.isLt; omega
theorem shli (nw : Bool) (d : Reg) (a : Reg) (n : BitVec 5) : Statement (.shli nw d a n) := by
  simp only [Statement, Instr.encodeNat]; have := Bool.toNat_lt nw; have := d.isLt; have := a.isLt; have := n.isLt; omega
theorem shri (nw : Bool) (d : Reg) (a : Reg) (n : BitVec 5) : Statement (.shri nw d a n) := by
  simp only [Statement, Instr.encodeNat]; have := Bool.toNat_lt nw; have := d.isLt; have := a.isLt; have := n.isLt; omega
theorem sari (nw : Bool) (d : Reg) (a : Reg) (n : BitVec 5) : Statement (.sari nw d a n) := by
  simp only [Statement, Instr.encodeNat]; have := Bool.toNat_lt nw; have := d.isLt; have := a.isLt; have := n.isLt; omega
theorem bfx (t : Bool) (nw : Bool) (d : Reg) (a : Reg) (b : Reg) : Statement (.bfx t nw d a b) := by
  simp only [Statement, Instr.encodeNat]; have := Bool.toNat_lt t; have := Bool.toNat_lt nw; have := d.isLt; have := a.isLt; have := b.isLt; omega
theorem bfi (nw : Bool) (d : Reg) (a : Reg) (b : Reg) : Statement (.bfi nw d a b) := by
  simp only [Statement, Instr.encodeNat]; have := Bool.toNat_lt nw; have := d.isLt; have := a.isLt; have := b.isLt; omega
theorem permb (nw : Bool) (d : Reg) (a : Reg) (b : Reg) : Statement (.permb nw d a b) := by
  simp only [Statement, Instr.encodeNat]; have := Bool.toNat_lt nw; have := d.isLt; have := a.isLt; have := b.isLt; omega
theorem mov (nw : Bool) (d : Reg) (a : Reg) : Statement (.mov nw d a) := by
  simp only [Statement, Instr.encodeNat]; have := Bool.toNat_lt nw; have := d.isLt; have := a.isLt; omega
theorem not32 (nw : Bool) (d : Reg) (a : Reg) : Statement (.not32 nw d a) := by
  simp only [Statement, Instr.encodeNat]; have := Bool.toNat_lt nw; have := d.isLt; have := a.isLt; omega
theorem neg32 (nw : Bool) (d : Reg) (a : Reg) : Statement (.neg32 nw d a) := by
  simp only [Statement, Instr.encodeNat]; have := Bool.toNat_lt nw; have := d.isLt; have := a.isLt; omega
theorem abs32 (nw : Bool) (d : Reg) (a : Reg) : Statement (.abs32 nw d a) := by
  simp only [Statement, Instr.encodeNat]; have := Bool.toNat_lt nw; have := d.isLt; have := a.isLt; omega
theorem popc (nw : Bool) (d : Reg) (a : Reg) : Statement (.popc nw d a) := by
  simp only [Statement, Instr.encodeNat]; have := Bool.toNat_lt nw; have := d.isLt; have := a.isLt; omega
theorem clz (nw : Bool) (d : Reg) (a : Reg) : Statement (.clz nw d a) := by
  simp only [Statement, Instr.encodeNat]; have := Bool.toNat_lt nw; have := d.isLt; have := a.isLt; omega
theorem ctz (nw : Bool) (d : Reg) (a : Reg) : Statement (.ctz nw d a) := by
  simp only [Statement, Instr.encodeNat]; have := Bool.toNat_lt nw; have := d.isLt; have := a.isLt; omega
theorem brev (nw : Bool) (d : Reg) (a : Reg) : Statement (.brev nw d a) := by
  simp only [Statement, Instr.encodeNat]; have := Bool.toNat_lt nw; have := d.isLt; have := a.isLt; omega
theorem addInt64 (nw : Bool) (d : Reg) (a : Reg) (b : Reg) : Statement (.addInt64 nw d a b) := by
  simp only [Statement, Instr.encodeNat]; have := Bool.toNat_lt nw; have := d.isLt; have := a.isLt; have := b.isLt; omega
theorem subInt64 (nw : Bool) (d : Reg) (a : Reg) (b : Reg) : Statement (.subInt64 nw d a b) := by
  simp only [Statement, Instr.encodeNat]; have := Bool.toNat_lt nw; have := d.isLt; have := a.isLt; have := b.isLt; omega
theorem mullInt64 (nw : Bool) (d : Reg) (a : Reg) (b : Reg) : Statement (.mullInt64 nw d a b) := by
  simp only [Statement, Instr.encodeNat]; have := Bool.toNat_lt nw; have := d.isLt; have := a.isLt; have := b.isLt; omega
theorem minI64 (nw : Bool) (d : Reg) (a : Reg) (b : Reg) : Statement (.minI64 nw d a b) := by
  simp only [Statement, Instr.encodeNat]; have := Bool.toNat_lt nw; have := d.isLt; have := a.isLt; have := b.isLt; omega
theorem minN64 (nw : Bool) (d : Reg) (a : Reg) (b : Reg) : Statement (.minN64 nw d a b) := by
  simp only [Statement, Instr.encodeNat]; have := Bool.toNat_lt nw; have := d.isLt; have := a.isLt; have := b.isLt; omega
theorem maxI64 (nw : Bool) (d : Reg) (a : Reg) (b : Reg) : Statement (.maxI64 nw d a b) := by
  simp only [Statement, Instr.encodeNat]; have := Bool.toNat_lt nw; have := d.isLt; have := a.isLt; have := b.isLt; omega
theorem maxN64 (nw : Bool) (d : Reg) (a : Reg) (b : Reg) : Statement (.maxN64 nw d a b) := by
  simp only [Statement, Instr.encodeNat]; have := Bool.toNat_lt nw; have := d.isLt; have := a.isLt; have := b.isLt; omega
theorem andInt64 (nw : Bool) (d : Reg) (a : Reg) (b : Reg) : Statement (.andInt64 nw d a b) := by
  simp only [Statement, Instr.encodeNat]; have := Bool.toNat_lt nw; have := d.isLt; have := a.isLt; have := b.isLt; omega
theorem orInt64 (nw : Bool) (d : Reg) (a : Reg) (b : Reg) : Statement (.orInt64 nw d a b) := by
  simp only [Statement, Instr.encodeNat]; have := Bool.toNat_lt nw; have := d.isLt; have := a.isLt; have := b.isLt; omega
theorem xorInt64 (nw : Bool) (d : Reg) (a : Reg) (b : Reg) : Statement (.xorInt64 nw d a b) := by
  simp only [Statement, Instr.encodeNat]; have := Bool.toNat_lt nw; have := d.isLt; have := a.isLt; have := b.isLt; omega
theorem shlInt64 (nw : Bool) (d : Reg) (a : Reg) (b : Reg) : Statement (.shlInt64 nw d a b) := by
  simp only [Statement, Instr.encodeNat]; have := Bool.toNat_lt nw; have := d.isLt; have := a.isLt; have := b.isLt; omega
theorem shrInt64 (nw : Bool) (d : Reg) (a : Reg) (b : Reg) : Statement (.shrInt64 nw d a b) := by
  simp only [Statement, Instr.encodeNat]; have := Bool.toNat_lt nw; have := d.isLt; have := a.isLt; have := b.isLt; omega
theorem sarInt64 (nw : Bool) (d : Reg) (a : Reg) (b : Reg) : Statement (.sarInt64 nw d a b) := by
  simp only [Statement, Instr.encodeNat]; have := Bool.toNat_lt nw; have := d.isLt; have := a.isLt; have := b.isLt; omega
theorem shliInt64 (nw : Bool) (d : Reg) (a : Reg) (n : BitVec 6) : Statement (.shliInt64 nw d a n) := by
  simp only [Statement, Instr.encodeNat]; have := Bool.toNat_lt nw; have := d.isLt; have := a.isLt; have := n.isLt; omega
theorem shriInt64 (nw : Bool) (d : Reg) (a : Reg) (n : BitVec 6) : Statement (.shriInt64 nw d a n) := by
  simp only [Statement, Instr.encodeNat]; have := Bool.toNat_lt nw; have := d.isLt; have := a.isLt; have := n.isLt; omega
theorem sariInt64 (nw : Bool) (d : Reg) (a : Reg) (n : BitVec 6) : Statement (.sariInt64 nw d a n) := by
  simp only [Statement, Instr.encodeNat]; have := Bool.toNat_lt nw; have := d.isLt; have := a.isLt; have := n.isLt; omega
theorem movInt64 (nw : Bool) (d : Reg) (a : Reg) : Statement (.movInt64 nw d a) := by
  simp only [Statement, Instr.encodeNat]; have := Bool.toNat_lt nw; have := d.isLt; have := a.isLt; omega
theorem notInt64 (nw : Bool) (d : Reg) (a : Reg) : Statement (.notInt64 nw d a) := by
  simp only [Statement, Instr.encodeNat]; have := Bool.toNat_lt nw; have := d.isLt; have := a.isLt; omega
theorem negInt64 (nw : Bool) (d : Reg) (a : Reg) : Statement (.negInt64 nw d a) := by
  simp only [Statement, Instr.encodeNat]; have := Bool.toNat_lt nw; have := d.isLt; have := a.isLt; omega
theorem absInt64 (nw : Bool) (d : Reg) (a : Reg) : Statement (.absInt64 nw d a) := by
  simp only [Statement, Instr.encodeNat]; have := Bool.toNat_lt nw; have := d.isLt; have := a.isLt; omega
theorem popcInt64 (nw : Bool) (d : Reg) (a : Reg) : Statement (.popcInt64 nw d a) := by
  simp only [Statement, Instr.encodeNat]; have := Bool.toNat_lt nw; have := d.isLt; have := a.isLt; omega
theorem clzInt64 (nw : Bool) (d : Reg) (a : Reg) : Statement (.clzInt64 nw d a) := by
  simp only [Statement, Instr.encodeNat]; have := Bool.toNat_lt nw; have := d.isLt; have := a.isLt; omega
theorem ctzInt64 (nw : Bool) (d : Reg) (a : Reg) : Statement (.ctzInt64 nw d a) := by
  simp only [Statement, Instr.encodeNat]; have := Bool.toNat_lt nw; have := d.isLt; have := a.isLt; omega
theorem brevInt64 (nw : Bool) (d : Reg) (a : Reg) : Statement (.brevInt64 nw d a) := by
  simp only [Statement, Instr.encodeNat]; have := Bool.toNat_lt nw; have := d.isLt; have := a.isLt; omega
theorem leaI32 (nw : Bool) (d : Reg) (a : Reg) (b : Reg) : Statement (.leaI32 nw d a b) := by
  simp only [Statement, Instr.encodeNat]; have := Bool.toNat_lt nw; have := d.isLt; have := a.isLt; have := b.isLt; omega
theorem leaN32 (nw : Bool) (d : Reg) (a : Reg) (b : Reg) : Statement (.leaN32 nw d a b) := by
  simp only [Statement, Instr.encodeNat]; have := Bool.toNat_lt nw; have := d.isLt; have := a.isLt; have := b.isLt; omega
theorem addUint (d : Reg) (a : Reg) (b : Reg) : Statement (.addUint d a b) := by
  simp only [Statement, Instr.encodeNat]; have := d.isLt; have := a.isLt; have := b.isLt; omega
theorem subUint (d : Reg) (a : Reg) (b : Reg) : Statement (.subUint d a b) := by
  simp only [Statement, Instr.encodeNat]; have := d.isLt; have := a.isLt; have := b.isLt; omega
theorem mullUint (d : Reg) (a : Reg) (b : Reg) : Statement (.mullUint d a b) := by
  simp only [Statement, Instr.encodeNat]; have := d.isLt; have := a.isLt; have := b.isLt; omega
theorem mulhI64 (d : Reg) (a : Reg) (b : Reg) : Statement (.mulhI64 d a b) := by
  simp only [Statement, Instr.encodeNat]; have := d.isLt; have := a.isLt; have := b.isLt; omega
theorem mulhN64 (d : Reg) (a : Reg) (b : Reg) : Statement (.mulhN64 d a b) := by
  simp only [Statement, Instr.encodeNat]; have := d.isLt; have := a.isLt; have := b.isLt; omega
theorem madUint (d : Reg) (a : Reg) (b : Reg) : Statement (.madUint d a b) := by
  simp only [Statement, Instr.encodeNat]; have := d.isLt; have := a.isLt; have := b.isLt; omega
theorem minUint (t : Bool) (d : Reg) (a : Reg) (b : Reg) : Statement (.minUint t d a b) := by
  simp only [Statement, Instr.encodeNat]; have := Bool.toNat_lt t; have := d.isLt; have := a.isLt; have := b.isLt; omega
theorem maxUint (t : Bool) (d : Reg) (a : Reg) (b : Reg) : Statement (.maxUint t d a b) := by
  simp only [Statement, Instr.encodeNat]; have := Bool.toNat_lt t; have := d.isLt; have := a.isLt; have := b.isLt; omega
theorem andUint (d : Reg) (a : Reg) (b : Reg) : Statement (.andUint d a b) := by
  simp only [Statement, Instr.encodeNat]; have := d.isLt; have := a.isLt; have := b.isLt; omega
theorem orUint (d : Reg) (a : Reg) (b : Reg) : Statement (.orUint d a b) := by
  simp only [Statement, Instr.encodeNat]; have := d.isLt; have := a.isLt; have := b.isLt; omega
theorem xorUint (d : Reg) (a : Reg) (b : Reg) : Statement (.xorUint d a b) := by
  simp only [Statement, Instr.encodeNat]; have := d.isLt; have := a.isLt; have := b.isLt; omega
theorem shlUint (d : Reg) (a : Reg) (b : Reg) : Statement (.shlUint d a b) := by
  simp only [Statement, Instr.encodeNat]; have := d.isLt; have := a.isLt; have := b.isLt; omega
theorem shrUint (d : Reg) (a : Reg) (b : Reg) : Statement (.shrUint d a b) := by
  simp only [Statement, Instr.encodeNat]; have := d.isLt; have := a.isLt; have := b.isLt; omega
theorem sarUint (d : Reg) (a : Reg) (b : Reg) : Statement (.sarUint d a b) := by
  simp only [Statement, Instr.encodeNat]; have := d.isLt; have := a.isLt; have := b.isLt; omega
theorem shliUint (d : Reg) (a : Reg) (n : BitVec 6) : Statement (.shliUint d a n) := by
  simp only [Statement, Instr.encodeNat]; have := d.isLt; have := a.isLt; have := n.isLt; omega
theorem shriUint (d : Reg) (a : Reg) (n : BitVec 6) : Statement (.shriUint d a n) := by
  simp only [Statement, Instr.encodeNat]; have := d.isLt; have := a.isLt; have := n.isLt; omega
theorem sariUint (d : Reg) (a : Reg) (n : BitVec 6) : Statement (.sariUint d a n) := by
  simp only [Statement, Instr.encodeNat]; have := d.isLt; have := a.isLt; have := n.isLt; omega
theorem bfxI64 (d : Reg) (a : Reg) (b : Reg) : Statement (.bfxI64 d a b) := by
  simp only [Statement, Instr.encodeNat]; have := d.isLt; have := a.isLt; have := b.isLt; omega
theorem bfxN64 (d : Reg) (a : Reg) (b : Reg) : Statement (.bfxN64 d a b) := by
  simp only [Statement, Instr.encodeNat]; have := d.isLt; have := a.isLt; have := b.isLt; omega
theorem bfiUint (d : Reg) (a : Reg) (b : Reg) : Statement (.bfiUint d a b) := by
  simp only [Statement, Instr.encodeNat]; have := d.isLt; have := a.isLt; have := b.isLt; omega
theorem movUint (d : Reg) (a : Reg) : Statement (.movUint d a) := by
  simp only [Statement, Instr.encodeNat]; have := d.isLt; have := a.isLt; omega
theorem notUint (d : Reg) (a : Reg) : Statement (.notUint d a) := by
  simp only [Statement, Instr.encodeNat]; have := d.isLt; have := a.isLt; omega
theorem negUint (d : Reg) (a : Reg) : Statement (.negUint d a) := by
  simp only [Statement, Instr.encodeNat]; have := d.isLt; have := a.isLt; omega
theorem absUint (d : Reg) (a : Reg) : Statement (.absUint d a) := by
  simp only [Statement, Instr.encodeNat]; have := d.isLt; have := a.isLt; omega
theorem popcUint (d : Reg) (a : Reg) : Statement (.popcUint d a) := by
  simp only [Statement, Instr.encodeNat]; have := d.isLt; have := a.isLt; omega
theorem clzUint (d : Reg) (a : Reg) : Statement (.clzUint d a) := by
  simp only [Statement, Instr.encodeNat]; have := d.isLt; have := a.isLt; omega
theorem ctzUint (d : Reg) (a : Reg) : Statement (.ctzUint d a) := by
  simp only [Statement, Instr.encodeNat]; have := d.isLt; have := a.isLt; omega
theorem brevUint (d : Reg) (a : Reg) : Statement (.brevUint d a) := by
  simp only [Statement, Instr.encodeNat]; have := d.isLt; have := a.isLt; omega
theorem cmp (t : Bool) (c : Cond) (q : BitVec 4) (a : Reg) (b : Reg) : Statement (.cmp t c q a b) := by
  simp only [Statement, Instr.encodeNat]; have := Bool.toNat_lt t; have := cond_code c; have := q.isLt; have := a.isLt; have := b.isLt; omega
theorem cmp64 (t : Bool) (c : Cond) (q : BitVec 4) (a : Reg) (b : Reg) : Statement (.cmp64 t c q a b) := by
  simp only [Statement, Instr.encodeNat]; have := Bool.toNat_lt t; have := cond_code c; have := q.isLt; have := a.isLt; have := b.isLt; omega
theorem pand (q : BitVec 4) (x : Bool) (p : BitVec 4) (y : Bool) (r : BitVec 4) : Statement (.pand q x p y r) := by
  simp only [Statement, Instr.encodeNat]; have := q.isLt; have := Bool.toNat_lt x; have := p.isLt; have := Bool.toNat_lt y; have := r.isLt; omega
theorem por (q : BitVec 4) (x : Bool) (p : BitVec 4) (y : Bool) (r : BitVec 4) : Statement (.por q x p y r) := by
  simp only [Statement, Instr.encodeNat]; have := q.isLt; have := Bool.toNat_lt x; have := p.isLt; have := Bool.toNat_lt y; have := r.isLt; omega
theorem pxor (q : BitVec 4) (x : Bool) (p : BitVec 4) (y : Bool) (r : BitVec 4) : Statement (.pxor q x p y r) := by
  simp only [Statement, Instr.encodeNat]; have := q.isLt; have := Bool.toNat_lt x; have := p.isLt; have := Bool.toNat_lt y; have := r.isLt; omega
theorem pnot (q : BitVec 4) (x : Bool) (p : BitVec 4) : Statement (.pnot q x p) := by
  simp only [Statement, Instr.encodeNat]; have := q.isLt; have := Bool.toNat_lt x; have := p.isLt; omega
theorem pmov (q : BitVec 4) (x : Bool) (p : BitVec 4) : Statement (.pmov q x p) := by
  simp only [Statement, Instr.encodeNat]; have := q.isLt; have := Bool.toNat_lt x; have := p.isLt; omega
theorem voteAll (q : BitVec 4) (x : Bool) (p : BitVec 4) : Statement (.voteAll q x p) := by
  simp only [Statement, Instr.encodeNat]; have := q.isLt; have := Bool.toNat_lt x; have := p.isLt; omega
theorem voteAny (q : BitVec 4) (x : Bool) (p : BitVec 4) : Statement (.voteAny q x p) := by
  simp only [Statement, Instr.encodeNat]; have := q.isLt; have := Bool.toNat_lt x; have := p.isLt; omega
theorem voteBallot (nw : Bool) (d : Reg) (x : Bool) (p : BitVec 4) : Statement (.voteBallot nw d x p) := by
  simp only [Statement, Instr.encodeNat]; have := Bool.toNat_lt nw; have := d.isLt; have := Bool.toNat_lt x; have := p.isLt; omega
theorem shflIdx (nw : Bool) (d : Reg) (a : Reg) (b : Reg) : Statement (.shflIdx nw d a b) := by
  simp only [Statement, Instr.encodeNat]; have := Bool.toNat_lt nw; have := d.isLt; have := a.isLt; have := b.isLt; omega
theorem shflUp (nw : Bool) (d : Reg) (a : Reg) (b : Reg) : Statement (.shflUp nw d a b) := by
  simp only [Statement, Instr.encodeNat]; have := Bool.toNat_lt nw; have := d.isLt; have := a.isLt; have := b.isLt; omega
theorem shflDown (nw : Bool) (d : Reg) (a : Reg) (b : Reg) : Statement (.shflDown nw d a b) := by
  simp only [Statement, Instr.encodeNat]; have := Bool.toNat_lt nw; have := d.isLt; have := a.isLt; have := b.isLt; omega
theorem shflXor (nw : Bool) (d : Reg) (a : Reg) (b : Reg) : Statement (.shflXor nw d a b) := by
  simp only [Statement, Instr.encodeNat]; have := Bool.toNat_lt nw; have := d.isLt; have := a.isLt; have := b.isLt; omega
theorem bcst (z : Bool) (d : Reg) (a : Reg) : Statement (.bcst z d a) := by
  simp only [Statement, Instr.encodeNat]; have := Bool.toNat_lt z; have := d.isLt; have := a.isLt; omega
theorem elect (q : BitVec 4) : Statement (.elect q) := by
  simp only [Statement, Instr.encodeNat]; have := q.isLt; omega
theorem movFromUniform (nw : Bool) (d : Reg) (a : Reg) (z : Bool) : Statement (.movFromUniform nw d a z) := by
  simp only [Statement, Instr.encodeNat]; have := Bool.toNat_lt nw; have := d.isLt; have := a.isLt; have := Bool.toNat_lt z; omega
theorem selB32 (p : BitVec 4) (nw : Bool) (d : Reg) (a : Reg) (b : Reg) : Statement (.selB32 p nw d a b) := by
  simp only [Statement, Instr.encodeNat]; have := p.isLt; have := Bool.toNat_lt nw; have := d.isLt; have := a.isLt; have := b.isLt; omega
theorem selB64 (p : BitVec 4) (nw : Bool) (d : Reg) (a : Reg) (b : Reg) : Statement (.selB64 p nw d a b) := by
  simp only [Statement, Instr.encodeNat]; have := p.isLt; have := Bool.toNat_lt nw; have := d.isLt; have := a.isLt; have := b.isLt; omega
theorem addc (p : BitVec 4) (nw : Bool) (d : Reg) (a : Reg) (b : Reg) : Statement (.addc p nw d a b) := by
  simp only [Statement, Instr.encodeNat]; have := p.isLt; have := Bool.toNat_lt nw; have := d.isLt; have := a.isLt; have := b.isLt; omega
theorem subc (p : BitVec 4) (nw : Bool) (d : Reg) (a : Reg) (b : Reg) : Statement (.subc p nw d a b) := by
  simp only [Statement, Instr.encodeNat]; have := p.isLt; have := Bool.toNat_lt nw; have := d.isLt; have := a.isLt; have := b.isLt; omega
theorem addi (i : BitVec 12) (nw : Bool) (d : Reg) (a : Reg) : Statement (.addi i nw d a) := by
  simp only [Statement, Instr.encodeNat]; have := i.isLt; have := Bool.toNat_lt nw; have := d.isLt; have := a.isLt; omega
theorem andi (i : BitVec 12) (nw : Bool) (d : Reg) (a : Reg) : Statement (.andi i nw d a) := by
  simp only [Statement, Instr.encodeNat]; have := i.isLt; have := Bool.toNat_lt nw; have := d.isLt; have := a.isLt; omega
theorem ori (i : BitVec 12) (nw : Bool) (d : Reg) (a : Reg) : Statement (.ori i nw d a) := by
  simp only [Statement, Instr.encodeNat]; have := i.isLt; have := Bool.toNat_lt nw; have := d.isLt; have := a.isLt; omega
theorem xori (i : BitVec 12) (nw : Bool) (d : Reg) (a : Reg) : Statement (.xori i nw d a) := by
  simp only [Statement, Instr.encodeNat]; have := i.isLt; have := Bool.toNat_lt nw; have := d.isLt; have := a.isLt; omega
theorem cmpi (i : BitVec 12) (t : Bool) (c : Cond) (q : BitVec 4) (a : Reg) : Statement (.cmpi i t c q a) := by
  simp only [Statement, Instr.encodeNat]; have := i.isLt; have := Bool.toNat_lt t; have := cond_code c; have := q.isLt; have := a.isLt; omega
theorem lui (i : BitVec 19) (nw : Bool) (d : Reg) : Statement (.lui i nw d) := by
  simp only [Statement, Instr.encodeNat]; have := i.isLt; have := Bool.toNat_lt nw; have := d.isLt; omega
theorem movi (i : BitVec 19) (nw : Bool) (d : Reg) : Statement (.movi i nw d) := by
  simp only [Statement, Instr.encodeNat]; have := i.isLt; have := Bool.toNat_lt nw; have := d.isLt; omega
theorem uaddi (i : BitVec 12) (d : Reg) (a : Reg) : Statement (.uaddi i d a) := by
  simp only [Statement, Instr.encodeNat]; have := i.isLt; have := d.isLt; have := a.isLt; omega
theorem umovi (i : BitVec 19) (d : Reg) : Statement (.umovi i d) := by
  simp only [Statement, Instr.encodeNat]; have := i.isLt; have := d.isLt; omega
theorem umoviLui (i : BitVec 19) (d : Reg) : Statement (.umoviLui i d) := by
  simp only [Statement, Instr.encodeNat]; have := i.isLt; have := d.isLt; omega
theorem faddFp32 (r : Rm) (nw : Bool) (d : Reg) (a : Reg) (b : Reg) : Statement (.faddFp32 r nw d a b) := by
  simp only [Statement, Instr.encodeNat]; have := rm_code r; have := Bool.toNat_lt nw; have := d.isLt; have := a.isLt; have := b.isLt; omega
theorem fsubFp32 (r : Rm) (nw : Bool) (d : Reg) (a : Reg) (b : Reg) : Statement (.fsubFp32 r nw d a b) := by
  simp only [Statement, Instr.encodeNat]; have := rm_code r; have := Bool.toNat_lt nw; have := d.isLt; have := a.isLt; have := b.isLt; omega
theorem fmulFp32 (r : Rm) (nw : Bool) (d : Reg) (a : Reg) (b : Reg) : Statement (.fmulFp32 r nw d a b) := by
  simp only [Statement, Instr.encodeNat]; have := rm_code r; have := Bool.toNat_lt nw; have := d.isLt; have := a.isLt; have := b.isLt; omega
theorem fdivFp32 (r : Rm) (nw : Bool) (d : Reg) (a : Reg) (b : Reg) : Statement (.fdivFp32 r nw d a b) := by
  simp only [Statement, Instr.encodeNat]; have := rm_code r; have := Bool.toNat_lt nw; have := d.isLt; have := a.isLt; have := b.isLt; omega
theorem fmaFp32 (r : Rm) (nw : Bool) (d : Reg) (a : Reg) (b : Reg) : Statement (.fmaFp32 r nw d a b) := by
  simp only [Statement, Instr.encodeNat]; have := rm_code r; have := Bool.toNat_lt nw; have := d.isLt; have := a.isLt; have := b.isLt; omega
theorem fnmaFp32 (r : Rm) (nw : Bool) (d : Reg) (a : Reg) (b : Reg) : Statement (.fnmaFp32 r nw d a b) := by
  simp only [Statement, Instr.encodeNat]; have := rm_code r; have := Bool.toNat_lt nw; have := d.isLt; have := a.isLt; have := b.isLt; omega
theorem fsclFp32 (r : Rm) (nw : Bool) (d : Reg) (a : Reg) (b : Reg) : Statement (.fsclFp32 r nw d a b) := by
  simp only [Statement, Instr.encodeNat]; have := rm_code r; have := Bool.toNat_lt nw; have := d.isLt; have := a.isLt; have := b.isLt; omega
theorem fsqrtFp32 (r : Rm) (nw : Bool) (d : Reg) (a : Reg) : Statement (.fsqrtFp32 r nw d a) := by
  simp only [Statement, Instr.encodeNat]; have := rm_code r; have := Bool.toNat_lt nw; have := d.isLt; have := a.isLt; omega
theorem frcp (r : Rm) (nw : Bool) (d : Reg) (a : Reg) : Statement (.frcp r nw d a) := by
  simp only [Statement, Instr.encodeNat]; have := rm_code r; have := Bool.toNat_lt nw; have := d.isLt; have := a.isLt; omega
theorem frsq (r : Rm) (nw : Bool) (d : Reg) (a : Reg) : Statement (.frsq r nw d a) := by
  simp only [Statement, Instr.encodeNat]; have := rm_code r; have := Bool.toNat_lt nw; have := d.isLt; have := a.isLt; omega
theorem fexp2 (r : Rm) (nw : Bool) (d : Reg) (a : Reg) : Statement (.fexp2 r nw d a) := by
  simp only [Statement, Instr.encodeNat]; have := rm_code r; have := Bool.toNat_lt nw; have := d.isLt; have := a.isLt; omega
theorem flog2 (r : Rm) (nw : Bool) (d : Reg) (a : Reg) : Statement (.flog2 r nw d a) := by
  simp only [Statement, Instr.encodeNat]; have := rm_code r; have := Bool.toNat_lt nw; have := d.isLt; have := a.isLt; omega
theorem frndFp32 (r : Rm) (nw : Bool) (d : Reg) (a : Reg) : Statement (.frndFp32 r nw d a) := by
  simp only [Statement, Instr.encodeNat]; have := rm_code r; have := Bool.toNat_lt nw; have := d.isLt; have := a.isLt; omega
theorem frndRnaFp32 (nw : Bool) (d : Reg) (a : Reg) : Statement (.frndRnaFp32 nw d a) := by
  simp only [Statement, Instr.encodeNat]; have := Bool.toNat_lt nw; have := d.isLt; have := a.isLt; omega
theorem faddFp64 (r : Rm) (nw : Bool) (d : Reg) (a : Reg) (b : Reg) : Statement (.faddFp64 r nw d a b) := by
  simp only [Statement, Instr.encodeNat]; have := rm_code r; have := Bool.toNat_lt nw; have := d.isLt; have := a.isLt; have := b.isLt; omega
theorem fsubFp64 (r : Rm) (nw : Bool) (d : Reg) (a : Reg) (b : Reg) : Statement (.fsubFp64 r nw d a b) := by
  simp only [Statement, Instr.encodeNat]; have := rm_code r; have := Bool.toNat_lt nw; have := d.isLt; have := a.isLt; have := b.isLt; omega
theorem fmulFp64 (r : Rm) (nw : Bool) (d : Reg) (a : Reg) (b : Reg) : Statement (.fmulFp64 r nw d a b) := by
  simp only [Statement, Instr.encodeNat]; have := rm_code r; have := Bool.toNat_lt nw; have := d.isLt; have := a.isLt; have := b.isLt; omega
theorem fdivFp64 (r : Rm) (nw : Bool) (d : Reg) (a : Reg) (b : Reg) : Statement (.fdivFp64 r nw d a b) := by
  simp only [Statement, Instr.encodeNat]; have := rm_code r; have := Bool.toNat_lt nw; have := d.isLt; have := a.isLt; have := b.isLt; omega
theorem fmaFp64 (r : Rm) (nw : Bool) (d : Reg) (a : Reg) (b : Reg) : Statement (.fmaFp64 r nw d a b) := by
  simp only [Statement, Instr.encodeNat]; have := rm_code r; have := Bool.toNat_lt nw; have := d.isLt; have := a.isLt; have := b.isLt; omega
theorem fnmaFp64 (r : Rm) (nw : Bool) (d : Reg) (a : Reg) (b : Reg) : Statement (.fnmaFp64 r nw d a b) := by
  simp only [Statement, Instr.encodeNat]; have := rm_code r; have := Bool.toNat_lt nw; have := d.isLt; have := a.isLt; have := b.isLt; omega
theorem fsclFp64 (r : Rm) (nw : Bool) (d : Reg) (a : Reg) (b : Reg) : Statement (.fsclFp64 r nw d a b) := by
  simp only [Statement, Instr.encodeNat]; have := rm_code r; have := Bool.toNat_lt nw; have := d.isLt; have := a.isLt; have := b.isLt; omega
theorem fsqrtFp64 (r : Rm) (nw : Bool) (d : Reg) (a : Reg) : Statement (.fsqrtFp64 r nw d a) := by
  simp only [Statement, Instr.encodeNat]; have := rm_code r; have := Bool.toNat_lt nw; have := d.isLt; have := a.isLt; omega
theorem frndFp64 (r : Rm) (nw : Bool) (d : Reg) (a : Reg) : Statement (.frndFp64 r nw d a) := by
  simp only [Statement, Instr.encodeNat]; have := rm_code r; have := Bool.toNat_lt nw; have := d.isLt; have := a.isLt; omega
theorem frndRnaFp64 (nw : Bool) (d : Reg) (a : Reg) : Statement (.frndRnaFp64 nw d a) := by
  simp only [Statement, Instr.encodeNat]; have := Bool.toNat_lt nw; have := d.isLt; have := a.isLt; omega
theorem hadd2 (t : Bool) (r : Rm) (nw : Bool) (d : Reg) (a : Reg) (b : Reg) : Statement (.hadd2 t r nw d a b) := by
  simp only [Statement, Instr.encodeNat]; have := Bool.toNat_lt t; have := rm_code r; have := Bool.toNat_lt nw; have := d.isLt; have := a.isLt; have := b.isLt; omega
theorem hmul2 (t : Bool) (r : Rm) (nw : Bool) (d : Reg) (a : Reg) (b : Reg) : Statement (.hmul2 t r nw d a b) := by
  simp only [Statement, Instr.encodeNat]; have := Bool.toNat_lt t; have := rm_code r; have := Bool.toNat_lt nw; have := d.isLt; have := a.isLt; have := b.isLt; omega
theorem hfma2 (t : Bool) (r : Rm) (nw : Bool) (d : Reg) (a : Reg) (b : Reg) : Statement (.hfma2 t r nw d a b) := by
  simp only [Statement, Instr.encodeNat]; have := Bool.toNat_lt t; have := rm_code r; have := Bool.toNat_lt nw; have := d.isLt; have := a.isLt; have := b.isLt; omega
theorem hmin2 (t : Bool) (nw : Bool) (d : Reg) (a : Reg) (b : Reg) : Statement (.hmin2 t nw d a b) := by
  simp only [Statement, Instr.encodeNat]; have := Bool.toNat_lt t; have := Bool.toNat_lt nw; have := d.isLt; have := a.isLt; have := b.isLt; omega
theorem hmax2 (t : Bool) (nw : Bool) (d : Reg) (a : Reg) (b : Reg) : Statement (.hmax2 t nw d a b) := by
  simp only [Statement, Instr.encodeNat]; have := Bool.toNat_lt t; have := Bool.toNat_lt nw; have := d.isLt; have := a.isLt; have := b.isLt; omega
theorem fmin (t : Bool) (nw : Bool) (d : Reg) (a : Reg) (b : Reg) : Statement (.fmin t nw d a b) := by
  simp only [Statement, Instr.encodeNat]; have := Bool.toNat_lt t; have := Bool.toNat_lt nw; have := d.isLt; have := a.isLt; have := b.isLt; omega
theorem fmax (t : Bool) (nw : Bool) (d : Reg) (a : Reg) (b : Reg) : Statement (.fmax t nw d a b) := by
  simp only [Statement, Instr.encodeNat]; have := Bool.toNat_lt t; have := Bool.toNat_lt nw; have := d.isLt; have := a.isLt; have := b.isLt; omega
theorem fminn (t : Bool) (nw : Bool) (d : Reg) (a : Reg) (b : Reg) : Statement (.fminn t nw d a b) := by
  simp only [Statement, Instr.encodeNat]; have := Bool.toNat_lt t; have := Bool.toNat_lt nw; have := d.isLt; have := a.isLt; have := b.isLt; omega
theorem fmaxn (t : Bool) (nw : Bool) (d : Reg) (a : Reg) (b : Reg) : Statement (.fmaxn t nw d a b) := by
  simp only [Statement, Instr.encodeNat]; have := Bool.toNat_lt t; have := Bool.toNat_lt nw; have := d.isLt; have := a.isLt; have := b.isLt; omega
theorem fabs (t : Bool) (nw : Bool) (d : Reg) (a : Reg) : Statement (.fabs t nw d a) := by
  simp only [Statement, Instr.encodeNat]; have := Bool.toNat_lt t; have := Bool.toNat_lt nw; have := d.isLt; have := a.isLt; omega
theorem fneg (t : Bool) (nw : Bool) (d : Reg) (a : Reg) : Statement (.fneg t nw d a) := by
  simp only [Statement, Instr.encodeNat]; have := Bool.toNat_lt t; have := Bool.toNat_lt nw; have := d.isLt; have := a.isLt; omega
theorem fcpys (t : Bool) (nw : Bool) (d : Reg) (a : Reg) (b : Reg) : Statement (.fcpys t nw d a b) := by
  simp only [Statement, Instr.encodeNat]; have := Bool.toNat_lt t; have := Bool.toNat_lt nw; have := d.isLt; have := a.isLt; have := b.isLt; omega
theorem fclass (t : Bool) (nw : Bool) (d : Reg) (a : Reg) : Statement (.fclass t nw d a) := by
  simp only [Statement, Instr.encodeNat]; have := Bool.toNat_lt t; have := Bool.toNat_lt nw; have := d.isLt; have := a.isLt; omega
theorem fext (t : Bool) (nw : Bool) (d : Reg) (a : Reg) : Statement (.fext t nw d a) := by
  simp only [Statement, Instr.encodeNat]; have := Bool.toNat_lt t; have := Bool.toNat_lt nw; have := d.isLt; have := a.isLt; omega
theorem fcmp (t : Bool) (c : FCond) (q : BitVec 4) (a : Reg) (b : Reg) : Statement (.fcmp t c q a b) := by
  simp only [Statement, Instr.encodeNat]; have := Bool.toNat_lt t; have := fCond_code c; have := q.isLt; have := a.isLt; have := b.isLt; omega
theorem cvt (r : Rounding) (y : NumTy) (nw : Bool) (d : Reg) (a : Reg) (s : NumTy) : Statement (.cvt r y nw d a s) := by
  simp only [Statement, Instr.encodeNat]; have := rounding_code r; have := numTy_code y; have := Bool.toNat_lt nw; have := d.isLt; have := a.isLt; have := numTy_code s; omega
theorem pack4 (r : Rounding) (y : NumTy) (nw : Bool) (d : Reg) (a : Reg) (s : NumTy) : Statement (.pack4 r y nw d a s) := by
  simp only [Statement, Instr.encodeNat]; have := rounding_code r; have := numTy_code y; have := Bool.toNat_lt nw; have := d.isLt; have := a.isLt; have := numTy_code s; omega
theorem ldo (i : BitVec 12) (z : Bool) (d : Reg) (a : Reg) : Statement (.ldo i z d a) := by
  simp only [Statement, Instr.encodeNat]; have := i.isLt; have := Bool.toNat_lt z; have := d.isLt; have := a.isLt; omega
theorem sto (i : BitVec 12) (z : Bool) (d : Reg) (a : Reg) : Statement (.sto i z d a) := by
  simp only [Statement, Instr.encodeNat]; have := i.isLt; have := Bool.toNat_lt z; have := d.isLt; have := a.isLt; omega
theorem ld (s : Space) (o : Bool) (d : Reg) (a : Reg) (t : MemTy) (c : Scope) (n : Bool) : Statement (.ld s o d a t c n) := by
  simp only [Statement, Instr.encodeNat]; have := space_code s; have := Bool.toNat_lt o; have := d.isLt; have := a.isLt; have := memTy_code t; have := scope_code c; have := Bool.toNat_lt n; omega
theorem ldv (s : Space) (o : Bool) (d : Reg) (a : Reg) (c : Scope) (n : Bool) : Statement (.ldv s o d a c n) := by
  simp only [Statement, Instr.encodeNat]; have := space_code s; have := Bool.toNat_lt o; have := d.isLt; have := a.isLt; have := scope_code c; have := Bool.toNat_lt n; omega
theorem st (s : WSpace) (o : Bool) (d : Reg) (a : Reg) (t : MemTy) (c : Scope) (n : Bool) : Statement (.st s o d a t c n) := by
  simp only [Statement, Instr.encodeNat]; have := wSpace_code s; have := Bool.toNat_lt o; have := d.isLt; have := a.isLt; have := memTy_code t; have := scope_code c; have := Bool.toNat_lt n; omega
theorem stv (s : WSpace) (o : Bool) (d : Reg) (a : Reg) (c : Scope) (n : Bool) : Statement (.stv s o d a c n) := by
  simp only [Statement, Instr.encodeNat]; have := wSpace_code s; have := Bool.toNat_lt o; have := d.isLt; have := a.isLt; have := scope_code c; have := Bool.toNat_lt n; omega
theorem ldx (z : Bool) (d : Reg) (a : Reg) (b : Reg) : Statement (.ldx z d a b) := by
  simp only [Statement, Instr.encodeNat]; have := Bool.toNat_lt z; have := d.isLt; have := a.isLt; have := b.isLt; omega
theorem stx (z : Bool) (d : Reg) (a : Reg) (b : Reg) : Statement (.stx z d a b) := by
  simp only [Statement, Instr.encodeNat]; have := Bool.toNat_lt z; have := d.isLt; have := a.isLt; have := b.isLt; omega
theorem pref (a : Reg) (s : WSpace) (n : Bool) : Statement (.pref a s n) := by
  simp only [Statement, Instr.encodeNat]; have := a.isLt; have := wSpace_code s; have := Bool.toNat_lt n; omega
theorem fence (c : Scope) (o : FenceOrder) (m : Bool) : Statement (.fence c o m) := by
  simp only [Statement, Instr.encodeNat]; have := scope_code c; have := fenceOrder_code o; have := Bool.toNat_lt m; omega
theorem mon (k : MonCmp) (z : Bool) (a : Reg) (b : Reg) : Statement (.mon k z a b) := by
  simp only [Statement, Instr.encodeNat]; have := monCmp_code k; have := Bool.toNat_lt z; have := a.isLt; have := b.isLt; omega
theorem mwait (d : Reg) (a : Reg) : Statement (.mwait d a) := by
  simp only [Statement, Instr.encodeNat]; have := d.isLt; have := a.isLt; omega
theorem atom (f : AtomOp) (d : Reg) (a : Reg) (c : Scope) (o : AtomOrder) (s : WSpace) : Statement (.atom f d a c o s) := by
  simp only [Statement, Instr.encodeNat]; have := atomOp_code f; have := d.isLt; have := a.isLt; have := scope_code c; have := atomOrder_code o; have := wSpace_code s; omega
theorem atomr (f : AtomOp) (d : Reg) (a : Reg) (c : Scope) (o : AtomOrder) (s : WSpace) : Statement (.atomr f d a c o s) := by
  simp only [Statement, Instr.encodeNat]; have := atomOp_code f; have := d.isLt; have := a.isLt; have := scope_code c; have := atomOrder_code o; have := wSpace_code s; omega
theorem matom (f : AtomOp) (d : Reg) (a : Reg) (c : Scope) (o : AtomOrder) : Statement (.matom f d a c o) := by
  simp only [Statement, Instr.encodeNat]; have := atomOp_code f; have := d.isLt; have := a.isLt; have := scope_code c; have := atomOrder_code o; omega
theorem matomr (f : AtomOp) (d : Reg) (a : Reg) (c : Scope) (o : AtomOrder) : Statement (.matomr f d a c o) := by
  simp only [Statement, Instr.encodeNat]; have := atomOp_code f; have := d.isLt; have := a.isLt; have := scope_code c; have := atomOrder_code o; omega
theorem bar (n : BitVec 4) (k : BarKind) (c : BarScope) (x : Bool) : Statement (.bar n k c x) := by
  simp only [Statement, Instr.encodeNat]; have := n.isLt; have := barKind_code k; have := barScope_code c; have := Bool.toNat_lt x; omega
theorem specx : Statement .specx := by simp only [Statement, Instr.encodeNat]; decide
theorem qw (q : BitVec 7) (a : Reg) : Statement (.qw q a) := by
  simp only [Statement, Instr.encodeNat]; have := q.isLt; have := a.isLt; omega
theorem qr (d : Reg) (q : BitVec 7) : Statement (.qr d q) := by
  simp only [Statement, Instr.encodeNat]; have := d.isLt; have := q.isLt; omega
theorem qrt (d : Reg) (q : BitVec 7) (p : BitVec 4) : Statement (.qrt d q p) := by
  simp only [Statement, Instr.encodeNat]; have := d.isLt; have := q.isLt; have := p.isLt; omega
theorem qst (d : Reg) (q : BitVec 7) : Statement (.qst d q) := by
  simp only [Statement, Instr.encodeNat]; have := d.isLt; have := q.isLt; omega
theorem tkwSrc (a : Reg) : Statement (.tkwSrc a) := by
  simp only [Statement, Instr.encodeNat]; have := a.isLt; omega
theorem tkwVis (a : Reg) : Statement (.tkwVis a) := by
  simp only [Statement, Instr.encodeNat]; have := a.isLt; omega
theorem cpy (nw : Bool) (d : Reg) (a : Reg) (h : Bool) : Statement (.cpy nw d a h) := by
  simp only [Statement, Instr.encodeNat]; have := Bool.toNat_lt nw; have := d.isLt; have := a.isLt; have := Bool.toNat_lt h; omega
theorem gat (nw : Bool) (d : Reg) (a : Reg) (h : Bool) : Statement (.gat nw d a h) := by
  simp only [Statement, Instr.encodeNat]; have := Bool.toNat_lt nw; have := d.isLt; have := a.isLt; have := Bool.toNat_lt h; omega
theorem sct (nw : Bool) (d : Reg) (a : Reg) (h : Bool) : Statement (.sct nw d a h) := by
  simp only [Statement, Instr.encodeNat]; have := Bool.toNat_lt nw; have := d.isLt; have := a.isLt; have := Bool.toNat_lt h; omega
theorem bin (nw : Bool) (d : Reg) (a : Reg) : Statement (.bin nw d a) := by
  simp only [Statement, Instr.encodeNat]; have := Bool.toNat_lt nw; have := d.isLt; have := a.isLt; omega
theorem coll (nw : Bool) (d : Reg) (a : Reg) (h : Bool) : Statement (.coll nw d a h) := by
  simp only [Statement, Instr.encodeNat]; have := Bool.toNat_lt nw; have := d.isLt; have := a.isLt; have := Bool.toNat_lt h; omega
theorem shape (d : Reg) (a : Reg) : Statement (.shape d a) := by
  simp only [Statement, Instr.encodeNat]; have := d.isLt; have := a.isLt; omega
theorem mxls (nw : Bool) (d : Reg) (a : Reg) : Statement (.mxls nw d a) := by
  simp only [Statement, Instr.encodeNat]; have := Bool.toNat_lt nw; have := d.isLt; have := a.isLt; omega
theorem mxsw : Statement .mxsw := by simp only [Statement, Instr.encodeNat]; decide
theorem mxgo (nw : Bool) (d : Reg) (a : Reg) : Statement (.mxgo nw d a) := by
  simp only [Statement, Instr.encodeNat]; have := Bool.toNat_lt nw; have := d.isLt; have := a.isLt; omega
theorem mxrd (d : Reg) (a : Reg) : Statement (.mxrd d a) := by
  simp only [Statement, Instr.encodeNat]; have := d.isLt; have := a.isLt; omega
theorem mxz (a : Reg) : Statement (.mxz a) := by
  simp only [Statement, Instr.encodeNat]; have := a.isLt; omega
theorem mxst (nw : Bool) (d : Reg) (a : Reg) : Statement (.mxst nw d a) := by
  simp only [Statement, Instr.encodeNat]; have := Bool.toNat_lt nw; have := d.isLt; have := a.isLt; omega
theorem tidw (a : Reg) (b : Reg) : Statement (.tidw a b) := by
  simp only [Statement, Instr.encodeNat]; have := a.isLt; have := b.isLt; omega
theorem tidr (a : Reg) (b : Reg) : Statement (.tidr a b) := by
  simp only [Statement, Instr.encodeNat]; have := a.isLt; have := b.isLt; omega
theorem handlerEntry (g : Nat) (w : Nat) : Statement (.handlerEntry g w) := by simp only [Statement, Instr.encodeNat]; decide
theorem joinRelease (g : Nat) (w : Nat) (e : Nat) : Statement (.joinRelease g w e) := by simp only [Statement, Instr.encodeNat]; decide
theorem illegalInstruction (w : BitVec 32) : Statement (.illegalInstruction w) := by simp only [Statement, Instr.encodeNat]; decide
theorem fetchFault (g : Nat) (w : Nat) : Statement (.fetchFault g w) := by simp only [Statement, Instr.encodeNat]; decide
theorem flagFall (l : Nat) (st : Nat) : Statement (.flagFall l st) := by simp only [Statement, Instr.encodeNat]; decide
theorem deadlineKill (l : Nat) (st : Nat) : Statement (.deadlineKill l st) := by simp only [Statement, Instr.encodeNat]; decide
theorem dispatcherFlagFall (l : Nat) : Statement (.dispatcherFlagFall l) := by simp only [Statement, Instr.encodeNat]; decide
theorem waveRetire (g : Nat) (w : Nat) : Statement (.waveRetire g w) := by simp only [Statement, Instr.encodeNat]; decide
theorem gangRetire (g : Nat) : Statement (.gangRetire g) := by simp only [Statement, Instr.encodeNat]; decide
theorem yieldHoldExpiry (g : Nat) (w : Nat) : Statement (.yieldHoldExpiry g w) := by simp only [Statement, Instr.encodeNat]; decide
theorem issueAgePromotion (g : Nat) (w : Nat) : Statement (.issueAgePromotion g w) := by simp only [Statement, Instr.encodeNat]; decide
theorem parkWave (g : Nat) (w : Nat) : Statement (.parkWave g w) := by simp only [Statement, Instr.encodeNat]; decide
theorem recallWave (g : Nat) (w : Nat) : Statement (.recallWave g w) := by simp only [Statement, Instr.encodeNat]; decide
theorem watchdogExpiry (g : Nat) (w : Nat) : Statement (.watchdogExpiry g w) := by simp only [Statement, Instr.encodeNat]; decide
theorem loadReply (g : Nat) (w : Nat) (k : Nat) : Statement (.loadReply g w k) := by simp only [Statement, Instr.encodeNat]; decide
theorem storeAck (g : Nat) (w : Nat) : Statement (.storeAck g w) := by simp only [Statement, Instr.encodeNat]; decide
theorem matomPerform (k : Nat) : Statement (.matomPerform k) := by simp only [Statement, Instr.encodeNat]; decide
theorem mwaitRecheck (g : Nat) (w : Nat) (e : Nat) : Statement (.mwaitRecheck g w e) := by simp only [Statement, Instr.encodeNat]; decide
theorem mwaitTimeout (g : Nat) (w : Nat) (e : Nat) : Statement (.mwaitTimeout g w e) := by simp only [Statement, Instr.encodeNat]; decide
theorem haltLineArrival (st : Nat) : Statement (.haltLineArrival st) := by simp only [Statement, Instr.encodeNat]; decide
theorem haltClear (st : Nat) : Statement (.haltClear st) := by simp only [Statement, Instr.encodeNat]; decide
theorem dispatchRound (p : Nat) : Statement (.dispatchRound p) := by simp only [Statement, Instr.encodeNat]; decide
theorem stackDispatchGang (st : Nat) : Statement (.stackDispatchGang st) := by simp only [Statement, Instr.encodeNat]; decide
theorem reservationAttempt (r : Nat) : Statement (.reservationAttempt r) := by simp only [Statement, Instr.encodeNat]; decide
theorem reservationBackoffExpiry (r : Nat) : Statement (.reservationBackoffExpiry r) := by simp only [Statement, Instr.encodeNat]; decide
theorem poolRecordTake (p : Nat) : Statement (.poolRecordTake p) := by simp only [Statement, Instr.encodeNat]; decide
theorem poolDrainFlush (p : Nat) : Statement (.poolDrainFlush p) := by simp only [Statement, Instr.encodeNat]; decide
theorem completionRecordWrite (l : Nat) : Statement (.completionRecordWrite l) := by simp only [Statement, Instr.encodeNat]; decide
theorem engineCommandStart (c : Nat) : Statement (.engineCommandStart c) := by simp only [Statement, Instr.encodeNat]; decide
theorem engineSourceRead (c : Nat) : Statement (.engineSourceRead c) := by simp only [Statement, Instr.encodeNat]; decide
theorem engineComplete (c : Nat) : Statement (.engineComplete c) := by simp only [Statement, Instr.encodeNat]; decide
theorem collChunkDelivered (c : Nat) : Statement (.collChunkDelivered c) := by simp only [Statement, Instr.encodeNat]; decide
theorem matrixOpStart (m : Nat) : Statement (.matrixOpStart m) := by simp only [Statement, Instr.encodeNat]; decide
theorem matrixFetchPageMiss (m : Nat) : Statement (.matrixFetchPageMiss m) := by simp only [Statement, Instr.encodeNat]; decide
theorem matrixOpComplete (m : Nat) (t : SelfTest) : Statement (.matrixOpComplete m t) := by simp only [Statement, Instr.encodeNat]; decide
theorem selfTestPeriodic (st : Nat) (sub : Nat) (t : SelfTest) : Statement (.selfTestPeriodic st sub t) := by simp only [Statement, Instr.encodeNat]; decide
theorem kick (port : Nat) (q : Nat) (bytes : Nat) (v : Nat) : Statement (.kick port q bytes v) := by simp only [Statement, Instr.encodeNat]; decide
theorem packetFetch (q : Nat) : Statement (.packetFetch q) := by simp only [Statement, Instr.encodeNat]; decide
theorem markReread (q : Nat) : Statement (.markReread q) := by simp only [Statement, Instr.encodeNat]; decide
theorem bodyCheckRetry (q : Nat) : Statement (.bodyCheckRetry q) := by simp only [Statement, Instr.encodeNat]; decide
theorem launchPacket (q : Nat) : Statement (.launchPacket q) := by simp only [Statement, Instr.encodeNat]; decide
theorem continuationPacket (q : Nat) : Statement (.continuationPacket q) := by simp only [Statement, Instr.encodeNat]; decide
theorem enginePacket (q : Nat) : Statement (.enginePacket q) := by simp only [Statement, Instr.encodeNat]; decide
theorem waitPacket (q : Nat) : Statement (.waitPacket q) := by simp only [Statement, Instr.encodeNat]; decide
theorem waitReread (q : Nat) (i : Nat) : Statement (.waitReread q i) := by simp only [Statement, Instr.encodeNat]; decide
theorem signalPacket (q : Nat) : Statement (.signalPacket q) := by simp only [Statement, Instr.encodeNat]; decide
theorem graphPacket (q : Nat) : Statement (.graphPacket q) := by simp only [Statement, Instr.encodeNat]; decide
theorem graphNodeStart (q : Nat) (i : Nat) : Statement (.graphNodeStart q i) := by simp only [Statement, Instr.encodeNat]; decide
theorem notifyPacket (q : Nat) : Statement (.notifyPacket q) := by simp only [Statement, Instr.encodeNat]; decide
theorem notifyTakenReread (q : Nat) (i : Nat) : Statement (.notifyTakenReread q i) := by simp only [Statement, Instr.encodeNat]; decide
theorem notifyTimeInterrupt (ring : Nat) : Statement (.notifyTimeInterrupt ring) := by simp only [Statement, Instr.encodeNat]; decide
theorem dependenceReread (l : Nat) : Statement (.dependenceReread l) := by simp only [Statement, Instr.encodeNat]; decide
theorem evringWrite (st : Nat) (n : Nat) (v : Nat) : Statement (.evringWrite st n v) := by simp only [Statement, Instr.encodeNat]; decide
theorem sdmodeWrite (st : Nat) (v : Nat) : Statement (.sdmodeWrite st v) := by simp only [Statement, Instr.encodeNat]; decide
theorem sdmodeTakeEffect (st : Nat) : Statement (.sdmodeTakeEffect st) := by simp only [Statement, Instr.encodeNat]; decide
theorem cpLoad (cp : Nat) (done : Bool) : Statement (.cpLoad cp done) := by simp only [Statement, Instr.encodeNat]; decide
theorem cpCastle : Statement .cpCastle := by simp only [Statement, Instr.encodeNat]; decide
theorem cpPowerOff : Statement .cpPowerOff := by simp only [Statement, Instr.encodeNat]; decide
theorem castlingImport (errors : Nat) : Statement (.castlingImport errors) := by simp only [Statement, Instr.encodeNat]; decide
theorem castlingTimeout : Statement .castlingTimeout := by simp only [Statement, Instr.encodeNat]; decide
theorem createContext (q : Nat) : Statement (.createContext q) := by simp only [Statement, Instr.encodeNat]; decide
theorem destroyContext (q : Nat) : Statement (.destroyContext q) := by simp only [Statement, Instr.encodeNat]; decide
theorem registerQueue (q : Nat) : Statement (.registerQueue q) := by simp only [Statement, Instr.encodeNat]; decide
theorem resetQueue (q : Nat) : Statement (.resetQueue q) := by simp only [Statement, Instr.encodeNat]; decide
theorem preempt (q : Nat) : Statement (.preempt q) := by simp only [Statement, Instr.encodeNat]; decide
theorem drainBoundExpiry (ctx : Nat) : Statement (.drainBoundExpiry ctx) := by simp only [Statement, Instr.encodeNat]; decide
theorem evictBoundExpiry (ctx : Nat) : Statement (.evictBoundExpiry ctx) := by simp only [Statement, Instr.encodeNat]; decide
theorem resume (q : Nat) : Statement (.resume q) := by simp only [Statement, Instr.encodeNat]; decide
theorem gangRestore (g : Nat) (st : Nat) : Statement (.gangRestore g st) := by simp only [Statement, Instr.encodeNat]; decide
theorem invalidate (q : Nat) : Statement (.invalidate q) := by simp only [Statement, Instr.encodeNat]; decide
theorem invalidationAck (q : Nat) (st : Nat) : Statement (.invalidationAck q st) := by simp only [Statement, Instr.encodeNat]; decide
theorem resolve (q : Nat) : Statement (.resolve q) := by simp only [Statement, Instr.encodeNat]; decide
theorem refuse (q : Nat) : Statement (.refuse q) := by simp only [Statement, Instr.encodeNat]; decide
theorem migratePage (q : Nat) : Statement (.migratePage q) := by simp only [Statement, Instr.encodeNat]; decide
theorem rebuildChannel (q : Nat) : Statement (.rebuildChannel q) := by simp only [Statement, Instr.encodeNat]; decide
theorem rebuildStep (st : Nat) (errors : List (Nat × Nat)) : Statement (.rebuildStep st errors) := by simp only [Statement, Instr.encodeNat]; decide
theorem beginLayerMapOut (q : Nat) : Statement (.beginLayerMapOut q) := by simp only [Statement, Instr.encodeNat]; decide
theorem confirmLayerRemoval (q : Nat) : Statement (.confirmLayerRemoval q) := by simp only [Statement, Instr.encodeNat]; decide
theorem mapOutCopyStep (st : Nat) (errors : List (Nat × Nat)) : Statement (.mapOutCopyStep st errors) := by simp only [Statement, Instr.encodeNat]; decide
theorem patrolScrub (st : Nat) (blk : Nat) (errors : List (Nat × Nat)) : Statement (.patrolScrub st blk errors) := by simp only [Statement, Instr.encodeNat]; decide
theorem bankModeWrite (st : Nat) (cl : Nat) (bank : Nat) (v : Nat) : Statement (.bankModeWrite st cl bank v) := by simp only [Statement, Instr.encodeNat]; decide
theorem bankModeChangeComplete (st : Nat) (cl : Nat) (bank : Nat) : Statement (.bankModeChangeComplete st cl bank) := by simp only [Statement, Instr.encodeNat]; decide
theorem partitionEnable (st : Nat) (v : Nat) : Statement (.partitionEnable st v) := by simp only [Statement, Instr.encodeNat]; decide
theorem scrubComplete (st : Nat) (aq : Nat) (desc : Nat) : Statement (.scrubComplete st aq desc) := by simp only [Statement, Instr.encodeNat]; decide
theorem ringTransfer (src : Nat) (dst : Nat) : Statement (.ringTransfer src dst) := by simp only [Statement, Instr.encodeNat]; decide
theorem hostMemRequest (st : Nat) (wr : Bool) (own : Bool) (addr : Nat) (size : Nat) (data : Nat) (poison : Bool) : Statement (.hostMemRequest st wr own addr size data poison) := by simp only [Statement, Instr.encodeNat]; decide
theorem backInvalidationResponse (st : Nat) (line : Nat) (dirty : Bool) (data : Nat) (poison : Bool) : Statement (.backInvalidationResponse st line dirty data poison) := by simp only [Statement, Instr.encodeNat]; decide
theorem hostSnoop (st : Nat) (line : Nat) (inv : Bool) (off : Nat) (size : Nat) (data : Nat) (poison : Bool) : Statement (.hostSnoop st line inv off size data poison) := by simp only [Statement, Instr.encodeNat]; decide
theorem linkDown (st : Nat) : Statement (.linkDown st) := by simp only [Statement, Instr.encodeNat]; decide
theorem viralReceived (st : Nat) : Statement (.viralReceived st) := by simp only [Statement, Instr.encodeNat]; decide
theorem completionTimeout (x : Outstanding) : Statement (.completionTimeout x) := by simp only [Statement, Instr.encodeNat]; decide
theorem routeFreeze (st : Nat) : Statement (.routeFreeze st) := by simp only [Statement, Instr.encodeNat]; decide
theorem routeUnfreeze (st : Nat) (retired : Nat) : Statement (.routeUnfreeze st retired) := by simp only [Statement, Instr.encodeNat]; decide
theorem ptmExchange (st : Nat) (master : Nat) : Statement (.ptmExchange st master) := by simp only [Statement, Instr.encodeNat]; decide
theorem ptmHoldoverTimeout (st : Nat) : Statement (.ptmHoldoverTimeout st) := by simp only [Statement, Instr.encodeNat]; decide
theorem governorTick (st : Nat) (td : Nat) (tl : Nat) : Statement (.governorTick st td tl) := by simp only [Statement, Instr.encodeNat]; decide
theorem powerUp (st : Nat) : Statement (.powerUp st) := by simp only [Statement, Instr.encodeNat]; decide
theorem bootLoadConfig (st : Nat) (done : Bool) : Statement (.bootLoadConfig st done) := by simp only [Statement, Instr.encodeNat]; decide
theorem idpubReceived (st : Nat) : Statement (.idpubReceived st) := by simp only [Statement, Instr.encodeNat]; decide
theorem idpubTimeout (st : Nat) : Statement (.idpubTimeout st) := by simp only [Statement, Instr.encodeNat]; decide
theorem bootProduceQuote (st : Nat) : Statement (.bootProduceQuote st) := by simp only [Statement, Instr.encodeNat]; decide
theorem quoteWriteComplete (st : Nat) (ok : Bool) : Statement (.quoteWriteComplete st ok) := by simp only [Statement, Instr.encodeNat]; decide
theorem capbaseWrite (st : Nat) (v : Nat) : Statement (.capbaseWrite st v) := by simp only [Statement, Instr.encodeNat]; decide
theorem registerWrite (st : Nat) (off : Nat) (v : Nat) : Statement (.registerWrite st off v) := by simp only [Statement, Instr.encodeNat]; decide
theorem savedGangDeadline (g : Nat) : Statement (.savedGangDeadline g) := by simp only [Statement, Instr.encodeNat]; decide
theorem linkUp (st : Nat) : Statement (.linkUp st) := by simp only [Statement, Instr.encodeNat]; decide

end Sys2Proof.Laws.Encoding
end

