-- ==== Sys2Proof/Laws/State.lean ====
section
/-! SUPPORT. Every named update of the state, read back field by field: one lemma for each field, true by definition,
so that no proof unfolds a record update. -/
set_option Elab.async false
namespace Sys2Proof.Machine

/-! ### State.modStack -/

@[simp] theorem State.modStack_agenda (s : State) (st : Nat) (f : Stack → Stack) : (s.modStack st f).agenda = s.agenda := rfl
@[simp] theorem State.modStack_tick (s : State) (st : Nat) (f : Stack → Stack) : (s.modStack st f).tick = s.tick := rfl
@[simp] theorem State.modStack_master (s : State) (st : Nat) (f : Stack → Stack) : (s.modStack st f).master = s.master := rfl
@[simp] theorem State.modStack_cur (s : State) (st : Nat) (f : Stack → Stack) : (s.modStack st f).cur = s.cur := rfl
@[simp] theorem State.modStack_mem (s : State) (st : Nat) (f : Stack → Stack) : (s.modStack st f).mem = s.mem := rfl
@[simp] theorem State.modStack_poison (s : State) (st : Nat) (f : Stack → Stack) : (s.modStack st f).poison = s.poison := rfl
@[simp] theorem State.modStack_history (s : State) (st : Nat) (f : Stack → Stack) : (s.modStack st f).history = s.history := rfl
@[simp] theorem State.modStack_fences (s : State) (st : Nat) (f : Stack → Stack) : (s.modStack st f).fences = s.fences := rfl
@[simp] theorem State.modStack_cpKnow (s : State) (st : Nat) (f : Stack → Stack) : (s.modStack st f).cpKnow = s.cpKnow := rfl
@[simp] theorem State.modStack_hostKnow (s : State) (st : Nat) (f : Stack → Stack) : (s.modStack st f).hostKnow = s.hostKnow := rfl
@[simp] theorem State.modStack_partitions (s : State) (st : Nat) (f : Stack → Stack) : (s.modStack st f).partitions = s.partitions := rfl
@[simp] theorem State.modStack_contexts (s : State) (st : Nat) (f : Stack → Stack) : (s.modStack st f).contexts = s.contexts := rfl
@[simp] theorem State.modStack_queues (s : State) (st : Nat) (f : Stack → Stack) : (s.modStack st f).queues = s.queues := rfl
@[simp] theorem State.modStack_launches (s : State) (st : Nat) (f : Stack → Stack) : (s.modStack st f).launches = s.launches := rfl
@[simp] theorem State.modStack_gangs (s : State) (st : Nat) (f : Stack → Stack) : (s.modStack st f).gangs = s.gangs := rfl
@[simp] theorem State.modStack_commands (s : State) (st : Nat) (f : Stack → Stack) : (s.modStack st f).commands = s.commands := rfl
@[simp] theorem State.modStack_mxops (s : State) (st : Nat) (f : Stack → Stack) : (s.modStack st f).mxops = s.mxops := rfl
@[simp] theorem State.modStack_matoms (s : State) (st : Nat) (f : Stack → Stack) : (s.modStack st f).matoms = s.matoms := rfl
@[simp] theorem State.modStack_pools (s : State) (st : Nat) (f : Stack → Stack) : (s.modStack st f).pools = s.pools := rfl
@[simp] theorem State.modStack_rings (s : State) (st : Nat) (f : Stack → Stack) : (s.modStack st f).rings = s.rings := rfl
@[simp] theorem State.modStack_devLines (s : State) (st : Nat) (f : Stack → Stack) : (s.modStack st f).devLines = s.devLines := rfl
@[simp] theorem State.modStack_reservations (s : State) (st : Nat) (f : Stack → Stack) : (s.modStack st f).reservations = s.reservations := rfl
@[simp] theorem State.modStack_invalidations (s : State) (st : Nat) (f : Stack → Stack) : (s.modStack st f).invalidations = s.invalidations := rfl
@[simp] theorem State.modStack_nextId (s : State) (st : Nat) (f : Stack → Stack) : (s.modStack st f).nextId = s.nextId := rfl
@[simp] theorem State.modStack_seq (s : State) (st : Nat) (f : Stack → Stack) : (s.modStack st f).seq = s.seq := rfl
@[simp] theorem State.modStack_castling (s : State) (st : Nat) (f : Stack → Stack) : (s.modStack st f).castling = s.castling := rfl
@[simp] theorem State.modStack_waitingEvents (s : State) (st : Nat) (f : Stack → Stack) : (s.modStack st f).waitingEvents = s.waitingEvents := rfl
@[simp] theorem State.modStack_msix (s : State) (st : Nat) (f : Stack → Stack) : (s.modStack st f).msix = s.msix := rfl

/-! ### State.modPartition -/

@[simp] theorem State.modPartition_agenda (s : State) (p : Nat) (f : Partition → Partition) : (s.modPartition p f).agenda = s.agenda := rfl
@[simp] theorem State.modPartition_tick (s : State) (p : Nat) (f : Partition → Partition) : (s.modPartition p f).tick = s.tick := rfl
@[simp] theorem State.modPartition_master (s : State) (p : Nat) (f : Partition → Partition) : (s.modPartition p f).master = s.master := rfl
@[simp] theorem State.modPartition_cur (s : State) (p : Nat) (f : Partition → Partition) : (s.modPartition p f).cur = s.cur := rfl
@[simp] theorem State.modPartition_mem (s : State) (p : Nat) (f : Partition → Partition) : (s.modPartition p f).mem = s.mem := rfl
@[simp] theorem State.modPartition_poison (s : State) (p : Nat) (f : Partition → Partition) : (s.modPartition p f).poison = s.poison := rfl
@[simp] theorem State.modPartition_history (s : State) (p : Nat) (f : Partition → Partition) : (s.modPartition p f).history = s.history := rfl
@[simp] theorem State.modPartition_fences (s : State) (p : Nat) (f : Partition → Partition) : (s.modPartition p f).fences = s.fences := rfl
@[simp] theorem State.modPartition_cpKnow (s : State) (p : Nat) (f : Partition → Partition) : (s.modPartition p f).cpKnow = s.cpKnow := rfl
@[simp] theorem State.modPartition_hostKnow (s : State) (p : Nat) (f : Partition → Partition) : (s.modPartition p f).hostKnow = s.hostKnow := rfl
@[simp] theorem State.modPartition_stackTab (s : State) (p : Nat) (f : Partition → Partition) : (s.modPartition p f).stackTab = s.stackTab := rfl
@[simp] theorem State.modPartition_contexts (s : State) (p : Nat) (f : Partition → Partition) : (s.modPartition p f).contexts = s.contexts := rfl
@[simp] theorem State.modPartition_queues (s : State) (p : Nat) (f : Partition → Partition) : (s.modPartition p f).queues = s.queues := rfl
@[simp] theorem State.modPartition_launches (s : State) (p : Nat) (f : Partition → Partition) : (s.modPartition p f).launches = s.launches := rfl
@[simp] theorem State.modPartition_gangs (s : State) (p : Nat) (f : Partition → Partition) : (s.modPartition p f).gangs = s.gangs := rfl
@[simp] theorem State.modPartition_commands (s : State) (p : Nat) (f : Partition → Partition) : (s.modPartition p f).commands = s.commands := rfl
@[simp] theorem State.modPartition_mxops (s : State) (p : Nat) (f : Partition → Partition) : (s.modPartition p f).mxops = s.mxops := rfl
@[simp] theorem State.modPartition_matoms (s : State) (p : Nat) (f : Partition → Partition) : (s.modPartition p f).matoms = s.matoms := rfl
@[simp] theorem State.modPartition_pools (s : State) (p : Nat) (f : Partition → Partition) : (s.modPartition p f).pools = s.pools := rfl
@[simp] theorem State.modPartition_rings (s : State) (p : Nat) (f : Partition → Partition) : (s.modPartition p f).rings = s.rings := rfl
@[simp] theorem State.modPartition_devLines (s : State) (p : Nat) (f : Partition → Partition) : (s.modPartition p f).devLines = s.devLines := rfl
@[simp] theorem State.modPartition_reservations (s : State) (p : Nat) (f : Partition → Partition) : (s.modPartition p f).reservations = s.reservations := rfl
@[simp] theorem State.modPartition_invalidations (s : State) (p : Nat) (f : Partition → Partition) : (s.modPartition p f).invalidations = s.invalidations := rfl
@[simp] theorem State.modPartition_nextId (s : State) (p : Nat) (f : Partition → Partition) : (s.modPartition p f).nextId = s.nextId := rfl
@[simp] theorem State.modPartition_seq (s : State) (p : Nat) (f : Partition → Partition) : (s.modPartition p f).seq = s.seq := rfl
@[simp] theorem State.modPartition_castling (s : State) (p : Nat) (f : Partition → Partition) : (s.modPartition p f).castling = s.castling := rfl
@[simp] theorem State.modPartition_waitingEvents (s : State) (p : Nat) (f : Partition → Partition) : (s.modPartition p f).waitingEvents = s.waitingEvents := rfl
@[simp] theorem State.modPartition_msix (s : State) (p : Nat) (f : Partition → Partition) : (s.modPartition p f).msix = s.msix := rfl

/-! ### State.modGang -/

@[simp] theorem State.modGang_agenda (s : State) (g : Nat) (f : Gang → Gang) : (s.modGang g f).agenda = s.agenda := rfl
@[simp] theorem State.modGang_tick (s : State) (g : Nat) (f : Gang → Gang) : (s.modGang g f).tick = s.tick := rfl
@[simp] theorem State.modGang_master (s : State) (g : Nat) (f : Gang → Gang) : (s.modGang g f).master = s.master := rfl
@[simp] theorem State.modGang_cur (s : State) (g : Nat) (f : Gang → Gang) : (s.modGang g f).cur = s.cur := rfl
@[simp] theorem State.modGang_mem (s : State) (g : Nat) (f : Gang → Gang) : (s.modGang g f).mem = s.mem := rfl
@[simp] theorem State.modGang_poison (s : State) (g : Nat) (f : Gang → Gang) : (s.modGang g f).poison = s.poison := rfl
@[simp] theorem State.modGang_history (s : State) (g : Nat) (f : Gang → Gang) : (s.modGang g f).history = s.history := rfl
@[simp] theorem State.modGang_fences (s : State) (g : Nat) (f : Gang → Gang) : (s.modGang g f).fences = s.fences := rfl
@[simp] theorem State.modGang_cpKnow (s : State) (g : Nat) (f : Gang → Gang) : (s.modGang g f).cpKnow = s.cpKnow := rfl
@[simp] theorem State.modGang_hostKnow (s : State) (g : Nat) (f : Gang → Gang) : (s.modGang g f).hostKnow = s.hostKnow := rfl
@[simp] theorem State.modGang_stackTab (s : State) (g : Nat) (f : Gang → Gang) : (s.modGang g f).stackTab = s.stackTab := rfl
@[simp] theorem State.modGang_partitions (s : State) (g : Nat) (f : Gang → Gang) : (s.modGang g f).partitions = s.partitions := rfl
@[simp] theorem State.modGang_contexts (s : State) (g : Nat) (f : Gang → Gang) : (s.modGang g f).contexts = s.contexts := rfl
@[simp] theorem State.modGang_queues (s : State) (g : Nat) (f : Gang → Gang) : (s.modGang g f).queues = s.queues := rfl
@[simp] theorem State.modGang_launches (s : State) (g : Nat) (f : Gang → Gang) : (s.modGang g f).launches = s.launches := rfl
@[simp] theorem State.modGang_commands (s : State) (g : Nat) (f : Gang → Gang) : (s.modGang g f).commands = s.commands := rfl
@[simp] theorem State.modGang_mxops (s : State) (g : Nat) (f : Gang → Gang) : (s.modGang g f).mxops = s.mxops := rfl
@[simp] theorem State.modGang_matoms (s : State) (g : Nat) (f : Gang → Gang) : (s.modGang g f).matoms = s.matoms := rfl
@[simp] theorem State.modGang_pools (s : State) (g : Nat) (f : Gang → Gang) : (s.modGang g f).pools = s.pools := rfl
@[simp] theorem State.modGang_rings (s : State) (g : Nat) (f : Gang → Gang) : (s.modGang g f).rings = s.rings := rfl
@[simp] theorem State.modGang_devLines (s : State) (g : Nat) (f : Gang → Gang) : (s.modGang g f).devLines = s.devLines := rfl
@[simp] theorem State.modGang_reservations (s : State) (g : Nat) (f : Gang → Gang) : (s.modGang g f).reservations = s.reservations := rfl
@[simp] theorem State.modGang_invalidations (s : State) (g : Nat) (f : Gang → Gang) : (s.modGang g f).invalidations = s.invalidations := rfl
@[simp] theorem State.modGang_nextId (s : State) (g : Nat) (f : Gang → Gang) : (s.modGang g f).nextId = s.nextId := rfl
@[simp] theorem State.modGang_seq (s : State) (g : Nat) (f : Gang → Gang) : (s.modGang g f).seq = s.seq := rfl
@[simp] theorem State.modGang_castling (s : State) (g : Nat) (f : Gang → Gang) : (s.modGang g f).castling = s.castling := rfl
@[simp] theorem State.modGang_waitingEvents (s : State) (g : Nat) (f : Gang → Gang) : (s.modGang g f).waitingEvents = s.waitingEvents := rfl
@[simp] theorem State.modGang_msix (s : State) (g : Nat) (f : Gang → Gang) : (s.modGang g f).msix = s.msix := rfl

/-! ### State.modWave -/

@[simp] theorem State.modWave_agenda (s : State) (g w : Nat) (f : Wave → Wave) : (s.modWave g w f).agenda = s.agenda := rfl
@[simp] theorem State.modWave_tick (s : State) (g w : Nat) (f : Wave → Wave) : (s.modWave g w f).tick = s.tick := rfl
@[simp] theorem State.modWave_master (s : State) (g w : Nat) (f : Wave → Wave) : (s.modWave g w f).master = s.master := rfl
@[simp] theorem State.modWave_cur (s : State) (g w : Nat) (f : Wave → Wave) : (s.modWave g w f).cur = s.cur := rfl
@[simp] theorem State.modWave_mem (s : State) (g w : Nat) (f : Wave → Wave) : (s.modWave g w f).mem = s.mem := rfl
@[simp] theorem State.modWave_poison (s : State) (g w : Nat) (f : Wave → Wave) : (s.modWave g w f).poison = s.poison := rfl
@[simp] theorem State.modWave_history (s : State) (g w : Nat) (f : Wave → Wave) : (s.modWave g w f).history = s.history := rfl
@[simp] theorem State.modWave_fences (s : State) (g w : Nat) (f : Wave → Wave) : (s.modWave g w f).fences = s.fences := rfl
@[simp] theorem State.modWave_cpKnow (s : State) (g w : Nat) (f : Wave → Wave) : (s.modWave g w f).cpKnow = s.cpKnow := rfl
@[simp] theorem State.modWave_hostKnow (s : State) (g w : Nat) (f : Wave → Wave) : (s.modWave g w f).hostKnow = s.hostKnow := rfl
@[simp] theorem State.modWave_stackTab (s : State) (g w : Nat) (f : Wave → Wave) : (s.modWave g w f).stackTab = s.stackTab := rfl
@[simp] theorem State.modWave_partitions (s : State) (g w : Nat) (f : Wave → Wave) : (s.modWave g w f).partitions = s.partitions := rfl
@[simp] theorem State.modWave_contexts (s : State) (g w : Nat) (f : Wave → Wave) : (s.modWave g w f).contexts = s.contexts := rfl
@[simp] theorem State.modWave_queues (s : State) (g w : Nat) (f : Wave → Wave) : (s.modWave g w f).queues = s.queues := rfl
@[simp] theorem State.modWave_launches (s : State) (g w : Nat) (f : Wave → Wave) : (s.modWave g w f).launches = s.launches := rfl
@[simp] theorem State.modWave_commands (s : State) (g w : Nat) (f : Wave → Wave) : (s.modWave g w f).commands = s.commands := rfl
@[simp] theorem State.modWave_mxops (s : State) (g w : Nat) (f : Wave → Wave) : (s.modWave g w f).mxops = s.mxops := rfl
@[simp] theorem State.modWave_matoms (s : State) (g w : Nat) (f : Wave → Wave) : (s.modWave g w f).matoms = s.matoms := rfl
@[simp] theorem State.modWave_pools (s : State) (g w : Nat) (f : Wave → Wave) : (s.modWave g w f).pools = s.pools := rfl
@[simp] theorem State.modWave_rings (s : State) (g w : Nat) (f : Wave → Wave) : (s.modWave g w f).rings = s.rings := rfl
@[simp] theorem State.modWave_devLines (s : State) (g w : Nat) (f : Wave → Wave) : (s.modWave g w f).devLines = s.devLines := rfl
@[simp] theorem State.modWave_reservations (s : State) (g w : Nat) (f : Wave → Wave) : (s.modWave g w f).reservations = s.reservations := rfl
@[simp] theorem State.modWave_invalidations (s : State) (g w : Nat) (f : Wave → Wave) : (s.modWave g w f).invalidations = s.invalidations := rfl
@[simp] theorem State.modWave_nextId (s : State) (g w : Nat) (f : Wave → Wave) : (s.modWave g w f).nextId = s.nextId := rfl
@[simp] theorem State.modWave_seq (s : State) (g w : Nat) (f : Wave → Wave) : (s.modWave g w f).seq = s.seq := rfl
@[simp] theorem State.modWave_castling (s : State) (g w : Nat) (f : Wave → Wave) : (s.modWave g w f).castling = s.castling := rfl
@[simp] theorem State.modWave_waitingEvents (s : State) (g w : Nat) (f : Wave → Wave) : (s.modWave g w f).waitingEvents = s.waitingEvents := rfl
@[simp] theorem State.modWave_msix (s : State) (g w : Nat) (f : Wave → Wave) : (s.modWave g w f).msix = s.msix := rfl

/-! ### State.setWave -/

@[simp] theorem State.setWave_agenda (s : State) (g w : Nat) (v : Wave) : (s.setWave g w v).agenda = s.agenda := rfl
@[simp] theorem State.setWave_tick (s : State) (g w : Nat) (v : Wave) : (s.setWave g w v).tick = s.tick := rfl
@[simp] theorem State.setWave_master (s : State) (g w : Nat) (v : Wave) : (s.setWave g w v).master = s.master := rfl
@[simp] theorem State.setWave_cur (s : State) (g w : Nat) (v : Wave) : (s.setWave g w v).cur = s.cur := rfl
@[simp] theorem State.setWave_mem (s : State) (g w : Nat) (v : Wave) : (s.setWave g w v).mem = s.mem := rfl
@[simp] theorem State.setWave_poison (s : State) (g w : Nat) (v : Wave) : (s.setWave g w v).poison = s.poison := rfl
@[simp] theorem State.setWave_history (s : State) (g w : Nat) (v : Wave) : (s.setWave g w v).history = s.history := rfl
@[simp] theorem State.setWave_fences (s : State) (g w : Nat) (v : Wave) : (s.setWave g w v).fences = s.fences := rfl
@[simp] theorem State.setWave_cpKnow (s : State) (g w : Nat) (v : Wave) : (s.setWave g w v).cpKnow = s.cpKnow := rfl
@[simp] theorem State.setWave_hostKnow (s : State) (g w : Nat) (v : Wave) : (s.setWave g w v).hostKnow = s.hostKnow := rfl
@[simp] theorem State.setWave_stackTab (s : State) (g w : Nat) (v : Wave) : (s.setWave g w v).stackTab = s.stackTab := rfl
@[simp] theorem State.setWave_partitions (s : State) (g w : Nat) (v : Wave) : (s.setWave g w v).partitions = s.partitions := rfl
@[simp] theorem State.setWave_contexts (s : State) (g w : Nat) (v : Wave) : (s.setWave g w v).contexts = s.contexts := rfl
@[simp] theorem State.setWave_queues (s : State) (g w : Nat) (v : Wave) : (s.setWave g w v).queues = s.queues := rfl
@[simp] theorem State.setWave_launches (s : State) (g w : Nat) (v : Wave) : (s.setWave g w v).launches = s.launches := rfl
@[simp] theorem State.setWave_commands (s : State) (g w : Nat) (v : Wave) : (s.setWave g w v).commands = s.commands := rfl
@[simp] theorem State.setWave_mxops (s : State) (g w : Nat) (v : Wave) : (s.setWave g w v).mxops = s.mxops := rfl
@[simp] theorem State.setWave_matoms (s : State) (g w : Nat) (v : Wave) : (s.setWave g w v).matoms = s.matoms := rfl
@[simp] theorem State.setWave_pools (s : State) (g w : Nat) (v : Wave) : (s.setWave g w v).pools = s.pools := rfl
@[simp] theorem State.setWave_rings (s : State) (g w : Nat) (v : Wave) : (s.setWave g w v).rings = s.rings := rfl
@[simp] theorem State.setWave_devLines (s : State) (g w : Nat) (v : Wave) : (s.setWave g w v).devLines = s.devLines := rfl
@[simp] theorem State.setWave_reservations (s : State) (g w : Nat) (v : Wave) : (s.setWave g w v).reservations = s.reservations := rfl
@[simp] theorem State.setWave_invalidations (s : State) (g w : Nat) (v : Wave) : (s.setWave g w v).invalidations = s.invalidations := rfl
@[simp] theorem State.setWave_nextId (s : State) (g w : Nat) (v : Wave) : (s.setWave g w v).nextId = s.nextId := rfl
@[simp] theorem State.setWave_seq (s : State) (g w : Nat) (v : Wave) : (s.setWave g w v).seq = s.seq := rfl
@[simp] theorem State.setWave_castling (s : State) (g w : Nat) (v : Wave) : (s.setWave g w v).castling = s.castling := rfl
@[simp] theorem State.setWave_waitingEvents (s : State) (g w : Nat) (v : Wave) : (s.setWave g w v).waitingEvents = s.waitingEvents := rfl
@[simp] theorem State.setWave_msix (s : State) (g w : Nat) (v : Wave) : (s.setWave g w v).msix = s.msix := rfl

/-! ### State.modLaunch -/

@[simp] theorem State.modLaunch_agenda (s : State) (l : Nat) (f : Launch → Launch) : (s.modLaunch l f).agenda = s.agenda := rfl
@[simp] theorem State.modLaunch_tick (s : State) (l : Nat) (f : Launch → Launch) : (s.modLaunch l f).tick = s.tick := rfl
@[simp] theorem State.modLaunch_master (s : State) (l : Nat) (f : Launch → Launch) : (s.modLaunch l f).master = s.master := rfl
@[simp] theorem State.modLaunch_cur (s : State) (l : Nat) (f : Launch → Launch) : (s.modLaunch l f).cur = s.cur := rfl
@[simp] theorem State.modLaunch_mem (s : State) (l : Nat) (f : Launch → Launch) : (s.modLaunch l f).mem = s.mem := rfl
@[simp] theorem State.modLaunch_poison (s : State) (l : Nat) (f : Launch → Launch) : (s.modLaunch l f).poison = s.poison := rfl
@[simp] theorem State.modLaunch_history (s : State) (l : Nat) (f : Launch → Launch) : (s.modLaunch l f).history = s.history := rfl
@[simp] theorem State.modLaunch_fences (s : State) (l : Nat) (f : Launch → Launch) : (s.modLaunch l f).fences = s.fences := rfl
@[simp] theorem State.modLaunch_cpKnow (s : State) (l : Nat) (f : Launch → Launch) : (s.modLaunch l f).cpKnow = s.cpKnow := rfl
@[simp] theorem State.modLaunch_hostKnow (s : State) (l : Nat) (f : Launch → Launch) : (s.modLaunch l f).hostKnow = s.hostKnow := rfl
@[simp] theorem State.modLaunch_stackTab (s : State) (l : Nat) (f : Launch → Launch) : (s.modLaunch l f).stackTab = s.stackTab := rfl
@[simp] theorem State.modLaunch_partitions (s : State) (l : Nat) (f : Launch → Launch) : (s.modLaunch l f).partitions = s.partitions := rfl
@[simp] theorem State.modLaunch_contexts (s : State) (l : Nat) (f : Launch → Launch) : (s.modLaunch l f).contexts = s.contexts := rfl
@[simp] theorem State.modLaunch_queues (s : State) (l : Nat) (f : Launch → Launch) : (s.modLaunch l f).queues = s.queues := rfl
@[simp] theorem State.modLaunch_gangs (s : State) (l : Nat) (f : Launch → Launch) : (s.modLaunch l f).gangs = s.gangs := rfl
@[simp] theorem State.modLaunch_commands (s : State) (l : Nat) (f : Launch → Launch) : (s.modLaunch l f).commands = s.commands := rfl
@[simp] theorem State.modLaunch_mxops (s : State) (l : Nat) (f : Launch → Launch) : (s.modLaunch l f).mxops = s.mxops := rfl
@[simp] theorem State.modLaunch_matoms (s : State) (l : Nat) (f : Launch → Launch) : (s.modLaunch l f).matoms = s.matoms := rfl
@[simp] theorem State.modLaunch_pools (s : State) (l : Nat) (f : Launch → Launch) : (s.modLaunch l f).pools = s.pools := rfl
@[simp] theorem State.modLaunch_rings (s : State) (l : Nat) (f : Launch → Launch) : (s.modLaunch l f).rings = s.rings := rfl
@[simp] theorem State.modLaunch_devLines (s : State) (l : Nat) (f : Launch → Launch) : (s.modLaunch l f).devLines = s.devLines := rfl
@[simp] theorem State.modLaunch_reservations (s : State) (l : Nat) (f : Launch → Launch) : (s.modLaunch l f).reservations = s.reservations := rfl
@[simp] theorem State.modLaunch_invalidations (s : State) (l : Nat) (f : Launch → Launch) : (s.modLaunch l f).invalidations = s.invalidations := rfl
@[simp] theorem State.modLaunch_nextId (s : State) (l : Nat) (f : Launch → Launch) : (s.modLaunch l f).nextId = s.nextId := rfl
@[simp] theorem State.modLaunch_seq (s : State) (l : Nat) (f : Launch → Launch) : (s.modLaunch l f).seq = s.seq := rfl
@[simp] theorem State.modLaunch_castling (s : State) (l : Nat) (f : Launch → Launch) : (s.modLaunch l f).castling = s.castling := rfl
@[simp] theorem State.modLaunch_waitingEvents (s : State) (l : Nat) (f : Launch → Launch) : (s.modLaunch l f).waitingEvents = s.waitingEvents := rfl
@[simp] theorem State.modLaunch_msix (s : State) (l : Nat) (f : Launch → Launch) : (s.modLaunch l f).msix = s.msix := rfl

/-! ### State.modContext -/

@[simp] theorem State.modContext_agenda (s : State) (c : Nat) (f : Context → Context) : (s.modContext c f).agenda = s.agenda := rfl
@[simp] theorem State.modContext_tick (s : State) (c : Nat) (f : Context → Context) : (s.modContext c f).tick = s.tick := rfl
@[simp] theorem State.modContext_master (s : State) (c : Nat) (f : Context → Context) : (s.modContext c f).master = s.master := rfl
@[simp] theorem State.modContext_cur (s : State) (c : Nat) (f : Context → Context) : (s.modContext c f).cur = s.cur := rfl
@[simp] theorem State.modContext_mem (s : State) (c : Nat) (f : Context → Context) : (s.modContext c f).mem = s.mem := rfl
@[simp] theorem State.modContext_poison (s : State) (c : Nat) (f : Context → Context) : (s.modContext c f).poison = s.poison := rfl
@[simp] theorem State.modContext_history (s : State) (c : Nat) (f : Context → Context) : (s.modContext c f).history = s.history := rfl
@[simp] theorem State.modContext_fences (s : State) (c : Nat) (f : Context → Context) : (s.modContext c f).fences = s.fences := rfl
@[simp] theorem State.modContext_cpKnow (s : State) (c : Nat) (f : Context → Context) : (s.modContext c f).cpKnow = s.cpKnow := rfl
@[simp] theorem State.modContext_hostKnow (s : State) (c : Nat) (f : Context → Context) : (s.modContext c f).hostKnow = s.hostKnow := rfl
@[simp] theorem State.modContext_stackTab (s : State) (c : Nat) (f : Context → Context) : (s.modContext c f).stackTab = s.stackTab := rfl
@[simp] theorem State.modContext_partitions (s : State) (c : Nat) (f : Context → Context) : (s.modContext c f).partitions = s.partitions := rfl
@[simp] theorem State.modContext_queues (s : State) (c : Nat) (f : Context → Context) : (s.modContext c f).queues = s.queues := rfl
@[simp] theorem State.modContext_launches (s : State) (c : Nat) (f : Context → Context) : (s.modContext c f).launches = s.launches := rfl
@[simp] theorem State.modContext_gangs (s : State) (c : Nat) (f : Context → Context) : (s.modContext c f).gangs = s.gangs := rfl
@[simp] theorem State.modContext_commands (s : State) (c : Nat) (f : Context → Context) : (s.modContext c f).commands = s.commands := rfl
@[simp] theorem State.modContext_mxops (s : State) (c : Nat) (f : Context → Context) : (s.modContext c f).mxops = s.mxops := rfl
@[simp] theorem State.modContext_matoms (s : State) (c : Nat) (f : Context → Context) : (s.modContext c f).matoms = s.matoms := rfl
@[simp] theorem State.modContext_pools (s : State) (c : Nat) (f : Context → Context) : (s.modContext c f).pools = s.pools := rfl
@[simp] theorem State.modContext_rings (s : State) (c : Nat) (f : Context → Context) : (s.modContext c f).rings = s.rings := rfl
@[simp] theorem State.modContext_devLines (s : State) (c : Nat) (f : Context → Context) : (s.modContext c f).devLines = s.devLines := rfl
@[simp] theorem State.modContext_reservations (s : State) (c : Nat) (f : Context → Context) : (s.modContext c f).reservations = s.reservations := rfl
@[simp] theorem State.modContext_invalidations (s : State) (c : Nat) (f : Context → Context) : (s.modContext c f).invalidations = s.invalidations := rfl
@[simp] theorem State.modContext_nextId (s : State) (c : Nat) (f : Context → Context) : (s.modContext c f).nextId = s.nextId := rfl
@[simp] theorem State.modContext_seq (s : State) (c : Nat) (f : Context → Context) : (s.modContext c f).seq = s.seq := rfl
@[simp] theorem State.modContext_castling (s : State) (c : Nat) (f : Context → Context) : (s.modContext c f).castling = s.castling := rfl
@[simp] theorem State.modContext_waitingEvents (s : State) (c : Nat) (f : Context → Context) : (s.modContext c f).waitingEvents = s.waitingEvents := rfl
@[simp] theorem State.modContext_msix (s : State) (c : Nat) (f : Context → Context) : (s.modContext c f).msix = s.msix := rfl

/-! ### State.modQueue -/

@[simp] theorem State.modQueue_agenda (s : State) (q : Nat) (f : Queue → Queue) : (s.modQueue q f).agenda = s.agenda := rfl
@[simp] theorem State.modQueue_tick (s : State) (q : Nat) (f : Queue → Queue) : (s.modQueue q f).tick = s.tick := rfl
@[simp] theorem State.modQueue_master (s : State) (q : Nat) (f : Queue → Queue) : (s.modQueue q f).master = s.master := rfl
@[simp] theorem State.modQueue_cur (s : State) (q : Nat) (f : Queue → Queue) : (s.modQueue q f).cur = s.cur := rfl
@[simp] theorem State.modQueue_mem (s : State) (q : Nat) (f : Queue → Queue) : (s.modQueue q f).mem = s.mem := rfl
@[simp] theorem State.modQueue_poison (s : State) (q : Nat) (f : Queue → Queue) : (s.modQueue q f).poison = s.poison := rfl
@[simp] theorem State.modQueue_history (s : State) (q : Nat) (f : Queue → Queue) : (s.modQueue q f).history = s.history := rfl
@[simp] theorem State.modQueue_fences (s : State) (q : Nat) (f : Queue → Queue) : (s.modQueue q f).fences = s.fences := rfl
@[simp] theorem State.modQueue_cpKnow (s : State) (q : Nat) (f : Queue → Queue) : (s.modQueue q f).cpKnow = s.cpKnow := rfl
@[simp] theorem State.modQueue_hostKnow (s : State) (q : Nat) (f : Queue → Queue) : (s.modQueue q f).hostKnow = s.hostKnow := rfl
@[simp] theorem State.modQueue_stackTab (s : State) (q : Nat) (f : Queue → Queue) : (s.modQueue q f).stackTab = s.stackTab := rfl
@[simp] theorem State.modQueue_partitions (s : State) (q : Nat) (f : Queue → Queue) : (s.modQueue q f).partitions = s.partitions := rfl
@[simp] theorem State.modQueue_contexts (s : State) (q : Nat) (f : Queue → Queue) : (s.modQueue q f).contexts = s.contexts := rfl
@[simp] theorem State.modQueue_launches (s : State) (q : Nat) (f : Queue → Queue) : (s.modQueue q f).launches = s.launches := rfl
@[simp] theorem State.modQueue_gangs (s : State) (q : Nat) (f : Queue → Queue) : (s.modQueue q f).gangs = s.gangs := rfl
@[simp] theorem State.modQueue_commands (s : State) (q : Nat) (f : Queue → Queue) : (s.modQueue q f).commands = s.commands := rfl
@[simp] theorem State.modQueue_mxops (s : State) (q : Nat) (f : Queue → Queue) : (s.modQueue q f).mxops = s.mxops := rfl
@[simp] theorem State.modQueue_matoms (s : State) (q : Nat) (f : Queue → Queue) : (s.modQueue q f).matoms = s.matoms := rfl
@[simp] theorem State.modQueue_pools (s : State) (q : Nat) (f : Queue → Queue) : (s.modQueue q f).pools = s.pools := rfl
@[simp] theorem State.modQueue_rings (s : State) (q : Nat) (f : Queue → Queue) : (s.modQueue q f).rings = s.rings := rfl
@[simp] theorem State.modQueue_devLines (s : State) (q : Nat) (f : Queue → Queue) : (s.modQueue q f).devLines = s.devLines := rfl
@[simp] theorem State.modQueue_reservations (s : State) (q : Nat) (f : Queue → Queue) : (s.modQueue q f).reservations = s.reservations := rfl
@[simp] theorem State.modQueue_invalidations (s : State) (q : Nat) (f : Queue → Queue) : (s.modQueue q f).invalidations = s.invalidations := rfl
@[simp] theorem State.modQueue_nextId (s : State) (q : Nat) (f : Queue → Queue) : (s.modQueue q f).nextId = s.nextId := rfl
@[simp] theorem State.modQueue_seq (s : State) (q : Nat) (f : Queue → Queue) : (s.modQueue q f).seq = s.seq := rfl
@[simp] theorem State.modQueue_castling (s : State) (q : Nat) (f : Queue → Queue) : (s.modQueue q f).castling = s.castling := rfl
@[simp] theorem State.modQueue_waitingEvents (s : State) (q : Nat) (f : Queue → Queue) : (s.modQueue q f).waitingEvents = s.waitingEvents := rfl
@[simp] theorem State.modQueue_msix (s : State) (q : Nat) (f : Queue → Queue) : (s.modQueue q f).msix = s.msix := rfl

/-! ### State.modCommand -/

@[simp] theorem State.modCommand_agenda (s : State) (k : Nat) (f : Command → Command) : (s.modCommand k f).agenda = s.agenda := rfl
@[simp] theorem State.modCommand_tick (s : State) (k : Nat) (f : Command → Command) : (s.modCommand k f).tick = s.tick := rfl
@[simp] theorem State.modCommand_master (s : State) (k : Nat) (f : Command → Command) : (s.modCommand k f).master = s.master := rfl
@[simp] theorem State.modCommand_cur (s : State) (k : Nat) (f : Command → Command) : (s.modCommand k f).cur = s.cur := rfl
@[simp] theorem State.modCommand_mem (s : State) (k : Nat) (f : Command → Command) : (s.modCommand k f).mem = s.mem := rfl
@[simp] theorem State.modCommand_poison (s : State) (k : Nat) (f : Command → Command) : (s.modCommand k f).poison = s.poison := rfl
@[simp] theorem State.modCommand_history (s : State) (k : Nat) (f : Command → Command) : (s.modCommand k f).history = s.history := rfl
@[simp] theorem State.modCommand_fences (s : State) (k : Nat) (f : Command → Command) : (s.modCommand k f).fences = s.fences := rfl
@[simp] theorem State.modCommand_cpKnow (s : State) (k : Nat) (f : Command → Command) : (s.modCommand k f).cpKnow = s.cpKnow := rfl
@[simp] theorem State.modCommand_hostKnow (s : State) (k : Nat) (f : Command → Command) : (s.modCommand k f).hostKnow = s.hostKnow := rfl
@[simp] theorem State.modCommand_stackTab (s : State) (k : Nat) (f : Command → Command) : (s.modCommand k f).stackTab = s.stackTab := rfl
@[simp] theorem State.modCommand_partitions (s : State) (k : Nat) (f : Command → Command) : (s.modCommand k f).partitions = s.partitions := rfl
@[simp] theorem State.modCommand_contexts (s : State) (k : Nat) (f : Command → Command) : (s.modCommand k f).contexts = s.contexts := rfl
@[simp] theorem State.modCommand_queues (s : State) (k : Nat) (f : Command → Command) : (s.modCommand k f).queues = s.queues := rfl
@[simp] theorem State.modCommand_launches (s : State) (k : Nat) (f : Command → Command) : (s.modCommand k f).launches = s.launches := rfl
@[simp] theorem State.modCommand_gangs (s : State) (k : Nat) (f : Command → Command) : (s.modCommand k f).gangs = s.gangs := rfl
@[simp] theorem State.modCommand_mxops (s : State) (k : Nat) (f : Command → Command) : (s.modCommand k f).mxops = s.mxops := rfl
@[simp] theorem State.modCommand_matoms (s : State) (k : Nat) (f : Command → Command) : (s.modCommand k f).matoms = s.matoms := rfl
@[simp] theorem State.modCommand_pools (s : State) (k : Nat) (f : Command → Command) : (s.modCommand k f).pools = s.pools := rfl
@[simp] theorem State.modCommand_rings (s : State) (k : Nat) (f : Command → Command) : (s.modCommand k f).rings = s.rings := rfl
@[simp] theorem State.modCommand_devLines (s : State) (k : Nat) (f : Command → Command) : (s.modCommand k f).devLines = s.devLines := rfl
@[simp] theorem State.modCommand_reservations (s : State) (k : Nat) (f : Command → Command) : (s.modCommand k f).reservations = s.reservations := rfl
@[simp] theorem State.modCommand_invalidations (s : State) (k : Nat) (f : Command → Command) : (s.modCommand k f).invalidations = s.invalidations := rfl
@[simp] theorem State.modCommand_nextId (s : State) (k : Nat) (f : Command → Command) : (s.modCommand k f).nextId = s.nextId := rfl
@[simp] theorem State.modCommand_seq (s : State) (k : Nat) (f : Command → Command) : (s.modCommand k f).seq = s.seq := rfl
@[simp] theorem State.modCommand_castling (s : State) (k : Nat) (f : Command → Command) : (s.modCommand k f).castling = s.castling := rfl
@[simp] theorem State.modCommand_waitingEvents (s : State) (k : Nat) (f : Command → Command) : (s.modCommand k f).waitingEvents = s.waitingEvents := rfl
@[simp] theorem State.modCommand_msix (s : State) (k : Nat) (f : Command → Command) : (s.modCommand k f).msix = s.msix := rfl

/-! ### State.delCommand -/

@[simp] theorem State.delCommand_agenda (s : State) (k : Nat) : (s.delCommand k).agenda = s.agenda := rfl
@[simp] theorem State.delCommand_tick (s : State) (k : Nat) : (s.delCommand k).tick = s.tick := rfl
@[simp] theorem State.delCommand_master (s : State) (k : Nat) : (s.delCommand k).master = s.master := rfl
@[simp] theorem State.delCommand_cur (s : State) (k : Nat) : (s.delCommand k).cur = s.cur := rfl
@[simp] theorem State.delCommand_mem (s : State) (k : Nat) : (s.delCommand k).mem = s.mem := rfl
@[simp] theorem State.delCommand_poison (s : State) (k : Nat) : (s.delCommand k).poison = s.poison := rfl
@[simp] theorem State.delCommand_history (s : State) (k : Nat) : (s.delCommand k).history = s.history := rfl
@[simp] theorem State.delCommand_fences (s : State) (k : Nat) : (s.delCommand k).fences = s.fences := rfl
@[simp] theorem State.delCommand_cpKnow (s : State) (k : Nat) : (s.delCommand k).cpKnow = s.cpKnow := rfl
@[simp] theorem State.delCommand_hostKnow (s : State) (k : Nat) : (s.delCommand k).hostKnow = s.hostKnow := rfl
@[simp] theorem State.delCommand_stackTab (s : State) (k : Nat) : (s.delCommand k).stackTab = s.stackTab := rfl
@[simp] theorem State.delCommand_partitions (s : State) (k : Nat) : (s.delCommand k).partitions = s.partitions := rfl
@[simp] theorem State.delCommand_contexts (s : State) (k : Nat) : (s.delCommand k).contexts = s.contexts := rfl
@[simp] theorem State.delCommand_queues (s : State) (k : Nat) : (s.delCommand k).queues = s.queues := rfl
@[simp] theorem State.delCommand_launches (s : State) (k : Nat) : (s.delCommand k).launches = s.launches := rfl
@[simp] theorem State.delCommand_gangs (s : State) (k : Nat) : (s.delCommand k).gangs = s.gangs := rfl
@[simp] theorem State.delCommand_mxops (s : State) (k : Nat) : (s.delCommand k).mxops = s.mxops := rfl
@[simp] theorem State.delCommand_matoms (s : State) (k : Nat) : (s.delCommand k).matoms = s.matoms := rfl
@[simp] theorem State.delCommand_pools (s : State) (k : Nat) : (s.delCommand k).pools = s.pools := rfl
@[simp] theorem State.delCommand_rings (s : State) (k : Nat) : (s.delCommand k).rings = s.rings := rfl
@[simp] theorem State.delCommand_devLines (s : State) (k : Nat) : (s.delCommand k).devLines = s.devLines := rfl
@[simp] theorem State.delCommand_reservations (s : State) (k : Nat) : (s.delCommand k).reservations = s.reservations := rfl
@[simp] theorem State.delCommand_invalidations (s : State) (k : Nat) : (s.delCommand k).invalidations = s.invalidations := rfl
@[simp] theorem State.delCommand_nextId (s : State) (k : Nat) : (s.delCommand k).nextId = s.nextId := rfl
@[simp] theorem State.delCommand_seq (s : State) (k : Nat) : (s.delCommand k).seq = s.seq := rfl
@[simp] theorem State.delCommand_castling (s : State) (k : Nat) : (s.delCommand k).castling = s.castling := rfl
@[simp] theorem State.delCommand_waitingEvents (s : State) (k : Nat) : (s.delCommand k).waitingEvents = s.waitingEvents := rfl
@[simp] theorem State.delCommand_msix (s : State) (k : Nat) : (s.delCommand k).msix = s.msix := rfl

/-! ### State.modOp -/

@[simp] theorem State.modOp_agenda (s : State) (m : Nat) (f : MxOp → MxOp) : (s.modOp m f).agenda = s.agenda := rfl
@[simp] theorem State.modOp_tick (s : State) (m : Nat) (f : MxOp → MxOp) : (s.modOp m f).tick = s.tick := rfl
@[simp] theorem State.modOp_master (s : State) (m : Nat) (f : MxOp → MxOp) : (s.modOp m f).master = s.master := rfl
@[simp] theorem State.modOp_cur (s : State) (m : Nat) (f : MxOp → MxOp) : (s.modOp m f).cur = s.cur := rfl
@[simp] theorem State.modOp_mem (s : State) (m : Nat) (f : MxOp → MxOp) : (s.modOp m f).mem = s.mem := rfl
@[simp] theorem State.modOp_poison (s : State) (m : Nat) (f : MxOp → MxOp) : (s.modOp m f).poison = s.poison := rfl
@[simp] theorem State.modOp_history (s : State) (m : Nat) (f : MxOp → MxOp) : (s.modOp m f).history = s.history := rfl
@[simp] theorem State.modOp_fences (s : State) (m : Nat) (f : MxOp → MxOp) : (s.modOp m f).fences = s.fences := rfl
@[simp] theorem State.modOp_cpKnow (s : State) (m : Nat) (f : MxOp → MxOp) : (s.modOp m f).cpKnow = s.cpKnow := rfl
@[simp] theorem State.modOp_hostKnow (s : State) (m : Nat) (f : MxOp → MxOp) : (s.modOp m f).hostKnow = s.hostKnow := rfl
@[simp] theorem State.modOp_stackTab (s : State) (m : Nat) (f : MxOp → MxOp) : (s.modOp m f).stackTab = s.stackTab := rfl
@[simp] theorem State.modOp_partitions (s : State) (m : Nat) (f : MxOp → MxOp) : (s.modOp m f).partitions = s.partitions := rfl
@[simp] theorem State.modOp_contexts (s : State) (m : Nat) (f : MxOp → MxOp) : (s.modOp m f).contexts = s.contexts := rfl
@[simp] theorem State.modOp_queues (s : State) (m : Nat) (f : MxOp → MxOp) : (s.modOp m f).queues = s.queues := rfl
@[simp] theorem State.modOp_launches (s : State) (m : Nat) (f : MxOp → MxOp) : (s.modOp m f).launches = s.launches := rfl
@[simp] theorem State.modOp_gangs (s : State) (m : Nat) (f : MxOp → MxOp) : (s.modOp m f).gangs = s.gangs := rfl
@[simp] theorem State.modOp_commands (s : State) (m : Nat) (f : MxOp → MxOp) : (s.modOp m f).commands = s.commands := rfl
@[simp] theorem State.modOp_matoms (s : State) (m : Nat) (f : MxOp → MxOp) : (s.modOp m f).matoms = s.matoms := rfl
@[simp] theorem State.modOp_pools (s : State) (m : Nat) (f : MxOp → MxOp) : (s.modOp m f).pools = s.pools := rfl
@[simp] theorem State.modOp_rings (s : State) (m : Nat) (f : MxOp → MxOp) : (s.modOp m f).rings = s.rings := rfl
@[simp] theorem State.modOp_devLines (s : State) (m : Nat) (f : MxOp → MxOp) : (s.modOp m f).devLines = s.devLines := rfl
@[simp] theorem State.modOp_reservations (s : State) (m : Nat) (f : MxOp → MxOp) : (s.modOp m f).reservations = s.reservations := rfl
@[simp] theorem State.modOp_invalidations (s : State) (m : Nat) (f : MxOp → MxOp) : (s.modOp m f).invalidations = s.invalidations := rfl
@[simp] theorem State.modOp_nextId (s : State) (m : Nat) (f : MxOp → MxOp) : (s.modOp m f).nextId = s.nextId := rfl
@[simp] theorem State.modOp_seq (s : State) (m : Nat) (f : MxOp → MxOp) : (s.modOp m f).seq = s.seq := rfl
@[simp] theorem State.modOp_castling (s : State) (m : Nat) (f : MxOp → MxOp) : (s.modOp m f).castling = s.castling := rfl
@[simp] theorem State.modOp_waitingEvents (s : State) (m : Nat) (f : MxOp → MxOp) : (s.modOp m f).waitingEvents = s.waitingEvents := rfl
@[simp] theorem State.modOp_msix (s : State) (m : Nat) (f : MxOp → MxOp) : (s.modOp m f).msix = s.msix := rfl

/-! ### State.delOp -/

@[simp] theorem State.delOp_agenda (s : State) (m : Nat) : (s.delOp m).agenda = s.agenda := rfl
@[simp] theorem State.delOp_tick (s : State) (m : Nat) : (s.delOp m).tick = s.tick := rfl
@[simp] theorem State.delOp_master (s : State) (m : Nat) : (s.delOp m).master = s.master := rfl
@[simp] theorem State.delOp_cur (s : State) (m : Nat) : (s.delOp m).cur = s.cur := rfl
@[simp] theorem State.delOp_mem (s : State) (m : Nat) : (s.delOp m).mem = s.mem := rfl
@[simp] theorem State.delOp_poison (s : State) (m : Nat) : (s.delOp m).poison = s.poison := rfl
@[simp] theorem State.delOp_history (s : State) (m : Nat) : (s.delOp m).history = s.history := rfl
@[simp] theorem State.delOp_fences (s : State) (m : Nat) : (s.delOp m).fences = s.fences := rfl
@[simp] theorem State.delOp_cpKnow (s : State) (m : Nat) : (s.delOp m).cpKnow = s.cpKnow := rfl
@[simp] theorem State.delOp_hostKnow (s : State) (m : Nat) : (s.delOp m).hostKnow = s.hostKnow := rfl
@[simp] theorem State.delOp_stackTab (s : State) (m : Nat) : (s.delOp m).stackTab = s.stackTab := rfl
@[simp] theorem State.delOp_partitions (s : State) (m : Nat) : (s.delOp m).partitions = s.partitions := rfl
@[simp] theorem State.delOp_contexts (s : State) (m : Nat) : (s.delOp m).contexts = s.contexts := rfl
@[simp] theorem State.delOp_queues (s : State) (m : Nat) : (s.delOp m).queues = s.queues := rfl
@[simp] theorem State.delOp_launches (s : State) (m : Nat) : (s.delOp m).launches = s.launches := rfl
@[simp] theorem State.delOp_gangs (s : State) (m : Nat) : (s.delOp m).gangs = s.gangs := rfl
@[simp] theorem State.delOp_commands (s : State) (m : Nat) : (s.delOp m).commands = s.commands := rfl
@[simp] theorem State.delOp_matoms (s : State) (m : Nat) : (s.delOp m).matoms = s.matoms := rfl
@[simp] theorem State.delOp_pools (s : State) (m : Nat) : (s.delOp m).pools = s.pools := rfl
@[simp] theorem State.delOp_rings (s : State) (m : Nat) : (s.delOp m).rings = s.rings := rfl
@[simp] theorem State.delOp_devLines (s : State) (m : Nat) : (s.delOp m).devLines = s.devLines := rfl
@[simp] theorem State.delOp_reservations (s : State) (m : Nat) : (s.delOp m).reservations = s.reservations := rfl
@[simp] theorem State.delOp_invalidations (s : State) (m : Nat) : (s.delOp m).invalidations = s.invalidations := rfl
@[simp] theorem State.delOp_nextId (s : State) (m : Nat) : (s.delOp m).nextId = s.nextId := rfl
@[simp] theorem State.delOp_seq (s : State) (m : Nat) : (s.delOp m).seq = s.seq := rfl
@[simp] theorem State.delOp_castling (s : State) (m : Nat) : (s.delOp m).castling = s.castling := rfl
@[simp] theorem State.delOp_waitingEvents (s : State) (m : Nat) : (s.delOp m).waitingEvents = s.waitingEvents := rfl
@[simp] theorem State.delOp_msix (s : State) (m : Nat) : (s.delOp m).msix = s.msix := rfl

/-! ### State.modPool -/

@[simp] theorem State.modPool_agenda (s : State) (k : Nat) (f : Pool → Pool) : (s.modPool k f).agenda = s.agenda := rfl
@[simp] theorem State.modPool_tick (s : State) (k : Nat) (f : Pool → Pool) : (s.modPool k f).tick = s.tick := rfl
@[simp] theorem State.modPool_master (s : State) (k : Nat) (f : Pool → Pool) : (s.modPool k f).master = s.master := rfl
@[simp] theorem State.modPool_cur (s : State) (k : Nat) (f : Pool → Pool) : (s.modPool k f).cur = s.cur := rfl
@[simp] theorem State.modPool_mem (s : State) (k : Nat) (f : Pool → Pool) : (s.modPool k f).mem = s.mem := rfl
@[simp] theorem State.modPool_poison (s : State) (k : Nat) (f : Pool → Pool) : (s.modPool k f).poison = s.poison := rfl
@[simp] theorem State.modPool_history (s : State) (k : Nat) (f : Pool → Pool) : (s.modPool k f).history = s.history := rfl
@[simp] theorem State.modPool_fences (s : State) (k : Nat) (f : Pool → Pool) : (s.modPool k f).fences = s.fences := rfl
@[simp] theorem State.modPool_cpKnow (s : State) (k : Nat) (f : Pool → Pool) : (s.modPool k f).cpKnow = s.cpKnow := rfl
@[simp] theorem State.modPool_hostKnow (s : State) (k : Nat) (f : Pool → Pool) : (s.modPool k f).hostKnow = s.hostKnow := rfl
@[simp] theorem State.modPool_stackTab (s : State) (k : Nat) (f : Pool → Pool) : (s.modPool k f).stackTab = s.stackTab := rfl
@[simp] theorem State.modPool_partitions (s : State) (k : Nat) (f : Pool → Pool) : (s.modPool k f).partitions = s.partitions := rfl
@[simp] theorem State.modPool_contexts (s : State) (k : Nat) (f : Pool → Pool) : (s.modPool k f).contexts = s.contexts := rfl
@[simp] theorem State.modPool_queues (s : State) (k : Nat) (f : Pool → Pool) : (s.modPool k f).queues = s.queues := rfl
@[simp] theorem State.modPool_launches (s : State) (k : Nat) (f : Pool → Pool) : (s.modPool k f).launches = s.launches := rfl
@[simp] theorem State.modPool_gangs (s : State) (k : Nat) (f : Pool → Pool) : (s.modPool k f).gangs = s.gangs := rfl
@[simp] theorem State.modPool_commands (s : State) (k : Nat) (f : Pool → Pool) : (s.modPool k f).commands = s.commands := rfl
@[simp] theorem State.modPool_mxops (s : State) (k : Nat) (f : Pool → Pool) : (s.modPool k f).mxops = s.mxops := rfl
@[simp] theorem State.modPool_matoms (s : State) (k : Nat) (f : Pool → Pool) : (s.modPool k f).matoms = s.matoms := rfl
@[simp] theorem State.modPool_rings (s : State) (k : Nat) (f : Pool → Pool) : (s.modPool k f).rings = s.rings := rfl
@[simp] theorem State.modPool_devLines (s : State) (k : Nat) (f : Pool → Pool) : (s.modPool k f).devLines = s.devLines := rfl
@[simp] theorem State.modPool_reservations (s : State) (k : Nat) (f : Pool → Pool) : (s.modPool k f).reservations = s.reservations := rfl
@[simp] theorem State.modPool_invalidations (s : State) (k : Nat) (f : Pool → Pool) : (s.modPool k f).invalidations = s.invalidations := rfl
@[simp] theorem State.modPool_nextId (s : State) (k : Nat) (f : Pool → Pool) : (s.modPool k f).nextId = s.nextId := rfl
@[simp] theorem State.modPool_seq (s : State) (k : Nat) (f : Pool → Pool) : (s.modPool k f).seq = s.seq := rfl
@[simp] theorem State.modPool_castling (s : State) (k : Nat) (f : Pool → Pool) : (s.modPool k f).castling = s.castling := rfl
@[simp] theorem State.modPool_waitingEvents (s : State) (k : Nat) (f : Pool → Pool) : (s.modPool k f).waitingEvents = s.waitingEvents := rfl
@[simp] theorem State.modPool_msix (s : State) (k : Nat) (f : Pool → Pool) : (s.modPool k f).msix = s.msix := rfl

/-! ### State.nextSeq -/

@[simp] theorem State.nextSeq_agenda (s : State) : (s.nextSeq).agenda = s.agenda := rfl
@[simp] theorem State.nextSeq_tick (s : State) : (s.nextSeq).tick = s.tick := rfl
@[simp] theorem State.nextSeq_master (s : State) : (s.nextSeq).master = s.master := rfl
@[simp] theorem State.nextSeq_cur (s : State) : (s.nextSeq).cur = s.cur := rfl
@[simp] theorem State.nextSeq_mem (s : State) : (s.nextSeq).mem = s.mem := rfl
@[simp] theorem State.nextSeq_poison (s : State) : (s.nextSeq).poison = s.poison := rfl
@[simp] theorem State.nextSeq_history (s : State) : (s.nextSeq).history = s.history := rfl
@[simp] theorem State.nextSeq_fences (s : State) : (s.nextSeq).fences = s.fences := rfl
@[simp] theorem State.nextSeq_cpKnow (s : State) : (s.nextSeq).cpKnow = s.cpKnow := rfl
@[simp] theorem State.nextSeq_hostKnow (s : State) : (s.nextSeq).hostKnow = s.hostKnow := rfl
@[simp] theorem State.nextSeq_stackTab (s : State) : (s.nextSeq).stackTab = s.stackTab := rfl
@[simp] theorem State.nextSeq_partitions (s : State) : (s.nextSeq).partitions = s.partitions := rfl
@[simp] theorem State.nextSeq_contexts (s : State) : (s.nextSeq).contexts = s.contexts := rfl
@[simp] theorem State.nextSeq_queues (s : State) : (s.nextSeq).queues = s.queues := rfl
@[simp] theorem State.nextSeq_launches (s : State) : (s.nextSeq).launches = s.launches := rfl
@[simp] theorem State.nextSeq_gangs (s : State) : (s.nextSeq).gangs = s.gangs := rfl
@[simp] theorem State.nextSeq_commands (s : State) : (s.nextSeq).commands = s.commands := rfl
@[simp] theorem State.nextSeq_mxops (s : State) : (s.nextSeq).mxops = s.mxops := rfl
@[simp] theorem State.nextSeq_matoms (s : State) : (s.nextSeq).matoms = s.matoms := rfl
@[simp] theorem State.nextSeq_pools (s : State) : (s.nextSeq).pools = s.pools := rfl
@[simp] theorem State.nextSeq_rings (s : State) : (s.nextSeq).rings = s.rings := rfl
@[simp] theorem State.nextSeq_devLines (s : State) : (s.nextSeq).devLines = s.devLines := rfl
@[simp] theorem State.nextSeq_reservations (s : State) : (s.nextSeq).reservations = s.reservations := rfl
@[simp] theorem State.nextSeq_invalidations (s : State) : (s.nextSeq).invalidations = s.invalidations := rfl
@[simp] theorem State.nextSeq_nextId (s : State) : (s.nextSeq).nextId = s.nextId := rfl
@[simp] theorem State.nextSeq_castling (s : State) : (s.nextSeq).castling = s.castling := rfl
@[simp] theorem State.nextSeq_waitingEvents (s : State) : (s.nextSeq).waitingEvents = s.waitingEvents := rfl
@[simp] theorem State.nextSeq_msix (s : State) : (s.nextSeq).msix = s.msix := rfl

/-! ### State.writeMem -/

@[simp] theorem State.writeMem_agenda (s : State) (au : Author) (pa : Nat) (bs : List Byte) (m : Bool) : (s.writeMem au pa bs m).agenda = s.agenda := rfl
@[simp] theorem State.writeMem_tick (s : State) (au : Author) (pa : Nat) (bs : List Byte) (m : Bool) : (s.writeMem au pa bs m).tick = s.tick := rfl
@[simp] theorem State.writeMem_master (s : State) (au : Author) (pa : Nat) (bs : List Byte) (m : Bool) : (s.writeMem au pa bs m).master = s.master := rfl
@[simp] theorem State.writeMem_cur (s : State) (au : Author) (pa : Nat) (bs : List Byte) (m : Bool) : (s.writeMem au pa bs m).cur = s.cur := rfl
@[simp] theorem State.writeMem_fences (s : State) (au : Author) (pa : Nat) (bs : List Byte) (m : Bool) : (s.writeMem au pa bs m).fences = s.fences := rfl
@[simp] theorem State.writeMem_cpKnow (s : State) (au : Author) (pa : Nat) (bs : List Byte) (m : Bool) : (s.writeMem au pa bs m).cpKnow = s.cpKnow := rfl
@[simp] theorem State.writeMem_hostKnow (s : State) (au : Author) (pa : Nat) (bs : List Byte) (m : Bool) : (s.writeMem au pa bs m).hostKnow = s.hostKnow := rfl
@[simp] theorem State.writeMem_stackTab (s : State) (au : Author) (pa : Nat) (bs : List Byte) (m : Bool) : (s.writeMem au pa bs m).stackTab = s.stackTab := rfl
@[simp] theorem State.writeMem_partitions (s : State) (au : Author) (pa : Nat) (bs : List Byte) (m : Bool) : (s.writeMem au pa bs m).partitions = s.partitions := rfl
@[simp] theorem State.writeMem_contexts (s : State) (au : Author) (pa : Nat) (bs : List Byte) (m : Bool) : (s.writeMem au pa bs m).contexts = s.contexts := rfl
@[simp] theorem State.writeMem_queues (s : State) (au : Author) (pa : Nat) (bs : List Byte) (m : Bool) : (s.writeMem au pa bs m).queues = s.queues := rfl
@[simp] theorem State.writeMem_launches (s : State) (au : Author) (pa : Nat) (bs : List Byte) (m : Bool) : (s.writeMem au pa bs m).launches = s.launches := rfl
@[simp] theorem State.writeMem_gangs (s : State) (au : Author) (pa : Nat) (bs : List Byte) (m : Bool) : (s.writeMem au pa bs m).gangs = s.gangs := rfl
@[simp] theorem State.writeMem_commands (s : State) (au : Author) (pa : Nat) (bs : List Byte) (m : Bool) : (s.writeMem au pa bs m).commands = s.commands := rfl
@[simp] theorem State.writeMem_mxops (s : State) (au : Author) (pa : Nat) (bs : List Byte) (m : Bool) : (s.writeMem au pa bs m).mxops = s.mxops := rfl
@[simp] theorem State.writeMem_matoms (s : State) (au : Author) (pa : Nat) (bs : List Byte) (m : Bool) : (s.writeMem au pa bs m).matoms = s.matoms := rfl
@[simp] theorem State.writeMem_pools (s : State) (au : Author) (pa : Nat) (bs : List Byte) (m : Bool) : (s.writeMem au pa bs m).pools = s.pools := rfl
@[simp] theorem State.writeMem_rings (s : State) (au : Author) (pa : Nat) (bs : List Byte) (m : Bool) : (s.writeMem au pa bs m).rings = s.rings := rfl
@[simp] theorem State.writeMem_devLines (s : State) (au : Author) (pa : Nat) (bs : List Byte) (m : Bool) : (s.writeMem au pa bs m).devLines = s.devLines := rfl
@[simp] theorem State.writeMem_reservations (s : State) (au : Author) (pa : Nat) (bs : List Byte) (m : Bool) : (s.writeMem au pa bs m).reservations = s.reservations := rfl
@[simp] theorem State.writeMem_invalidations (s : State) (au : Author) (pa : Nat) (bs : List Byte) (m : Bool) : (s.writeMem au pa bs m).invalidations = s.invalidations := rfl
@[simp] theorem State.writeMem_nextId (s : State) (au : Author) (pa : Nat) (bs : List Byte) (m : Bool) : (s.writeMem au pa bs m).nextId = s.nextId := rfl
@[simp] theorem State.writeMem_seq (s : State) (au : Author) (pa : Nat) (bs : List Byte) (m : Bool) : (s.writeMem au pa bs m).seq = s.seq := rfl
@[simp] theorem State.writeMem_castling (s : State) (au : Author) (pa : Nat) (bs : List Byte) (m : Bool) : (s.writeMem au pa bs m).castling = s.castling := rfl
@[simp] theorem State.writeMem_waitingEvents (s : State) (au : Author) (pa : Nat) (bs : List Byte) (m : Bool) : (s.writeMem au pa bs m).waitingEvents = s.waitingEvents := rfl
@[simp] theorem State.writeMem_msix (s : State) (au : Author) (pa : Nat) (bs : List Byte) (m : Bool) : (s.writeMem au pa bs m).msix = s.msix := rfl

/-! ### State.writeSpad -/

@[simp] theorem State.writeSpad_agenda (s : State) (au : Author) (g off : Nat) (bs : List Byte) (m : Bool) : (s.writeSpad au g off bs m).agenda = s.agenda := rfl
@[simp] theorem State.writeSpad_tick (s : State) (au : Author) (g off : Nat) (bs : List Byte) (m : Bool) : (s.writeSpad au g off bs m).tick = s.tick := rfl
@[simp] theorem State.writeSpad_master (s : State) (au : Author) (g off : Nat) (bs : List Byte) (m : Bool) : (s.writeSpad au g off bs m).master = s.master := rfl
@[simp] theorem State.writeSpad_cur (s : State) (au : Author) (g off : Nat) (bs : List Byte) (m : Bool) : (s.writeSpad au g off bs m).cur = s.cur := rfl
@[simp] theorem State.writeSpad_mem (s : State) (au : Author) (g off : Nat) (bs : List Byte) (m : Bool) : (s.writeSpad au g off bs m).mem = s.mem := rfl
@[simp] theorem State.writeSpad_poison (s : State) (au : Author) (g off : Nat) (bs : List Byte) (m : Bool) : (s.writeSpad au g off bs m).poison = s.poison := rfl
@[simp] theorem State.writeSpad_fences (s : State) (au : Author) (g off : Nat) (bs : List Byte) (m : Bool) : (s.writeSpad au g off bs m).fences = s.fences := rfl
@[simp] theorem State.writeSpad_cpKnow (s : State) (au : Author) (g off : Nat) (bs : List Byte) (m : Bool) : (s.writeSpad au g off bs m).cpKnow = s.cpKnow := rfl
@[simp] theorem State.writeSpad_hostKnow (s : State) (au : Author) (g off : Nat) (bs : List Byte) (m : Bool) : (s.writeSpad au g off bs m).hostKnow = s.hostKnow := rfl
@[simp] theorem State.writeSpad_stackTab (s : State) (au : Author) (g off : Nat) (bs : List Byte) (m : Bool) : (s.writeSpad au g off bs m).stackTab = s.stackTab := rfl
@[simp] theorem State.writeSpad_partitions (s : State) (au : Author) (g off : Nat) (bs : List Byte) (m : Bool) : (s.writeSpad au g off bs m).partitions = s.partitions := rfl
@[simp] theorem State.writeSpad_contexts (s : State) (au : Author) (g off : Nat) (bs : List Byte) (m : Bool) : (s.writeSpad au g off bs m).contexts = s.contexts := rfl
@[simp] theorem State.writeSpad_queues (s : State) (au : Author) (g off : Nat) (bs : List Byte) (m : Bool) : (s.writeSpad au g off bs m).queues = s.queues := rfl
@[simp] theorem State.writeSpad_launches (s : State) (au : Author) (g off : Nat) (bs : List Byte) (m : Bool) : (s.writeSpad au g off bs m).launches = s.launches := rfl
@[simp] theorem State.writeSpad_commands (s : State) (au : Author) (g off : Nat) (bs : List Byte) (m : Bool) : (s.writeSpad au g off bs m).commands = s.commands := rfl
@[simp] theorem State.writeSpad_mxops (s : State) (au : Author) (g off : Nat) (bs : List Byte) (m : Bool) : (s.writeSpad au g off bs m).mxops = s.mxops := rfl
@[simp] theorem State.writeSpad_matoms (s : State) (au : Author) (g off : Nat) (bs : List Byte) (m : Bool) : (s.writeSpad au g off bs m).matoms = s.matoms := rfl
@[simp] theorem State.writeSpad_pools (s : State) (au : Author) (g off : Nat) (bs : List Byte) (m : Bool) : (s.writeSpad au g off bs m).pools = s.pools := rfl
@[simp] theorem State.writeSpad_rings (s : State) (au : Author) (g off : Nat) (bs : List Byte) (m : Bool) : (s.writeSpad au g off bs m).rings = s.rings := rfl
@[simp] theorem State.writeSpad_devLines (s : State) (au : Author) (g off : Nat) (bs : List Byte) (m : Bool) : (s.writeSpad au g off bs m).devLines = s.devLines := rfl
@[simp] theorem State.writeSpad_reservations (s : State) (au : Author) (g off : Nat) (bs : List Byte) (m : Bool) : (s.writeSpad au g off bs m).reservations = s.reservations := rfl
@[simp] theorem State.writeSpad_invalidations (s : State) (au : Author) (g off : Nat) (bs : List Byte) (m : Bool) : (s.writeSpad au g off bs m).invalidations = s.invalidations := rfl
@[simp] theorem State.writeSpad_nextId (s : State) (au : Author) (g off : Nat) (bs : List Byte) (m : Bool) : (s.writeSpad au g off bs m).nextId = s.nextId := rfl
@[simp] theorem State.writeSpad_seq (s : State) (au : Author) (g off : Nat) (bs : List Byte) (m : Bool) : (s.writeSpad au g off bs m).seq = s.seq := rfl
@[simp] theorem State.writeSpad_castling (s : State) (au : Author) (g off : Nat) (bs : List Byte) (m : Bool) : (s.writeSpad au g off bs m).castling = s.castling := rfl
@[simp] theorem State.writeSpad_waitingEvents (s : State) (au : Author) (g off : Nat) (bs : List Byte) (m : Bool) : (s.writeSpad au g off bs m).waitingEvents = s.waitingEvents := rfl
@[simp] theorem State.writeSpad_msix (s : State) (au : Author) (g off : Nat) (bs : List Byte) (m : Bool) : (s.writeSpad au g off bs m).msix = s.msix := rfl

/-! ### State.writeElement -/

@[simp] theorem State.writeElement_agenda (s : State) (au : Author) (pa : Nat) (bs : List Byte) (m : Option Bool) : (s.writeElement au pa bs m).agenda = s.agenda := rfl
@[simp] theorem State.writeElement_tick (s : State) (au : Author) (pa : Nat) (bs : List Byte) (m : Option Bool) : (s.writeElement au pa bs m).tick = s.tick := rfl
@[simp] theorem State.writeElement_master (s : State) (au : Author) (pa : Nat) (bs : List Byte) (m : Option Bool) : (s.writeElement au pa bs m).master = s.master := rfl
@[simp] theorem State.writeElement_cur (s : State) (au : Author) (pa : Nat) (bs : List Byte) (m : Option Bool) : (s.writeElement au pa bs m).cur = s.cur := rfl
@[simp] theorem State.writeElement_fences (s : State) (au : Author) (pa : Nat) (bs : List Byte) (m : Option Bool) : (s.writeElement au pa bs m).fences = s.fences := rfl
@[simp] theorem State.writeElement_cpKnow (s : State) (au : Author) (pa : Nat) (bs : List Byte) (m : Option Bool) : (s.writeElement au pa bs m).cpKnow = s.cpKnow := rfl
@[simp] theorem State.writeElement_hostKnow (s : State) (au : Author) (pa : Nat) (bs : List Byte) (m : Option Bool) : (s.writeElement au pa bs m).hostKnow = s.hostKnow := rfl
@[simp] theorem State.writeElement_stackTab (s : State) (au : Author) (pa : Nat) (bs : List Byte) (m : Option Bool) : (s.writeElement au pa bs m).stackTab = s.stackTab := rfl
@[simp] theorem State.writeElement_partitions (s : State) (au : Author) (pa : Nat) (bs : List Byte) (m : Option Bool) : (s.writeElement au pa bs m).partitions = s.partitions := rfl
@[simp] theorem State.writeElement_contexts (s : State) (au : Author) (pa : Nat) (bs : List Byte) (m : Option Bool) : (s.writeElement au pa bs m).contexts = s.contexts := rfl
@[simp] theorem State.writeElement_queues (s : State) (au : Author) (pa : Nat) (bs : List Byte) (m : Option Bool) : (s.writeElement au pa bs m).queues = s.queues := rfl
@[simp] theorem State.writeElement_launches (s : State) (au : Author) (pa : Nat) (bs : List Byte) (m : Option Bool) : (s.writeElement au pa bs m).launches = s.launches := rfl
@[simp] theorem State.writeElement_gangs (s : State) (au : Author) (pa : Nat) (bs : List Byte) (m : Option Bool) : (s.writeElement au pa bs m).gangs = s.gangs := rfl
@[simp] theorem State.writeElement_commands (s : State) (au : Author) (pa : Nat) (bs : List Byte) (m : Option Bool) : (s.writeElement au pa bs m).commands = s.commands := rfl
@[simp] theorem State.writeElement_mxops (s : State) (au : Author) (pa : Nat) (bs : List Byte) (m : Option Bool) : (s.writeElement au pa bs m).mxops = s.mxops := rfl
@[simp] theorem State.writeElement_matoms (s : State) (au : Author) (pa : Nat) (bs : List Byte) (m : Option Bool) : (s.writeElement au pa bs m).matoms = s.matoms := rfl
@[simp] theorem State.writeElement_pools (s : State) (au : Author) (pa : Nat) (bs : List Byte) (m : Option Bool) : (s.writeElement au pa bs m).pools = s.pools := rfl
@[simp] theorem State.writeElement_rings (s : State) (au : Author) (pa : Nat) (bs : List Byte) (m : Option Bool) : (s.writeElement au pa bs m).rings = s.rings := rfl
@[simp] theorem State.writeElement_devLines (s : State) (au : Author) (pa : Nat) (bs : List Byte) (m : Option Bool) : (s.writeElement au pa bs m).devLines = s.devLines := rfl
@[simp] theorem State.writeElement_reservations (s : State) (au : Author) (pa : Nat) (bs : List Byte) (m : Option Bool) : (s.writeElement au pa bs m).reservations = s.reservations := rfl
@[simp] theorem State.writeElement_invalidations (s : State) (au : Author) (pa : Nat) (bs : List Byte) (m : Option Bool) : (s.writeElement au pa bs m).invalidations = s.invalidations := rfl
@[simp] theorem State.writeElement_nextId (s : State) (au : Author) (pa : Nat) (bs : List Byte) (m : Option Bool) : (s.writeElement au pa bs m).nextId = s.nextId := rfl
@[simp] theorem State.writeElement_seq (s : State) (au : Author) (pa : Nat) (bs : List Byte) (m : Option Bool) : (s.writeElement au pa bs m).seq = s.seq := rfl
@[simp] theorem State.writeElement_castling (s : State) (au : Author) (pa : Nat) (bs : List Byte) (m : Option Bool) : (s.writeElement au pa bs m).castling = s.castling := rfl
@[simp] theorem State.writeElement_waitingEvents (s : State) (au : Author) (pa : Nat) (bs : List Byte) (m : Option Bool) : (s.writeElement au pa bs m).waitingEvents = s.waitingEvents := rfl
@[simp] theorem State.writeElement_msix (s : State) (au : Author) (pa : Nat) (bs : List Byte) (m : Option Bool) : (s.writeElement au pa bs m).msix = s.msix := rfl

/-! ### State.writeSpadElement -/

@[simp] theorem State.writeSpadElement_agenda (s : State) (au : Author) (g off : Nat) (bs : List Byte) (m : Option Bool) : (s.writeSpadElement au g off bs m).agenda = s.agenda := rfl
@[simp] theorem State.writeSpadElement_tick (s : State) (au : Author) (g off : Nat) (bs : List Byte) (m : Option Bool) : (s.writeSpadElement au g off bs m).tick = s.tick := rfl
@[simp] theorem State.writeSpadElement_master (s : State) (au : Author) (g off : Nat) (bs : List Byte) (m : Option Bool) : (s.writeSpadElement au g off bs m).master = s.master := rfl
@[simp] theorem State.writeSpadElement_cur (s : State) (au : Author) (g off : Nat) (bs : List Byte) (m : Option Bool) : (s.writeSpadElement au g off bs m).cur = s.cur := rfl
@[simp] theorem State.writeSpadElement_mem (s : State) (au : Author) (g off : Nat) (bs : List Byte) (m : Option Bool) : (s.writeSpadElement au g off bs m).mem = s.mem := rfl
@[simp] theorem State.writeSpadElement_poison (s : State) (au : Author) (g off : Nat) (bs : List Byte) (m : Option Bool) : (s.writeSpadElement au g off bs m).poison = s.poison := rfl
@[simp] theorem State.writeSpadElement_fences (s : State) (au : Author) (g off : Nat) (bs : List Byte) (m : Option Bool) : (s.writeSpadElement au g off bs m).fences = s.fences := rfl
@[simp] theorem State.writeSpadElement_cpKnow (s : State) (au : Author) (g off : Nat) (bs : List Byte) (m : Option Bool) : (s.writeSpadElement au g off bs m).cpKnow = s.cpKnow := rfl
@[simp] theorem State.writeSpadElement_hostKnow (s : State) (au : Author) (g off : Nat) (bs : List Byte) (m : Option Bool) : (s.writeSpadElement au g off bs m).hostKnow = s.hostKnow := rfl
@[simp] theorem State.writeSpadElement_stackTab (s : State) (au : Author) (g off : Nat) (bs : List Byte) (m : Option Bool) : (s.writeSpadElement au g off bs m).stackTab = s.stackTab := rfl
@[simp] theorem State.writeSpadElement_partitions (s : State) (au : Author) (g off : Nat) (bs : List Byte) (m : Option Bool) : (s.writeSpadElement au g off bs m).partitions = s.partitions := rfl
@[simp] theorem State.writeSpadElement_contexts (s : State) (au : Author) (g off : Nat) (bs : List Byte) (m : Option Bool) : (s.writeSpadElement au g off bs m).contexts = s.contexts := rfl
@[simp] theorem State.writeSpadElement_queues (s : State) (au : Author) (g off : Nat) (bs : List Byte) (m : Option Bool) : (s.writeSpadElement au g off bs m).queues = s.queues := rfl
@[simp] theorem State.writeSpadElement_launches (s : State) (au : Author) (g off : Nat) (bs : List Byte) (m : Option Bool) : (s.writeSpadElement au g off bs m).launches = s.launches := rfl
@[simp] theorem State.writeSpadElement_commands (s : State) (au : Author) (g off : Nat) (bs : List Byte) (m : Option Bool) : (s.writeSpadElement au g off bs m).commands = s.commands := rfl
@[simp] theorem State.writeSpadElement_mxops (s : State) (au : Author) (g off : Nat) (bs : List Byte) (m : Option Bool) : (s.writeSpadElement au g off bs m).mxops = s.mxops := rfl
@[simp] theorem State.writeSpadElement_matoms (s : State) (au : Author) (g off : Nat) (bs : List Byte) (m : Option Bool) : (s.writeSpadElement au g off bs m).matoms = s.matoms := rfl
@[simp] theorem State.writeSpadElement_pools (s : State) (au : Author) (g off : Nat) (bs : List Byte) (m : Option Bool) : (s.writeSpadElement au g off bs m).pools = s.pools := rfl
@[simp] theorem State.writeSpadElement_rings (s : State) (au : Author) (g off : Nat) (bs : List Byte) (m : Option Bool) : (s.writeSpadElement au g off bs m).rings = s.rings := rfl
@[simp] theorem State.writeSpadElement_devLines (s : State) (au : Author) (g off : Nat) (bs : List Byte) (m : Option Bool) : (s.writeSpadElement au g off bs m).devLines = s.devLines := rfl
@[simp] theorem State.writeSpadElement_reservations (s : State) (au : Author) (g off : Nat) (bs : List Byte) (m : Option Bool) : (s.writeSpadElement au g off bs m).reservations = s.reservations := rfl
@[simp] theorem State.writeSpadElement_invalidations (s : State) (au : Author) (g off : Nat) (bs : List Byte) (m : Option Bool) : (s.writeSpadElement au g off bs m).invalidations = s.invalidations := rfl
@[simp] theorem State.writeSpadElement_nextId (s : State) (au : Author) (g off : Nat) (bs : List Byte) (m : Option Bool) : (s.writeSpadElement au g off bs m).nextId = s.nextId := rfl
@[simp] theorem State.writeSpadElement_seq (s : State) (au : Author) (g off : Nat) (bs : List Byte) (m : Option Bool) : (s.writeSpadElement au g off bs m).seq = s.seq := rfl
@[simp] theorem State.writeSpadElement_castling (s : State) (au : Author) (g off : Nat) (bs : List Byte) (m : Option Bool) : (s.writeSpadElement au g off bs m).castling = s.castling := rfl
@[simp] theorem State.writeSpadElement_waitingEvents (s : State) (au : Author) (g off : Nat) (bs : List Byte) (m : Option Bool) : (s.writeSpadElement au g off bs m).waitingEvents = s.waitingEvents := rfl
@[simp] theorem State.writeSpadElement_msix (s : State) (au : Author) (g off : Nat) (bs : List Byte) (m : Option Bool) : (s.writeSpadElement au g off bs m).msix = s.msix := rfl

/-! ### State.setRing -/

@[simp] theorem State.setRing_agenda (s : State) (r : Ring) : (s.setRing r).agenda = s.agenda := rfl
@[simp] theorem State.setRing_tick (s : State) (r : Ring) : (s.setRing r).tick = s.tick := rfl
@[simp] theorem State.setRing_master (s : State) (r : Ring) : (s.setRing r).master = s.master := rfl
@[simp] theorem State.setRing_cur (s : State) (r : Ring) : (s.setRing r).cur = s.cur := rfl
@[simp] theorem State.setRing_mem (s : State) (r : Ring) : (s.setRing r).mem = s.mem := rfl
@[simp] theorem State.setRing_poison (s : State) (r : Ring) : (s.setRing r).poison = s.poison := rfl
@[simp] theorem State.setRing_history (s : State) (r : Ring) : (s.setRing r).history = s.history := rfl
@[simp] theorem State.setRing_fences (s : State) (r : Ring) : (s.setRing r).fences = s.fences := rfl
@[simp] theorem State.setRing_cpKnow (s : State) (r : Ring) : (s.setRing r).cpKnow = s.cpKnow := rfl
@[simp] theorem State.setRing_hostKnow (s : State) (r : Ring) : (s.setRing r).hostKnow = s.hostKnow := rfl
@[simp] theorem State.setRing_stackTab (s : State) (r : Ring) : (s.setRing r).stackTab = s.stackTab := rfl
@[simp] theorem State.setRing_partitions (s : State) (r : Ring) : (s.setRing r).partitions = s.partitions := rfl
@[simp] theorem State.setRing_contexts (s : State) (r : Ring) : (s.setRing r).contexts = s.contexts := rfl
@[simp] theorem State.setRing_queues (s : State) (r : Ring) : (s.setRing r).queues = s.queues := rfl
@[simp] theorem State.setRing_launches (s : State) (r : Ring) : (s.setRing r).launches = s.launches := rfl
@[simp] theorem State.setRing_gangs (s : State) (r : Ring) : (s.setRing r).gangs = s.gangs := rfl
@[simp] theorem State.setRing_commands (s : State) (r : Ring) : (s.setRing r).commands = s.commands := rfl
@[simp] theorem State.setRing_mxops (s : State) (r : Ring) : (s.setRing r).mxops = s.mxops := rfl
@[simp] theorem State.setRing_matoms (s : State) (r : Ring) : (s.setRing r).matoms = s.matoms := rfl
@[simp] theorem State.setRing_pools (s : State) (r : Ring) : (s.setRing r).pools = s.pools := rfl
@[simp] theorem State.setRing_devLines (s : State) (r : Ring) : (s.setRing r).devLines = s.devLines := rfl
@[simp] theorem State.setRing_reservations (s : State) (r : Ring) : (s.setRing r).reservations = s.reservations := rfl
@[simp] theorem State.setRing_invalidations (s : State) (r : Ring) : (s.setRing r).invalidations = s.invalidations := rfl
@[simp] theorem State.setRing_nextId (s : State) (r : Ring) : (s.setRing r).nextId = s.nextId := rfl
@[simp] theorem State.setRing_seq (s : State) (r : Ring) : (s.setRing r).seq = s.seq := rfl
@[simp] theorem State.setRing_castling (s : State) (r : Ring) : (s.setRing r).castling = s.castling := rfl
@[simp] theorem State.setRing_waitingEvents (s : State) (r : Ring) : (s.setRing r).waitingEvents = s.waitingEvents := rfl
@[simp] theorem State.setRing_msix (s : State) (r : Ring) : (s.setRing r).msix = s.msix := rfl

/-! ### Readers after updates -/

@[simp] theorem State.modStack_partition (s : State) (st : Nat) (f : Stack → Stack) (k : Nat) : (s.modStack st f).partition k = s.partition k := rfl
@[simp] theorem State.modStack_launchOf (s : State) (st : Nat) (f : Stack → Stack) (y : Gang) : (s.modStack st f).launchOf y = s.launchOf y := rfl
@[simp] theorem State.modStack_ctxOf (s : State) (st : Nat) (f : Stack → Stack) (y : Gang) : (s.modStack st f).ctxOf y = s.ctxOf y := rfl
@[simp] theorem State.modPartition_stack (s : State) (p : Nat) (f : Partition → Partition) (k : Nat) : (s.modPartition p f).stack k = s.stack k := rfl
@[simp] theorem State.modPartition_launchOf (s : State) (p : Nat) (f : Partition → Partition) (y : Gang) : (s.modPartition p f).launchOf y = s.launchOf y := rfl
@[simp] theorem State.modPartition_ctxOf (s : State) (p : Nat) (f : Partition → Partition) (y : Gang) : (s.modPartition p f).ctxOf y = s.ctxOf y := rfl
@[simp] theorem State.modPartition_members (s : State) (p : Nat) (f : Partition → Partition) (k : Nat) : (s.modPartition p f).members k = s.members k := rfl
@[simp] theorem State.modGang_stack (s : State) (g : Nat) (f : Gang → Gang) (k : Nat) : (s.modGang g f).stack k = s.stack k := rfl
@[simp] theorem State.modGang_partition (s : State) (g : Nat) (f : Gang → Gang) (k : Nat) : (s.modGang g f).partition k = s.partition k := rfl
@[simp] theorem State.modGang_launchOf (s : State) (g : Nat) (f : Gang → Gang) (y : Gang) : (s.modGang g f).launchOf y = s.launchOf y := rfl
@[simp] theorem State.modGang_ctxOf (s : State) (g : Nat) (f : Gang → Gang) (y : Gang) : (s.modGang g f).ctxOf y = s.ctxOf y := rfl
@[simp] theorem State.modGang_members (s : State) (g : Nat) (f : Gang → Gang) (k : Nat) : (s.modGang g f).members k = s.members k := rfl
@[simp] theorem State.modWave_stack (s : State) (g w : Nat) (f : Wave → Wave) (k : Nat) : (s.modWave g w f).stack k = s.stack k := rfl
@[simp] theorem State.modWave_partition (s : State) (g w : Nat) (f : Wave → Wave) (k : Nat) : (s.modWave g w f).partition k = s.partition k := rfl
@[simp] theorem State.modWave_launchOf (s : State) (g w : Nat) (f : Wave → Wave) (y : Gang) : (s.modWave g w f).launchOf y = s.launchOf y := rfl
@[simp] theorem State.modWave_ctxOf (s : State) (g w : Nat) (f : Wave → Wave) (y : Gang) : (s.modWave g w f).ctxOf y = s.ctxOf y := rfl
@[simp] theorem State.modWave_members (s : State) (g w : Nat) (f : Wave → Wave) (k : Nat) : (s.modWave g w f).members k = s.members k := rfl
@[simp] theorem State.setWave_stack (s : State) (g w : Nat) (v : Wave) (k : Nat) : (s.setWave g w v).stack k = s.stack k := rfl
@[simp] theorem State.setWave_partition (s : State) (g w : Nat) (v : Wave) (k : Nat) : (s.setWave g w v).partition k = s.partition k := rfl
@[simp] theorem State.setWave_launchOf (s : State) (g w : Nat) (v : Wave) (y : Gang) : (s.setWave g w v).launchOf y = s.launchOf y := rfl
@[simp] theorem State.setWave_ctxOf (s : State) (g w : Nat) (v : Wave) (y : Gang) : (s.setWave g w v).ctxOf y = s.ctxOf y := rfl
@[simp] theorem State.setWave_members (s : State) (g w : Nat) (v : Wave) (k : Nat) : (s.setWave g w v).members k = s.members k := rfl
@[simp] theorem State.modLaunch_stack (s : State) (l : Nat) (f : Launch → Launch) (k : Nat) : (s.modLaunch l f).stack k = s.stack k := rfl
@[simp] theorem State.modLaunch_partition (s : State) (l : Nat) (f : Launch → Launch) (k : Nat) : (s.modLaunch l f).partition k = s.partition k := rfl
@[simp] theorem State.modLaunch_members (s : State) (l : Nat) (f : Launch → Launch) (k : Nat) : (s.modLaunch l f).members k = s.members k := rfl
@[simp] theorem State.modContext_stack (s : State) (c : Nat) (f : Context → Context) (k : Nat) : (s.modContext c f).stack k = s.stack k := rfl
@[simp] theorem State.modContext_partition (s : State) (c : Nat) (f : Context → Context) (k : Nat) : (s.modContext c f).partition k = s.partition k := rfl
@[simp] theorem State.modContext_launchOf (s : State) (c : Nat) (f : Context → Context) (y : Gang) : (s.modContext c f).launchOf y = s.launchOf y := rfl
@[simp] theorem State.modContext_ctxOf (s : State) (c : Nat) (f : Context → Context) (y : Gang) : (s.modContext c f).ctxOf y = s.ctxOf y := rfl
@[simp] theorem State.modContext_members (s : State) (c : Nat) (f : Context → Context) (k : Nat) : (s.modContext c f).members k = s.members k := rfl
@[simp] theorem State.modQueue_stack (s : State) (q : Nat) (f : Queue → Queue) (k : Nat) : (s.modQueue q f).stack k = s.stack k := rfl
@[simp] theorem State.modQueue_partition (s : State) (q : Nat) (f : Queue → Queue) (k : Nat) : (s.modQueue q f).partition k = s.partition k := rfl
@[simp] theorem State.modQueue_launchOf (s : State) (q : Nat) (f : Queue → Queue) (y : Gang) : (s.modQueue q f).launchOf y = s.launchOf y := rfl
@[simp] theorem State.modQueue_ctxOf (s : State) (q : Nat) (f : Queue → Queue) (y : Gang) : (s.modQueue q f).ctxOf y = s.ctxOf y := rfl
@[simp] theorem State.modQueue_members (s : State) (q : Nat) (f : Queue → Queue) (k : Nat) : (s.modQueue q f).members k = s.members k := rfl
@[simp] theorem State.modCommand_stack (s : State) (k : Nat) (f : Command → Command) (j : Nat) : (s.modCommand k f).stack j = s.stack j := rfl
@[simp] theorem State.modCommand_partition (s : State) (k : Nat) (f : Command → Command) (j : Nat) : (s.modCommand k f).partition j = s.partition j := rfl
@[simp] theorem State.modCommand_launchOf (s : State) (k : Nat) (f : Command → Command) (y : Gang) : (s.modCommand k f).launchOf y = s.launchOf y := rfl
@[simp] theorem State.modCommand_ctxOf (s : State) (k : Nat) (f : Command → Command) (y : Gang) : (s.modCommand k f).ctxOf y = s.ctxOf y := rfl
@[simp] theorem State.modCommand_members (s : State) (k : Nat) (f : Command → Command) (j : Nat) : (s.modCommand k f).members j = s.members j := rfl
@[simp] theorem State.delCommand_stack (s : State) (k : Nat) (j : Nat) : (s.delCommand k).stack j = s.stack j := rfl
@[simp] theorem State.delCommand_partition (s : State) (k : Nat) (j : Nat) : (s.delCommand k).partition j = s.partition j := rfl
@[simp] theorem State.delCommand_launchOf (s : State) (k : Nat) (y : Gang) : (s.delCommand k).launchOf y = s.launchOf y := rfl
@[simp] theorem State.delCommand_ctxOf (s : State) (k : Nat) (y : Gang) : (s.delCommand k).ctxOf y = s.ctxOf y := rfl
@[simp] theorem State.delCommand_members (s : State) (k : Nat) (j : Nat) : (s.delCommand k).members j = s.members j := rfl
@[simp] theorem State.modOp_stack (s : State) (m : Nat) (f : MxOp → MxOp) (k : Nat) : (s.modOp m f).stack k = s.stack k := rfl
@[simp] theorem State.modOp_partition (s : State) (m : Nat) (f : MxOp → MxOp) (k : Nat) : (s.modOp m f).partition k = s.partition k := rfl
@[simp] theorem State.modOp_launchOf (s : State) (m : Nat) (f : MxOp → MxOp) (y : Gang) : (s.modOp m f).launchOf y = s.launchOf y := rfl
@[simp] theorem State.modOp_ctxOf (s : State) (m : Nat) (f : MxOp → MxOp) (y : Gang) : (s.modOp m f).ctxOf y = s.ctxOf y := rfl
@[simp] theorem State.modOp_members (s : State) (m : Nat) (f : MxOp → MxOp) (k : Nat) : (s.modOp m f).members k = s.members k := rfl
@[simp] theorem State.delOp_stack (s : State) (m : Nat) (k : Nat) : (s.delOp m).stack k = s.stack k := rfl
@[simp] theorem State.delOp_partition (s : State) (m : Nat) (k : Nat) : (s.delOp m).partition k = s.partition k := rfl
@[simp] theorem State.delOp_launchOf (s : State) (m : Nat) (y : Gang) : (s.delOp m).launchOf y = s.launchOf y := rfl
@[simp] theorem State.delOp_ctxOf (s : State) (m : Nat) (y : Gang) : (s.delOp m).ctxOf y = s.ctxOf y := rfl
@[simp] theorem State.delOp_members (s : State) (m : Nat) (k : Nat) : (s.delOp m).members k = s.members k := rfl
@[simp] theorem State.modPool_stack (s : State) (k : Nat) (f : Pool → Pool) (j : Nat) : (s.modPool k f).stack j = s.stack j := rfl
@[simp] theorem State.modPool_partition (s : State) (k : Nat) (f : Pool → Pool) (j : Nat) : (s.modPool k f).partition j = s.partition j := rfl
@[simp] theorem State.modPool_launchOf (s : State) (k : Nat) (f : Pool → Pool) (y : Gang) : (s.modPool k f).launchOf y = s.launchOf y := rfl
@[simp] theorem State.modPool_ctxOf (s : State) (k : Nat) (f : Pool → Pool) (y : Gang) : (s.modPool k f).ctxOf y = s.ctxOf y := rfl
@[simp] theorem State.modPool_members (s : State) (k : Nat) (f : Pool → Pool) (j : Nat) : (s.modPool k f).members j = s.members j := rfl
@[simp] theorem State.nextSeq_stack (s : State) (k : Nat) : (s.nextSeq).stack k = s.stack k := rfl
@[simp] theorem State.nextSeq_partition (s : State) (k : Nat) : (s.nextSeq).partition k = s.partition k := rfl
@[simp] theorem State.nextSeq_launchOf (s : State) (y : Gang) : (s.nextSeq).launchOf y = s.launchOf y := rfl
@[simp] theorem State.nextSeq_ctxOf (s : State) (y : Gang) : (s.nextSeq).ctxOf y = s.ctxOf y := rfl
@[simp] theorem State.nextSeq_members (s : State) (k : Nat) : (s.nextSeq).members k = s.members k := rfl
@[simp] theorem State.writeMem_stack (s : State) (au : Author) (pa : Nat) (bs : List Byte) (m : Bool) (k : Nat) : (s.writeMem au pa bs m).stack k = s.stack k := rfl
@[simp] theorem State.writeMem_partition (s : State) (au : Author) (pa : Nat) (bs : List Byte) (m : Bool) (k : Nat) : (s.writeMem au pa bs m).partition k = s.partition k := rfl
@[simp] theorem State.writeMem_launchOf (s : State) (au : Author) (pa : Nat) (bs : List Byte) (m : Bool) (y : Gang) : (s.writeMem au pa bs m).launchOf y = s.launchOf y := rfl
@[simp] theorem State.writeMem_ctxOf (s : State) (au : Author) (pa : Nat) (bs : List Byte) (m : Bool) (y : Gang) : (s.writeMem au pa bs m).ctxOf y = s.ctxOf y := rfl
@[simp] theorem State.writeMem_members (s : State) (au : Author) (pa : Nat) (bs : List Byte) (m : Bool) (k : Nat) : (s.writeMem au pa bs m).members k = s.members k := rfl
@[simp] theorem State.writeSpad_stack (s : State) (au : Author) (g off : Nat) (bs : List Byte) (m : Bool) (k : Nat) : (s.writeSpad au g off bs m).stack k = s.stack k := rfl
@[simp] theorem State.writeSpad_partition (s : State) (au : Author) (g off : Nat) (bs : List Byte) (m : Bool) (k : Nat) : (s.writeSpad au g off bs m).partition k = s.partition k := rfl
@[simp] theorem State.writeSpad_launchOf (s : State) (au : Author) (g off : Nat) (bs : List Byte) (m : Bool) (y : Gang) : (s.writeSpad au g off bs m).launchOf y = s.launchOf y := rfl
@[simp] theorem State.writeSpad_ctxOf (s : State) (au : Author) (g off : Nat) (bs : List Byte) (m : Bool) (y : Gang) : (s.writeSpad au g off bs m).ctxOf y = s.ctxOf y := rfl
@[simp] theorem State.writeSpad_members (s : State) (au : Author) (g off : Nat) (bs : List Byte) (m : Bool) (k : Nat) : (s.writeSpad au g off bs m).members k = s.members k := rfl
@[simp] theorem State.setRing_stack (s : State) (r : Ring) (k : Nat) : (s.setRing r).stack k = s.stack k := rfl
@[simp] theorem State.setRing_partition (s : State) (r : Ring) (k : Nat) : (s.setRing r).partition k = s.partition k := rfl
@[simp] theorem State.setRing_launchOf (s : State) (r : Ring) (y : Gang) : (s.setRing r).launchOf y = s.launchOf y := rfl
@[simp] theorem State.setRing_ctxOf (s : State) (r : Ring) (y : Gang) : (s.setRing r).ctxOf y = s.ctxOf y := rfl
@[simp] theorem State.setRing_members (s : State) (r : Ring) (k : Nat) : (s.setRing r).members k = s.members k := rfl

/-! ### The part that an update changes -/

@[simp] theorem aget_amod {α : Type} (m : List (Nat × α)) (k j : Nat) (f : α → α) :
    aget (amod m k f) j = if j = k then (aget m j).map f else aget m j := by
  induction m with
  | nil => simp [amod, aget]
  | cons p m ih =>
    have hc : amod (p :: m) k f = (if p.1 = k then (p.1, f p.2) else p) :: amod m k f := rfl
    rw [hc]
    by_cases hk : p.1 = k
    · simp only [hk, if_true, aget]
      by_cases hj : k = j
      · subst hj; simp
      · simp only [hj, if_false, ih]
    · simp only [hk, if_false, aget]
      by_cases hj : p.1 = j
      · subst hj; simp [hk]
      · simp only [hj, if_false, ih]

@[simp] theorem aget_aput {α : Type} (m : List (Nat × α)) (k j : Nat) (v : α) :
    aget (aput m k v) j = if j = k then some v else aget m j := by
  induction m with
  | nil => simp [aput, aget, eq_comm]
  | cons p m ih =>
    obtain ⟨a, w⟩ := p
    by_cases ha : a = k
    · subst ha
      by_cases hj : a = j
      · simp [aput, aget, hj]
      · simp [aput, aget, hj, Ne.symm hj]
    · simp only [aput, ha, if_false, aget, ih]
      by_cases hj : a = j
      · subst hj; simp [ha]
      · simp [hj]

@[simp] theorem State.modGang_gangs (s : State) (g : Nat) (f : Gang → Gang) : (s.modGang g f).gangs = amod s.gangs g f := rfl
@[simp] theorem State.modLaunch_launches (s : State) (l : Nat) (f : Launch → Launch) :
    (s.modLaunch l f).launches = amod s.launches l f := rfl
@[simp] theorem State.modContext_contexts (s : State) (c : Nat) (f : Context → Context) :
    (s.modContext c f).contexts = amod s.contexts c f := rfl
@[simp] theorem State.modQueue_queues (s : State) (q : Nat) (f : Queue → Queue) : (s.modQueue q f).queues = amod s.queues q f := rfl
@[simp] theorem State.modCommand_commands (s : State) (k : Nat) (f : Command → Command) :
    (s.modCommand k f).commands = amod s.commands k f := rfl
@[simp] theorem State.modOp_mxops (s : State) (m : Nat) (f : MxOp → MxOp) : (s.modOp m f).mxops = amod s.mxops m f := rfl
@[simp] theorem State.modPool_pools (s : State) (k : Nat) (f : Pool → Pool) : (s.modPool k f).pools = amod s.pools k f := rfl

/-- A stack after a stack changes. -/
theorem State.modStack_stack (s : State) (st k : Nat) (f : Stack → Stack) (h : st < s.stackTab.length) :
    (s.modStack st f).stack k = if k = st then f (s.stack k) else s.stack k := by
  simp only [State.stack, State.modStack, List.getD_eq_getElem?_getD, List.getElem?_modify]
  by_cases hk : k = st
  · subst hk; simp [h]
  · simp [hk, Ne.symm hk]

/-- A partition after a partition changes. -/
theorem State.modPartition_partition (s : State) (p k : Nat) (f : Partition → Partition) (h : p < s.partitions.length) :
    (s.modPartition p f).partition k = if k = p then f (s.partition k) else s.partition k := by
  simp only [State.partition, State.modPartition, List.getD_eq_getElem?_getD, List.getElem?_modify]
  by_cases hk : k = p
  · subst hk; simp [h]
  · simp [hk, Ne.symm hk]

/-- A wave after a wave changes. -/
theorem State.modWave_wave (s : State) (g w h k : Nat) (f : Wave → Wave) :
    (s.modWave g w f).wave h k = if h = g ∧ k = w then (s.wave h k).map f else s.wave h k := by
  simp only [State.wave, State.modWave, State.modGang_gangs, aget_amod]
  by_cases hg : h = g
  · subst hg
    by_cases hw : k = w
    · subst hw
      cases aget s.gangs h <;> simp
    · cases aget s.gangs h <;> simp [hw, Ne.symm hw]
  · simp [hg]

end Sys2Proof.Machine
end

