-- ==== Sys2Proof/Tests/Slice0.lean ====
section
/-! SUPPORT. Tests: terms that well-formedness refuses, words written out from the manual's encodings, worked values, and for
each statement states and operands that meet what it supposes. Expected values come from the manual, by rule or by hand. -/
namespace Sys2Proof.Tests
open Sys2Proof.Machine

/-! ### States to test on -/

/-- Wave 0 of gang 0 is about to run this word, at PC 0 of its code. -/
def ready (i : Instr) : State := State.reset.withFetchWord 32 (encode i).toNat

/-- The word issues to execution there, and its issue has a property. -/
def meets (i : Instr) (s : State) (p : Issue → Bool) : Bool :=
  match decideIssue i s with
  | .go c => p c
  | _ => false

/-- What `meets` says: the supposition of the statements about words. -/
theorem meets_executes {i : Instr} {s : State} {p : Issue → Bool} (h : meets i s p = true) :
    ∃ c, Executes i s c ∧ p c = true := by
  unfold meets at h
  split at h
  · exact ⟨_, ‹_›, h⟩
  · cases h

def runs (i : Instr) : Bool := meets i (ready i) (fun c => c.any)

def onWave (s : State) (f : Wave → Wave) : State := s.modWave 0 0 f
def onCore (s : State) (f : WaveCore → WaveCore) : State := onWave s (fun w => { w with core := f w.core })
def onLanes (s : State) (f : Lane → Lane) : State := onCore s (fun k => { k with lanes := k.lanes.map f })
def onGang (s : State) (f : Gang → Gang) : State := s.modGang 0 f
def onContext (s : State) (f : Context → Context) : State := s.modContext 0 f
def onLaunch (s : State) (f : Launch → Launch) : State := s.modLaunch 0 f
def onDesc (s : State) (f : Desc → Desc) : State := onLaunch s (fun l => { l with desc := f l.desc })

/-- Every lane holds these registers; the wave holds these uniform registers. -/
def regs (s : State) (rs : List (Nat × W32)) : State := onLanes s (fun l => { l with regs := rs })
def uni (s : State) (rs : List (Nat × W64)) : State := onCore s (fun k => { k with s := rs })

/-- The state after an instruction; the state before it where there is none. -/
def after (i : Instr) (s : State) : State := match exec i s with | .next t => t | _ => s

/-- The core of wave 0 of gang 0. -/
def coreOf (s : State) : WaveCore := ((s.wave 0 0).map Wave.core).getD (WaveCore.start 0 0 0 [])

/-- What lane 0 holds in a register after a word that ran on these registers. -/
def gives (i : Instr) (rs : List (Nat × W32)) (r : Nat) : W32 :=
  Sparse.get 0 ((coreOf (after i (regs (ready i) rs))).lane 0).regs r

/-- The same for a pair. -/
def gives64 (i : Instr) (rs : List (Nat × W32)) (r : Nat) : W64 := (gives i rs (r + 1)) ++ (gives i rs r)

/-- What uniform register holds after a word that ran on these uniform registers. -/
def givesU (i : Instr) (rs : List (Nat × W64)) (r : Nat) : W64 := Sparse.get 0 (coreOf (after i (uni (ready i) rs))).s r

/-- The predicate of lane 0 after a word. -/
def givesP (i : Instr) (rs : List (Nat × W32)) (q : BitVec 4) : Bool := ((coreOf (after i (regs (ready i) rs))).lane 0).pred q

/-- Wave 0 of gang 0 stands there, with a property. -/
def waveMeets (s : State) (p : Gang → Wave → Bool) : Bool :=
  match aget s.gangs 0 with
  | some g => (match g.waves[0]? with | some w => p g w | none => false)
  | none => false

/-! ### Ill-formed terms -/

theorem test_ill_formed_latchDestination : Instr.formError (.add32 false 120 0 0) = some .latchDestination := by decide
theorem test_ill_formed_nwDestination : Instr.formError (.add32 true 1 0 0) = some .nwDestination := by decide
theorem test_ill_formed_oddPair : Instr.formError (.addInt64 false 2 3 4) = some .oddPair := by decide
theorem test_ill_formed_oddDestinationPair : Instr.formError (.addInt64 false 3 2 4) = some .oddPair := by decide
theorem test_ill_formed_wideDestination : Instr.formError (.movFromUniform false 5 0 true) = some .oddPair := by decide
theorem test_ill_formed_addendLatch : Instr.formError (.mad false 120 0 0) = some .latchDestination := by decide
theorem test_ill_formed_addendPair : Instr.formError (.fmaFp64 .rn true 3 2 4) = some .oddPair := by decide
theorem test_ill_formed_readDestination : Instr.formError (.mwait 127 0) = some .latchDestination := by decide
theorem test_ill_formed_quad : Instr.formError (.ldv .gen false 118 0 .none false) = some .notQuad := by decide
theorem test_ill_formed_uniform : Instr.formError (.addUint 64 0 0) = some .notUniform := by decide
theorem test_ill_formed_queue : Instr.formError (.qw 16 0) = some .notQueue := by decide
theorem test_ill_formed_token : Instr.formError (.cpy true 1 0 false) = some .tokenForm := by decide
theorem test_ill_formed_getsNumber : Instr.formError (.gets false 0 0x13) = some .specialRegister := by decide
theorem test_ill_formed_getsPair : Instr.formError (.gets false 1 0x0A) = some .oddPair := by decide
theorem test_ill_formed_setsNumber : Instr.formError (.sets 0x0D 0) = some .specialRegister := by decide
theorem test_ill_formed_windowBase : Instr.formError (.winb 50) = some .windowBase := by decide
theorem test_ill_formed_guardCount : Instr.formError (.guard 0 false 0) = some .guardCount := by decide
theorem test_ill_formed_guardCountHigh : Instr.formError (.guard 17 false 0) = some .guardCount := by decide
theorem test_ill_formed_neverBranch : Instr.formError (.bra 0 true 0 0) = some .neverBranch := by decide
theorem test_ill_formed_orderScope : Instr.formError (.ld .gen true 0 0 .b32 .none false) = some .access := by decide
theorem test_ill_formed_constantOrder : Instr.formError (.ld .cst false 0 0 .b32 .gang false) = some .access := by decide
theorem test_ill_formed_storeType : Instr.formError (.st .gen false 0 0 .i8 .none false) = some .access := by decide
theorem test_ill_formed_cvtSame : Instr.formError (.cvt .rn .f32 false 0 0 .f32) = some .conversion := by decide
theorem test_ill_formed_cvtStochastic : Instr.formError (.cvt .rs .f64 false 0 0 .f32) = some .conversion := by decide
theorem test_ill_formed_pack4Source : Instr.formError (.pack4 .rn .e4m3 false 0 0 .f16) = some .conversion := by decide
theorem test_ill_formed_fence : Instr.formError (.fence .none .rel true) = some .fence := by decide
theorem test_ill_formed_atomScope : Instr.formError (.atom .add32 0 0 .none .rlx .gen) = some .atomic := by decide
theorem test_ill_formed_matomOrder : Instr.formError (.matom .add32 0 0 .gang .acq) = some .atomic := by decide
theorem test_ill_formed_casOperand : Instr.formError (.atom .cas32 1 0 .gang .rlx .gen) = some .atomic := by decide
theorem test_ill_formed_barrier : Instr.formError (.bar 0 .wait .gang true) = some .barrier := by decide

/-! ### Words of the manual

Each word is one of the manual's own examples or is written out from the field places of R55 to R77: major in bits 31:27,
function and subfields below it, nw in bit 21, d in 20:14, a in 13:7, b in 6:0. -/

theorem test_decode_system_and_control : ∀ p ∈ ([
  (0x00400000, .nop),
  (0x00C00000, .tret),
  (0x01400000, .gets false 0 0),
  (0x02400000, .exit),
  (0x02800000, .ret),
  (0x02C0020C, .brx 4 12),
  (0x03000314, .callx 6 20),
  (0x03400005, .prio 5),
  (0x03808000, .jmsk 2),
  (0x04800000, .yield),
  (0x04C08013, .guard 2 true 3),
  (0x101E0010, .call 0 false 30 16)] : List (Nat × Instr)),
    decodeTableWord 32 p.1 = some p.2 := by decide

theorem test_decode_integer : ∀ p ∈ ([
  (0x18010082, .add32 false 4 1 2),
  (0x1841C189, .sub32 false 7 3 9),
  (0x1E4082A3, .shri false 2 5 3),
  (0x1F810085, .clz false 4 1),
  (0x28010202, .addUint 4 4 2),
  (0x4D43063C, .addi 2748 false 12 12),
  (0x71032346, .lui 74566 false 12),
  (0x80810200, .uaddi 256 4 4),
  (0x42020082, .addc 4 false 8 1 2)] : List (Nat × Instr)),
    decodeTableWord 32 p.1 = some p.2 := by decide

theorem test_decode_predicates_and_selection : ∀ p ∈ ([
  (0x3008C082, .cmp false .lt 3 1 2),
  (0x68354264, .cmpi 100 true .ge 5 4),
  (0x39018083, .selB32 2 false 6 1 3)] : List (Nat × Instr)),
    decodeTableWord 32 p.1 = some p.2 := by decide

theorem test_decode_lane_exchange : ∀ p ∈ ([
  (0x32424880, .voteBallot false 9 true 1),
  (0x3342818B, .shflXor false 10 3 11),
  (0x33814180, .bcst false 5 3),
  (0x33C18000, .elect 6)] : List (Nat × Instr)),
    decodeTableWord 32 p.1 = some p.2 := by decide

theorem test_decode_floating_point : ∀ p ∈ ([
  (0x90010082, .faddFp32 .rn false 4 1 2),
  (0x94420103, .fmaFp32 .rz false 8 2 3),
  (0x9600C187, .fsclFp32 .rn false 3 3 7),
  (0x97C14081, .frcp .ru false 5 1),
  (0x9F028300, .fsqrtFp64 .rn false 10 6),
  (0xA5024082, .hfma2 true .rn false 9 1 2),
  (0xA8C10082, .fmaxn false false 4 1 2),
  (0xADC1C400, .fclass true false 7 8),
  (0xAA58C082, .fcmp false .un 3 1 2),
  (0xB50182B1, .cvt .rs .bf16 false 6 5 .f32),
  (0xB2408081, .cvt .rz .i32 false 2 1 .f32),
  (0xB0850441, .pack4 .rn .e4m3 false 20 8 .f32)] : List (Nat × Instr)),
    decodeTableWord 32 p.1 = some p.2 := by decide

theorem test_decode_memory_and_atomics : ∀ p ∈ ([
  (0xB8228303, .ldo 3 true 10 6),
  (0xC0014102, .sto 2 false 5 2),
  (0xC8620346, .ld .glb true 8 6 .b32 .stack false),
  (0xC9628258, .st .glb true 10 4 .b64 .pkg false),
  (0xC8830160, .ldv .spd false 12 2 .none false),
  (0xC8C0C220, .ld .cst false 3 4 .n16 .none false),
  (0xCA01C104, .ldx false 7 2 4),
  (0xCA800321, .pref 6 .glb true),
  (0xCAC00046, .fence .pkg .rel true),
  (0xCB0A0206, .mon .ge true 4 6),
  (0xCB408180, .mwait 2 3),
  (0xD5630225, .atomr .cas64 12 4 .gang .acq .glb),
  (0xD5814443, .matom .faddF32 5 8 .pkg .rlx)] : List (Nat × Instr)),
    decodeTableWord 32 p.1 = some p.2 := by decide

theorem test_decode_barriers_and_queues : ∀ p ∈ ([
  (0xD800C024, .bar 3 .sync .gang false),
  (0xD8000026, .bar 0 .sync .gang true),
  (0xD800400C, .bar 1 .arv .pkg false),
  (0xD8008030, .bar 2 .drop .wave false),
  (0xD8800200, .qw 0 4),
  (0xD8C18400, .qr 6 8),
  (0xD9018182, .qrt 6 3 2),
  (0xD941C000, .qst 7 0),
  (0xD9C00500, .tkwVis 10)] : List (Nat × Instr)),
    decodeTableWord 32 p.1 = some p.2 := by decide

theorem test_decode_engines_and_matrix : ∀ p ∈ ([
  (0xDA030181, .cpy false 12 3 true),
  (0xDA200180, .cpy true 0 3 false),
  (0xDAC14100, .bin false 5 2),
  (0xDB450A80, .shape 20 21),
  (0xDB820480, .mxls false 8 9),
  (0xDC020480, .mxgo false 8 9),
  (0xDC440480, .mxrd 16 9),
  (0xDC800480, .mxz 9)] : List (Nat × Instr)),
    decodeTableWord 32 p.1 = some p.2 := by decide

/-- The words that the manual gives as illegal, and the rule that each breaks where the manual names it. -/
theorem test_illegal_words : ∀ w ∈ ([
  0x1861C189, 0x1E4082E3, 0x301CC082, 0x28010242, 0x9F028301, 0xA7024082, 0xA9C10082, 0xAA78C082, 0xB60182B1, 0x01418D00, 0x0141C500, 0x01800503, 0x01C00060, 0x00804005, 0xC8620340, 0xC9628218, 0xCAC00000, 0xD5A14447, 0xCB1A0206, 0, 0xFFFFFFFF, 0xE0000000] : List Nat), decodeTableWord 32 w = none := by decide

theorem test_illegal_names : ∀ p ∈ ([
  (0x1861C189, .nwDestination),
  (0x1E4082E3, .illegalCode),
  (0x301CC082, .illegalCode),
  (0x28010242, .notUniform),
  (0x9F028301, .illegalCode),
  (0xA7024082, .reservedFunction),
  (0xA9C10082, .reservedBits),
  (0xAA78C082, .reservedBits),
  (0xB60182B1, .illegalCode),
  (0, .permanentlyIllegal),
  (0xFFFFFFFF, .permanentlyIllegal),
  (0xE0000000, .reservedMajor)] : List (W32 × DecodeError)),
    (match decode p.1 with | .error e => e == p.2 | .ok _ => false) = true := by decide

/-! ### The supposition of the statements about words

Every instruction word but TRET issues to execution in the state that is about to run it, with all 32 lanes active: the
operands are at the ends of their ranges. TRET does so in handler mode. So each statement that begins with `Executes` has
states to speak of. -/

theorem witness_system_and_control : ∀ i ∈ ([.nop,
  .trap 127,
  .brk 127,
  .gets false 60 0x0F,
  .sets 0x0F 52,
  .xen .clear 31,
  .xflg .clear 31,
  .exit,
  .ret,
  .brx 56 63,
  .callx 56 63,
  .prio 63,
  .jmsk 7,
  .join 7,
  .winb 49,
  .valid .full,
  .yield,
  .guard 16 false 15,
  .bra 15 false 63 0x8000,
  .call 15 false 63 0x8000] : List Instr), runs i = true := by decide

theorem witness_integer_32 : ∀ i ∈ ([.add32 false 60 56 52,
  .sub32 false 60 56 52,
  .mull false 60 56 52,
  .mulhI32 false 60 56 52,
  .mulhN32 false 60 56 52,
  .mad false 60 56 52,
  .div32 false false 60 56 52,
  .rem32 false false 60 56 52,
  .min32 false false 60 56 52,
  .max32 false false 60 56 52,
  .sadd false false 60 56 52,
  .ssub false false 60 56 52,
  .and32 false 60 56 52,
  .or32 false 60 56 52,
  .xor32 false 60 56 52,
  .shl false 60 56 52,
  .shr false 60 56 52,
  .sar false 60 56 52,
  .rotl false 60 56 52,
  .shli false 60 56 31,
  .shri false 60 56 31,
  .sari false 60 56 31,
  .bfx false false 60 56 52,
  .bfi false 60 56 52,
  .permb false 60 56 52,
  .mov false 60 56,
  .not32 false 60 56,
  .neg32 false 60 56,
  .abs32 false 60 56,
  .popc false 60 56,
  .clz false 60 56,
  .ctz false 60 56,
  .brev false 60 56] : List Instr), runs i = true := by decide

theorem witness_integer_64 : ∀ i ∈ ([.addInt64 false 60 56 52,
  .subInt64 false 60 56 52,
  .mullInt64 false 60 56 52,
  .minI64 false 60 56 52,
  .minN64 false 60 56 52,
  .maxI64 false 60 56 52,
  .maxN64 false 60 56 52,
  .andInt64 false 60 56 52,
  .orInt64 false 60 56 52,
  .xorInt64 false 60 56 52,
  .shlInt64 false 60 56 52,
  .shrInt64 false 60 56 52,
  .sarInt64 false 60 56 52,
  .shliInt64 false 60 56 63,
  .shriInt64 false 60 56 63,
  .sariInt64 false 60 56 63,
  .movInt64 false 60 56,
  .notInt64 false 60 56,
  .negInt64 false 60 56,
  .absInt64 false 60 56,
  .popcInt64 false 60 56,
  .clzInt64 false 60 56,
  .ctzInt64 false 60 56,
  .brevInt64 false 60 56,
  .leaI32 false 60 56 52,
  .leaN32 false 60 56 52] : List Instr), runs i = true := by decide

theorem witness_uniform : ∀ i ∈ ([.addUint 60 56 52,
  .subUint 60 56 52,
  .mullUint 60 56 52,
  .mulhI64 60 56 52,
  .mulhN64 60 56 52,
  .madUint 60 56 52,
  .minUint false 60 56 52,
  .maxUint false 60 56 52,
  .andUint 60 56 52,
  .orUint 60 56 52,
  .xorUint 60 56 52,
  .shlUint 60 56 52,
  .shrUint 60 56 52,
  .sarUint 60 56 52,
  .shliUint 60 56 63,
  .shriUint 60 56 63,
  .sariUint 60 56 63,
  .bfxI64 60 56 52,
  .bfxN64 60 56 52,
  .bfiUint 60 56 52,
  .movUint 60 56,
  .notUint 60 56,
  .negUint 60 56,
  .absUint 60 56,
  .popcUint 60 56,
  .clzUint 60 56,
  .ctzUint 60 56,
  .brevUint 60 56] : List Instr), runs i = true := by decide

theorem witness_predicates_lanes_immediates : ∀ i ∈ ([.cmp false .ge 15 56 52,
  .cmp64 false .ge 15 56 52,
  .pand 15 false 15 false 15,
  .por 15 false 15 false 15,
  .pxor 15 false 15 false 15,
  .pnot 15 false 15,
  .pmov 15 false 15,
  .voteAll 15 false 15,
  .voteAny 15 false 15,
  .voteBallot false 60 false 15,
  .shflIdx false 60 56 52,
  .shflUp false 60 56 52,
  .shflDown false 60 56 52,
  .shflXor false 60 56 52,
  .bcst false 60 56,
  .elect 15,
  .movFromUniform false 60 56 false,
  .selB32 15 false 60 56 52,
  .selB64 15 false 60 56 52,
  .addc 15 false 60 56 52,
  .subc 15 false 60 56 52,
  .addi 0x800 false 60 56,
  .andi 0x800 false 60 56,
  .ori 0x800 false 60 56,
  .xori 0x800 false 60 56,
  .cmpi 0x800 false .ge 15 56,
  .lui 0x40000 false 60,
  .movi 0x40000 false 60,
  .uaddi 0x800 60 56,
  .umovi 0x40000 60,
  .umoviLui 0x40000 60] : List Instr), runs i = true := by decide

theorem witness_float_32 : ∀ i ∈ ([.faddFp32 .ru false 60 56 52,
  .fsubFp32 .ru false 60 56 52,
  .fmulFp32 .ru false 60 56 52,
  .fdivFp32 .ru false 60 56 52,
  .fmaFp32 .ru false 60 56 52,
  .fnmaFp32 .ru false 60 56 52,
  .fsclFp32 .ru false 60 56 52,
  .fsqrtFp32 .ru false 60 56,
  .frcp .ru false 60 56,
  .frsq .ru false 60 56,
  .fexp2 .ru false 60 56,
  .flog2 .ru false 60 56,
  .frndFp32 .ru false 60 56,
  .frndRnaFp32 false 60 56] : List Instr), runs i = true := by decide

theorem witness_float_64_and_packed : ∀ i ∈ ([.faddFp64 .ru false 60 56 52,
  .fsubFp64 .ru false 60 56 52,
  .fmulFp64 .ru false 60 56 52,
  .fdivFp64 .ru false 60 56 52,
  .fmaFp64 .ru false 60 56 52,
  .fnmaFp64 .ru false 60 56 52,
  .fsclFp64 .ru false 60 56 52,
  .fsqrtFp64 .ru false 60 56,
  .frndFp64 .ru false 60 56,
  .frndRnaFp64 false 60 56,
  .hadd2 false .ru false 60 56 52,
  .hmul2 false .ru false 60 56 52,
  .hfma2 false .ru false 60 56 52,
  .hmin2 false false 60 56 52,
  .hmax2 false false 60 56 52,
  .fmin false false 60 56 52,
  .fmax false false 60 56 52,
  .fminn false false 60 56 52,
  .fmaxn false false 60 56 52,
  .fabs false false 60 56,
  .fneg false false 60 56,
  .fcpys false false 60 56 52,
  .fclass false false 60 56,
  .fext false false 60 56,
  .fcmp false .ord 15 56 52] : List Instr), runs i = true := by decide

theorem witness_conversions : ∀ i ∈ ([.cvt .rs .e5m2 false 60 56 .f64,
  .pack4 .rs .e5m2 false 60 56 .f32] : List Instr), runs i = true := by decide

theorem witness_memory_and_atomics : ∀ i ∈ ([.ldo 0x800 true 60 56,
  .sto 0x800 true 60 56,
  .ld .glb false 60 56 .b64 .sys false,
  .ldv .glb false 60 56 .sys false,
  .st .glb false 60 56 .b64 .sys false,
  .stv .glb false 60 56 .sys false,
  .ldx true 60 56 52,
  .stx true 60 56 52,
  .pref 56 .glb false,
  .fence .sys .both false,
  .mon .ge true 56 52,
  .mwait 60 56,
  .atom .cas64 60 56 .sys .rel .glb,
  .atomr .cas64 60 56 .sys .rel .glb,
  .matom .cas64 60 56 .sys .rel,
  .matomr .cas64 60 56 .sys .rel] : List Instr), runs i = true := by decide

theorem witness_barriers_queues_engines_matrix : ∀ i ∈ ([.bar 15 .sync .gang false,
  .specx,
  .qw 8 56,
  .qr 60 8,
  .qrt 60 8 15,
  .qst 60 8,
  .tkwSrc 56,
  .tkwVis 56,
  .cpy false 60 56 false,
  .gat false 60 56 false,
  .sct false 60 56 false,
  .bin false 60 56,
  .coll false 60 56 false,
  .shape 60 56,
  .mxls false 60 56,
  .mxsw,
  .mxgo false 60 56,
  .mxrd 60 56,
  .mxz 56,
  .mxst false 60 56,
  .tidw 56 52,
  .tidr 56 52] : List Instr), runs i = true := by decide

theorem witness_tret : meets .tret (onCore (ready .tret) (fun k => { k with handler := true })) (fun c => c.any) = true := by decide

/-! ### Worked values

Each row is a word, the registers that every lane holds before it, the register looked at, and the value there after it. -/

/-- R111 to R113: wrap, truncation, the fixed results of division, saturation. -/
theorem test_arithmetic_values : ∀ e ∈ ([
  (.add32 false 4 1 2, [(1, 0xFFFFFFFF), (2, 2)], 4, 1),
  (.sub32 false 4 1 2, [(2, 1)], 4, 0xFFFFFFFF),
  (.mull false 4 1 2, [(1, 0x10001), (2, 0x10001)], 4, 0x20001),
  (.mulhI32 false 4 1 2, [(1, 0x80000000), (2, 2)], 4, 0xFFFFFFFF),
  (.mulhN32 false 4 1 2, [(1, 0x80000000), (2, 2)], 4, 1),
  (.mad false 4 1 2, [(1, 3), (2, 4), (4, 5)], 4, 17),
  (.div32 false false 4 1 2, [(1, 0xFFFFFFF9), (2, 2)], 4, 0xFFFFFFFD),
  (.div32 true false 4 1 2, [(1, 7)], 4, 0xFFFFFFFF),
  (.rem32 false false 4 1 2, [(1, 0xFFFFFFF9), (2, 2)], 4, 0xFFFFFFFF),
  (.rem32 false false 4 1 2, [(1, 0x80000000), (2, 0xFFFFFFFF)], 4, 0),
  (.min32 false false 4 1 2, [(1, 0x80000000), (2, 1)], 4, 0x80000000),
  (.min32 true false 4 1 2, [(1, 0x80000000), (2, 1)], 4, 1),
  (.max32 false false 4 1 2, [(1, 0x80000000), (2, 1)], 4, 1),
  (.sadd false false 4 1 2, [(1, 0x7FFFFFFF), (2, 1)], 4, 0x7FFFFFFF),
  (.sadd true false 4 1 2, [(1, 0xFFFFFFFF), (2, 1)], 4, 0xFFFFFFFF),
  (.ssub false false 4 1 2, [(1, 0x80000000), (2, 1)], 4, 0x80000000),
  (.ssub true false 4 1 2, [(1, 1), (2, 2)], 4, 0)] : List (Instr × List (Nat × W32) × Nat × W32)),
    gives e.1 e.2.1 e.2.2.1 = e.2.2.2 := by decide

/-- R114 to R119: shifts at and past the width, the manual's bit-field examples, PERMB, unary words, the constant built by
LUI and ADDI. -/
theorem test_bit_values : ∀ e ∈ ([
  (.shl false 4 1 2, [(1, 1), (2, 32)], 4, 0), (.shl false 4 1 2, [(1, 3), (2, 31)], 4, 0x80000000),
  (.shr false 4 1 2, [(1, 0x80000000), (2, 31)], 4, 1),
  (.sar false 4 1 2, [(1, 0x80000000), (2, 40)], 4, 0xFFFFFFFF),
  (.rotl false 4 1 2, [(1, 0x80000001), (2, 36)], 4, 0x18),
  (.shli false 4 1 31, [(1, 1)], 4, 0x80000000), (.shri false 2 5 3, [(5, 0x80)], 2, 0x10),
  (.sari false 4 1 4, [(1, 0xF0000000)], 4, 0xFF000000),
  (.bfx false false 4 1 2, [(1, 0x00000F00), (2, 0x00000408)], 4, 0xFFFFFFFF),
  (.bfx false false 4 1 2, [(1, 0x00000F00), (2, 0x00001408)], 4, 0x0000000F),
  (.bfi false 4 1 2, [(2, 0x00001408), (4, 0xAAAAAAAA)], 4, 0xA00000AA),
  (.permb false 4 1 2, [(1, 0x44332211), (2, 0xF740), (4, 0x88776655)], 4, 0xFF885511),
  (.and32 false 4 1 2, [(1, 0xC), (2, 0xA)], 4, 8), (.or32 false 4 1 2, [(1, 0xC), (2, 0xA)], 4, 14),
  (.xor32 false 4 1 2, [(1, 0xC), (2, 0xA)], 4, 6), (.not32 false 4 1, [(1, 5)], 4, 0xFFFFFFFA),
  (.neg32 false 4 1, [(1, 0xFFFFFF6C)], 4, 148), (.abs32 false 4 1, [(1, 0x80000000)], 4, 0x80000000),
  (.popc false 4 1, [(1, 0xF000000F)], 4, 8), (.clz false 4 1, [], 4, 32), (.clz false 4 1, [(1, 1)], 4, 31),
  (.ctz false 4 1, [(1, 0x80000000)], 4, 31), (.brev false 4 1, [(1, 6)], 4, 0x60000000),
  (.lui 0x12346 false 12, [], 12, 0x12346000), (.addi 0xABC false 12 12, [(12, 0x12346000)], 12, 0x12345ABC),
  (.movi 0x7FFFF false 4, [], 4, 0xFFFFFFFF), (.andi 0xFFF false 4 1, [(1, 0x12345678)], 4, 0x12345678),
  (.ori 0x800 false 4 1, [], 4, 0xFFFFF800), (.xori 1 false 4 1, [(1, 3)], 4, 2)] :
    List (Instr × List (Nat × W32) × Nat × W32)), gives e.1 e.2.1 e.2.2.1 = e.2.2.2 := by decide

/-- Pairs carry across their halves; LEA extends its offset; counts of pairs are 64 bits wide (R111, R117, R118). -/
theorem test_pair_values : ∀ e ∈ ([
  (.addInt64 false 4 0 2, [(0, 0xFFFFFFFF), (2, 1)], 4, 0x100000000),
  (.subInt64 false 4 0 2, [(1, 1), (2, 1)], 4, 0xFFFFFFFF),
  (.mullInt64 false 4 0 2, [(0, 0xFFFFFFFF), (2, 0xFFFFFFFF)], 4, 0xFFFFFFFE00000001),
  (.minI64 false 4 0 2, [(1, 0x80000000), (2, 1)], 4, 0x8000000000000000),
  (.maxN64 false 4 0 2, [(1, 0x80000000), (2, 1)], 4, 0x8000000000000000),
  (.shlInt64 false 4 0 2, [(0, 1), (2, 63)], 4, 0x8000000000000000), (.shlInt64 false 4 0 2, [(0, 1), (2, 64)], 4, 0),
  (.sarInt64 false 4 0 2, [(1, 0x80000000), (2, 64)], 4, 0xFFFFFFFFFFFFFFFF),
  (.shriInt64 false 4 0 63, [(1, 0x80000000)], 4, 1),
  (.leaI32 false 4 0 2, [(0, 4), (2, 0xFFFFFFFC)], 4, 0), (.leaN32 false 4 0 2, [(0, 4), (2, 0xFFFFFFFC)], 4, 0x100000000),
  (.negInt64 false 4 0, [(0, 1)], 4, 0xFFFFFFFFFFFFFFFF), (.clzInt64 false 4 0, [(0, 1)], 4, 63),
  (.brevInt64 false 4 0, [(0, 1)], 4, 0x8000000000000000)] : List (Instr × List (Nat × W32) × Nat × W64)),
    gives64 e.1 e.2.1 e.2.2.1 = e.2.2.2 := by decide

/-- Uniform words act once on 64 bits (R106, R111, R114, R119). -/
theorem test_uniform_values : ∀ e ∈ ([
  (.addUint 4 1 2, [(1, 0xFFFFFFFFFFFFFFFF), (2, 2)], 4, 1),
  (.mulhN64 4 1 2, [(1, 0x8000000000000000), (2, 2)], 4, 1),
  (.mulhI64 4 1 2, [(1, 0x8000000000000000), (2, 2)], 4, 0xFFFFFFFFFFFFFFFF),
  (.madUint 4 1 2, [(1, 3), (2, 4), (4, 5)], 4, 17),
  (.shlUint 4 1 2, [(1, 1), (2, 0x100000000)], 4, 0), (.sarUint 4 1 2, [(1, 0x8000000000000000), (2, 64)], 4, 0xFFFFFFFFFFFFFFFF),
  (.minUint true 4 1 2, [(1, 0x8000000000000000), (2, 1)], 4, 1),
  (.uaddi 0xFFF 4 1, [(1, 1)], 4, 0), (.umovi 0x40000 4, [], 4, 0xFFFFFFFFFFFC0000), (.umoviLui 1 4, [], 4, 4096),
  (.popcUint 4 1, [(1, 0xFFFFFFFFFFFFFFFF)], 4, 64)] : List (Instr × List (Nat × W64) × Nat × W64)),
    givesU e.1 e.2.1 e.2.2.1 = e.2.2.2 := by decide

/-- Signed and unsigned compares differ; p0 reads 1 and ignores a write (R21, R121). -/
theorem test_compare_values : ∀ e ∈ ([
  (.cmp false .lt 3 1 2, [(1, 0x80000000)], 3, true), (.cmp true .lt 3 1 2, [(1, 0x80000000)], 3, false),
  (.cmp false .lt 0 1 2, [(2, 0x80000000)], 0, true), (.cmpi 0xFFF true .eq 3 1, [(1, 0xFFFFFFFF)], 3, true),
  (.cmp64 true .gt 3 0 2, [(1, 1), (2, 0xFFFFFFFF)], 3, true), (.pnot 3 false 0, [], 3, false),
  (.pand 3 true 1 false 0, [], 3, true), (.pxor 3 false 0 false 0, [], 3, false), (.por 3 false 1 false 2, [], 3, false)] :
    List (Instr × List (Nat × W32) × BitVec 4 × Bool)), givesP e.1 e.2.1 e.2.2.1 = e.2.2.2 := by decide

/-- ADDC writes the carry of its sum, and SUBC the borrow, into its predicate (R122). -/
theorem test_carry : gives (.addc 4 false 8 1 2) [(1, 0xFFFFFFFF), (2, 1)] 8 = 0 ∧
    givesP (.addc 4 false 8 1 2) [(1, 0xFFFFFFFF), (2, 1)] 4 = true ∧
    gives (.subc 4 false 8 1 2) [(2, 1)] 8 = 0xFFFFFFFF ∧ givesP (.subc 4 false 8 1 2) [(2, 1)] 4 = true := by decide

/-- The registers of the manual's lane-exchange example: v3 = 10 * laneid, v11 = 2, v12 = 40; lanes 0 to 5 only. -/
def laneExample (i : Instr) : State :=
  let s := onCore (ready i) (fun k => { k with
    lanes := k.lanes.mapIdx (fun n l => { l with regs := [(3, BitVec.ofNat 32 (10 * n)), (11, 2), (12, 40)] })
    frontier := k.frontier.map (fun e => { e with lanes := 0x3F }) })
  s

/-- What lanes 0 to 6 hold in a register after a word of that example. -/
def laneValues (i : Instr) (r : Nat) : List W32 :=
  (List.range 7).map (fun n => Sparse.get 0 ((coreOf (after i (laneExample i))).lane n).regs r)

theorem test_shfl_down : laneValues (.shflDown false 4 3 11) 4 = [20, 30, 40, 50, 40, 50, 0] := by decide
theorem test_shfl_idx_out_of_range : laneValues (.shflIdx false 5 3 12) 5 = [0, 10, 20, 30, 40, 50, 0] := by decide
theorem test_shfl_up : laneValues (.shflUp false 4 3 11) 4 = [0, 10, 0, 10, 20, 30, 0] := by decide
theorem test_shfl_xor : laneValues (.shflXor false 4 3 11) 4 = [20, 30, 0, 10, 40, 50, 0] := by decide
theorem test_ballot : laneValues (.voteBallot false 6 false 0) 6 = [63, 63, 63, 63, 63, 63, 0] := by decide
theorem test_elect : (List.range 3).map (fun n => ((coreOf (after (.elect 6) (laneExample (.elect 6)))).lane n).pred 6) =
    [true, false, false] := by decide
theorem test_bcst : Sparse.get 0 (coreOf (after (.bcst false 5 11) (laneExample (.bcst false 5 11)))).s 5 = 2 := by decide

/-- xflags of lane 0 after a word. -/
def flags (i : Instr) (rs : List (Nat × W32)) : BitVec 5 := ((coreOf (after i (regs (ready i) rs))).lane 0).xflags

/-- Value and flags (invalid 1, divide-by-zero 2, overflow 4, underflow 8, inexact 16) of the manual's floating-point
examples, R97 to R145. -/
theorem test_float_values : ∀ e ∈ ([
  (.fmulFp32 .rn false 4 1 2, [(1, 0x3F800800), (2, 0x3F800800)], 4, 0x3F801000, 16),
  (.faddFp32 .rn false 5 4 3, [(4, 0x3F801000), (3, 0xBF801000)], 5, 0, 0),
  (.fmaFp32 .rn false 6 1 2, [(1, 0x3F800800), (2, 0x3F800800), (6, 0xBF801000)], 6, 0x33800000, 0),
  (.fext false false 2 1, [(1, 3)], 2, 0xFFFFFF6C, 0), (.fsclFp32 .rn false 4 1 3, [(1, 3), (3, 148)], 4, 0x3FC00000, 0),
  (.fdivFp32 .rn false 4 1 2, [(1, 0x3F800000)], 4, 0x7F800000, 2), (.frcp .rn false 4 1, [(1, 0x80000000)], 4, 0xFF800000, 2),
  (.frsq .rn false 4 1, [(1, 0x40800000)], 4, 0x3F000000, 0), (.flog2 .rn false 4 1, [(1, 0x41000000)], 4, 0x40400000, 0),
  (.fexp2 .rn false 4 1, [(1, 0x40400000)], 4, 0x41000000, 0), (.fsqrtFp32 .rn false 4 1, [(1, 0x41100000)], 4, 0x40400000, 0),
  (.fsqrtFp32 .rn false 4 1, [(1, 0xBF800000)], 4, 0x7FC00000, 1),
  (.frndFp32 .rd false 4 1, [(1, 0xBE99999A)], 4, 0xBF800000, 0), (.frndRnaFp32 false 4 1, [(1, 0xBE99999A)], 4, 0x80000000, 0),
  (.fmin false false 4 1 2, [(2, 0x80000000)], 4, 0x80000000, 0), (.fmax false false 4 1 2, [(1, 0x7FC00001)], 4, 0x7FC00000, 0),
  (.fminn false false 4 1 2, [(1, 0x7F800001), (2, 0x3F800000)], 4, 0x3F800000, 1),
  (.fabs false false 4 1, [(1, 0xFF800001)], 4, 0x7F800001, 0), (.fneg false false 4 1, [(1, 0x3F800000)], 4, 0xBF800000, 0),
  (.fcpys false false 4 1 2, [(1, 0x3F800000), (2, 0x80000000)], 4, 0xBF800000, 0),
  (.hadd2 false .rn false 4 1 2, [(1, 0x3C007BFF), (2, 0x3C007BFF)], 4, 0x40007C00, 20),
  (.hmax2 true false 4 1 2, [(1, 0x3F803F80), (2, 0x4000BF80)], 4, 0x40003F80, 0)] :
    List (Instr × List (Nat × W32) × Nat × W32 × BitVec 5)),
    gives e.1 e.2.1 e.2.2.1 = e.2.2.2.1 ∧ flags e.1 e.2.1 = e.2.2.2.2 := by decide +kernel

/-- The manual's conversion table, its stochastic example from seed 1, and PACK4. -/
theorem test_conversions : ∀ e ∈ ([
  (.cvt .rn .f16 false 4 1 .f32, [(1, 0x4788B800)], 4, 0x7C00, 20), (.cvt .rz .f16 false 4 1 .f32, [(1, 0x4788B800)], 4, 0x7BFF, 20),
  (.cvt .rn .e4m3 false 4 1 .f32, [(1, 0x43FA0000)], 4, 0x7E, 20), (.cvt .rn .e5m2 false 4 1 .f32, [(1, 0xFF800000)], 4, 0xFC, 0),
  (.cvt .rz .i32 false 4 1 .f32, [(1, 0x4F32D05E)], 4, 0x7FFFFFFF, 1), (.cvt .rna .i32 false 4 1 .f32, [(1, 0xC0200000)], 4, 0xFFFFFFFD, 16),
  (.cvt .rn .e4m3 false 4 1 .f32, [(1, 0x3A800000)], 4, 0, 24), (.cvt .rn .e4m3 false 4 1 .f32, [(1, 0x3AC00000)], 4, 1, 24),
  (.cvt .rs .bf16 false 4 1 .f32, [(1, 0x3F804000)], 4, 0x3F81, 16),
  (.pack4 .rn .e4m3 false 20 8 .f32, [(8, 0x3F800000), (9, 0xBE99999A), (10, 0x43FA0000), (11, 0x7FC00000)], 20, 0x7F7EAA38, 20)] :
    List (Instr × List (Nat × W32) × Nat × W32 × BitVec 5)),
    gives e.1 e.2.1 e.2.2.1 = e.2.2.2.1 ∧ flags e.1 e.2.1 = e.2.2.2.2 := by decide

/-- The seed that the stochastic example leaves. -/
theorem test_stochastic_seed : let i := Instr.cvt .rs .bf16 false 4 1 .f32
    ((coreOf (after i (regs (ready i) [(1, 0x3F804000)]))).lane 0).seed = 0x00042021 := by decide

/-- FCMP: a quiet NaN is unordered, and only an ordering compare raises invalid for it (R145). -/
theorem test_fcmp : givesP (.fcmp false .un 3 1 2) [(1, 0x7FC00000)] 3 = true ∧ flags (.fcmp false .un 3 1 2) [(1, 0x7FC00000)] = 0 ∧
    givesP (.fcmp false .lt 3 1 2) [(1, 0x7FC00000)] 3 = false ∧ flags (.fcmp false .lt 3 1 2) [(1, 0x7FC00000)] = 1 ∧
    givesP (.fcmp false .eq 3 1 2) [(1, 0x80000000)] 3 = true := by decide

/-- 1 / 3 in FP64, toward zero and up. -/
theorem test_fdiv_64 : gives64 (.fdivFp64 .rz false 4 0 2) [(1, 0x3FF00000), (3, 0x40080000)] 4 = 0x3FD5555555555555 ∧
    gives64 (.fdivFp64 .ru false 4 0 2) [(1, 0x3FF00000), (3, 0x40080000)] 4 = 0x3FD5555555555556 := by decide

/-- A lane whose enable is set traps with cause 1, keeps its register, and the entry goes on without it (R133, R236). -/
theorem test_arithmetic_trap : let i := Instr.fdivFp32 .rn false 4 1 2
    let k := coreOf (after i (onCore (regs (ready i) [(1, 0x3F800000), (4, 7)]) (fun k => { k with
      lanes := k.lanes.modify 3 (fun l => { l with xenable := 2 }) })))
    k.trapmask = 8 ∧ Sparse.get 0 (k.lane 3).regs 4 = 7 ∧ (k.lane 3).xflags = 0 ∧ Sparse.get 0 (k.lane 2).regs 4 = 0x7F800000 ∧
    k.frontier.map Entry.lanes = [0xFFFFFFF7] ∧ (k.lane 3).trap.map (fun x => (x.cause, x.detail, x.resume)) = some (1, 2, 0) := by decide

/-! ### What else the statements about words suppose

For each statement the states in which its clauses apply, at the ends of their ranges. -/

/-- A state in which wave 0 is a handler. -/
def handler (s : State) : State := onCore s (fun k => { k with handler := true })
/-- A state in which wave 0 speculates. -/
def speculating (s : State) : State := onWave s (fun w => { w with spec := some ⟨0, 0, w.core, w.lost, [], [], [], [], [], none, false⟩ })
/-- Every register is marked from a poisoned sector. -/
def marked (s : State) : State := onLanes s (fun l => { l with marks := (List.range 64).map (fun r => (r, true)), predMarks := 0xFFFE })
/-- Every uniform register is marked. -/
def uniMarked (s : State) : State := onCore s (fun k => { k with sMarks := (List.range 64).map (fun r => (r, true)) })
/-- Lane 3 enables every floating-point trap. -/
def enabled (s : State) : State :=
  onCore s (fun k => { k with lanes := k.lanes.modify 3 (fun l => { l with xenable := 31 }) })

/-- FloatArithmeticAndFunctions, Conversions, FloatSelection: no lane raises; a lane raises, in a plain wave, a handler and a
speculating wave. -/
theorem witness_float_word : let i := Instr.fdivFp32 .rn false 4 1 2
    let out := fun (l : Lane) => fpOut l ((fmtOfWidth false).div .rn (l.srcOf false 1) (l.srcOf false 2))
    let one := regs (ready i) [(1, 0x3F800000)]
    let raises := fun (c : Issue) => (List.range 32).any (fun n => Raises c (fun l => (out l).exc) n)
    meets i one (fun c => !raises c && c.wave.spec.isNone) = true ∧
    meets i (enabled one) (fun c => raises c && c.wave.spec.isNone && !c.wave.core.handler) = true ∧
    meets i (handler (enabled one)) (fun c => raises c && c.wave.core.handler) = true ∧
    meets i (speculating (enabled one)) (fun c => raises c && c.wave.spec.isSome) = true := by decide

/-- FloatCompare: a lane raises, and no lane raises. -/
theorem witness_float_compare : let i := Instr.fcmp false .lt 3 1 2
    let out := fun (l : Lane) => (fmtOfWidth false).compare .lt (l.srcOf false 1) (l.srcOf false 2)
    let raises := fun (c : Issue) => (List.range 32).any (fun n => Raises c (fun l => (out l).2) n)
    meets i (ready i) (fun c => !raises c) = true ∧
    meets i (enabled (regs (ready i) [(1, 0x7FC00000)])) (fun c => raises c && !c.wave.core.handler && c.wave.spec.isNone) = true :=
  by decide

/-- SystemWords: the launch stands and is not captured, its stack's clock is in range, and no lane's source is marked. -/
theorem witness_system_words : let i := Instr.gets false 4 0x0A
    meets i (ready i) (fun c => ((ready i).launchOf c.gang).any (fun x => !x.desc.capture) &&
      decide (((ready i).stack c.gang.stack).now < 2 ^ 64)) = true ∧
    meets (.sets 0x12 4) (ready (.sets 0x12 4)) (fun c => (List.range 32).all (fun n => !(c.wave.core.lane n).marked 4 1)) = true :=
  by decide

/-- EntryWords: a predicate that is clean and one that is marked; a window base at its limit and one past it. -/
theorem witness_entry_words :
    meets (.guard 16 false 1) (ready (.guard 16 false 1)) (fun c => (List.range 32).all (fun n => !(c.wave.core.lane n).predMark 1)) = true ∧
    meets (.guard 1 true 15) (marked (ready (.guard 1 true 15))) (fun c => c.on 0 && (c.wave.core.lane 0).predMark 15 && c.wave.spec.isNone) = true ∧
    meets (.winb 49) (ready (.winb 49)) (fun c => decide (8 * 49 + 120 ≤ (ready (.winb 49)).windowLimit c.gang)) = true ∧
    meets (.winb 49) (onDesc (ready (.winb 49)) (fun d => { d with regs := 504 })) (fun c => c.any && !c.wave.core.handler &&
      decide ((onDesc (ready (.winb 49)) (fun d => { d with regs := 504 })).windowLimit c.gang < 8 * 49 + 120)) = true := by decide

/-- Branches: clean and marked predicates and targets, a return stack that is full and one that is empty, a bad target. -/
theorem witness_branches : let clean := fun (c : Issue) => (List.range 32).all (fun n => !(c.wave.core.lane n).predMark 15)
    let cleanA := fun (c : Issue) => (List.range 32).all (fun n => !(c.wave.core.lane n).marked 4 2)
    meets (.bra 15 false 63 0x8000) (ready (.bra 15 false 63 0x8000)) clean = true ∧
    meets (.call 15 true 0 0x7FFF) (onLanes (ready (.call 15 true 0 0x7FFF)) (fun l => { l with stack := List.replicate 32 (0, 0) }))
      (fun c => clean c && decide ((c.wave.core.lane 0).stack.length = 32)) = true ∧
    meets (.brx 4 0) (regs (ready (.brx 4 0)) [(4, 2)]) (fun c => cleanA c && decide (((c.wave.core.lane 0).src64 4).toNat % 4 ≠ 0)) = true ∧
    meets (.callx 4 0) (regs (ready (.callx 4 0)) [(5, 0x1000000)]) (fun c => cleanA c &&
      decide (2 ^ 56 ≤ ((c.wave.core.lane 0).src64 4).toNat)) = true ∧
    meets .ret (ready .ret) (fun c => (c.wave.core.lane 0).stack.isEmpty) = true ∧
    meets (.bra 15 false 0 0) (marked (ready (.bra 15 false 0 0))) (fun c => !clean c && c.wave.spec.isNone) = true ∧
    meets (.brx 4 0) (marked (ready (.brx 4 0))) (fun c => !cleanA c && c.wave.spec.isNone) = true := by decide

/-- TrapsAndBreaks: in normal and in handler mode. -/
theorem witness_traps_and_breaks :
    meets (.trap 127) (ready (.trap 127)) (fun c => c.any && !c.wave.core.handler) = true ∧
    meets (.brk 0) (ready (.brk 0)) (fun c => c.any && !c.wave.core.handler) = true ∧
    meets (.brk 127) (handler (ready (.brk 127))) (fun c => c.any && c.wave.core.handler) = true := by decide

/-- A wave whose lanes all wait in the deferred path, with a trap entry and a trap area, its entry joining. -/
def trapped : State :=
  onCore (onContext (ready .nop) (fun x => { x with trapEntry := 0x100, trapArea := 0x1000 })) (fun k => { k with
    trapmask := 0xFFFFFFFF, frontier := [], lanes := k.lanes.map (fun l => { l with trap := some ⟨3, 0, 8, 32, 0, false⟩ }) })

/-- The pieces of an access that passes its checks. -/
def piecesOk (r : Reach) : Bool := match r with | .ok _ => true | _ => false

/-- Nothing stands in the way of these pieces. -/
def clearOf (s : State) (st : Nat) (write : Bool) (r : Reach) : Bool :=
  match r with | .ok ps => !s.frozenPieces st ps && (s.recallLines write ps).isEmpty | _ => false

/-- HandlerEntry: with a handler, with none, the record's pages in reach, absent and refused, and an entry that has begun. -/
theorem witness_handler_entry :
    let record := fun (s : State) (at_ : Nat) => s.reachFrom 0 0 (some 0) 32 65536 .trapRecord true (sectorPieces at_ 512)
    waveMeets trapped (fun g w => trapped.waveAlive 0 0 g w && w.held.isNone && !w.core.handler && w.core.trapmask != 0 &&
      w.core.frontier.isEmpty && w.core.releasable.isNone && w.coreId == 0 && clearOf trapped 0 true (record trapped 0x1000)) = true ∧
    (match record ({ trapped with mem := writeBytes trapped.mem 0x5010 (natLe 8 (2 ^ 61)) } : State) 0x20000 with
      | .hold page => page == 0x20000 | _ => false) = true ∧
    (match record trapped 0x20000 with | .fault reason _ => reason == reasonTranslation | _ => false) = true ∧
    (let s := onWave (ready .nop) (fun w => { w with entering := true })
     waveMeets s (fun g w => s.waveAlive 0 0 g w && w.held.isNone && w.entering && !w.core.frontier.all (fun e => e.state != .ready))) = true ∧
    ((aget trapped.contexts 0).map (fun x => (x.trapEntry != 0, x.trapArea != 0))) = some (true, true) ∧
    ((aget (onContext trapped (fun x => { x with trapEntry := 0 })).contexts 0).map (fun x => x.trapEntry)) = some 0 := by decide

/-- ReturnFromTrap: a record of zeros returns lane 0 to PC 0 at priority 0; a handler with a lane left, and with none. -/
theorem witness_return_from_trap : let s := onContext (handler (ready .tret)) (fun x => { x with trapArea := 0x1000 })
    meets .tret s (fun c => ((aget s.contexts (s.ctxOf c.gang)).bind (fun x => (s.launchOf c.gang).map (fun l =>
      (List.range 32).all (fun n =>
        match s.tretReach c (trapRecordAddress x l c.gang c.w) n with
        | .ok ps => clearOf s 0 false (.ok ps) && (match (s.tretLane c (trapRecordAddress x l c.gang c.w) n (.ok ps)).1 with
          | .ok r => r.resume == 0 && r.guardCount == 0 | _ => false)
        | _ => false)))) == some true) = true ∧
    tretValue 63 48 0xFFFFFFFFFFFFFC 0 = .ok ⟨0xFFFFFFFFFFFFFC, 63, 16, true⟩ ∧ tretValue 0 17 0 9 = .fault reasonBadReturn 9 ∧
    (coreOf s).handler = true ∧ ((coreOf s).frontier.any (fun e => !e.aside)) = true ∧
    ((coreOf (onCore s (fun k => { k with frontier := [] }))).frontier.all (fun e => e.aside)) = true := by decide

/-- WholeWordTraps: an illegal word, a queue that the kernel does not have, TRET outside a handler, a latch that is not valid. -/
theorem witness_whole_word_traps :
    (match decideIssue (.illegalInstruction 0xFFFFFFFF) ((ready .nop)) with
      | .illegal c => c.entry.lanes != 0 && c.wave.spec.isNone && !c.wave.core.handler | _ => false) = true ∧
    (match decideIssue (.qr 4 9) (ready (.qr 4 9)) with | .illegal c => c.entry.lanes != 0 | _ => false) = true ∧
    (match decideIssue .tret (ready .tret) with | .illegal c => c.entry.lanes != 0 | _ => false) = true ∧
    (match decideIssue (.mov false 4 120) (ready (.mov false 4 120)) with
      | .stale c k => k == 0 && staleLatch (.mov false 4 120) c.wave.core.latchCount == some 0 | _ => false) = true := by decide

/-- RegistersAndLatches: the ends of the window. -/
theorem witness_registers : (119 : Reg).toNat < 120 ∧ ¬ (120 : Reg).toNat < 120 ∧ (118 : Reg).toNat < 119 := by decide

/-- StepKeepsInvariant, ResetState: the reset state has the invariant, and a step from a word's state has a next state. -/
theorem witness_invariant : State.reset.memoryOk = true ∧ State.reset.stackTab.length = 12 ∧ State.reset.partitions.length = 12 := by decide

/-- StepRunsTheWord: everything that it supposes holds of a word that is ready. -/
theorem witness_step_runs_the_word : let s := ready .nop
    s.cur = some (0, 0, 0) ∧
    waveMeets s (fun g w => s.waveRuns 0 0 g w && !w.yieldHold && !w.entering && w.core.boundary.releasable.isNone &&
      selectEntry w.core.boundary.frontier == some 0 &&
      (s.past .mem 0x10000).all (fun x => decide (x.stamp < s.codeSince g 0 0x10000)) &&
      (match s.translate (s.ctxOf g) g.stack (some w.coreId) 65 0 .fetch false with
        | .ok pa _ => pa == 0x10000 && !poisoned s.poison pa 4 && !s.frozenFor 0 pa && (s.snoopLines pa 4 false).isEmpty &&
          !s.portDown 0 pa
        | _ => false)) = true := by decide

/-! ### Accesses -/

/-- The port that a piece needs is up. -/
def upB (s : State) (st : Nat) (p : Target × Nat) : Bool :=
  match p.1 with
  | .spd _ => true
  | .mem pa _ _ => !s.portDown st pa

/-- `Performs` as a test. -/
def performsB (s : State) (write : Bool) (rs : Issue → List (Nat × Request)) (c : Issue) : Bool :=
  (rs c).all (fun r => match c.fateOf s r.2 with | .ok _ => true | _ => false) && c.wave.spec.isNone &&
  (match s.launchOf c.gang with | some l => !l.desc.capture | none => true) &&
  s.requestRoom c.gang.stack c.wave.coreId (c.allPieces s (rs c)) && !s.frozenPieces c.gang.stack (c.allPieces s (rs c)) &&
  (s.recallLines write (c.allPieces s (rs c))).isEmpty && (c.allPieces s (rs c)).all (upB s c.gang.stack) &&
  s.settled c.g c.w (c.landing s (rs c))

theorem performs_of {s : State} {write : Bool} {rs : Issue → List (Nat × Request)} {c : Issue}
    (h : performsB s write rs c = true) : Performs s c write (rs c) := by
  simp only [performsB, Bool.and_eq_true, List.all_eq_true, List.isEmpty_iff, Bool.not_eq_true'] at h
  obtain ⟨⟨⟨⟨⟨⟨⟨h1, h2⟩, h3⟩, h4⟩, h5⟩, h6⟩, h7⟩, h8⟩ := h
  refine ⟨⟨fun r hr => ?_, Option.isNone_iff_eq_none.1 h2, fun l hl => ?_, h4, h5, h6, fun pa leaf va n hp => ?_⟩, h8⟩
  · have := h1 r hr
    split at this
    · exact ⟨_, ‹_›⟩
    · cases this
  · rw [hl] at h3; simpa using h3
  · simpa [upB] using h7 _ hp

/-- The requests of one instruction. -/
def asks (a : Reg) (off : Int) (sp : Sp) (size : Nat) (aligned : Bool) (access : Access) (write : Bool) (c : Issue) :
    List (Nat × Request) :=
  (bitsOf c.active).map (fun n => (n, c.request n a off sp size aligned access write))

/-- One lane is left in wave 0. -/
def one (s : State) : State := onCore s (fun k => { k with frontier := k.frontier.map (fun e => { e with lanes := 1 }) })

/-- The word issues on one lane with these registers, and its accesses perform. -/
def performs (i : Instr) (rs : List (Nat × W32)) (write : Bool) (reqs : Issue → List (Nat × Request)) : Bool :=
  let s := regs (one (ready i)) rs
  meets i s (performsB s write reqs)

/-- LoadInstructions: the end of the page in global space, the last byte of the scratchpad, a vector, an ordered load. -/
theorem witness_loads :
    performs (.ld .glb false 4 0 .b64 .none false) [(0, 0xFFF8)] false (asks 0 0 .glb 8 false .load false) = true ∧
    performs (.ld .spd false 4 0 .n8 .none false) [(0, 0xFFFF)] false (asks 0 0 .spd 1 false .load false) = true ∧
    performs (.ldv .glb true 4 0 .sys false) [] false (asks 0 0 .glb 16 true .load false) = true ∧
    performs (.ldo 0x7FF true 4 0) [] false (asks 0 (2047 * 8) .gen 8 false .load false) = true := by decide

/-- StoresAndTheirFrame. -/
theorem witness_stores :
    performs (.st .glb false 4 0 .b64 .none false) [(0, 0xFFF8)] true (asks 0 0 .glb 8 false .store true) = true ∧
    performs (.stv .spd false 4 0 .none false) [] true (asks 0 0 .spd 16 true .store true) = true ∧
    performs (.sto 1 false 4 0) [] true (asks 0 4 .gen 4 false .store true) = true ∧
    (let i := Instr.st .glb true 4 0 .b32 .sys false
     let s := onWave (one (ready i)) (fun w => { w with stores := [⟨some 0, 0x1000000000000, 4, 0, false⟩] })
     meets i s (fun c => performsB s true (asks 0 0 .glb 4 true .store true) c && c.wave.sysReleaseWaits true .sys 1 &&
       !c.wave.sysReleaseWaits true .sys 2 && !c.wave.sysReleaseWaits false .sys 1)) = true := by decide

/-- The image of a tensor of one f32 element at address 0. -/
def oneElement : Tensor :=
  { format := 1, sparsity := 0, layout := 0, dims := 1, fill := 0, base := 0x200, extents := [1, 1, 1, 1, 1]
    strides := [0, 0, 0, 0], scale := 0, codebook := 0 }

/-- LDX and STX: an entry of identifier 3, and an identifier that has none. -/
theorem witness_elements : let s := uni (onContext (ready (.ldx false 4 0 2)) (fun x => { x with tensors := [(3, some oneElement)] })) [(2, 3)]
    meets (.ldx false 4 0 2) s (fun c => (List.range 32).all (fun n => c.elementEntry s 2 false n == some oneElement) && c.any &&
      oneElement.inBounds ((c.wave.core.lane 0).coords 0 (c.wave.core.uni 2))) = true ∧
    meets (.stx false 4 0 2) (ready (.stx false 4 0 2)) (fun c =>
      (List.range 32).all (fun n => (c.elementEntry (ready (.stx false 4 0 2)) 2 false n).isNone) && c.any) = true := by decide

/-- AccessChecks: a marked address, a misaligned one, one past the scratchpad, an absent page, a page that is filled on
demand, and a page in reach. -/
theorem witness_access_checks : let s : State := { ready .nop with mem := writeBytes (ready .nop).mem 0x5010 (natLe 8 (2 ^ 61)) }
    let fate := fun (r : Request) => s.fate 0 0 65536 r
    fate ⟨.glb, 4, 4, true, .load, false, true, some 0, 0⟩ = .fault reasonPoison 4 ∧ fate ⟨.glb, 2, 4, true, .load, false, false, none, 31⟩ = .trap ∧
    fate ⟨.spd, 65533, 4, false, .load, false, false, none, 31⟩ = .fault reasonProtection 65533 ∧
    fate ⟨.glb, 0x10000, 4, false, .load, false, false, none, 31⟩ = .fault reasonTranslation 0x10000 ∧
    (match fate ⟨.glb, 0x20000, 4, false, .load, false, false, none, 31⟩ with | .hold page => page == 0x20000 | _ => false) = true ∧
    (match fate ⟨.glb, 0xFFFC, 4, true, .load, false, false, none, 31⟩ with | .ok ps => !ps.isEmpty | _ => false) = true := by decide

/-- Atomics, ReturnFreeAtomics: the widest and the narrowest, at the first and at the last place of the page. -/
theorem witness_atomics :
    performs (.atom .cas64 4 0 .gang .rlx .glb) [(0, 0xFFF8)] true (asks 0 0 .glb 8 true .atomic true) = true ∧
    performs (.atomr .add32 4 0 .sys .acq .glb) [] true (asks 0 0 .glb 4 true .atomic true) = true := by decide

/-- MATOMR and MATOM in memory-side space. -/
theorem witness_matom :
    performs (.matom .add64 4 0 .pkg .rel) [(0, 0xFFF8)] true (asks 0 0 .ms 8 true .atomic true) = true ∧
    performs (.matomr .add32 4 0 .pkg .rel) [] true (asks 0 0 .ms 4 true .atomic true) = true := by decide

/-- MATOM_PERFORM: the first pending atomic of a lane, at a location that the host does not hold. -/
theorem witness_matom_perform : let m : Matom := ⟨0, 0, 0, 0x10100, .add32, 5, 0, false, 3, .pkg, [], [], 0⟩
    let s : State := { ready .nop with matoms := [m] }
    s.matoms[0]? = some m ∧ (aget s.gangs 0).isSome = true ∧ s.snoopLines m.pa m.op.size true = [] ∧ s.portDown 0 m.pa = false ∧
    s.racing (s.matomAgent m) m.point m.pa m.op.size true = none ∧ s.launches.all (fun l => !l.2.desc.capture) = true ∧
    0 < m.op.size := by decide

/-- A store of 16 bits writes two bytes; the bytes beside them stay (R182). -/
theorem test_store : let i := Instr.st .glb false 4 0 .n16 .none false
    let s := after i (regs (one (ready i)) [(0, 0x100), (4, 0xDEADBEEF)])
    readBytes s.mem 0x100FF 4 = [0, 0xEF, 0xBE, 0] := by decide +kernel

/-- A signed byte load sign-extends; its data waits for the reply (R182, R198). -/
theorem test_load : let i := Instr.ld .glb false 4 0 .i8 .none false
    let s : State := regs (one (ready i)) [(0, 0x100)]
    let t := after i { s with mem := writeBytes s.mem 0x10100 [0x80] }
    Sparse.get 0 ((coreOf t).lane 0).regs 4 = 0 ∧ Sparse.get 0 ((coreOf (after (.loadReply 0 0 0) t)).lane 0).regs 4 = 0xFFFFFF80 := by decide +kernel

/-- One lane adds 1 to 0xFFFFFFFF: the sum wraps within the four bytes (R191). -/
theorem test_atomic : let i := Instr.atomr .add32 4 0 .pkg .rlx .glb
    let one := regs (one (ready i)) [(0, 0x100), (4, 1)]
    let s := after i { one with mem := writeBytes one.mem 0x10100 [255, 255, 255, 255, 7] }
    readBytes s.mem 0x10100 5 = [0, 0, 0, 0, 7] := by decide +kernel

/-- FencesMonitorsAndPrefetch: a monitor on an aligned, a misaligned and a marked address; MWAIT with a clean time. -/
theorem witness_monitors : let i := Instr.mon .ge true 0 2
    meets i (ready i) (fun c => (List.range 32).all (fun n => !(c.wave.core.lane n).marked 0 2 && decide (((c.wave.core.lane n).src64 0).toNat % 8 = 0)))
      = true ∧
    meets i (regs (ready i) [(0, 4)]) (fun c => (List.range 32).all (fun n => !(c.wave.core.lane n).marked 0 2) && c.on 0 &&
      decide (((c.wave.core.lane 0).src64 0).toNat % 8 ≠ 0)) = true ∧
    meets i (marked (ready i)) (fun c => c.on 0 && (c.wave.core.lane 0).marked 0 2) = true ∧
    meets (.mwait 4 0) (regs (ready (.mwait 4 0)) [(0, 0xFFFFFFFF)]) (fun c => c.any && !(c.wave.core.lane c.first).marked 0 1) = true :=
  by decide

/-! ### Barriers, queues, engines, the matrix unit and tensor identifiers -/

/-- The gang declares barrier 1 with waves 0 and 1 expected; wave 1 has not arrived. -/
def twoExpected (s : State) : State := onGang s (fun g => { g with bars := List.replicate 16 ⟨7, [0, 1], [], [], [], [], []⟩ })

/-- Barriers: a wave with an active lane and one without; a barrier that the arrival flips and one that it does not; an arrived
participant and none; a stack barrier in a launch that is all resident and in one that is not; speculation allowed and not. -/
theorem witness_barriers : let i := Instr.bar 1 .sync .gang true
    let flips := fun (s : State) (c : Issue) =>
      let u := c.arrive (s.setWave c.g c.w c.wave) .gang 1
      decide ((s.getBar (c.inst .gang 1)).phase.toNat < (u.getBar (c.inst .gang 1)).phase.toNat)
    meets i (ready i) (fun c => c.any && flips (ready i) c) = true ∧
    meets i (twoExpected (ready i)) (fun c => c.any && !flips (twoExpected (ready i)) c && c.maySpeculate (twoExpected (ready i))) = true ∧
    meets i (handler (twoExpected (ready i))) (fun c => !flips (twoExpected (ready i)) c && !c.maySpeculate (twoExpected (ready i))) = true ∧
    meets (.bar 15 .wait .gang false) (onGang (ready (.bar 15 .wait .gang false)) (fun g => { g with
      bars := List.replicate 16 ⟨0, [0, 1], [0], [], [], [], []⟩ })) (fun c => c.participants .gang == [0] && c.any) = true ∧
    meets (.bar 0 .wait .wave false) (ready (.bar 0 .wait .wave false)) (fun c => (c.participants .wave).length == 32) = true ∧
    meets (.bar 0 .arv .pkg false) (onDesc (ready (.bar 0 .arv .pkg false)) (fun d => { d with allResident := true })) (fun c => c.any) = true ∧
    ((ready .nop).launches.all (fun l => !l.2.desc.allResident)) = true := by decide

/-- A wave without an active lane: a GUARD run masks every lane. -/
def masked (s : State) : State := onCore s (fun k => { k with frontier := k.frontier.map (fun e => { e with lanes := 0 }) })

/-- QueueWords: a free and a full engine queue; an empty pop side and one with a word; a token with its bit set, and pending. -/
theorem witness_queue_words :
    meets (.qw 0 4) (ready (.qw 0 4)) (fun c => c.any && decide (0 < (ready (.qw 0 4)).pushFree c.gang c.wave 0)) = true ∧
    meets (.qw 4 4) (onWave (ready (.qw 4 4)) (fun w => { w with push := List.replicate 8 (List.replicate 16 ⟨0, false, []⟩) }))
      (fun c => c.any && (ready (.qw 4 4)).pushFree c.gang c.wave 4 == 0) = true ∧
    meets (.qw 5 4) (onWave (ready (.qw 5 4)) (fun w => { w with push := List.replicate 8 (List.replicate 16 ⟨0, false, []⟩) }))
      (fun c => c.any && (ready (.qw 5 4)).pushFree c.gang c.wave 5 == 0) = true ∧
    meets (.qr 4 0) (ready (.qr 4 0)) (fun c => c.any && (popSide c.gang c.wave 0).isEmpty) = true ∧
    meets (.qrt 4 4 1) (onWave (ready (.qrt 4 4 1)) (fun w => { w with pop := List.replicate 8 [⟨5, true, []⟩] }))
      (fun c => c.any && popSide c.gang c.wave 4 == [⟨5, true, []⟩]) = true ∧
    meets (.qst 4 0) (ready (.qst 4 0)) (fun c => c.any) = true ∧
    meets (.tkwSrc 4) (ready (.tkwSrc 4)) (fun c => c.any && !c.wave.pending.contains 4) = true ∧
    meets (.tkwVis 4) (onWave (ready (.tkwVis 4)) (fun w => { w with pending := [4] }))
      (fun c => c.any && c.wave.pending.contains 4 && !has (c.wave.core.uni 4) 1) = true := by decide

/-- A FIFO with a word: `pushWord` and `popWord` on q8. -/
theorem test_fifo : let s := onGang (ready .nop) (fun g => { g with fifos := [[⟨1, false, []⟩]] })
    ((aget ((s.pushWord 0 0 8 ⟨2, true, []⟩).popWord 0 0 8).gangs 0).map Gang.fifos) = some [[⟨2, true, []⟩]] := by decide

/-- Words wait in every engine queue. -/
def queued (s : State) (ws : List QWord) : State := onWave s (fun w => { w with push := List.replicate 8 ws })

/-- EngineSubmits: a plain copy of 16 bytes in order, one of length 0, a held one, a bad header, a short queue, an empty queue, a
poisoned word, and a collective within the partition. The header is scope 2, the engine's code and its words (R211). -/
theorem witness_engine_submits : let h : W64 := 0x1240000000000010
    let words := fun (s : State) (k : EngineKind) (held : Bool) (n : Nat) (c : Issue) =>
      match c.wave.push.getD k.queue [] with
      | x :: rest => decide (n ≤ rest.length) && headerOk k held x.val && !x.mark &&
          paramsOk k (hdrMode x.val) (hdrLength x.val) (s.partitionStacks (s.ctxOf c.gang)) ((rest.take n).map QWord.val) &&
          (s.capture (c.waveAgent s .pkg) (s.ctxOf c.gang) (commandHandles k (hdrMode x.val) ((rest.take n).map QWord.val))).isSome && c.any
      | [] => false
    let i := Instr.cpy true 255 4 false
    let s := queued (ready i) [⟨h, false, []⟩, ⟨0, false, []⟩, ⟨64, false, []⟩]
    meets i s (words s .cpy false 2) = true ∧
    (let z := queued (ready i) [⟨0x1240000000000000, false, []⟩, ⟨0, false, []⟩, ⟨64, false, []⟩]
     meets i z (words z .cpy false 2)) = true ∧
    (let i := Instr.cpy false 4 8 true
     let z := queued (ready i) [⟨h, false, []⟩, ⟨0, false, []⟩, ⟨64, false, []⟩]
     meets i z (fun c => words z .cpy true 2 c && decide (z.heldCount 0 < 64))) = true ∧
    (let i := Instr.bin false 4 8
     let z := queued (ready i) [⟨0x4340000000000000, false, []⟩, ⟨0, false, []⟩, ⟨64, false, []⟩, ⟨4096, false, []⟩]
     meets i z (words z .bin false 3)) = true ∧
    (let i := Instr.coll false 4 8 false
     let z := queued (ready i) [⟨0x5580000000000008, false, []⟩, ⟨0, false, []⟩, ⟨64, false, []⟩, ⟨0, false, []⟩, ⟨0x10001, false, []⟩, ⟨0, false, []⟩]
     meets i z (words z .coll false 5)) = true ∧
    (let i := Instr.gat false 4 8 false
     let t := onContext (ready i) (fun x => { x with tensors := [(0, some oneElement)] })
     let z := queued t [⟨0x2440000000000010, false, []⟩, ⟨0, false, []⟩, ⟨0, false, []⟩, ⟨64, false, []⟩, ⟨65535, false, []⟩]
     meets i z (words z .gat false 4)) = true ∧
    (let i := Instr.sct true 255 8 true
     let t := onContext (ready i) (fun x => { x with tensors := [(0, some oneElement)] })
     let z := queued t [⟨0x3440000000000001, false, []⟩, ⟨0, false, []⟩, ⟨64, false, []⟩, ⟨0, false, []⟩, ⟨1, false, []⟩]
     meets i z (words z .sct true 4)) = true ∧
    headerOk .cpy false 0x2240000000000010 = false ∧ headerOk .coll false 0x5540000000000008 = false ∧
    meets i (queued (ready i) [⟨h, true, []⟩]) (fun c => c.any && c.wave.push.getD 0 [] == [⟨h, true, []⟩]) = true ∧
    meets i (ready i) (fun c => c.any && (c.wave.push.getD 0 []).isEmpty && !c.wave.core.uniMark 4) = true ∧
    meets i (uniMarked (ready i)) (fun c => c.any && c.wave.core.uniMark 4) = true ∧
    meets i (masked (ready i)) (fun c => !c.any) = true := by decide

/-- The gang holds a grant of one mode-0 unit, and these bytes stand in its scratchpad. -/
def granted (s : State) (fs : List (Nat × Byte)) : State :=
  onContext (onGang s (fun g => { g with grant := some ⟨0, [MxUnit.fresh 0 [0]]⟩, spad := fs })) (fun x =>
    { x with tensors := [(0, some oneElement)] })

/-- The block at the offset in u4 is read for a unit that the gang holds, and has a property. -/
def reads (i : Instr) (s : State) (p : State → Issue → List Byte → MxUnit → Bool) : Bool :=
  meets i s (fun c =>
    let off := (c.wave.core.uni 4).toNat
    let b := c.blockBytes s off
    c.any && !c.wave.core.uniMark 4 && off % 128 == 0 && decide (off + 128 ≤ s.spadSize c.gang) && blockReserved b &&
    (match c.gang.grant.bind (fun r => r.units[blockUnit b]?) with | some u => !u.lost && p s c b u | none => false))

/-- An MXZ that another wave has queued on unit 0. -/
def busy (s : State) : State :=
  { s with mxops := [(0, ⟨.mxz, 0, 1, 0, List.replicate 128 0, 0, none, none, none, none, false, [], [], [], none, false, 0, none, none, []⟩)], nextId := 1 }

/-- MatrixWords: blocks in order and not in order for each word, at the last block of the scratchpad too. -/
theorem witness_matrix_words :
    reads (.mxls false 8 4) (granted (ready (.mxls false 8 4)) [(26, 1), (28, 1)]) (fun s c b u =>
      (c.handleEntry s (blockB b)).isSome && decide (1 ≤ blockK b ∧ blockK b ≤ u.kMax ∧ 1 ≤ blockN b ∧ blockN b ≤ u.nMax))
      = true ∧
    reads (.mxls true 255 4) (granted (ready (.mxls true 255 4)) []) (fun _ _ b _ => blockK b == 0) = true ∧
    reads (.mxgo false 8 4) (granted (ready (.mxgo false 8 4)) [(25, 1)]) (fun _ _ b _ => blockM b == 256 && !blockStream b &&
      !blockLoadC b && blockCounter b == 0) = true ∧
    reads (.mxgo false 8 4) (granted (ready (.mxgo false 8 4)) [(24, 1), (25, 1)]) (fun _ _ b _ => blockM b == 257) = true ∧
    reads (.mxz 4) (granted (uni (ready (.mxz 4)) [(4, 65408)]) []) (fun _ _ _ _ => true) = true ∧
    reads (.mxst false 8 4) (granted (ready (.mxst false 8 4)) [(24, 1), (28, 1), (32, 1)]) (fun s c b u =>
      ((c.handleEntry s (blockC b)).any (fun e => e.format == blockFormat b && e.sparsity == 0)) &&
      decide (1 ≤ blockN b ∧ blockN b ≤ u.nMax) && blockM b == 1) = true ∧
    reads (.mxst false 8 4) (granted (ready (.mxst false 8 4)) []) (fun _ _ b _ => blockFormat b == 0) = true ∧
    reads (.mxrd 8 4) (granted (ready (.mxrd 8 4)) [(48, 255), (50, 4)]) (fun s c b _ => blockRow0 b == 255 && blockCol0 b == 4 &&
      (c.earlierOps s (blockUnit b)).isEmpty) = true ∧
    reads (.mxrd 8 4) (busy (granted (ready (.mxrd 8 4)) [(48, 255)])) (fun s c b _ => blockRow0 b == 255 &&
      !(c.earlierOps s (blockUnit b)).isEmpty) = true ∧
    reads (.mxrd 8 4) (onWave (busy (granted (ready (.mxrd 8 4)) [])) (fun w => { w with
      reading := (w.core.frontier.head?).map (fun e => (e.lanes, e.pc, 0)) })) (fun s c b _ =>
      (c.earlierOps s (blockUnit b)).isEmpty && !(s.unitOps c.g (blockUnit b)).isEmpty) = true ∧
    reads (.mxrd 8 4) (granted (ready (.mxrd 8 4)) [(49, 1)]) (fun _ _ b _ => blockRow0 b == 256) = true ∧
    meets (.mxz 4) (uni (granted (ready (.mxz 4)) []) [(4, 64)]) (fun c => c.any && (c.wave.core.uni 4).toNat % 128 != 0) = true ∧
    meets (.mxz 4) (uni (granted (ready (.mxz 4)) []) [(4, 65536)]) (fun c => decide ((ready (.mxz 4)).spadSize c.gang < 65536 + 128)) = true ∧
    meets (.mxz 4) (ready (.mxz 4)) (fun c => c.gang.grant.isNone) = true ∧
    meets .mxsw (granted (ready .mxsw) []) (fun c => c.any && c.gang.grant.isSome) = true ∧
    meets .mxsw (ready .mxsw) (fun c => c.any && c.gang.grant.isNone) = true := by decide +kernel

/-- SHAPE: a request in order with no operation queued, one that is not in order, and a grant that can be formed. -/
theorem witness_shape : let i := Instr.shape 8 4
    meets i (uni (ready i) [(4, 0x40)]) (fun c => c.any && shapeOk (c.wave.core.uni 4) && ((ready i).gangOps c.g).isEmpty) = true ∧
    meets i (uni (ready i) [(4, 0x50)]) (fun c => c.any && !shapeOk (c.wave.core.uni 4)) = true ∧
    ((ready i).formGrant 0 0 0 4 false).isSome = true ∧ ((ready i).formGrant 0 0 2 1 false).isSome = true ∧
    shapeOk 3 = true ∧ shapeOk 4 = true := by decide

/-- TensorIdentifiers: identifier 1023 and the last image of the scratchpad; a misplaced offset, an identifier too high, an
offset past the end; images that are in order, of format 0xFF, and not in order. -/
theorem witness_tensor_identifiers : let i := Instr.tidw 2 3
    let s := uni (ready i) [(2, 1023), (3, 65408)]
    meets i s (fun c => c.any && !c.wave.core.uniMark 3 && decide (65408 + 128 ≤ s.spadSize c.gang) &&
      (aget s.contexts (s.ctxOf c.gang)).isSome && !poisoned c.gang.spadPoison 65408 128) = true ∧
    meets i (uni (ready i) [(3, 64)]) (fun c => c.any && (c.wave.core.uni 3).toNat % 128 != 0) = true ∧
    meets i (uni (ready i) [(2, 1024)]) (fun c => c.any && decide (1024 ≤ (c.wave.core.uni 2).toNat)) = true ∧
    meets i (uni (ready i) [(3, 65536)]) (fun c => c.any && decide ((ready i).spadSize c.gang < 65536 + 128)) = true ∧
    imageOk oneElement.image = true ∧ imageField invalidImage 0 1 = 0xFF ∧ imageOk (List.replicate 128 0) = false := by decide

/-- TIDW takes format, dimensions, base and extents from the places that R227 gives them. -/
theorem test_tidw : let b : List Byte := [9, 0, 1, 2] ++ List.replicate 4 0 ++ [5] ++ List.replicate 7 0 ++ [0, 0x10] ++ List.replicate 6 0 ++
      [7, 0, 0, 0, 8, 0, 0, 0, 1, 0, 0, 0, 1, 0, 0, 0, 1, 0, 0, 0]
    let t := tensorOf b
    t.format = 9 ∧ t.layout = 1 ∧ t.dims = 2 ∧ t.fill = 5 ∧ t.base = 0x1000 ∧ t.extents = [7, 8, 1, 1, 1] := by decide

/-! ### Events -/

/-- A state with wave 0 resident. -/
def live : State := ready .nop
def onStack (s : State) (f : Stack → Stack) : State := s.modStack 0 f
/-- The entry of wave 0 in another state. -/
def entryIs (s : State) (x : EntryState) : State :=
  onCore s (fun k => { k with frontier := k.frontier.map (fun e => { e with state := x }) })
/-- The launch has a deadline that has passed, and flag fall before it. -/
def fallen (s : State) : State := onStack (onDesc s (fun d => { d with deadline := 5, budget := 1 })) (fun t => { t with now := 5 })
/-- The complex of stack 0 runs. -/
def complex (s : State) : State := onStack s (fun t => { t with cpState := 4, cpRole := true, partMask := 1 })

/-- WaveEvents: each clause's wave, gang and entry. -/
theorem witness_wave_events :
    (let s := entryIs live (.joining 7 0xFFFFFFFF)
     waveMeets s (fun g w => s.waveAlive 0 0 g w && (w.core.frontier[0]?).any (fun x => !x.aside &&
       (List.range 32).all (fun n => w.core.satisfies 0xFFFFFFFF x.pc x.prio n)))) = true ∧
    (let s := onStack (onWave live (fun w => { w with yieldHold := true })) (fun t => { t with now := 71 })
     waveMeets s (fun g w => s.waveAlive 0 0 g w && w.yieldHold && w.progress + 71 == (s.stack g.stack).now)) = true ∧
    waveMeets live (fun g w => live.waveAlive 0 0 g w && live.waveMayIssue 0 0 g w && !live.waveStalled 0 0 g w) = true ∧
    (let s := onWave live (fun w => { w with parked := true, aged := true })
     waveMeets s (fun g w => s.waveAlive 0 0 g w && w.parked && w.rank != 0 && decide (s.windowsHeld g.stack w.coreId < 16))) = true ∧
    (let s := onStack (onContext live (fun x => { x with watchdog := 1 })) (fun t => { t with now := 1001 })
     waveMeets s (fun g w => s.waveAlive 0 0 g w && w.watched && decide (w.progress + 1000 < (s.stack g.stack).now))) = true ∧
    (let s := onCore live (fun k => { k with frontier := [], lanes := k.lanes.map (fun l => { l with exited := true }) })
     waveMeets s (fun g w => g.state == .resident && w.core.live == 0 && w.pending.isEmpty && w.loads.isEmpty && w.stores.isEmpty &&
       w.held.isNone && w.left.isEmpty && !s.matomPending 0 0)) = true ∧
    (let s := onWave live (fun w => { w with retired := true })
     waveMeets s (fun g w => w.retired && (s.gangOps 0).isEmpty && !s.pastDeadline g)) = true ∧
    (let s := onGang live (fun g => { g with state := .dying })
     waveMeets s (fun g _ => g.state == .dying && s.quiet 0)) = true ∧
    (let s := onCore live (fun k => { k with frontier := k.frontier.map (fun e => { e with pc := 0x10000 }) })
     waveMeets s (fun g w => s.waveMayIssue 0 0 g w && selectEntry w.core.boundary.frontier == some 0 &&
       (match s.fetch g w 0x10000 with | .fault _ => true | _ => false))) = true ∧
    (let s : State := { live with mem := writeBytes live.mem 0x5000 (natLe 8 (2 ^ 61)) }
     waveMeets s (fun g w => match s.fetch g w 0 with | .hold page => page == 0 | _ => false)) = true ∧
    (let s := live.modStack (homeStack 0x10000) (fun t => { t with snoops := [⟨0x10000 / 128, true, false⟩] })
     waveMeets s (fun g w => match s.fetch g w 0 with | .wait lines => lines == [0x10000 / 128] | _ => false)) = true ∧
    waveMeets live (fun g w => match live.fetch g w 0 with | .word _ => true | _ => false) = true := by decide

/-- PARK_WAVE: a core whose sixteen windows are held, with a parked wave that could run. -/
theorem witness_park_wave : let s := entryIs (onGang live (fun g => { g with
      waves := (List.range 17).flatMap (fun k => g.waves.map (fun w => { w with parked := k == 16, aged := k == 16 })) })) (.blocked (.qr 0 0))
    waveMeets s (fun g w => s.waveRuns 0 0 g w && s.parksHere 0 0 g w && decide (16 ≤ s.windowsHeld g.stack w.coreId) &&
      (s.coreMates g w).any (fun q => q.2.2.2.parked && q.2.2.2.rank != 0) && (s.coreMates g w).all (fun q => q.2.2.2.parked ||
        !s.parksHere q.1 q.2.1 q.2.2.1 q.2.2.2 || decide (w.rank ≤ q.2.2.2.rank))) = true := by decide

/-- MemoryEvents: a load and a store in flight over a port that is up and one that is down; a lane that waits in MWAIT. -/
theorem witness_memory_events : let p : PendingLoad := ⟨[⟨0, 4, 5, false⟩, ⟨31, 4, 6, true⟩], none, false, 1, [], 0, false, 0x80000001, false⟩
    (live.portUp p.port = true ∧ p.writes.Pairwise (fun x y => x.lane ≠ y.lane ∨ x.reg ≠ y.reg)) ∧
    (live.modStack 3 (fun t => { t with linkUp := false })).portUp (some 3) = false ∧ live.portUp (some 3) = true ∧
    (let s := onLanes (entryIs live (.blocked (.mwait 4 (some 7)))) (fun l => { l with monitor := some ⟨0, false, .eq, 1⟩ })
     waveMeets s (fun g w => s.waveAlive 0 0 g w && (w.core.frontier[0]?).any (fun e => w.core.waitingLanes e != []) &&
       !s.flagFell g w)) = true ∧
    (let s := onLaunch live (fun l => { l with ffStacks := [0] })
     waveMeets s (fun g w => s.flagFell g w)) = true ∧
    (let m : Monitor := ⟨0, false, .eq, 1⟩
     let s := live
     m.holds 1 = true ∧ m.holds 0 = false ∧ waveMeets s (fun g w =>
       match State.readThrough ((s.laneAgent 0 0 3 (w.core.lane 3) .sys).look [2, 3]) 0 w.coreId w.slot (s.launchOf g)
         [(.mem 0x10000 ⟨14, false⟩ 0, 4)] s with
       | some (xs, _) => xs.all (fun x => !x.mark) | none => false) = true) := by decide

/-- A load reply writes its registers (R198). -/
theorem test_load_reply : let s := onWave live (fun w => { w with loads := [⟨[⟨31, 4, 6, true⟩], none, false, 1, [], 0, false, 0x80000000, false⟩] })
    let l := (coreOf (after (.loadReply 0 0 0) s)).lane 31
    Sparse.get 0 l.regs 4 = 6 ∧ Sparse.get false l.marks 4 = true := by decide

/-- DeadlineEvents: flag fall, the deadline, a saved gang, the dispatcher's own flag fall, and an accounted launch. -/
theorem witness_deadline_events : let s := fallen live
    s.flagFallDue 0 0 = true ∧ live.flagFallDue 0 0 = false ∧ s.residents 0 0 = [0] ∧
    (aget s.launches 0).any (fun x => !x.desc.capture && x.desc.deadline == 5 && x.pool.isNone && x.heldPage.isNone && !x.recorded) = true ∧
    (s.stack 0).now = 5 ∧ s.activeNow = 5 ∧ (s.stack 0).haltArrived = false ∧
    (complex (onLaunch s (fun l => { l with next := 0 }))).dispatcherDue 0 = true ∧
    (complex s).complexRuns = true ∧
    (aget (onLaunch s (fun l => { l with normal := 1 })).launches 0).any (fun x => s.accounted 0 x) = true := by decide

/-- HaltLine: a raised line that has and has not reached the stack, and the clear once its record is written. -/
theorem witness_halt_line : let h : Halt := ⟨some (0, 0), 1, 0, 0, 0, 0, 0, 0, 0, 0, 0, false⟩
    let s := live.raiseHalt h
    ((s.stack 0).enable = true ∧ (s.partition 0).halted = true ∧ (s.stack 0).haltArrived = false ∧ s.recordsWritten 0 = false ∧
      s.stopLines [0] = [] ∧ s.poolLines 0 = []) ∧
    (let t := onStack s (fun k => { k with snoops := [⟨k.stopPlace 0 / 128, false, false⟩] })
     t.stopLines [0] ≠ []) ∧ live.resetLines 0 = [] ∧
    (live.partition 0).halted = false ∧ s.partitions.length = 12 ∧ live.members 0 = [0] ∧
    (let t := onStack (live.raiseHalt { h with written := true }) (fun k => { k with haltArrived := true, bootState := 4 })
     (t.stack 0).answers && t.recordsWritten 0 && (t.partition 0).halted) = true := by decide

/-- A gang of the same launch waits in the batch of stack 0, alone. -/
def batched (s : State) : State :=
  onStack (complex { s with gangs := [(5, Gang.waiting 0 0 0 0 0)] }) (fun t => { t with batch := [5], sdState := false })

/-- The launch has a gang to place, which needs the banks of a whole cluster. -/
def undispatched : State := onDesc (onLaunch live (fun l => { l with next := 0 })) (fun d => { d with spad := 0x3F0000 })

/-- A round of partition 0 is to start. -/
def due (s : State) : State := s.modPartition 0 (fun p => { p with roundDue := true })

/-- DispatchEvents: a round with a plan that goes and one with none that goes; a batched gang with room, past its flag fall and
without room; a reservation that fits, one that waits; pools. -/
theorem witness_dispatch_events :
    (let s := complex (due undispatched)
     s.complexRuns && (s.partition 0).roundDue && (s.roundOrder 0).map Prod.fst == [0] && (s.roundOrder 0).all (fun p => s.planGoes p.1 p.2 (s.plan p.1 p.2))) = true ∧
    (let s := onStack (complex (due undispatched)) (fun t => { t with partMask := 3 })
     (s.roundOrder 0).map Prod.fst == [0] && (s.roundOrder 0).all (fun p => !s.planGoes p.1 p.2 (s.plan p.1 p.2))) = true ∧
    (let s := batched live
     !(s.stack 0).sdState && s.maskAgrees 0 && s.firstBatched 0 == some 5 && (aget s.launches 0).any (fun l =>
       !s.pastFlagFall l 0 && (s.room 0).pick l.desc == some 0 && l.pool.isNone && !l.desc.capture)) = true ∧
    (let s := fallen (batched live)
     (aget s.launches 0).any (fun l => s.pastFlagFall l 0)) = true ∧
    (let s := batched (onDesc live (fun d => { d with waves := 33 }))
     (aget s.launches 0).any (fun l => ((s.room 0).pick l.desc).isNone)) = true ∧
    (let s := onStack { batched live with reservations := [(5, ⟨5, 0, 0, 1, 0, false, 0⟩)] } (fun t => { t with sdState := true })
     waveMeets live (fun _ _ => true) && (aget s.gangs 5).any (fun x => x.state == .batched && (s.launchOf x).any (fun l => s.dispatches l.ctx &&
       !(s.reservation 5 0 x l).waiting && (s.room 0).fits l.desc (s.reservation 5 0 x l).core0 && !s.pastFlagFall l 0))) = true ∧
    (let s := onStack { batched (onDesc live (fun d => { d with waves := 33 })) with reservations := [(5, ⟨5, 0, 0, 1, 64, true, 0⟩)] }
      (fun t => { t with sdState := true })
     (aget s.gangs 5).any (fun x => (s.launchOf x).any (fun l => !(s.room 0).fits l.desc (s.reservation 5 0 x l).core0))) = true := by
  decide +kernel

/-- A front end whose control block lies in reach. -/
theorem witness_pools : let p : Pool := ⟨0, 0, 0x100, [], 0, [], 0, 0, 0, 0, false, none, Know.start []⟩
    let s := onLaunch { live with pools := [(3, p)] } (fun l => { l with pool := some 3 })
    (aget s.launches 0).any (fun x => s.poolRuns p x && (match s.poolRead 3 p x 0x100 28 with | .go bs _ => pkt (bs.map Prod.fst) 0 8 == 0 | _ => false) &&
      (match s.poolRead 3 p x 0x100 8 with | .go _ _ => true | _ => false)) = true := by decide

/-- A command of an engine, and one that has been read. -/
def command (k : EngineKind) (st : CmdState) : Command :=
  { kind := k, owner := .wave 0 0, ctx := 0, stack := 0, cluster := 0, header := 0, params := [0, 64, 0, 0, 0], entries := [], token := none
    counter := 0, length := 16, state := st, order := 0, idx := none, got := [], put := [], chunks := [], landed := []
    poison := false, late := false, heldPage := none, view := [] }

/-- EngineEvents: commands that are queued, started and read, of each kind; ranges in reach, refused and absent. -/
theorem witness_engine_events : let s := fun (x : Command) => ({ live with commands := [(9, x)] } : State)
    (∀ k ∈ ([.cpy, .gat, .sct, .bin, .coll] : List EngineKind), ∀ st ∈ ([.queued, .started, .read] : List CmdState),
      aget (s (command k st)).commands 9 = some (command k st) ∧ (0 < k.depth)) ∧
    inAperture (param (command .coll .started).params 2).toNat = false ∧
    (match live.reach 0 0 65536 .engine false [(0x10000, 16)] with | .fault reason _ => reason == reasonTranslation | _ => false) = true ∧
    (match ({ live with mem := writeBytes live.mem 0x5010 (natLe 8 (2 ^ 61)) } : State).reach 0 0 65536 .engine false [(0x20000, 16)] with
      | .hold page => page == 0x20000 | _ => false) = true ∧
    ({ command .coll .read with chunks := [(0, 0), (1, 0)] } : Command).chunks[1]? = some (1, 0) := by decide

/-- An operation of the unit that wave 0's gang holds, whose current plane has k rows. -/
def operation (fn : MxFn) (k : Nat) (f : MxOp → MxOp) : State :=
  let x : MxOp := ⟨fn, 0, 0, 0, List.replicate 128 0, 0, none, none, none, none, true, [], [], [], none, false, 0, none, none, []⟩
  let s := onGang (granted live []) (fun g => { g with grant := g.grant.map (fun r => { r with
    units := r.units.map (fun u => { u with cur := { u.cur with k := k } }) }) })
  { s with mxops := [(9, f x)] }

/-- MatrixEvents: operations that are first, started, and free of holds; one that pops handles, pushed and not; one that has
read, is visible or is lost; one that meets an absent page; sub-arrays that are idle, granted and fenced. -/
theorem witness_matrix_events :
    let op := fun (s : State) (p : MxOp → Bool) => (aget s.mxops 9).any p
    let page := fun (n : Nat) => ({ operation .mxls 0 (fun x => { x with
      block := List.replicate 26 0 ++ [1, 0, 1, 0] ++ List.replicate 98 0, bEntry := some { oneElement with format := 3, base := 0x20000 } })
        with mem := writeBytes live.mem 0x5010 (natLe 8 n) } : State)
    let streamed := List.replicate 24 0 ++ [33, 0, 0, 0, 0, 0, 0, 1] ++ List.replicate 96 0
    (∀ f ∈ ([.mxls, .mxsw, .mxgo, .mxz, .mxst] : List MxFn), let s := operation f 0 id
      op s (fun x => s.opPlace x == some (0, 0) && (s.unitOf x).isSome && s.opFirst 9 x &&
        x.read.isNone && !x.vis && x.lost.isNone && s.handlesDue x == 0 && x.heldPage.isNone) = true) ∧
    (let s := operation .mxgo 1 (fun x => { x with started := false })
     op s (fun x => s.opFirst 9 x && (s.flushBefore x.gang x.wave 9 s.matoms.length x.view).isSome)) = true ∧
    (let s := operation .mxgo 1 (fun x => { x with block := streamed })
     op s (fun x => s.handlesDue x == 2 && (s.handlesPushed x).isEmpty)) = true ∧
    (let s := onWave (operation .mxgo 1 (fun x => { x with block := streamed })) (fun w => { w with
       push := List.replicate 8 [⟨0, false, []⟩] })
     op s (fun x => s.handlesDue x == 2 && (s.handlesPushed x).length == 1)) = true ∧
    (let s := operation .mxgo 1 (fun x => { x with read := some ⟨Plane.empty, [], 0, false⟩ })
     op s (fun x => x.read.isSome && x.heldPage.isNone && x.lost.isNone && !x.vis)) = true ∧
    (let s := operation .mxst 1 (fun x => { x with vis := true })
     op s (fun x => x.vis && blockCounter x.block == 0)) = true ∧
    (let s := operation .mxgo 1 (fun x => { x with lost := some 3 })
     op s (fun x => !x.vis && x.lost.isSome && s.handlesDue x == 0)) = true ∧
    (let s := page (2 ^ 61)
     op s (fun x => !x.bRanges.isEmpty && (match s.reach 0 0 (s.ownerSpad (.wave 0 0)) .matrix false
       (x.bRanges.flatMap (fun r => sectorPieces r.1 r.2)) with | .hold p => p == 0x20000 | _ => false))) = true ∧
    live.mxops = [] ∧ ((operation .mxst 0 id).mxops.any (fun p => p.2.fn == .mxst && p.2.started)) = true ∧
    live.unitAt 0 0 = none ∧ (live.stack 0).spareLeft 0 = some 0 ∧
    (onStack live (fun t => { t with spareRows := [0, 1, 2, 3] })).unitAt 0 3 = none ∧
    ((onStack live (fun t => { t with spareRows := [0, 1, 2, 3] })).stack 0).spareLeft 0 = none ∧
    ((granted live []).unitAt 0 0).isSome = true ∧
    has ((onStack live (fun t => { t with fenced := 8 })).stack 0).fenced 3 = true := by decide

/-! ### Queues, packets and the complexes -/

/-- Queue 1 of context 0, or of the administration of partition 0, with this packet fetched as its packet 0. -/
def queueOf1 (admin : Option Nat) (phase : QPhase) (packet : List Byte) : Queue :=
  { ring := 0x4000, size := 2, check := false, ctx := 0, home := 0, status := 0x8000, admin := admin, kicked := 1
    consumed := if phase = .fetched then 1 else 0, completed := 0, error := 0, detail := 0, index := 0, phase := phase, packet := packet
    openPackets := [], doneAhead := [], stopped := false, statusDue := false, heldPage := none, resetting := none, refusedPage := none
    view := [], after := [] }
/-- The complex runs with that queue. -/
def queueRun (x : Queue) : State := { complex live with queues := [(1, x)] }
/-- A packet of this kind with these bytes from byte 5 on. -/
def packetOf (kind : Nat) (bs : List Byte) : List Byte :=
  [1, 0, 0, 0, BitVec.ofNat 8 kind, 0, 0, 0] ++ bs ++ List.replicate (56 - bs.length) 0
/-- What `Worked` and the start of a packet of this kind suppose. -/
def startable (s : State) (kind : Nat) : Bool :=
  (aget s.queues 1).any (fun q => s.queueRuns q && !q.statusDue && q.mayStart && pktKind q.packet == kind)
def readOk (r : CpRead) : Bool := match r with | .ok _ _ => true | _ => false

/-- QueueEvents: a kick through the partition's port and through another; a packet in the slot, none there, one that is refused,
one that is absent; queues in each phase, one too far ahead, one stopped. -/
theorem witness_queue_events :
    (let s := queueRun (queueOf1 none .idle [])
     (aget s.queues 1).any (fun q => (s.stack 0).partNum == s.queuePartition q && (s.stack 0).enable && !(s.stack 5).enable &&
       s.queueRuns q && !q.statusDue && decide (q.consumed < q.kicked) && readOk (s.cpRead q (q.slot q.consumed) 64)) &&
     s.launches.all (fun p => !p.2.desc.capture)) = true ∧
    (let s := queueRun { queueOf1 none .marking [] with ring := 0x10000 }
     (aget s.queues 1).any (fun q => s.queueRuns q && (match s.cpRead q (q.slot 0) 64 with | .refused => true | _ => false))) = true ∧
    (let s : State := { queueRun { queueOf1 none (.checking 8) [] with ring := 0x20000, check := true } with
        mem := writeBytes live.mem 0x5010 (natLe 8 (2 ^ 61)) }
     (aget s.queues 1).any (fun q => s.queueRuns q && (match s.cpRead q (q.slot 0) 64 with | .hold page => page == 0x20000 | _ => false))) = true ∧
    pkt (packetOf 4 []) 0 4 = 1 ∧ (queueOf1 none .idle []).checked (packetOf 4 []) = true ∧
    ({ queueOf1 none .idle [] with check := true } : Queue).checked (packetOf 4 []) = false ∧
    (0 : Nat) + 2 ^ 2 < ({ queueOf1 none .idle [] with kicked := 5 } : Queue).kicked ∧
    ({ queueOf1 none .idle [] with stopped := true } : Queue).stopped = true := by decide +kernel

/-- The fields of a status block (R363). -/
theorem test_status_block : let q : Queue := { queueOf1 none .idle [] with consumed := 0x102, completed := 3, error := 2, detail := 7, index := 9 }
    q.statusBytes = [2, 1, 0, 0, 0, 0, 0, 0, 3, 0, 0, 0, 0, 0, 0, 0, 2, 0, 0, 0, 7, 0, 0, 0, 9, 0, 0, 0, 0, 0, 0, 0] := by decide

/-- Packet 2 completes before packet 1: COMPLETED waits for 1 (R363). -/
theorem test_completed : let q : Queue := { queueOf1 none .idle [] with consumed := 3, completed := 1 }
    (q.complete 2).completed = 1 ∧ ((q.complete 2).complete 1).completed = 3 := by decide

/-- PacketEvents: a packet of each kind that may start; a wait that holds and one that does not; a launch that waits for its
counter; an open graph before and after its last node; a ring whose interrupt is due. -/
theorem witness_packet_events :
    (∀ k ∈ ([1, 2, 3, 4, 5, 6, 7] : List Nat), startable (queueRun (queueOf1 none .fetched (packetOf k []))) k = true) ∧
    (let s := queueRun (queueOf1 none .fetched (packetOf 4 ([0, 0x80] ++ List.replicate 6 0)))
     (aget s.queues 1).any (fun q => match s.cpRead q (pkt q.packet 8 8) 4 with | .ok v _ => leNat v == 0 | _ => false)) = true ∧
    (let s : State := queueRun (queueOf1 none .fetched (packetOf 5 ([0, 0x80] ++ List.replicate 6 0)))
     (aget s.queues 1).any (fun q => match s.cpWrite q (pkt q.packet 8 8) (natLe 4 7) with | .ok _ => true | _ => false)) = true ∧
    (let s := onLaunch (onDesc (queueRun (queueOf1 none .idle [])) (fun d => { d with dep := 0x8000, depValue := 0 })) (fun l =>
        { l with depMet := false, owner := ⟨1, 0, false⟩ })
     s.complexRuns && (aget s.launches 0).any (fun x => !x.depMet && !x.recorded && x.heldPage.isNone &&
       (aget s.queues x.owner.queue).any (fun q => readOk (s.cpRead q x.desc.dep.toNat 8)))) = true ∧
    (let g : Graph := ⟨0x8000, 1, 0, 0, 0, 0, false, [], []⟩
     let s := queueRun { queueOf1 none .idle [] with openPackets := [⟨0, 6, [], some g, []⟩, ⟨1, 6, [], some { g with node := 1 }, []⟩,
       ⟨2, 4, [], none, []⟩, ⟨3, 6, [], some { g with busy := true }, []⟩] }
     (aget s.queues 1).any (fun q => q.heldPage.isNone && (q.open 0).any (fun p => p.graph == some g) && (q.open 2).any (fun p =>
       p.graph.isNone && p.kind == 4) && readOk (s.cpRead q 0x8000 64)) && !(s.stack 0).haltArrived && s.castling.isNone) = true ∧
    nodeOk [0] (List.replicate 64 0) = false ∧ nodeOk [0] ([0, 0, 0, 0, 8] ++ List.replicate 59 0) = true ∧
    (let s : State := { complex live with rings := [⟨0x8000, 1, 0⟩] }
     s.complexRuns && (s.coalesce 0x8000).pending == 1 && decide ((s.ringBlock 0x8000).time * 1000 ≤ s.activeNow - 0)) = true ∧
    aget State.reset.launches State.reset.nextId = none := by decide

/-- ComplexEvents: registers that answer, rings that are valid and not, modes, loads and castling in each state. -/
theorem witness_complex_events :
    (let s := onStack (complex live) (fun t => { t with bootState := 4 })
     s.complexRuns && (s.stack 0).bootState == 4 && s.activeStack == 0 && !(s.ringBlock 0x8000).ok && (s.partition 11).evDropped == 0 &&
       (s.stack 0).batch.isEmpty && s.reservations.isEmpty && !(s.stack 6).cpRole) = true ∧
    (let s : State := { complex live with mem := writeBytes (complex live).mem 0x8008 (natLe 4 16 ++ natLe 2 0 ++ natLe 2 1) }
     (s.ringBlock 0x8000).ok) = true ∧
    (let s := live.modStack 6 (fun t => { t with bootState := 4, cpState := 1 })
     (s.stack 6).cpState == 1 && !(s.stack 6).cpRole && ((live.stack 6).cpState == 0) && s.castling.isNone && (match s.readImage 6 1 0 with | .error _ => true | _ => false)) = true ∧
    (let s := (complex live).modStack 6 (fun t => { t with cpState := 2, bootState := 4 })
     s.complexRuns && s.standbyStack == 6 && (s.stack s.standbyStack).cpState == 2) = true ∧
    (let s : State := onStack { complex live with castling := some ⟨0, none⟩ } (fun t => { t with now := 50000 })
     decide (s.activeNow - 0 ≤ 50000) && decide (50000 ≤ s.activeNow - 0) && s.packetBoundary) = true ∧
    (let s := queueRun (queueOf1 none .fetched (packetOf 4 []))
     !s.packetBoundary) = true ∧
    (let s := complex live
     let table := tableBytes 1 0 (s.seq - 1) [(0x8001, 0, [7])]
     tableOk (fun v => v == 1) (fun _ => true) table && !tableOk (fun v => v == 1) (fun _ => true) (flipBytes table (2 ^ 64)) &&
       !tableOk (fun v => v == 1) (fun _ => false) table && pkt table 8 8 == s.seq - 1) = true ∧
    (let s : State := onStack { complex live with castling := some ⟨0, none⟩ } (fun t => { t with now := 50001 })
     decide (50000 < s.activeNow - 0)) = true := by decide +kernel

/-- AdministrativePackets: a packet of each kind that may start, from a queue of the context's partition and of another; a
descriptor in reach and one that is not; a context that is not on the ladder and one that is; a page that can move. -/
theorem witness_administrative_packets :
    (∀ k ∈ ([32, 33, 34, 35, 36, 37, 38, 39, 40, 41] : List Nat),
      startable (queueRun (queueOf1 (some 0) .fetched (packetOf k []))) k = true) ∧
    (let s := queueRun (queueOf1 (some 0) .fetched (packetOf 32 []))
     (aget s.queues 1).any (fun q => readOk (s.cpRead q 0x8000 128) && (s.ownContext q 0).any (fun c => c.rung == .none && s.imagesIntact 0 c) &&
       (match s.cpRead q 0x1000000000 128 with | .refused => true | _ => false)) &&
       (s.savedGangs 0).isEmpty && (s.gangsOn 0) == [0]) = true ∧
    (let s := queueRun (queueOf1 (some 1) .fetched (packetOf 37 []))
     (aget s.queues 1).any (fun q => (s.ownContext q 0).isNone)) = true ∧
    (let s := onContext (queueRun (queueOf1 (some 0) .fetched (packetOf 36 []))) (fun c => { c with rung := .drain 1 0 0 0 })
     (aget s.queues 1).any (fun q => (s.ownContext q 0).any (fun c => c.rung != .none))) = true ∧
    (let s := onStack (queueRun (queueOf1 (some 0) .fetched (packetOf 41 []))) (fun t => { t with capacity := 0x40000 })
     s.leafPlace 0 0 0 0x1000 walkLevels == some (0x5000, 0x800000000001000E, 0x10000) && isLocal 0x10000 && s.reachable 0 0 0x30000 &&
       s.reachable 0 0 (0x30000 + 65535) && (s.snoopLines 0x10000 65536 true).isEmpty) = true := by decide +kernel

/-- A context is created with the fields of its descriptor (R391). -/
def contextBytes : List Byte :=
  natLe 8 0x1800 ++ natLe 8 0x20000 ++ natLe 8 64 ++ natLe 4 9 ++ natLe 2 77 ++ [3, 0] ++ natLe 8 0x100 ++
  natLe 8 0x200 ++ natLe 8 0x4000 ++ natLe 8 0x8000 ++ natLe 4 1000 ++ List.replicate 60 0
theorem test_context_of : let c := contextOf contextBytes 5
    c.root = 0x1800 ∧ c.placeCount = 9 ∧ c.captureOk = true ∧ c.trapEntry = 0x100 ∧ c.trapArea = 0x200 ∧ c.saveArea = 0x4000 ∧
    c.saveSize = 0x8000 ∧ c.watchdog = 1000 ∧ c.partition = 5 ∧ contextBytes.length = 128 := by decide +kernel

/-- PreemptionEvents: a context on each rung before and past its bound, a saved gang that can return, an invalidation. -/
theorem witness_preemption_events :
    (let s := onContext (complex live) (fun c => { c with rung := .drain 1 0 0 0 })
     s.ladderRuns 0 && decide (0 ≤ s.activeNow) && s.gangsOn 0 == [0] && s.activeNow == 0) = true ∧
    (let s := onStack (onContext (onGang (complex undispatched) (fun g => { g with state := .saved })) (fun c => { c with resuming := [(1, 0)] }))
        (fun t => { t with now := 1, sdState := false })
     (aget s.gangs 0).any (fun x => (s.launchOf x).any (fun l => s.restoreStack l x == some 0 && decide (x.lastNow < (s.stack 0).now) &&
       s.dispatches l.ctx && s.ladderRuns l.ctx && (s.room 0).pick l.desc == some 0 && s.regrant 0 0 x == some none && !l.desc.capture &&
       (((s.savedGangs l.ctx).filter (fun p => p.2.launch == x.launch)).head?).map Prod.fst == some 0))) = true ∧
    (let y : Invalidation := ⟨1, 0, 0, 0, 2 ^ 64, [0]⟩
     let s : State := { complex live with invalidations := [y] }
     s.invalidations.find? (fun x => x.queue == 1 && x.waiting.contains 0) == some y && !s.unperformed 0 0 &&
       (y.waiting.filter (fun k => k != 0)).isEmpty) = true ∧
    ({ live with matoms := [⟨0, 0, 0, 0x10100, .add32, 5, 0, false, 3, .pkg, [], [], 0⟩] } : State).unperformed 0 0 = true := by decide +kernel

/-! ### Registers, boot, repair and links -/

/-- Stack 0 answers register writes, and its complex runs. -/
def serving : State := onStack (complex live) (fun t => { t with bootState := 4 })

/-- RegistersAndPartitions: a stack that answers and one that does not; banks in each state; a partition change, a scrub, a
transfer within a partition and between two. -/
theorem witness_registers_and_partitions :
    ((serving.stack 0).bootState = 4 ∧ serving.complexRuns = true ∧ (live.stack 0).bootState ≠ 4 ∧ live.complexRuns = false) ∧
    (serving.stack 0).banks[255]? = some ⟨1, 1, none⟩ ∧
    ((onStack serving (fun t => { t with banks := t.banks.set 255 ⟨0, 1, none⟩ })).stack 0).banks[64 * 3 + 63]? = some ⟨0, 1, none⟩ ∧
    ((serving.stack 0).enable = true ∧ (serving.stack 0).partNum = 0 ∧ (0x101 : Nat).testBit 0 = true ∧ (0x101 : Nat) / 2 ^ 8 % 16 ≠ 0) ∧
    ((onStack serving (fun t => { t with scrubbing := true })).stack 0).scrubbing = true ∧
    (serving.stack 0).partNum = (serving.stack 1).partNum ∧ ((live.modStack 11 (fun t => { t with partNum := 11 })).stack 11).partNum ≠ 0 := by
  decide

/-- Registers keep the bits that the manual gives them (R355, R358): ROUTE takes [51:30], [2:1] and [0]; TIMECFG stays from 100 to 10000. -/
theorem test_registers :
    ((after (.registerWrite 0 0x11F0 0xFFFFFFFFFFFFFFFF) serving).stack 0).routes[31]? = some (0xFFFFFC0000007, 0) ∧
    ((after (.registerWrite 0 0x2000 0x00010001) serving).stack 0).timeInterval = 100 ∧
    ((after (.registerWrite 0 0x2000 0xFFFF0000) serving).stack 0).timeInterval = 10000 := by decide +kernel

/-- BootAndIdentity: the states of boot; an image that cannot be read; the wait for keys before and at 100 ms; a quote. -/
theorem witness_boot_and_identity :
    (State.reset.stack 11).bootState = 0 ∧
    ((onStack live (fun t => { t with bootState := 1 })).stack 0).bootState = 1 ∧
    ((onStack live (fun t => { t with bootState := 3 })).stack 0).bootState = 3 ∧
    (match (live.modStack 0 (fun t => { t with snoops := [⟨0x10000 / 128 + 1, true, false⟩] })).readImage 0 2 0x10000 with
      | .wait lines => lines == [0x10000 / 128 + 1] | _ => false) = true ∧
    (live.imageReadable 0 0x10000 192 = true ∧ live.frozenFor 0 0x10000 = false ∧ imageShapeOk 2 (readBytes live.mem 0x10000 192) = false) ∧
    (match (onStack live (fun t => { t with bootState := 6 })).readImage 0 2 0xFFFFFFFFFFFFFF00 with | .error code => code == 1 | _ => false) = true ∧
    (let s := onStack live (fun t => { t with bootState := 2, now := 100000000 })
     (s.stack 0).bootState == 2 && s.allKeys.isNone && decide ((s.stack 0).bootSince + 100000000 ≤ (s.stack 0).now)) = true ∧
    (let s : State := { live with stackTab := live.stackTab.map (fun t => { t with bootState := 2, idpub := List.replicate 64 1 }) }
     s.allKeys.isSome) = true ∧
    (let s := onStack live (fun t => { t with bootState := 5 })
     (s.stack 0).bootState == 5 && !(s.stack 0).bootQuote && s.castling.isNone) = true ∧
    (let s := onStack live (fun t => { t with bootQuote := true, quote := [1], attArg := 0xFFFFFFFFFFE80 })
     (s.stack 0).bootQuote && (s.stack 0).quote != [] && !s.frozenFor 0 0xFFFFFFFFFFE80 && (s.stack 0).linkUp && !isLocal (s.stack 0).attArg.toNat && decide ((s.stack 0).attArg.toNat + 384 ≤ 2 ^ 52)) = true := by
  decide

/-- RepairAndHeat: a data block, a parity block and a place that holds neither, one that is leaving, a group that does not decode, a repair packet of each op in its mode
and out of it, a rebuild and a map-out under way, and a governor whose time has and has not come. -/
theorem witness_repair_and_heat :
    ((serving.stack 0).bootState = 4 ∧ (serving.stack 0).repMode = 0 ∧ (2 ^ 27 - 1 : Nat) < 2 ^ 27) ∧
    ((serving.stack 0).placeUse 0 0 = some (.data (blockAt 0 0)) ∧ (serving.stack 0).placeUse 5 (31 * 2 ^ 17) = some (.parity 5 0) ∧
      (serving.stack 0).dataBlock (2 ^ 27 - 1) = false ∧ serving.placeDecodes [] 0 0 0 = true ∧ serving.groupDecodes [] 0 0 0 = true) ∧
    (let s := onStack serving (fun t => { t with repMode := 2, repChannel := 3 })
     (s.stack 0).placeUse 3 (31 * 2 ^ 17 + 1) = none) ∧
    (let s := onStack serving (fun t => { t with repMode := 1, repChannel := 3, cursor := 1 })
     (s.stack 0).leaving 3 1 = true ∧ (s.stack 0).leaving 3 0 = false ∧ (s.stack 0).leaving 2 1 = false) ∧
    (let s := onStack serving (fun t => { t with parityLost := [blockAt 31 (31 * 2 ^ 17)] })
     s.groupDecodes [] 0 0 0 = false) ∧
    (∀ op ∈ ([1, 2, 3] : List Nat), let s := queueRun (queueOf1 (some 0) .fetched (packetOf 42 [0, BitVec.ofNat 8 op]))
      startable s 42 = true ∧ (aget s.queues 1).any (fun q => pkt q.packet 9 1 == op && (s.members (s.queuePartition q)).contains 0) = true) ∧
    (let s := onStack (queueRun (queueOf1 (some 0) .fetched (packetOf 42 [0, 3]))) (fun t => { t with repMode := 3, repLayer := 15 })
     (s.stack 0).repMode == 3 && (s.stack 0).repairQueue.isNone) = true ∧
    ((onStack live (fun t => { t with repMode := 1, cursor := 2 ^ 17 - 1 })).stack 0).cursor + 1 = 2 ^ 17 ∧
    ((onStack live (fun t => { t with repMode := 3, repairQueue := some (1, 0), mapCopied := 2 ^ 23 - 1 })).stack 0).repairQueue = some (1, 0) ∧
    (0 < live.stackTab.length ∧ (live.stack 0).now < (live.stack 0).governorAt + 100000) ∧
    ((onStack live (fun t => { t with now := 100000 })).stack 0).governorAt + 100000 ≤ 100000 := by decide

/-- LinksRoutesAndTime: a port that is up and down, a load and a store that went out on it, a copy whose recall has not been
answered, a frozen stack, exchanges, and requests of the host inside and outside its windows. -/
theorem witness_links_routes_and_time :
    (live.stack 3).linkUp = true ∧ ((live.modStack 3 (fun t => { t with linkUp := false })).stack 3).linkUp = false ∧
    waveMeets (onWave live (fun w => { w with loads := [⟨[], some 3, false, 1, [], 0, false, 1, false⟩], stores := [⟨some 3, 0x1000000000000, 4, 0, false⟩] })) (fun _ w =>
      (w.loads[0]?).any (fun p => p.port == some 3) && (w.stores[0]?).any (fun p => p.port == some 3)) = true ∧
    (let s := onStack live (fun t => { t with snoops := [⟨7, true, true⟩] })
     ((s.stack 0).snoops.find? (fun y => y.line == 7 && y.waiting)).isSome) = true ∧
    (let s := onStack serving (fun t => { t with freeze := true })
     (s.stack 0).freeze && s.complexRuns) = true ∧
    (let s := onStack serving (fun t => { t with timeEnable := true, now := 1000000 })
     (s.stack 0).exchanges) = true ∧ (live.stack 0).exchanges = false ∧
    (let s := onStack live (fun t => { t with timeState := 2, now := 16000000 })
     (s.stack 0).timeState == 2 && decide ((s.stack 0).lastExchange + 16000000 ≤ (s.stack 0).now)) = true ∧
    live.hostMay 0 0 64 = false ∧
    (onStack live (fun t => { t with windows := t.windows.set 7 (1, 0x3FC0000000) })).hostMay 0 0x3F 1 = true := by decide

/-- The last byte of a 128-byte line (R1) is the last place of an access that keeps within it. -/
theorem witness_host_line : (0x7F : Nat) % 128 + 1 ≤ 128 ∧ 128 < (0x7F : Nat) % 128 + 2 := by decide

/-- The digest of "abc" (FIPS 180-4), twice the base point of P-256, the first round key that AES-256 computes from the bytes 0 to
31 (FIPS 197), and the least polynomial of R432's code, which is the field's own. -/
theorem test_codes : sha256 [0x61, 0x62, 0x63] = 0xBA7816BF8F01CFEA414140DE5DAE2223B00361A396177A9CB410FF61F20015AD ∧
    p256Base.add p256Base = some (0x7CF27B188D034F7E8A52380304B51AC3C08969E277F21B35A60B48FC47669978,
      0x07775510DB8ED040293D9AC69F7430DBBA7DADE63CE982299E04B79D227873D1) ∧
    (aesKeys (List.range 32))[2]? = some [0xA5, 0x73, 0xC2, 0x9F, 0xA1, 0x76, 0xC4, 0x98, 0xA9, 0x7F, 0xCE, 0x93, 0xA5, 0x72, 0xC0, 0x9C] ∧
    minPoly 1 = 0x201B := by decide +kernel

/-- The governor's table (R441): a cap of 50 with a need of 2, and one of 25. -/
theorem test_heat : heatStates[heatTarget 100 1]? = some (100, 1) ∧ ((heatStates[heatTarget 50 2]?).map (fun x => decide (x.1 ≤ 50 ∧ 2 ≤ x.2))) = some true := by
  decide

/-! ### The rest -/

/-- NumberFormats: what its clauses suppose, at a tie and on the largest finite number. -/
theorem witness_number_formats : (6 : Nat) % 2 ^ 1 = 0 ∧ 2 * ((5 : Nat) % 2 ^ 1) = 2 ^ 1 ∧ (0x7F7FFFFF : Nat) < 2 ^ (1 + fmtF32.eb + fmtF32.tb) ∧
    (fmtF32.decode 0x7F7FFFFF).isNan = false ∧ (-3 : Int) ≤ (⟨5, -3⟩ : Dy).e := by decide

/-- MemoryReadAfterWrite: a table in canonical form, and one in it after a write of bytes of which one is 0. -/
theorem witness_memory : State.reset.memoryOk = true ∧ (State.reset.writeMem (State.reset.hostAgent.author false 0 2) 5 [1, 0, 2] true).memoryOk = true := by decide

/-- A step from a word that is ready has a next state (StepKeepsInvariant). -/
theorem witness_step : (match Sys2Proof.Machine.step live with | .next _ => true | _ => false) = true := by decide +kernel

end Sys2Proof.Tests
end

section
/-! SUPPORT. The integer and lane words (chapter 05): what their arithmetic gives in the terms of the statements. -/
namespace Sys2Proof.Machine

/-! ### Products and quotients (R111, R112) -/

/-- The high half of a double-width word that holds an exact number is that number divided by 2 ^ w, rounded down. -/
theorem extractHigh_ofInt (w : Nat) (p : Int) :
    (BitVec.ofInt (w + w) p).extractLsb' w w = BitVec.ofInt w (p / (2 ^ w : Nat)) := by
  have hA : (0 : Int) < (2 ^ w : Nat) := Int.natCast_pos.mpr (Nat.two_pow_pos w)
  have hAA : (0 : Int) < (2 ^ (w + w) : Nat) := Int.natCast_pos.mpr (Nat.two_pow_pos (w + w))
  have hmod : p % (2 ^ (w + w) : Nat) = p + (2 ^ w : Nat) * ((2 ^ w : Nat) * -(p / (2 ^ (w + w) : Nat))) := by
    rw [Int.emod_def, Int.sub_eq_add_neg, ← Int.mul_neg, ← Int.mul_assoc, ← Int.natCast_mul, ← Nat.pow_add]
  have hdiv : p % (2 ^ (w + w) : Nat) / (2 ^ w : Nat) % (2 ^ w : Nat) = p / (2 ^ w : Nat) % (2 ^ w : Nat) := by
    rw [hmod, Int.add_mul_ediv_left _ _ (Int.ne_of_gt hA), Int.add_mul_emod_self_left]
  obtain ⟨n, hn⟩ := Int.eq_ofNat_of_zero_le (Int.emod_nonneg p (Int.ne_of_gt hAA))
  apply BitVec.eq_of_toNat_eq
  rw [BitVec.extractLsb'_toNat, BitVec.toNat_ofInt, BitVec.toNat_ofInt, Nat.shiftRight_eq_div_pow, ← hdiv, hn,
    Int.toNat_natCast, ← Int.natCast_ediv, ← Int.natCast_emod, Int.toNat_natCast]

theorem mulHigh_signed {w : Nat} (x y : BitVec w) :
    mulHigh true x y = (x.signExtend (w + w) * y.signExtend (w + w)).extractLsb' w w := by
  rw [BitVec.signExtend, BitVec.signExtend, ← BitVec.ofInt_mul, extractHigh_ofInt]
  rfl

theorem mulHigh_unsigned {w : Nat} (x y : BitVec w) :
    mulHigh false x y = (x.setWidth (w + w) * y.setWidth (w + w)).extractLsb' w w := by
  have h : x.setWidth (w + w) * y.setWidth (w + w) = BitVec.ofInt (w + w) ((x.toNat : Int) * y.toNat) := by
    rw [BitVec.ofInt_mul, BitVec.ofInt_natCast, BitVec.ofInt_natCast, BitVec.ofNat_toNat, BitVec.ofNat_toNat]
  rw [h, extractHigh_ofInt]
  rfl

theorem sdiv_eq_ofInt {w : Nat} (x y : BitVec w) : x.sdiv y = BitVec.ofInt w (x.toInt.tdiv y.toInt) :=
  BitVec.eq_of_toInt_eq (by rw [BitVec.toInt_sdiv, BitVec.toInt_ofInt])

theorem srem_eq_ofInt {w : Nat} (x y : BitVec w) : x.srem y = BitVec.ofInt w (x.toInt.tmod y.toInt) := by
  rw [← BitVec.toInt_srem, BitVec.ofInt_toInt]

theorem divide_unsigned (x y : W32) :
    divide true x y = if y = 0 then 0xFFFFFFFF else BitVec.ofNat 32 (x.toNat / y.toNat) := by
  simp only [divide, if_true]
  rw [← BitVec.toNat_udiv, BitVec.ofNat_toNat, BitVec.setWidth_eq]

/-- The overflow that the model names apart is the one that wrapping the exact quotient gives. -/
theorem divide_signed (x y : W32) :
    divide false x y = if y = 0 then 0xFFFFFFFF else BitVec.ofInt 32 (x.toInt.tdiv y.toInt) := by
  simp only [divide, Bool.false_eq_true, if_false, ← sdiv_eq_ofInt]
  by_cases hv : x = 0x80000000 ∧ y = 0xFFFFFFFF
  · obtain ⟨rfl, rfl⟩ := hv
    decide
  · rw [if_neg hv]

theorem remainder_unsigned (x y : W32) :
    remainder true x y = if y = 0 then x else BitVec.ofNat 32 (x.toNat % y.toNat) := by
  simp only [remainder, if_true]
  rw [← BitVec.toNat_umod, BitVec.ofNat_toNat, BitVec.setWidth_eq]

theorem remainder_signed (x y : W32) :
    remainder false x y = if y = 0 then x else BitVec.ofInt 32 (x.toInt.tmod y.toInt) := by
  simp only [remainder, Bool.false_eq_true, if_false, ← srem_eq_ofInt]
  by_cases hv : x = 0x80000000 ∧ y = 0xFFFFFFFF
  · obtain ⟨rfl, rfl⟩ := hv
    decide
  · rw [if_neg hv]

/-! ### Minimum, maximum and saturation (R113) -/

theorem lessThan_unsigned {w : Nat} (x y : BitVec w) : lessThan true x y = true ↔ x.toNat < y.toNat :=
  BitVec.ult_iff_toNat_lt

theorem lessThan_signed {w : Nat} (x y : BitVec w) : lessThan false x y = true ↔ x.toInt < y.toInt :=
  BitVec.slt_iff_toInt_lt

theorem minimum_unsigned {w : Nat} (x y : BitVec w) : minimum true x y = if y.toNat < x.toNat then y else x := by
  simp only [minimum, lessThan_unsigned]

theorem minimum_signed {w : Nat} (x y : BitVec w) : minimum false x y = if y.toInt < x.toInt then y else x := by
  simp only [minimum, lessThan_signed]

theorem maximum_unsigned {w : Nat} (x y : BitVec w) : maximum true x y = if x.toNat < y.toNat then y else x := by
  simp only [maximum, lessThan_unsigned]

theorem maximum_signed {w : Nat} (x y : BitVec w) : maximum false x y = if x.toInt < y.toInt then y else x := by
  simp only [maximum, lessThan_signed]

theorem sat_eq_max_min (t : NumTy) (h : t.lo ≤ t.hi) (v : Int) : t.sat v = max t.lo (min v t.hi) := by
  unfold NumTy.sat
  split
  · omega
  · split <;> omega

theorem clamp_unsigned (v : Int) : clamp true v = BitVec.ofInt 32 (max 0 (min v (2 ^ 32 - 1))) :=
  congrArg (BitVec.ofInt 32) (sat_eq_max_min .n32 (by decide) v)

theorem clamp_signed (v : Int) : clamp false v = BitVec.ofInt 32 (max (-2 ^ 31) (min v (2 ^ 31 - 1))) :=
  congrArg (BitVec.ofInt 32) (sat_eq_max_min .i32 (by decide) v)

/-- An exact sum of unsigned values is never below the range. -/
theorem clamp_sum_unsigned (x y : W32) :
    clamp true (intOf true x + intOf true y) = BitVec.ofNat 32 (min (x.toNat + y.toNat) (2 ^ 32 - 1)) := by
  rw [clamp_unsigned, ← BitVec.ofInt_natCast]
  congr 1
  simp only [intOf, if_true]
  omega

/-- An exact difference of unsigned values is never above the range. -/
theorem clamp_difference_unsigned (x y : W32) :
    clamp true (intOf true x - intOf true y) = BitVec.ofNat 32 (x.toNat - y.toNat) := by
  have hx := x.isLt
  rw [clamp_unsigned, ← BitVec.ofInt_natCast]
  congr 1
  simp only [intOf, if_true]
  omega

/-! ### Shifts, bit fields and bytes (R114 to R116) -/

theorem shiftLeft_of_lt {w : Nat} (x : BitVec w) {n : Nat} (h : n < w) : shiftLeft x n = x <<< n :=
  if_neg (Nat.not_le.mpr h)

theorem shiftRight_of_lt {w : Nat} (x : BitVec w) {n : Nat} (h : n < w) : shiftRight x n = x >>> n :=
  if_neg (Nat.not_le.mpr h)

theorem shiftArith_of_lt {w : Nat} (x : BitVec w) {n : Nat} (h : n < w) : shiftArith x n = x.sshiftRight n :=
  if_neg (Nat.not_le.mpr h)

theorem rotateLeft_mod_width {w : Nat} (x : BitVec w) (n : Nat) :
    x.rotateLeft (n % w) = (x <<< (n % w)) ||| (x >>> (w - n % w)) := by
  rw [BitVec.rotateLeft_def, Nat.mod_mod]

/-- The sign of a field is its bit `fieldLen y - 1`; the field itself is below `2 ^ fieldLen y`. -/
theorem extractField_signed {w : Nat} (x y : BitVec w) :
    extractField false x y =
      let f := x.toInt / (2 ^ fieldPos y : Nat) % (2 ^ fieldLen y : Nat)
      if fieldLen y = 0 then 0
      else BitVec.ofInt w (if f < (2 ^ (fieldLen y - 1) : Nat) then f else f - (2 ^ fieldLen y : Nat)) := by
  have hpos : (0 : Int) < (2 ^ fieldLen y : Nat) := Int.natCast_pos.mpr (Nat.two_pow_pos _)
  simp only [extractField, Bool.false_eq_true, if_false]
  generalize x.toInt / (2 ^ fieldPos y : Nat) = q
  obtain ⟨n, hn⟩ := Int.eq_ofNat_of_zero_le (Int.emod_nonneg q (Int.ne_of_gt hpos))
  have hlt : n < 2 ^ fieldLen y := by have := Int.emod_lt_of_pos q hpos; omega
  simp only [hn, sInt, Int.toNat_natCast, Nat.mod_eq_of_lt hlt, Int.ofNat_lt]

theorem extractField_unsigned {w : Nat} (x y : BitVec w) :
    extractField true x y = BitVec.ofNat w (x.toNat / 2 ^ fieldPos y % 2 ^ fieldLen y) := by
  simp only [extractField, if_true, ← Int.natCast_ediv, ← Int.natCast_emod, BitVec.ofInt_natCast]
  split
  next h => rw [h, Nat.pow_zero, Nat.mod_one]; rfl
  next => rfl

theorem ofNat_mul_two_pow (w k p : Nat) : BitVec.ofNat w (k * 2 ^ p) = BitVec.ofNat w k <<< p := by
  apply BitVec.eq_of_toNat_eq
  simp [Nat.shiftLeft_eq, Nat.mul_mod]

theorem insertField_eq {w : Nat} (x y z : BitVec w) :
    insertField x y z =
      let m := BitVec.ofNat w (2 ^ fieldLen y - 1) <<< fieldPos y
      (z &&& ~~~m) ||| ((x <<< fieldPos y) &&& m) := by
  simp only [insertField, ofNat_mul_two_pow, BitVec.ofNat_toNat, BitVec.setWidth_eq]

/-- The low three bits of a selector name the byte of the pool, its high bit asks for the sign. -/
theorem permByte_eq (pool : W64) (b : W32) (i : Nat) :
    permByte pool b i =
      let p : Byte := pool.extractLsb' (8 * (b.toNat / 16 ^ i % 8)) 8
      if b.toNat / 16 ^ i / 8 % 2 = 1 then (if p.msb then (0xFF : Byte) else 0) else p := by
  simp only [permByte]
  generalize b.toNat / 16 ^ i = q
  have hlow : q % 16 % 8 = q % 8 := by omega
  have hhigh : 8 ≤ q % 16 ↔ q / 8 % 2 = 1 := by omega
  simp only [hlow, hhigh]

theorem permuteBytes_eq (x y z : W32) :
    permuteBytes x y z =
      let pool : W64 := z ++ x
      let at_ := fun (i : Nat) => let p : Byte := pool.extractLsb' (8 * (y.toNat / 16 ^ i % 8)) 8
        if y.toNat / 16 ^ i / 8 % 2 = 1 then (if p.msb then (0xFF : Byte) else 0) else p
      at_ 3 ++ at_ 2 ++ at_ 1 ++ at_ 0 := by
  simp only [permuteBytes, permByte_eq]

/-! ### Absolute value, counts and reversal (R117) -/

theorem absolute_eq {w : Nat} (x : BitVec w) : absolute x = if x.toInt < 0 then 0 - x else x := by
  simp only [absolute, BitVec.msb_eq_toInt, decide_eq_true_eq, BitVec.ofNat_eq_ofNat, BitVec.zero_sub]

theorem popCount_eq_countP (v n : Nat) : popCount v n = (List.range n).countP v.testBit := by
  induction n with
  | zero => rfl
  | succ n ih => simp only [popCount, ih, List.range_succ, List.countP_append, List.countP_singleton, Nat.add_comm]

theorem countOnes_eq {w : Nat} (x : BitVec w) :
    countOnes x = BitVec.ofNat w ((List.range w).countP (fun k => x.getLsbD k)) :=
  congrArg (BitVec.ofNat w) (popCount_eq_countP x.toNat w)

/-- The leading zeros end at the highest 1, which is bit `log2 v`; with no 1 they are all w bits. -/
theorem leadingZeros_eq_findIdx {w v : Nat} (hv : v < 2 ^ w) :
    leadingZeros w v = ((List.range w).map (fun k => v.testBit (w - 1 - k))).findIdx (fun b => b) := by
  by_cases h0 : v = 0
  · subst h0
    rw [List.findIdx_eq_length_of_false (by simp), List.length_map, List.length_range]
    rfl
  · have hlog : v.log2 < w := (Nat.log2_lt h0).mpr hv
    have hlen : w - 1 - v.log2 < ((List.range w).map (fun k => v.testBit (w - 1 - k))).length := by
      rw [List.length_map, List.length_range]
      omega
    rw [leadingZeros, if_neg h0, eq_comm, List.findIdx_eq hlen]
    refine ⟨?_, fun j hj => ?_⟩
    · rw [List.getElem_map, List.getElem_range, Nat.sub_sub_self (by omega), Nat.testBit_log2 h0]
    · have hpow : 2 ^ (v.log2 + 1) ≤ 2 ^ (w - 1 - j) := Nat.pow_le_pow_right (by omega) (by omega)
      rw [List.getElem_map, List.getElem_range]
      exact Nat.testBit_lt_two_pow (Nat.lt_of_lt_of_le Nat.lt_log2_self hpow)

theorem countLeading_eq {w : Nat} (x : BitVec w) :
    countLeading x = BitVec.ofNat w
      (((List.range w).map (fun k => x.getLsbD (w - 1 - k))).findIdx (fun b => b)) :=
  congrArg (BitVec.ofNat w) (leadingZeros_eq_findIdx x.isLt)

theorem trailingZeros_eq_findIdx (v n k : Nat) :
    trailingZeros v n k = k + ((List.range n).map (fun j => v.testBit (k + j))).findIdx (fun b => b) := by
  induction n generalizing k with
  | zero => rfl
  | succ n ih =>
    rw [List.range_succ_eq_map, List.map_cons, List.map_map, List.findIdx_cons, Nat.add_zero, trailingZeros]
    cases hk : v.testBit k
    · have hstep : (fun j => v.testBit (k + j)) ∘ Nat.succ = fun j => v.testBit (k + 1 + j) := by
        funext j
        exact congrArg v.testBit (by omega)
      rw [ih, hstep]
      simp only [Bool.false_eq_true, if_false, cond_false]
      omega
    · rfl

theorem countTrailing_eq {w : Nat} (x : BitVec w) :
    countTrailing x = BitVec.ofNat w (((List.range w).map (fun k => x.getLsbD k)).findIdx (fun b => b)) := by
  have h := trailingZeros_eq_findIdx x.toNat w 0
  simp only [Nat.zero_add] at h
  exact congrArg (BitVec.ofNat w) h

/-- After k rounds of the reversal the k lowest bits of the word stand in their mirrored places. -/
theorem has_reverseBits_fold {w : Nat} (x : BitVec w) {k n : Nat} (hk : k ≤ w) (hn : n < w) :
    has ((List.range k).foldl (fun m j => setBit m (w - 1 - j) (x.getLsbD j)) (0 : BitVec w)) (w - 1 - n) =
      (decide (n < k) && x.getLsbD n) := by
  induction k with
  | zero => simp [has]
  | succ k ih =>
    rw [List.range_succ, List.foldl_append, List.foldl_cons, List.foldl_nil, has_setBit _ _ _ _ (by omega),
      ih (by omega)]
    by_cases h : n = k
    · simp [h]
    · have hplace : w - 1 - n ≠ w - 1 - k := by omega
      have hlt : n < k + 1 ↔ n < k := by omega
      rw [if_neg hplace, decide_eq_decide.mpr hlt]

theorem reverseBits_eq {w : Nat} (x : BitVec w) : reverseBits x = x.reverse := by
  apply BitVec.eq_of_getLsbD_eq
  intro i hi
  have hlow : w - 1 - i < w := by omega
  have hbit := has_reverseBits_fold x (Nat.le_refl w) hlow
  rw [Nat.sub_sub_self (by omega), decide_eq_true hlow, Bool.true_and] at hbit
  rw [BitVec.getLsbD_reverse, BitVec.getMsbD_eq_getLsbD, decide_eq_true hi, Bool.true_and, ← hbit]
  rfl

/-! ### Lane exchange (R126 to R129) -/

theorem Issue.lt_of_on {c : Issue} {n : Nat} (h : c.on n = true) : n < 32 := BitVec.lt_of_getLsbD h

theorem Issue.anyLane_eq (c : Issue) (f : Lane → Bool) :
    c.anyLane f = (List.range 32).any (fun m => c.on m && f (c.wave.core.lane m)) := List.any_filter

theorem Issue.allLanes_eq (c : Issue) (f : Lane → Bool) :
    c.allLanes f = (List.range 32).all (fun m => !c.on m || f (c.wave.core.lane m)) := List.all_filter

/-- The number whose bits are the places below k that have a property, as VOTE_BALLOT's statement adds it up. -/
def maskSum (p : Nat → Bool) (k : Nat) : Nat := ((List.range k).filter p).foldl (fun v m => v + 2 ^ m) 0

theorem maskSum_succ (p : Nat → Bool) (k : Nat) :
    maskSum p (k + 1) = if p k then maskSum p k + 2 ^ k else maskSum p k := by
  rw [maskSum, List.range_succ, List.filter_append, List.foldl_append]
  cases hp : p k <;> simp [hp, maskSum]

theorem maskSum_lt (p : Nat → Bool) (k : Nat) : maskSum p k < 2 ^ k := by
  induction k with
  | zero => exact Nat.one_pos
  | succ k ih =>
    rw [maskSum_succ, Nat.pow_succ]
    split <;> omega

/-- Adding 2 ^ k to a number below it sets bit k and leaves the others. -/
theorem testBit_maskSum (p : Nat → Bool) (k n : Nat) : (maskSum p k).testBit n = (decide (n < k) && p n) := by
  induction k with
  | zero => simp [maskSum]
  | succ k ih =>
    have hor : 2 ^ k + maskSum p k = 2 ^ k ||| maskSum p k := by
      simpa only [Nat.mul_one] using Nat.two_pow_add_eq_or_of_lt (maskSum_lt p k) 1
    rw [maskSum_succ, Nat.add_comm (maskSum p k), hor, apply_ite (Nat.testBit · n), Nat.testBit_or, ih]
    by_cases hn : n = k
    · subst hn
      simp
    · have hlt : n < k + 1 ↔ n < k := by omega
      simp [Nat.testBit_two_pow_of_ne (Ne.symm hn), hlt]

theorem Issue.ballot_eq (c : Issue) (f : Lane → Bool) :
    c.ballot f = BitVec.ofNat 32 (maskSum (fun m => c.on m && f (c.wave.core.lane m)) 32) := by
  apply BitVec.eq_of_getLsbD_eq
  intro n hn
  have hgather := has_gather (fun m => f (c.wave.core.lane m)) (bitsOf c.active) (fun _ h => bitsOf_lt h) 0 n
  have hzero : has (0 : BitVec 32) n = false := by simp [has]
  have hmem : (bitsOf c.active).contains n = c.on n := by
    rw [Bool.eq_iff_iff, List.contains_iff_mem, mem_bitsOf]
    rfl
  rw [hzero, hmem, Bool.false_or] at hgather
  rw [BitVec.getLsbD_ofNat, testBit_maskSum, decide_eq_true hn, Bool.true_and, Bool.true_and, ← hgather]
  rfl

/-- `Issue.first` is active and the lowest-numbered lane that is. -/
theorem Issue.first_lowest (c : Issue) {n : Nat} (h : c.on n = true) : c.on c.first = true ∧ c.first ≤ n := by
  have hmem : n ∈ bitsOf c.active := (mem_bitsOf c.active n).mpr h
  have hsorted : (bitsOf c.active).Pairwise (· < ·) := List.pairwise_lt_range.filter _
  have hfirst : c.first = (bitsOf c.active).headD 0 := rfl
  cases hl : bitsOf c.active with
  | nil => simp [hl] at hmem
  | cons k ks =>
    rw [hl] at hmem hsorted hfirst
    have hk : c.on k = true := (mem_bitsOf c.active k).mp (by simp [hl])
    rw [hfirst, List.headD_cons]
    refine ⟨hk, ?_⟩
    rcases List.mem_cons.mp hmem with rfl | htail
    · exact Nat.le_refl _
    · exact Nat.le_of_lt (List.rel_of_pairwise_cons hsorted htail)

/-- The law of `Issue.uniform`, for a word whose result also depends on its active lanes. -/
theorem uniform_gives {i : Instr} {s : State} {c : Issue} {d : Reg} {f : WaveCore → W64 × Bool} (h : Executes i s c)
    (e : exec i s = .next (c.done i s (c.uniform d f))) :
    GivesUniform i s c d (fun w => (f w).1) (fun w => (f w).2) :=
  uniform64_gives h (e.trans (issueWord_go h (fun c => c.done i s (c.uniform d f))).symm)

/-- The law of `shuffle`: p says whether lane n with operand m names a lane of the wave, and q which. -/
theorem shuffle_gives {i : Instr} {s : State} {c : Issue} {nw : Bool} {d a b : Reg} {source : Nat → Nat → Int}
    {p : Nat → Nat → Prop} [∀ n m, Decidable (p n m)] {q : Nat → Nat → Nat} (h : Executes i s c)
    (e : exec i s = shuffle i nw d a b source s)
    (hp : ∀ n m, 0 ≤ source n m → source n m ≤ 31 → p n m) (hq : ∀ n m, p n m → source n m = q n m) :
    GivesValue i s c nw false d
      (fun n l => let m := (l.src32 b).toNat
        ((if p n m ∧ c.on (q n m) then c.wave.core.lane (q n m) else l).src32 a).setWidth 64)
      (fun n l => let m := (l.src32 b).toNat
        (if p n m ∧ c.on (q n m) then c.wave.core.lane (q n m) else l).marked a 1) := by
  have hlane : ∀ (n m : Nat) (l : Lane),
      (if 0 ≤ source n m ∧ source n m ≤ 31 ∧ c.on (source n m).toNat then c.wave.core.lane (source n m).toNat
        else l) = if p n m ∧ c.on (q n m) then c.wave.core.lane (q n m) else l := by
    intro n m l
    by_cases hnm : p n m
    · have hrange : c.on (q n m) = true → (q n m : Int) ≤ 31 := fun hon => by
        have := Issue.lt_of_on hon
        omega
      rw [hq n m hnm, Int.toNat_natCast]
      have hsame : (0 ≤ (q n m : Int) ∧ (q n m : Int) ≤ 31 ∧ c.on (q n m)) ↔ (p n m ∧ c.on (q n m)) :=
        ⟨fun ⟨_, _, hon⟩ => ⟨hnm, hon⟩, fun ⟨_, hon⟩ => ⟨Int.natCast_nonneg _, hrange hon, hon⟩⟩
      simp only [hsame]
    · rw [if_neg (fun ⟨hlow, hhigh, _⟩ => hnm (hp n m hlow hhigh)), if_neg (fun ⟨hcase, _⟩ => hnm hcase)]
  have hgives := valued_gives (e.trans (issueWord_go h _))
  simpa only [hlane] using hgives

/-! ### Words of one shape

A word whose meaning is a shared shape around `g`, where `g` is the function f of the statement. -/

theorem unary32_of {i : Instr} {nw : Bool} {d a : Reg} {f g : W32 → W32} (hf : ∀ x, g x = f x)
    (e : ∀ s, exec i s = lane32 i nw d (fun l => g (l.src32 a)) (fun l => l.marked a 1) s) : Unary32 i nw d a f := by
  obtain rfl : g = f := funext hf
  exact fun s _ h => lane32_gives h (e s)

theorem binary32_of {i : Instr} {nw : Bool} {d a b : Reg} {f g : W32 → W32 → W32} (hf : ∀ x y, g x y = f x y)
    (e : ∀ s, exec i s = lane32 i nw d (fun l => g (l.src32 a) (l.src32 b)) (fun l => l.marked a 1 || l.marked b 1) s) :
    Binary32 i nw d a b f := by
  obtain rfl : g = f := funext fun x => funext (hf x)
  exact fun s _ h => lane32_gives h (e s)

theorem ternary32_of {i : Instr} {nw : Bool} {d a b : Reg} {f g : W32 → W32 → W32 → W32}
    (hf : ∀ x y z, g x y z = f x y z)
    (e : ∀ s, exec i s = lane32 i nw d (fun l => g (l.src32 a) (l.src32 b) (l.src32 d))
      (fun l => l.marked a 1 || l.marked b 1 || l.marked d 1) s) : Ternary32 i nw d a b f := by
  obtain rfl : g = f := funext fun x => funext fun y => funext (hf x y)
  exact fun s _ h => lane32_gives h (e s)

theorem unary64_of {i : Instr} {nw : Bool} {d a : Reg} {f g : W64 → W64} (hf : ∀ x, g x = f x)
    (e : ∀ s, exec i s = lane64 i nw d (fun l => g (l.src64 a)) (fun l => l.marked a 2) s) : Unary64 i nw d a f := by
  obtain rfl : g = f := funext hf
  exact fun s _ h => lane64_gives h (e s)

theorem binary64_of {i : Instr} {nw : Bool} {d a b : Reg} {f g : W64 → W64 → W64} (hf : ∀ x y, g x y = f x y)
    (e : ∀ s, exec i s = lane64 i nw d (fun l => g (l.src64 a) (l.src64 b)) (fun l => l.marked a 2 || l.marked b 2) s) :
    Binary64 i nw d a b f := by
  obtain rfl : g = f := funext fun x => funext (hf x)
  exact fun s _ h => lane64_gives h (e s)

theorem mixed64_of {i : Instr} {nw : Bool} {d a b : Reg} {f g : W64 → W32 → W64} (hf : ∀ x y, g x y = f x y)
    (e : ∀ s, exec i s = lane64 i nw d (fun l => g (l.src64 a) (l.src32 b)) (fun l => l.marked a 2 || l.marked b 1) s) :
    Mixed64 i nw d a b f := by
  obtain rfl : g = f := funext fun x => funext (hf x)
  exact fun s _ h => lane64_gives h (e s)

theorem unaryU_of {i : Instr} {d a : Reg} {f g : W64 → W64} (hf : ∀ x, g x = f x)
    (e : ∀ s, exec i s = uniform64 i d (fun w => g (w.uni a)) (fun w => w.uniMark a) s) : UnaryU i d a f := by
  obtain rfl : g = f := funext hf
  exact fun s _ h => uniform64_gives h (e s)

theorem binaryU_of {i : Instr} {d a b : Reg} {f g : W64 → W64 → W64} (hf : ∀ x y, g x y = f x y)
    (e : ∀ s, exec i s = uniform64 i d (fun w => g (w.uni a) (w.uni b)) (fun w => w.uniMark a || w.uniMark b) s) :
    BinaryU i d a b f := by
  obtain rfl : g = f := funext fun x => funext (hf x)
  exact fun s _ h => uniform64_gives h (e s)

theorem ternaryU_of {i : Instr} {d a b : Reg} {f g : W64 → W64 → W64 → W64} (hf : ∀ x y z, g x y z = f x y z)
    (e : ∀ s, exec i s = uniform64 i d (fun w => g (w.uni a) (w.uni b) (w.uni d))
      (fun w => w.uniMark a || w.uniMark b || w.uniMark d) s) : TernaryU i d a b f := by
  obtain rfl : g = f := funext fun x => funext fun y => funext (hf x y)
  exact fun s _ h => uniform64_gives h (e s)

end Sys2Proof.Machine
end

section
/-! SUPPORT. The statements about the integer and lane words. In each clause the first argument says that the word's
arithmetic is the statement's, and `fun _ => rfl` that `exec` gives the word that shape; the laws of Laws/Issue.lean do
the rest. -/
namespace Sys2Proof.Machine

/-- Settles O1: the high halves are those of the exact double-width products, the other words wrap as `BitVec` does. -/
theorem arithmeticWraps : Obligations.ArithmeticWraps := fun _ _ _ _ =>
  ⟨binary32_of (fun _ _ => rfl) (fun _ => rfl),
    binary32_of (fun _ _ => rfl) (fun _ => rfl),
    binary32_of (fun _ _ => rfl) (fun _ => rfl),
    binary32_of mulHigh_signed (fun _ => rfl),
    binary32_of mulHigh_unsigned (fun _ => rfl),
    ternary32_of (fun _ _ _ => rfl) (fun _ => rfl),
    binary64_of (fun _ _ => rfl) (fun _ => rfl),
    binary64_of (fun _ _ => rfl) (fun _ => rfl),
    binary64_of (fun _ _ => rfl) (fun _ => rfl),
    binaryU_of (fun _ _ => rfl) (fun _ => rfl),
    binaryU_of (fun _ _ => rfl) (fun _ => rfl),
    binaryU_of (fun _ _ => rfl) (fun _ => rfl),
    binaryU_of mulHigh_signed (fun _ => rfl),
    binaryU_of mulHigh_unsigned (fun _ => rfl),
    ternaryU_of (fun _ _ _ => rfl) (fun _ => rfl)⟩

/-- Settles O2: quotient and remainder are the exact ones wrapped, the signed overflow included. -/
theorem divisionTruncates : Obligations.DivisionTruncates := fun _ _ _ _ =>
  ⟨binary32_of divide_unsigned (fun _ => rfl),
    binary32_of divide_signed (fun _ => rfl),
    binary32_of remainder_unsigned (fun _ => rfl),
    binary32_of remainder_signed (fun _ => rfl)⟩

/-- Settles O3: comparison and clamping by type; an unsigned sum meets the upper bound alone, a difference the lower. -/
theorem minMaxAndSaturation : Obligations.MinMaxAndSaturation := fun _ _ _ _ =>
  ⟨binary32_of minimum_unsigned (fun _ => rfl),
    binary32_of minimum_signed (fun _ => rfl),
    binary32_of maximum_unsigned (fun _ => rfl),
    binary32_of maximum_signed (fun _ => rfl),
    binary64_of minimum_unsigned (fun _ => rfl),
    binary64_of minimum_signed (fun _ => rfl),
    binary64_of maximum_unsigned (fun _ => rfl),
    binary64_of maximum_signed (fun _ => rfl),
    binaryU_of minimum_unsigned (fun _ => rfl),
    binaryU_of minimum_signed (fun _ => rfl),
    binaryU_of maximum_unsigned (fun _ => rfl),
    binaryU_of maximum_signed (fun _ => rfl),
    binary32_of clamp_sum_unsigned (fun _ => rfl),
    binary32_of (fun x y => clamp_signed (x.toInt + y.toInt)) (fun _ => rfl),
    binary32_of clamp_difference_unsigned (fun _ => rfl),
    binary32_of (fun x y => clamp_signed (x.toInt - y.toInt)) (fun _ => rfl)⟩

/-- Settles O4: an amount of 5 bits is below 32, and one of 6 bits below 64. -/
theorem shifts : Obligations.Shifts := fun _ _ _ _ n k =>
  ⟨binary32_of (fun _ _ => rfl) (fun _ => rfl),
    binary32_of (fun _ _ => rfl) (fun _ => rfl),
    binary32_of (fun _ _ => rfl) (fun _ => rfl),
    binary32_of (fun x y => rotateLeft_mod_width x y.toNat) (fun _ => rfl),
    unary32_of (fun x => shiftLeft_of_lt x n.isLt) (fun _ => rfl),
    unary32_of (fun x => shiftRight_of_lt x n.isLt) (fun _ => rfl),
    unary32_of (fun x => shiftArith_of_lt x n.isLt) (fun _ => rfl),
    mixed64_of (fun _ _ => rfl) (fun _ => rfl),
    mixed64_of (fun _ _ => rfl) (fun _ => rfl),
    mixed64_of (fun _ _ => rfl) (fun _ => rfl),
    unary64_of (fun x => shiftLeft_of_lt x k.isLt) (fun _ => rfl),
    unary64_of (fun x => shiftRight_of_lt x k.isLt) (fun _ => rfl),
    unary64_of (fun x => shiftArith_of_lt x k.isLt) (fun _ => rfl),
    binaryU_of (fun _ _ => rfl) (fun _ => rfl),
    binaryU_of (fun _ _ => rfl) (fun _ => rfl),
    binaryU_of (fun _ _ => rfl) (fun _ => rfl),
    unaryU_of (fun x => shiftLeft_of_lt x k.isLt) (fun _ => rfl),
    unaryU_of (fun x => shiftRight_of_lt x k.isLt) (fun _ => rfl),
    unaryU_of (fun x => shiftArith_of_lt x k.isLt) (fun _ => rfl)⟩

/-- Settles O5: fields and bytes as arithmetic on the control word. -/
theorem bitFieldsAndBytes : Obligations.BitFieldsAndBytes := fun _ _ _ _ =>
  ⟨binary32_of extractField_signed (fun _ => rfl),
    binary32_of extractField_unsigned (fun _ => rfl),
    ternary32_of insertField_eq (fun _ => rfl),
    binaryU_of extractField_signed (fun _ => rfl),
    binaryU_of extractField_unsigned (fun _ => rfl),
    ternaryU_of insertField_eq (fun _ => rfl),
    ternary32_of permuteBytes_eq (fun _ => rfl)⟩

/-- Settles O6: the counts, which the model computes by recursion, as counts and first places in the list of bits. -/
theorem unaryOperations : Obligations.UnaryOperations := fun _ _ _ =>
  ⟨unary32_of (fun _ => rfl) (fun _ => rfl),
    unary32_of (fun _ => rfl) (fun _ => rfl),
    unary32_of (fun x => (BitVec.zero_sub x).symm) (fun _ => rfl),
    unary32_of absolute_eq (fun _ => rfl),
    unary32_of countOnes_eq (fun _ => rfl),
    unary32_of countLeading_eq (fun _ => rfl),
    unary32_of countTrailing_eq (fun _ => rfl),
    unary32_of reverseBits_eq (fun _ => rfl),
    unary64_of (fun _ => rfl) (fun _ => rfl),
    unary64_of (fun _ => rfl) (fun _ => rfl),
    unary64_of (fun x => (BitVec.zero_sub x).symm) (fun _ => rfl),
    unary64_of absolute_eq (fun _ => rfl),
    unary64_of countOnes_eq (fun _ => rfl),
    unary64_of countLeading_eq (fun _ => rfl),
    unary64_of countTrailing_eq (fun _ => rfl),
    unary64_of reverseBits_eq (fun _ => rfl),
    unaryU_of (fun _ => rfl) (fun _ => rfl),
    unaryU_of (fun _ => rfl) (fun _ => rfl),
    unaryU_of (fun x => (BitVec.zero_sub x).symm) (fun _ => rfl),
    unaryU_of absolute_eq (fun _ => rfl),
    unaryU_of countOnes_eq (fun _ => rfl),
    unaryU_of countLeading_eq (fun _ => rfl),
    unaryU_of countTrailing_eq (fun _ => rfl),
    unaryU_of reverseBits_eq (fun _ => rfl)⟩

/-- Settles O9: a vote gathers over the active lanes, a shuffle reads the wave as it issued, and the lowest active lane
is the head of the ascending list of active lanes. -/
theorem laneExchange : Obligations.LaneExchange := by
  intro nw x z d a b q p
  refine ⟨fun s c h => ?all, fun s c h => ?any, fun s c h => ?ballot, fun s c h => ?idx, fun s c h => ?up,
    fun s c h => ?down, fun s c h => ?xor, fun s c h => ?bcst, fun s c h => ?elect, fun c n h _ => c.first_lowest h⟩
  case all =>
    have hgives := lanePred_gives h (rfl : exec (.voteAll q x p) s = execVoteAll q x p s)
    simpa only [Issue.allLanes_eq, Issue.anyLane_eq] using hgives
  case any =>
    have hgives := lanePred_gives h (rfl : exec (.voteAny q x p) s = execVoteAny q x p s)
    simpa only [Issue.anyLane_eq] using hgives
  case ballot =>
    have hgives := valued_gives ((rfl : exec _ s = execVoteBallot nw d x p s).trans (issueWord_go h _))
    simpa only [Issue.ballot_eq, Issue.anyLane_eq, maskSum] using hgives
  case idx =>
    exact shuffle_gives h (rfl : exec _ s = execShflIdx nw d a b s) (p := fun _ m => m < 32) (q := fun _ m => m)
      (by intros; omega) (by intros; rfl)
  case up =>
    exact shuffle_gives h (rfl : exec _ s = execShflUp nw d a b s) (p := fun n m => m ≤ n) (q := fun n m => n - m)
      (by intros; omega) (by intros; omega)
  case down =>
    exact shuffle_gives h (rfl : exec _ s = execShflDown nw d a b s) (p := fun n m => n + m < 32)
      (q := fun n m => n + m) (by intros; omega) (by intros; omega)
  case xor =>
    exact shuffle_gives h (rfl : exec _ s = execShflXor nw d a b s) (p := fun n m => n ^^^ m < 32)
      (q := fun n m => n ^^^ m) (by intros; omega) (by intros; rfl)
  case bcst =>
    exact uniform_gives h ((rfl : exec _ s = execBcst z d a s).trans (issueWord_go h _))
  case elect =>
    exact lanePred_gives h (rfl : exec _ s = execElect q s)

end Sys2Proof.Machine
end

section
/-! SUPPORT. Facts of logic and lists that every later proof may use; core Lean, on which the model stands, has no lemma
for them. -/
namespace Sys2Proof

theorem ite_of_iff {α : Sort _} {p q : Prop} [Decidable p] [Decidable q] {a b c d : α} (h : p ↔ q) (ha : a = c)
    (hb : b = d) : (if p then a else b) = if q then c else d :=
  ite_congr (propext h) (fun _ => ha) (fun _ => hb)

theorem not_and_iff {p q : Prop} : ¬ (p ∧ q) ↔ ¬ p ∨ ¬ q := Classical.not_and_iff_not_or_not

section
variable {α β : Type _} {xs : List α}

theorem filterMap_eq_of_mem {f g : α → Option β} (h : ∀ x ∈ xs, f x = g x) : xs.filterMap f = xs.filterMap g := by
  induction xs with
  | nil => rfl
  | cons x xs ih =>
    rw [List.filterMap_cons, List.filterMap_cons, h x List.mem_cons_self, ih fun y hy => h y (List.mem_cons_of_mem _ hy)]

theorem filterMap_never (xs : List α) : xs.filterMap (fun _ => (none : Option β)) = [] :=
  List.filterMap_eq_nil_iff.2 fun _ _ => rfl

theorem foldl_eq_of_mem {f g : β → α → β} (b : β) (h : ∀ b, ∀ x ∈ xs, f b x = g b x) : xs.foldl f b = xs.foldl g b := by
  induction xs generalizing b with
  | nil => rfl
  | cons x xs ih =>
    rw [List.foldl_cons, List.foldl_cons, h b x List.mem_cons_self, ih _ fun c y hy => h c y (List.mem_cons_of_mem _ hy)]

/-- An element in front of what is left without it. -/
theorem cons_eraseIdx_perm {n : Nat} (h : n < xs.length) : (xs[n] :: xs.eraseIdx n).Perm xs := by
  induction xs generalizing n with
  | nil => cases h
  | cons x xs ih =>
    cases n with
    | zero => exact .refl _
    | succ n => exact (List.Perm.swap x _ _).trans ((ih (Nat.lt_of_succ_lt_succ h)).cons x)

theorem of_filter_mem {p : α → Bool} {x : α} (h : x ∈ xs.filter p) : p x = true := (List.mem_filter.1 h).2

theorem mem_of_filter_mem {p : α → Bool} {x : α} (h : x ∈ xs.filter p) : x ∈ xs := (List.mem_filter.1 h).1

end

end Sys2Proof
end

section
/-! SUPPORT. The round trip between instructions and words (R52 to R77): the rows of the encoding tables as fields, how
a field is read, and that each row is read back. -/
namespace Sys2Proof
open BitVec

/-! ### Rows -/

/-- A row of the encoding tables (R52, R59 to R77): an instruction with the major, the function code, bit 21 and the
operand fields d, a and b of its word. -/
inductive Row : Instr → Nat → BitVec 5 → Bool → Reg → Reg → Reg → Prop
  | nop : Row .nop 0 1 false 0 0 0
  | trap {n} : Row (.trap n) 0 2 false 0 0 n
  | tret : Row .tret 0 3 false 0 0 0
  | brk {n} : Row (.brk n) 0 4 false 0 0 n
  | gets {nw d a} : Row (.gets nw d a) 0 5 nw d a 0
  | sets {a b} : Row (.sets a b) 0 6 false 0 a b
  | xen {o m} : Row (.xen o m) 0 7 false 0 0 (BitVec.ofNat 2 o.code ++ m)
  | xflg {o m} : Row (.xflg o m) 0 8 false 0 0 (BitVec.ofNat 2 o.code ++ m)
  | exit : Row .exit 0 9 false 0 0 0
  | ret : Row .ret 0 10 false 0 0 0
  | brx {a p} : Row (.brx a p) 0 11 false 0 a (0#1 ++ p)
  | callx {a p} : Row (.callx a p) 0 12 false 0 a (0#1 ++ p)
  | prio {p} : Row (.prio p) 0 13 false 0 0 (0#1 ++ p)
  | jmsk {j} : Row (.jmsk j) 0 14 false (0#4 ++ j) 0 0
  | join {j} : Row (.join j) 0 15 false (0#4 ++ j) 0 0
  | winb {b} : Row (.winb b) 0 16 false 0 0 (0#1 ++ b)
  | valid {v} : Row (.valid v) 0 17 false 0 0 (0#5 ++ BitVec.ofNat 2 v.code)
  | yield : Row .yield 0 18 false 0 0 0
  | guard {n s q} : Row (.guard n s q) 0 19 false n 0 (0#2 ++ ofBool s ++ q)
  | add32 {nw d a b} : Row (.add32 nw d a b) 3 0 nw d a b
  | sub32 {nw d a b} : Row (.sub32 nw d a b) 3 1 nw d a b
  | mull {nw d a b} : Row (.mull nw d a b) 3 2 nw d a b
  | mulhI32 {nw d a b} : Row (.mulhI32 nw d a b) 3 3 nw d a b
  | mulhN32 {nw d a b} : Row (.mulhN32 nw d a b) 3 4 nw d a b
  | mad {nw d a b} : Row (.mad nw d a b) 3 5 nw d a b
  | div32 {nw d a b} (t) : Row (.div32 t nw d a b) 3 (3#4 ++ ofBool t) nw d a b
  | rem32 {nw d a b} (t) : Row (.rem32 t nw d a b) 3 (4#4 ++ ofBool t) nw d a b
  | min32 {nw d a b} (t) : Row (.min32 t nw d a b) 3 (5#4 ++ ofBool t) nw d a b
  | max32 {nw d a b} (t) : Row (.max32 t nw d a b) 3 (6#4 ++ ofBool t) nw d a b
  | sadd {nw d a b} (t) : Row (.sadd t nw d a b) 3 (7#4 ++ ofBool t) nw d a b
  | ssub {nw d a b} (t) : Row (.ssub t nw d a b) 3 (8#4 ++ ofBool t) nw d a b
  | and32 {nw d a b} : Row (.and32 nw d a b) 3 18 nw d a b
  | or32 {nw d a b} : Row (.or32 nw d a b) 3 19 nw d a b
  | xor32 {nw d a b} : Row (.xor32 nw d a b) 3 20 nw d a b
  | shl {nw d a b} : Row (.shl nw d a b) 3 21 nw d a b
  | shr {nw d a b} : Row (.shr nw d a b) 3 22 nw d a b
  | sar {nw d a b} : Row (.sar nw d a b) 3 23 nw d a b
  | rotl {nw d a b} : Row (.rotl nw d a b) 3 24 nw d a b
  | shli {nw d a n} : Row (.shli nw d a n) 3 25 nw d a (0#2 ++ n)
  | shri {nw d a n} : Row (.shri nw d a n) 3 25 nw d a (1#2 ++ n)
  | sari {nw d a n} : Row (.sari nw d a n) 3 25 nw d a (2#2 ++ n)
  | bfx {nw d a b} (t) : Row (.bfx t nw d a b) 3 (13#4 ++ ofBool t) nw d a b
  | bfi {nw d a b} : Row (.bfi nw d a b) 3 28 nw d a b
  | permb {nw d a b} : Row (.permb nw d a b) 3 29 nw d a b
  | mov {nw d a} : Row (.mov nw d a) 3 30 nw d a 0
  | not32 {nw d a} : Row (.not32 nw d a) 3 30 nw d a 1
  | neg32 {nw d a} : Row (.neg32 nw d a) 3 30 nw d a 2
  | abs32 {nw d a} : Row (.abs32 nw d a) 3 30 nw d a 3
  | popc {nw d a} : Row (.popc nw d a) 3 30 nw d a 4
  | clz {nw d a} : Row (.clz nw d a) 3 30 nw d a 5
  | ctz {nw d a} : Row (.ctz nw d a) 3 30 nw d a 6
  | brev {nw d a} : Row (.brev nw d a) 3 30 nw d a 7
  | addInt64 {nw d a b} : Row (.addInt64 nw d a b) 4 0 nw d a b
  | subInt64 {nw d a b} : Row (.subInt64 nw d a b) 4 1 nw d a b
  | mullInt64 {nw d a b} : Row (.mullInt64 nw d a b) 4 2 nw d a b
  | minI64 {nw d a b} : Row (.minI64 nw d a b) 4 3 nw d a b
  | minN64 {nw d a b} : Row (.minN64 nw d a b) 4 4 nw d a b
  | maxI64 {nw d a b} : Row (.maxI64 nw d a b) 4 5 nw d a b
  | maxN64 {nw d a b} : Row (.maxN64 nw d a b) 4 6 nw d a b
  | andInt64 {nw d a b} : Row (.andInt64 nw d a b) 4 7 nw d a b
  | orInt64 {nw d a b} : Row (.orInt64 nw d a b) 4 8 nw d a b
  | xorInt64 {nw d a b} : Row (.xorInt64 nw d a b) 4 9 nw d a b
  | shlInt64 {nw d a b} : Row (.shlInt64 nw d a b) 4 10 nw d a b
  | shrInt64 {nw d a b} : Row (.shrInt64 nw d a b) 4 11 nw d a b
  | sarInt64 {nw d a b} : Row (.sarInt64 nw d a b) 4 12 nw d a b
  | shliInt64 {nw d a n} : Row (.shliInt64 nw d a n) 4 13 nw d a (0#1 ++ n)
  | shriInt64 {nw d a n} : Row (.shriInt64 nw d a n) 4 14 nw d a (0#1 ++ n)
  | sariInt64 {nw d a n} : Row (.sariInt64 nw d a n) 4 15 nw d a (0#1 ++ n)
  | movInt64 {nw d a} : Row (.movInt64 nw d a) 4 16 nw d a 0
  | notInt64 {nw d a} : Row (.notInt64 nw d a) 4 16 nw d a 1
  | negInt64 {nw d a} : Row (.negInt64 nw d a) 4 16 nw d a 2
  | absInt64 {nw d a} : Row (.absInt64 nw d a) 4 16 nw d a 3
  | popcInt64 {nw d a} : Row (.popcInt64 nw d a) 4 16 nw d a 4
  | clzInt64 {nw d a} : Row (.clzInt64 nw d a) 4 16 nw d a 5
  | ctzInt64 {nw d a} : Row (.ctzInt64 nw d a) 4 16 nw d a 6
  | brevInt64 {nw d a} : Row (.brevInt64 nw d a) 4 16 nw d a 7
  | leaI32 {nw d a b} : Row (.leaI32 nw d a b) 4 17 nw d a b
  | leaN32 {nw d a b} : Row (.leaN32 nw d a b) 4 18 nw d a b
  | addUint {d a b} : Row (.addUint d a b) 5 0 false d a b
  | subUint {d a b} : Row (.subUint d a b) 5 1 false d a b
  | mullUint {d a b} : Row (.mullUint d a b) 5 2 false d a b
  | mulhI64 {d a b} : Row (.mulhI64 d a b) 5 3 false d a b
  | mulhN64 {d a b} : Row (.mulhN64 d a b) 5 4 false d a b
  | madUint {d a b} : Row (.madUint d a b) 5 5 false d a b
  | minUint {d a b} (t) : Row (.minUint t d a b) 5 (3#4 ++ ofBool t) false d a b
  | maxUint {d a b} (t) : Row (.maxUint t d a b) 5 (4#4 ++ ofBool t) false d a b
  | andUint {d a b} : Row (.andUint d a b) 5 10 false d a b
  | orUint {d a b} : Row (.orUint d a b) 5 11 false d a b
  | xorUint {d a b} : Row (.xorUint d a b) 5 12 false d a b
  | shlUint {d a b} : Row (.shlUint d a b) 5 13 false d a b
  | shrUint {d a b} : Row (.shrUint d a b) 5 14 false d a b
  | sarUint {d a b} : Row (.sarUint d a b) 5 15 false d a b
  | shliUint {d a n} : Row (.shliUint d a n) 5 16 false d a (0#1 ++ n)
  | shriUint {d a n} : Row (.shriUint d a n) 5 17 false d a (0#1 ++ n)
  | sariUint {d a n} : Row (.sariUint d a n) 5 18 false d a (0#1 ++ n)
  | bfxI64 {d a b} : Row (.bfxI64 d a b) 5 19 false d a b
  | bfxN64 {d a b} : Row (.bfxN64 d a b) 5 20 false d a b
  | bfiUint {d a b} : Row (.bfiUint d a b) 5 21 false d a b
  | movUint {d a} : Row (.movUint d a) 5 22 false d a 0
  | notUint {d a} : Row (.notUint d a) 5 22 false d a 1
  | negUint {d a} : Row (.negUint d a) 5 22 false d a 2
  | absUint {d a} : Row (.absUint d a) 5 22 false d a 3
  | popcUint {d a} : Row (.popcUint d a) 5 22 false d a 4
  | clzUint {d a} : Row (.clzUint d a) 5 22 false d a 5
  | ctzUint {d a} : Row (.ctzUint d a) 5 22 false d a 6
  | brevUint {d a} : Row (.brevUint d a) 5 22 false d a 7
  | cmp {t c q a b} : Row (.cmp t c q a b) 6 0 t (BitVec.ofNat 3 c.code ++ q) a b
  | cmp64 {t c q a b} : Row (.cmp64 t c q a b) 6 1 t (BitVec.ofNat 3 c.code ++ q) a b
  | pand {q x p y r} : Row (.pand q x p y r) 6 2 false (0#3 ++ q) (0#2 ++ ofBool x ++ p) (0#2 ++ ofBool y ++ r)
  | por {q x p y r} : Row (.por q x p y r) 6 3 false (0#3 ++ q) (0#2 ++ ofBool x ++ p) (0#2 ++ ofBool y ++ r)
  | pxor {q x p y r} : Row (.pxor q x p y r) 6 4 false (0#3 ++ q) (0#2 ++ ofBool x ++ p) (0#2 ++ ofBool y ++ r)
  | pnot {q x p} : Row (.pnot q x p) 6 5 false (0#3 ++ q) (0#2 ++ ofBool x ++ p) 0
  | pmov {q x p} : Row (.pmov q x p) 6 6 false (0#3 ++ q) (0#2 ++ ofBool x ++ p) 0
  | voteAll {q x p} : Row (.voteAll q x p) 6 7 false (0#3 ++ q) (0#2 ++ ofBool x ++ p) 0
  | voteAny {q x p} : Row (.voteAny q x p) 6 8 false (0#3 ++ q) (0#2 ++ ofBool x ++ p) 0
  | voteBallot {nw d x p} : Row (.voteBallot nw d x p) 6 9 nw d (0#2 ++ ofBool x ++ p) 0
  | shflIdx {nw d a b} : Row (.shflIdx nw d a b) 6 10 nw d a b
  | shflUp {nw d a b} : Row (.shflUp nw d a b) 6 11 nw d a b
  | shflDown {nw d a b} : Row (.shflDown nw d a b) 6 12 nw d a b
  | shflXor {nw d a b} : Row (.shflXor nw d a b) 6 13 nw d a b
  | bcst {z d a} : Row (.bcst z d a) 6 14 z d a 0
  | elect {q} : Row (.elect q) 6 15 false (0#3 ++ q) 0 0
  | movFromUniform {nw d a z} : Row (.movFromUniform nw d a z) 6 16 nw d a (0#6 ++ ofBool z)
  | selB32 {p nw d a b} : Row (.selB32 p nw d a b) 7 (p ++ 0#1) nw d a b
  | selB64 {p nw d a b} : Row (.selB64 p nw d a b) 7 (p ++ 1#1) nw d a b
  | addc {p nw d a b} : Row (.addc p nw d a b) 8 (p ++ 0#1) nw d a b
  | subc {p nw d a b} : Row (.subc p nw d a b) 8 (p ++ 1#1) nw d a b
  | addi {i nw d a} : Row (.addi i nw d a) 9 (i.extractLsb' 7 5) nw d a (i.extractLsb' 0 7)
  | andi {i nw d a} : Row (.andi i nw d a) 10 (i.extractLsb' 7 5) nw d a (i.extractLsb' 0 7)
  | ori {i nw d a} : Row (.ori i nw d a) 11 (i.extractLsb' 7 5) nw d a (i.extractLsb' 0 7)
  | xori {i nw d a} : Row (.xori i nw d a) 12 (i.extractLsb' 7 5) nw d a (i.extractLsb' 0 7)
  | cmpi {i t c q a} : Row (.cmpi i t c q a) 13 (i.extractLsb' 7 5)
      t (BitVec.ofNat 3 c.code ++ q) a (i.extractLsb' 0 7)
  | lui {i nw d} : Row (.lui i nw d) 14 (i.extractLsb' 14 5) nw d (i.extractLsb' 7 7) (i.extractLsb' 0 7)
  | movi {i nw d} : Row (.movi i nw d) 15 (i.extractLsb' 14 5) nw d (i.extractLsb' 7 7) (i.extractLsb' 0 7)
  | uaddi {i d a} : Row (.uaddi i d a) 16 (i.extractLsb' 7 5) false d a (i.extractLsb' 0 7)
  | umovi {i d} : Row (.umovi i d) 17 (i.extractLsb' 14 5) false d (i.extractLsb' 7 7) (i.extractLsb' 0 7)
  | umoviLui {i d} : Row (.umoviLui i d) 17 (i.extractLsb' 14 5) true d (i.extractLsb' 7 7) (i.extractLsb' 0 7)
  | faddFp32 {nw d a b} (r) : Row (.faddFp32 r nw d a b) 18 (0#3 ++ BitVec.ofNat 2 r.code) nw d a b
  | fsubFp32 {nw d a b} (r) : Row (.fsubFp32 r nw d a b) 18 (1#3 ++ BitVec.ofNat 2 r.code) nw d a b
  | fmulFp32 {nw d a b} (r) : Row (.fmulFp32 r nw d a b) 18 (2#3 ++ BitVec.ofNat 2 r.code) nw d a b
  | fdivFp32 {nw d a b} (r) : Row (.fdivFp32 r nw d a b) 18 (3#3 ++ BitVec.ofNat 2 r.code) nw d a b
  | fmaFp32 {nw d a b} (r) : Row (.fmaFp32 r nw d a b) 18 (4#3 ++ BitVec.ofNat 2 r.code) nw d a b
  | fnmaFp32 {nw d a b} (r) : Row (.fnmaFp32 r nw d a b) 18 (5#3 ++ BitVec.ofNat 2 r.code) nw d a b
  | fsclFp32 {nw d a b} (r) : Row (.fsclFp32 r nw d a b) 18 (6#3 ++ BitVec.ofNat 2 r.code) nw d a b
  | fsqrtFp32 {nw d a} (r) : Row (.fsqrtFp32 r nw d a) 18 (7#3 ++ BitVec.ofNat 2 r.code) nw d a 0
  | frcp {nw d a} (r) : Row (.frcp r nw d a) 18 (7#3 ++ BitVec.ofNat 2 r.code) nw d a 1
  | frsq {nw d a} (r) : Row (.frsq r nw d a) 18 (7#3 ++ BitVec.ofNat 2 r.code) nw d a 2
  | fexp2 {nw d a} (r) : Row (.fexp2 r nw d a) 18 (7#3 ++ BitVec.ofNat 2 r.code) nw d a 3
  | flog2 {nw d a} (r) : Row (.flog2 r nw d a) 18 (7#3 ++ BitVec.ofNat 2 r.code) nw d a 4
  | frndFp32 {nw d a} (r) : Row (.frndFp32 r nw d a) 18 (7#3 ++ BitVec.ofNat 2 r.code) nw d a 5
  | frndRnaFp32 {nw d a} : Row (.frndRnaFp32 nw d a) 18 28 nw d a 6
  | faddFp64 {nw d a b} (r) : Row (.faddFp64 r nw d a b) 19 (0#3 ++ BitVec.ofNat 2 r.code) nw d a b
  | fsubFp64 {nw d a b} (r) : Row (.fsubFp64 r nw d a b) 19 (1#3 ++ BitVec.ofNat 2 r.code) nw d a b
  | fmulFp64 {nw d a b} (r) : Row (.fmulFp64 r nw d a b) 19 (2#3 ++ BitVec.ofNat 2 r.code) nw d a b
  | fdivFp64 {nw d a b} (r) : Row (.fdivFp64 r nw d a b) 19 (3#3 ++ BitVec.ofNat 2 r.code) nw d a b
  | fmaFp64 {nw d a b} (r) : Row (.fmaFp64 r nw d a b) 19 (4#3 ++ BitVec.ofNat 2 r.code) nw d a b
  | fnmaFp64 {nw d a b} (r) : Row (.fnmaFp64 r nw d a b) 19 (5#3 ++ BitVec.ofNat 2 r.code) nw d a b
  | fsclFp64 {nw d a b} (r) : Row (.fsclFp64 r nw d a b) 19 (6#3 ++ BitVec.ofNat 2 r.code) nw d a b
  | fsqrtFp64 {nw d a} (r) : Row (.fsqrtFp64 r nw d a) 19 (7#3 ++ BitVec.ofNat 2 r.code) nw d a 0
  | frndFp64 {nw d a} (r) : Row (.frndFp64 r nw d a) 19 (7#3 ++ BitVec.ofNat 2 r.code) nw d a 5
  | frndRnaFp64 {nw d a} : Row (.frndRnaFp64 nw d a) 19 28 nw d a 6
  | hadd2 {nw d a b} (t) (r) : Row (.hadd2 t r nw d a b) 20 (0#2 ++ ofBool t ++ BitVec.ofNat 2 r.code) nw d a b
  | hmul2 {nw d a b} (t) (r) : Row (.hmul2 t r nw d a b) 20 (1#2 ++ ofBool t ++ BitVec.ofNat 2 r.code) nw d a b
  | hfma2 {nw d a b} (t) (r) : Row (.hfma2 t r nw d a b) 20 (2#2 ++ ofBool t ++ BitVec.ofNat 2 r.code) nw d a b
  | hmin2 {nw d a b} (t) : Row (.hmin2 t nw d a b) 20 (12#4 ++ ofBool t) nw d a b
  | hmax2 {nw d a b} (t) : Row (.hmax2 t nw d a b) 20 (13#4 ++ ofBool t) nw d a b
  | fmin {nw d a b} (t) : Row (.fmin t nw d a b) 21 (ofBool t ++ 0#4) nw d a b
  | fmax {nw d a b} (t) : Row (.fmax t nw d a b) 21 (ofBool t ++ 1#4) nw d a b
  | fminn {nw d a b} (t) : Row (.fminn t nw d a b) 21 (ofBool t ++ 2#4) nw d a b
  | fmaxn {nw d a b} (t) : Row (.fmaxn t nw d a b) 21 (ofBool t ++ 3#4) nw d a b
  | fabs {nw d a} (t) : Row (.fabs t nw d a) 21 (ofBool t ++ 4#4) nw d a 0
  | fneg {nw d a} (t) : Row (.fneg t nw d a) 21 (ofBool t ++ 5#4) nw d a 0
  | fcpys {nw d a b} (t) : Row (.fcpys t nw d a b) 21 (ofBool t ++ 6#4) nw d a b
  | fclass {nw d a} (t) : Row (.fclass t nw d a) 21 (ofBool t ++ 7#4) nw d a 0
  | fext {nw d a} (t) : Row (.fext t nw d a) 21 (ofBool t ++ 8#4) nw d a 0
  | fcmp {c q a b} (t) : Row (.fcmp t c q a b) 21 (ofBool t ++ 9#4) false (BitVec.ofNat 3 c.code ++ q) a b
  | cvt {r y nw d a s} : Row (.cvt r y nw d a s) 22 (BitVec.ofNat 3 r.code ++ 0#1 ++ BitVec.ofNat 1 (y.code / 8))
      nw d a (BitVec.ofNat 3 y.code ++ BitVec.ofNat 4 s.code)
  | pack4 {r y nw d a s} : Row (.pack4 r y nw d a s) 22 (BitVec.ofNat 3 r.code ++ 1#1 ++ BitVec.ofNat 1 (y.code / 8))
      nw d a (BitVec.ofNat 3 y.code ++ BitVec.ofNat 4 s.code)
  | ldo {i z d a} : Row (.ldo i z d a) 23 (i.extractLsb' 7 5) z d a (i.extractLsb' 0 7)
  | sto {i z d a} : Row (.sto i z d a) 24 (i.extractLsb' 7 5) z d a (i.extractLsb' 0 7)
  | ld {o d a t c n} (s) : Row (.ld s o d a t c n) 25 (0#3 ++ BitVec.ofNat 2 s.code)
      o d a (BitVec.ofNat 3 t.code ++ BitVec.ofNat 3 c.code ++ ofBool n)
  | ldv {o d a c n} (s) : Row (.ldv s o d a c n) 25 (0#3 ++ BitVec.ofNat 2 s.code)
      o d a (6#3 ++ BitVec.ofNat 3 c.code ++ ofBool n)
  | st {o d a t c n} (s) : Row (.st s o d a t c n) 25 (1#3 ++ BitVec.ofNat 2 s.code)
      o d a (BitVec.ofNat 3 t.code ++ BitVec.ofNat 3 c.code ++ ofBool n)
  | stv {o d a c n} (s) : Row (.stv s o d a c n) 25 (1#3 ++ BitVec.ofNat 2 s.code)
      o d a (6#3 ++ BitVec.ofNat 3 c.code ++ ofBool n)
  | ldx {z d a b} : Row (.ldx z d a b) 25 8 z d a b
  | stx {z d a b} : Row (.stx z d a b) 25 9 z d a b
  | pref {a s n} : Row (.pref a s n) 25 10 false 0 a (BitVec.ofNat 2 s.code ++ 0#4 ++ ofBool n)
  | fence {c o m} : Row (.fence c o m) 25 11
      false 0 0 (BitVec.ofNat 3 c.code ++ BitVec.ofNat 2 o.code ++ ofBool m ++ 0#1)
  | mon {k z a b} : Row (.mon k z a b) 25 12 false (BitVec.ofNat 3 k.code ++ ofBool z ++ 0#3) a b
  | mwait {d a} : Row (.mwait d a) 25 13 false d a 0
  | atom {f d a c o s} : Row (.atom f d a c o s) 26 (BitVec.ofNat 5 f.code)
      false d a (BitVec.ofNat 3 c.code ++ BitVec.ofNat 2 o.code ++ BitVec.ofNat 2 s.code)
  | atomr {f d a c o s} : Row (.atomr f d a c o s) 26 (BitVec.ofNat 5 f.code)
      true d a (BitVec.ofNat 3 c.code ++ BitVec.ofNat 2 o.code ++ BitVec.ofNat 2 s.code)
  | matom {f d a c o} : Row (.matom f d a c o) 26 (BitVec.ofNat 5 f.code)
      false d a (BitVec.ofNat 3 c.code ++ BitVec.ofNat 2 o.code ++ 3#2)
  | matomr {f d a c o} : Row (.matomr f d a c o) 26 (BitVec.ofNat 5 f.code)
      true d a (BitVec.ofNat 3 c.code ++ BitVec.ofNat 2 o.code ++ 3#2)
  | bar {n k c x} : Row (.bar n k c x) 27 0
      false (0#3 ++ n) 0 (BitVec.ofNat 3 k.code ++ BitVec.ofNat 2 c.code ++ ofBool x ++ 0#1)
  | specx : Row .specx 27 1 false 0 0 0
  | qw {q a} : Row (.qw q a) 27 2 false q a 0
  | qr {d q} : Row (.qr d q) 27 3 false d q 0
  | qrt {d q p} : Row (.qrt d q p) 27 4 false d q (0#3 ++ p)
  | qst {d q} : Row (.qst d q) 27 5 false d q 0
  | tkwSrc {a} : Row (.tkwSrc a) 27 6 false 0 a 0
  | tkwVis {a} : Row (.tkwVis a) 27 7 false 0 a 0
  | cpy {nw d a h} : Row (.cpy nw d a h) 27 8 nw d a (0#6 ++ ofBool h)
  | gat {nw d a h} : Row (.gat nw d a h) 27 9 nw d a (0#6 ++ ofBool h)
  | sct {nw d a h} : Row (.sct nw d a h) 27 10 nw d a (0#6 ++ ofBool h)
  | bin {nw d a} : Row (.bin nw d a) 27 11 nw d a 0
  | coll {nw d a h} : Row (.coll nw d a h) 27 12 nw d a (0#6 ++ ofBool h)
  | shape {d a} : Row (.shape d a) 27 13 false d a 0
  | mxls {nw d a} : Row (.mxls nw d a) 27 14 nw d a 0
  | mxsw : Row .mxsw 27 15 false 0 0 0
  | mxgo {nw d a} : Row (.mxgo nw d a) 27 16 nw d a 0
  | mxrd {d a} : Row (.mxrd d a) 27 17 false d a 0
  | mxz {a} : Row (.mxz a) 27 18 false 0 a 0
  | mxst {nw d a} : Row (.mxst nw d a) 27 19 nw d a 0
  | tidw {a b} : Row (.tidw a b) 27 20 false 0 a b
  | tidr {a b} : Row (.tidr a b) 27 21 false 0 a b

/-- A word by its six fields (R52): major, function code, bit 21, and the operand fields d, a and b. -/
def fields (m f : BitVec 5) (n : Bool) (d a b : Reg) : W32 := m ++ f ++ ofBool n ++ d ++ a ++ b

/-! ### Reading fields -/

/-- A field [hi:lo] of a word as bits of the word. -/
theorem bits_toNat (hi lo : Nat) (w : W32) : bits hi lo w.toNat = (w.extractLsb' lo (hi + 1 - lo)).toNat := by
  rw [extractLsb'_toNat, Nat.shiftRight_eq_div_pow, bits]

theorem toNat_append_add {k n : Nat} (x : BitVec k) (y : BitVec n) :
    BitVec.toNat (w := k + n) (HAppend.hAppend (γ := no_index (BitVec (k + n))) x y) = x.toNat * 2 ^ n + y.toNat := by
  rw [toNat_append, Nat.shiftLeft_eq, Nat.mul_comm, ← Nat.two_pow_add_eq_or_of_lt y.isLt]

section
variable {m f : BitVec 5} {n : Bool} {d a b : Reg} {hi lo : Nat}

@[simp] theorem bits_fields_b (h : hi < 7 ∧ lo ≤ hi) :
    bits hi lo (fields m f n d a b).toNat = (b.extractLsb' lo (hi + 1 - lo)).toNat := by
  rw [bits_toNat, fields, extractLsb'_append_eq_of_add_le (by omega)]

@[simp] theorem bits_fields_a (h : hi < 14 ∧ lo ≤ hi ∧ 7 ≤ lo) :
    bits hi lo (fields m f n d a b).toNat = (a.extractLsb' (lo - 7) (hi + 1 - lo)).toNat := by
  rw [bits_toNat, fields, extractLsb'_append_eq_of_le (by omega), extractLsb'_append_eq_of_add_le (by omega)]

@[simp] theorem bits_fields_d (h : hi < 21 ∧ lo ≤ hi ∧ 14 ≤ lo) :
    bits hi lo (fields m f n d a b).toNat = (d.extractLsb' (lo - 7 - 7) (hi + 1 - lo)).toNat := by
  rw [bits_toNat, fields, extractLsb'_append_eq_of_le (by omega), extractLsb'_append_eq_of_le (by omega),
    extractLsb'_append_eq_of_add_le (by omega)]

@[simp] theorem bits_fields_n : bits 21 21 (fields m f n d a b).toNat = n.toNat := by
  rw [bits_toNat, fields, extractLsb'_append_eq_of_le (by omega), extractLsb'_append_eq_of_le (by omega),
    extractLsb'_append_eq_of_le (by omega), extractLsb'_append_eq_of_add_le (by omega), extractLsb'_eq_self,
    toNat_ofBool]

@[simp] theorem bits_fields_f (h : hi < 27 ∧ lo ≤ hi ∧ 22 ≤ lo) :
    bits hi lo (fields m f n d a b).toNat = (f.extractLsb' (lo - 22) (hi + 1 - lo)).toNat := by
  rw [bits_toNat, fields, extractLsb'_append_eq_of_le (by omega), extractLsb'_append_eq_of_le (by omega),
    extractLsb'_append_eq_of_le (by omega), extractLsb'_append_eq_of_le (by omega),
    extractLsb'_append_eq_of_add_le (by omega)]
  rfl

@[simp] theorem bits_fields_ab : bits 13 0 (fields m f n d a b).toNat = a.toNat * 128 + b.toNat := by
  simp [bits, fields, toNat_append_add]
  omega

@[simp] theorem bits_fields_m : bits 31 27 (fields m f n d a b).toNat = m.toNat := by
  rw [bits_toNat, fields, extractLsb'_append_eq_of_le (by omega), extractLsb'_append_eq_of_le (by omega),
    extractLsb'_append_eq_of_le (by omega), extractLsb'_append_eq_of_le (by omega),
    extractLsb'_append_eq_of_le (by omega), extractLsb'_eq_self]
end

/-! A part of two joined fields, where it lies in one of them. The width is left out of the index of simp lemmas, in
which a field of 7 bits and one of 3 + 4 would differ. -/

@[simp] theorem extract_low {k n lo len : Nat} {x : BitVec k} {y : BitVec n} (h : lo + len ≤ n) :
    BitVec.extractLsb' (n := k + n) lo len (HAppend.hAppend (γ := no_index (BitVec (k + n))) x y) =
      y.extractLsb' lo len :=
  extractLsb'_append_eq_of_add_le h

@[simp] theorem extract_high {k n lo len : Nat} {x : BitVec k} {y : BitVec n} (h : n ≤ lo) :
    BitVec.extractLsb' (n := k + n) lo len (HAppend.hAppend (γ := no_index (BitVec (k + n))) x y) =
      x.extractLsb' (lo - n) len :=
  extractLsb'_append_eq_of_le h

/-! ### Codes of named values -/

@[simp] theorem need_some {α : Type} (x : α) : need (some x) = .ok x := rfl
@[simp] theorem ok_map {α β : Type} (g : α → β) (x : α) : g <$> (Except.ok x : Except DecodeError α) = .ok (g x) := rfl
@[simp] theorem flag_toNat (x : Bool) : (x.toNat == 1) = x := by cases x <;> rfl
@[simp] theorem ok_bind {α β : Type} (x : α) (g : α → Except DecodeError β) : (Except.ok x >>= g) = g x := rfl
@[simp] theorem Rm.code_mod (x : Rm) : x.code % 4 = x.code := by cases x <;> rfl
@[simp] theorem Rounding.code_mod (x : Rounding) : x.code % 8 = x.code := by cases x <;> rfl
@[simp] theorem Cond.code_mod (x : Cond) : x.code % 8 = x.code := by cases x <;> rfl
@[simp] theorem FCond.code_mod (x : FCond) : x.code % 8 = x.code := by cases x <;> rfl
@[simp] theorem NumTy.code_mod (x : NumTy) : x.code % 16 = x.code := by cases x <;> rfl
@[simp] theorem MemTy.code_mod (x : MemTy) : x.code % 8 = x.code := by cases x <;> rfl
@[simp] theorem Space.code_mod (x : Space) : x.code % 4 = x.code := by cases x <;> rfl
@[simp] theorem WSpace.code_mod (x : WSpace) : x.code % 4 = x.code := by cases x <;> rfl
@[simp] theorem Scope.code_mod (x : Scope) : x.code % 8 = x.code := by cases x <;> rfl
@[simp] theorem FenceOrder.code_mod (x : FenceOrder) : x.code % 4 = x.code := by cases x <;> rfl
@[simp] theorem AtomOrder.code_mod (x : AtomOrder) : x.code % 4 = x.code := by cases x <;> rfl
@[simp] theorem MonCmp.code_mod (x : MonCmp) : x.code % 8 = x.code := by cases x <;> rfl
@[simp] theorem BarKind.code_mod (x : BarKind) : x.code % 8 = x.code := by cases x <;> rfl
@[simp] theorem BarScope.code_mod (x : BarScope) : x.code % 4 = x.code := by cases x <;> rfl
@[simp] theorem MaskOp.code_mod (x : MaskOp) : x.code % 4 = x.code := by cases x <;> rfl
@[simp] theorem Validity.code_mod (x : Validity) : x.code % 4 = x.code := by cases x <;> rfl
@[simp] theorem AtomOp.code_mod (x : AtomOp) : x.code % 32 = x.code := by cases x <;> rfl
@[simp] theorem Rm.need_code (x : Rm) : need (Rm.ofCode x.code) = .ok x := by cases x <;> rfl
@[simp] theorem Rounding.need_code (x : Rounding) : need (Rounding.ofCode x.code) = .ok x := by cases x <;> rfl
@[simp] theorem Cond.need_code (x : Cond) : need (Cond.ofCode x.code) = .ok x := by cases x <;> rfl
@[simp] theorem FCond.need_code (x : FCond) : need (FCond.ofCode x.code) = .ok x := by cases x <;> rfl
@[simp] theorem NumTy.need_code (x : NumTy) : need (NumTy.ofCode x.code) = .ok x := by cases x <;> rfl
@[simp] theorem MemTy.need_code (x : MemTy) : need (MemTy.ofCode x.code) = .ok x := by cases x <;> rfl
@[simp] theorem Space.need_code (x : Space) : need (Space.ofCode x.code) = .ok x := by cases x <;> rfl
@[simp] theorem WSpace.need_code (x : WSpace) : need (WSpace.ofCode x.code) = .ok x := by cases x <;> rfl
@[simp] theorem Scope.need_code (x : Scope) : need (Scope.ofCode x.code) = .ok x := by cases x <;> rfl
@[simp] theorem FenceOrder.need_code (x : FenceOrder) : need (FenceOrder.ofCode x.code) = .ok x := by cases x <;> rfl
@[simp] theorem AtomOrder.need_code (x : AtomOrder) : need (AtomOrder.ofCode x.code) = .ok x := by cases x <;> rfl
@[simp] theorem MonCmp.need_code (x : MonCmp) : need (MonCmp.ofCode x.code) = .ok x := by cases x <;> rfl
@[simp] theorem BarKind.need_code (x : BarKind) : need (BarKind.ofCode x.code) = .ok x := by cases x <;> rfl
@[simp] theorem BarScope.need_code (x : BarScope) : need (BarScope.ofCode x.code) = .ok x := by cases x <;> rfl
@[simp] theorem MaskOp.need_code (x : MaskOp) : need (MaskOp.ofCode x.code) = .ok x := by cases x <;> rfl
@[simp] theorem Validity.need_code (x : Validity) : need (Validity.ofCode x.code) = .ok x := by cases x <;> rfl
@[simp] theorem AtomOp.need_code (x : AtomOp) : need (AtomOp.ofCode x.code) = .ok x := by cases x <;> rfl

@[simp] theorem NumTy.code_div_mod (x : NumTy) : x.code / 8 % 2 = x.code / 8 := by cases x <;> rfl
/-- The type of a conversion, whose code stands in two parts. -/
@[simp] theorem NumTy.need_code_split (x : NumTy) : need (NumTy.ofCode (x.code / 8 * 8 + x.code % 8)) = .ok x := by
  cases x <;> rfl
theorem WSpace.code_ne (x : WSpace) : x.code ≠ 3 := by cases x <;> decide
theorem MemTy.code_ne (x : MemTy) : x.code ≠ 6 := by cases x <;> decide
theorem AtomOp.code_lt (x : AtomOp) : ¬ 28 ≤ x.code := by cases x <;> decide

/-! ### Reading words -/

/-- Every instruction has a row, but BRA and CALL, whose format is their own (R60). -/
theorem exists_row (i : Instr) (h : i.isWord = true) : (∃ m f n d a b, Row i m f n d a b) ∨
    (∃ p s t o, i = .bra p s t o ∨ i = .call p s t o) := by
  cases i with
  | bra p s t o => exact .inr ⟨p, s, t, o, .inl rfl⟩
  | call p s t o => exact .inr ⟨p, s, t, o, .inr rfl⟩
  | _ => cases h <;> exact .inl ⟨_, _, _, _, _, _, by constructor⟩

section
variable {i : Instr} {m : Nat} {f : BitVec 5} {n : Bool} {d a b : Reg}

theorem Row.encodeNat (h : Row i m f n d a b) : i.encodeNat =
    m * 134217728 + f.toNat * 4194304 + n.toNat * 2097152 + d.toNat * 16384 + a.toNat * 128 + b.toNat := by
  cases h <;> simp only [Instr.encodeNat, toNat_append_add, toNat_ofNat, toNat_ofBool, extractLsb'_toNat,
    Nat.shiftRight_eq_div_pow, Bool.toNat_false, Bool.toNat_true, BitVec.reduceToNat, Nat.reducePow, Nat.reduceMod,
    Rm.code_mod, Rounding.code_mod, Cond.code_mod, FCond.code_mod, NumTy.code_mod, NumTy.code_div_mod, MemTy.code_mod,
    Space.code_mod, WSpace.code_mod, Scope.code_mod, FenceOrder.code_mod, AtomOrder.code_mod, MonCmp.code_mod,
    BarKind.code_mod, BarScope.code_mod, MaskOp.code_mod, Validity.code_mod, AtomOp.code_mod] <;> omega

theorem Row.decodeSys_ok (h : Row i 0 f n d a b) : decodeSys (fields 0 f n d a b).toNat = .ok i := by
  cases h <;> simp [decodeSys, flag]

theorem Row.decodeInt_ok (h : Row i 3 f n d a b) : decodeInt (fields 3 f n d a b).toNat = .ok i := by
  cases h with
  | div32 t | rem32 t | min32 t | max32 t | sadd t | ssub t | bfx t => cases t <;> simp [decodeInt, flag]
  | _ => simp [decodeInt, flag]

theorem Row.decodeInt64_ok (h : Row i 4 f n d a b) : decodeInt64 (fields 4 f n d a b).toNat = .ok i := by
  cases h <;> simp [decodeInt64, flag]

theorem Row.decodeUint_ok (h : Row i 5 f n d a b) : decodeUint (fields 5 f n d a b).toNat = .ok i := by
  cases h with
  | minUint t | maxUint t => cases t <;> simp [decodeUint, flag]
  | _ => simp [decodeUint]

theorem Row.decodeLane_ok (h : Row i 6 f n d a b) : decodeLane (fields 6 f n d a b).toNat = .ok i := by
  cases h <;> simp [decodeLane, flag]

theorem Row.decodeFp32_ok (h : Row i 18 f n d a b) : decodeFp32 (fields 18 f n d a b).toNat = .ok i := by
  cases h with
  | frndRnaFp32 => simp [decodeFp32, flag]
  | faddFp32 r | fsubFp32 r | fmulFp32 r | fdivFp32 r | fmaFp32 r | fnmaFp32 r | fsclFp32 r | fsqrtFp32 r | frcp r
  | frsq r | fexp2 r | flog2 r | frndFp32 r =>
    cases r <;> simp [decodeFp32, flag, Rm.code, Rm.ofCode]

theorem Row.decodeFp64_ok (h : Row i 19 f n d a b) : decodeFp64 (fields 19 f n d a b).toNat = .ok i := by
  cases h with
  | frndRnaFp64 => simp [decodeFp64, flag]
  | faddFp64 r | fsubFp64 r | fmulFp64 r | fdivFp64 r | fmaFp64 r | fnmaFp64 r | fsclFp64 r | fsqrtFp64 r
  | frndFp64 r =>
    cases r <;> simp [decodeFp64, flag, Rm.code, Rm.ofCode]

theorem Row.decodeFph_ok (h : Row i 20 f n d a b) : decodeFph (fields 20 f n d a b).toNat = .ok i := by
  cases h with
  | hmin2 t | hmax2 t => cases t <;> simp [decodeFph, flag]
  | hadd2 t r | hmul2 t r | hfma2 t r => cases t <;> cases r <;> simp [decodeFph, flag, Rm.code, Rm.ofCode]

theorem Row.decodeFmisc_ok (h : Row i 21 f n d a b) : decodeFmisc (fields 21 f n d a b).toNat = .ok i := by
  cases h with
  | fmin t | fmax t | fminn t | fmaxn t | fabs t | fneg t | fcpys t | fclass t | fext t | fcmp t =>
    cases t <;> simp [decodeFmisc, flag]

theorem Row.decodeMem_ok (h : Row i 25 f n d a b) : decodeMem (fields 25 f n d a b).toNat = .ok i := by
  cases h with
  | ld s | ldv s | st s | stv s =>
    cases s <;> simp [decodeMem, flag, Space.code, WSpace.code, Space.ofCode, WSpace.ofCode, MemTy.code_ne]
  | _ => simp [decodeMem, flag]

theorem Row.decodeAtom_ok (h : Row i 26 f n d a b) : decodeAtom (fields 26 f n d a b).toNat = .ok i := by
  cases h <;> simp [decodeAtom, flag, AtomOp.code_lt, WSpace.code_ne]

theorem Row.decodeSync_ok (h : Row i 27 f n d a b) : decodeSync (fields 27 f n d a b).toNat = .ok i := by
  cases h <;> simp [decodeSync, flag]

/-- The majors with one word or two, read without a table of their own. -/

theorem Row.untabled (h : Row i m f n d a b) (hm : m ∈ [7, 8, 9, 10, 11, 12, 13, 14, 15, 16, 17, 22, 23, 24]) :
    decodeFields (fields (BitVec.ofNat 5 m) f n d a b).toNat = .ok i := by
  cases h <;> simp at hm <;> simp [decodeFields, flag] <;>
    (apply BitVec.eq_of_toNat_eq; simp [Nat.shiftRight_eq_div_pow]; omega)

theorem Row.major_lt (h : Row i m f n d a b) : m < 28 := by cases h <;> decide

theorem Row.decodes (h : Row i m f n d a b) : decodeFields (fields (BitVec.ofNat 5 m) f n d a b).toNat = .ok i := by
  match m, h, h.major_lt with
  | 0, h, _ => simpa [decodeFields] using h.decodeSys_ok
  | 1, h, _ | 2, h, _ => cases h
  | 3, h, _ => simpa [decodeFields] using h.decodeInt_ok
  | 4, h, _ => simpa [decodeFields] using h.decodeInt64_ok
  | 5, h, _ => simpa [decodeFields] using h.decodeUint_ok
  | 6, h, _ => simpa [decodeFields] using h.decodeLane_ok
  | 7, h, _ | 8, h, _ | 9, h, _ | 10, h, _ | 11, h, _ | 12, h, _ | 13, h, _ |
    14, h, _ | 15, h, _ | 16, h, _ | 17, h, _ | 22, h, _ | 23, h, _ | 24, h, _ => exact h.untabled (by decide)
  | 18, h, _ => simpa [decodeFields] using h.decodeFp32_ok
  | 19, h, _ => simpa [decodeFields] using h.decodeFp64_ok
  | 20, h, _ => simpa [decodeFields] using h.decodeFph_ok
  | 21, h, _ => simpa [decodeFields] using h.decodeFmisc_ok
  | 25, h, _ => simpa [decodeFields] using h.decodeMem_ok
  | 26, h, _ => simpa [decodeFields] using h.decodeAtom_ok
  | 27, h, _ => simpa [decodeFields] using h.decodeSync_ok

theorem Row.fields_toNat (h : Row i m f n d a b) : (fields (BitVec.ofNat 5 m) f n d a b).toNat = i.encodeNat := by
  have hm := h.major_lt
  rw [h.encodeNat]
  simp [fields, toNat_append_add]
  omega

end

theorem decodeFields_bra (p : BitVec 4) (s : Bool) (t : BitVec 6) (o : BitVec 16) :
    decodeFields (Instr.bra p s t o).encodeNat = .ok (.bra p s t o) := by
  have : (Instr.bra p s t o).encodeNat = (1#5 ++ p ++ ofBool s ++ t ++ o).toNat := by
    simp [Instr.encodeNat, toNat_append_add]; omega
  rw [this]
  simp [decodeFields, bits_toNat, flag]

theorem decodeFields_call (p : BitVec 4) (s : Bool) (t : BitVec 6) (o : BitVec 16) :
    decodeFields (Instr.call p s t o).encodeNat = .ok (.call p s t o) := by
  have : (Instr.call p s t o).encodeNat = (2#5 ++ p ++ ofBool s ++ t ++ o).toNat := by
    simp [Instr.encodeNat, toNat_append_add]; omega
  rw [this]
  simp [decodeFields, bits_toNat, flag]

theorem decodeFields_encodeNat (i : Instr) (h : i.isWord = true) : decodeFields i.encodeNat = .ok i := by
  obtain ⟨m, f, n, d, a, b, r⟩ | ⟨p, s, t, o, rfl | rfl⟩ := exists_row i h
  · rw [← r.fields_toNat, r.decodes]
  · exact decodeFields_bra p s t o
  · exact decodeFields_call p s t o

theorem encodeNat_lt (i : Instr) (h : i.isWord = true) : i.encodeNat < 2 ^ 32 := by
  obtain ⟨m, f, n, d, a, b, r⟩ | ⟨p, s, t, o, rfl | rfl⟩ := exists_row i h
  · rw [← r.fields_toNat]; exact BitVec.isLt _
  · exact Laws.Encoding.bra p s t o
  · exact Laws.Encoding.call p s t o

/-- Only words have an encoding. -/
theorem encodeNat_event (i : Instr) (h : i.isWord = false) : i.encodeNat = 0 := by
  cases i <;> cases h <;> rfl

/-- Settles O30: the word of each row is read back, table by table. -/
theorem decodeOfEncode : Obligations.DecodeOfEncode := by
  intro i hw hf
  have hn : (encode i).toNat = i.encodeNat := Nat.mod_eq_of_lt (encodeNat_lt i hw)
  have hform : i.formError = none := Option.isNone_iff_eq_none.mp hf
  simp only [decode, hn, decodeFields_encodeNat i hw, hform, if_true]

/-- Settles O31: the decoder compares the word with the encoding of its answer; an event would encode to the word 0,
which decodes to nothing. -/
theorem wordsHaveOneMeaning : Obligations.WordsHaveOneMeaning := by
  intro w i h
  unfold decode at h
  split at h
  · cases h
  · rename_i j hj
    split at h
    · rename_i hw
      split at h
      · cases h
      · rename_i hform
        obtain rfl : j = i := Except.ok.inj h
        refine ⟨?_, Option.isNone_iff_eq_none.mpr hform, ?_⟩
        · cases hi : j.isWord with
          | true => rfl
          | false =>
            rw [← hw, encodeNat_event j hi] at hj
            cases hj
        · rw [encode, hw, BitVec.ofNat_toNat, BitVec.setWidth_eq]
    · cases h

end Sys2Proof
end

section
/-! SUPPORT. The words that the manual writes out. -/
namespace Sys2Proof

/-- The decoder reads the word as the instruction. -/
def readsAs (p : W32 × Instr) : Bool :=
  match decode p.1 with
  | .ok i => i == p.2
  | .error _ => false

theorem readsAs_iff (p : W32 × Instr) : readsAs p = true ↔ decode p.1 = .ok p.2 := by
  unfold readsAs
  cases decode p.1 <;> simp

/-- Settles O38: each of the words runs through the decoder. -/
theorem decodeWords : Obligations.DecodeWords := by
  intro p hp
  refine (readsAs_iff p).1 (List.all_eq_true.1 ?_ p hp)
  decide

end Sys2Proof
end

section
/-! SUPPORT. Every instruction and every event keeps the invariant and lets no sequence number fall (R380): one lemma
for each meaning, from the lemmas about the shared operations. -/
namespace Sys2Proof.Machine

theorem Keeps.refl (s : State) : Keeps s s := ⟨id, Nat.le_refl _⟩

theorem execNop_keeps {b0 : State} {s : State} (h : Keeps b0 s) :
    KeepsOut b0 (execNop s) := by
  refine issueWord_keeps h fun c => ?_
  apply_rules [Issue.done_keeps]

theorem execTrap_keeps {b0 : State} {n : BitVec 7} {s : State} (h : Keeps b0 s) :
    KeepsOut b0 (execTrap n s) := by
  refine issueWord_keeps h fun c => ?_
  apply_rules [Issue.finish_keeps]

theorem execBrk_keeps {b0 : State} {n : BitVec 7} {s : State} (h : Keeps b0 s) :
    KeepsOut b0 (execBrk n s) := by
  refine issueWord_keeps h fun c => ?_
  apply_rules [Issue.finish_keeps, Issue.breakEvent_keeps]

theorem execGets_keeps {b0 : State} {nw : Bool} {d : Reg} {a : Reg} {s : State} (h : Keeps b0 s) :
    KeepsOut b0 (execGets nw d a s) := by
  refine issueWord_keeps h fun c => ?_
  repeat' split
  all_goals apply_rules [Issue.trapWhole_keeps, Issue.getNow_keeps, Issue.done_keeps]

theorem execSets_keeps {b0 : State} {a : Reg} {b : Reg} {s : State} (h : Keeps b0 s) :
    KeepsOut b0 (execSets a b s) := by
  refine issueWord_keeps h fun c => ?_
  dsimp only
  repeat' split
  all_goals apply_rules [Issue.trapWhole_keeps, Issue.fault_keeps, Issue.done_keeps]

theorem execXen_keeps {b0 : State} {o : MaskOp} {m : BitVec 5} {s : State} (h : Keeps b0 s) :
    KeepsOut b0 (execXen o m s) := by
  refine issueWord_keeps h fun c => ?_
  apply_rules [Issue.done_keeps]

theorem execXflg_keeps {b0 : State} {o : MaskOp} {m : BitVec 5} {s : State} (h : Keeps b0 s) :
    KeepsOut b0 (execXflg o m s) := by
  refine issueWord_keeps h fun c => ?_
  apply_rules [Issue.done_keeps]

theorem execRet_keeps {b0 : State} {s : State} (h : Keeps b0 s) :
    KeepsOut b0 (execRet s) := by
  refine issueWord_keeps h fun c => ?_
  apply_rules [Issue.transfer_keeps]

theorem execBrx_keeps {b0 : State} {a : Reg} {p : BitVec 6} {s : State} (h : Keeps b0 s) :
    KeepsOut b0 (execBrx a p s) := by
  refine issueWord_keeps h fun c => ?_
  repeat' split
  all_goals apply_rules [Issue.fault_keeps, Issue.transfer_keeps]

theorem execCallx_keeps {b0 : State} {a : Reg} {p : BitVec 6} {s : State} (h : Keeps b0 s) :
    KeepsOut b0 (execCallx a p s) := by
  refine issueWord_keeps h fun c => ?_
  repeat' split
  all_goals apply_rules [Issue.fault_keeps, Issue.transfer_keeps]

theorem execPrio_keeps {b0 : State} {p : BitVec 6} {s : State} (h : Keeps b0 s) :
    KeepsOut b0 (execPrio p s) := by
  refine issueWord_keeps h fun c => ?_
  apply_rules [State.setWave_keeps]

theorem execJmsk_keeps {b0 : State} {j : BitVec 3} {s : State} (h : Keeps b0 s) :
    KeepsOut b0 (execJmsk j s) := by
  refine issueWord_keeps h fun c => ?_
  apply_rules [Issue.done_keeps]

theorem execJoin_keeps {b0 : State} {j : BitVec 3} {s : State} (h : Keeps b0 s) :
    KeepsOut b0 (execJoin j s) := by
  refine issueWord_keeps h fun c => ?_
  apply_rules [State.setWave_keeps]

theorem execWinb_keeps {b0 : State} {b : BitVec 6} {s : State} (h : Keeps b0 s) :
    KeepsOut b0 (execWinb b s) := by
  refine issueWord_keeps h fun c => ?_
  apply_rules [Issue.finish_keeps]

theorem execValid_keeps {b0 : State} {v : Validity} {s : State} (h : Keeps b0 s) :
    KeepsOut b0 (execValid v s) := by
  refine issueWord_keeps h fun c => ?_
  apply_rules [Issue.done_keeps]

theorem execYield_keeps {b0 : State} {s : State} (h : Keeps b0 s) :
    KeepsOut b0 (execYield s) := by
  refine issueWord_keeps h fun c => ?_
  apply_rules [Issue.done_keeps]

theorem execGuard_keeps {b0 : State} {n : BitVec 7} {sense : Bool} {q : BitVec 4} {s : State} (h : Keeps b0 s) :
    KeepsOut b0 (execGuard n sense q s) := by
  refine issueWord_keeps h fun c => ?_
  repeat' split
  all_goals apply_rules [Issue.fault_keeps, State.setWave_keeps]

theorem execBra_keeps {b0 : State} {p : BitVec 4} {sense : Bool} {t : BitVec 6} {o : BitVec 16} {s : State} (h :
    Keeps b0 s) :
    KeepsOut b0 (execBra p sense t o s) := by
  refine issueWord_keeps h fun c => ?_
  repeat' split
  all_goals apply_rules [Issue.fault_keeps, Issue.transfer_keeps]

theorem execCall_keeps {b0 : State} {p : BitVec 4} {sense : Bool} {t : BitVec 6} {o : BitVec 16} {s : State} (h :
    Keeps b0 s) :
    KeepsOut b0 (execCall p sense t o s) := by
  refine issueWord_keeps h fun c => ?_
  repeat' split
  all_goals apply_rules [Issue.fault_keeps, Issue.transfer_keeps]

theorem execVoteBallot_keeps {b0 : State} {nw : Bool} {d : Reg} {x : Bool} {p : BitVec 4} {s : State} (h : Keeps b0
    s) :
    KeepsOut b0 (execVoteBallot nw d x p s) := by
  refine issueWord_keeps h fun c => ?_
  apply_rules [Issue.done_keeps]

theorem execBcst_keeps {b0 : State} {z : Bool} {d : Reg} {a : Reg} {s : State} (h : Keeps b0 s) :
    KeepsOut b0 (execBcst z d a s) := by
  refine issueWord_keeps h fun c => ?_
  apply_rules [Issue.done_keeps]

theorem execMovFromUniform_keeps {b0 : State} {nw : Bool} {d : Reg} {a : Reg} {z : Bool} {s : State} (h : Keeps b0
    s) :
    KeepsOut b0 (execMovFromUniform nw d a z s) := by
  refine issueWord_keeps h fun c => ?_
  apply_rules [Issue.done_keeps]

theorem execFcmp_keeps {b0 : State} {t : Bool} {c : FCond} {q : BitVec 4} {a : Reg} {b : Reg} {s : State} (h : Keeps
    b0 s) :
    KeepsOut b0 (execFcmp t c q a b s) := by
  refine issueWord_keeps h fun c => ?_
  apply_rules [Issue.finish_keeps]

theorem execPref_keeps {b0 : State} {a : Reg} {sp : WSpace} {n : Bool} {s : State} (h : Keeps b0 s) :
    KeepsOut b0 (execPref a sp n s) := by
  refine issueWord_keeps h fun c => ?_
  apply_rules [Issue.done_keeps]

theorem execFence_keeps {b0 : State} {sc : Scope} {o : FenceOrder} {m : Bool} {s : State} (h : Keeps b0 s) :
    KeepsOut b0 (execFence sc o m s) := by
  refine issueWord_keeps h fun c => ?_
  dsimp only
  repeat' split
  all_goals apply_rules [State.fence_keeps, Issue.done_keeps, Keeps.mk_iff.2]

theorem execMon_keeps {b0 : State} {k : MonCmp} {z : Bool} {a : Reg} {b : Reg} {s : State} (h : Keeps b0 s) :
    KeepsOut b0 (execMon k z a b s) := by
  refine issueWord_keeps h fun c => ?_
  dsimp only
  repeat' split
  all_goals apply_rules [Issue.fault_keeps, Issue.finish_keeps]

theorem execMwait_keeps {b0 : State} {d : Reg} {a : Reg} {s : State} (h : Keeps b0 s) :
    KeepsOut b0 (execMwait d a s) := by
  refine issueWord_keeps h fun c => ?_
  dsimp only
  repeat' split
  all_goals apply_rules [Issue.done_keeps, Issue.fault_keeps, Issue.block_keeps]

theorem execSpecx_keeps {b0 : State} {s : State} (h : Keeps b0 s) :
    KeepsOut b0 (execSpecx s) := by
  refine issueWord_keeps h fun c => ?_
  apply_rules [Issue.done_keeps]

theorem execQw_keeps {b0 : State} {q : BitVec 7} {a : Reg} {s : State} (h : Keeps b0 s) :
    KeepsOut b0 (execQw q a s) := by
  refine issueWord_keeps h fun c => ?_
  repeat' split
  all_goals apply_rules [State.setWave_keeps, Issue.trapActive_keeps, Issue.blockIn_keeps, State.pushWord_keeps,
    Issue.advanceIn_keeps, State.settleGangQueues_keeps]

theorem execQr_keeps {b0 : State} {d : Reg} {q : BitVec 7} {s : State} (h : Keeps b0 s) :
    KeepsOut b0 (execQr d q s) := by
  refine issueWord_keeps h fun c => ?_
  repeat' split
  all_goals apply_rules [State.popWord_keeps, State.modWave_keeps, State.settleGangQueues_keeps]

theorem execQrt_keeps {b0 : State} {d : Reg} {q : BitVec 7} {p : BitVec 4} {s : State} (h : Keeps b0 s) :
    KeepsOut b0 (execQrt d q p s) := by
  refine issueWord_keeps h fun c => ?_
  repeat' split
  all_goals apply_rules [State.modWave_keeps, State.popWord_keeps, State.settleGangQueues_keeps]

theorem execQst_keeps {b0 : State} {d : Reg} {q : BitVec 7} {s : State} (h : Keeps b0 s) :
    KeepsOut b0 (execQst d q s) := by
  refine issueWord_keeps h fun c => ?_
  repeat' split
  all_goals apply_rules [Issue.done_keeps]

theorem execShape_keeps {b0 : State} {d : Reg} {a : Reg} {s : State} (h : Keeps b0 s) :
    KeepsOut b0 (execShape d a s) := by
  refine issueWord_keeps h fun c => ?_
  dsimp only
  repeat' split
  all_goals apply_rules [Issue.fault_keeps, Issue.trapActive_keeps, State.modGang_keeps]

theorem execMxsw_keeps {b0 : State} {s : State} (h : Keeps b0 s) :
    KeepsOut b0 (execMxsw s) := by
  refine issueWord_keeps h fun c => ?_
  repeat' split
  all_goals apply_rules [Issue.done_keeps, Issue.trapActive_keeps, Issue.enqueue_keeps]

theorem execJoinRelease_keeps {b0 : State} {g w e : Nat} {s : State} (h : Keeps b0 s) :
    KeepsOut b0 (execJoinRelease g w e s) := by
  refine KeepsOut.next (State.atWave_keeps h fun gang wave => ?_)
  repeat' split
  all_goals apply_rules [State.setWave_keeps]

theorem execIllegalInstruction_keeps {b0 : State} {w : BitVec 32} {s : State} (h : Keeps b0 s) :
    KeepsOut b0 (execIllegalInstruction w s) := by
  refine issueWord_keeps h fun c => ?_
  assumption

theorem execFetchFault_keeps {b0 : State} {g w : Nat} {s : State} (h : Keeps b0 s) :
    KeepsOut b0 (execFetchFault g w s) := by
  refine KeepsOut.next (State.atWave_keeps h fun gang wave => ?_)
  dsimp only
  repeat' split
  all_goals apply_rules [State.setWave_keeps, State.backInvalidate_keeps, State.pageRequest_keeps,
    State.raiseHalt_keeps]

theorem execGangRetire_keeps {b0 : State} {g : Nat} {s : State} (h : Keeps b0 s) :
    KeepsOut b0 (execGangRetire g s) := by
  unfold execGangRetire
  repeat' split
  all_goals apply_rules [State.modLaunch_keeps, State.gangGone_keeps, KeepsOut.next]

theorem execYieldHoldExpiry_keeps {b0 : State} {g w : Nat} {s : State} (h : Keeps b0 s) :
    KeepsOut b0 (execYieldHoldExpiry g w s) := by
  refine KeepsOut.next (State.atWave_keeps h fun gang wave => ?_)
  repeat' split
  all_goals apply_rules [State.setWave_keeps]

theorem execIssueAgePromotion_keeps {b0 : State} {g w : Nat} {s : State} (h : Keeps b0 s) :
    KeepsOut b0 (execIssueAgePromotion g w s) := by
  refine KeepsOut.next (State.atWave_keeps h fun gang wave => ?_)
  repeat' split
  all_goals apply_rules [State.setWave_keeps]

theorem execParkWave_keeps {b0 : State} {g w : Nat} {s : State} (h : Keeps b0 s) :
    KeepsOut b0 (execParkWave g w s) := by
  refine KeepsOut.next (State.atWave_keeps h fun gang wave => ?_)
  dsimp only
  repeat' split
  all_goals apply_rules [State.modStack_keeps, State.setWave_keeps]

theorem execRecallWave_keeps {b0 : State} {g w : Nat} {s : State} (h : Keeps b0 s) :
    KeepsOut b0 (execRecallWave g w s) := by
  refine KeepsOut.next (State.atWave_keeps h fun gang wave => ?_)
  dsimp only
  repeat' split
  all_goals apply_rules [State.setWave_keeps]

theorem execWatchdogExpiry_keeps {b0 : State} {g w : Nat} {s : State} (h : Keeps b0 s) :
    KeepsOut b0 (execWatchdogExpiry g w s) := by
  refine KeepsOut.next (State.atWave_keeps h fun gang wave => ?_)
  repeat' split
  all_goals apply_rules [State.raiseHalt_keeps]

theorem execLoadReply_keeps {b0 : State} {g w k : Nat} {s : State} (h : Keeps b0 s) :
    KeepsOut b0 (execLoadReply g w k s) := by
  refine KeepsOut.next (State.atWave_keeps h fun gang wave => ?_)
  repeat' split
  all_goals apply_rules [State.setWave_keeps, State.install_keeps]

theorem execStoreAck_keeps {b0 : State} {g w : Nat} {s : State} (h : Keeps b0 s) :
    KeepsOut b0 (execStoreAck g w s) := by
  refine KeepsOut.next (State.atWave_keeps h fun gang wave => ?_)
  dsimp only
  repeat' split
  all_goals apply_rules [State.setWave_keeps]

theorem execMwaitRecheck_keeps {b0 : State} {g w e : Nat} {s : State} (h : Keeps b0 s) :
    KeepsOut b0 (execMwaitRecheck g w e s) := by
  unfold execMwaitRecheck
  apply_rules [State.mwaitLoop_keeps, KeepsOut.next]

theorem execMwaitTimeout_keeps {b0 : State} {g w e : Nat} {s : State} (h : Keeps b0 s) :
    KeepsOut b0 (execMwaitTimeout g w e s) := by
  unfold execMwaitTimeout
  apply_rules [State.mwaitLoop_keeps, KeepsOut.next]

theorem execDispatchRound_keeps {b0 : State} {s : State} {p : Nat} (h : Keeps b0 s) :
    KeepsOut b0 (execDispatchRound s p) := by
  unfold execDispatchRound
  dsimp only
  repeat' split
  all_goals apply_rules [State.nextRound_keeps, State.dispatchPlan_keeps, State.roundsDue_keeps, KeepsOut.next]

theorem execStackDispatchGang_keeps {b0 : State} {st : Nat} {s : State} (h : Keeps b0 s) :
    KeepsOut b0 (execStackDispatchGang st s) := by
  unfold execStackDispatchGang
  repeat' split
  all_goals apply_rules [State.neverStarts_keeps, State.unbatch_keeps, State.placeGang_keeps, KeepsOut.next]

theorem execReservationAttempt_keeps {b0 : State} {r : Nat} {s : State} (h : Keeps b0 s) :
    KeepsOut b0 (execReservationAttempt r s) := by
  unfold execReservationAttempt
  dsimp only
  repeat' split
  all_goals apply_rules [State.neverStarts_keeps, State.unbatch_keeps, State.placeGang_keeps, KeepsOut.next,
    Keeps.mk_iff.2]

theorem execReservationBackoffExpiry_keeps {b0 : State} {r : Nat} {s : State} (h : Keeps b0 s) :
    KeepsOut b0 (execReservationBackoffExpiry r s) := by
  unfold execReservationBackoffExpiry
  dsimp only
  repeat' split
  all_goals apply_rules [State.event_keeps, KeepsOut.next, Keeps.mk_iff.2]

theorem execCompletionRecordWrite_keeps {b0 : State} {l : Nat} {s : State} (h : Keeps b0 s) :
    KeepsOut b0 (execCompletionRecordWrite l s) := by
  unfold execCompletionRecordWrite
  repeat' split
  all_goals apply_rules [State.writeDone_keeps, State.writeRecord_keeps, KeepsOut.next]

theorem execMatrixFetchPageMiss_keeps {b0 : State} {m : Nat} {s : State} (h : Keeps b0 s) :
    KeepsOut b0 (execMatrixFetchPageMiss m s) := by
  unfold execMatrixFetchPageMiss
  dsimp only
  repeat' split
  all_goals apply_rules [State.modUnit_keeps, State.opHold_keeps, KeepsOut.next]

theorem execMatrixOpComplete_keeps {b0 : State} {m : Nat} {t : SelfTest} {s : State} (h : Keeps b0 s) :
    KeepsOut b0 (execMatrixOpComplete m t s) := by
  unfold execMatrixOpComplete
  dsimp only
  repeat' split
  all_goals apply_rules [State.finishOp_keeps, State.loseOp_keeps, State.applyOp_keeps, State.runOp_keeps,
    State.popHandles_keeps, KeepsOut.next]

theorem execSelfTestPeriodic_keeps {b0 : State} {st sub : Nat} {t : SelfTest} {s : State} (h : Keeps b0 s) :
    KeepsOut b0 (execSelfTestPeriodic st sub t s) := by
  unfold execSelfTestPeriodic
  dsimp only
  repeat' split
  all_goals apply_rules [State.testRan_keeps, State.failedTest_keeps, State.remapRow_keeps, State.fence_keeps,
    KeepsOut.next]

theorem execKick_keeps {b0 : State} {port q bytes v : Nat} {s : State} (h : Keeps b0 s) :
    KeepsOut b0 (execKick port q bytes v s) := by
  unfold execKick
  dsimp only
  repeat' split
  all_goals apply_rules [State.modStack_keeps, State.modQueue_keeps, KeepsOut.next]

theorem execPacketFetch_keeps {b0 : State} {q : Nat} {s : State} (h : Keeps b0 s) :
    KeepsOut b0 (execPacketFetch q s) := by
  refine KeepsOut.next (State.onQueue_keeps h fun x => ?_)
  repeat' split
  all_goals apply_rules [State.fetchPacket_keeps]

theorem execMarkReread_keeps {b0 : State} {q : Nat} {s : State} (h : Keeps b0 s) :
    KeepsOut b0 (execMarkReread q s) := by
  refine KeepsOut.next (State.onQueue_keeps h fun x => ?_)
  repeat' split
  all_goals apply_rules [State.fetchPacket_keeps]

theorem execBodyCheckRetry_keeps {b0 : State} {q : Nat} {s : State} (h : Keeps b0 s) :
    KeepsOut b0 (execBodyCheckRetry q s) := by
  refine KeepsOut.next (State.onQueue_keeps h fun x => ?_)
  repeat' split
  all_goals apply_rules [State.fetchPacket_keeps]

theorem execEnginePacket_keeps {b0 : State} {q : Nat} {s : State} (h : Keeps b0 s) :
    KeepsOut b0 (execEnginePacket q s) := by
  refine KeepsOut.next (State.packet_keeps h fun x i bs => ?_)
  apply_rules [State.engineNow_keeps]

theorem execWaitPacket_keeps {b0 : State} {q : Nat} {s : State} (h : Keeps b0 s) :
    KeepsOut b0 (execWaitPacket q s) := by
  refine KeepsOut.next (State.packet_keeps h fun x i bs => ?_)
  apply_rules [State.waitNow_keeps]

theorem execSignalPacket_keeps {b0 : State} {q : Nat} {s : State} (h : Keeps b0 s) :
    KeepsOut b0 (execSignalPacket q s) := by
  refine KeepsOut.next (State.packet_keeps h fun x i bs => ?_)
  apply_rules [State.signalNow_keeps]

theorem execNotifyPacket_keeps {b0 : State} {q : Nat} {s : State} (h : Keeps b0 s) :
    KeepsOut b0 (execNotifyPacket q s) := by
  refine KeepsOut.next (State.packet_keeps h fun x i bs => ?_)
  apply_rules [State.notifyNow_keeps]

theorem execNotifyTimeInterrupt_keeps {b0 : State} {ring : Nat} {s : State} (h : Keeps b0 s) :
    KeepsOut b0 (execNotifyTimeInterrupt ring s) := by
  unfold execNotifyTimeInterrupt
  repeat' split
  all_goals apply_rules [State.interrupt_keeps, KeepsOut.next]

theorem execDependenceReread_keeps {b0 : State} {l : Nat} {s : State} (h : Keeps b0 s) :
    KeepsOut b0 (execDependenceReread l s) := by
  unfold execDependenceReread
  repeat' split
  all_goals apply_rules [State.readDependence_keeps, KeepsOut.next]

theorem execEvringWrite_keeps {b0 : State} {st n v : Nat} {s : State} (h : Keeps b0 s) :
    KeepsOut b0 (execEvringWrite st n v s) := by
  unfold execEvringWrite
  dsimp only
  repeat' split
  all_goals apply_rules [State.modStack_keeps, State.modPartition_keeps, State.backInvalidate_keeps,
    State.putDevice_keeps, KeepsOut.next]

theorem execSdmodeWrite_keeps {b0 : State} {st v : Nat} {s : State} (h : Keeps b0 s) :
    KeepsOut b0 (execSdmodeWrite st v s) := by
  unfold execSdmodeWrite
  repeat' split
  all_goals apply_rules [State.modStack_keeps, KeepsOut.next]

theorem execSdmodeTakeEffect_keeps {b0 : State} {st : Nat} {s : State} (h : Keeps b0 s) :
    KeepsOut b0 (execSdmodeTakeEffect st s) := by
  unfold execSdmodeTakeEffect
  repeat' split
  all_goals apply_rules [State.modStack_keeps, KeepsOut.next]

theorem execCpLoad_keeps {b0 : State} {cp : Nat} {s : State} {done : Bool} (h : Keeps b0 s) :
    KeepsOut b0 (execCpLoad cp s done) := by
  unfold execCpLoad
  dsimp only
  repeat' split
  all_goals apply_rules [State.loaded_keeps, State.modStack_keeps, KeepsOut.next]

theorem execCpCastle_keeps {b0 : State} {s : State} (h : Keeps b0 s) :
    KeepsOut b0 (execCpCastle s) := by
  unfold execCpCastle
  repeat' split
  all_goals apply_rules [KeepsOut.next, Keeps.mk_iff.2]

theorem execCpPowerOff_keeps {b0 : State} {s : State} (h : Keeps b0 s) :
    KeepsOut b0 (execCpPowerOff s) := by
  unfold execCpPowerOff
  dsimp only
  repeat' split
  all_goals apply_rules [State.castlingAborts_keeps, State.modStack_keeps, KeepsOut.next]

theorem execCastlingTimeout_keeps {b0 : State} {s : State} (h : Keeps b0 s) :
    KeepsOut b0 (execCastlingTimeout s) := by
  unfold execCastlingTimeout
  repeat' split
  all_goals apply_rules [State.castlingAborts_keeps, KeepsOut.next]

theorem execCreateContext_keeps {b0 : State} {q : Nat} {s : State} (h : Keeps b0 s) :
    KeepsOut b0 (execCreateContext q s) := by
  refine KeepsOut.next (State.packet_keeps h fun x i bs => ?_)
  dsimp only
  repeat' split
  all_goals apply_rules [State.cpHold_keeps, State.backInvalidate_keeps, Issue.done_keeps, KeepsBegun.done,
    KeepsBegun.running, KeepsBegun.blocked, KeepsBegun.error, Keeps.mk_iff.2]

theorem execRegisterQueue_keeps {b0 : State} {q : Nat} {s : State} (h : Keeps b0 s) :
    KeepsOut b0 (execRegisterQueue q s) := by
  refine KeepsOut.next (State.packet_keeps h fun x i bs => ?_)
  dsimp only
  repeat' split
  all_goals apply_rules [State.cpHold_keeps, State.backInvalidate_keeps, Issue.done_keeps, KeepsBegun.done,
    KeepsBegun.running, KeepsBegun.blocked, KeepsBegun.error, Keeps.mk_iff.2]

theorem execResetQueue_keeps {b0 : State} {q : Nat} {s : State} (h : Keeps b0 s) :
    KeepsOut b0 (execResetQueue q s) := by
  refine KeepsOut.next (State.packet_keeps h fun x i bs => ?_)
  dsimp only
  repeat' split
  all_goals apply_rules [State.resetQueue_keeps, KeepsBegun.done, KeepsBegun.running, KeepsBegun.error]

theorem execDrainBoundExpiry_keeps {b0 : State} {ctx : Nat} {s : State} (h : Keeps b0 s) :
    KeepsOut b0 (execDrainBoundExpiry ctx s) := by
  unfold execDrainBoundExpiry
  repeat' split
  all_goals apply_rules [State.startEvict_keeps, State.evictGangs_keeps, KeepsOut.next]

theorem execEvictBoundExpiry_keeps {b0 : State} {ctx : Nat} {s : State} (h : Keeps b0 s) :
    KeepsOut b0 (execEvictBoundExpiry ctx s) := by
  unfold execEvictBoundExpiry
  repeat' split
  all_goals apply_rules [State.ladderReset_keeps, KeepsOut.next]

theorem execResume_keeps {b0 : State} {q : Nat} {s : State} (h : Keeps b0 s) :
    KeepsOut b0 (execResume q s) := by
  refine KeepsOut.next (State.packet_keeps h fun x i bs => ?_)
  dsimp only
  repeat' split
  all_goals apply_rules [State.modContext_keeps, State.roundsDue_keeps, State.backInvalidate_keeps,
    State.resetContext_keeps, State.resetEvent_keeps, KeepsBegun.done, KeepsBegun.running, KeepsBegun.blocked,
    KeepsBegun.error]

theorem execInvalidate_keeps {b0 : State} {q : Nat} {s : State} (h : Keeps b0 s) :
    KeepsOut b0 (execInvalidate q s) := by
  refine KeepsOut.next (State.packet_keeps h fun x i bs => ?_)
  dsimp only
  repeat' split
  all_goals apply_rules [KeepsBegun.done, KeepsBegun.running, KeepsBegun.blocked, KeepsBegun.error, Keeps.mk_iff.2]

theorem execInvalidationAck_keeps {b0 : State} {q st : Nat} {s : State} (h : Keeps b0 s) :
    KeepsOut b0 (execInvalidationAck q st s) := by
  unfold execInvalidationAck
  dsimp only
  repeat' split
  all_goals apply_rules [State.modStack_keeps, State.dropRange_keeps, State.rollbackWaves_keeps,
    State.releaseHeld_keeps, State.adminEvent_keeps, State.completePacket_keeps, KeepsOut.next, Keeps.mk_iff.2]

theorem execMigratePage_keeps {b0 : State} {q : Nat} {s : State} (h : Keeps b0 s) :
    KeepsOut b0 (execMigratePage q s) := by
  refine KeepsOut.next (State.packet_keeps h fun x i bs => ?_)
  dsimp only
  repeat' split
  all_goals apply_rules [State.backInvalidate_keeps, State.migrate_keeps, State.adminEvent_keeps, KeepsBegun.done,
    KeepsBegun.blocked, KeepsBegun.error]

theorem execPatrolScrub_keeps {b0 : State} {st blk : Nat} {errors : List (Nat × Nat)} {s : State} (h : Keeps b0 s) :
    KeepsOut b0 (execPatrolScrub st blk errors s) := by
  unfold execPatrolScrub
  dsimp only
  repeat' split
  all_goals apply_rules [State.modStack_keeps, State.undecoded_keeps, KeepsOut.next]

theorem execBankModeWrite_keeps {b0 : State} {st cl bank v : Nat} {s : State} (h : Keeps b0 s) :
    KeepsOut b0 (execBankModeWrite st cl bank v s) := by
  unfold execBankModeWrite
  dsimp only
  repeat' split
  all_goals apply_rules [State.modStack_keeps, State.slotsReport_keeps, KeepsOut.next]

theorem execBankModeChangeComplete_keeps {b0 : State} {st cl bank : Nat} {s : State} (h : Keeps b0 s) :
    KeepsOut b0 (execBankModeChangeComplete st cl bank s) := by
  unfold execBankModeChangeComplete
  repeat' split
  all_goals apply_rules [State.modStack_keeps, State.slotsReport_keeps, KeepsOut.next]

theorem execPartitionEnable_keeps {b0 : State} {st v : Nat} {s : State} (h : Keeps b0 s) :
    KeepsOut b0 (execPartitionEnable st v s) := by
  unfold execPartitionEnable
  dsimp only
  repeat' split
  all_goals apply_rules [State.modStack_keeps, KeepsOut.next]

theorem execScrubComplete_keeps {b0 : State} {st aq desc : Nat} {s : State} (h : Keeps b0 s) :
    KeepsOut b0 (execScrubComplete st aq desc s) := by
  unfold execScrubComplete
  dsimp only
  repeat' split
  all_goals apply_rules [State.startPartition_keeps, State.zeroStack_keeps, State.modStack_keeps,
    State.dropKey_keeps, State.event_keeps, State.registerAdmin_keeps, State.slotsReport_keeps, KeepsOut.next]

theorem execRingTransfer_keeps {b0 : State} {src dst : Nat} {s : State} (h : Keeps b0 s) :
    KeepsOut b0 (execRingTransfer src dst s) := by
  unfold execRingTransfer
  repeat' split
  all_goals apply_rules [State.modStack_keeps, KeepsOut.next]

theorem execHostMemRequest_keeps {b0 : State} {st : Nat} {wr own : Bool} {addr size data : Nat} {s : State} {poison
    : Bool} (h : Keeps b0 s) :
    KeepsOut b0 (execHostMemRequest st wr own addr size data s poison) := by
  unfold execHostMemRequest
  dsimp only
  repeat' split
  all_goals apply_rules [State.event_keeps, State.backInvalidate_keeps, State.hostWrite_keeps, State.hostRead_keeps,
    State.modStack_keeps, KeepsOut.next]

theorem execBackInvalidationResponse_keeps {b0 : State} {st line : Nat} {dirty : Bool} {data : Nat} {s : State}
    {poison : Bool} (h : Keeps b0 s) :
    KeepsOut b0 (execBackInvalidationResponse st line dirty data s poison) := by
  unfold execBackInvalidationResponse
  repeat' split
  all_goals apply_rules [State.modStack_keeps, State.hostWrite_keeps, KeepsOut.next]

theorem execHostSnoop_keeps {b0 : State} {st line : Nat} {inv : Bool} {s : State} {off size data : Nat} {poison :
    Bool} (h : Keeps b0 s) :
    KeepsOut b0 (execHostSnoop st line inv s off size data poison) := by
  unfold execHostSnoop
  dsimp only
  repeat' split
  all_goals apply_rules [State.snoopDown_keeps, State.hostWrite_keeps, KeepsOut.next]

theorem execLinkDown_keeps {b0 : State} {st : Nat} {s : State} (h : Keeps b0 s) :
    KeepsOut b0 (execLinkDown st s) := by
  unfold execLinkDown
  repeat' split
  all_goals apply_rules [State.failPort_keeps, KeepsOut.next]

theorem execViralReceived_keeps {b0 : State} {st : Nat} {s : State} (h : Keeps b0 s) :
    KeepsOut b0 (execViralReceived st s) := by
  unfold execViralReceived
  repeat' split
  all_goals apply_rules [State.failPort_keeps, KeepsOut.next]

theorem execRouteFreeze_keeps {b0 : State} {st : Nat} {s : State} (h : Keeps b0 s) :
    KeepsOut b0 (execRouteFreeze st s) := by
  unfold execRouteFreeze
  repeat' split
  all_goals apply_rules [State.returnRequests_keeps, State.modStack_keeps, KeepsOut.next]

theorem execRouteUnfreeze_keeps {b0 : State} {st retired : Nat} {s : State} (h : Keeps b0 s) :
    KeepsOut b0 (execRouteUnfreeze st retired s) := by
  unfold execRouteUnfreeze
  dsimp only
  repeat' split
  all_goals apply_rules [State.modStack_keeps, State.resendRequests_keeps, State.event_keeps, KeepsOut.next]

theorem execPtmExchange_keeps {b0 : State} {st master : Nat} {s : State} (h : Keeps b0 s) :
    KeepsOut b0 (execPtmExchange st master s) := by
  unfold execPtmExchange
  dsimp only
  repeat' split
  all_goals apply_rules [State.modStack_keeps, State.timeEvent_keeps, KeepsOut.next, Keeps.mk_iff.2]

theorem execPtmHoldoverTimeout_keeps {b0 : State} {st : Nat} {s : State} (h : Keeps b0 s) :
    KeepsOut b0 (execPtmHoldoverTimeout st s) := by
  unfold execPtmHoldoverTimeout
  dsimp only
  repeat' split
  all_goals apply_rules [State.modStack_keeps, State.timeEvent_keeps, KeepsOut.next]

theorem execGovernorTick_keeps {b0 : State} {st td tl : Nat} {s : State} (h : Keeps b0 s) :
    KeepsOut b0 (execGovernorTick st td tl s) := by
  unfold execGovernorTick
  dsimp only
  repeat' split
  all_goals apply_rules [State.modStack_keeps, State.event_keeps, KeepsOut.next]

theorem execBootLoadConfig_keeps {b0 : State} {st : Nat} {s : State} {done : Bool} (h : Keeps b0 s) :
    KeepsOut b0 (execBootLoadConfig st s done) := by
  unfold execBootLoadConfig
  dsimp only
  repeat' split
  all_goals apply_rules [State.modStack_keeps, State.verified_keeps, KeepsOut.next]

theorem execIdpubReceived_keeps {b0 : State} {st : Nat} {s : State} (h : Keeps b0 s) :
    KeepsOut b0 (execIdpubReceived st s) := by
  unfold execIdpubReceived
  repeat' split
  all_goals apply_rules [State.modStack_keeps, KeepsOut.next]

theorem execIdpubTimeout_keeps {b0 : State} {st : Nat} {s : State} (h : Keeps b0 s) :
    KeepsOut b0 (execIdpubTimeout st s) := by
  unfold execIdpubTimeout
  dsimp only
  repeat' split
  all_goals apply_rules [State.modStack_keeps, KeepsOut.next]

theorem execBootProduceQuote_keeps {b0 : State} {st : Nat} {s : State} (h : Keeps b0 s) :
    KeepsOut b0 (execBootProduceQuote st s) := by
  unfold execBootProduceQuote
  dsimp only
  repeat' split
  all_goals apply_rules [State.modStack_keeps, KeepsOut.next]

theorem execQuoteWriteComplete_keeps {b0 : State} {st : Nat} {ok : Bool} {s : State} (h : Keeps b0 s) :
    KeepsOut b0 (execQuoteWriteComplete st ok s) := by
  unfold execQuoteWriteComplete
  dsimp only
  repeat' split
  all_goals apply_rules [State.modStack_keeps, State.putDevice_keeps, KeepsOut.next]

theorem execCapbaseWrite_keeps {b0 : State} {st v : Nat} {s : State} (h : Keeps b0 s) :
    KeepsOut b0 (execCapbaseWrite st v s) := by
  unfold execCapbaseWrite
  repeat' split
  all_goals apply_rules [State.modStack_keeps, KeepsOut.next]

theorem execRegisterWrite_keeps {b0 : State} {st off v : Nat} {s : State} (h : Keeps b0 s) :
    KeepsOut b0 (execRegisterWrite st off v s) := by
  unfold execRegisterWrite
  repeat' split
  all_goals apply_rules [State.modStack_keeps, KeepsOut.next]

theorem execSavedGangDeadline_keeps {b0 : State} {g : Nat} {s : State} (h : Keeps b0 s) :
    KeepsOut b0 (execSavedGangDeadline g s) := by
  unfold execSavedGangDeadline
  repeat' split
  all_goals apply_rules [State.killSaved_keeps, KeepsOut.next]

theorem execLinkUp_keeps {b0 : State} {st : Nat} {s : State} (h : Keeps b0 s) :
    KeepsOut b0 (execLinkUp st s) := by
  unfold execLinkUp
  apply_rules [State.modStack_keeps, KeepsOut.next]

theorem execSubc_keeps {b0 : State} {p : BitVec 4} {nw : Bool} {d a b : Reg} {s : State} (h : Keeps b0 s) :
    KeepsOut b0 (execSubc p nw d a b s) := by
  unfold execSubc
  exact carryChain_keeps h

theorem execAddc_keeps {b0 : State} {p : BitVec 4} {nw : Bool} {d a b : Reg} {s : State} (h : Keeps b0 s) :
    KeepsOut b0 (execAddc p nw d a b s) := by
  unfold execAddc
  exact carryChain_keeps h

theorem execShflIdx_keeps {b0 : State} {nw : Bool} {d a b : Reg} {s : State} (h : Keeps b0 s) :
    KeepsOut b0 (execShflIdx nw d a b s) := by
  unfold execShflIdx
  exact shuffle_keeps h

theorem execShflUp_keeps {b0 : State} {nw : Bool} {d a b : Reg} {s : State} (h : Keeps b0 s) :
    KeepsOut b0 (execShflUp nw d a b s) := by
  unfold execShflUp
  exact shuffle_keeps h

theorem execShflDown_keeps {b0 : State} {nw : Bool} {d a b : Reg} {s : State} (h : Keeps b0 s) :
    KeepsOut b0 (execShflDown nw d a b s) := by
  unfold execShflDown
  exact shuffle_keeps h

theorem execShflXor_keeps {b0 : State} {nw : Bool} {d a b : Reg} {s : State} (h : Keeps b0 s) :
    KeepsOut b0 (execShflXor nw d a b s) := by
  unfold execShflXor
  exact shuffle_keeps h

theorem execMxls_keeps {b0 : State} {nw : Bool} {d a : Reg} {s : State} (h : Keeps b0 s) :
    KeepsOut b0 (execMxls nw d a s) := by
  refine matrixBlock_keeps (fun c off b u => ?_) h
  extract_lets e
  split
  · exact Issue.trapActive_keeps h
  · exact Issue.enqueue_keeps h

theorem execMxgo_keeps {b0 : State} {nw : Bool} {d a : Reg} {s : State} (h : Keeps b0 s) :
    KeepsOut b0 (execMxgo nw d a s) := by
  refine matrixBlock_keeps (fun c off b u => ?_) h
  extract_lets ea ec
  split
  · exact Issue.trapActive_keeps h
  · exact Issue.enqueue_keeps h

theorem execMxrd_keeps {b0 : State} {d a : Reg} {s : State} (h : Keeps b0 s) : KeepsOut b0 (execMxrd d a s) := by
  refine matrixBlock_keeps (fun c off b u => ?_) h
  split
  · exact Issue.trapActive_keeps h
  split
  · exact Issue.readStall_keeps h
  · exact Issue.done_keeps h

theorem execMxz_keeps {b0 : State} {a : Reg} {s : State} (h : Keeps b0 s) : KeepsOut b0 (execMxz a s) :=
  matrixBlock_keeps (fun _ _ _ _ => Issue.enqueue_keeps h) h

theorem execMxst_keeps {b0 : State} {nw : Bool} {d a : Reg} {s : State} (h : Keeps b0 s) :
    KeepsOut b0 (execMxst nw d a s) := by
  refine matrixBlock_keeps (fun c off b u => ?_) h
  extract_lets ec fits
  split
  · exact Issue.trapActive_keeps h
  · exact Issue.enqueue_keeps h

theorem execTidw_keeps {b0 : State} {a b : Reg} {s : State} (h : Keeps b0 s) : KeepsOut b0 (execTidw a b s) := by
  refine tensorAccess_keeps (fun c id off => ?_) h
  dsimp only
  split
  · exact Issue.fault_keeps h
  split
  · exact Issue.advanceIn_keeps (State.writeEntry_keeps (State.setWave_keeps h))
  split
  · exact Issue.trapActive_keeps h
  · exact Issue.advanceIn_keeps (State.writeEntry_keeps (State.setWave_keeps h))

theorem execTidr_keeps {b0 : State} {a b : Reg} {s : State} (h : Keeps b0 s) : KeepsOut b0 (execTidr a b s) :=
  tensorAccess_keeps (fun _ _ _ => Issue.done_keeps (State.putSpad_keeps h)) h

theorem execExit_keeps {b0 s : State} (h : Keeps b0 s) : KeepsOut b0 (execExit s) := by
  refine issueWord_keeps h fun c => ?_
  dsimp only
  have exits := fun w => State.exitLanes_keeps (g := c.g) (w := c.w) (lanes := c.active)
    (State.setWave_keeps (g := c.g) (w := c.w) (v := w) h)
  split
  · exact State.releaseWave_keeps (exits _)
  · exact exits _

theorem execBar_keeps {b0 : State} {n : BitVec 4} {k : BarKind} {sc : BarScope} {x : Bool} {s : State} (h : Keeps b0
    s) :
    KeepsOut b0 (execBar n k sc x s) := by
  refine issueWord_keeps h fun c => ?_
  have hs : Keeps b0 (s.setWave c.g c.w c.wave) := State.setWave_keeps h
  extract_lets i wide all inst b mine s1
  split
  · exact Issue.done_keeps h
  · split
    · exact Issue.trapActive_keeps h
    · cases k with
      | arv => exact Issue.advanceIn_keeps (Issue.arrive_keeps hs)
      | drop => exact Issue.advanceIn_keeps (Issue.arrive_keeps (State.setBar_keeps hs))
      | join => exact Issue.advanceIn_keeps (State.setBar_keeps hs)
      | wait =>
        dsimp only
        split
        · exact Issue.blockIn_keeps hs
        · exact Issue.advanceIn_keeps (Issue.acquires_keeps hs)
      | sync =>
        have ha : Keeps b0 (c.arrive s1 sc n.toNat) := Issue.arrive_keeps hs
        dsimp only
        split
        · exact Issue.advanceIn_keeps (Issue.acquires_keeps ha)
        · split
          · exact Issue.speculate_keeps ha
          · exact Issue.blockIn_keeps ha

theorem execFlagFall_keeps {b0 : State} {l st : Nat} {s : State} (h : Keeps b0 s) :
    KeepsOut b0 (execFlagFall l st s) := by
  unfold execFlagFall
  split
  · exact KeepsOut.next h
  · split
    · exact KeepsOut.next h
    · dsimp only
      split
      · exact KeepsOut.next (State.recallLog_keeps h)
      · next t hlog =>
        have ht : Keeps b0 t := KeepsLogged.of hlog (State.logged_keeps h)
        refine KeepsOut.next (State.event_keeps (State.modLaunch_keeps (Keeps.mk_iff.2 ?_)))
        exact keeps_foldl (fun _ _ => State.divertGang_keeps) (State.dropBatched_keeps ht)

theorem execDeadlineKill_keeps {b0 : State} {l st : Nat} {s : State} (h : Keeps b0 s) :
    KeepsOut b0 (execDeadlineKill l st s) := by
  unfold execDeadlineKill
  split
  · exact KeepsOut.next (keeps_foldl (fun _ _ => State.killGang_keeps) h)
  · exact KeepsOut.next h

theorem execDispatcherFlagFall_keeps {b0 : State} {l : Nat} {s : State} (h : Keeps b0 s) :
    KeepsOut b0 (execDispatcherFlagFall l s) := by
  unfold execDispatcherFlagFall
  split
  · exact KeepsOut.next h
  · split
    · exact KeepsOut.next h
    · exact KeepsOut.next (State.modLaunch_keeps (keeps_foldl (fun _ _ => State.neverStarts_keeps) h))

theorem execWaveRetire_keeps {b0 : State} {g w : Nat} {s : State} (h : Keeps b0 s) :
    KeepsOut b0 (execWaveRetire g w s) := by
  refine KeepsOut.next (State.atWave_keeps h fun gang wave => ?_)
  split
  · exact State.retireFromBarriers_keeps (State.modLaunch_keeps (State.setWave_keeps h))
  · exact h

theorem execMatomPerform_keeps {b0 : State} {k : Nat} {s : State} (h : Keeps b0 s) :
    KeepsOut b0 (execMatomPerform k s) := by
  unfold execMatomPerform
  split
  · exact KeepsOut.next h
  · dsimp only
    split
    · exact KeepsOut.next h
    · split
      · exact KeepsOut.next (State.backInvalidate_keeps h)
      · exact KeepsOut.next (keeps_getD (State.performMatom_keeps h) h)

theorem execHaltLineArrival_keeps {b0 : State} {st : Nat} {s : State} (h : Keeps b0 s) :
    KeepsOut b0 (execHaltLineArrival st s) := by
  have hw : Keeps b0 (s.writeFaults (s.stack st).partNum st) := State.writeFaults_keeps h
  unfold execHaltLineArrival
  extract_lets k p lines t1 t2 t3 t4 t5 t6
  have hstop : Keeps b0 t6 := by
    refine State.modStack_keeps (keeps_foldl (fun _ _ => State.rollbackGang_keeps) (State.decideFlight_keeps ?_))
    exact keeps_foldl (fun _ _ => State.poolProgress_keeps) (State.writeBystanders_keeps hw)
  split
  · exact KeepsOut.next h
  split
  · exact KeepsOut.next (State.backInvalidate_keeps h)
  split
  · split
    · exact KeepsOut.next (State.faultEvent_keeps (State.decideFlight_keeps hw))
    · exact KeepsOut.next (State.decideFlight_keeps hw)
  · split
    · exact KeepsOut.next (State.faultEvent_keeps hstop)
    · exact KeepsOut.next hstop

theorem execHaltClear_keeps {b0 : State} {st : Nat} {s : State} (h : Keeps b0 s) : KeepsOut b0 (execHaltClear st s)
    := by
  unfold execHaltClear
  dsimp only
  split
  · exact KeepsOut.next h
  split
  · exact KeepsOut.next (State.backInvalidate_keeps h)
  · refine KeepsOut.next (State.lowerLine_keeps (State.event_keeps ?_))
    exact keeps_foldl (fun _ _ => State.resetContext_keeps) h

theorem execPoolRecordTake_keeps {b0 : State} {p : Nat} {s : State} (h : Keeps b0 s) :
    KeepsOut b0 (execPoolRecordTake p s) := by
  refine KeepsOut.next (State.onPool_keeps h fun pool x => ?_)
  split
  · next ht => exact KeepsPool.ofWait ht (State.poolRead_keeps h)
  · next ht =>
    have hr := KeepsPool.ofGo ht (State.poolRead_keeps h)
    dsimp only
    split
    · next hu => exact KeepsPool.ofWait hu (State.readRecord_keeps hr)
    · next hu =>
      split
      · exact State.takeRecord_keeps (KeepsPool.ofGo hu (State.readRecord_keeps hr))
      · exact h

theorem execPoolDrainFlush_keeps {b0 : State} {p : Nat} {s : State} (h : Keeps b0 s) :
    KeepsOut b0 (execPoolDrainFlush p s) := by
  refine KeepsOut.next (State.onPool_keeps h fun pool x => ?_)
  split
  · next ht => exact KeepsPool.ofWait ht (State.poolRead_keeps h)
  · next ht =>
    have hr := KeepsPool.ofGo ht (State.poolRead_keeps h)
    dsimp only
    split
    · exact h
    split
    · exact State.modPool_keeps hr
    · exact keeps_foldl (fun _ _ => State.flushBin_keeps) hr

theorem execEngineCommandStart_keeps {b0 : State} {c : Nat} {s : State} (h : Keeps b0 s) :
    KeepsOut b0 (execEngineCommandStart c s) := by
  unfold execEngineCommandStart
  split
  · exact KeepsOut.next h
  · dsimp only
    split
    · split
      · exact KeepsOut.next (State.modCommand_keeps h)
      · split
        · exact KeepsOut.next (State.backInvalidate_keeps h)
        · next hf =>
          exact KeepsOut.next (State.modCommand_keeps (KeepsOpt.fst' hf (State.flushBefore_keeps h)))
    · exact KeepsOut.next h

theorem execEngineSourceRead_keeps {b0 : State} {c : Nat} {s : State} (h : Keeps b0 s) :
    KeepsOut b0 (execEngineSourceRead c s) := by
  unfold execEngineSourceRead
  split
  · exact KeepsOut.next h
  split
  · exact KeepsOut.next h
  split
  · exact KeepsOut.next (State.commandFault_keeps h)
  split
  · exact KeepsOut.next (State.commandFault_keeps h)
  split
  · exact KeepsOut.next (State.commandRead_keeps h fun _ _ => State.modCommand_keeps)
  · exact KeepsOut.next (State.readMoves_keeps h)

theorem execEngineComplete_keeps {b0 : State} {c : Nat} {s : State} (h : Keeps b0 s) :
    KeepsOut b0 (execEngineComplete c s) := by
  unfold execEngineComplete
  split
  · exact KeepsOut.next h
  split
  · exact KeepsOut.next h
  split
  · exact KeepsOut.next (State.finishCommand_keeps h)
  · split
    · exact KeepsOut.next (State.writeMoves_keeps h)
    split
    · exact KeepsOut.next (State.visibleCommand_keeps h)
    · exact KeepsOut.next h
  · split
    · exact KeepsOut.next h
    · exact KeepsOut.next (State.writeMoves_keeps h)
  · exact KeepsOut.next h

theorem execCollChunkDelivered_keeps {b0 : State} {c : Nat} {s : State} (h : Keeps b0 s) :
    KeepsOut b0 (execCollChunkDelivered c s) := by
  unfold execCollChunkDelivered
  split
  · exact KeepsOut.next h
  split
  · exact KeepsOut.next h
  split
  · exact KeepsOut.next (State.landedChunk_keeps h)
  dsimp only
  split
  · exact KeepsOut.next h
  · exact KeepsOut.next (State.commandWrite_keeps h fun _ ht => State.landedChunk_keeps (State.modCommand_keeps ht))

theorem execMatrixOpStart_keeps {b0 : State} {m : Nat} {s : State} (h : Keeps b0 s) :
    KeepsOut b0 (execMatrixOpStart m s) := by
  unfold execMatrixOpStart
  split
  · exact KeepsOut.next h
  split
  · split
    · exact KeepsOut.next h
    split
    · exact KeepsOut.next (State.backInvalidate_keeps h)
    · next hf =>
      exact KeepsOut.next (State.startOp_keeps (State.modOp_keeps (KeepsOpt.fst' hf (State.flushBefore_keeps h))))
  · exact KeepsOut.next h

theorem execLaunchPacket_keeps {b0 : State} {q : Nat} {s : State} (h : Keeps b0 s) :
    KeepsOut b0 (execLaunchPacket q s) :=
  KeepsOut.next (State.readDependence_keeps (State.packet_keeps h fun _ _ _ => State.launchNow_keeps h))

theorem execContinuationPacket_keeps {b0 : State} {q : Nat} {s : State} (h : Keeps b0 s) :
    KeepsOut b0 (execContinuationPacket q s) :=
  KeepsOut.next (State.readDependence_keeps (State.packet_keeps h fun _ _ _ => State.launchNow_keeps h))

theorem execWaitReread_keeps {b0 : State} {q i : Nat} {s : State} (h : Keeps b0 s) :
    KeepsOut b0 (execWaitReread q i s) :=
  KeepsOut.next (State.tryAgain_keeps h fun _ _ => State.waitNow_keeps h)

theorem execGraphPacket_keeps {b0 : State} {q : Nat} {s : State} (h : Keeps b0 s) :
    KeepsOut b0 (execGraphPacket q s) :=
  KeepsOut.next (State.packet_keeps h fun _ _ _ => State.graphWrite_keeps h fun _ => KeepsBegun.running)

theorem execGraphNodeStart_keeps {b0 : State} {q i : Nat} {s : State} (h : Keeps b0 s) :
    KeepsOut b0 (execGraphNodeStart q i s) := by
  refine KeepsOut.next (State.onOpen_keeps h fun x p => ?_)
  split
  · exact h
  split
  · exact h
  · exact State.startNode_keeps h

theorem execNotifyTakenReread_keeps {b0 : State} {q i : Nat} {s : State} (h : Keeps b0 s) :
    KeepsOut b0 (execNotifyTakenReread q i s) :=
  KeepsOut.next (State.tryAgain_keeps h fun _ _ => State.notifyNow_keeps h)

theorem execDestroyContext_keeps {b0 : State} {q : Nat} {s : State} (h : Keeps b0 s) :
    KeepsOut b0 (execDestroyContext q s) := by
  refine KeepsOut.next (State.finishDestroy_keeps (State.packet_keeps h fun x i bs => ?_))
  dsimp only
  split
  · exact KeepsBegun.error
  split
  · exact KeepsBegun.running (State.resetContext_keeps h)
  · exact KeepsBegun.blocked (State.backInvalidate_keeps h)

theorem execPreempt_keeps {b0 : State} {q : Nat} {s : State} (h : Keeps b0 s) : KeepsOut b0 (execPreempt q s) := by
  refine KeepsOut.next (State.settleLadder_keeps (State.packet_keeps h fun x i bs => ?_))
  dsimp only
  split
  · exact KeepsBegun.error
  split
  · exact KeepsBegun.blocked h
  split
  · exact KeepsBegun.running (State.startEvict_keeps (State.modContext_keeps h))
  · exact KeepsBegun.running (State.modContext_keeps h)

theorem execGangRestore_keeps {b0 : State} {g st : Nat} {s : State} (h : Keeps b0 s) :
    KeepsOut b0 (execGangRestore g st s) := by
  unfold execGangRestore
  split
  · exact KeepsOut.next h
  split
  · extract_lets ctx first now lines
    split
    · exact KeepsOut.next h
    split
    · exact KeepsOut.next (State.backInvalidate_keeps h)
    split
    · exact KeepsOut.next (State.killSaved_keeps h)
    split
    · split
      · exact KeepsOut.next h
      · next hp =>
        have ht := KeepsOpt.snd' hp (State.logPlace_keeps h)
        split
        · exact KeepsOut.next h
        · refine KeepsOut.next (State.settleResume_keeps (State.replayGang_keeps ?_))
          split
          · exact State.divertGang_keeps (State.launchFf_keeps (State.restoreGang_keeps ht))
          · exact State.restoreGang_keeps ht
    · exact KeepsOut.next h
  · exact KeepsOut.next h

theorem execResolve_keeps {b0 : State} {q : Nat} {s : State} (h : Keeps b0 s) : KeepsOut b0 (execResolve q s) := by
  refine KeepsOut.next (State.packet_keeps h fun x i bs => ?_)
  extract_lets ctx page
  have hr : ∀ l : List Nat, Keeps b0 (l.foldl (fun u st => u.releaseHeld ctx st page (page + 65536)) (s.answered ctx
    page)) :=
    fun l => keeps_foldl (fun _ _ => State.releaseHeld_keeps) (State.answered_keeps h)
  split
  · exact KeepsBegun.error
  dsimp only
  split
  · exact KeepsBegun.blocked (hr _)
  · exact KeepsBegun.done (hr _)

theorem execRefuse_keeps {b0 : State} {q : Nat} {s : State} (h : Keeps b0 s) : KeepsOut b0 (execRefuse q s) := by
  refine KeepsOut.next (State.packet_keeps h fun x i bs => ?_)
  extract_lets ctx page
  split
  · exact KeepsBegun.error
  · refine KeepsBegun.done (State.modContext_keeps (State.refuseQueues_keeps (State.refuseUnits_keeps
      (State.refuseEntries_keeps (keeps_foldl (fun _ _ => State.refuseWave_keeps) ?_)))))
    exact State.modContext_keeps (State.answered_keeps h)

theorem execRebuildChannel_keeps {b0 : State} {q : Nat} {s : State} (h : Keeps b0 s) :
    KeepsOut b0 (execRebuildChannel q s) :=
  KeepsOut.next (State.repair_keeps h fun _ _ _ => KeepsBegun.running (State.modStack_keeps h))

theorem execRebuildStep_keeps {b0 : State} {st : Nat} {s : State} {errors : List (Nat × Nat)} (h : Keeps b0 s) :
    KeepsOut b0 (execRebuildStep st s errors) := by
  unfold execRebuildStep
  dsimp only
  split
  · exact KeepsOut.next h
  · have hp : ∀ (l : List Nat) (f : Stack → Stack), Keeps b0 (l.foldl (fun (u : State) b => u.poisonBlock st b 2)
        ((s.moveBlocks errors st (s.stack st).repChannel (s.stack st).cursor).modStack st f)) := fun l f =>
      keeps_foldl (fun _ _ => State.poisonBlock_keeps) (State.modStack_keeps (State.moveBlocks_keeps h))
    split
    · exact KeepsOut.next (hp _ _)
    · exact KeepsOut.next (State.repairDone_keeps (State.event_keeps (State.modStack_keeps (hp _ _))))

theorem execBeginLayerMapOut_keeps {b0 : State} {q : Nat} {s : State} (h : Keeps b0 s) :
    KeepsOut b0 (execBeginLayerMapOut q s) :=
  KeepsOut.next (State.repair_keeps h fun _ _ _ => KeepsBegun.done (State.event_keeps (State.modStack_keeps h)))

theorem execConfirmLayerRemoval_keeps {b0 : State} {q : Nat} {s : State} (h : Keeps b0 s) :
    KeepsOut b0 (execConfirmLayerRemoval q s) := by
  refine KeepsOut.next (State.repair_keeps h fun i st _ => ?_)
  dsimp only
  split
  · exact KeepsBegun.blocked h
  split
  · exact KeepsBegun.done (State.mappedOut_keeps (State.modStack_keeps (State.dropRange_keeps h)))
  · exact KeepsBegun.running (State.modStack_keeps (State.modStack_keeps (State.dropRange_keeps h)))

theorem execMapOutCopyStep_keeps {b0 : State} {st : Nat} {s : State} {errors : List (Nat × Nat)} (h : Keeps b0 s) :
    KeepsOut b0 (execMapOutCopyStep st s errors) := by
  unfold execMapOutCopyStep
  dsimp only
  split
  · exact KeepsOut.next h
  · have hb : ∀ (c : Bool) (b : Nat), Keeps b0 (if c = true then s else s.poisonBlock st b 3) := fun c b => by
      split
      · exact h
      · exact State.poisonBlock_keeps h
    split
    · exact KeepsOut.next (State.modStack_keeps (hb _ _))
    · exact KeepsOut.next (State.repairDone_keeps (State.mappedOut_keeps (State.modStack_keeps (hb _ _))))

theorem execCompletionTimeout_keeps {b0 : State} {x : Outstanding} {s : State} (h : Keeps b0 s) :
    KeepsOut b0 (execCompletionTimeout x s) := by
  cases x with
  | load g w k =>
    refine KeepsOut.next (State.atWave_keeps h fun _ v => ?_)
    split
    · split
      · exact State.setWave_keeps h
      · exact h
    · exact h
  | store g w k =>
    refine KeepsOut.next (State.atWave_keeps h fun _ v => ?_)
    split
    · split
      · split
        · exact h
        · exact State.failBytes_keeps (State.setWave_keeps h)
      · exact h
    · exact h
  | snoop st line =>
    unfold execCompletionTimeout
    dsimp only
    split
    · exact KeepsOut.next (State.loseCopy_keeps h)
    · exact KeepsOut.next h
  | engine k => exact KeepsOut.next (State.modCommand_keeps h)
  | line n =>
    unfold execCompletionTimeout
    dsimp only
    split
    · exact KeepsOut.next (State.loseLine_keeps h)
    · exact KeepsOut.next h

/-- A complex that loses power takes nothing from the invariant. -/
theorem State.Inv.dropComplex {s : State} (h : s.Inv) (st : Nat) : (s.dropComplex st).Inv := by
  obtain ⟨hm, hs, hp⟩ := h
  unfold State.dropComplex
  split
  · split
    · exact (State.castlingAborts_keeps (Keeps.refl s)).inv ⟨hm, hs, hp⟩
    · exact ⟨hm, hs, hp⟩
  · exact ⟨hm, hs, (List.length_map _).trans hp⟩

theorem State.Inv.castled {s : State} (h : s.Inv) (table : List Byte) : (s.castled table).Inv := by
  obtain ⟨hm, hs, hp⟩ := h
  unfold State.castled
  refine (State.event_keeps (Keeps.record (State.takeRings_keeps (Keeps.refl _)) rfl (List.length_map _))).inv ?_
  exact ⟨hm, by simpa [State.modStack] using hs, hp⟩

/-- Power-up keeps the invariant: the numbers of events may start anew. -/
theorem State.Inv.powerUp {s t : State} {st : Nat} (h : s.Inv) (e : execPowerUp st s = .next t) : t.Inv := by
  obtain ⟨hm, hs, hp⟩ := (State.zeroStack_keeps (st := st) (State.dropStack_keeps (st := st) (Keeps.refl _))).inv
    (h.dropComplex st)
  have hr : ∀ u : State, u.mem = (((s.dropComplex st).dropStack st).zeroStack st).mem →
      u.poison = (((s.dropComplex st).dropStack st).zeroStack st).poison →
      u.stackTab = (((s.dropComplex st).dropStack st).zeroStack st).stackTab.set st Stack.reset →
      u.partitions = (((s.dropComplex st).dropStack st).zeroStack st).partitions → u.Inv := fun u h1 h2 h3 h4 =>
    ⟨by simp only [State.memoryOk, h1, h2]; exact hm, by rw [h3, List.length_set, hs], by rw [h4, hp]⟩
  unfold execPowerUp at e
  dsimp only at e
  rw [Host.Outcome.next.injEq] at e
  rw [← e]
  split
  · exact (State.dropPartition_keeps (Keeps.refl _)).inv (hr _ rfl rfl rfl rfl)
  · exact hr _ rfl rfl rfl rfl

/-- An import keeps the invariant: the numbers of events go on from the state table. -/
theorem State.Inv.castlingImport {s t : State} {n : Nat} (h : s.Inv) (e : execCastlingImport n s = .next t) : t.Inv
    := by
  have hn : ∀ {u : State}, Keeps s u → (.next u : Host.Outcome State Fault Refusal) = .next t → t.Inv := by
    intro u hu e
    rw [Host.Outcome.next.injEq] at e
    exact e ▸ hu.inv h
  unfold execCastlingImport at e
  split at e
  · exact hn (Keeps.refl s) e
  split at e
  · exact hn (State.castlingAborts_keeps (Keeps.refl s)) e
  split at e
  · split at e
    · exact hn (Keeps.mk_iff.2 (State.modStack_keeps (Keeps.refl s))) e
    · exact hn (Keeps.refl s) e
  · dsimp only at e
    split at e
    · rw [Host.Outcome.next.injEq] at e
      exact e ▸ h.castled _
    · exact hn (State.castlingAborts_keeps (Keeps.refl s)) e

/-- Whatever an instruction or event does, it keeps the invariant and lets no sequence number fall; apart
from power-up and the import of a state table, which set the number anew. -/
theorem exec_keeps {i : Instr} {s : State} (hp : ∀ st, i ≠ .powerUp st) (hc : ∀ n, i ≠ .castlingImport n) :
    KeepsOut s (exec i s) := by
  have h := Keeps.refl s
  cases i with
  | nop => exact execNop_keeps h
  | trap => exact execTrap_keeps h
  | tret => exact execTret_keeps h
  | brk => exact execBrk_keeps h
  | gets => exact execGets_keeps h
  | sets => exact execSets_keeps h
  | xen => exact execXen_keeps h
  | xflg => exact execXflg_keeps h
  | exit => exact execExit_keeps h
  | ret => exact execRet_keeps h
  | brx => exact execBrx_keeps h
  | callx => exact execCallx_keeps h
  | prio => exact execPrio_keeps h
  | jmsk => exact execJmsk_keeps h
  | join => exact execJoin_keeps h
  | winb => exact execWinb_keeps h
  | valid => exact execValid_keeps h
  | yield => exact execYield_keeps h
  | guard => exact execGuard_keeps h
  | bra => exact execBra_keeps h
  | call => exact execCall_keeps h
  | add32 => exact lane32_keeps h
  | sub32 => exact lane32_keeps h
  | mull => exact lane32_keeps h
  | mulhI32 => exact lane32_keeps h
  | mulhN32 => exact lane32_keeps h
  | mad => exact lane32_keeps h
  | div32 => exact lane32_keeps h
  | rem32 => exact lane32_keeps h
  | min32 => exact lane32_keeps h
  | max32 => exact lane32_keeps h
  | sadd => exact lane32_keeps h
  | ssub => exact lane32_keeps h
  | and32 => exact lane32_keeps h
  | or32 => exact lane32_keeps h
  | xor32 => exact lane32_keeps h
  | shl => exact lane32_keeps h
  | shr => exact lane32_keeps h
  | sar => exact lane32_keeps h
  | rotl => exact lane32_keeps h
  | shli => exact lane32_keeps h
  | shri => exact lane32_keeps h
  | sari => exact lane32_keeps h
  | bfx => exact lane32_keeps h
  | bfi => exact lane32_keeps h
  | permb => exact lane32_keeps h
  | mov => exact lane32_keeps h
  | not32 => exact lane32_keeps h
  | neg32 => exact lane32_keeps h
  | abs32 => exact lane32_keeps h
  | popc => exact lane32_keeps h
  | clz => exact lane32_keeps h
  | ctz => exact lane32_keeps h
  | brev => exact lane32_keeps h
  | addInt64 => exact lane64_keeps h
  | subInt64 => exact lane64_keeps h
  | mullInt64 => exact lane64_keeps h
  | minI64 => exact lane64_keeps h
  | minN64 => exact lane64_keeps h
  | maxI64 => exact lane64_keeps h
  | maxN64 => exact lane64_keeps h
  | andInt64 => exact lane64_keeps h
  | orInt64 => exact lane64_keeps h
  | xorInt64 => exact lane64_keeps h
  | shlInt64 => exact lane64_keeps h
  | shrInt64 => exact lane64_keeps h
  | sarInt64 => exact lane64_keeps h
  | shliInt64 => exact lane64_keeps h
  | shriInt64 => exact lane64_keeps h
  | sariInt64 => exact lane64_keeps h
  | movInt64 => exact lane64_keeps h
  | notInt64 => exact lane64_keeps h
  | negInt64 => exact lane64_keeps h
  | absInt64 => exact lane64_keeps h
  | popcInt64 => exact lane64_keeps h
  | clzInt64 => exact lane64_keeps h
  | ctzInt64 => exact lane64_keeps h
  | brevInt64 => exact lane64_keeps h
  | leaI32 => exact lane64_keeps h
  | leaN32 => exact lane64_keeps h
  | addUint => exact uniform64_keeps h
  | subUint => exact uniform64_keeps h
  | mullUint => exact uniform64_keeps h
  | mulhI64 => exact uniform64_keeps h
  | mulhN64 => exact uniform64_keeps h
  | madUint => exact uniform64_keeps h
  | minUint => exact uniform64_keeps h
  | maxUint => exact uniform64_keeps h
  | andUint => exact uniform64_keeps h
  | orUint => exact uniform64_keeps h
  | xorUint => exact uniform64_keeps h
  | shlUint => exact uniform64_keeps h
  | shrUint => exact uniform64_keeps h
  | sarUint => exact uniform64_keeps h
  | shliUint => exact uniform64_keeps h
  | shriUint => exact uniform64_keeps h
  | sariUint => exact uniform64_keeps h
  | bfxI64 => exact uniform64_keeps h
  | bfxN64 => exact uniform64_keeps h
  | bfiUint => exact uniform64_keeps h
  | movUint => exact uniform64_keeps h
  | notUint => exact uniform64_keeps h
  | negUint => exact uniform64_keeps h
  | absUint => exact uniform64_keeps h
  | popcUint => exact uniform64_keeps h
  | clzUint => exact uniform64_keeps h
  | ctzUint => exact uniform64_keeps h
  | brevUint => exact uniform64_keeps h
  | cmp => exact lanePred_keeps h
  | cmp64 => exact lanePred_keeps h
  | pand => exact lanePred_keeps h
  | por => exact lanePred_keeps h
  | pxor => exact lanePred_keeps h
  | pnot => exact lanePred_keeps h
  | pmov => exact lanePred_keeps h
  | voteAll => exact lanePred_keeps h
  | voteAny => exact lanePred_keeps h
  | voteBallot => exact execVoteBallot_keeps h
  | shflIdx => exact execShflIdx_keeps h
  | shflUp => exact execShflUp_keeps h
  | shflDown => exact execShflDown_keeps h
  | shflXor => exact execShflXor_keeps h
  | bcst => exact execBcst_keeps h
  | elect => exact lanePred_keeps h
  | movFromUniform => exact execMovFromUniform_keeps h
  | selB32 => exact lane32_keeps h
  | selB64 => exact lane64_keeps h
  | addc => exact execAddc_keeps h
  | subc => exact execSubc_keeps h
  | addi => exact lane32_keeps h
  | andi => exact lane32_keeps h
  | ori => exact lane32_keeps h
  | xori => exact lane32_keeps h
  | cmpi => exact lanePred_keeps h
  | lui => exact lane32_keeps h
  | movi => exact lane32_keeps h
  | uaddi => exact uniform64_keeps h
  | umovi => exact uniform64_keeps h
  | umoviLui => exact uniform64_keeps h
  | faddFp32 => exact fpBinary_keeps h
  | fsubFp32 => exact fpBinary_keeps h
  | fmulFp32 => exact fpBinary_keeps h
  | fdivFp32 => exact fpBinary_keeps h
  | fmaFp32 => exact fpFused_keeps h
  | fnmaFp32 => exact fpFused_keeps h
  | fsclFp32 => exact fpLane_keeps h
  | fsqrtFp32 => exact fpUnary_keeps h
  | frcp => exact fpUnary_keeps h
  | frsq => exact fpUnary_keeps h
  | fexp2 => exact fpUnary_keeps h
  | flog2 => exact fpUnary_keeps h
  | frndFp32 => exact fpUnary_keeps h
  | frndRnaFp32 => exact fpUnary_keeps h
  | faddFp64 => exact fpBinary_keeps h
  | fsubFp64 => exact fpBinary_keeps h
  | fmulFp64 => exact fpBinary_keeps h
  | fdivFp64 => exact fpBinary_keeps h
  | fmaFp64 => exact fpFused_keeps h
  | fnmaFp64 => exact fpFused_keeps h
  | fsclFp64 => exact fpLane_keeps h
  | fsqrtFp64 => exact fpUnary_keeps h
  | frndFp64 => exact fpUnary_keeps h
  | frndRnaFp64 => exact fpUnary_keeps h
  | hadd2 => exact fpPacked_keeps h
  | hmul2 => exact fpPacked_keeps h
  | hfma2 => exact fpLane_keeps h
  | hmin2 => exact fpPacked_keeps h
  | hmax2 => exact fpPacked_keeps h
  | fmin => exact fpBinary_keeps h
  | fmax => exact fpBinary_keeps h
  | fminn => exact fpBinary_keeps h
  | fmaxn => exact fpBinary_keeps h
  | fabs => exact fpQuiet_keeps h
  | fneg => exact fpQuiet_keeps h
  | fcpys => exact fpQuiet_keeps h
  | fclass => exact fpQuiet_keeps h
  | fext => exact fpQuiet_keeps h
  | fcmp => exact execFcmp_keeps h
  | cvt => exact fpLane_keeps h
  | pack4 => exact fpLane_keeps h
  | ldo => exact execLdo_keeps h
  | sto => exact execSto_keeps h
  | ld => exact execLd_keeps h
  | ldv => exact execLdv_keeps h
  | st => exact execSt_keeps h
  | stv => exact execStv_keeps h
  | ldx => exact execLdx_keeps h
  | stx => exact execStx_keeps h
  | pref => exact execPref_keeps h
  | fence => exact execFence_keeps h
  | mon => exact execMon_keeps h
  | mwait => exact execMwait_keeps h
  | atom => exact execAtom_keeps h
  | atomr => exact execAtomr_keeps h
  | matom => exact execMatom_keeps h
  | matomr => exact execMatomr_keeps h
  | bar => exact execBar_keeps h
  | specx => exact execSpecx_keeps h
  | qw => exact execQw_keeps h
  | qr => exact execQr_keeps h
  | qrt => exact execQrt_keeps h
  | qst => exact execQst_keeps h
  | tkwSrc => exact tokenWait_keeps h
  | tkwVis => exact tokenWait_keeps h
  | cpy => exact submit_keeps h
  | gat => exact submit_keeps h
  | sct => exact submit_keeps h
  | bin => exact submit_keeps h
  | coll => exact submit_keeps h
  | shape => exact execShape_keeps h
  | mxls => exact execMxls_keeps h
  | mxsw => exact execMxsw_keeps h
  | mxgo => exact execMxgo_keeps h
  | mxrd => exact execMxrd_keeps h
  | mxz => exact execMxz_keeps h
  | mxst => exact execMxst_keeps h
  | tidw => exact execTidw_keeps h
  | tidr => exact execTidr_keeps h
  | handlerEntry => exact execHandlerEntry_keeps h
  | joinRelease => exact execJoinRelease_keeps h
  | illegalInstruction => exact execIllegalInstruction_keeps h
  | fetchFault => exact execFetchFault_keeps h
  | flagFall => exact execFlagFall_keeps h
  | deadlineKill => exact execDeadlineKill_keeps h
  | dispatcherFlagFall => exact execDispatcherFlagFall_keeps h
  | waveRetire => exact execWaveRetire_keeps h
  | gangRetire => exact execGangRetire_keeps h
  | yieldHoldExpiry => exact execYieldHoldExpiry_keeps h
  | issueAgePromotion => exact execIssueAgePromotion_keeps h
  | parkWave => exact execParkWave_keeps h
  | recallWave => exact execRecallWave_keeps h
  | watchdogExpiry => exact execWatchdogExpiry_keeps h
  | loadReply => exact execLoadReply_keeps h
  | storeAck => exact execStoreAck_keeps h
  | matomPerform => exact execMatomPerform_keeps h
  | mwaitRecheck => exact execMwaitRecheck_keeps h
  | mwaitTimeout => exact execMwaitTimeout_keeps h
  | haltLineArrival => exact execHaltLineArrival_keeps h
  | haltClear => exact execHaltClear_keeps h
  | dispatchRound => exact execDispatchRound_keeps h
  | stackDispatchGang => exact execStackDispatchGang_keeps h
  | reservationAttempt => exact execReservationAttempt_keeps h
  | reservationBackoffExpiry => exact execReservationBackoffExpiry_keeps h
  | poolRecordTake => exact execPoolRecordTake_keeps h
  | poolDrainFlush => exact execPoolDrainFlush_keeps h
  | completionRecordWrite => exact execCompletionRecordWrite_keeps h
  | engineCommandStart => exact execEngineCommandStart_keeps h
  | engineSourceRead => exact execEngineSourceRead_keeps h
  | engineComplete => exact execEngineComplete_keeps h
  | collChunkDelivered => exact execCollChunkDelivered_keeps h
  | matrixOpStart => exact execMatrixOpStart_keeps h
  | matrixFetchPageMiss => exact execMatrixFetchPageMiss_keeps h
  | matrixOpComplete => exact execMatrixOpComplete_keeps h
  | selfTestPeriodic => exact execSelfTestPeriodic_keeps h
  | kick => exact execKick_keeps h
  | packetFetch => exact execPacketFetch_keeps h
  | markReread => exact execMarkReread_keeps h
  | bodyCheckRetry => exact execBodyCheckRetry_keeps h
  | launchPacket => exact execLaunchPacket_keeps h
  | continuationPacket => exact execContinuationPacket_keeps h
  | enginePacket => exact execEnginePacket_keeps h
  | waitPacket => exact execWaitPacket_keeps h
  | waitReread => exact execWaitReread_keeps h
  | signalPacket => exact execSignalPacket_keeps h
  | graphPacket => exact execGraphPacket_keeps h
  | graphNodeStart => exact execGraphNodeStart_keeps h
  | notifyPacket => exact execNotifyPacket_keeps h
  | notifyTakenReread => exact execNotifyTakenReread_keeps h
  | notifyTimeInterrupt => exact execNotifyTimeInterrupt_keeps h
  | dependenceReread => exact execDependenceReread_keeps h
  | evringWrite => exact execEvringWrite_keeps h
  | sdmodeWrite => exact execSdmodeWrite_keeps h
  | sdmodeTakeEffect => exact execSdmodeTakeEffect_keeps h
  | cpLoad => exact execCpLoad_keeps h
  | cpCastle => exact execCpCastle_keeps h
  | cpPowerOff => exact execCpPowerOff_keeps h
  | castlingImport n => exact absurd rfl (hc n)
  | castlingTimeout => exact execCastlingTimeout_keeps h
  | createContext => exact execCreateContext_keeps h
  | destroyContext => exact execDestroyContext_keeps h
  | registerQueue => exact execRegisterQueue_keeps h
  | resetQueue => exact execResetQueue_keeps h
  | preempt => exact execPreempt_keeps h
  | drainBoundExpiry => exact execDrainBoundExpiry_keeps h
  | evictBoundExpiry => exact execEvictBoundExpiry_keeps h
  | resume => exact execResume_keeps h
  | gangRestore => exact execGangRestore_keeps h
  | invalidate => exact execInvalidate_keeps h
  | invalidationAck => exact execInvalidationAck_keeps h
  | resolve => exact execResolve_keeps h
  | refuse => exact execRefuse_keeps h
  | migratePage => exact execMigratePage_keeps h
  | rebuildChannel => exact execRebuildChannel_keeps h
  | rebuildStep => exact execRebuildStep_keeps h
  | beginLayerMapOut => exact execBeginLayerMapOut_keeps h
  | confirmLayerRemoval => exact execConfirmLayerRemoval_keeps h
  | mapOutCopyStep => exact execMapOutCopyStep_keeps h
  | patrolScrub => exact execPatrolScrub_keeps h
  | bankModeWrite => exact execBankModeWrite_keeps h
  | bankModeChangeComplete => exact execBankModeChangeComplete_keeps h
  | partitionEnable => exact execPartitionEnable_keeps h
  | scrubComplete => exact execScrubComplete_keeps h
  | ringTransfer => exact execRingTransfer_keeps h
  | hostMemRequest => exact execHostMemRequest_keeps h
  | backInvalidationResponse => exact execBackInvalidationResponse_keeps h
  | hostSnoop => exact execHostSnoop_keeps h
  | linkDown => exact execLinkDown_keeps h
  | viralReceived => exact execViralReceived_keeps h
  | completionTimeout => exact execCompletionTimeout_keeps h
  | routeFreeze => exact execRouteFreeze_keeps h
  | routeUnfreeze => exact execRouteUnfreeze_keeps h
  | ptmExchange => exact execPtmExchange_keeps h
  | ptmHoldoverTimeout => exact execPtmHoldoverTimeout_keeps h
  | governorTick => exact execGovernorTick_keeps h
  | powerUp st => exact absurd rfl (hp st)
  | bootLoadConfig => exact execBootLoadConfig_keeps h
  | idpubReceived => exact execIdpubReceived_keeps h
  | idpubTimeout => exact execIdpubTimeout_keeps h
  | bootProduceQuote => exact execBootProduceQuote_keeps h
  | quoteWriteComplete => exact execQuoteWriteComplete_keeps h
  | capbaseWrite => exact execCapbaseWrite_keeps h
  | registerWrite => exact execRegisterWrite_keeps h
  | savedGangDeadline => exact execSavedGangDeadline_keeps h
  | linkUp => exact execLinkUp_keeps h

/-- Each step keeps the invariant. -/
theorem State.Inv.step {s t : State} (h : s.Inv) (e : Sys2Proof.Machine.step s = .next t) : t.Inv := by
  unfold Sys2Proof.Machine.step at e
  split at e
  · rw [Host.Outcome.next.injEq] at e
    exact e ▸ (State.endStep_keeps (Keeps.refl s)).inv h
  · next i u hm =>
    have hu : u.Inv := (KeepsOpt.snd' hm (State.nextMove_keeps (Keeps.refl s))).inv h
    split at e
    · next v hx =>
      rw [Host.Outcome.next.injEq] at e
      have hv : v.Inv := by
        by_cases hp : ∃ st, i = .powerUp st
        · obtain ⟨st, rfl⟩ := hp
          exact hu.powerUp hx
        by_cases hc : ∃ n, i = .castlingImport n
        · obtain ⟨n, rfl⟩ := hc
          exact hu.castlingImport hx
        exact ((exec_keeps (not_exists.1 hp) (not_exists.1 hc)).of_next v hx).inv hu
      exact e ▸ (State.endStep_keeps (Keeps.refl v)).inv hv
    · cases e
    · cases e

end Sys2Proof.Machine

namespace Sys2Proof

/-- Settles O35: each instruction and event keeps the invariant and the numbers, and so do the choice of the next move
and the end of a step. -/
theorem stepKeepsInvariant : Obligations.StepKeepsInvariant := by
  unfold Obligations.StepKeepsInvariant
  exact ⟨fun _ _ e h => h.step e, fun _ _ t hp hc e => ((Machine.exec_keeps hp hc).of_next t e).seq⟩

end Sys2Proof
end

section
/-! SUPPORT. No step ends a run: each event answers a next state, each word does where an entry issues, and the next move
is an event or the word of an entry that issues. -/
namespace Sys2Proof.Machine

theorem execFlagFall_next (l st : Nat) (s : State) :
    ∃ t, execFlagFall l st s = .next t := by
  unfold execFlagFall
  dsimp only
  repeat' split
  all_goals exact ⟨_, rfl⟩

theorem execDeadlineKill_next (l st : Nat) (s : State) :
    ∃ t, execDeadlineKill l st s = .next t := by
  unfold execDeadlineKill
  repeat' split
  all_goals exact ⟨_, rfl⟩

theorem execDispatcherFlagFall_next (l : Nat) (s : State) :
    ∃ t, execDispatcherFlagFall l s = .next t := by
  unfold execDispatcherFlagFall
  repeat' split
  all_goals exact ⟨_, rfl⟩

theorem execGangRetire_next (g : Nat) (s : State) :
    ∃ t, execGangRetire g s = .next t := by
  unfold execGangRetire
  repeat' split
  all_goals exact ⟨_, rfl⟩

theorem execMatomPerform_next (k : Nat) (s : State) :
    ∃ t, execMatomPerform k s = .next t := by
  unfold execMatomPerform
  dsimp only
  repeat' split
  all_goals exact ⟨_, rfl⟩

theorem execHaltLineArrival_next (st : Nat) (s : State) :
    ∃ t, execHaltLineArrival st s = .next t := by
  unfold execHaltLineArrival
  dsimp only
  repeat' split
  all_goals exact ⟨_, rfl⟩

theorem execHaltClear_next (st : Nat) (s : State) :
    ∃ t, execHaltClear st s = .next t := by
  unfold execHaltClear
  dsimp only
  repeat' split
  all_goals exact ⟨_, rfl⟩

theorem execDispatchRound_next (s : State) (p : Nat) :
    ∃ t, execDispatchRound s p = .next t := by
  unfold execDispatchRound
  dsimp only
  repeat' split
  all_goals exact ⟨_, rfl⟩

theorem execStackDispatchGang_next (st : Nat) (s : State) :
    ∃ t, execStackDispatchGang st s = .next t := by
  unfold execStackDispatchGang
  repeat' split
  all_goals exact ⟨_, rfl⟩

theorem execReservationAttempt_next (r : Nat) (s : State) :
    ∃ t, execReservationAttempt r s = .next t := by
  unfold execReservationAttempt
  dsimp only
  repeat' split
  all_goals exact ⟨_, rfl⟩

theorem execReservationBackoffExpiry_next (r : Nat) (s : State) :
    ∃ t, execReservationBackoffExpiry r s = .next t := by
  unfold execReservationBackoffExpiry
  repeat' split
  all_goals exact ⟨_, rfl⟩

theorem execCompletionRecordWrite_next (l : Nat) (s : State) :
    ∃ t, execCompletionRecordWrite l s = .next t := by
  unfold execCompletionRecordWrite
  repeat' split
  all_goals exact ⟨_, rfl⟩

theorem execEngineCommandStart_next (c : Nat) (s : State) :
    ∃ t, execEngineCommandStart c s = .next t := by
  unfold execEngineCommandStart
  dsimp only
  repeat' split
  all_goals exact ⟨_, rfl⟩

theorem execEngineSourceRead_next (c : Nat) (s : State) :
    ∃ t, execEngineSourceRead c s = .next t := by
  unfold execEngineSourceRead
  repeat' split
  all_goals exact ⟨_, rfl⟩

theorem execEngineComplete_next (c : Nat) (s : State) :
    ∃ t, execEngineComplete c s = .next t := by
  unfold execEngineComplete
  repeat' split
  all_goals exact ⟨_, rfl⟩

theorem execCollChunkDelivered_next (c : Nat) (s : State) :
    ∃ t, execCollChunkDelivered c s = .next t := by
  unfold execCollChunkDelivered
  dsimp only
  repeat' split
  all_goals exact ⟨_, rfl⟩

theorem execMatrixOpStart_next (m : Nat) (s : State) :
    ∃ t, execMatrixOpStart m s = .next t := by
  unfold execMatrixOpStart
  repeat' split
  all_goals exact ⟨_, rfl⟩

theorem execMatrixFetchPageMiss_next (m : Nat) (s : State) :
    ∃ t, execMatrixFetchPageMiss m s = .next t := by
  unfold execMatrixFetchPageMiss
  dsimp only
  repeat' split
  all_goals exact ⟨_, rfl⟩

theorem execMatrixOpComplete_next (m : Nat) (x : SelfTest) (s : State) :
    ∃ t, execMatrixOpComplete m x s = .next t := by
  unfold execMatrixOpComplete
  dsimp only
  repeat' split
  all_goals exact ⟨_, rfl⟩

theorem execSelfTestPeriodic_next (st sub : Nat) (x : SelfTest) (s : State) :
    ∃ t, execSelfTestPeriodic st sub x s = .next t := by
  unfold execSelfTestPeriodic
  dsimp only
  repeat' split
  all_goals exact ⟨_, rfl⟩

theorem execKick_next (port q bytes v : Nat) (s : State) :
    ∃ t, execKick port q bytes v s = .next t := by
  unfold execKick
  dsimp only
  repeat' split
  all_goals exact ⟨_, rfl⟩

theorem execNotifyTimeInterrupt_next (ring : Nat) (s : State) :
    ∃ t, execNotifyTimeInterrupt ring s = .next t := by
  unfold execNotifyTimeInterrupt
  repeat' split
  all_goals exact ⟨_, rfl⟩

theorem execDependenceReread_next (l : Nat) (s : State) :
    ∃ t, execDependenceReread l s = .next t := by
  unfold execDependenceReread
  repeat' split
  all_goals exact ⟨_, rfl⟩

theorem execEvringWrite_next (st n v : Nat) (s : State) :
    ∃ t, execEvringWrite st n v s = .next t := by
  unfold execEvringWrite
  dsimp only
  repeat' split
  all_goals exact ⟨_, rfl⟩

theorem execSdmodeWrite_next (st v : Nat) (s : State) :
    ∃ t, execSdmodeWrite st v s = .next t := by
  unfold execSdmodeWrite
  repeat' split
  all_goals exact ⟨_, rfl⟩

theorem execSdmodeTakeEffect_next (st : Nat) (s : State) :
    ∃ t, execSdmodeTakeEffect st s = .next t := by
  unfold execSdmodeTakeEffect
  repeat' split
  all_goals exact ⟨_, rfl⟩

theorem execCpLoad_next (cp : Nat) (s : State) (done : Bool) :
    ∃ t, execCpLoad cp s done = .next t := by
  unfold execCpLoad
  dsimp only
  repeat' split
  all_goals exact ⟨_, rfl⟩

theorem execCpCastle_next (s : State) :
    ∃ t, execCpCastle s = .next t := by
  unfold execCpCastle
  repeat' split
  all_goals exact ⟨_, rfl⟩

theorem execCpPowerOff_next (s : State) :
    ∃ t, execCpPowerOff s = .next t := by
  unfold execCpPowerOff
  dsimp only
  repeat' split
  all_goals exact ⟨_, rfl⟩

theorem execCastlingImport_next (errors : Nat) (s : State) :
    ∃ t, execCastlingImport errors s = .next t := by
  unfold execCastlingImport
  dsimp only
  repeat' split
  all_goals exact ⟨_, rfl⟩

theorem execCastlingTimeout_next (s : State) :
    ∃ t, execCastlingTimeout s = .next t := by
  unfold execCastlingTimeout
  repeat' split
  all_goals exact ⟨_, rfl⟩

theorem execDrainBoundExpiry_next (ctx : Nat) (s : State) :
    ∃ t, execDrainBoundExpiry ctx s = .next t := by
  unfold execDrainBoundExpiry
  repeat' split
  all_goals exact ⟨_, rfl⟩

theorem execEvictBoundExpiry_next (ctx : Nat) (s : State) :
    ∃ t, execEvictBoundExpiry ctx s = .next t := by
  unfold execEvictBoundExpiry
  repeat' split
  all_goals exact ⟨_, rfl⟩

theorem execGangRestore_next (g st : Nat) (s : State) :
    ∃ t, execGangRestore g st s = .next t := by
  unfold execGangRestore
  dsimp only
  repeat' split
  all_goals exact ⟨_, rfl⟩

theorem execInvalidationAck_next (q st : Nat) (s : State) :
    ∃ t, execInvalidationAck q st s = .next t := by
  unfold execInvalidationAck
  dsimp only
  repeat' split
  all_goals exact ⟨_, rfl⟩

theorem execRebuildStep_next (st : Nat) (s : State) (errors : List (Nat × Nat)) :
    ∃ t, execRebuildStep st s errors = .next t := by
  unfold execRebuildStep
  dsimp only
  repeat' split
  all_goals exact ⟨_, rfl⟩

theorem execMapOutCopyStep_next (st : Nat) (s : State) (errors : List (Nat × Nat)) :
    ∃ t, execMapOutCopyStep st s errors = .next t := by
  unfold execMapOutCopyStep
  dsimp only
  repeat' split
  all_goals exact ⟨_, rfl⟩

theorem execPatrolScrub_next (st blk : Nat) (errors : List (Nat × Nat)) (s : State) :
    ∃ t, execPatrolScrub st blk errors s = .next t := by
  unfold execPatrolScrub
  dsimp only
  repeat' split
  all_goals exact ⟨_, rfl⟩

theorem execBankModeWrite_next (st cl bank v : Nat) (s : State) :
    ∃ t, execBankModeWrite st cl bank v s = .next t := by
  unfold execBankModeWrite
  repeat' split
  all_goals exact ⟨_, rfl⟩

theorem execBankModeChangeComplete_next (st cl bank : Nat) (s : State) :
    ∃ t, execBankModeChangeComplete st cl bank s = .next t := by
  unfold execBankModeChangeComplete
  repeat' split
  all_goals exact ⟨_, rfl⟩

theorem execPartitionEnable_next (st v : Nat) (s : State) :
    ∃ t, execPartitionEnable st v s = .next t := by
  unfold execPartitionEnable
  dsimp only
  repeat' split
  all_goals exact ⟨_, rfl⟩

theorem execScrubComplete_next (st aq desc : Nat) (s : State) :
    ∃ t, execScrubComplete st aq desc s = .next t := by
  unfold execScrubComplete
  dsimp only
  repeat' split
  all_goals exact ⟨_, rfl⟩

theorem execRingTransfer_next (src dst : Nat) (s : State) :
    ∃ t, execRingTransfer src dst s = .next t := by
  unfold execRingTransfer
  repeat' split
  all_goals exact ⟨_, rfl⟩

theorem execHostMemRequest_next (st : Nat) (wr own : Bool) (addr size data : Nat) (s : State) (poison : Bool) :
    ∃ t, execHostMemRequest st wr own addr size data s poison = .next t := by
  unfold execHostMemRequest
  dsimp only
  repeat' split
  all_goals exact ⟨_, rfl⟩

theorem execBackInvalidationResponse_next (st line : Nat) (dirty : Bool) (data : Nat) (s : State) (poison : Bool) :
    ∃ t, execBackInvalidationResponse st line dirty data s poison = .next t := by
  unfold execBackInvalidationResponse
  repeat' split
  all_goals exact ⟨_, rfl⟩

theorem execHostSnoop_next (st line : Nat) (inv : Bool) (s : State) (off size data : Nat) (poison : Bool) :
    ∃ t, execHostSnoop st line inv s off size data poison = .next t := by
  unfold execHostSnoop
  dsimp only
  repeat' split
  all_goals exact ⟨_, rfl⟩

theorem execLinkDown_next (st : Nat) (s : State) :
    ∃ t, execLinkDown st s = .next t := by
  unfold execLinkDown
  repeat' split
  all_goals exact ⟨_, rfl⟩

theorem execViralReceived_next (st : Nat) (s : State) :
    ∃ t, execViralReceived st s = .next t := by
  unfold execViralReceived
  repeat' split
  all_goals exact ⟨_, rfl⟩

theorem execCompletionTimeout_next (x : Outstanding) (s : State) :
    ∃ t, execCompletionTimeout x s = .next t := by
  unfold execCompletionTimeout
  repeat' split
  all_goals exact ⟨_, rfl⟩

theorem execRouteFreeze_next (st : Nat) (s : State) :
    ∃ t, execRouteFreeze st s = .next t := by
  unfold execRouteFreeze
  repeat' split
  all_goals exact ⟨_, rfl⟩

theorem execRouteUnfreeze_next (st retired : Nat) (s : State) :
    ∃ t, execRouteUnfreeze st retired s = .next t := by
  unfold execRouteUnfreeze
  dsimp only
  repeat' split
  all_goals exact ⟨_, rfl⟩

theorem execPtmExchange_next (st master : Nat) (s : State) :
    ∃ t, execPtmExchange st master s = .next t := by
  unfold execPtmExchange
  dsimp only
  repeat' split
  all_goals exact ⟨_, rfl⟩

theorem execPtmHoldoverTimeout_next (st : Nat) (s : State) :
    ∃ t, execPtmHoldoverTimeout st s = .next t := by
  unfold execPtmHoldoverTimeout
  dsimp only
  repeat' split
  all_goals exact ⟨_, rfl⟩

theorem execGovernorTick_next (st td tl : Nat) (s : State) :
    ∃ t, execGovernorTick st td tl s = .next t := by
  unfold execGovernorTick
  dsimp only
  repeat' split
  all_goals exact ⟨_, rfl⟩

theorem execBootLoadConfig_next (st : Nat) (s : State) (done : Bool) :
    ∃ t, execBootLoadConfig st s done = .next t := by
  unfold execBootLoadConfig
  dsimp only
  repeat' split
  all_goals exact ⟨_, rfl⟩

theorem execIdpubReceived_next (st : Nat) (s : State) :
    ∃ t, execIdpubReceived st s = .next t := by
  unfold execIdpubReceived
  repeat' split
  all_goals exact ⟨_, rfl⟩

theorem execIdpubTimeout_next (st : Nat) (s : State) :
    ∃ t, execIdpubTimeout st s = .next t := by
  unfold execIdpubTimeout
  dsimp only
  repeat' split
  all_goals exact ⟨_, rfl⟩

theorem execBootProduceQuote_next (st : Nat) (s : State) :
    ∃ t, execBootProduceQuote st s = .next t := by
  unfold execBootProduceQuote
  dsimp only
  repeat' split
  all_goals exact ⟨_, rfl⟩

theorem execQuoteWriteComplete_next (st : Nat) (ok : Bool) (s : State) :
    ∃ t, execQuoteWriteComplete st ok s = .next t := by
  unfold execQuoteWriteComplete
  dsimp only
  repeat' split
  all_goals exact ⟨_, rfl⟩

theorem execCapbaseWrite_next (st v : Nat) (s : State) :
    ∃ t, execCapbaseWrite st v s = .next t := by
  unfold execCapbaseWrite
  repeat' split
  all_goals exact ⟨_, rfl⟩

theorem execRegisterWrite_next (st off v : Nat) (s : State) :
    ∃ t, execRegisterWrite st off v s = .next t := by
  unfold execRegisterWrite
  repeat' split
  all_goals exact ⟨_, rfl⟩

theorem execSavedGangDeadline_next (g : Nat) (s : State) :
    ∃ t, execSavedGangDeadline g s = .next t := by
  unfold execSavedGangDeadline
  repeat' split
  all_goals exact ⟨_, rfl⟩

/-- Every event completes. -/
theorem exec_event {i : Instr} (s : State) (h : i.isWord = false) (hi : ∀ w, i ≠ .illegalInstruction w) :
    ∃ t, exec i s = .next t := by
  cases i with
  | handlerEntry => exact ⟨_, rfl⟩
  | joinRelease => exact ⟨_, rfl⟩
  | illegalInstruction w => exact absurd rfl (hi w)
  | fetchFault => exact ⟨_, rfl⟩
  | flagFall => exact execFlagFall_next ..
  | deadlineKill => exact execDeadlineKill_next ..
  | dispatcherFlagFall => exact execDispatcherFlagFall_next ..
  | waveRetire => exact ⟨_, rfl⟩
  | gangRetire => exact execGangRetire_next ..
  | yieldHoldExpiry => exact ⟨_, rfl⟩
  | issueAgePromotion => exact ⟨_, rfl⟩
  | parkWave => exact ⟨_, rfl⟩
  | recallWave => exact ⟨_, rfl⟩
  | watchdogExpiry => exact ⟨_, rfl⟩
  | loadReply => exact ⟨_, rfl⟩
  | storeAck => exact ⟨_, rfl⟩
  | matomPerform => exact execMatomPerform_next ..
  | mwaitRecheck => exact ⟨_, rfl⟩
  | mwaitTimeout => exact ⟨_, rfl⟩
  | haltLineArrival => exact execHaltLineArrival_next ..
  | haltClear => exact execHaltClear_next ..
  | dispatchRound => exact execDispatchRound_next ..
  | stackDispatchGang => exact execStackDispatchGang_next ..
  | reservationAttempt => exact execReservationAttempt_next ..
  | reservationBackoffExpiry => exact execReservationBackoffExpiry_next ..
  | poolRecordTake => exact ⟨_, rfl⟩
  | poolDrainFlush => exact ⟨_, rfl⟩
  | completionRecordWrite => exact execCompletionRecordWrite_next ..
  | engineCommandStart => exact execEngineCommandStart_next ..
  | engineSourceRead => exact execEngineSourceRead_next ..
  | engineComplete => exact execEngineComplete_next ..
  | collChunkDelivered => exact execCollChunkDelivered_next ..
  | matrixOpStart => exact execMatrixOpStart_next ..
  | matrixFetchPageMiss => exact execMatrixFetchPageMiss_next ..
  | matrixOpComplete => exact execMatrixOpComplete_next ..
  | selfTestPeriodic => exact execSelfTestPeriodic_next ..
  | kick => exact execKick_next ..
  | packetFetch => exact ⟨_, rfl⟩
  | markReread => exact ⟨_, rfl⟩
  | bodyCheckRetry => exact ⟨_, rfl⟩
  | launchPacket => exact ⟨_, rfl⟩
  | continuationPacket => exact ⟨_, rfl⟩
  | enginePacket => exact ⟨_, rfl⟩
  | waitPacket => exact ⟨_, rfl⟩
  | waitReread => exact ⟨_, rfl⟩
  | signalPacket => exact ⟨_, rfl⟩
  | graphPacket => exact ⟨_, rfl⟩
  | graphNodeStart => exact ⟨_, rfl⟩
  | notifyPacket => exact ⟨_, rfl⟩
  | notifyTakenReread => exact ⟨_, rfl⟩
  | notifyTimeInterrupt => exact execNotifyTimeInterrupt_next ..
  | dependenceReread => exact execDependenceReread_next ..
  | evringWrite => exact execEvringWrite_next ..
  | sdmodeWrite => exact execSdmodeWrite_next ..
  | sdmodeTakeEffect => exact execSdmodeTakeEffect_next ..
  | cpLoad => exact execCpLoad_next ..
  | cpCastle => exact execCpCastle_next ..
  | cpPowerOff => exact execCpPowerOff_next ..
  | castlingImport => exact execCastlingImport_next ..
  | castlingTimeout => exact execCastlingTimeout_next ..
  | createContext => exact ⟨_, rfl⟩
  | destroyContext => exact ⟨_, rfl⟩
  | registerQueue => exact ⟨_, rfl⟩
  | resetQueue => exact ⟨_, rfl⟩
  | preempt => exact ⟨_, rfl⟩
  | drainBoundExpiry => exact execDrainBoundExpiry_next ..
  | evictBoundExpiry => exact execEvictBoundExpiry_next ..
  | resume => exact ⟨_, rfl⟩
  | gangRestore => exact execGangRestore_next ..
  | invalidate => exact ⟨_, rfl⟩
  | invalidationAck => exact execInvalidationAck_next ..
  | resolve => exact ⟨_, rfl⟩
  | refuse => exact ⟨_, rfl⟩
  | migratePage => exact ⟨_, rfl⟩
  | rebuildChannel => exact ⟨_, rfl⟩
  | rebuildStep => exact execRebuildStep_next ..
  | beginLayerMapOut => exact ⟨_, rfl⟩
  | confirmLayerRemoval => exact ⟨_, rfl⟩
  | mapOutCopyStep => exact execMapOutCopyStep_next ..
  | patrolScrub => exact execPatrolScrub_next ..
  | bankModeWrite => exact execBankModeWrite_next ..
  | bankModeChangeComplete => exact execBankModeChangeComplete_next ..
  | partitionEnable => exact execPartitionEnable_next ..
  | scrubComplete => exact execScrubComplete_next ..
  | ringTransfer => exact execRingTransfer_next ..
  | hostMemRequest => exact execHostMemRequest_next ..
  | backInvalidationResponse => exact execBackInvalidationResponse_next ..
  | hostSnoop => exact execHostSnoop_next ..
  | linkDown => exact execLinkDown_next ..
  | viralReceived => exact execViralReceived_next ..
  | completionTimeout => exact execCompletionTimeout_next ..
  | routeFreeze => exact execRouteFreeze_next ..
  | routeUnfreeze => exact execRouteUnfreeze_next ..
  | ptmExchange => exact execPtmExchange_next ..
  | ptmHoldoverTimeout => exact execPtmHoldoverTimeout_next ..
  | governorTick => exact execGovernorTick_next ..
  | powerUp => exact ⟨_, rfl⟩
  | bootLoadConfig => exact execBootLoadConfig_next ..
  | idpubReceived => exact execIdpubReceived_next ..
  | idpubTimeout => exact execIdpubTimeout_next ..
  | bootProduceQuote => exact execBootProduceQuote_next ..
  | quoteWriteComplete => exact execQuoteWriteComplete_next ..
  | capbaseWrite => exact execCapbaseWrite_next ..
  | registerWrite => exact execRegisterWrite_next ..
  | savedGangDeadline => exact execSavedGangDeadline_next ..
  | linkUp => exact ⟨_, rfl⟩
  | _ => cases h

/-- The meaning of each word is one effect behind the checks of issue. -/
theorem exec_word {i : Instr} (s : State) (h : i.isWord = true) : ∃ effect, exec i s = issueWord i s effect := by
  cases i
  all_goals cases h
  all_goals exact ⟨_, rfl⟩

/-- The entry that is selected is in the frontier, ready, and not set aside (R154). -/
theorem selectEntry_spec {f : List Entry} {k : Nat} (h : selectEntry f = some k) :
    ∃ e, f[k]? = some e ∧ e.state = .ready ∧ e.aside = false := by
  unfold selectEntry at h
  refine List.foldlRecOn (motive := fun best =>
    ∀ b, best = some b → ∃ e, f[b]? = some e ∧ e.state = .ready ∧ e.aside = false) _ _ nofun ?_ k h
  intro best hbest p hp b hb
  by_cases hr : (p.2.state != .ready || p.2.aside) = true
  · simp only [hr, if_true] at hb
    exact hbest b hb
  · have hp' : ∃ e, f[p.1]? = some e ∧ e.state = .ready ∧ e.aside = false := by
      rw [List.mem_mapIdx] at hp
      obtain ⟨j, hj, rfl⟩ := hp
      exact ⟨f[j], List.getElem?_eq_getElem hj, by simpa using hr⟩
    have : some b = some p.1 ∨ best = some b := by
      revert hb
      simp only [hr, Bool.false_eq_true, if_false]
      repeat' split
      all_goals simp_all
    rcases this with hb | hb
    · cases hb; exact hp'
    · exact hbest b hb

/-- A wave in its place after it is put there. -/
theorem aget_setWave_gangs {s : State} {g w : Nat} {v wave : Wave} {gang : Gang} (hg : aget s.gangs g = some gang)
    (hw : gang.waves[w]? = some wave) :
    ∃ gang', aget (s.setWave g w v).gangs g = some gang' ∧ gang'.waves[w]? = some v ∧
      gang' = { gang with waves := gang.waves.modify w (fun _ => v) } :=
  ⟨{ gang with waves := gang.waves.modify w (fun _ => v) }, by simp [State.setWave, State.modWave, hg], by simp [hw], rfl⟩

/-- What a stack's change leaves of a stack is the same in every stack. -/
theorem State.modStack_stack_of {α : Type} {f : Stack → Stack} {p : Stack → α} (hf : ∀ t, p (f t) = p t) (s : State)
    (st k : Nat) : p ((s.modStack st f).stack k) = p (s.stack k) := by
  simp only [State.stack, State.modStack, List.getD_eq_getElem?_getD, List.getElem?_modify]
  split
  · cases s.stackTab[k]? <;> simp [hf]
  · simp

/-- A fetch changes nothing but caches. -/
theorem State.fetched_rest (s : State) (gang : Gang) (wave : Wave) (pc : W64) :
    (s.fetched gang wave pc).gangs = s.gangs ∧ (s.fetched gang wave pc).launches = s.launches ∧
    (s.fetched gang wave pc).contexts = s.contexts ∧ (s.fetched gang wave pc).partitions = s.partitions := by
  unfold State.fetched
  dsimp only
  split <;> exact ⟨rfl, rfl, rfl, rfl⟩

theorem State.fetched_haltArrived (s : State) (gang : Gang) (wave : Wave) (pc : W64) (st : Nat) :
    ((s.fetched gang wave pc).stack st).haltArrived = (s.stack st).haltArrived := by
  unfold State.fetched
  dsimp only
  split
  · refine (State.modStack_stack_of (p := Stack.haltArrived) (fun t => ?_) _ _ _).trans ?_
    · split <;> rfl
    · obtain ⟨_, hst⟩ := (fillTlb_caches s (s.ctxOf gang) gang.stack (some wave.coreId) pc.toNat _ _).2 st
      rw [hst]
  · rfl

/-- Whether a wave may issue turns on its gang's place, on the halt line and on its context alone. -/
theorem State.waveRuns_congr {s t : State} {g w : Nat} {x y : Gang} {v u : Wave}
    (hs : (t.stack y.stack).haltArrived = (s.stack x.stack).haltArrived) (hp : t.partitions = s.partitions)
    (hc : t.contexts = s.contexts) (hl : t.launches = s.launches) (hx : y.state = x.state) (hy : y.launch = x.launch)
    (hr : u.retired = v.retired) (hk : u.parked = v.parked) : t.waveRuns g w y u = s.waveRuns g w x v := by
  simp only [State.waveRuns, State.faulted, State.evicting, State.ctxOf, hs, hp, hc, hl, hx, hy, hr, hk]

/-- The issuing entry, where `cur` names one that may issue. -/
theorem State.issuing_of {t : State} {g w k : Nat} {gang : Gang} {wave : Wave} {e : Entry} (hc : t.cur = some (g, w, k))
    (hg : aget t.gangs g = some gang) (hw : gang.waves[w]? = some wave) (hk : wave.core.frontier[k]? = some e)
    (hready : e.state = .ready) (haside : e.aside = false) (hr : t.waveRuns g w gang wave = true) :
    t.issuing = some ⟨g, w, k, gang, wave, e, e.active, false, false⟩ := by
  simp [State.issuing, hc, hg, hw, hk, hready, haside, hr]

/-- The move of a wave that issues names the entry that issues. -/
theorem State.fetched_issuing {s : State} {g w k : Nat} {gang : Gang} {wave : Wave} {e : Entry} {core : WaveCore}
    (hg : aget s.gangs g = some gang) (hw : gang.waves[w]? = some wave) (hr : s.waveRuns g w gang wave = true)
    (hk : core.frontier[k]? = some e) (hs : selectEntry core.frontier = some k) :
    ∃ c, State.issuing { (s.setWave g w { wave with core := core }).fetched gang wave e.pc with cur := some (g, w, k) } =
      some c := by
  obtain ⟨e', he', hready, haside⟩ := selectEntry_spec hs
  obtain rfl : e = e' := Option.some.inj (hk.symm.trans he')
  obtain ⟨gang', hg', hw', rfl⟩ := aget_setWave_gangs (v := { wave with core := core }) hg hw
  obtain ⟨hgs, hls, hcs, hps⟩ := (s.setWave g w { wave with core := core }).fetched_rest gang wave e.pc
  refine ⟨_, State.issuing_of rfl (by rw [hgs, hg']) hw' hk hready haside ?_⟩
  rw [← hr]
  exact State.waveRuns_congr (State.fetched_haltArrived ..) hps hcs hls rfl rfl rfl rfl

/-- With an entry that issues, a word has a next state. -/
theorem issueWord_next {i : Instr} {s : State} {effect : Issue → State} {c : Issue} (h : s.issuing = some c) :
    ∃ t, issueWord i s effect = .next t := by
  have hd : decideIssue i s ≠ .absent := by
    unfold decideIssue Issue.unlessSpec
    simp only [h]
    repeat' split
    all_goals exact Decision.noConfusion
  unfold issueWord
  split
  · exact absurd ‹_› hd
  all_goals exact ⟨_, rfl⟩

theorem exec_next_of_issuing {i : Instr} {s : State} {c : Issue} (h : s.issuing = some c) : ∃ t, exec i s = .next t := by
  cases hi : i.isWord with
  | true =>
    obtain ⟨effect, he⟩ := exec_word s hi
    rw [he]
    exact issueWord_next h
  | false =>
    by_cases hill : ∃ w, i = .illegalInstruction w
    · obtain ⟨w, rfl⟩ := hill
      exact issueWord_next h
    · exact exec_event s hi (not_exists.1 hill)

/-- What a wave does at its boundary has a next state. -/
theorem State.waveMove_next {s t : State} {g w : Nat} {i : Instr} (h : s.waveMove g w = some (i, t)) :
    ∃ u, exec i t = .next u := by
  unfold State.waveMove at h
  split at h
  · cases h
  next gang hg =>
  split at h
  · cases h
  next wave hw =>
  dsimp only at h
  split at h
  · cases h
  split at h
  · cases h; exact exec_event _ rfl nofun
  split at h
  · cases h; exact exec_event _ rfl nofun
  split at h
  next k hs =>
    split at h
    · cases h
    next hr =>
      rw [Option.map_eq_some_iff] at h
      obtain ⟨e, he, hit⟩ := h
      cases hit
      obtain ⟨c, hc⟩ := State.fetched_issuing hg hw (by simp_all) he hs
      exact exec_next_of_issuing hc
  · split at h
    · cases h; exact exec_event _ rfl nofun
    · cases h

theorem isEvent_next {i : Instr} {s : State} (h : isEvent i = true) : ∃ t, exec i s = .next t := by
  unfold isEvent at h
  split at h
  · cases h
  · next hi => exact exec_event s (by simpa using h) hi

/-- What is urgent is an event. -/
theorem State.urgent_next {s : State} {i : Instr} (h : s.urgent = some i) : ∃ t, exec i s = .next t := by
  unfold State.urgent at h
  obtain ⟨p, -, hp⟩ := List.exists_of_findSome?_eq_some h
  split at hp
  · cases hp; exact exec_event s rfl nofun
  · obtain ⟨st, -, hst⟩ := List.exists_of_findSome?_eq_some hp
    split at hst
    · cases hst; exact exec_event s rfl nofun
    split at hst
    · cases hst; exact exec_event s rfl nofun
    · cases hst

/-- What comes next has a next state. -/
theorem State.nextMove_next {s t : State} {i : Instr} (h : s.nextMove = some (i, t)) : ∃ u, exec i t = .next u := by
  unfold State.nextMove at h
  split at h
  · exact State.waveMove_next h
  split at h
  next hd =>
    cases h
    unfold State.dueRelease at hd
    obtain ⟨p, -, hp⟩ := List.exists_of_findSome?_eq_some hd
    exact State.waveMove_next hp
  split at h
  next hl =>
    cases h
    have : i ∈ s.agenda.filter isEvent := hl ▸ List.mem_cons_self
    exact isEvent_next (List.mem_filter.1 this).2
  split at h
  next hu =>
    cases h
    exact State.urgent_next hu
  · dsimp only at h
    have hx := List.mem_of_getElem? h
    rw [List.mem_append] at hx
    rcases hx with hx | hx
    · unfold State.waveMoves at hx
      obtain ⟨p, -, hp⟩ := List.mem_filterMap.1 hx
      exact State.waveMove_next hp
    · obtain ⟨j, hj, he⟩ := List.mem_map.1 hx
      cases he
      exact isEvent_next (Option.filter_eq_some_iff.1 (Option.mem_toList.1 hj)).2

end Sys2Proof.Machine

namespace Sys2Proof

/-- Settles O36: whatever the next move is, its meaning has a next state; a word is a wave's move, made from an entry
that may issue. -/
theorem stepNeverStops : Obligations.StepNeverStops := by
  unfold Obligations.StepNeverStops
  refine ⟨fun s => ?_, fun _ s h hi => Machine.exec_event s h hi⟩
  unfold Machine.step
  split
  · exact ⟨_, rfl⟩
  next i t hm =>
    obtain ⟨u, hu⟩ := Machine.State.nextMove_next hm
    exact ⟨u.endStep, by rw [hu]⟩

end Sys2Proof
end

section
/-! SUPPORT. Compares, carry chains and immediates (chapter 05): their arithmetic in the terms of the statements. -/
namespace Sys2Proof.Machine

/-! ### Compares (R123) -/

theorem holds_signed {w : Nat} (k : Cond) (x y : BitVec w) : holds false k x y = (match k with
    | .eq => decide (x = y) | .ne => decide (x ≠ y)
    | .lt => decide (x.toInt < y.toInt) | .le => decide (x.toInt ≤ y.toInt)
    | .gt => decide (y.toInt < x.toInt) | .ge => decide (y.toInt ≤ x.toInt)) := by
  rw [Bool.eq_iff_iff]
  cases k <;> simp [holds, lessThan_signed, ← Bool.not_eq_true]

theorem holds_unsigned {w : Nat} (k : Cond) (x y : BitVec w) : holds true k x y = (match k with
    | .eq => decide (x = y) | .ne => decide (x ≠ y)
    | .lt => decide (x.toNat < y.toNat) | .le => decide (x.toNat ≤ y.toNat)
    | .gt => decide (y.toNat < x.toNat) | .ge => decide (y.toNat ≤ x.toNat)) := by
  rw [Bool.eq_iff_iff]
  cases k <;> simp [holds, lessThan_unsigned, ← Bool.not_eq_true]

/-- The law of `lanePred`, where its predicate is g. -/
theorem lanePred_gives_of {i : Instr} {s : State} {c : Issue} (h : Executes i s c) {q : BitVec 4}
    {f m : Issue → Nat → Lane → Bool} {g : Nat → Lane → Bool} (e : exec i s = lanePred i q f m s)
    (hf : ∀ n l, f c n l = g n l) : GivesPred i s c q g (m c) := by
  have hg : f c = g := funext fun n => funext (hf n)
  exact hg ▸ lanePred_gives h e

/-! ### Carry chains (R121) -/

/-- Taking a result leaves the predicates. -/
theorem Issue.take_pred (c : Issue) (nw wide : Bool) (d : Reg) (v : W64) (m : Bool) (l : Lane) (r : BitVec 4) :
    (c.take nw wide d v m l).pred r = l.pred r ∧ (c.take nw wide d v m l).predMark r = l.predMark r := by
  cases hq : c.quiet <;> cases nw <;> cases wide <;>
    simp [Issue.take, hq, Lane.put, Lane.put64, Lane.put32, Lane.pushLatch, Lane.pred, Lane.predMark]

/-- The law of `carryChain`, for an exact sum t whose low 32 bits are v and which leaves 32 bits when k says so. -/
theorem carryChain_gives {i : Instr} {s : State} {c : Issue} {p : BitVec 4} {nw : Bool} {d a b : Reg}
    {t : Int → Int → Int → Int} (h : Executes i s c) (e : exec i s = carryChain i p nw d a b t s)
    {v : Lane → W32} {k : Lane → Bool}
    (hv : ∀ l : Lane, BitVec.ofInt 32 (t (l.src32 a).toNat (l.src32 b).toNat (if l.pred p then 1 else 0)) = v l)
    (hk : ∀ l : Lane, (decide (t (l.src32 a).toNat (l.src32 b).toNat (if l.pred p then 1 else 0) < 0) ||
      decide (2 ^ 32 ≤ t (l.src32 a).toNat (l.src32 b).toNat (if l.pred p then 1 else 0))) = k l) :
    ∃ lanes, Completes i s c { c.wave.core with lanes := lanes, latchCount := c.latchesAfter } ∧
      LaneWise c.wave.core.lanes lanes (fun n l l' =>
        if c.on n then
          ∃ m, Took c nw false d ((v l).setWidth 64) (l.marked a 1 || l.marked b 1 || l.predMark p) l m ∧
            l' = { m with preds := l'.preds, predMarks := l'.predMarks } ∧
            (∀ r, r ≠ p → l'.pred r = l.pred r ∧ l'.predMark r = l.predMark r) ∧
            (p ≠ 0 → l'.pred p = k l ∧ l'.predMark p = (l.marked a 1 || l.marked b 1 || l.predMark p))
        else if c.masked n then l' = c.keep nw false d l
        else l' = l) := by
  have h1 := e.trans (issueWord_go h _)
  simp only [hv, hk] at h1
  refine ⟨_, h1, ?_⟩
  rw [Issue.valued]
  dsimp only [WaveCore.mapLanes]
  rw [List.mapIdx_mapIdx]
  refine mapIdx_laneWise _ _ _ fun n l hl => ?_
  simp only [Function.comp, WaveCore.lane_of hl]
  cases hn : c.on n
  · by_cases hm : c.masked n = true <;> simp [hm]
  · obtain ⟨hrest, hother, hsame⟩ := (c.take nw false d ((v l).setWidth 64)
      (l.marked a 1 || l.marked b 1 || l.predMark p) l).putPred_law p (k l)
      (l.marked a 1 || l.marked b 1 || l.predMark p)
    refine ⟨_, c.take_took .., hrest, fun r hr => ?_, hsame⟩
    obtain ⟨h2, h3⟩ := hother r hr
    obtain ⟨hp, hm⟩ := c.take_pred nw false d ((v l).setWidth 64) (l.marked a 1 || l.marked b 1 || l.predMark p) l r
    exact ⟨h2.trans hp, h3.trans hm⟩

/-! ### Immediates (R119) -/

theorem signExtend_mul {w v : Nat} (j : BitVec w) (n : Nat) :
    j.signExtend v * BitVec.ofNat v n = BitVec.ofInt v (j.toInt * n) := by
  rw [BitVec.ofInt_mul, BitVec.ofInt_natCast]
  rfl

end Sys2Proof.Machine
end

section
/-! SUPPORT. The statements about compares, carry chains and immediates. -/
namespace Sys2Proof.Machine

/-- Settles O7: the bitwise words and the additions are those of `BitVec`; LUI's product is exact before it wraps. -/
theorem logicAndImmediates : Obligations.LogicAndImmediates := fun _ _ _ _ _ j =>
  ⟨binary32_of (fun _ _ => rfl) (fun _ => rfl),
    binary32_of (fun _ _ => rfl) (fun _ => rfl),
    binary32_of (fun _ _ => rfl) (fun _ => rfl),
    binary64_of (fun _ _ => rfl) (fun _ => rfl),
    binary64_of (fun _ _ => rfl) (fun _ => rfl),
    binary64_of (fun _ _ => rfl) (fun _ => rfl),
    binaryU_of (fun _ _ => rfl) (fun _ => rfl),
    binaryU_of (fun _ _ => rfl) (fun _ => rfl),
    binaryU_of (fun _ _ => rfl) (fun _ => rfl),
    mixed64_of (fun _ _ => rfl) (fun _ => rfl),
    mixed64_of (fun _ _ => rfl) (fun _ => rfl),
    unary32_of (fun _ => rfl) (fun _ => rfl),
    unary32_of (fun _ => rfl) (fun _ => rfl),
    unary32_of (fun _ => rfl) (fun _ => rfl),
    unary32_of (fun _ => rfl) (fun _ => rfl),
    fun _ _ h => signExtend_mul j 4096 ▸ lane32_gives h rfl,
    fun _ _ h => lane32_gives h rfl,
    unaryU_of (fun _ => rfl) (fun _ => rfl),
    fun _ _ h => uniform64_gives h rfl,
    fun _ _ h => signExtend_mul j 4096 ▸ uniform64_gives h rfl⟩

/-- Settles O8: a condition is decided on the numbers that the type reads, and the logic words are Boolean. -/
theorem comparesAndPredicates : Obligations.ComparesAndPredicates := fun k q p r x y a b i =>
  ⟨fun s _ h => lanePred_gives_of h (rfl : exec _ s = execCmp false k q a b s) (fun _ _ => holds_signed ..),
    fun s _ h => lanePred_gives_of h (rfl : exec _ s = execCmp64 false k q a b s) (fun _ _ => holds_signed ..),
    fun s _ h => lanePred_gives_of h (rfl : exec _ s = execCmpi i false k q a s) (fun _ _ => holds_signed ..),
    fun s _ h => lanePred_gives_of h (rfl : exec _ s = execCmp true k q a b s) (fun _ _ => holds_unsigned ..),
    fun s _ h => lanePred_gives_of h (rfl : exec _ s = execCmp64 true k q a b s) (fun _ _ => holds_unsigned ..),
    fun s _ h => lanePred_gives_of h (rfl : exec _ s = execCmpi i true k q a s) (fun _ _ => holds_unsigned ..),
    fun s _ h => lanePred_gives h (rfl : exec _ s = execPand q x p y r s),
    fun s _ h => lanePred_gives h (rfl : exec _ s = execPor q x p y r s),
    fun s _ h => lanePred_gives h (rfl : exec _ s = execPxor q x p y r s),
    fun s _ h => lanePred_gives h (rfl : exec _ s = execPnot q x p s),
    fun s _ h => lanePred_gives h (rfl : exec _ s = execPmov q x p s)⟩

/-- Settles O10: the exact sum or difference of a carry chain wraps, and its carry says that it left 32 bits. -/
theorem carryChainsAndSelection : Obligations.CarryChainsAndSelection := by
  intro nw z d a b p
  refine ⟨fun s c h => ?_, fun s c h => ?_, fun s c h => lane32_gives h rfl, fun s c h => lane64_gives h rfl,
    fun s c h => ?_⟩
  · refine carryChain_gives h (rfl : exec _ s = execAddc p nw d a b s) (fun l => ?_) (fun l => ?_)
    · simp only [BitVec.ofInt_add, BitVec.ofInt_natCast, BitVec.ofNat_toNat, BitVec.setWidth_eq]
      split <;> rfl
    · rw [Bool.eq_iff_iff]
      split <;> simp only [Bool.or_eq_true, decide_eq_true_eq] <;> omega
  · refine carryChain_gives h (rfl : exec _ s = execSubc p nw d a b s) (fun l => ?_) (fun l => ?_)
    · simp only [Int.sub_eq_add_neg, BitVec.ofInt_add, BitVec.ofInt_neg, BitVec.ofInt_natCast, BitVec.ofNat_toNat,
        BitVec.setWidth_eq, BitVec.sub_eq_add_neg]
      split <;> rfl
    · have ha := (l.src32 a).isLt
      rw [Bool.eq_iff_iff]
      split <;> simp only [Bool.or_eq_true, decide_eq_true_eq] <;> omega
  · exact valued_gives ((rfl : exec _ s = execMovFromUniform nw d a z s).trans (issueWord_go h _))

end Sys2Proof.Machine
end

section
/-! SUPPORT. The floating-point words (chapter 06): their results in the terms of the statements. -/
namespace Sys2Proof.Machine

/-- The law of `fpLane`, where its results are `out`. -/
theorem fpLane_gives_of {i : Instr} {nw wide : Bool} {d : Reg} {f out : Lane → FpOut} {m mark : Lane → Bool}
    (e : ∀ s, exec i s = fpLane i nw wide d f m s) (hi : stallClass i = false) (hf : ∀ l, f l = out l)
    (hm : ∀ l, m l = mark l) : FloatWord i nw wide d out mark := by
  obtain rfl : f = out := funext hf
  obtain rfl : m = mark := funext hm
  exact fpLane_gives e hi

/-- The law of `fpQuiet`. -/
theorem fpQuiet_gives {i : Instr} {s : State} {c : Issue} {nw wide : Bool} {d : Reg} {f v : Lane → W64} {m : Lane → Bool}
    (h : Executes i s c) (e : exec i s = fpQuiet i nw wide d f m s) (hf : ∀ l, f l = v l) :
    GivesValue i s c nw wide d (fun _ l => v l) (fun _ l => m l) := by
  obtain rfl : f = v := funext hf
  exact valued_gives (e.trans (issueWord_go h _))

/-! ### Packed halves (R146) -/

theorem half_low (v : W32) : (v.extractLsb' (16 * 0) 16).toNat = v.toNat % 65536 := by
  simp

theorem half_high (v : W32) : (v.extractLsb' (16 * 1) 16).toNat = v.toNat / 65536 := by
  have := v.isLt
  simp [Nat.shiftRight_eq_div_pow]
  omega

/-- Two halves side by side. -/
theorem ofNat_halves (x y : Nat) :
    BitVec.ofNat 64 (x % 65536 + 65536 * (y % 65536)) = (BitVec.ofNat 16 y ++ BitVec.ofNat 16 x).setWidth 64 := by
  apply BitVec.eq_of_toNat_eq
  have hx := Nat.mod_lt x (show 0 < 65536 by decide)
  have hy := Nat.mod_lt y (show 0 < 65536 by decide)
  rw [BitVec.toNat_setWidth, BitVec.toNat_append, BitVec.toNat_ofNat, BitVec.toNat_ofNat, BitVec.toNat_ofNat,
    ← Nat.shiftLeft_add_eq_or_of_lt (by simpa using hx), Nat.shiftLeft_eq]
  omega

/-- A packed word whose function of the halves is f. -/
theorem fpPacked_out (f : Nat → Nat → Nat → Res) (l : Lane) (x y z : W32) :
    fpOut l (packed f x y z) =
      (let half := fun (v : W32) (k : Nat) => (v.extractLsb' (16 * k) 16).toNat
       let r := fun k => f (half x k) (half y k) (half z k)
       ⟨(BitVec.ofNat 16 (r 1).bits ++ BitVec.ofNat 16 (r 0).bits).setWidth 64, (r 0).exc ||| (r 1).exc, l.seed⟩) := by
  simp only [fpOut, packed, half_low, half_high, ofNat_halves]

/-- The law of a packed binary word. -/
theorem fpPacked_gives {i : Instr} {nw : Bool} {d a b : Reg} {f : Nat → Nat → Res} (hi : stallClass i = false)
    (e : ∀ s, exec i s = fpPacked i nw d a b f s) : FloatPacked i nw d a b false (fun x y _ => f x y) :=
  fpLane_gives_of e hi (fun l => fpPacked_out (fun x y _ => f x y) l (l.src32 a) (l.src32 b) 0)
    (fun l => by simp)

/-! ### Sign bits (R143) -/

/-- A widened word keeps, of a mask, its low half. -/
theorem widen_and (x : W32) (m : W64) : x.setWidth 64 &&& m = (x &&& m.setWidth 32).setWidth 64 := by
  apply BitVec.eq_of_getLsbD_eq
  intro i hi
  simp only [BitVec.getLsbD_and, BitVec.getLsbD_setWidth]
  by_cases h : i < 32
  · simp [h, hi]
  · simp [BitVec.getLsbD_of_ge x i (by omega)]

theorem widen_xor (x m : W32) : x.setWidth 64 ^^^ m.setWidth 64 = (x ^^^ m).setWidth 64 := BitVec.setWidth_xor.symm

theorem or_eq_or {w : Nat} {x y u v : BitVec w} (h : x = u) (h' : y = v) : x ||| y = u ||| v := by rw [h, h']

theorem widen_or (x y : W32) : x.setWidth 64 ||| y.setWidth 64 = (x ||| y).setWidth 64 := BitVec.setWidth_or.symm

/-! ### FCMP (R145) -/

/-- What a lane that does not trap becomes at FCMP. -/
def Lane.compared (q : BitVec 4) (out : Bool × Exc) (mark : Bool) (l : Lane) : Lane :=
  { l.putPred q out.1 mark with xflags := l.xflags ||| out.2 }

theorem Lane.compared_law (l : Lane) (q : BitVec 4) (out : Bool × Exc) (mark : Bool) :
    l.compared q out mark = { l with
      preds := (l.compared q out mark).preds, predMarks := (l.compared q out mark).predMarks
      xflags := l.xflags ||| out.2 } ∧
    (∀ p : BitVec 4, p ≠ q → (l.compared q out mark).pred p = l.pred p ∧
      (l.compared q out mark).predMark p = l.predMark p) ∧
    (q ≠ 0 → (l.compared q out mark).pred q = out.1 ∧ (l.compared q out mark).predMark q = mark) := by
  obtain ⟨hrest, hother, hsame⟩ := l.putPred_law q out.1 mark
  refine ⟨?_, hother, hsame⟩
  unfold Lane.compared
  rw [hrest]

/-! ### PACK4 (R150) -/

/-- Four bytes, the first the least significant, as one word. -/
theorem ofNat_bytes (x y z w : Nat) :
    BitVec.ofNat 64 (x % 256 + 256 * (y % 256 + 256 * (z % 256 + 256 * (w % 256 + 256 * 0)))) =
      (BitVec.ofNat 8 w ++ BitVec.ofNat 8 z ++ BitVec.ofNat 8 y ++ BitVec.ofNat 8 x).setWidth 64 := by
  have hx := Nat.mod_lt x (show 0 < 256 by decide)
  have hy := Nat.mod_lt y (show 0 < 256 by decide)
  have hz := Nat.mod_lt z (show 0 < 256 by decide)
  have hw := Nat.mod_lt w (show 0 < 256 by decide)
  apply BitVec.eq_of_toNat_eq
  simp only [BitVec.toNat_setWidth, BitVec.toNat_append, BitVec.toNat_ofNat]
  rw [← Nat.shiftLeft_add_eq_or_of_lt (by simpa using hx), ← Nat.shiftLeft_add_eq_or_of_lt (by simpa using hy),
    ← Nat.shiftLeft_add_eq_or_of_lt (by simpa using hz)]
  simp only [Nat.shiftLeft_eq]
  omega

/-- A draw of each of the four conversions, or none. -/
theorem drawFor_repeat (r : Rounding) (seed : W32) (k : Nat) :
    drawFor r (if r = .rs then Nat.repeat xorshift (k + 1) seed else seed) =
      if r = .rs then Nat.repeat xorshift (k + 2) seed else seed := by
  unfold drawFor
  split <;> rfl

/-- PACK4's loop over a quad. -/
theorem pack_quad (y : NumTy) (r : Rounding) (l : Lane) (a : Reg) :
    (let q := pack y r l.seed (l.quad a); (⟨BitVec.ofNat 64 q.1.bits, q.1.exc, q.2⟩ : FpOut)) =
      (let seed := fun (k : Nat) => if r = .rs then Nat.repeat xorshift (k + 1) l.seed else l.seed
       let v := fun (k : Nat) =>
         convert y .f32 r (seed k).toNat (Sparse.get 0 l.regs (l.winbase.toNat + a.toNat + k)).toNat
       ⟨(BitVec.ofNat 8 (v 3).bits ++ BitVec.ofNat 8 (v 2).bits ++ BitVec.ofNat 8 (v 1).bits ++
           BitVec.ofNat 8 (v 0).bits).setWidth 64,
         (v 0).exc ||| (v 1).exc ||| (v 2).exc ||| (v 3).exc, seed 3⟩) := by
  have h0 : drawFor r l.seed = if r = .rs then Nat.repeat xorshift (0 + 1) l.seed else l.seed := rfl
  have hquad : l.quad a = [Sparse.get 0 l.regs (l.winbase.toNat + a.toNat + 0),
      Sparse.get 0 l.regs (l.winbase.toNat + a.toNat + 1), Sparse.get 0 l.regs (l.winbase.toNat + a.toNat + 2),
      Sparse.get 0 l.regs (l.winbase.toNat + a.toNat + 3)] := by
    simp [Lane.quad, Lane.arch, List.range_succ, Nat.add_assoc]
  simp only [hquad, pack, h0, drawFor_repeat, ofNat_bytes]
  simp [BitVec.or_assoc]

end Sys2Proof.Machine
end

section
/-! SUPPORT. The statements about the floating-point words. -/
namespace Sys2Proof.Machine

/-- Settles O11: each word is the law of `fpLane` for its function; the exact ones round one exact result. -/
theorem floatArithmeticAndFunctions : Obligations.FloatArithmeticAndFunctions := fun t r nw d a b =>
  ⟨fpLane_gives (fun _ => rfl) rfl, fpLane_gives (fun _ => rfl) rfl, fpLane_gives (fun _ => rfl) rfl,
    fpLane_gives (fun _ => rfl) rfl, fpLane_gives (fun _ => rfl) rfl, fpLane_gives (fun _ => rfl) rfl,
    fpLane_gives (fun _ => rfl) rfl, fpLane_gives (fun _ => rfl) rfl, fpLane_gives (fun _ => rfl) rfl,
    fpLane_gives (fun _ => rfl) rfl, fpLane_gives (fun _ => rfl) rfl, fpLane_gives (fun _ => rfl) rfl,
    fpPacked_gives rfl (fun _ => rfl), fpPacked_gives rfl (fun _ => rfl),
    fpLane_gives_of (fun _ => rfl) rfl
      (fun l => fpPacked_out ((fmtOfHalf t).fma r.rounding false) l (l.src32 a) (l.src32 b) (l.src32 d))
      (fun l => by simp),
    fpLane_gives (fun _ => rfl) rfl, fpLane_gives (fun _ => rfl) rfl, fpLane_gives (fun _ => rfl) rfl,
    fpLane_gives (fun _ => rfl) rfl, fpLane_gives (fun _ => rfl) rfl, fpLane_gives (fun _ => rfl) rfl,
    fpLane_gives (fun _ => rfl) rfl, fpLane_gives (fun _ => rfl) rfl, fpLane_gives (fun _ => rfl) rfl,
    fpLane_gives (fun _ => rfl) rfl, fpLane_gives (fun _ => rfl) rfl, fpLane_gives (fun _ => rfl) rfl⟩

/-- Settles O12: the chosen operand is a function of both; the sign words are bitwise on one register or on a pair. -/
theorem floatSelection : Obligations.FloatSelection := fun t nw d a b =>
  ⟨fpLane_gives (fun _ => rfl) rfl, fpLane_gives (fun _ => rfl) rfl, fpLane_gives (fun _ => rfl) rfl,
    fpLane_gives (fun _ => rfl) rfl, fpPacked_gives rfl (fun _ => rfl), fpPacked_gives rfl (fun _ => rfl),
    fun s _ h => fpQuiet_gives h (rfl : exec _ s = execFabs false nw d a s) (fun l => widen_and (l.src32 a) _),
    fun s _ h => fpQuiet_gives h (rfl : exec _ s = execFabs true nw d a s) (fun _ => rfl),
    fun s _ h => fpQuiet_gives h (rfl : exec _ s = execFneg false nw d a s) (fun l => widen_xor (l.src32 a) 0x80000000),
    fun s _ h => fpQuiet_gives h (rfl : exec _ s = execFneg true nw d a s) (fun _ => rfl),
    fun s _ h => fpQuiet_gives h (rfl : exec _ s = execFcpys false nw d a b s) (fun l =>
      (or_eq_or (widen_and (l.src32 a) _) (widen_and (l.src32 b) _)).trans (widen_or _ _)),
    fun s _ h => fpQuiet_gives h (rfl : exec _ s = execFcpys true nw d a b s) (fun _ => rfl),
    fun s _ h => fpQuiet_gives h (rfl : exec _ s = execFclass t nw d a s) (fun _ => rfl),
    fun s _ h => fpQuiet_gives h (rfl : exec _ s = execFext t nw d a s) (fun _ => rfl)⟩

/-- Settles O13: as for the value-producing words, with the lanes that trap left out of the write of the predicate. -/
theorem floatCompare : Obligations.FloatCompare := by
  intro t k q a b s c h
  extract_lets out took
  have h1 : exec (.fcmp t k q a b) s = .next (c.finish (.fcmp t k q a b) s s
      (c.wave.core.mapLanes (fun n l => if c.on n && !has (c.fpTraps (fun l => (out l).2)) n then
        l.compared q (out l) (l.markOf t a || l.markOf t b) else l))
      (c.fpTraps (fun l => (out l).2)) (fun n => causeArithmetic (out (c.wave.core.lane n)).2) c.entry.pc) :=
    issueWord_go h _
  have htook : ∀ l : Lane, took l (l.compared q (out l) (l.markOf t a || l.markOf t b)) := fun l => l.compared_law q _ _
  refine ⟨fun hn => ?_, fun ⟨n, hn⟩ => ?_, fun ⟨n, hn⟩ hs hh => ?_⟩
  · have h0 : c.fpTraps (fun l => (out l).2) = 0 := mask_eq_zero _ fun n => by rw [c.has_fpTraps, hn]
    rw [h0, c.finish_none] at h1
    refine ⟨_, h1, mapIdx_laneWise _ _ _ fun n l hl => ?_⟩
    cases ho : c.on n
    · simp
    · simp only [has, BitVec.ofNat_eq_ofNat, BitVec.getLsbD_zero, Bool.not_false, Bool.and_self, if_true]
      exact htook l
  · have h0 : c.fpTraps (fun l => (out l).2) ≠ 0 := mask_ne_zero n (by rw [c.has_fpTraps, hn])
    have := fun core => c.finish_refused (.fcmp t k q a b) s s core h0
      (fun n => causeArithmetic (out (c.wave.core.lane n)).2) c.entry.pc
    exact ⟨fun hs => h1.trans (congrArg _ ((this _).1 hs)), fun hs hh => h1.trans (congrArg _ ((this _).2 hs hh))⟩
  · have h0 : c.fpTraps (fun l => (out l).2) ≠ 0 := mask_ne_zero n (by rw [c.has_fpTraps, hn])
    rw [c.finish_traps (markStalls_of_not rfl) s s _ h0 _ _ hs (by exact hh)] at h1
    simp only [WaveCore.mapLanes, List.mapIdx_mapIdx] at h1
    refine ⟨_, _, c.has_fpTraps _, h1, mapIdx_laneWise _ _ _ fun n l hl => ?_⟩
    simp only [Function.comp, WaveCore.lane_of hl]
    cases ht : has (c.fpTraps (fun l => (out l).2)) n
    · cases ho : c.on n
      · simp
      · simp only [Bool.not_false, Bool.and_self, if_true, if_false, Bool.false_eq_true]
        exact htook l
    · have ho : c.on n = true := by
        rw [c.has_fpTraps, Raises, Bool.and_eq_true] at ht
        exact ht.1
      simp [ho]

/-- Settles O14: CVT draws once under .rs; PACK4's loop draws for one register after the other. -/
theorem conversions : Obligations.Conversions := fun r y _ _ _ a =>
  ⟨fpLane_gives (fun _ => rfl) rfl, fpLane_gives_of (fun _ => rfl) rfl (fun l => pack_quad y r l a) (fun _ => rfl)⟩

end Sys2Proof.Machine
end

section
/-! SUPPORT. Number formats (chapter 04): rounding to a multiple of a power of two, encodings that come back, and exact
sums and products. -/
namespace Sys2Proof.Machine

/-! ### Rounding to a multiple (R94, R96) -/

/-- Rounding an exact magnitude at k places above its own: quotient and remainder by 2 ^ k decide. -/
theorem Mag.roundAt_places (m k : Nat) (e : Int) (mode : Rounding) (neg : Bool) (draw : Nat) :
    (⟨m, e, false⟩ : Mag).roundAt mode neg draw (e + k) =
      (if roundUp mode neg (m / 2 ^ k % 2 == 1) (m % 2 ^ k) k false draw then m / 2 ^ k + 1 else m / 2 ^ k,
        m % 2 ^ k != 0) := by
  rcases Nat.eq_zero_or_pos k with rfl | hk
  · have hup : roundUp mode neg (m / 2 ^ 0 % 2 == 1) 0 0 false draw = false := by cases mode <;> simp [roundUp]
    simp [Mag.roundAt, Nat.mod_one] at hup ⊢
    simp [hup]
  · have hq : ¬e + (k : Int) ≤ e := by omega
    have hplaces : (e + (k : Int) - e).toNat = k := by omega
    simp [Mag.roundAt, hq, hplaces]

/-- The remainder is nonzero where rounding goes up. -/
theorem roundUp_pos {mode : Rounding} {neg odd : Bool} {r k draw : Nat} (h : roundUp mode neg odd r k false draw = true) :
    0 < r := by
  have := Nat.two_pow_pos k
  cases mode <;> simp [roundUp] at h <;> omega

/-- What rounding at k places above gives, mode by mode. -/
theorem Mag.roundAt_exact (m k : Nat) (e : Int) (neg : Bool) (draw : Nat) (mode : Rounding) :
    let r := ((⟨m, e, false⟩ : Mag).roundAt mode neg draw (e + k)).1
    (((⟨m, e, false⟩ : Mag).roundAt mode neg draw (e + k)).2 = decide (r * 2 ^ k ≠ m)) ∧
    (m % 2 ^ k = 0 → r * 2 ^ k = m) ∧
    (r * 2 ^ k < m + 2 ^ k ∧ m < r * 2 ^ k + 2 ^ k) ∧
    (mode = .rz → r * 2 ^ k ≤ m) ∧
    (mode = .rd → if neg then m ≤ r * 2 ^ k else r * 2 ^ k ≤ m) ∧
    (mode = .ru → if neg then r * 2 ^ k ≤ m else m ≤ r * 2 ^ k) ∧
    (mode = .rn → 2 * (r * 2 ^ k) ≤ 2 * m + 2 ^ k ∧ 2 * m ≤ 2 * (r * 2 ^ k) + 2 ^ k ∧
      (2 * (m % 2 ^ k) = 2 ^ k → r % 2 = 0)) ∧
    (mode = .rna → 2 * (r * 2 ^ k) ≤ 2 * m + 2 ^ k ∧ 2 * m < 2 * (r * 2 ^ k) + 2 ^ k) := by
  rw [Mag.roundAt_places]
  dsimp only
  have hdiv : m = m / 2 ^ k * 2 ^ k + m % 2 ^ k := (Nat.div_add_mod' m (2 ^ k)).symm
  have hlt : m % 2 ^ k < 2 ^ k := Nat.mod_lt _ (Nat.two_pow_pos k)
  have hpos := Nat.two_pow_pos k
  generalize hup : roundUp mode neg (m / 2 ^ k % 2 == 1) (m % 2 ^ k) k false draw = up
  generalize m / 2 ^ k = n at *
  generalize m % 2 ^ k = rem at *
  have hmode : (mode = .rz → up = false) ∧ (mode = .rd → up = (neg && rem != 0)) ∧
      (mode = .ru → up = (!neg && rem != 0)) ∧
      (mode = .rn → up = (decide (2 ^ k < 2 * rem) || (2 * rem == 2 ^ k && n % 2 == 1))) ∧
      (mode = .rna → up = decide (2 ^ k ≤ 2 * rem)) := by
    subst hup
    refine ⟨?_, ?_, ?_, ?_, ?_⟩ <;> rintro rfl <;> simp [roundUp]
  have hrem : up = true → 0 < rem := fun h => roundUp_pos (hup.trans h)
  obtain ⟨hrz, hrd, hru, hrn, hrna⟩ := hmode
  have hodd : (n + 1) % 2 = 0 ↔ n % 2 = 1 := by omega
  cases up with
  | true =>
    replace hrem := hrem rfl
    simp only [if_true, Nat.add_mul, Nat.one_mul]
    generalize n * 2 ^ k = low at *
    refine ⟨?_, by omega, by omega, fun h => absurd (hrz h) nofun, fun h => ?_, fun h => ?_, fun h => ?_, fun h => ?_⟩
    · have h0 : rem ≠ 0 := by omega
      have h1 : low + 2 ^ k ≠ m := by omega
      simp [h0, h1]
    · have := hrd h
      cases neg <;> simp at this ⊢
      omega
    · have := hru h
      cases neg <;> simp at this ⊢
      omega
    · have := hrn h
      simp at this
      omega
    · have := hrna h
      simp at this
      omega
  | false =>
    simp only [Bool.false_eq_true, if_false]
    generalize n * 2 ^ k = low at *
    refine ⟨?_, by omega, by omega, by omega, fun h => ?_, fun h => ?_, fun h => ?_, fun h => ?_⟩
    · by_cases h0 : rem = 0
      · have h1 : low = m := by omega
        simp [h0, h1]
      · have h1 : low ≠ m := by omega
        simp [h0, h1]
    · have := hrd h
      cases neg <;> simp at this ⊢ <;> omega
    · have := hru h
      cases neg <;> simp at this ⊢ <;> omega
    · have := hrn h
      simp at this
      omega
    · have := hrna h
      simp at this
      omega

/-! ### Encodings that come back (R80, R97) -/

/-- The finite value of an encoding's magnitude. -/
def Fmt.finite (f : Fmt) (neg : Bool) (m : Nat) : XVal :=
  if m / 2 ^ f.tb = 0 then .fin neg (m % 2 ^ f.tb) f.qmin
  else .fin neg (2 ^ f.tb + m % 2 ^ f.tb) ((m / 2 ^ f.tb : Nat) - f.bias - f.tb)

/-- An exact magnitude with no bit below the last place of the format rounds to itself. -/
theorem Fmt.roundMag_exact (f : Fmt) (mode : Rounding) (neg : Bool) (n m : Nat) (e : Int)
    (hq : (let q := (⟨n, e, false⟩ : Mag).top - f.tb; if q < f.qmin then f.qmin else q) = e)
    (henc : f.encodeMag n e = m) (hmax : m ≤ f.max) :
    f.roundMag mode neg 0 ⟨n, e, false⟩ = ⟨f.signed neg m, 0⟩ := by
  dsimp only at hq
  unfold Fmt.roundMag
  dsimp only
  rw [hq, show (⟨n, e, false⟩ : Mag).roundAt mode neg 0 e = (n, false) by simp [Mag.roundAt]]
  simp [henc, Nat.not_lt.2 hmax, excIf]

theorem Fmt.round_finite (f : Fmt) (mode : Rounding) (neg : Bool) {m : Nat} (hmax : m ≤ f.max) :
    f.round mode (f.finite neg m) = ⟨f.signed neg m, 0⟩ := by
  have hm : m = m / 2 ^ f.tb * 2 ^ f.tb + m % 2 ^ f.tb := (Nat.div_add_mod' m (2 ^ f.tb)).symm
  have ht : m % 2 ^ f.tb < 2 ^ f.tb := Nat.mod_lt _ (Nat.two_pow_pos _)
  unfold Fmt.finite
  by_cases he : m / 2 ^ f.tb = 0
  · rw [if_pos he]
    rw [he, Nat.zero_mul, Nat.zero_add] at hm
    rw [← hm] at ht ⊢
    by_cases h0 : m = 0
    · simp [Fmt.round, h0, Fmt.zeroRes]
    · have hlog : Nat.log2 m < f.tb := (Nat.log2_lt h0).2 ht
      simp only [Fmt.round, h0, if_false]
      refine f.roundMag_exact mode neg m m f.qmin ?_ ?_ hmax
      · have htop : (⟨m, f.qmin, false⟩ : Mag).top = (Nat.log2 m : Int) + f.qmin := rfl
        dsimp only
        rw [htop, if_pos (by omega)]
      · have htop : (Nat.log2 m : Int) + f.qmin < f.emin := by unfold Fmt.qmin; omega
        simp [Fmt.encodeMag, h0, htop]
  · rw [if_neg he]
    generalize hE : m / 2 ^ f.tb = E at *
    generalize m % 2 ^ f.tb = t at *
    have h0 : 2 ^ f.tb + t ≠ 0 := by have := Nat.two_pow_pos f.tb; omega
    have hlog : Nat.log2 (2 ^ f.tb + t) = f.tb := by
      rw [Nat.log2_eq_iff h0, Nat.pow_succ]
      omega
    simp only [Fmt.round, h0, if_false]
    refine f.roundMag_exact mode neg _ m _ ?_ ?_ hmax
    · have htop : (⟨2 ^ f.tb + t, (E : Int) - f.bias - f.tb, false⟩ : Mag).top = f.tb + ((E : Int) - f.bias - f.tb) :=
        congrArg (fun (x : Nat) => (x : Int) + ((E : Int) - f.bias - f.tb)) hlog
      have hlow : ¬(f.tb : Int) + ((E : Int) - f.bias - f.tb) - f.tb < f.qmin := by
        unfold Fmt.qmin Fmt.emin
        omega
      dsimp only
      rw [htop, if_neg hlow]
      omega
    · have htop : ¬(f.tb : Int) + ((E : Int) - f.bias - f.tb) < f.emin := by unfold Fmt.emin; omega
      have hexp : ((f.tb : Int) + ((E : Int) - f.bias - f.tb) + f.bias).toNat = E := by omega
      simp only [Fmt.encodeMag, h0, if_false, hlog, htop, hexp, Nat.le_refl, if_true, Nat.sub_self, Nat.pow_zero,
        Nat.div_one]
      omega

/-- An encoding below the sign bit, with the sign that it had. -/
theorem Fmt.signed_mod (f : Fmt) {b : Nat} (hb : b < 2 ^ (1 + f.eb + f.tb)) :
    f.signed (decide (b / f.signBit % 2 = 1)) (b % f.signBit) = b := by
  have hs : 2 ^ (1 + f.eb + f.tb) = 2 * f.signBit := by rw [Nat.add_assoc, Nat.pow_add, Nat.pow_one, Fmt.signBit]
  have hpos : 0 < f.signBit := Nat.two_pow_pos _
  have hdiv := Nat.div_add_mod b f.signBit
  have hq : b / f.signBit < 2 := by
    rwa [Nat.div_lt_iff_lt_mul hpos, ← hs]
  unfold Fmt.signed
  generalize b / f.signBit = q at *
  rcases (by omega : q = 0 ∨ q = 1) with rfl | rfl
  · simpa using hdiv
  · simpa [Nat.add_comm] using hdiv

/-- With the top exponent excluded, an encoding is at most that of the largest finite value. -/
theorem Fmt.le_inf_pred (f : Fmt) {m : Nat} (hm : m < f.signBit) (he : m / 2 ^ f.tb ≠ 2 ^ f.eb - 1) : m ≤ f.inf - 1 := by
  have hlt : m / 2 ^ f.tb < 2 ^ f.eb := by
    rw [Nat.div_lt_iff_lt_mul (Nat.two_pow_pos _), ← Nat.pow_add]
    exact hm
  have : m < f.inf := by
    unfold Fmt.inf
    rw [← Nat.div_lt_iff_lt_mul (Nat.two_pow_pos _)]
    omega
  omega

theorem Fmt.eq_inf (f : Fmt) {m : Nat} (he : m / 2 ^ f.tb = 2 ^ f.eb - 1) (ht : m % 2 ^ f.tb = 0) : m = f.inf := by
  have := Nat.div_add_mod' m (2 ^ f.tb)
  rw [he, ht] at this
  exact this.symm

/-- An encoding that is not a NaN rounds to itself in every mode. -/
theorem Fmt.round_decode (f : Fmt) (mode : Rounding) {b : Nat} (hb : b < 2 ^ (1 + f.eb + f.tb))
    (h4 : f.sp = .e4m3 → f.signBit = 0x80) (hn : (f.decode b).isNan = false) :
    f.round mode (f.decode b) = ⟨b, 0⟩ := by
  have hsign := f.signed_mod hb
  have hm : b % f.signBit < f.signBit := Nat.mod_lt _ (Nat.two_pow_pos _)
  have hfin : b % f.signBit ≤ f.max →
      f.round mode (f.finite (decide (b / f.signBit % 2 = 1)) (b % f.signBit)) = ⟨b, 0⟩ := fun h => by
    rw [f.round_finite mode _ h, hsign]
  have hinf : b % f.signBit / 2 ^ f.tb = 2 ^ f.eb - 1 → b % f.signBit % 2 ^ f.tb = 0 →
      f.round mode (.inf (decide (b / f.signBit % 2 = 1))) = ⟨b, 0⟩ := fun he ht => by
    rw [Fmt.round, Fmt.infRes, ← f.eq_inf he ht, hsign]
  revert hn
  unfold Fmt.decode
  rcases hsp : f.sp with _ | _ | _ | _
  all_goals dsimp only
  · split
    · next he => split
                 · next ht => exact fun _ => hinf he ht
                 · nofun
    · next he => exact fun _ => hfin (by simpa [Fmt.max, hsp] using f.le_inf_pred hm he)
  · split
    · next he => split
                 · next ht => exact fun _ => hinf he ht
                 · nofun
    · next he => exact fun _ => hfin (by simpa [Fmt.max, hsp] using f.le_inf_pred hm he)
  · split
    · nofun
    · next h7 =>
      have := h4 hsp
      exact fun _ => hfin (by simp only [Fmt.max, hsp]; omega)
  · exact fun _ => hfin (by simp only [Fmt.max, hsp]; omega)

/-! ### Exact sums and products (R136) -/

theorem Dy.add_exact (x y : Dy) (k : Int) (hx : k ≤ x.e) (hy : k ≤ y.e) :
    (x.add y).m * 2 ^ ((x.add y).e - k).toNat = x.m * 2 ^ (x.e - k).toNat + y.m * 2 ^ (y.e - k).toNat := by
  unfold Dy.add
  split
  · next h => simp [h]
  · split
    · next h => simp [h]
    · dsimp only
      have hsx : (x.e - k).toNat = (x.e - min x.e y.e).toNat + (min x.e y.e - k).toNat := by omega
      have hsy : (y.e - k).toNat = (y.e - min x.e y.e).toNat + (min x.e y.e - k).toNat := by omega
      rw [hsx, hsy, Int.pow_add, Int.pow_add, Int.add_mul, Int.mul_assoc, Int.mul_assoc]

theorem Dy.mul_exact (x y : Dy) (j k : Int) (hx : j ≤ x.e) (hy : k ≤ y.e) :
    (x.mul y).m * 2 ^ ((x.mul y).e - (j + k)).toNat = (x.m * 2 ^ (x.e - j).toNat) * (y.m * 2 ^ (y.e - k).toNat) := by
  unfold Dy.mul
  dsimp only
  have hs : (x.e + y.e - (j + k)).toNat = (x.e - j).toNat + (y.e - k).toNat := by omega
  rw [hs, Int.pow_add]
  ac_rfl

/-- Settles O15: quotient and remainder decide a rounding; a finite encoding has no bit below its last place; sums and
products of dyadic numbers are taken at the smaller exponent. -/
theorem numberFormats : Obligations.NumberFormats := by
  refine ⟨fun m k e neg draw mode => Mag.roundAt_exact m k e neg draw mode, fun f hf mode b hb hn => ?_,
    Dy.add_exact, Dy.mul_exact⟩
  have h4 : ∀ f ∈ [fmtF64, fmtF32, fmtF16, fmtBf16, fmtE5m2, fmtE4m3, fmtE2m1], f.sp = .e4m3 → f.signBit = 0x80 := by
    decide
  exact f.round_decode mode hb (h4 f hf) hn

end Sys2Proof.Machine
end

section
/-! SUPPORT. System words and the words that act on an entry (chapters 07 and 10): their laws. -/
namespace Sys2Proof.Machine

/-! ### System words -/

/-- The law of GETS of a register other than now. -/
theorem gets_gives {s : State} {c : Issue} {nw wide : Bool} {d a : Reg} {val : Nat → Lane → W64}
    (h : Executes (.gets nw d a) s c) (ha : a.toNat ≤ 0x12) (hn : a.toNat ≠ 0x0A) (hw : special64 a = wide)
    (hv : ∀ n l, s.special c n l a.toNat = val n l) : GivesValue (.gets nw d a) s c nw wide d val (fun _ _ => false) := by
  subst hw
  obtain rfl : (fun n l => s.special c n l a.toNat) = val := funext fun n => funext (hv n)
  have e : exec (.gets nw d a) s = .next _ := issueWord_go h _
  simp only [specialAssigned, ha, hn, decide_true, Bool.not_true, Bool.false_eq_true, if_false] at e
  exact valued_gives e

/-- Outside a captured launch now reads the clock of the wave's stack. -/
theorem State.readNow_free {s : State} {c : Issue} {x : Launch} (hx : s.launchOf c.gang = some x)
    (hc : x.desc.capture = false) (hn : (s.stack c.gang.stack).now < 2 ^ 64) :
    s.readNow c = some ((s.stack c.gang.stack).now, s) := by
  have hd : ∀ a b e : List Byte, a.length = 8 → b.length = 1 → (a ++ b ++ e).drop 9 = e := fun a b e ha hb => by
    rw [List.append_assoc, ← List.append_assoc, List.drop_left' (by simp [ha, hb])]
  simp only [State.readNow, hx, State.logged, hc, Bool.not_false, if_true,
    hd _ _ _ (natLe_length 8 _) (natLe_length 1 _), leNat_natLe]
  rw [Nat.mod_eq_of_lt (by omega)]

/-- The law of SETS of a register that a lane holds, from a source without a mark. -/
theorem sets_gives {s : State} {c : Issue} {a b : Reg} {put : Lane → W32 → Lane} (h : Executes (.sets a b) s c)
    (hp : ∀ l v, l.putSpecial a.toNat v = some (put l v))
    (hm : ∀ n, c.on n = true → (c.wave.core.lane n).marked b 1 = false) :
    ∃ lanes, Completes (.sets a b) s c { c.wave.core with lanes := lanes } ∧
      LaneWise c.wave.core.lanes lanes (fun n l l' => l' = if c.on n then put l (l.src32 b) else l) := by
  refine ⟨_, (issueWord_go h _).trans ?_, mapIdx_laneWise _ _ _ fun _ _ _ => rfl⟩
  simp only [hp, on_any_false hm, Option.isNone_some, Option.getD_some, Bool.false_eq_true, if_false]
  rfl

/-! ### Instructions that trap -/

/-- A word that a speculating wave stalls before executes in a wave that does not speculate. -/
theorem Executes.alone {i : Instr} {s : State} {c : Issue} (h : Executes i s c) (hi : nonSpec i = true) :
    c.wave.spec = none := by
  unfold Executes decideIssue Issue.unlessSpec at h
  repeat' split at h
  all_goals simp_all

theorem Issue.fault_alone {c : Issue} (hs : c.wave.spec = none) (s : State) (reason va : Nat) (p q : BitVec 32) :
    c.fault s reason va p q = s.raiseHalt (c.halt s reason va p q) := by
  simp only [Issue.fault, hs]

theorem Issue.any_ne {c : Issue} (h : c.any = true) : c.active ≠ 0 := by simpa [Issue.any] using h

/-- An instruction whose lanes trap and cannot be recorded. -/
theorem trapRefused_of {i : Instr} {s u : State} {c : Issue} {core : WaveCore} {traps : BitVec 32} {why : Nat → Cause}
    {resume : W64} (e : exec i s = .next (c.finish i s u core traps why resume)) (ht : traps ≠ 0)
    (hh : core.handler = c.wave.core.handler) : TrapRefused i s c := by
  obtain ⟨hspec, hdouble⟩ := c.finish_refused i s u core ht why resume
  exact ⟨fun hs => e.trans (congrArg _ (hspec hs)), fun hs h => e.trans (congrArg _ (hdouble hs (hh.trans h)))⟩

/-- An instruction that does nothing but trap in every active lane. -/
theorem trapsActive_of {i : Instr} {s : State} {c : Issue} (hi : MarksNone i) (ha : c.any = true)
    (e : exec i s = .next (c.finish i s s c.wave.core c.active (fun _ => causeIllegalLane) c.entry.pc)) :
    TrapsActive i s c := by
  refine ⟨trapRefused_of e (Issue.any_ne ha) rfl, fun hs hh => ?_⟩
  rw [c.finish_traps hi s s _ (Issue.any_ne ha) _ _ hs hh] at e
  exact ⟨_, e, mapIdx_laneWise _ _ _ fun _ _ _ => rfl⟩

/-! ### Transfers -/

/-- The law of a transfer, by what its lanes become and where each goes. -/
theorem transfers_of {i : Instr} {s : State} {c : Issue} {lanes : Nat → Lane → Lane} {go : Nat → Goes}
    {goes : Nat → Option (W64 × BitVec 6)} {change : Nat → Lane → Lane} (hi : MarksNone i)
    (e : exec i s = .next (c.transfer i s (c.wave.core.mapLanes lanes) go))
    (hg : ∀ n, go n = match goes n with | some x => .to x.1 x.2 | none => .trap)
    (hl : ∀ n l, c.wave.core.lanes[n]? = some l →
      lanes n l = if c.on n && (goes n).isSome then change n l else l)
    (keep : ∀ n l, c.wave.core.lanes[n]? = some l → goes n = none → change n l = l) : Transfers i s c goes change := by
  refine transfer_gives hi goes change ?_ keep
  obtain rfl : go = _ := funext hg
  rw [WaveCore.mapLanes, mapIdx_congr hl] at e
  exact e

/-- The law of a transfer that changes nothing else of its lanes. -/
theorem transfers_still {i : Instr} {s : State} {c : Issue} {go : Nat → Goes} {goes : Nat → Option (W64 × BitVec 6)}
    (hi : MarksNone i) (e : exec i s = .next (c.transfer i s c.wave.core go))
    (hg : ∀ n, go n = match goes n with | some x => .to x.1 x.2 | none => .trap) :
    Transfers i s c goes (fun _ l => l) :=
  transfers_of (lanes := fun _ l => l) hi (by rw [mapLanes_self _ fun _ _ _ => rfl]; exact e) hg
    (fun _ _ _ => by simp) (fun _ _ _ _ => rfl)

/-- A lane whose return stack is empty pops nothing. -/
theorem Lane.pop_empty {l : Lane} (h : l.stack = []) : { l with stack := l.stack.tail } = l := by
  cases l
  simp only at h
  subst h
  rfl

theorem targetOk_eq (t : W64) : targetOk t = (t.toNat % 4 == 0 && decide (t.toNat < 2 ^ 56)) := by
  have hlow : t.extractLsb' 0 2 = 0#2 ↔ t.toNat % 4 = 0 := by
    simp [← BitVec.toNat_inj]
  have hhigh : t.extractLsb' 56 8 = 0#8 ↔ t.toNat < 2 ^ 56 := by
    have := t.isLt
    rw [← BitVec.toNat_inj, BitVec.extractLsb'_toNat, Nat.shiftRight_eq_div_pow, BitVec.toNat_ofNat]
    omega
  rw [Bool.eq_iff_iff, targetOk, Bool.and_eq_true, beq_iff_eq, beq_iff_eq]
  exact (and_congr hlow hhigh).trans (by simp)

/-! ### Entries -/

/-- The highest priority of an entry and of a list. -/
theorem foldl_maxPrio (xs : List Entry) (e : Entry) :
    (∀ x ∈ e :: xs, x.prio ≤ xs.foldl (fun p x => maxPrio p x.prio) e.prio) ∧
      ∃ x ∈ e :: xs, x.prio = xs.foldl (fun p x => maxPrio p x.prio) e.prio := by
  induction xs generalizing e with
  | nil => simp
  | cons x xs ih =>
    rw [List.foldl_cons]
    by_cases hlt : e.prio.toNat < x.prio.toNat
    · obtain ⟨hall, y, hy, hprio⟩ := ih x
      rw [maxPrio, if_pos hlt]
      refine ⟨fun y hy => ?_, y, List.mem_cons_of_mem _ hy, hprio⟩
      rcases List.mem_cons.1 hy with rfl | hy
      · exact BitVec.le_trans (BitVec.le_of_lt hlt) (hall x (by simp))
      · exact hall y hy
    · obtain ⟨hall, y, hy, hprio⟩ := ih e
      rw [maxPrio, if_neg hlt]
      refine ⟨fun y hy => ?_, y, ?_, hprio⟩
      · rcases List.mem_cons.1 hy with rfl | hy
        · exact hall _ (by simp)
        · rcases List.mem_cons.1 hy with rfl | hy
          · exact BitVec.le_trans (Nat.le_of_not_lt hlt) (hall e (by simp))
          · exact hall y (by simp [hy])
      · rcases List.mem_cons.1 hy with rfl | hy <;> simp [*]

end Sys2Proof.Machine
end

section
/-! SUPPORT. The statements about system words and the words that act on an entry. -/
namespace Sys2Proof.Machine

/-- Settles O16: each register by its number; now through the log of a launch that is not captured. -/
theorem systemWords : Obligations.SystemWords := by
  intro nw d a b m s c
  refine ⟨fun h => issueWord_go h _, fun x hx => ?_, fun x hx hc hn h => ?_, fun hm => ?_, ?_⟩
  · simp only [List.forall_mem_cons, List.not_mem_nil, false_implies, implies_true, and_true]
    have hl : s.launchid c.gang = x.desc.launchid := by simp [State.launchid, hx]
    have hctx : s.ctxOf c.gang = x.ctx := by
      simp only [State.launchOf] at hx
      simp [State.ctxOf, hx]
    have hdim : ∀ n l, s.special c n l 0x05 = BitVec.ofNat 64 (x.desc.waves * 2 ^ 48 + x.desc.nz * 2 ^ 32 +
        x.desc.ny * 2 ^ 16 + if x.pool.isSome then 65535 else x.desc.nx) := fun _ _ => by simp [State.special, hx]
    refine ⟨?_, ?_, ?_, ?_, ?_, ?dim, ?_, ?_, ?ctx, ?launch, ?_, ?_, ?_, ?_, ?_, ?_, ?_, ?_⟩ <;>
      refine fun h => gets_gives h (by decide) (by decide) rfl fun n l => ?_
    case dim => exact hdim n l
    case ctx => exact congrArg (BitVec.ofNat 64) hctx
    case launch => exact hl
    all_goals rfl
  · have e : exec (.gets nw d 0x0A) s = .next (c.getNow (.gets nw d 0x0A) s nw d) := issueWord_go h _
    simp only [Issue.getNow, State.readNow_free hx hc hn] at e
    exact ⟨_, e, mapIdx_laneWise _ _ _ fun n l _ => by simp [Lane.put]⟩
  · simp only [List.forall_mem_cons, List.not_mem_nil, false_implies, implies_true, and_true]
    exact ⟨fun h => sets_gives h (fun _ _ => rfl) hm, fun h => sets_gives h (fun _ _ => rfl) hm,
      fun h => sets_gives h (fun _ _ => rfl) hm⟩
  · simp only [List.forall_mem_cons, List.not_mem_nil, false_implies, implies_true, and_true]
    refine ⟨⟨?_, ?_⟩, ⟨?_, ?_⟩, ?_, ?_⟩ <;>
      exact fun h => ⟨_, issueWord_go h _, mapIdx_laneWise _ _ _ fun _ _ _ => rfl⟩

/-- Settles O17: each word rewrites its entry, its lanes or its masks alone. -/
theorem entryWords : Obligations.EntryWords := by
  intro n sense q p b j v s c
  refine ⟨fun h hm => ?_, fun h ⟨l, hl, hm⟩ hs => ?_, fun h => issueWord_go h _, fun h => ?_, fun h => ?_,
    fun h hb => ?_, fun h hb ha => ?_, fun h => ?_, fun h => issueWord_go h _, fun h => ?_⟩
  · have e : exec (.guard n sense q) s = .next _ := issueWord_go h _
    have hp : c.predMarked q = false := on_any_false hm
    simp only [hp, Bool.false_eq_true, if_false] at e
    refine ⟨_, fun l => ?_, e⟩
    rw [has_maskOf _ (fun k hk => bitsOf_lt (mem_of_filter_mem hk)), Bool.eq_iff_iff]
    simp [mem_bitsOf, Issue.on, Issue.takes]
  · have e : exec (.guard n sense q) s = .next _ := issueWord_go h _
    have hp : c.predMarked q = true := on_any_true hl hm
    simpa only [hp, if_true, Issue.fault_alone hs] using e
  · have e : exec (.jmsk j) s = .next (c.done (.jmsk j) s _) := issueWord_go h _
    cases ha : c.any
    · rw [ha, if_neg Bool.false_ne_true] at e
      exact ⟨c.wave.core.j, e, fun r => by simp⟩
    · rw [ha, if_pos rfl] at e
      exact ⟨_, e, fun r => by simp [Sparse.get_set]⟩
  · obtain ⟨hle, hmax⟩ := foldl_maxPrio ((c.wave.core.frontier.eraseIdx c.k).filter (·.joiningAt c.entry.pc)) c.entry
    refine ⟨_, issueWord_go h _, rfl, fun l => ?_, fun l => ?_, hle, hmax⟩
    · rw [← List.any_filter]; exact has_foldl_or ..
    · rw [← List.any_filter]; exact has_foldl_or ..
  · have e : exec (.winb b) s = .next _ := issueWord_go h _
    simp only [Nat.not_lt.2 hb, decide_false, Bool.false_eq_true, if_false, Bool.not_false, Bool.and_true,
      c.finish_none] at e
    exact ⟨_, e, mapIdx_laneWise _ _ _ fun _ _ _ => rfl⟩
  · have e : exec (.winb b) s = .next _ := issueWord_go h _
    simp only [hb, decide_true, if_true, Bool.not_true, Bool.and_false, Bool.false_eq_true, if_false] at e
    rw [mapLanes_self _ fun _ _ _ => rfl] at e
    exact trapsActive_of (marksNone_of_empty rfl rfl rfl) ha e
  · have e : exec (.valid v) s = .next (c.done (.valid v) s _) := issueWord_go h _
    cases ha : c.any
    · rw [ha, if_neg Bool.false_ne_true] at e
      exact e
    · rw [ha, if_pos rfl] at e
      exact e
  · exact ⟨c.wave.core.exit c.k c.active, issueWord_go h _, rfl, mapIdx_laneWise _ _ _ fun _ _ _ => rfl⟩

/-- Settles O18: each transfer by where its lanes go; a lane that traps keeps its return stack. -/
theorem branches : Obligations.Branches := by
  intro p sense t o a s c lane here target push room takes ok clean cleanA
  have htarget : branchTarget here.pc o = target := by simp only [branchTarget, target, here, BitVec.mul_comm]
  have hmarked : ¬ clean → c.predMarked p = true := fun hc => by
    simp only [clean, Classical.not_forall, Bool.not_eq_false] at hc
    obtain ⟨n, hn, hm⟩ := hc
    exact on_any_true hn hm
  have hmarkedA : ¬ cleanA → c.targetMarked a = true := fun hc => by
    simp only [cleanA, Classical.not_forall, Bool.not_eq_false] at hc
    obtain ⟨n, hn, hm⟩ := hc
    exact on_any_true hn hm
  have hroom : ∀ l : Lane, l.stackFull = !room l := fun l => by
    rw [Bool.eq_iff_iff]; simp [Lane.stackFull, room]
  have hok : ∀ n, targetOk ((c.wave.core.lane n).src64 a) = ok n := fun n => targetOk_eq _
  clear_value ok room
  refine ⟨fun h hm => ?_, fun h hm => ?_, fun h hm => ?_, fun h hm => ?_, fun h => ?_, ?_, ?_⟩
  · have e : exec (.bra p sense t o) s = .next _ := issueWord_go h _
    have hp : c.predMarked p = false := on_any_false hm
    simp only [hp, Bool.false_eq_true, if_false] at e
    refine transfers_still (marksNone_of_empty rfl rfl rfl) e fun n => ?_
    rw [htarget]
    change (if takes n then _ else _) = _
    split <;> rfl
  · have e : exec (.call p sense t o) s = .next _ := issueWord_go h _
    have hp : c.predMarked p = false := on_any_false hm
    simp only [hp, Bool.false_eq_true, if_false, hroom] at e
    refine transfers_of (marksNone_of_empty rfl rfl rfl) e (fun n => ?_) (fun n l hl => ?_) (fun n l hl hg => ?_)
    · rw [htarget]
      change (if !takes n then _ else if takes n && !!room (lane n) then _ else _) = _
      cases takes n <;> cases room (lane n) <;> rfl
    · change (if c.on n && (takes n && !!room (lane n)) then push l else l) = if c.on n && _ then _ else l
      rw [show lane n = l from WaveCore.lane_of hl]
      cases c.on n <;> cases takes n <;> cases room l <;> rfl
    · rw [show lane n = l from WaveCore.lane_of hl] at hg
      cases ht : takes n <;> cases hr : room l <;> simp_all
  · have e : exec (.brx a t) s = .next _ := issueWord_go h _
    have hp : c.targetMarked a = false := on_any_false hm
    simp only [hp, Bool.false_eq_true, if_false, hok] at e
    refine transfers_still (marksNone_of_empty rfl rfl rfl) e fun n => ?_
    split <;> rfl
  · have e : exec (.callx a t) s = .next _ := issueWord_go h _
    have hp : c.targetMarked a = false := on_any_false hm
    simp only [hp, Bool.false_eq_true, if_false, hok, hroom] at e
    refine transfers_of (marksNone_of_empty rfl rfl rfl) e (fun n => ?_) (fun n l hl => ?_) (fun n l hl hg => ?_)
    · change (if ok n && !!room (lane n) then _ else _) = _
      cases ok n <;> cases room (lane n) <;> rfl
    · change (if c.on n && (ok n && !!room (lane n)) then push l else l) = if c.on n && _ then _ else l
      rw [show lane n = l from WaveCore.lane_of hl]
      cases c.on n <;> cases ok n <;> cases room l <;> rfl
    · rw [show lane n = l from WaveCore.lane_of hl] at hg
      cases ht : ok n <;> cases hr : room l <;> simp_all
  · have e : exec .ret s = .next _ := issueWord_go h _
    refine transfers_of (marksNone_of_empty rfl rfl rfl) e (fun n => ?_) (fun n l hl => ?_) (fun n l hl hg => ?_)
    · change (match (lane n).stack with | [] => _ | (pc, q) :: _ => _) = _
      cases (lane n).stack <;> rfl
    · rw [show lane n = l from WaveCore.lane_of hl]
      by_cases hs : l.stack = []
      · simp only [Lane.pop_empty hs, ite_self]
      · cases c.on n <;> simp [Option.isSome_map, List.isSome_head?, hs]
    · rw [show lane n = l from WaveCore.lane_of hl] at hg
      exact Lane.pop_empty (by simpa using hg)
  · simp only [List.forall_mem_cons, List.not_mem_nil, false_implies, implies_true, and_true]
    refine ⟨fun h hc hs => (issueWord_go h _).trans ?_, fun h hc hs => (issueWord_go h _).trans ?_⟩ <;>
      simp only [hmarked hc, if_true, Issue.fault_alone hs]
  · simp only [List.forall_mem_cons, List.not_mem_nil, false_implies, implies_true, and_true]
    refine ⟨fun h hc hs => (issueWord_go h _).trans ?_, fun h hc hs => (issueWord_go h _).trans ?_⟩ <;>
      simp only [hmarkedA hc, if_true, Issue.fault_alone hs]

/-- Settles O19: every active lane is recorded behind the word; neither word executes in a wave that speculates. -/
theorem trapsAndBreaks : Obligations.TrapsAndBreaks := by
  intro n s c asks u gone recorded ha
  have traps : ∀ {i : Instr} {v : State} {x : Cause}, nonSpec i = true → MarksNone i → Executes i s c →
      exec i s = .next (c.finish i s v c.wave.core c.active (fun _ => x) (c.entry.pc + 4)) →
      c.wave.core.handler = false → ∃ lanes, recorded x lanes ∧
        exec i s = .next (v.setWave c.g c.w (c.note v { c.wave with core := gone { c.wave.core with lanes := lanes } })) :=
    fun hi hm h e hh => ⟨_, mapIdx_laneWise _ _ _ fun _ _ _ => rfl, e.trans (congrArg _
      (c.finish_traps hm s _ _ (Issue.any_ne ha) _ _ (h.alone hi) hh))⟩
  have hbreak : c.wave.core.handler = false → c.wave.spec = none → c.breakEvent s n = u := fun hh hs => by
    have h2 : c.any = true := ha
    simp only [Issue.breakEvent, hh, hs, h2, Bool.not_false, Option.isNone_none, Bool.and_true]
    rfl
  have etrap : ∀ {c}, Executes (.trap n) s c → exec (.trap n) s =
      .next (c.finish (.trap n) s s c.wave.core c.active (fun _ => ⟨4, n.setWidth 8⟩) (c.entry.pc + 4)) :=
    fun h => (issueWord_go h _).trans (by simp [causeTrap])
  have ebrk : ∀ {c}, Executes (.brk n) s c → exec (.brk n) s = .next
      (c.finish (.brk n) s (c.breakEvent s n) c.wave.core c.active (fun _ => ⟨5, n.setWidth 8⟩) (c.entry.pc + 4)) :=
    fun h => (issueWord_go h _).trans (by simp [causeBrk])
  refine ⟨fun h hh => ?_, fun h hh => ?_, ?_⟩
  · exact traps rfl (marksNone_of_empty rfl rfl rfl) h (etrap h) hh
  · exact hbreak hh (h.alone rfl) ▸ traps rfl (marksNone_of_empty rfl rfl rfl) h (ebrk h) hh
  · simp only [List.forall_mem_cons, List.not_mem_nil, false_implies, implies_true, and_true]
    exact ⟨fun h hh => (trapRefused_of (etrap h) (Issue.any_ne ha) rfl).2 (h.alone rfl) hh,
      fun h hh => (trapRefused_of (ebrk h) (Issue.any_ne ha) rfl).2 (h.alone rfl) hh⟩

end Sys2Proof.Machine
end

section
/-! SUPPORT. How a word comes to execute (chapters 01, 03 and 11): registers and latches, the checks before it, the fetch
of a word that no store has changed, and memory read after it is written. -/
namespace Sys2Proof.Machine

/-! ### Registers and latches -/

theorem Lane.src32_window {f : Reg} (hf : f.toNat < 120) (l : Lane) :
    l.src32 f = Sparse.get 0 l.regs (l.winbase.toNat + f.toNat) := if_pos hf

theorem Lane.marked_window {f : Reg} (hf : f.toNat < 120) (l : Lane) :
    l.marked f 1 = Sparse.get false l.marks (l.winbase.toNat + f.toNat) := by
  simp [Lane.marked, hf, Lane.arch]

/-- Writing a window register leaves every other source. -/
theorem Lane.put32_other (l : Lane) {f g : Reg} (h : g ≠ f) (v : W32) (m : Bool) :
    (l.put32 f.toNat v m).src32 g = l.src32 g ∧ (l.put32 f.toNat v m).marked g 1 = l.marked g 1 := by
  have hn : g.toNat ≠ f.toNat := fun e => h (BitVec.eq_of_toNat_eq e)
  by_cases hg : g.toNat < 120
  · simp [Lane.src32_window hg, Lane.marked_window hg, Lane.put32, Lane.arch, Sparse.get_set, hn]
  · simp [Lane.src32, Lane.marked, hg, Lane.put32, Lane.latch]

/-- A pair that is written is read back through both halves. -/
theorem Lane.put64_same (l : Lane) {f : Reg} (hf : f.toNat < 119) (x : W64) (m : Bool) :
    (l.put64 f.toNat x m).src64 f = x ∧ (l.put64 f.toNat x m).src32 f = x.setWidth 32 ∧
      (l.put64 f.toNat x m).marked f 2 = m := by
  have hf' : f.toNat < 120 := by omega
  have hjoin : x.extractLsb' 32 32 ++ x.setWidth 32 = x := by
    ext i hi
    simp only [BitVec.getElem_append, BitVec.getElem_extractLsb', BitVec.getElem_setWidth]
    split <;> grind
  refine ⟨?_, ?_, ?_⟩
  · simpa [Lane.src64, hf', Lane.put64, Lane.put32, Lane.arch, Sparse.get_set] using hjoin
  · simp [Lane.src32, hf', Lane.put64, Lane.put32, Lane.arch, Sparse.get_set]
  · simp [Lane.marked, hf', Lane.put64, Lane.put32, Lane.arch, Sparse.get_set, List.range_succ]

theorem Lane.pushLatch_older (l : Lane) (x : W64) (m : Bool) {k : Nat} (h : k < 7) :
    (l.pushLatch x m).latch (k + 1) = l.latch k := by
  simp [Lane.latch, Lane.pushLatch, List.getD_eq_getElem?_getD, h]

/-! ### The checks before a word executes -/

/-- Fields that no check of an encoding can take for an instruction's. -/
theorem decode_error {w : W32} {e : DecodeError} (h : decodeFields w.toNat = .error e) : decode w = .error e := by
  simp only [decode, h]

/-- The wave's core as a word issues. -/
theorem atIssue_eq (i : Instr) (c : WaveCore) (e : Entry) : atIssue i c e = { c with
    latchCount := if stallSwitch i c e ∨ c.last ≠ some (e.lanes, e.prio) then 0 else c.latchCount
    stallV := if stallMarked i c e then [] else c.stallV
    stallS := if stallMarked i c e then 0 else c.stallS
    stallP := if stallMarked i c e then 0 else c.stallP } := by
  have hswitch : (stallSwitch i c e = true ∨ c.last ≠ some (e.lanes, e.prio)) ↔
      (stallClass i || stallMarked i c e || tokenStalled c e || frontierSwitch c e) = true := by
    simp [stallSwitch, frontierSwitch]
  simp only [hswitch, atIssue]
  cases stallMarked i c e
  · simp only [Bool.false_eq_true, if_false]
    split <;> rfl
  · simp only [Bool.or_true, Bool.true_or, if_true]

/-- No latch that a word names is stale. -/
theorem staleLatch_none {i : Instr} {n : Nat} :
    staleLatch i n = none ↔ ∀ p ∈ (operands i).vr, 120 ≤ p.1.toNat → p.1.toNat - 120 < n := by
  have hfold : ∀ (ks : List Nat) (m : Option Nat), ks.foldl (fun m k => match m with
      | none => some k
      | some j => some (min j k)) m = none ↔ m = none ∧ ks = [] := by
    intro ks
    induction ks with
    | nil => simp
    | cons k ks ih => intro m; rw [List.foldl_cons, ih]; cases m <;> simp
  refine (hfold _ _).trans ?_
  simp only [true_and, List.filter_eq_nil_iff, List.mem_filterMap, decide_eq_true_eq, Nat.not_le]
  refine ⟨fun h p hp hl => h _ ⟨p, hp, if_pos hl⟩, fun h k ⟨p, hp, hk⟩ => ?_⟩
  split at hk
  · cases hk; exact h p hp ‹_›
  · cases hk

/-- The active lanes of an entry are lanes of it. -/
theorem Entry.active_lanes (e : Entry) : e.active &&& ~~~e.lanes = 0 := by
  have hgone : e.lanes &&& ~~~e.lanes = 0 := BitVec.and_not_self ..
  rw [Entry.active]
  split
  · exact hgone
  · rw [BitVec.and_assoc, BitVec.and_comm e.guard.mask, ← BitVec.and_assoc, hgone]
    exact BitVec.zero_and

theorem markStalls_nowhere (i : Instr) (core : WaveCore) : markStalls i core 0 = core := by simp [markStalls]

/-- What the whole entry's trap makes of the wave, at a word that has no other effect. -/
theorem trapWhole_law {i : Instr} {s : State} {c : Issue} {x : Cause} (e : exec i s = .next (c.trapWhole i s x))
    (ha : c.active &&& ~~~c.entry.lanes = 0) (hl : c.entry.lanes ≠ 0) :
    TrapRefused i s c ∧ (c.wave.spec = none → c.wave.core.handler = false →
      ∃ lanes, exec i s = .next (s.setWave c.g c.w (c.note s { c.wave with
        core := { c.wave.core with
          lanes := lanes
          frontier := c.wave.core.frontier.eraseIdx c.k
          trapmask := c.wave.core.trapmask ||| c.entry.lanes } })) ∧
      LaneWise c.wave.core.lanes lanes (fun n l l' =>
        l' = if has c.entry.lanes n then Recorded c n x c.entry.pc l else l)) := by
  refine ⟨trapRefused_of e hl rfl, fun hs hh => ?_⟩
  have hput : putEntry c.wave.core.frontier c.k { c.entry.next with lanes := c.entry.lanes &&& ~~~c.entry.lanes } =
      c.wave.core.frontier.eraseIdx c.k := if_pos (BitVec.and_not_self ..)
  unfold Issue.trapWhole Issue.finish Issue.finishAt at e
  dsimp only [Entry.next] at e hput
  rw [if_neg hl, if_neg (by simp [hs]), if_neg (by simp [hh]), ha, hput, markStalls_nowhere] at e
  exact ⟨_, e, mapIdx_laneWise _ _ _ fun _ _ _ => rfl⟩

/-- A word executes when none of the checks before it stops it. -/
theorem executes_iff {i : Instr} {s : State} {c : Issue} : Executes i s c ↔ ∃ c0, s.issuing = some c0 ∧
    c0.wave.waits = false ∧ illegalHere i c0.gang c0.wave.core c0.entry = false ∧ tokenHolds i c0.wave = false ∧
    scoreboardHolds i c0.wave c0.entry = false ∧ staleLatch i (c0.issues i).wave.core.latchCount = none ∧
    (∀ sp, c0.wave.spec = some sp → sp.fault = none ∧ nonSpec i = false) ∧ c0.issues i = c := by
  unfold Executes decideIssue
  cases hc : s.issuing with
  | none => simp
  | some c0 =>
    have hspec : (c0.issues i).unlessSpec i s = .go c ↔
        (∀ sp, c0.wave.spec = some sp → sp.fault = none ∧ nonSpec i = false) ∧ c0.issues i = c := by
      unfold Issue.unlessSpec
      rw [show (c0.issues i).wave.spec = c0.wave.spec from rfl]
      cases c0.wave.spec with
      | none => simp
      | some sp =>
        cases hf : sp.fault <;> cases hn : nonSpec i <;> simp [hf]
    simp only [Option.some.injEq, exists_eq_left', ← hspec]
    cases c0.wave.waits <;> cases illegalHere i c0.gang c0.wave.core c0.entry <;> cases tokenHolds i c0.wave <;>
      cases scoreboardHolds i c0.wave c0.entry <;> cases staleLatch i (c0.issues i).wave.core.latchCount <;> simp

theorem tokenHolds_eq_false {i : Instr} {w : Wave} : tokenHolds i w = false ↔
    (isTkw i = true ∨ ∀ r ∈ (operands i).ur ++ (operands i).uw, r.toNat ∉ w.pending) := by
  cases ht : isTkw i <;> simp [tokenHolds, ht, or_imp, forall_and]

theorem decideIssue_illegal {i : Instr} {s : State} {c : Issue} (h : decideIssue i s = .illegal c) :
    ∃ c0, s.issuing = some c0 ∧ c = c0.endRun i := by
  unfold decideIssue Issue.unlessSpec at h
  repeat' split at h
  all_goals first | (cases h; done) | (cases h; exact ⟨_, ‹_›, rfl⟩)

theorem decideIssue_stale {i : Instr} {s : State} {c : Issue} {k : Nat} (h : decideIssue i s = .stale c k) :
    ∃ c0, s.issuing = some c0 ∧ c = c0.issues i := by
  unfold decideIssue Issue.unlessSpec at h
  repeat' split at h
  all_goals first | (cases h; done) | (cases h; exact ⟨_, ‹_›, rfl⟩)

/-- A word that stops at its checks traps its whole entry, whatever its effect would be. -/
theorem issueWord_traps {i : Instr} {s : State} {c : Issue} {x : Cause} (effect : Issue → State)
    (h : decideIssue i s = .illegal c ∧ x = causeIllegalWord ∨ ∃ k, decideIssue i s = .stale c k ∧ x = causeStale k) :
    issueWord i s effect = .next (c.trapWhole i s x) ∧ c.active &&& ~~~c.entry.lanes = 0 := by
  obtain ⟨hd, rfl⟩ | ⟨k, hd, rfl⟩ := h
  · obtain ⟨c0, hc, rfl⟩ := decideIssue_illegal hd
    have hrun : (c0.endRun i).active = c0.active ∧ (c0.endRun i).entry.lanes = c0.entry.lanes := by
      unfold Issue.endRun
      split <;> exact ⟨rfl, rfl⟩
    rw [hrun.1, hrun.2, State.issuing_active hc]
    exact ⟨by rw [issueWord, hd], c0.entry.active_lanes⟩
  · obtain ⟨c0, hc, rfl⟩ := decideIssue_stale hd
    refine ⟨by rw [issueWord, hd], ?_⟩
    rw [show (c0.issues i).active = c0.active from rfl, State.issuing_active hc]
    exact c0.entry.active_lanes

/-! ### The fetch -/

/-- A word that no store has changed is what stands there. -/
theorem State.wordSince_unchanged {s : State} {since pa : Nat} (h : ∀ x ∈ s.past .mem pa, x.stamp < since) :
    s.wordSince since pa = presentIn s.mem s.poison pa 4 := by
  have hxs : (s.past .mem pa).filter (fun x => decide (since ≤ x.stamp) && decide (x.addr < pa + 4) &&
      decide (pa < x.addr + x.new.length)) = [] := by
    rw [List.filter_eq_nil_iff]
    intro x hx
    have := h x hx
    simp
    omega
  simp only [State.wordSince, hxs, List.take_nil, List.foldl_nil]

/-- A fetch that nothing stands in the way of finds the four bytes at the PC. -/
theorem State.fetch_word {s : State} {gang : Gang} {wave : Wave} {pc : W64} {pa : Nat} {leaf : Leaf}
    (ht : s.translate (s.ctxOf gang) gang.stack (some wave.coreId) 65 pc.toNat .fetch false = .ok pa leaf)
    (hpc : pc.toNat < 2 ^ 56) (hf : s.frozenFor gang.stack pa = false) (hl : s.snoopLines pa 4 false = [])
    (hd : s.portDown gang.stack pa = false) (hp : poisoned s.poison pa 4 = false)
    (h : ∀ x ∈ s.past .mem pa, x.stamp < s.codeSince gang pc.toNat pa) :
    s.fetch gang wave pc = .word (BitVec.ofNat 32 (leNat (readBytes s.mem pa 4))) := by
  simp only [State.fetch, ht, Nat.not_le.2 hpc, if_false, hf, hl, List.isEmpty_nil, Bool.not_true, Bool.or_self,
    Bool.false_eq_true, State.wordSince_unchanged h, presentIn, hp, hd]

/-- A fetch does not turn on what the waves hold. -/
theorem State.setWave_fetch (s : State) (g w : Nat) (v : Wave) (gang : Gang) (wave : Wave) (pc : W64) :
    (s.setWave g w v).fetch gang wave pc = s.fetch gang wave pc := rfl

/-- The move of a wave whose selected entry issues. -/
theorem State.waveMove_issue {s : State} {g w k : Nat} {gang : Gang} {wave : Wave} {e : Entry}
    (hg : aget s.gangs g = some gang) (hw : gang.waves[w]? = some wave) (ha : s.waveAlive g w gang wave = true)
    (hrel : wave.core.boundary.releasable = none) (he : wave.entering = false)
    (hsel : selectEntry wave.core.boundary.frontier = some k) (hk : wave.core.boundary.frontier[k]? = some e)
    (hr : s.waveRuns g w gang wave = true) (hy : wave.yieldHold = false) :
    let t := s.setWave g w { wave with core := wave.core.boundary }
    s.waveMove g w = some (t.instructionAt g w gang wave e, { t.fetched gang wave e.pc with cur := some (g, w, k) }) := by
  unfold State.waveMove
  rw [hg]
  dsimp only
  rw [hw]
  dsimp only
  rw [if_neg (by simp [ha]), hrel]
  dsimp only
  rw [if_neg (by simp [he]), hsel]
  dsimp only
  rw [if_neg (by simp [hr, hy]), hk]
  rfl

/-! ### Memory after a write -/

theorem mem_sectors {a n x : Nat} : x ∈ sectors a n ↔ n ≠ 0 ∧ a < 16 * x + 16 ∧ 16 * x < a + n := by
  unfold sectors
  split
  · simp [*]
  · simp only [List.mem_map, List.mem_range, ne_eq, *, not_false_iff, true_and]
    exact ⟨fun ⟨i, hi, hx⟩ => by omega, fun h => ⟨x - a / 16, by omega, by omega⟩⟩

/-- The poison of a sector after a store. -/
theorem get_storePoison (p : Sparse Bool) (a n x : Nat) (mark : Bool) :
    Sparse.get false (storePoison p a n mark) x =
      if n = 0 ∨ 16 * x + 16 ≤ a ∨ a + n ≤ 16 * x then Sparse.get false p x
      else if mark then true
      else if a ≤ 16 * x ∧ 16 * x + 16 ≤ a + n then false
      else Sparse.get false p x := by
  have hstep : ∀ (secs : List Nat) (q : Sparse Bool), Sparse.get false (secs.foldl (fun q x =>
      if mark then Sparse.set false q x true
      else if decide (a ≤ 16 * x) && decide (16 * x + 16 ≤ a + n) then Sparse.set false q x false
      else q) q) x = if x ∈ secs then
        if mark then true else if a ≤ 16 * x ∧ 16 * x + 16 ≤ a + n then false else Sparse.get false q x
      else Sparse.get false q x := by
    intro secs
    induction secs with
    | nil => simp
    | cons y ys ih =>
      intro q
      rw [List.foldl_cons, ih]
      by_cases hy : x = y
      · subst hy
        cases mark <;> by_cases hc : a ≤ 16 * x ∧ 16 * x + 16 ≤ a + n <;> simp [hc]
      · have hput : Sparse.get false (if mark then Sparse.set false q y true
            else if decide (a ≤ 16 * y) && decide (16 * y + 16 ≤ a + n) then Sparse.set false q y false else q) x =
            Sparse.get false q x := by
          split
          · exact Sparse.get_set_other _ _ _ _ _ hy
          · split
            · exact Sparse.get_set_other _ _ _ _ _ hy
            · rfl
        simp only [hput, List.mem_cons, hy, false_or]
  rw [storePoison, hstep]
  by_cases h : n = 0 ∨ 16 * x + 16 ≤ a ∨ a + n ≤ 16 * x
  · rw [if_neg (fun hm => by rw [mem_sectors] at hm; omega), if_pos h]
  · rw [if_pos (mem_sectors.2 (by omega)), if_neg h]

/-- The record that a write within one sector leaves. -/
theorem State.recorded_one (s : State) (au : Author) (space : Region) {addr : Nat} {bs : List Byte} (mark : Bool)
    (hb : bs ≠ []) (hs : addr % 16 + bs.length ≤ 16) : s.recorded au space addr bs mark =
      .store (au.stored space (s.tables space) s.history.length addr bs (runMark mark bs)) :: s.history := by
  have hruns : sectorRuns bs.length addr bs = [(addr, bs)] := by
    cases bs with
    | nil => exact absurd rfl hb
    | cons b bs =>
      have hlen : (b :: bs).length ≤ 16 - addr % 16 := by omega
      have hrest : ∀ k m, sectorRuns k m [] = [] := fun k m => by cases k <;> rfl
      rw [List.length_cons, sectorRuns, List.take_of_length_le hlen, List.drop_of_length_le hlen, hrest]
      rfl
  rw [State.recorded, hruns]
  rfl

theorem layOver_all (addr : Nat) (bs new : List Byte) (h : bs.length = new.length) :
    layOver addr bs addr new = new := by
  apply List.ext_getElem
  · simp [layOver, h]
  · intro i hi hn
    simp [layOver, List.getD_eq_getElem?_getD, hn]

/-- A reader that knows the one store of a sector finds what it wrote. -/
theorem State.observe_one {s : State} {a : Agent} {key : List Nat} {x : Stored} (h : s.past .mem x.addr = [x])
    (hk : a.knows x = true) (hv : Sparse.get 0 x.view x.thread ≤ x.stamp) :
    (s.observe a key .mem x.addr x.new.length).bytes = x.new := by
  have hfree : a.orders x x = false := by
    simp [Agent.orders, Stored.before, hv]
  have hseq : s.sequence a key 1 [x] = [x] := by
    simp [State.sequence, hfree, State.chooseAt]
  simp only [State.observe, h, State.draw, List.filter_cons, hk, Bool.true_or, if_true, List.filter_nil, List.length_cons,
    List.length_nil, hseq, List.foldl_cons, List.foldl_nil, Got.apply, Got.undo, presentIn]
  apply layOver_all
  simp [layOver]

end Sys2Proof.Machine
end

section
/-! SUPPORT. The statements about registers, the checks before a word, the fetch, and memory. -/
namespace Sys2Proof.Machine

/-- Settles O34: a table reads back what was written at a key, and keeps every other. -/
theorem registersAndLatches : Obligations.RegistersAndLatches := by
  intro l w f g v x m p q k
  have hg : ∀ {g : Reg}, g.toNat = f.toNat ↔ g = f := fun {g} => BitVec.toNat_inj
  refine ⟨fun hf => ?_, fun _ h => l.put32_other h v m, fun r hr => Sparse.get_set_other _ _ _ _ _ hr,
    fun hf => l.put64_same hf x m, ?_, fun hk => l.pushLatch_older x m hk, ?_, ?_, ?_, ?_, ?_, fun hp => ?_, ?_, ?_⟩
  · simp [Lane.src32_window hf, Lane.marked_window hf, Lane.put32, Lane.arch]
  · simp [Lane.latch, Lane.pushLatch]
  · simp [Lane.src64, Lane.latch, Lane.pushLatch]
  · simp [Lane.src32, Lane.latch, Lane.pushLatch]
  · simp [Lane.pred]
  · simp [Lane.predMark]
  · simp [Lane.putPred]
  · obtain ⟨-, hother, hsame⟩ := l.putPred_law p m true
    exact ⟨(hsame hp).1, fun hq => (hother q hq).1⟩
  · simp [WaveCore.putUni, WaveCore.uni, Sparse.get_set, hg]
  · simp [WaveCore.putUni, WaveCore.uniMark, Sparse.get_set, hg]

/-- Settles O33: the checks of R79 in their order, and what the word finds when they let it pass. -/
theorem whatIssues : Obligations.WhatIssues := by
  intro i s c
  rw [executes_iff]
  refine exists_congr fun c0 => and_congr_right fun _ => ?_
  have hissues : c0.issues i = { c0 with
      wave := { c0.wave with
        core := (atIssue i c0.wave.core c0.entry).learn (c0.wave.observed i)
        tokens := c0.wave.tokens.filter (fun p => (operands i).uw.all (fun r => r.toNat != p.1)) }
      quiet := stallSwitch i c0.wave.core c0.entry } := by
    simp only [Issue.issues, List.not_any_eq_all_not]
    rfl
  have hwaits : c0.wave.waits = false ↔ c0.wave.held = none ∧ c0.wave.entering = false := by simp [Wave.waits]
  rw [hwaits, tokenHolds_eq_false, staleLatch_none, hissues, atIssue_eq]
  constructor
  · rintro ⟨⟨hheld, hentering⟩, hill, htok, hsb, hstale, hspec, rfl⟩
    exact ⟨hheld, hentering, hill, htok, hsb, hstale, hspec, rfl⟩
  · rintro ⟨hheld, hentering, hill, htok, hsb, hstale, hspec, rfl⟩
    exact ⟨⟨hheld, hentering⟩, hill, htok, hsb, hstale, hspec, rfl⟩

/-- Settles O32: a word that stops at its checks has no effect but its trap, whatever its own effect would be. -/
theorem wholeWordTraps : Obligations.WholeWordTraps := by
  refine ⟨fun w hw => ?_, fun w s c h hs hh hl => ?_, fun i s c x hi hl h => ?_⟩
  · rcases hw with hw | hw
    · have hmajor : bits 31 27 w.toNat = (w >>> 27).toNat := by
        rw [bits, BitVec.toNat_ushiftRight, Nat.shiftRight_eq_div_pow]
        omega
      have hlt : (w >>> 27).toNat < 32 := by rw [BitVec.toNat_ushiftRight, Nat.shiftRight_eq_div_pow]; omega
      have : ∃ e, decodeFields w.toNat = .error e := by
        unfold decodeFields
        rw [hmajor]
        generalize (w >>> 27).toNat = m at hw hlt
        obtain rfl | rfl | rfl | rfl : m = 28 ∨ m = 29 ∨ m = 30 ∨ m = 31 := by omega
        all_goals exact ⟨_, rfl⟩
      exact this.imp fun _ => decode_error
    · have hfun : w.toNat / 2 ^ 22 = 0 := by
        rw [← Nat.shiftRight_eq_div_pow, ← BitVec.toNat_ushiftRight, hw]; rfl
      refine ⟨.permanentlyIllegal, decode_error ?_⟩
      rw [decodeFields, show bits 31 27 w.toNat = 0 by rw [bits]; omega]
      rw [decodeSys, show bits 26 22 w.toNat = 0 by rw [bits]; omega]
      rfl
  · obtain ⟨e, ha⟩ := issueWord_traps (fun _ => s) (.inl ⟨h, rfl⟩)
    exact (trapWhole_law (i := .illegalInstruction w) e ha hl).2 hs hh
  · obtain ⟨effect, he⟩ := exec_word s hi
    obtain ⟨e, ha⟩ := issueWord_traps effect (h.imp_right fun ⟨k, hd, hx, _⟩ => ⟨k, hd, hx⟩)
    exact trapWhole_law (he.trans e) ha hl

/-- Settles O37: the state at power-up, field by field. -/
theorem resetState : Obligations.ResetState := by
  have getD_replicate : ∀ {α : Type} (n k : Nat) (x : α), (List.replicate n x).getD k x = x := fun n k x => by
    simp only [List.getD_eq_getElem?_getD, List.getElem?_replicate]
    split <;> rfl
  have hstack : ∀ st, State.reset.stack st = Stack.reset := fun st => getD_replicate 12 st _
  have hpart : ∀ p, State.reset.partition p = Partition.reset := fun p => getD_replicate 12 p _
  refine ⟨⟨rfl, rfl, rfl⟩, fun st _ => ?_, fun p => ?_, fun p _ => ?_, rfl, rfl, rfl, rfl, rfl, rfl, fun _ => rfl⟩
  · rw [hstack]
    exact ⟨rfl, rfl, rfl, rfl, rfl, rfl, rfl, rfl, rfl, rfl, rfl, fun r hr => List.eq_of_mem_replicate hr,
      List.length_replicate, fun r hr => List.eq_of_mem_replicate hr, List.length_replicate⟩
  · exact List.filter_eq_nil_iff.2 fun st _ => by rw [hstack]; exact Bool.false_ne_true
  · rw [hpart]
    exact ⟨rfl, rfl, rfl⟩

/-- Settles O39: the wave that `cur` names moves, and its move is the word that its fetch finds. -/
theorem stepRunsTheWord : Obligations.StepRunsTheWord := by
  intro s g w k0 k gang wave e pa leaf hcur hg hw hr hy he hrel hsel hk ht hpc hf hl hd hp hx s1 t i
  have halive : s.waveAlive g w gang wave = true := by
    simp only [State.waveRuns, Bool.and_eq_true] at hr
    simp [State.waveAlive, State.waveRuns, hr]
  have hi : s1.instructionAt g w gang wave e = i := by
    rw [State.instructionAt, State.setWave_fetch, State.fetch_word ht hpc hf hl hd hp hx] <;> rfl
  have hmove : s.nextMove = some (i, t) := by
    rw [← hi, State.nextMove, hcur]
    exact State.waveMove_issue hg hw halive hrel he hsel hk hr hy
  rw [Machine.step, hmove] <;> rfl

/-- Settles O28: what a table gives after a write, and what a later reader of the only store of a sector finds. -/
theorem memoryReadAfterWrite : Obligations.MemoryReadAfterWrite := by
  intro s au pa bs mark t
  refine ⟨readBytes_writeBytes_same .., fun a ha => get_writeBytes_other _ _ _ _ ha, fun h => ?_, fun x => ?_,
    fun hb hs hpast hv a key hk => ?_⟩
  · simp only [State.memoryOk, Bool.and_eq_true] at h ⊢
    exact ⟨writeBytes_wf _ _ _ h.1, storePoison_wf _ _ _ _ h.2⟩
  · refine (get_storePoison s.poison pa bs.length x mark).trans ?_
    simp only [List.length_eq_zero_iff]
  · have hrec := s.recorded_one au .mem mark hb hs
    have hpast' : t.past .mem pa =
        [au.stored .mem (s.tables .mem) s.history.length pa bs (runMark mark bs)] := by
      rw [State.past, show t.history = _ from hrec, pastIn, if_pos ⟨rfl, by simp [Author.stored]⟩]
      exact congrArg _ hpast
    exact State.observe_one (x := au.stored .mem (s.tables .mem) s.history.length pa bs (runMark mark bs)) hpast'
      (hk _ (by rw [hpast']; exact List.mem_singleton_self _)) hv

end Sys2Proof.Machine
end

section
/-! SUPPORT. What the checks of R179 grant: pieces that a leaf allows and that the context's partition reaches. -/
namespace Sys2Proof.Machine

/-- A translation that succeeds was granted by its leaf, and goes where the context's partition reaches. -/
theorem State.translate_ok {s : State} {ctx st lane va pa : Nat} {core : Option Nat} {a : Access} {write : Bool}
    {leaf : Leaf} (h : s.translate ctx st core lane va a write = .ok pa leaf) :
    ∃ x, aget s.contexts ctx = some x ∧ leafAllows leaf.bits a write = true ∧ s.reachable x.partition st pa = true := by
  unfold State.translate at h
  split at h
  · cases h
  next x hx =>
    dsimp only at h
    split at h
    · split at h
      · cases h
      next hgrant =>
        cases h
        simp only [Bool.or_eq_true, Bool.not_eq_true', not_or, Bool.not_eq_false] at hgrant
        exact ⟨x, hx, hgrant⟩
    next hne => exact absurd h (hne _ _)

theorem State.reachable_local {s : State} {part st pa : Nat} (h : s.reachable part st pa = true) (hl : isLocal pa = true) :
    (s.stack (homeStack pa)).enable = true ∧ (s.stack (homeStack pa)).partNum = part ∧
      pa % stackSpan < (s.stack (homeStack pa)).capacity ∧ s.ringOpen st (homeStack pa) = true := by
  simpa [State.reachable, hl, and_assoc] using h

theorem State.reachable_system {s : State} {part st pa : Nat} (h : s.reachable part st pa = true)
    (hl : isLocal pa = false) : pa < 2 ^ 52 ∧ ((s.stack st).egress pa).isSome = true := by
  simpa [State.reachable, hl, and_comm] using h

/-- Where a piece that passes its checks may land. -/
def State.Reaches (s : State) (ctx st spad : Nat) (r : Request) (p : Target × Nat) : Prop :=
  match p.1 with
  | .spd off => off + p.2 ≤ spad
  | .mem pa leaf va => ∃ x, aget s.contexts ctx = some x ∧ leafAllows leaf.bits r.access r.write = true ∧ va < 2 ^ 56 ∧
      s.reachable x.partition st pa = true

theorem State.pieceFate_ok {s : State} {ctx st spad addr n : Nat} {r : Request} {ps : List (Target × Nat)}
    (h : s.pieceFate ctx st spad r addr n = .ok ps) : ∀ p ∈ ps, s.Reaches ctx st spad r p := by
  have scratch : ∀ off, (if off + n ≤ spad then Fate.ok [(.spd off, n)] else .fault reasonProtection r.addr) = .ok ps →
      ∀ p ∈ ps, s.Reaches ctx st spad r p := fun off h p hp => by
    split at h
    · cases h
      rw [List.mem_singleton] at hp
      subst hp
      assumption
    · cases h
  unfold State.pieceFate at h
  dsimp only at h
  split at h
  · exact scratch addr h
  · split at h
    · cases h
    next hva =>
    split at h
    · split at h
      · exact scratch _ h
      · cases h
    · split at h
      · split at h <;> cases h
      · cases h
      · cases h
      next ht =>
        split at h
        · cases h
        split at h
        · cases h
        cases h
        intro p hp
        rw [List.mem_singleton] at hp
        subst hp
        obtain ⟨x, hx, hleaf, hreach⟩ := State.translate_ok ht
        exact ⟨x, hx, hleaf, Nat.lt_of_not_le hva, hreach⟩

theorem State.piecesFate_ok {s : State} {ctx st spad n : Nat} {r : Request} (k addr : Nat) {ps : List (Target × Nat)}
    (h : s.piecesFate ctx st spad r n addr k = .ok ps) : ∀ p ∈ ps, s.Reaches ctx st spad r p := by
  induction k generalizing addr ps with
  | zero => cases h; simp
  | succ k ih =>
    unfold State.piecesFate at h
    split at h
    next hfirst =>
      split at h
      next hrest =>
        cases h
        intro p hp
        rcases List.mem_append.1 hp with hp | hp
        · exact State.pieceFate_ok hfirst p hp
        · exact ih _ hrest p hp
      next hne => exact absurd h (hne _)
    next hne => exact absurd h (hne _)

theorem State.fate_ok {s : State} {ctx st spad : Nat} {r : Request} {ps : List (Target × Nat)}
    (h : s.fate ctx st spad r = .ok ps) : ∀ p ∈ ps, s.Reaches ctx st spad r p := by
  unfold State.fate at h
  split at h
  · cases h
  split at h
  · cases h
  exact State.piecesFate_ok _ _ h

/-- Settles O29: each piece that passes was translated through a leaf that allows the access, to where it reaches. -/
theorem accessesStayInReach : Obligations.AccessesStayInReach := by
  intro s ctx st spad r ps h p hp
  have hreach := State.fate_ok h p hp
  unfold State.Reaches at hreach
  split
  · simpa only [*] using hreach
  next hm =>
    rw [hm] at hreach
    obtain ⟨x, hx, hleaf, hva, hr⟩ := hreach
    exact ⟨x, hx, hleaf, hva, State.reachable_local hr, State.reachable_system hr⟩

end Sys2Proof.Machine
end

section
/-! SUPPORT. Stores and their frame (chapters 08 and 12): the bytes that pieces write, and what a write leaves of the
ports that later pieces use. -/
namespace Sys2Proof.Machine

/-! ### What decides whether a port is up -/

/-- The fields of a stack that its ports and the ring's partitions turn on. -/
def Stack.ring (t : Stack) : Bool × Nat × BitVec 12 × BitVec 256 × Bool × List (W64 × W64) :=
  (t.enable, t.partNum, t.partMask, t.configHash, t.linkUp, t.routes)

/-- The ports of every stack stand as they stood. -/
def State.SameRing (s t : State) : Prop := ∀ k, (t.stack k).ring = (s.stack k).ring

theorem State.SameRing.refl (s : State) : s.SameRing s := fun _ => rfl

theorem State.SameRing.trans {s t u : State} (h : s.SameRing t) (h' : t.SameRing u) : s.SameRing u :=
  fun k => (h' k).trans (h k)

theorem State.SameRing.portDown {s t : State} (h : s.SameRing t) (st pa : Nat) : t.portDown st pa = s.portDown st pa := by
  simp only [State.SameRing, Stack.ring, Prod.mk.injEq, forall_and] at h
  obtain ⟨henable, hpart, hmask, hhash, hlink, hroutes⟩ := h
  simp only [State.portDown, State.port, Stack.egress, State.ringOpen, State.maskAgrees, State.members, henable, hpart,
    hmask, hhash, hlink, hroutes]

theorem SameButCaches.ring {s t : State} (h : SameButCaches s t) : s.SameRing t := fun k => by
  obtain ⟨_, hk⟩ := h.2 k
  rw [hk]
  rfl

/-! ### A write, with the speculation that it ends -/

theorem State.rollbackWave_frame (s : State) (g w counter : Nat) :
    (s.rollbackWave g w counter).mem = s.mem ∧ s.SameRing (s.rollbackWave g w counter) := by
  unfold State.rollbackWave
  split
  · split
    · exact ⟨rfl, fun k => State.modStack_stack_of (p := Stack.ring) (f := fun t => t.count counter 1) (fun _ => rfl) ..⟩
    · exact ⟨rfl, .refl s⟩
  · exact ⟨rfl, .refl s⟩

theorem State.conflicts_frame (s : State) (own : Option (Nat × Nat)) (spadOf : Option Nat) (secs : List Nat) :
    (s.conflicts own spadOf secs).mem = s.mem ∧ s.SameRing (s.conflicts own spadOf secs) := by
  unfold State.conflicts
  refine List.foldlRecOn (motive := fun t => State.mem t = s.mem ∧ s.SameRing t) _ _ ⟨rfl, .refl s⟩ fun t ht p _ => ?_
  obtain ⟨hmem, hring⟩ := t.rollbackWave_frame p.1 p.2 0x0B0
  exact ⟨hmem.trans ht.1, ht.2.trans hring⟩

theorem State.put_mem (s : State) (au : Author) (pa : Nat) (bs : List Byte) (mark : Bool) :
    (s.put au pa bs mark).mem = writeBytes s.mem pa bs := (State.conflicts_frame ..).1

theorem State.put_ring (s : State) (au : Author) (pa : Nat) (bs : List Byte) (mark : Bool) :
    s.SameRing (s.put au pa bs mark) := (State.conflicts_frame _ _ _ _).2

theorem State.putSpad_mem (s : State) (au : Author) (g off : Nat) (bs : List Byte) (mark : Bool) :
    (s.putSpad au g off bs mark).mem = s.mem := (State.conflicts_frame ..).1

theorem State.putSpad_ring (s : State) (au : Author) (g off : Nat) (bs : List Byte) (mark : Bool) :
    s.SameRing (s.putSpad au g off bs mark) := (State.conflicts_frame _ _ _ _).2

theorem State.touch_frame (s : State) (st pa : Nat) (write : Bool) :
    (s.touch st pa write).mem = s.mem ∧ s.SameRing (s.touch st pa write) := by
  unfold State.touch
  dsimp only
  split <;> exact ⟨rfl, .refl s⟩

/-! ### Pieces -/

/-- One piece through a port that is up changes only the bytes that it writes. -/
theorem State.storePiece_frame {s : State} {a : Agent} {au : Author} {st : Nat} {dir : Bool} {bs : List Byte} {mark : Bool}
    {t : Target} (hup : ∀ pa leaf va, t = .mem pa leaf va → s.portDown st pa = false) :
    s.SameRing (s.storePiece a au st dir bs mark t) ∧ ∀ n x, bs.length ≤ n → ¬ StoredAt [(t, n)] x →
      Sparse.get 0 (s.storePiece a au st dir bs mark t).mem x = Sparse.get 0 s.mem x := by
  unfold State.storePiece
  split
  · exact ⟨State.putSpad_ring _ _ _ _ _ _, fun n x _ _ => by rw [State.putSpad_mem]⟩
  next pa leaf va =>
    rw [if_neg (by simp [hup pa leaf va rfl])]
    dsimp only
    have hframe : ∀ u : State, u.mem = s.mem → s.SameRing u → s.SameRing (u.put au pa bs mark) ∧
        ∀ n x, bs.length ≤ n → ¬ StoredAt [(.mem pa leaf va, n)] x →
          Sparse.get 0 (u.put au pa bs mark).mem x = Sparse.get 0 s.mem x := fun u hmem hring => by
      refine ⟨hring.trans (State.put_ring _ _ _ _ _), fun n x hn hx => ?_⟩
      rw [State.put_mem, hmem]
      refine get_writeBytes_other _ _ _ _ (Classical.byContradiction fun h => hx ⟨n, pa, leaf, va, ?_⟩)
      exact ⟨List.mem_singleton_self _, by omega, by omega⟩
    split
    · exact hframe _ (s.touch_frame ..).1 (s.touch_frame ..).2
    · exact hframe _ rfl (.refl s)

/-- Pieces through ports that are up change only the bytes that they write. -/
theorem State.storePieces_frame {a : Agent} {release : Bool} {st core : Nat} {mark : Bool} {ps : List (Target × Nat)}
    {s : State} {bs : List Byte} (hup : ∀ pa leaf va n, (Target.mem pa leaf va, n) ∈ ps → s.portDown st pa = false) :
    s.SameRing (s.storePieces a release st core bs mark ps) ∧
      ∀ x, ¬ StoredAt ps x → Sparse.get 0 (s.storePieces a release st core bs mark ps).mem x = Sparse.get 0 s.mem x := by
  induction ps generalizing s bs with
  | nil => exact ⟨.refl s, fun _ _ => rfl⟩
  | cons p ps ih =>
    obtain ⟨t, n⟩ := p
    have hhead : ∀ {x}, ¬ StoredAt ((t, n) :: ps) x → ¬ StoredAt [(t, n)] x ∧ ¬ StoredAt ps x := fun hx =>
      ⟨fun ⟨m, q, leaf, va, hm, hr⟩ => hx ⟨m, q, leaf, va, List.mem_cons.2 (.inl (List.mem_singleton.1 hm)), hr⟩,
        fun ⟨m, q, leaf, va, hm, hr⟩ => hx ⟨m, q, leaf, va, List.mem_cons_of_mem _ hm, hr⟩⟩
    have hrest : ∀ u : State, s.SameRing u →
        (∀ x, ¬ StoredAt [(t, n)] x → Sparse.get 0 u.mem x = Sparse.get 0 s.mem x) →
        s.SameRing (u.storePieces a release st core (bs.drop n) mark ps) ∧ ∀ x, ¬ StoredAt ((t, n) :: ps) x →
          Sparse.get 0 (u.storePieces a release st core (bs.drop n) mark ps).mem x = Sparse.get 0 s.mem x := by
      intro u hring hmem
      obtain ⟨hr, hm⟩ := ih (s := u) (bs := bs.drop n) fun pa leaf va m h =>
        (hring.portDown st pa).trans (hup pa leaf va m (List.mem_cons_of_mem _ h))
      exact ⟨hring.trans hr, fun x hx => (hm x (hhead hx).2).trans (hmem x (hhead hx).1)⟩
    obtain ⟨lost, hstep⟩ : ∃ lost : Bool, s.storePieces a release st core bs mark ((t, n) :: ps) =
        (if lost then s else s.storePiece a (a.author release s.history.length (s.pointOf core st t (Scope.narrow a.scope)))
          st false (bs.take n) mark t).storePieces a release st core (bs.drop n) mark ps := ⟨_, rfl⟩
    rw [hstep]
    cases lost
    · obtain ⟨hr, hm⟩ := State.storePiece_frame (s := s) (a := a) (st := st) (dir := false) (bs := bs.take n) (mark := mark)
        (t := t) (au := a.author release s.history.length (s.pointOf core st t (Scope.narrow a.scope)))
        fun pa leaf va h => hup pa leaf va n (h ▸ List.mem_cons_self)
      exact hrest _ hr fun x hx => hm n x (List.length_take_le ..) hx
    · exact hrest s (.refl s) fun _ _ => rfl

/-- The stores of an instruction's lanes, one lane after another. -/
theorem stores_frame {st core : Nat} {release : Bool} {agent : State → Nat → Agent} {bs : Nat → List Byte × Bool}
    {pieces : Nat × Request → List (Target × Nat)} {rs : List (Nat × Request)} {s : State}
    (hup : ∀ r ∈ rs, ∀ pa leaf va n, (Target.mem pa leaf va, n) ∈ pieces r → s.portDown st pa = false) (x : Nat)
    (hx : ∀ r ∈ rs, ¬ StoredAt (pieces r) x) :
    Sparse.get 0 (rs.foldl (fun u r => u.storePieces (agent u r.1) release st core (bs r.1).1 (bs r.1).2 (pieces r)) s).mem
      x = Sparse.get 0 s.mem x := by
  induction rs generalizing s with
  | nil => rfl
  | cons r rs ih =>
    obtain ⟨hring, hmem⟩ := State.storePieces_frame (a := agent s r.1) (release := release) (core := core)
      (bs := (bs r.1).1) (mark := (bs r.1).2) (hup r List.mem_cons_self)
    rw [List.foldl_cons, ih (fun q hq pa leaf va n h => (hring.portDown st pa).trans
      (hup q (List.mem_cons_of_mem _ hq) pa leaf va n h)) (fun q hq => hx q (List.mem_cons_of_mem _ hq))]
    exact hmem x (hx r List.mem_cons_self)

/-- The law of a store whose requests all pass. -/
theorem store_gives {c : Issue} {i : Instr} {s : State} {rs : List (Nat × Request)} {unspec : Bool} {access : Access}
    {sc : Scope} {release : Bool} {bs : Nat → List Byte × Bool} (h : Performs s c true rs)
    (he : exec i s = .next (c.store i s ⟨rs, 0, true, unspec, access⟩ sc release bs)) : Stores i s c sc release rs bs := by
  refine ⟨store_waits (a := ⟨rs, 0, true, unspec, access⟩) rfl rfl h he,
    store_performs (a := ⟨rs, 0, true, unspec, access⟩) rfl rfl h he, fun pa hpa => ?_⟩
  have hcaches : SameButCaches s (c.filled s rs) := fillFrom_caches ..
  have hup := h.1.2.up
  rw [show Sparse.get 0 s.mem pa = Sparse.get 0 (c.filled s rs).mem pa by rw [hcaches.1]]
  refine stores_frame (agent := fun u n => u.laneAgent c.g c.w n (c.wave.core.lane n) sc)
    (pieces := fun r => c.pieces s r.2) (fun r hr q leaf va n hm => ?_) pa
    fun r hr ⟨n, q, leaf, va, hm, hb⟩ => hpa ⟨n, q, leaf, va, List.mem_flatMap.2 ⟨r, hr, hm⟩, hb⟩
  rw [hcaches.ring.portDown]
  exact hup q leaf va n (List.mem_flatMap.2 ⟨r, hr, hm⟩)

/-! ### Tensor elements (R186) -/

/-- A wave that does not speculate records no identifier. -/
theorem Issue.usesEntry_alone {c : Issue} (h : c.wave.spec = none) (b : Reg) : c.usesEntry b = c := by
  obtain ⟨g, w, k, gang, wave, entry, active, quiet, parts⟩ := c
  cases wave
  simp only at h
  subst h
  rfl

/-- What the lanes come to where every active lane can use its entry. -/
theorem Issue.elements_eq {c : Issue} {s : State} {z write : Bool} {a b : Reg} {access : Access} {es : Nat → Tensor}
    (h : ∀ n, c.on n = true → c.elementEntry s b z n = some (es n)) :
    c.elements s z a b access write = (bitsOf c.active).map (fun n => (n, es n,
      if (es n).inBounds ((c.wave.core.lane n).coords a (c.wave.core.uni b)) then
        some ⟨Sp.gen, (es n).address ((c.wave.core.lane n).coords a (c.wave.core.uni b)), elementBits (es n).format / 8,
          false, access, write, (c.wave.core.lane n).marked a 2 || c.wave.core.uniMark b, some c.wave.coreId, n⟩
      else none)) := by
  rw [Issue.elements, ← List.filterMap_eq_map]
  refine filterMap_eq_of_mem fun n hn => ?_
  simp only [Issue.elementOf, h n ((mem_bitsOf _ _).1 hn), Option.map_some, Function.comp]

/-- Where every active lane can use its entry, no lane traps. -/
theorem Issue.elementTraps_none {c : Issue} {s : State} {z write : Bool} {a b : Reg} {access : Access} {es : Nat → Tensor}
    (h : ∀ n, c.on n = true → c.elementEntry s b z n = some (es n)) :
    c.elementTraps (c.elements s z a b access write) = 0 := by
  refine mask_eq_zero _ fun n => ?_
  have hmask := has_maskOf (bitsOf c.active) (fun m hm => bitsOf_lt hm) n
  rw [Issue.elementTraps, Issue.elements_eq h, List.map_map]
  simp only [Function.comp_def, List.map_id', has, BitVec.getLsbD_and, BitVec.getLsbD_not] at hmask ⊢
  rw [hmask]
  cases hn : c.active.getLsbD n
  · simp
  · simp [mem_bitsOf, has, hn]

/-- The requests of the lanes whose element is within bounds. -/
theorem Issue.elementRequests_eq {c : Issue} {s : State} {z write : Bool} {a b : Reg} {access : Access} {es : Nat → Tensor}
    (h : ∀ n, c.on n = true → c.elementEntry s b z n = some (es n)) :
    elementRequests (c.elements s z a b access write) =
      ((bitsOf c.active).filter (fun n => (es n).inBounds ((c.wave.core.lane n).coords a (c.wave.core.uni b)))).map (fun n =>
        (n, ⟨Sp.gen, (es n).address ((c.wave.core.lane n).coords a (c.wave.core.uni b)), elementBits (es n).format / 8,
          false, access, write, (c.wave.core.lane n).marked a 2 || c.wave.core.uniMark b, some c.wave.coreId, n⟩)) := by
  rw [Issue.elements_eq h, elementRequests, List.filterMap_map, ← List.filterMap_eq_map, List.filterMap_filter]
  refine filterMap_eq_of_mem fun n _ => ?_
  simp only [Function.comp]
  split <;> rfl

theorem Issue.elementFormat_eq {c : Issue} {s : State} {z write : Bool} {a b : Reg} {access : Access} {es : Nat → Tensor}
    (h : ∀ n, c.on n = true → c.elementEntry s b z n = some (es n)) {n : Nat} (hn : c.on n = true) :
    elementFormat (c.elements s z a b access write) n = (es n).format := by
  have hget : ∀ {α : Type} (f : Nat → α) (ns : List Nat), n ∈ ns → aget (ns.map (fun k => (k, f k))) n = some (f n) := by
    intro α f ns hm
    induction ns with
    | nil => cases hm
    | cons k ks ih =>
      by_cases hk : k = n
      · subst hk; simp [aget]
      · rw [List.map_cons, aget, if_neg hk, ih ((List.mem_cons.1 hm).resolve_left (Ne.symm hk))]
  rw [elementFormat, Issue.elements_eq h, hget _ _ ((mem_bitsOf _ _).2 hn)]
  rfl

/-- The data of lanes that store nothing does not matter. -/
theorem Stores.congr {i : Instr} {s : State} {c : Issue} {sc : Scope} {release : Bool} {rs : List (Nat × Request)}
    {bs bs' : Nat → List Byte × Bool} (h : ∀ r ∈ rs, bs r.1 = bs' r.1) (hs : Stores i s c sc release rs bs) :
    Stores i s c sc release rs bs' := by
  unfold Stores at hs ⊢
  dsimp only at hs ⊢
  rwa [foldl_eq_of_mem _ fun u r hr => by rw [← h r hr]]

end Sys2Proof.Machine
end

section
/-! SUPPORT. The statement about stores. -/
namespace Sys2Proof.Machine

/-- Settles O23: the lanes' stores in ascending order, each through ports that stay up. -/
theorem storesAndTheirFrame : Obligations.StoresAndTheirFrame := by
  intro sp o z nt d a b ty sc k s c on strict data rs rsV w rsO sb rsX
  refine ⟨fun h hp => ?_, fun h hp => ?_, fun h hp => ?_, fun es h hes hp => ?_⟩
  · have e : exec (.st sp o d a ty sc nt) s = .next _ := issueWord_go h _
    rw [show (if ty == MemTy.b64 then 2 else 1) = if ty = MemTy.b64 then 2 else 1 by cases ty <;> rfl] at e
    exact store_gives hp e
  · exact store_gives hp (issueWord_go h _)
  · have e : exec (.sto k z d a) s = .next _ := issueWord_go h _
    cases z
    · exact store_gives hp e
    · exact store_gives hp e
  · have e : exec (.stx z d a b) s = .next _ := issueWord_go h _
    rw [Issue.usesEntry_alone hp.1.2.alone] at e
    dsimp only at e
    rw [Issue.elementTraps_none hes, Issue.elementRequests_eq hes] at e
    refine Stores.congr (fun r hr => ?_) (store_gives hp e)
    obtain ⟨n, hn, rfl⟩ := List.mem_map.1 hr
    dsimp only
    rw [Issue.elementFormat_eq hes ((mem_bitsOf _ _).1 (List.mem_filter.1 hn).1)]
    rfl

end Sys2Proof.Machine
end

section
/-! SUPPORT. LDX in handler mode under speculation: the double trap comes first. -/
namespace Sys2Proof.Machine

/-- Wave 0 of gang 0 is about to run this word at PC 0, speculating and in handler mode. -/
def State.speculatingHandler (i : Instr) : State :=
  (State.reset.withFetchWord 32 (encode i).toNat).modWave 0 0 (fun w =>
    { w with core := { w.core with handler := true }, spec := some ⟨0, 0, w.core, w.lost, [], [], [], [], [], none, false⟩ })

/-- Wave 0 of gang 0 waits as a speculating wave that came to a word it must not run. -/
def State.specStalled (s : State) : Bool := ((s.wave 0 0).bind Wave.spec).any Spec.stalled

/-- LDX of element 0 through uniform register 0 into register 0. -/
def someLdx : Instr := .ldx false 0 2 0

/-- The word issues there in some lane, every lane finds no entry, and a stall before the word would be counted. -/
theorem someLdx_issues : ∃ c, Executes someLdx (.speculatingHandler someLdx) c ∧ c.any = true ∧ c.wave.spec.isSome = true ∧
    (∀ n < 32, c.elementEntry (.speculatingHandler someLdx) 0 false n = none) ∧
    (c.specStall (.speculatingHandler someLdx) 0x0C8).specStalled = true := by
  have h : (match decideIssue someLdx (.speculatingHandler someLdx) with
    | .go c => c.any && c.wave.spec.isSome &&
        (List.range 32).all (fun n => (c.elementEntry (.speculatingHandler someLdx) 0 false n).isNone) &&
        (c.specStall (.speculatingHandler someLdx) 0x0C8).specStalled
    | _ => false) = true := by decide
  split at h
  next c hc =>
    simp only [Bool.and_eq_true, List.all_eq_true, List.mem_range, Option.isNone_iff_eq_none] at h
    obtain ⟨⟨⟨hany, hspec⟩, hentry⟩, hstall⟩ := h
    exact ⟨c, hc, hany, hspec, hentry, hstall⟩
  next => cases h

/-- The word does not end in that stall. -/
theorem someLdx_does_not_stall : ∀ t, exec someLdx (.speculatingHandler someLdx) = .next t → t.specStalled = false := by
  intro t ht
  have h : (match exec someLdx (.speculatingHandler someLdx) with
    | .next t => t.specStalled
    | _ => false) = false := by decide
  rwa [ht] at h

/-- Refutes O22: a wave that speculates in handler mode and whose lanes all trap at LDX, since identifier 0 has no entry,
keeps the double-trap fault; it is not the stall that the statement's words on LDX and STX ask of a speculating wave. -/
theorem not_loadInstructions : ¬ Obligations.LoadInstructions := by
  intro h
  obtain ⟨c, hc, hany, hspec, hentry, hstall⟩ := someLdx_issues
  obtain ⟨-, -, -, -, htraps⟩ := h.1 .gen false false false 0 2 0 .b32 .none 0 (.speculatingHandler someLdx) c
  have hnone : ∀ n, c.on n = true → c.elementEntry (.speculatingHandler someLdx) 0 false n = none :=
    fun n hn => hentry n (bitsOf_lt ((mem_bitsOf _ _).2 hn))
  obtain ⟨⟨hstalls, -⟩, -⟩ := htraps someLdx List.mem_cons_self hc hnone hany
  have := someLdx_does_not_stall _ (hstalls hspec)
  rw [hstall] at this
  cases this

end Sys2Proof.Machine
end

section
/-! SUPPORT. What the verdicts on an instruction's lanes hold, and the ends of an access that does not perform. -/
namespace Sys2Proof.Machine

section Verdicts
variable {s : State} {ctx st spad : Nat}

theorem State.judge_cons (r : Nat × Request) (rs : List (Nat × Request)) :
    s.judge ctx st spad (r :: rs) = match s.fate ctx st spad r.2 with
      | .ok ps => { s.judge ctx st spad rs with ok := (r.1, ps) :: (s.judge ctx st spad rs).ok }
      | .trap => { s.judge ctx st spad rs with traps := setBit (s.judge ctx st spad rs).traps r.1 true }
      | .hold page => { s.judge ctx st spad rs with holds := (r.1, page) :: (s.judge ctx st spad rs).holds }
      | .wait lines => { s.judge ctx st spad rs with waits := lines :: (s.judge ctx st spad rs).waits }
      | .fault reason va =>
        { s.judge ctx st spad rs with faults := (r.1, reason, va) :: (s.judge ctx st spad rs).faults } := rfl

theorem State.mem_judge_faults {rs : List (Nat × Request)} {n reason va : Nat} :
    (n, reason, va) ∈ (s.judge ctx st spad rs).faults ↔ ∃ r ∈ rs, r.1 = n ∧ s.fate ctx st spad r.2 = .fault reason va := by
  induction rs with
  | nil => simp [State.judge]
  | cons r rs ih =>
    rw [State.judge_cons]
    cases hf : s.fate ctx st spad r.2 with
    | fault reason' va' =>
      simp only [List.mem_cons, ih, Prod.mk.injEq]
      grind
    | ok | trap | hold | wait => simp [ih, hf]

theorem State.mem_judge_holds {rs : List (Nat × Request)} {page : Nat} :
    page ∈ (s.judge ctx st spad rs).holds.map Prod.snd ↔ ∃ r ∈ rs, s.fate ctx st spad r.2 = .hold page := by
  induction rs with
  | nil => simp [State.judge]
  | cons r rs ih =>
    rw [State.judge_cons]
    cases hf : s.fate ctx st spad r.2 with
    | hold page' =>
      simp only [List.map_cons, List.mem_cons, ih]
      grind
    | ok | trap | fault | wait => simp [ih, hf]

theorem State.judge_faults_nil {rs : List (Nat × Request)}
    (h : ∀ r ∈ rs, ∀ reason va, s.fate ctx st spad r.2 ≠ .fault reason va) : (s.judge ctx st spad rs).faults = [] :=
  List.eq_nil_iff_forall_not_mem.2 fun ⟨n, reason, va⟩ hx => by
    obtain ⟨r, hr, -, hf⟩ := State.mem_judge_faults.1 hx
    exact h r hr reason va hf

theorem State.judge_traps_zero {rs : List (Nat × Request)} (h : ∀ r ∈ rs, s.fate ctx st spad r.2 ≠ .trap) :
    (s.judge ctx st spad rs).traps = 0 := by
  induction rs with
  | nil => rfl
  | cons r rs ih =>
    have hrs := ih fun q hq => h q (List.mem_cons_of_mem _ hq)
    rw [State.judge_cons]
    cases hf : s.fate ctx st spad r.2 with
    | trap => exact absurd hf (h r List.mem_cons_self)
    | ok | hold | fault | wait => exact hrs

theorem State.judge_traps_has {rs : List (Nat × Request)} {r : Nat × Request} (hr : r ∈ rs) (hn : r.1 < 32)
    (hf : s.fate ctx st spad r.2 = .trap) : has (s.judge ctx st spad rs).traps r.1 = true := by
  have hset : ∀ (m : BitVec 32) k, has m r.1 = true → has (setBit m k true) r.1 = true := by
    intro m k hm
    simp only [has, setBit, if_true, BitVec.getLsbD_or] at hm ⊢
    simp [hm]
  induction rs with
  | nil => cases hr
  | cons q rs ih =>
    rw [State.judge_cons]
    rcases List.mem_cons.1 hr with rfl | hr
    · rw [hf]
      simp [has_setBit _ _ _ _ hn]
    · cases s.fate ctx st spad q.2 with
      | trap => exact hset _ _ (ih hr)
      | ok | hold | fault | wait => exact ih hr

end Verdicts

theorem State.chooseAt_lt (s : State) (key : List Nat) {n : Nat} (h : 0 < n) : s.chooseAt key n < n := by
  unfold State.chooseAt
  split
  · exact h
  · exact Nat.mod_lt _ h

/-- The faults that an access of a word picks from: those of its lanes, and else a double trap (R179, R241). -/
def Issue.accessFaults (c : Issue) (s : State) (a : Ask) : List (Nat × Nat × Nat) :=
  let j := s.judge (s.ctxOf c.gang) c.gang.stack (c.spadSize s) a.reqs
  if j.faults.isEmpty && (j.traps ||| a.traps != 0 && c.wave.core.handler) then [(0, reasonDoubleTrap, 0)] else j.faults

section Access
variable {c : Issue} {i : Instr} {s : State} {a : Ask}
  {perform : List (Nat × List (Target × Nat)) → State → Wave → Option (State × Wave)}

/-- Where there are faults, the access raises one of them, or a speculating wave keeps it. -/
theorem Issue.access_raises (h : c.accessFaults s a ≠ []) :
    ∃ n reason va, (n, reason, va) ∈ c.accessFaults s a ∧ ∃ (u : State) (done : BitVec 32),
      c.access i s a perform = match c.wave.spec with
        | some _ => c.fault s reason va 0 0
        | none => u.raiseHalt (c.halt s reason va done (c.active &&& ~~~done)) := by
  have hlt : s.choose 10 (c.accessFaults s a).length < _ := s.chooseAt_lt [10] (List.length_pos_iff.2 h)
  unfold Issue.access
  dsimp only
  split
  next n reason va hq =>
    have hq : (c.accessFaults s a)[s.choose 10 (c.accessFaults s a).length]? = some (n, reason, va) := hq
    exact ⟨n, reason, va, List.mem_of_getElem? hq, _, _, rfl⟩
  next hq =>
    have hq : (c.accessFaults s a)[s.choose 10 (c.accessFaults s a).length]? = none := hq
    exact absurd (List.getElem?_eq_none_iff.1 hq) (by omega)

/-- The faults of an access with a faulting lane are those of its lanes. -/
theorem Issue.mem_accessFaults (h : ∃ r ∈ a.reqs, ∃ reason va, c.fateOf s r.2 = .fault reason va) :
    c.accessFaults s a ≠ [] ∧ ∀ n reason va, (n, reason, va) ∈ c.accessFaults s a →
      ∃ r ∈ a.reqs, c.fateOf s r.2 = .fault reason va := by
  obtain ⟨r, hr, reason, va, hf⟩ := h
  have hmem := State.mem_judge_faults.2 ⟨r, hr, rfl, hf⟩
  have heq : c.accessFaults s a = (s.judge (s.ctxOf c.gang) c.gang.stack (c.spadSize s) a.reqs).faults := by
    rw [Issue.accessFaults, List.isEmpty_eq_false_iff.2 (List.ne_nil_of_mem hmem), Bool.false_and, if_neg (by simp)]
  rw [heq]
  refine ⟨List.ne_nil_of_mem hmem, fun n reason va hx => ?_⟩
  obtain ⟨q, hq, -, hqf⟩ := State.mem_judge_faults.1 hx
  exact ⟨q, hq, hqf⟩

/-- An access without faults at which a lane traps in handler mode has the double trap as its fault. -/
theorem Issue.accessFaults_double (hh : c.wave.core.handler = true)
    (hf : ∀ r ∈ a.reqs, ∀ reason va, c.fateOf s r.2 ≠ .fault reason va)
    (ht : a.traps ≠ 0 ∨ ∃ r ∈ a.reqs, r.1 < 32 ∧ c.fateOf s r.2 = .trap) :
    c.accessFaults s a = [(0, reasonDoubleTrap, 0)] := by
  have hnz : ((s.judge (s.ctxOf c.gang) c.gang.stack (c.spadSize s) a.reqs).traps ||| a.traps) ≠ 0 := by
    rcases ht with ht | ⟨r, hr, hn, htrap⟩
    · exact fun h0 => ht (BitVec.or_eq_zero_iff.1 h0).2
    · refine mask_ne_zero r.1 ?_
      have := State.judge_traps_has hr hn htrap
      simp only [has, BitVec.getLsbD_or] at this ⊢
      rw [this, Bool.true_or]
  rw [Issue.accessFaults, State.judge_faults_nil hf, hh, bne_iff_ne.2 hnz]
  rfl

/-- An access at which no lane faults or traps and some lane waits for a page is held, and asks for the pages. -/
theorem Issue.access_holds (ht : a.traps = 0) (hnt : ∀ r ∈ a.reqs, c.fateOf s r.2 ≠ .trap)
    (hnf : ∀ r ∈ a.reqs, ∀ reason va, c.fateOf s r.2 ≠ .fault reason va)
    (hh : ∃ r ∈ a.reqs, ∃ page, c.fateOf s r.2 = .hold page) :
    c.access i s a perform =
      (let pages := (s.judge (s.ctxOf c.gang) c.gang.stack (c.spadSize s) a.reqs).holds.map Prod.snd
      let u := pages.foldl (fun t p => t.pageRequest (s.ctxOf c.gang) c.gang.stack p a.access) s
      u.setWave c.g c.w (c.note u { c.wave with
        core := { c.wave.core with frontier := putEntry c.wave.core.frontier c.k c.entry }
        held := some ⟨i, c.active, pages.eraseDups, s.tick⟩ })) := by
  obtain ⟨r, hr, page, hp⟩ := hh
  have hne : (s.judge (s.ctxOf c.gang) c.gang.stack (c.spadSize s) a.reqs).holds ≠ [] :=
    fun h0 => List.ne_nil_of_mem (State.mem_judge_holds.2 ⟨r, hr, hp⟩) (by rw [h0]; rfl)
  have hself : c.wave.core.recordItems c.entry 0 (fun _ => causeIllegalLane) c.entry.pc = c.wave.core := by
    rw [WaveCore.recordItems, mapLanes_self _ fun n l _ => by simp [has]]
    simp
  have hall : ∀ m : BitVec 32, m &&& ~~~0 = m := fun m => by
    rw [BitVec.ofNat_eq_ofNat, BitVec.not_zero, BitVec.and_allOnes]
  obtain ⟨⟨ok, traps, holds, waits, faults⟩, hj⟩ :
      ∃ j, s.judge (s.ctxOf c.gang) c.gang.stack (c.spadSize s) a.reqs = j := ⟨_, rfl⟩
  have htraps := State.judge_traps_zero hnt
  have hfaults := State.judge_faults_nil hnf
  rw [hj] at hne htraps hfaults ⊢
  subst htraps hfaults
  dsimp only at hne
  unfold Issue.access
  unfold Issue.spadSize at hj
  simp only [hj, ht, show ((0 : BitVec 32) ||| 0) = 0 from rfl, bne_self_eq_false, Bool.false_and, Bool.and_false,
    Bool.false_eq_true, if_false, List.getElem?_nil, List.isEmpty_eq_false_iff.2 hne, Bool.not_false, if_true,
    WaveCore.record, hself, hall, List.foldl_map]

end Access

/-- Settles O24: the fate of each lane, the choice among faults, the double trap and the hold. -/
theorem accessChecks : Obligations.AccessChecks := by
  refine ⟨fun s ctx st spad r hm => ?_, fun s ctx st spad r hm ha hmis => ?_, fun i s c a perform hs hf => ?_,
    fun i s c a perform hs hh hf ht => ?_, fun i s c a perform sp hs hf => ?_, fun i s c a perform ht hok hh => ?_⟩
  · rw [State.fate, if_pos hm]
  · rw [State.fate, if_neg (by simp [hm]), if_pos (by simp [ha, hmis])]
  · obtain ⟨hne, hmem⟩ := Issue.mem_accessFaults hf
    obtain ⟨n, reason, va, hx, u, done, he⟩ := Issue.access_raises (i := i) (perform := perform) hne
    rw [hs] at he
    exact ⟨u, reason, va, done, he, hmem n reason va hx⟩
  · have hdouble := Issue.accessFaults_double hh hf ht
    obtain ⟨n, reason, va, hx, u, done, he⟩ :=
      Issue.access_raises (i := i) (perform := perform) (by rw [hdouble]; exact List.cons_ne_nil _ _)
    rw [hdouble, List.mem_singleton] at hx
    cases hx
    rw [hs] at he
    exact ⟨u, 0, done, he⟩
  · obtain ⟨hne, hmem⟩ := Issue.mem_accessFaults hf
    obtain ⟨n, reason, va, hx, u, done, he⟩ := Issue.access_raises (i := i) (perform := perform) hne
    rw [hs] at he
    refine ⟨reason, va, hmem n reason va hx, he.trans ?_⟩
    rw [Issue.fault, hs]
  · refine ⟨_, fun page => State.mem_judge_holds, Issue.access_holds ht (fun r hr h => ?_) (fun r hr reason va h => ?_) hh⟩
    all_goals
      rcases hok r hr with ⟨_, hok⟩ | ⟨_, hok⟩ | ⟨_, hok⟩ <;> rw [hok] at h <;> cases h

end Sys2Proof.Machine
end

section
/-! SUPPORT. TRET: its lanes read through filled caches what they would read before, and how handler mode ends. -/
namespace Sys2Proof.Machine

/-! ### What filled translation caches leave as it is -/

theorem SameButCaches.frozenPieces {s t : State} (h : SameButCaches s t) (st : Nat) (ps : List (Target × Nat)) :
    t.frozenPieces st ps = s.frozenPieces st ps := by
  obtain ⟨tlb, e⟩ := h.2 st
  unfold State.frozenPieces State.frozenFor
  rw [e]

theorem SameButCaches.recallLines {s t : State} (h : SameButCaches s t) (write : Bool) (ps : List (Target × Nat)) :
    t.recallLines write ps = s.recallLines write ps := by
  have hsnoop : ∀ st, (t.stack st).snoops = (s.stack st).snoops := fun st => by obtain ⟨tlb, e⟩ := h.2 st; rw [e]
  unfold State.recallLines State.snoopLines
  simp only [hsnoop]

theorem SameButCaches.laneAgent {s t : State} (h : SameButCaches s t) (g w n : Nat) (l : Lane) (sc : Scope) :
    t.laneAgent g w n l sc = s.laneAgent g w n l sc := by
  rw [h.1]; rfl

/-- The device's choice among the orders of some stores hangs on the step alone. -/
theorem State.sequence_tick {s t : State} (h : t.tick = s.tick) (a : Agent) (key : List Nat) (n : Nat) (xs : List Stored) :
    t.sequence a key n xs = s.sequence a key n xs := by
  induction n generalizing xs with
  | zero => rfl
  | succ n ih =>
    unfold State.sequence
    simp only [State.chooseAt, h, ih]

theorem SameButCaches.look {s t : State} (h : SameButCaches s t) (a : Agent) (key : List Nat) (x : Target) (n : Nat) :
    a.look key t x n = a.look key s x n := by
  have htick : t.tick = s.tick := by rw [h.1]
  have htables : t.tables = s.tables := by rw [h.1]; rfl
  have hpast : t.past = s.past := by rw [h.1]; rfl
  unfold Agent.look State.observe State.draw
  simp only [State.chooseAt, State.sequence_tick htick, htick, htables, hpast]

theorem SameButCaches.launchOf {s t : State} (h : SameButCaches s t) (g : Gang) : t.launchOf g = s.launchOf g := by
  rw [h.1]; rfl

/-! ### The lanes' reads (R242) -/

/-- A lane of TRET reads these values: its checks pass, nothing stands in its way, and what it finds is in order. -/
def Issue.TretReads (c : Issue) (s : State) (record n : Nat) (ps : List (Target × Nat)) (r : TrapReturn) : Prop :=
  s.tretReach c record n = .ok ps ∧ s.frozenPieces c.gang.stack ps = false ∧ s.recallLines false ps = [] ∧
  (∀ pa leaf va k, (Target.mem pa leaf va, k) ∈ ps → s.portDown c.gang.stack pa = false) ∧
  let found := ps.map (fun p => (s.laneAgent c.g c.w n (c.wave.core.lane n) .none).look [19, n] s p.1 p.2)
  let bs := found.flatMap (fun g => g.bytes)
  (∀ g ∈ found, g.mark = false) ∧
    tretValue (bs.getD 0 0) (bs.getD 1 0) (BitVec.ofNat 64 (leNat (bs.drop 2))) record = .ok r

theorem State.tretLane_ok {s t : State} {c : Issue} {record n : Nat} {ps : List (Target × Nat)} {r : TrapReturn}
    (hl : ∀ l, s.launchOf c.gang = some l → l.desc.capture = false) (hc : SameButCaches s t)
    (h : c.TretReads s record n ps r) :
    ∃ u, SameButCaches s u ∧ t.tretLane c record n (s.tretReach c record n) = (.ok r, u) := by
  obtain ⟨hreach, hfrozen, hrecall, hup, hmark, hval⟩ := h
  have hfill := hc.trans (fillFrom_caches t (t.ctxOf c.gang) c.gang.stack (some c.wave.coreId) ps)
  refine ⟨_, hfill, ?_⟩
  unfold State.tretLane
  rw [hreach]
  dsimp only
  rw [hc.frozenPieces, hc.recallLines, hfrozen, hrecall, if_neg (by simp), hc.laneAgent, hc.launchOf,
    readThrough_plain hl fun pa leaf va k hm => (hfill.portDown _ _).trans (hup pa leaf va k hm)]
  dsimp only
  simp only [hfill.look]
  rw [if_neg (by simpa using fun x k hm => hmark _ (List.mem_map_of_mem hm)), hval]

theorem State.tretLanes_ok {s : State} {c : Issue} {record : Nat} {ps : Nat → List (Target × Nat)} {rs : Nat → TrapReturn}
    (hl : ∀ l, s.launchOf c.gang = some l → l.desc.capture = false) {ns : List Nat}
    (h : ∀ n ∈ ns, c.TretReads s record n (ps n) (rs n)) {t : State} (hc : SameButCaches s t) :
    ∃ u, SameButCaches s u ∧ State.tretLanes c record (ns.map (fun n => (n, s.tretReach c record n))) t =
      (ns.map (fun n => (n, .ok (rs n))), u) := by
  induction ns generalizing t with
  | nil => exact ⟨t, hc, rfl⟩
  | cons n ns ih =>
    obtain ⟨u, hu, hlane⟩ := State.tretLane_ok hl hc (h n List.mem_cons_self)
    obtain ⟨v, hv, hrest⟩ := ih (fun m hm => h m (List.mem_cons_of_mem _ hm)) hu
    exact ⟨v, hv, by rw [List.map_cons, State.tretLanes, hlane]; dsimp only; rw [hrest]; rfl⟩

/-! ### The end of handler mode (R243) -/

theorem WaveCore.endHandlerIfOver_stays {core : WaveCore} (h : ∃ e ∈ core.frontier, e.aside = false) :
    core.endHandlerIfOver = core := by
  obtain ⟨e, he, ha⟩ := h
  rw [WaveCore.endHandlerIfOver, if_neg]
  rw [WaveCore.handlerOver, Bool.and_eq_true, List.all_eq_true]
  exact fun hall => by simpa [ha] using hall.2 e he

/-- The entry of a lane that returned. -/
def returnEntry (n : Nat) (r : TrapReturn) : Entry where
  lanes := setBit 0 n true
  pc := r.resume
  prio := r.prio
  state := .ready
  guard := if r.guardCount = 0 then ⟨0, 0⟩ else ⟨r.guardCount, if r.guardIn then setBit 0 n true else 0⟩
  aside := false

theorem WaveCore.endHandlerIfOver_ends {core : WaveCore} (hh : core.handler = true) (h : ∀ e ∈ core.frontier, e.aside = true) :
    core.endHandlerIfOver = { core.mapLanes (fun _ l => { l with trap := none, returned := none }) with
      frontier := core.frontier.map (fun e => { e with aside := false }) ++
        (List.range 32).filterMap (fun n => ((core.lane n).returned).map (returnEntry n))
      handler := false, trapmask := 0, latchCount := 0, last := none } := by
  rw [WaveCore.endHandlerIfOver, if_pos]
  · rfl
  · rw [WaveCore.handlerOver, hh, Bool.true_and, List.all_eq_true]
    exact h

/-- The lane of a return's entry is in its guard exactly when it was. -/
theorem returnEntry_guard {n : Nat} (hn : n < 32) (r : TrapReturn) : (returnEntry n r).guard.count = r.guardCount ∧
    (r.guardCount ≠ 0 → has (returnEntry n r).guard.mask n = r.guardIn) := by
  unfold returnEntry
  by_cases h0 : r.guardCount = 0
  · simp [h0]
  · cases hin : r.guardIn
    · simp [h0, has]
    · simp [h0, has_setBit _ _ _ _ hn]

/-- The list of numbers with their values, looked up. -/
theorem aget_map_pair {α : Type} (f : Nat → α) (ns : List Nat) (n : Nat) :
    aget (ns.map (fun k => (k, f k))) n = if n ∈ ns then some (f n) else none := by
  induction ns with
  | nil => rfl
  | cons k ks ih =>
    by_cases hk : k = n
    · subst hk; simp [aget]
    · rw [List.map_cons, aget, if_neg hk, ih]
      simp [Ne.symm hk]

/-- What the words of a trap record hold where TRET takes them. -/
theorem tretValue_eq (prio guard : Byte) (resume : W64) (record : Nat) :
    tretValue prio guard resume record =
      if resume.toNat % 4 = 0 ∧ resume.toNat < 2 ^ 56 ∧ prio.toNat < 64 ∧ guard.toNat < 64 ∧ guard.toNat % 32 ≤ 16 then
        .ok ⟨resume, BitVec.ofNat 6 prio.toNat, guard.toNat % 32, decide (32 ≤ guard.toNat)⟩
      else .fault reasonBadReturn record := by
  have hzero : ∀ {w : Nat} (x : BitVec w) (k m : Nat), (x.extractLsb' k m != 0) = decide (x.toNat / 2 ^ k % 2 ^ m ≠ 0) := by
    intro w x k m
    rw [Bool.eq_iff_iff, bne_iff_ne, decide_eq_true_iff, ne_eq, ne_eq, ← BitVec.toNat_inj, BitVec.extractLsb'_toNat,
      Nat.shiftRight_eq_div_pow, BitVec.ofNat_eq_ofNat, BitVec.toNat_zero]
  have hprio : prio.setWidth 6 = BitVec.ofNat 6 prio.toNat := by
    exact BitVec.eq_of_toNat_eq (by rw [BitVec.toNat_setWidth, BitVec.toNat_ofNat])
  have hguard : (guard.extractLsb' 0 5).toNat = guard.toNat % 32 := by
    rw [BitVec.extractLsb'_toNat, Nat.shiftRight_zero]
  have hin : guard.toNat < 64 → has guard 5 = decide (32 ≤ guard.toNat) := by
    intro h
    rw [has, BitVec.getLsbD, Nat.testBit_eq_decide_div_mod_eq]
    exact decide_eq_decide.2 (by omega)
  have hr := resume.isLt
  have hp := prio.isLt
  have hg := guard.isLt
  rw [tretValue, hzero, hzero, hzero, hzero, hprio, hguard]
  by_cases hok : resume.toNat % 4 = 0 ∧ resume.toNat < 2 ^ 56 ∧ prio.toNat < 64 ∧ guard.toNat < 64 ∧ guard.toNat % 32 ≤ 16
  · rw [if_pos hok, if_neg, hin hok.2.2.2.1]
    simp only [Bool.or_eq_true, decide_eq_true_iff]
    omega
  · rw [if_neg hok, if_pos]
    simp only [Bool.or_eq_true, decide_eq_true_iff]
    omega

/-- What a TRET does whose lanes all read their values. -/
theorem tret_returns {s : State} {c : Issue} {x : Context} {l : Launch} (h : Executes .tret s c)
    (hx : aget s.contexts (s.ctxOf c.gang) = some x) (hl : s.launchOf c.gang = some l) (hcap : l.desc.capture = false)
    {ps : Nat → List (Target × Nat)} {rs : Nat → TrapReturn}
    (hreads : ∀ n, c.on n = true → c.TretReads s (trapRecordAddress x l c.gang c.w) n (ps n) (rs n)) :
    ∃ t, SameButCaches s t ∧ exec .tret s = .next (t.setWave c.g c.w { c.note s c.wave with
      core := { c.wave.core.return c.k ((bitsOf c.active).map (fun n => (n, rs n))) with last := none, tokenWait := none } }) := by
  have hcaptured : ∀ k, s.launchOf c.gang = some k → k.desc.capture = false := fun k hk => by
    rw [hl] at hk; cases hk; exact hcap
  obtain ⟨u, hu, hlanes⟩ := State.tretLanes_ok hcaptured (ns := bitsOf c.active)
    (fun n hn => hreads n ((mem_bitsOf _ _).1 hn)) (.rfl' s)
  refine ⟨u, hu, ?_⟩
  have e : exec .tret s = .next _ := issueWord_go h _
  rw [e]
  dsimp only
  rw [hx, hl]
  dsimp only
  rw [hlanes]
  dsimp only
  simp only [List.filterMap_map, Function.comp_def, filterMap_never, List.getElem?_nil]
  rw [← List.filterMap_eq_map]
  rfl

/-- Settles O21. -/
theorem returnFromTrap : Obligations.ReturnFromTrap := by
  refine ⟨fun s c x l h hx hl hcap => ?_, fun prio guard resume record => ?_, fun core hh => ⟨?_, fun hall => ?_⟩⟩
  · intro record ps rs hreads
    obtain ⟨t, ht, e⟩ := tret_returns h hx hl hcap hreads
    refine ⟨t, _, ht, e, mapIdx_laneWise _ _ _ fun n l _ => ?_⟩
    simp only [aget_map_pair, mem_bitsOf, Issue.on]
    by_cases hn : has c.active n = true
    · simp [hn]
    · simp [hn]
  · exact tretValue_eq prio guard resume record
  · exact WaveCore.endHandlerIfOver_stays
  · refine ⟨_, _, WaveCore.endHandlerIfOver_ends hh hall, mapIdx_laneWise _ _ _ fun n l _ => rfl, fun e he => ?_,
      fun n r hn hr => ?_, ?_⟩
    · obtain ⟨n, -, hn⟩ := List.mem_filterMap.1 he
      obtain ⟨r, -, rfl⟩ := Option.map_eq_some_iff.1 hn
      exact ⟨rfl, rfl⟩
    · obtain ⟨hcount, hguard⟩ := returnEntry_guard hn r
      exact ⟨returnEntry n r, List.mem_filterMap.2 ⟨n, List.mem_range.2 hn, by rw [hr]; rfl⟩, rfl, rfl, rfl, hcount, hguard⟩
    · rw [List.length_filterMap_eq_countP]
      simp

end Sys2Proof.Machine
end

section
/-! SUPPORT. A record that is stored through a port that is down: the event of R354 reaches the event ring's control block. -/
namespace Sys2Proof.Machine

/-! ### An event at a ring that is full (R379) -/

/-- The ring of the partition of stack st is at this block, valid and full; nothing keeps the arbiter from numbering an event,
and no wave speculates. -/
structure State.RingFull (s : State) (st block : Nat) : Prop where
  valid : (s.partition (s.stack st).partNum).evValid = true
  place : (s.partition (s.stack st).partNum).evBlock = block
  inOrder : (s.ringBlock block).ok = true
  full : (s.ringBlock block).entries ≤ (s.ringBlock block).produced - (s.ringBlock block).taken
  idle : s.waitingEvents = []
  still : s.castling = none
  clear : s.ringLines (s.stack st).partNum = []
  thawed : s.ringFrozen (s.stack st).partNum = false
  alone : ∀ p ∈ s.gangs, ∀ w ∈ p.2.waves, w.spec = none

theorem State.conflicts_alone {s : State} (h : ∀ p ∈ s.gangs, ∀ w ∈ p.2.waves, w.spec = none) (own : Option (Nat × Nat))
    (spadOf : Option Nat) (secs : List Nat) : s.conflicts own spadOf secs = s := by
  have hnone : s.conflicting own spadOf secs = [] := by
    refine List.flatMap_eq_nil_iff.2 fun p hp => ?_
    refine ite_eq_left_iff.2 fun _ => List.filterMap_eq_nil_iff.2 fun q hq => ?_
    obtain ⟨k, hk, rfl⟩ := List.mem_mapIdx.1 hq
    rw [h p hp _ (List.getElem_mem hk)]
  rw [State.conflicts, hnone]
  rfl

/-- An event that finds the ring full adds one to the count of those lost. -/
theorem State.RingFull.event {s : State} {st block : Nat} (h : s.RingFull st block) (code ctx : Nat) (detail : List Byte) :
    s.event code st ctx detail =
      s.nextSeq.putDevice (block + 40) (natLe 8 (s.nextSeq.readNat (block + 40) 8 + 1)) := by
  obtain ⟨hvalid, hplace, hok, hfull, hidle, hstill, hclear, hthawed, -⟩ := h
  subst hplace
  generalize he : (⟨code, (s.stack st).partNum, st, ctx, (s.stack st).now, detail⟩ : Event) = e
  have hp : e.partition = (s.stack st).partNum := by rw [← he]
  have hs : { s with waitingEvents := [] } = s := by rw [← hidle]
  have hfree : ({ s with waitingEvents := [e] } : State).arbiterFree e = true := by
    have hlines : ({ s with waitingEvents := [e] } : State).ringLines e.partition = [] := hp ▸ hclear
    have hfrozen : ({ s with waitingEvents := [e] } : State).ringFrozen e.partition = false := hp ▸ hthawed
    rw [State.arbiterFree, hlines, hfrozen]
    dsimp only
    rw [hstill]
    rfl
  rw [State.event, he, State.send, hidle, List.length_nil, List.nil_append, State.numberWaiting]
  dsimp only
  rw [if_pos hfree, State.numberWaiting, hs, State.number, hp]
  have hblock : ∀ b, s.nextSeq.ringBlock b = s.ringBlock b := fun _ => rfl
  rw [hblock, hvalid, hok, if_neg (by simp), if_pos hfull]

/-- A write that no wave has speculated on changes memory, its poison and its history. -/
theorem State.put_alone {s : State} (h : ∀ p ∈ s.gangs, ∀ w ∈ p.2.waves, w.spec = none) (au : Author) (pa : Nat)
    (bs : List Byte) (mark : Bool) : s.put au pa bs mark = s.writeMem au pa bs mark :=
  State.conflicts_alone (s := s.writeMem au pa bs mark) h ..

theorem State.readNat_writeMem {s : State} {au : Author} {pa : Nat} {bs : List Byte} {mark : Bool} {x n : Nat}
    (h : x + n ≤ pa) : (s.writeMem au pa bs mark).readNat x n = s.readNat x n := by
  rw [State.readNat, State.writeMem, readBytes_writeBytes_other _ _ _ _ _ (.inl h)]
  rfl

theorem State.ringBlock_writeMem {s : State} {au : Author} {pa : Nat} {bs : List Byte} {mark : Bool} {block : Nat}
    (h : block + 64 ≤ pa) : (s.writeMem au pa bs mark).ringBlock block = s.ringBlock block := by
  have hread : ∀ k n, k + n ≤ 64 → (s.writeMem au pa bs mark).readNat (block + k) n = s.readNat (block + k) n :=
    fun k n hk => State.readNat_writeMem (by omega)
  have hstart : (s.writeMem au pa bs mark).readNat block 8 = s.readNat block 8 := State.readNat_writeMem (by omega)
  unfold State.ringBlock
  rw [hstart, hread 8 4 (by omega), hread 14 2 (by omega), hread 16 4 (by omega), hread 12 2 (by omega),
    hread 24 8 (by omega), hread 32 8 (by omega), hread 20 4 (by omega), hread 48 16 (by omega)]

/-- A write beside the block leaves the ring as it is. -/
theorem State.RingFull.put {s : State} {st block : Nat} (h : s.RingFull st block) (au : Author) {pa : Nat} (hpa : block + 64 ≤ pa)
    (bs : List Byte) (mark : Bool) : (s.put au pa bs mark).RingFull st block := by
  obtain ⟨hvalid, hplace, hok, hfull, hidle, hstill, hclear, hthawed, halone⟩ := h
  have hstack : ∀ k, (s.writeMem au pa bs mark).stack k = s.stack k := fun _ => rfl
  have hpart : ∀ p, (s.writeMem au pa bs mark).partition p = s.partition p := fun _ => rfl
  have hblock := State.ringBlock_writeMem (s := s) (au := au) (bs := bs) (mark := mark) hpa
  rw [State.put_alone halone]
  refine ⟨?_, ?_, ?_, ?_, hidle, hstill, ?_, ?_, halone⟩
  · rwa [hstack, hpart]
  · rwa [hstack, hpart]
  · rwa [hblock]
  · rwa [hblock]
  · unfold State.ringLines State.snoopLines at hclear ⊢
    simpa only [hstack, hpart, hplace, hblock] using hclear
  · unfold State.ringFrozen State.frozenFor State.activeStack at hthawed ⊢
    simpa only [hstack, hpart, hplace, hblock] using hthawed

/-- A piece that goes to a port that is down adds one to the count of a full ring. -/
theorem State.RingFull.storePieces {s : State} {st block : Nat} (h : s.RingFull st block) {a : Agent} {release : Bool}
    {core : Nat} {bs : List Byte} {mark : Bool} {pa n va : Nat} {leaf : Leaf} {ps : List (Target × Nat)}
    (hpa : block + 64 ≤ pa) (hdown : s.portDown st pa = true) (hport : s.port st pa = some st) (hpast : s.past .mem pa = [])
    (hup : ∀ q leaf va n, (Target.mem q leaf va, n) ∈ ps → s.portDown st q = false)
    (hoff : ¬ StoredAt ps (block + 40)) :
    Sparse.get 0 (s.storePieces a release st core bs mark ((.mem pa leaf va, n) :: ps)).mem (block + 40) =
      (natLe 8 (s.readNat (block + 40) 8 + 1)).headD 0 := by
  have hrace : ∀ point, s.racing a point pa n false = none := fun point => by rw [State.racing, hpast]; rfl
  obtain ⟨au, hstep⟩ : ∃ au, s.storePieces a release st core bs mark ((.mem pa leaf va, n) :: ps) =
      (s.failedWrite au st pa (bs.take n).length mark).storePieces a release st core (bs.drop n) mark ps := by
    refine ⟨a.author release s.history.length (s.pointOf core st (.mem pa leaf va) (Scope.narrow a.scope)), ?_⟩
    simp only [State.storePieces, hrace, Option.isSome_none, Bool.false_and, Bool.false_eq_true, if_false, State.storePiece,
      hdown, if_true]
  have hopen : s.ringOpen st st = true := by rw [State.ringOpen, beq_self_eq_true, Bool.true_or]
  have hput := h.put au hpa ((List.range (bs.take n).length).map (fun k => Config.freeByte s.tick (pa + k))) mark
  rw [hstep, State.failedWrite, hport]
  dsimp only [Option.getD_some]
  rw [if_pos hopen, hput.event]
  generalize (List.range (bs.take n).length).map (fun k => Config.freeByte s.tick (pa + k)) = bytes at hput ⊢
  have hring : s.SameRing ((s.put au pa bytes mark).nextSeq.putDevice (block + 40)
      (natLe 8 ((s.put au pa bytes mark).nextSeq.readNat (block + 40) 8 + 1))) :=
    (State.put_ring s au pa bytes mark).trans (State.put_ring (s.put au pa bytes mark).nextSeq _ _ _ _)
  rw [(State.storePieces_frame fun q leaf va m hm => (hring.portDown st q).trans (hup q leaf va m hm)).2 _ hoff]
  have hread : (s.put au pa bytes mark).nextSeq.readNat (block + 40) 8 = s.readNat (block + 40) 8 := by
    rw [State.put_alone h.alone]
    exact State.readNat_writeMem (s := s) (au := au) (mark := mark) (by omega)
  rw [hread, State.putDevice, State.put_mem]
  exact get_writeBytes_same _ _ 0 (natLe 8 _) (by rw [natLe_length]; omega)

/-! ### The state -/

/-- The system page that holds the start of the record. -/
def systemPage : Nat := 12 * stackSpan

/-- A wave whose lanes wait in the deferred path. Its context's trap area starts in the last 16 bytes of a page that lies in
system memory behind stack 0's own port, which is down; the rest is local. The partition's event ring has its control block
at 0x8000: 16 entries at 0x9000, of which 16 are produced and none is taken. -/
def State.recordAtDeadPort : State :=
  let s := State.reset.withFetchWord 32 (encode .nop).toNat
  let s := (s.modContext 0 (fun x => { x with trapEntry := 0x100, trapArea := 0x1FFF0 })).modWave 0 0
    (fun w => { w with core := { w.core with trapmask := 0xFFFFFFFF, frontier := [] } })
  let s := (s.modStack 0 (fun t => { t with linkUp := false, routes := [(1, 0x000FFFFFC0000000)] })).modPartition 0
    (fun p => { p with evValid := true, evBlock := 0x8000 })
  { s with mem := [(0x5008, 0xE), (0x500C, 0xC0), (0x500F, 0x80), (0x5010, 0xE), (0x5012, 1), (0x5017, 0x80),
      (0x8001, 0x90), (0x8008, 16), (0x800E, 1), (0x8018, 16)].foldl (fun m p => Sparse.set 0 m p.1 p.2) s.mem }

/-- The record's pieces there. -/
def recordReach : Reach :=
  State.recordAtDeadPort.reachFrom 0 0 (some 0) 32 65536 .trapRecord true (sectorPieces 0x1FFF0 512)

def recordPieces : List (Target × Nat) := match recordReach with | .ok ps => ps | _ => []

/-- The state whose translation caches hold the record's pages. -/
def State.recordFilled : State := State.recordAtDeadPort.fillFrom 0 0 (some 0) recordPieces

theorem recordReach_ok : recordReach = .ok recordPieces := by decide

theorem recordPieces_first :
    ∃ leaf va, recordPieces = (.mem (systemPage + 0xFFF0) leaf va, 16) :: recordPieces.tail := by
  have h : (match recordPieces with
    | (.mem pa _ _, n) :: _ => pa == systemPage + 0xFFF0 && n == 16 | _ => false) = true := by decide
  split at h
  next pa leaf va n ps hps =>
    rw [Bool.and_eq_true, beq_iff_eq, beq_iff_eq] at h
    obtain ⟨rfl, rfl⟩ := h
    exact ⟨leaf, va, by rw [hps, List.tail_cons]⟩
  next => cases h

/-- No piece reaches below the page of the word, and all but the first are local. -/
theorem recordPieces_place : ∀ pa leaf va n, (Target.mem pa leaf va, n) ∈ recordPieces →
    0x10000 ≤ pa ∧ ((Target.mem pa leaf va, n) ∈ recordPieces.tail → isLocal pa = true) := by
  have h : recordPieces.all (fun p => match p.1 with
    | .mem pa _ _ => decide (0x10000 ≤ pa) | .spd _ => false) = true := by decide
  have htail : recordPieces.tail.all (fun p => match p.1 with | .mem pa _ _ => isLocal pa | .spd _ => false) = true := by
    decide
  intro pa leaf va n hp
  exact ⟨of_decide_eq_true (List.all_eq_true.1 h _ hp), fun hp => List.all_eq_true.1 htail _ hp⟩

theorem recordPieces_below {ps : List (Target × Nat)} (h : ps ⊆ recordPieces) : ¬ StoredAt ps 0x8028 := by
  rintro ⟨n, q, leaf, va, hm, hle, -⟩
  have := (recordPieces_place q leaf va n (h hm)).1
  omega

theorem recordFilled_ring : State.recordFilled.RingFull 0 0x8000 where
  valid := by decide
  place := by decide
  inOrder := by decide
  full := by decide
  idle := by decide
  still := by decide
  clear := by decide
  thawed := by decide
  alone := by
    have h : State.recordFilled.gangs.all (fun p => p.2.waves.all (fun w => w.spec.isNone)) = true := by decide
    simpa only [List.all_eq_true, Option.isNone_iff_eq_none] using h

/-- The wave is about to enter its handler, at whose record these pieces are in reach. -/
theorem recordAtDeadPort_due : ∃ gang wave x l, aget State.recordAtDeadPort.gangs 0 = some gang ∧ gang.waves[0]? = some wave ∧
    State.recordAtDeadPort.waveAlive 0 0 gang wave = true ∧ wave.held = none ∧ wave.core.handler = false ∧
    wave.core.trapmask ≠ 0 ∧ wave.core.frontier = [] ∧ aget State.recordAtDeadPort.contexts 0 = some x ∧
    State.recordAtDeadPort.launchOf gang = some l ∧ x.trapEntry ≠ 0 ∧ x.trapArea ≠ 0 ∧
    State.recordAtDeadPort.ctxOf gang = 0 ∧ gang.stack = 0 ∧ wave.coreId = 0 ∧ State.recordAtDeadPort.spadSize gang = 65536 ∧
    trapRecordAddress x l gang 0 = 0x1FFF0 := by
  have h : (match aget State.recordAtDeadPort.gangs 0 with
    | none => false
    | some gang => match gang.waves[0]?, aget State.recordAtDeadPort.contexts 0, State.recordAtDeadPort.launchOf gang with
      | some wave, some x, some l =>
        decide (State.recordAtDeadPort.waveAlive 0 0 gang wave = true ∧ wave.held = none ∧ wave.core.handler = false ∧
          wave.core.trapmask ≠ 0 ∧ wave.core.frontier = [] ∧ x.trapEntry ≠ 0 ∧ x.trapArea ≠ 0 ∧
          State.recordAtDeadPort.ctxOf gang = 0 ∧ gang.stack = 0 ∧ wave.coreId = 0 ∧
          State.recordAtDeadPort.spadSize gang = 65536 ∧ trapRecordAddress x l gang 0 = 0x1FFF0)
      | _, _, _ => false) = true := by decide
  split at h
  next => cases h
  next gang hgang =>
    split at h
    next wave x l hwave hx hl =>
      obtain ⟨halive, hheld, hmode, hmask, hfront, hrest⟩ := of_decide_eq_true h
      exact ⟨gang, wave, x, l, hgang, hwave, halive, hheld, hmode, hmask, hfront, hx, hl, hrest⟩
    next => cases h

/-- Refutes O20: the first 16 bytes of the record are lost at a port that is down, which the package reports; the event finds
the ring full and counts itself as lost in the ring's control block, a byte of memory outside the record. -/
theorem not_handlerEntry : ¬ Obligations.HandlerEntry := by
  intro h
  obtain ⟨gang, wave, x, l, hgang, hwave, halive, hheld, hmode, hmask, hfront, hx, hl, hentry, harea, hctx, hst, hcore,
    hspad, haddr⟩ := recordAtDeadPort_due
  obtain ⟨-, henters⟩ := h State.recordAtDeadPort 0 0 gang wave x l hgang hwave halive hheld
    (.inr ⟨hmode, hmask, by simp [hfront], by rw [WaveCore.releasable, hfront]; rfl⟩) (hctx ▸ hx) hl
  obtain ⟨-, -, hok⟩ := henters hentry harea
  obtain ⟨leaf, va, hps⟩ := recordPieces_first
  rw [hctx, hst, hcore, hspad] at hok
  obtain ⟨core, -, -, hframe⟩ := hok recordPieces (by rw [← recordReach_ok, recordReach, ← haddr]; rfl) (by decide) (by decide)
  have hcount := recordFilled_ring.storePieces (a := State.recordAtDeadPort.recordAgent 0 0 wave) (release := false)
    (core := 0) (bs := trapRecord wave.core (State.recordAtDeadPort.stack 0).now l.desc.launchid) (mark := false)
    (pa := systemPage + 0xFFF0) (n := 16) (va := va) (leaf := leaf) (ps := recordPieces.tail) (by decide) (by decide)
    (by decide) (by decide) (fun q leaf va n hm => ?_) (recordPieces_below (fun _ => List.mem_of_mem_tail))
  · rw [← hps] at hcount
    have := hcount.symm.trans (hframe 0x8028 (recordPieces_below (List.Subset.refl _)))
    revert this
    decide
  · have hlocal := (recordPieces_place q leaf va n (List.mem_of_mem_tail hm)).2 hm
    rw [State.portDown, State.port, if_pos hlocal]

end Sys2Proof.Machine
end

section
/-! SUPPORT. Atomics: what their performing leaves as it is, the order of the lanes, and the arithmetic. -/
namespace Sys2Proof.Machine

/-! ### The order that the device chooses (R191) -/

theorem State.shuffle_perm {α : Type} (s : State) (key : List Nat) (n : Nat) (xs : List α) : (s.shuffle key n xs).Perm xs := by
  induction n generalizing xs with
  | zero => exact .refl _
  | succ n ih =>
    rw [State.shuffle]
    split
    next x hx =>
      obtain ⟨hlt, rfl⟩ := List.getElem?_eq_some_iff.1 hx
      exact ((ih _).cons _).trans (cons_eraseIdx_perm hlt)
    · exact .refl _

/-! ### What writes leave of the ports and the launches -/

/-- The ports, the launches, and the launch and the stack of every gang stand as they stood. -/
structure State.Steady (s t : State) : Prop where
  ring : s.SameRing t
  launches : t.launches = s.launches
  matoms : t.matoms = s.matoms
  place : ∀ g, (aget t.gangs g).map (fun x => (x.launch, x.stack)) = (aget s.gangs g).map (fun x => (x.launch, x.stack))

theorem State.Steady.refl (s : State) : s.Steady s := ⟨.refl s, rfl, rfl, fun _ => rfl⟩

theorem State.Steady.trans {s t u : State} (h : s.Steady t) (h' : t.Steady u) : s.Steady u :=
  ⟨h.ring.trans h'.ring, h'.launches.trans h.launches, h'.matoms.trans h.matoms, fun g => (h'.place g).trans (h.place g)⟩

theorem State.Steady.ite {s t u : State} {p : Prop} [Decidable p] (ht : s.Steady t) (hu : s.Steady u) :
    s.Steady (if p then t else u) := by
  split
  · exact ht
  · exact hu

theorem State.modGang_steady (s : State) (g : Nat) {f : Gang → Gang}
    (hf : ∀ x, ((f x).launch, (f x).stack) = (x.launch, x.stack)) : s.Steady (s.modGang g f) := by
  refine ⟨.refl s, rfl, rfl, fun k => ?_⟩
  rw [State.modGang, aget_amod]
  split
  · cases aget s.gangs k <;> simp [hf]
  · rfl

theorem State.rollbackWave_steady (s : State) (g w counter : Nat) : s.Steady (s.rollbackWave g w counter) := by
  refine ⟨(s.rollbackWave_frame g w counter).2, ?_, ?_, fun k => ?_⟩
  · unfold State.rollbackWave
    split
    · split <;> rfl
    · rfl
  · unfold State.rollbackWave
    split
    · split <;> rfl
    · rfl
  · unfold State.rollbackWave
    split
    · split
      · exact (State.modGang_steady _ g (f := fun x => { x with waves := x.waves.modify w Wave.rollback }) fun _ => rfl).place k
      · rfl
    · rfl

theorem State.conflicts_steady (s : State) (own : Option (Nat × Nat)) (spadOf : Option Nat) (secs : List Nat) :
    s.Steady (s.conflicts own spadOf secs) := by
  unfold State.conflicts
  exact List.foldlRecOn (motive := fun t => s.Steady t) _ _ (.refl s) fun t ht p _ => ht.trans (t.rollbackWave_steady ..)

theorem State.put_steady (s : State) (au : Author) (pa : Nat) (bs : List Byte) (mark : Bool) :
    s.Steady (s.put au pa bs mark) :=
  .trans (t := s.writeMem au pa bs mark) ⟨.refl s, rfl, rfl, fun _ => rfl⟩ (State.conflicts_steady ..)

theorem State.putSpad_steady (s : State) (au : Author) (g off : Nat) (bs : List Byte) (mark : Bool) :
    s.Steady (s.putSpad au g off bs mark) := by
  refine .trans (t := s.writeSpad au g off bs mark) ?_ (State.conflicts_steady ..)
  obtain ⟨hring, hlaunches, hmatoms, hplace⟩ := s.modGang_steady g (f := fun x => { x with
    spad := writeBytes x.spad off bs, spadPoison := storePoison x.spadPoison off bs.length mark }) fun _ => rfl
  exact ⟨hring, hlaunches, hmatoms, hplace⟩

theorem State.touch_steady (s : State) (st pa : Nat) (write : Bool) : s.Steady (s.touch st pa write) := by
  unfold State.touch
  dsimp only
  split <;> exact ⟨.refl s, rfl, rfl, fun _ => rfl⟩

theorem State.touch_poison (s : State) (st pa : Nat) (write : Bool) : (s.touch st pa write).poison = s.poison := by
  unfold State.touch
  dsimp only
  split <;> rfl

theorem State.storePiece_steady {s : State} {a : Agent} {au : Author} {st : Nat} {dir : Bool} {bs : List Byte} {mark : Bool}
    {t : Target} (hup : ∀ pa leaf va, t = .mem pa leaf va → s.portDown st pa = false) :
    s.Steady (s.storePiece a au st dir bs mark t) := by
  unfold State.storePiece
  split
  · exact State.putSpad_steady ..
  next pa leaf va =>
    rw [if_neg (by simp [hup pa leaf va rfl])]
    dsimp only
    split
    · exact (s.touch_steady ..).trans (State.put_steady ..)
    · exact State.put_steady ..

/-! ### One atomic -/

section Atomic
variable {s : State} {a : Agent} {heads : List Head} {st point n : Nat} {returns mark : Bool} {t : Target}
  {f : W64 → Option W64}

/-- An atomic through a port that is up leaves ports and launches as they are. -/
theorem State.atomicAt_steady (hup : ∀ pa leaf va, t = .mem pa leaf va → s.portDown st pa = false) :
    s.Steady (s.atomicAt a heads st point returns t n mark f).state := by
  have hstore : ∀ au bs, s.Steady (s.storePiece a au st true bs mark t) := fun au bs => State.storePiece_steady hup
  unfold State.atomicAt
  cases t with
  | spd off =>
    simp only [Bool.false_and, Bool.false_eq_true, if_false]
    split
    · exact .refl s
    · dsimp only
      exact State.Steady.ite (.refl s) (hstore _ _)
  | mem pa leaf va =>
    simp only [hup pa leaf va rfl, Bool.false_and, Bool.false_eq_true, if_false]
    split
    · dsimp only
      split
      · exact s.touch_steady ..
      · exact .refl s
    · exact State.Steady.ite (.refl s) (hstore _ _)

/-- What an atomic does that no other store races, through a port that is up. -/
theorem State.atomicAt_plain
    (hup : ∀ pa leaf va, t = .mem pa leaf va → s.portDown st pa = false ∧ s.racing a point pa n true = none) :
    let q := t.place (a.place.gang.getD 0)
    let found := s.present q.1 q.2 n
    let old : W64 := if found.mark then 0 else BitVec.ofNat 64 (leNat found.bytes)
    let r := s.atomicAt a heads st point returns t n mark f
    r.old = old ∧ r.mark = found.mark ∧ (f old = none → r.state.mem = s.mem ∧ r.state.poison = s.poison) ∧
      ∀ v, f old = some v → ∃ au, r.state = s.storePiece a au st true (natLe n v.toNat) mark t := by
  unfold State.atomicAt
  cases t with
  | spd off =>
    simp only [Bool.false_and, Bool.false_eq_true, if_false, Option.isSome_none]
    split
    next hf =>
      refine ⟨rfl, rfl, fun _ => ⟨rfl, rfl⟩, fun v hv => ?_⟩
      cases hf.symm.trans hv
    next w hf =>
      refine ⟨rfl, rfl, fun hn => ?_, fun v hv => ?_⟩
      · cases hf.symm.trans hn
      · cases hf.symm.trans hv
        exact ⟨_, rfl⟩
  | mem pa leaf va =>
    simp only [(hup pa leaf va rfl).1, (hup pa leaf va rfl).2, Bool.false_and, Bool.false_eq_true, if_false,
      Option.isSome_none]
    split
    next hf =>
      refine ⟨rfl, rfl, fun _ => ?_, fun v hv => ?_⟩
      · dsimp only
        split
        · exact ⟨(s.touch_frame ..).1, s.touch_poison ..⟩
        · exact ⟨rfl, rfl⟩
      · cases hf.symm.trans hv
    next w hf =>
      refine ⟨rfl, rfl, fun hn => ?_, fun v hv => ?_⟩
      · cases hf.symm.trans hn
      · cases hf.symm.trans hv
        exact ⟨_, rfl⟩

end Atomic

/-! ### The atomics of an instruction -/

/-- Nothing holds the atomics of this wave's lanes: the launch is not captured, and their ports are up. -/
def State.AtomicsFree (s : State) (g : Nat) (xs : List LaneAtomic) : Prop :=
  ∀ gang, aget s.gangs g = some gang → (∀ l, s.launchOf gang = some l → l.desc.capture = false) ∧
    ∀ x ∈ xs, ∀ pa leaf va, x.target = .mem pa leaf va → s.portDown gang.stack pa = false

theorem State.AtomicsFree.steady {s t : State} {g : Nat} {xs ys : List LaneAtomic} (h : s.AtomicsFree g xs)
    (hst : s.Steady t) (hsub : ys ⊆ xs) : t.AtomicsFree g ys := by
  intro gang hgang
  have hplace := hst.place g
  rw [hgang] at hplace
  obtain ⟨old, hold, heq⟩ := Option.map_eq_some_iff.1 hplace.symm
  obtain ⟨hlaunch, hstack⟩ := Prod.mk.inj heq
  obtain ⟨hfree, hup⟩ := h old hold
  refine ⟨fun l hl => hfree l ?_, fun x hx pa leaf va ht => ?_⟩
  · rw [State.launchOf, hlaunch, ← hst.launches]
    exact hl
  · rw [← hstack, hst.ring.portDown]
    exact hup x (hsub hx) pa leaf va ht

theorem State.performAtomic_free {s : State} {g : Nat} {gang : Gang} (hg : aget s.gangs g = some gang)
    (hfree : ∀ l, s.launchOf gang = some l → l.desc.capture = false) (a : Agent) (heads : List Head) (w : Nat) (x : LaneAtomic) :
    s.performAtomic a heads g w x = some (s.atomicAt a heads gang.stack x.point x.returns x.target x.op.size x.mark
      (fun old => x.op.apply old x.operand x.cas)) := by
  have hlog : ∀ l, s.launchOf gang = some l → ∀ st type core slot len payload,
      s.logged st l type core slot len payload = .go payload s := fun l hl st type core slot len payload => by
    rw [State.logged, hfree l hl]
    rfl
  rw [State.performAtomic, hg]
  dsimp only
  cases hl : s.launchOf gang with
  | none => rfl
  | some l =>
    dsimp only
    by_cases hr : x.recorded = true
    · rw [if_pos hr, hlog l hl]
    · rw [if_neg hr]

theorem State.performAtomics_free {agent : Nat → Agent} {release : Bool} {g w : Nat} (n : Nat) {s : State}
    {xs : List LaneAtomic} (h : s.AtomicsFree g xs) :
    ∃ u olds, s.performAtomics g w agent release n xs = some (u, olds) := by
  induction n generalizing s xs with
  | zero => exact ⟨s, [], rfl⟩
  | succ n ih =>
    rw [State.performAtomics]
    dsimp only
    split
    · exact ⟨s, [], rfl⟩
    next x hx =>
      have hmem := List.mem_of_getElem? hx
      obtain ⟨r, hr, hsteady⟩ : ∃ r, s.performAtomic (agent x.lane) ((agent x.lane).heads release s.history.length) g w x =
          some r ∧ s.Steady r.state := by
        cases hg : aget s.gangs g with
        | none => exact ⟨_, by rw [State.performAtomic, hg], .refl s⟩
        | some gang =>
          obtain ⟨hfree, hup⟩ := h gang hg
          exact ⟨_, State.performAtomic_free hg hfree .., State.atomicAt_steady (hup x hmem)⟩
      obtain ⟨u, olds, hrest⟩ := ih (h.steady hsteady (List.eraseIdx_subset ..) : r.state.AtomicsFree g _)
      rw [hr]
      dsimp only
      rw [hrest]
      exact ⟨u, _, rfl⟩

/-! ### ATOM, ATOMR and MATOMR -/

theorem Executes.gang {i : Instr} {s : State} {c : Issue} (h : Executes i s c) : aget s.gangs c.g = some c.gang := by
  obtain ⟨c0, hc, -, -, -, -, -, -, rfl⟩ := executes_iff.1 h
  unfold State.issuing at hc
  split at hc
  · cases hc
  next g w k _ =>
    split at hc
    · cases hc
    next gang hg =>
      split at hc
      · cases hc
      · split at hc
        · cases hc
        · split at hc
          · cases hc
            exact hg
          · cases hc

/-- The requests of an atomic's lanes. -/
def Issue.atomicRequests (c : Issue) (a : Reg) (sp : Sp) (f : AtomOp) : List (Nat × Request) :=
  (bitsOf c.active).map (fun n => (n, c.request n a 0 sp f.size true .atomic true))

/-- What a returning atomic writes when its old values land. -/
def Issue.oldWrites (c : Issue) (f : AtomOp) (d : Reg) (olds : List (Nat × W64 × Bool × List (Nat × Stored))) :
    List RegWrite :=
  olds.flatMap (fun x => (((if f.is64 then [x.2.1.setWidth 32, x.2.1.extractLsb' 32 32]
    else [x.2.1.setWidth 32] : List W32)).mapIdx (fun k v =>
      (⟨x.1, (c.wave.core.lane x.1).arch (d.toNat + k), if x.2.2.1 then 0 else v, x.2.2.1⟩ : RegWrite))))

/-- The registers of an old value. -/
theorem oldWords (f : AtomOp) (v : W64) : (if f.is64 then MemTy.b64 else MemTy.b32).words (natLe f.size v.toNat) =
    if f.is64 then [v.setWidth 32, v.extractLsb' 32 32] else [v.setWidth 32] := by
  have hv := v.isLt
  cases hf : f.is64
  · simp only [AtomOp.size, hf, Bool.false_eq_true, if_false, MemTy.words, leNat_natLe, List.cons.injEq, and_true]
    exact BitVec.eq_of_toNat_eq (by simp)
  · simp only [AtomOp.size, hf, if_true, MemTy.words, leNat_natLe, List.cons.injEq, and_true]
    exact ⟨BitVec.eq_of_toNat_eq (by simp), BitVec.eq_of_toNat_eq (by simp [Nat.shiftRight_eq_div_pow]; omega)⟩

/-- A lane that has learned something writes what it would have written. -/
theorem Issue.oldWrites_of {c : Issue} {f : AtomOp} {d : Reg} {core : WaveCore} (h : SameButKnowledge c.wave.core core)
    (olds : List (Nat × W64 × Bool × List (Nat × Stored))) :
    olds.flatMap (fun x => loadWrites (core.lane x.1) x.1 d.toNat ((if f.is64 then MemTy.b64 else MemTy.b32).words
      (natLe f.size x.2.1.toNat)) x.2.2.1) = c.oldWrites f d olds := by
  have hbase : ∀ n, (core.lane n).winbase = (c.wave.core.lane n).winbase := fun n => by
    obtain ⟨-, hlen, hlanes⟩ := h
    rw [WaveCore.lane, WaveCore.lane, List.getD_eq_getElem?_getD, List.getD_eq_getElem?_getD]
    cases hl : c.wave.core.lanes[n]? with
    | none => rw [List.getElem?_eq_none_iff.2 (hlen ▸ List.getElem?_eq_none_iff.1 hl)]
    | some l =>
      obtain ⟨hlt, -⟩ := List.getElem?_eq_some_iff.1 hl
      have hl' := List.getElem?_eq_getElem (hlen ▸ hlt)
      rw [hl', Option.getD_some, hlanes n l _ hl hl']
      rfl
  simp only [Issue.oldWrites, oldWords, loadWrites, Lane.arch, hbase]

section Law
variable {c : Issue} {i : Instr} {s : State} {f : AtomOp} {d a : Reg} {sp : Sp} {sc : Scope} {o : AtomOrder}
  {returns narrow : Bool}

/-- A release at `.sys` waits for its lanes' system stores (R353). -/
theorem atomic_waits (h : Performs s c true (c.atomicRequests a sp f))
    (he : exec i s = .next (c.atomic i s f d a sp sc o returns narrow))
    (hw : c.wave.sysReleaseWaits (o == .rel) sc (maskOf ((c.atomicRequests a sp f).map (fun r => r.1))) = true) :
    exec i s = .next s := by
  obtain ⟨hp, hm⟩ := h
  have hfill : SameButCaches s (c.filled s (c.atomicRequests a sp f)) := fillFrom_caches ..
  have hflush : c.flush (c.landing s (c.atomicRequests a sp f)) (c.filled s (c.atomicRequests a sp f)) c.wave =
      some (c.filled s (c.atomicRequests a sp f), c.wave) := by
    unfold Issue.flush; rw [hfill.settled, hm]; rfl
  have hlanes : (c.landing s (c.atomicRequests a sp f)).map (fun p => p.1) = (c.atomicRequests a sp f).map (fun r => r.1) := by
    rw [Issue.landing, List.map_map]; rfl
  rw [he, Issue.atomic, show c.requests a 0 sp f.size true .atomic true = c.atomicRequests a sp f from rfl,
    access_performs rfl hp]
  simp only [hflush, hlanes, hw, if_true, not_captured hp.2.free, Bool.false_eq_true, if_false]

/-- The lanes' atomics one after another, in an order that the device chooses (R191). -/
theorem atomic_performs (hc : aget s.gangs c.g = some c.gang) (h : Performs s c true (c.atomicRequests a sp f))
    (he : exec i s = .next (c.atomic i s f d a sp sc o returns narrow))
    (hw : c.wave.sysReleaseWaits (o == .rel) sc (maskOf ((c.atomicRequests a sp f).map (fun r => r.1))) = false) :
    let rs := c.atomicRequests a sp f
    let t := c.filled s rs
    ∃ xs u olds core, xs.Perm (c.atomics t f d returns narrow (c.landing s rs)) ∧
      t.performAtomics c.g c.w (fun n => t.laneAgent c.g c.w n (c.wave.core.lane n) sc) (o == .rel) xs.length xs =
        some (u, olds) ∧
      SameButKnowledge c.wave.core core ∧
      exec i s = .next (u.setWave c.g c.w (({ c with wave := { c.wave with
        loads := if returns ∧ c.oldWrites f d olds ≠ [] then c.wave.loads ++ [u.inFlight c.gang.stack (c.oldWrites f d olds)
          false true [] (rs.map (fun r => r.1)) (c.allPieces s rs)] else c.wave.loads
        stores := if returns then c.wave.stores
          else c.wave.stores ++ rs.flatMap (fun r => u.acksOf c.gang.stack r.1 (c.pieces s r.2)) } } : Issue).advance i u
          core)) := by
  obtain ⟨hp, hm⟩ := h
  have hfill : SameButCaches s (c.filled s (c.atomicRequests a sp f)) := fillFrom_caches ..
  have hflush : c.flush (c.landing s (c.atomicRequests a sp f)) (c.filled s (c.atomicRequests a sp f)) c.wave =
      some (c.filled s (c.atomicRequests a sp f), c.wave) := by
    unfold Issue.flush; rw [hfill.settled, hm]; rfl
  have hlanes : (c.landing s (c.atomicRequests a sp f)).map (fun p => p.1) = (c.atomicRequests a sp f).map (fun r => r.1) := by
    rw [Issue.landing, List.map_map]; rfl
  have hpieces : (c.landing s (c.atomicRequests a sp f)).flatMap (fun p => p.2) = c.allPieces s (c.atomicRequests a sp f) := by
    simp only [Issue.allPieces, Issue.landing, List.flatMap_map]
  have hfree : (c.filled s (c.atomicRequests a sp f)).AtomicsFree c.g ((c.filled s (c.atomicRequests a sp f)).laneOrder
      (c.atomics (c.filled s (c.atomicRequests a sp f)) f d returns narrow (c.landing s (c.atomicRequests a sp f)))) := by
    intro gang hgang
    obtain rfl : c.gang = gang := by
      rw [hfill.1] at hgang
      exact Option.some.inj (hc.symm.trans hgang)
    refine ⟨fun l hl => hp.2.free l ?_, fun x hx pa leaf va ht => ?_⟩
    · rwa [hfill.launchOf] at hl
    · obtain ⟨p, hp', hx⟩ := List.mem_filterMap.1 ((State.shuffle_perm ..).mem_iff.1 hx)
      obtain ⟨q, hq, rfl⟩ := Option.map_eq_some_iff.1 hx
      rw [hfill.portDown]
      refine hp.2.up pa leaf va q.2 ?_
      rw [← hpieces, ← ht]
      exact List.mem_flatMap.2 ⟨p, hp', List.mem_of_mem_head? hq⟩
  intro rs t
  obtain ⟨xs, hxs⟩ : ∃ xs, (c.filled s (c.atomicRequests a sp f)).laneOrder (c.atomics (c.filled s (c.atomicRequests a sp f))
      f d returns narrow (c.landing s (c.atomicRequests a sp f))) = xs := ⟨_, rfl⟩
  rw [hxs] at hfree
  obtain ⟨u, olds, hperf⟩ := State.performAtomics_free (agent := fun n => t.laneAgent c.g c.w n (c.wave.core.lane n) sc)
    (release := o == .rel) (w := c.w) xs.length hfree
  have hlearn := learnTops_same c.wave.core u c.g c.w sc (fun _ => o == .acq) (olds.map (fun x => (x.1, x.2.2.2)))
  have hwrites := Issue.oldWrites_of (f := f) (d := d) hlearn olds
  refine ⟨xs, u, olds, _, hxs ▸ State.shuffle_perm .., hperf, hlearn, ?_⟩
  rw [he, Issue.atomic, show c.requests a 0 sp f.size true .atomic true = c.atomicRequests a sp f from rfl,
    access_performs rfl hp]
  have hperf : (c.filled s (c.atomicRequests a sp f)).performAtomics c.g c.w (fun n =>
    (c.filled s (c.atomicRequests a sp f)).laneAgent c.g c.w n (c.wave.core.lane n) sc) (o == .rel) xs.length xs =
    some (u, olds) := hperf
  simp only [hflush, hlanes, hw, Bool.false_eq_true, if_false, hpieces, hxs, hperf, hwrites]
  cases returns with
  | false =>
    simp only [Bool.false_eq_true, if_false, false_and, Issue.finish_none, Issue.advance, Issue.landing, List.flatMap_map]
    rfl
  | true =>
    simp only [if_true, true_and, Issue.finish_none, Issue.advance, List.isEmpty_iff, ne_eq, ite_not]
    split <;> rfl

end Law

/-! ### The performing of one, and the values -/

/-- What a lane's atomic does that nothing holds and no other store races. -/
theorem performAtomic_law {s : State} {a : Agent} {heads : List Head} {g w : Nat} {gang : Gang} {x : LaneAtomic}
    (hg : aget s.gangs g = some gang) (hfree : ∀ l, s.launchOf gang = some l → l.desc.capture = false)
    (hup : ∀ pa leaf va, x.target = .mem pa leaf va → s.portDown gang.stack pa = false ∧
      s.racing a x.point pa x.op.size true = none) :
    let q := x.target.place (a.place.gang.getD 0)
    let found := s.present q.1 q.2 x.op.size
    let old : W64 := if found.mark then 0 else BitVec.ofNat 64 (leNat found.bytes)
    ∃ r, s.performAtomic a heads g w x = some r ∧ r.old = old ∧ r.mark = found.mark ∧
      (x.op.apply old x.operand x.cas = none → r.state.mem = s.mem ∧ r.state.poison = s.poison) ∧
      (∀ off, x.target = .spd off → r.state.mem = s.mem) ∧
      (∀ v pa leaf va, x.op.apply old x.operand x.cas = some v → x.target = .mem pa leaf va →
        readBytes r.state.mem pa x.op.size = natLe x.op.size v.toNat ∧
        ∀ b, (b < pa ∨ pa + x.op.size ≤ b) → Sparse.get 0 r.state.mem b = Sparse.get 0 s.mem b) := by
  intro q found old
  obtain ⟨hold, hmark, hnone, hsome⟩ := State.atomicAt_plain (heads := heads) (returns := x.returns) (mark := x.mark)
    (f := fun old => x.op.apply old x.operand x.cas) hup
  refine ⟨_, State.performAtomic_free hg hfree .., hold, hmark, hnone, fun off ht => ?_, fun v pa leaf va hv ht => ?_⟩
  · cases hf : x.op.apply old x.operand x.cas with
    | none => exact (hnone hf).1
    | some v =>
      obtain ⟨au, hau⟩ := hsome v hf
      rw [hau, ht]
      exact State.putSpad_mem ..
  · obtain ⟨au, hau⟩ := hsome v hv
    rw [hau, ht, State.storePiece, if_neg (by simp [(hup pa leaf va ht).1])]
    dsimp only
    rw [State.put_mem]
    have htouch : ∀ (p : Prop) [Decidable p] (u : State), u.mem = s.mem → (if p then u else s).mem = s.mem := fun p _ u hu => by
      split
      · exact hu
      · rfl
    rw [htouch _ _ (s.touch_frame ..).1]
    have hlen : (natLe x.op.size v.toNat).length = x.op.size := natLe_length ..
    refine ⟨?_, fun b hb => get_writeBytes_other _ _ _ _ (by rwa [hlen])⟩
    have hread := readBytes_writeBytes_same s.mem pa (natLe x.op.size v.toNat)
    rwa [hlen] at hread

/-- A 32-bit atomic acts on the low halves. -/
theorem AtomOp.apply_low {f : AtomOp} (h : f.is64 = false) (x y z : W32) :
    f.apply (x.setWidth 64) (y.setWidth 64) (z.setWidth 64) = (f.apply32 x y z).map (fun v => v.setWidth 64) := by
  have hlow : ∀ v : W32, (v.setWidth 64).setWidth 32 = v := fun v => by simp
  simp only [AtomOp.apply, h, Bool.false_eq_true, if_false, hlow]

theorem AtomOp.apply_wide {f : AtomOp} (h : f.is64 = true) (x y z : W64) : f.apply x y z = f.apply64 x y z := by
  rw [AtomOp.apply, if_pos h]

/-- Settles O25. -/
theorem atomics : Obligations.Atomics := by
  refine ⟨?_, fun s a heads g w gang x hg hfree hup => performAtomic_law hg hfree hup,
    fun x y z => ⟨fun e he => ?_, ?_, fun e he => ?_⟩, fun x y z => ⟨fun e he => ?_, ?_, fun e he => ?_⟩⟩
  · intro f d a sc o sp s c e he rs h hp
    simp only [List.mem_cons, List.not_mem_nil, or_false] at he
    rcases he with rfl | rfl | rfl
    · exact ⟨atomic_waits hp (issueWord_go h _), atomic_performs h.gang hp (issueWord_go h _)⟩
    · exact ⟨atomic_waits hp (issueWord_go h _), atomic_performs h.gang hp (issueWord_go h _)⟩
    · exact ⟨atomic_waits hp (issueWord_go h _), atomic_performs h.gang hp (issueWord_go h _)⟩
  · simp only [List.mem_cons, List.not_mem_nil, or_false] at he
    rcases he with rfl | rfl | rfl | rfl | rfl | rfl | rfl | rfl | rfl | rfl <;>
      refine ⟨rfl, (AtomOp.apply_low rfl x y z).trans ?_⟩ <;>
      simp [AtomOp.apply32, BitVec.slt, BitVec.ult]
  · rw [AtomOp.apply_low rfl, AtomOp.apply32]
    split <;> rfl
  · simp only [List.mem_cons, List.not_mem_nil, or_false] at he
    rcases he with rfl | rfl | rfl <;> exact AtomOp.apply_low rfl x y z
  · simp only [List.mem_cons, List.not_mem_nil, or_false] at he
    rcases he with rfl | rfl | rfl | rfl | rfl | rfl | rfl | rfl | rfl | rfl <;>
      refine ⟨rfl, (AtomOp.apply_wide rfl x y z).trans ?_⟩ <;>
      simp [AtomOp.apply64, BitVec.slt, BitVec.ult]
  · exact AtomOp.apply_wide rfl x y z
  · simp only [List.mem_cons, List.not_mem_nil, or_false] at he
    rcases he with rfl | rfl | rfl <;> exact AtomOp.apply_wide rfl x y z

end Sys2Proof.Machine
end

section
/-! SUPPORT. MATOM at its issue and at its performing. -/
namespace Sys2Proof.Machine

/-! ### At issue -/

/-- The MATOMs of an instruction join the list, lane after lane. -/
def Issue.joinMatoms (c : Issue) (w : Wave) (f : AtomOp) (d : Reg) (sc : Scope) (o : AtomOrder)
    (oks : List (Nat × List (Target × Nat))) (t : State) : State :=
  oks.foldl (fun u p =>
    match p.2.head? with
    | some (.mem pa leaf _, _) => { u with
        nextId := u.nextId + 1
        matoms := u.matoms ++ [c.matomOf u w f d sc o p.1 pa leaf.side u.nextId] }
    | _ => u) t

/-- What a lane's MATOM says of its place and its operation. -/
def Wave.matomShape (w : Wave) (f : AtomOp) (d : Reg) (p : Nat × List (Target × Nat)) :
    List (Nat × Nat × AtomOp × W64 × W64 × Bool × Nat) :=
  (p.2.head?.toList).filterMap (fun q => match q.1 with
    | .spd _ => none
    | .mem pa leaf _ => some (p.1, pa, f, ((w.core.lane p.1).atomOperand f d).1,
        ((w.core.lane p.1).atomOperand f d).2.1, ((w.core.lane p.1).atomOperand f d).2.2, if leaf.side then 3 else 2))

theorem Issue.joinMatoms_law (c : Issue) (w : Wave) (f : AtomOp) (d : Reg) (sc : Scope) (o : AtomOrder)
    (oks : List (Nat × List (Target × Nat))) (t : State) :
    ∃ adds : List Matom, c.joinMatoms w f d sc o oks t =
        { t with matoms := t.matoms ++ adds, nextId := (c.joinMatoms w f d sc o oks t).nextId } ∧
      adds.map (fun m => (m.lane, m.pa, m.op, m.operand, m.cas, m.mark, m.point)) = oks.flatMap (w.matomShape f d) ∧
      ∀ m ∈ adds, m.gang = c.g ∧ m.wave = c.w ∧ m.scope = sc := by
  induction oks generalizing t with
  | nil => exact ⟨[], by rw [List.append_nil]; rfl, rfl, fun m hm => absurd hm List.not_mem_nil⟩
  | cons p oks ih =>
    obtain ⟨n, qs⟩ := p
    match qs with
    | [] => exact ih t
    | (.spd off, k) :: qs => exact ih t
    | (.mem pa leaf va, k) :: qs =>
      obtain ⟨adds, heq, hshape, hown⟩ := ih { t with
        nextId := t.nextId + 1, matoms := t.matoms ++ [c.matomOf t w f d sc o n pa leaf.side t.nextId] }
      refine ⟨c.matomOf t w f d sc o n pa leaf.side t.nextId :: adds, ?_, ?_, fun m hm => ?_⟩
      · rw [← List.append_cons] at heq
        exact heq
      · rw [List.map_cons, hshape]
        rfl
      · rcases List.mem_cons.1 hm with rfl | hm
        · exact ⟨rfl, rfl, rfl⟩
        · exact hown m hm

/-- The law of MATOM whose requests all pass. -/
theorem matom_issues {c : Issue} {s : State} {f : AtomOp} {d a : Reg} {sc : Scope} {o : AtomOrder}
    (h : Executes (.matom f d a sc o) s c) (hp : Passes s c true (c.atomicRequests a .ms f)) :
    let rs := c.atomicRequests a .ms f
    let waits := c.wave.sysReleaseWaits (o == .rel) sc (maskOf (rs.map (fun r => r.1)))
    (waits = true → exec (.matom f d a sc o) s = .next s) ∧
    (waits = false → ∃ u, u = c.joinMatoms c.wave f d sc o ((c.filled s rs).laneOrder (c.landing s rs)) (c.filled s rs) ∧
      exec (.matom f d a sc o) s = .next (u.setWave c.g c.w (c.advance (.matom f d a sc o) u c.wave.core))) := by
  intro rs waits
  have e : exec (.matom f d a sc o) s = .next _ := issueWord_go h _
  have hlanes : (c.landing s rs).map (fun p => p.1) = rs.map (fun r => r.1) := by rw [Issue.landing, List.map_map]; rfl
  rw [e, show c.requests a 0 .ms f.size true .atomic true = rs from rfl, access_performs rfl hp]
  simp only [hlanes]
  refine ⟨fun hw => ?_, fun hw => ⟨_, rfl, ?_⟩⟩
  · rw [if_pos hw]
    simp only [not_captured hp.2.free, Bool.false_eq_true, if_false]
  · rw [if_neg (Bool.eq_false_iff.1 hw)]
    simp only [Issue.finish_none]
    rfl

/-! ### At its performing -/

/-- The first pending MATOM of a lane at bytes that it touches itself. -/
theorem State.pendingMatom_first {s : State} {k : Nat} {m : Matom} (hk : s.matoms[k]? = some m)
    (hfirst : ∀ j x, j < k → s.matoms[j]? = some x → ¬(x.gang = m.gang ∧ x.wave = m.wave ∧ x.lane = m.lane ∧
      x.pa < m.pa + m.op.size ∧ m.pa < x.pa + x.op.size)) :
    s.pendingMatom m.gang m.wave m.lane m.pa m.op.size = some k := by
  obtain ⟨hlt, hm⟩ := List.getElem?_eq_some_iff.1 hk
  have hsize : 0 < m.op.size := by unfold AtomOp.size; split <;> decide
  rw [State.pendingMatom, List.findIdx?_eq_some_iff_getElem]
  refine ⟨hlt, ?_, fun j hj => ?_⟩
  · simp [hm, hsize]
  · have := hfirst j _ hj (List.getElem?_eq_getElem (Nat.lt_trans hj hlt))
    simp only [Bool.and_eq_true, beq_iff_eq, decide_eq_true_iff, and_assoc] at this ⊢
    exact this

/-- The law of MATOM_PERFORM. -/
theorem matom_performs {s : State} {k : Nat} {m : Matom} {gang : Gang} (hk : s.matoms[k]? = some m)
    (hg : aget s.gangs m.gang = some gang)
    (hfirst : ∀ j x, j < k → s.matoms[j]? = some x → ¬(x.gang = m.gang ∧ x.wave = m.wave ∧ x.lane = m.lane ∧
      x.pa < m.pa + m.op.size ∧ m.pa < x.pa + x.op.size))
    (hclear : s.snoopLines m.pa m.op.size true = []) (hup : s.portDown gang.stack m.pa = false)
    (hfree : ∀ l, s.launchOf gang = some l → l.desc.capture = false)
    (hrace : s.racing (s.matomAgent m) m.point m.pa m.op.size true = none) :
    let old : W64 := if poisoned s.poison m.pa m.op.size then 0 else BitVec.ofNat 64 (leNat (readBytes s.mem m.pa m.op.size))
    ∃ t, exec (.matomPerform k) s = .next t ∧ t.matoms = s.matoms.eraseIdx k ∧
      (m.op.apply old m.operand m.cas = none → t.mem = s.mem ∧ t.poison = s.poison) ∧
      ∀ v, m.op.apply old m.operand m.cas = some v →
        readBytes t.mem m.pa m.op.size = natLe m.op.size v.toNat ∧
        ∀ b, (b < m.pa ∨ m.pa + m.op.size ≤ b) → Sparse.get 0 t.mem b = Sparse.get 0 s.mem b := by
  intro old
  obtain ⟨t0, ht0⟩ : ∃ t0 : State, { s with matoms := s.matoms.eraseIdx k } = t0 := ⟨_, rfl⟩
  have htarget : ∀ pa leaf va, m.atomic.target = .mem pa leaf va → t0.portDown gang.stack pa = false ∧
      t0.racing (s.matomAgent m) m.point pa m.op.size true = none := by
    rintro pa leaf va ⟨⟩
    subst ht0
    exact ⟨hup, hrace⟩
  have hg0 : aget t0.gangs m.gang = some gang := ht0 ▸ hg
  have hfree0 : ∀ l, t0.launchOf gang = some l → l.desc.capture = false := ht0 ▸ hfree
  obtain ⟨r, hr, -, -, hnone, -, hsome⟩ := performAtomic_law
    (heads := m.heads) (w := m.wave) (a := s.matomAgent m) hg0 hfree0 htarget
  have hsteady : t0.Steady r.state := by
    cases (State.performAtomic_free hg0 hfree0 ..).symm.trans hr
    exact State.atomicAt_steady fun pa leaf va ht => (htarget pa leaf va ht).1
  have hperf : s.performMatom k = some (r.state.modWave m.gang m.wave (fun v => { v with
      matoms := Seen.join v.matoms [(m.thread, r.state.history.length)]
      matomMet := v.matomMet ++ (r.tops.flatMap (fun p => p.2.heads)).map (fun h => (m.lane, m.scope, h)) })) := by
    rw [State.performMatom, hk]
    dsimp only
    rw [hclear, ht0, hr]
    rfl
  have e : exec (.matomPerform k) s = .next ((s.performMatom k).getD s) := by
    show execMatomPerform k s = _
    rw [execMatomPerform, hk]
    dsimp only
    rw [State.pendingMatom_first hk hfirst, hclear, if_neg (by simp), if_neg (by simp)]
  rw [hperf] at e
  refine ⟨_, e, hsteady.matoms.trans (by rw [← ht0]), fun hn => ?_, fun v hv => ?_⟩
  · have := hnone (by subst ht0; exact hn)
    subst ht0
    exact this
  · have := hsome v m.pa _ _ (by subst ht0; exact hv) rfl
    subst ht0
    exact this

/-- Settles O26. -/
theorem returnFreeAtomics : Obligations.ReturnFreeAtomics := by
  refine ⟨fun f d a sc o s c => ?_, fun s k m gang hk hg hfirst hclear hup hfree hrace =>
    matom_performs hk hg hfirst hclear hup hfree hrace⟩
  intro rs waits h hp
  obtain ⟨hwaits, hgoes⟩ := matom_issues h hp
  refine ⟨hwaits, fun hw => ?_⟩
  obtain ⟨u, rfl, e⟩ := hgoes hw
  obtain ⟨adds, heq, hshape, hown⟩ := c.joinMatoms_law c.wave f d sc o ((c.filled s rs).laneOrder (c.landing s rs))
    (c.filled s rs)
  have hfill : SameButCaches s (c.filled s rs) := fillFrom_caches ..
  refine ⟨adds, _, ?_, ?_, ?_, hown, e⟩
  · rw [show s.matoms = (c.filled s rs).matoms by rw [hfill.1]]
    exact heq
  · refine (congrArg State.mem heq).trans ?_
    show (c.filled s rs).mem = s.mem
    rw [hfill.1]
  · rw [hshape]
    have := (State.shuffle_perm (c.filled s rs) [12] (c.landing s rs).length (c.landing s rs)).flatMap_right
      (c.wave.matomShape f d)
    rw [show (c.landing s rs).flatMap (c.wave.matomShape f d) = _ from List.flatMap_map ..] at this
    exact this

end Sys2Proof.Machine
end

section
/-! SUPPORT. FENCE and what it tells its lanes, MON and MWAIT. -/
namespace Sys2Proof.Machine

/-! ### Fences -/

theorem SameButKnowledge.refl (core : WaveCore) : SameButKnowledge core core :=
  ⟨rfl, rfl, fun n l l' hl hl' => by rw [hl] at hl'; cases hl'; rfl⟩

theorem SameButKnowledge.trans {v w x : WaveCore} (h : SameButKnowledge v w) (h' : SameButKnowledge w x) :
    SameButKnowledge v x := by
  obtain ⟨heq, hlen, hlanes⟩ := h
  obtain ⟨heq', hlen', hlanes'⟩ := h'
  refine ⟨by rw [heq', heq], hlen'.trans hlen, fun n l l' hl hl' => ?_⟩
  obtain ⟨hlt, -⟩ := List.getElem?_eq_some_iff.1 hl
  have hm := List.getElem?_eq_getElem (hlen.symm ▸ hlt : n < w.lanes.length)
  rw [hlanes' n _ l' hm hl', hlanes n l _ hl hm]

/-- Lanes that each only learn. -/
theorem SameButKnowledge.mapLanes (core : WaveCore) {f : Nat → Lane → Lane}
    (hf : ∀ n l, f n l = { l with know := (f n l).know }) :
    SameButKnowledge core (core.mapLanes f) :=
  ⟨rfl, mapIdx_laneWise _ _ _ fun n l _ => hf n l⟩

theorem WaveCore.learn_same (core : WaveCore) (v : Seen) : SameButKnowledge core (core.learn v) := by
  unfold WaveCore.learn WaveCore.learnIn
  split
  · exact .refl core
  · refine .mapLanes core fun n l => ?_
    dsimp only
    split <;> rfl

theorem Issue.fenced_same (c : Issue) (s : State) (sc : Scope) (o : FenceOrder) (m : Bool)
    (fences : List (Place × Scope × Seen)) : SameButKnowledge c.wave.core (c.fenced s sc o m fences) := by
  have hfirst : SameButKnowledge c.wave.core (if m then c.wave.core.learn c.wave.matoms else c.wave.core) := by
    split
    · exact WaveCore.learn_same ..
    · exact .refl _
  refine hfirst.trans (.mapLanes _ fun n l => ?_)
  dsimp only [Lane.acquireFence]
  repeat' split
  all_goals rfl

theorem Wave.sysReleaseWaits_iff {w : Wave} {release : Bool} {sc : Scope} {lanes : BitVec 32} :
    w.sysReleaseWaits release sc lanes = true ↔
      release = true ∧ sc = .sys ∧ ∃ p ∈ w.stores, p.port ≠ none ∧ has lanes p.lane = true := by
  simp [Wave.sysReleaseWaits, Option.isSome_iff_ne_none, and_assoc]

/-- What the lanes know after the fence, and the fence that others then come after (R290). -/
def Issue.fenceCore (c : Issue) (s : State) (sc : Scope) (o : FenceOrder) (m : Bool) : WaveCore :=
  c.fenced s sc o m (s.fences ++ ((c.wave.spec.map Spec.fences).getD []))

def Issue.ownFences (c : Issue) (s : State) (sc : Scope) (o : FenceOrder) (m : Bool) : List (Place × Scope × Seen) :=
  if o == .both && sc != .none && c.any then
    [(s.placeOf c.g c.w, sc, s.lanesView c.g c.w (c.fenceCore s sc o m) c.active)] else []

theorem fence_law {c : Issue} {s : State} {sc : Scope} {o : FenceOrder} {ms : Bool} (h : Executes (.fence sc o ms) s c) :
    let waits := (c.any = true ∧ ms = true ∧ ∃ m ∈ s.matoms, m.gang = c.g ∧ m.wave = c.w) ∨
      (o ≠ .acq ∧ sc = .sys ∧ ∃ p ∈ c.wave.stores, p.port ≠ none ∧ c.on p.lane = true)
    (waits → exec (.fence sc o ms) s = .next s) ∧
    (¬ waits → ∃ core fences spec, SameButKnowledge c.wave.core core ∧ (c.wave.spec = none → spec = none) ∧
      (c.wave.spec ≠ none → fences = s.fences) ∧
      let t : State := { s with fences := fences }
      exec (.fence sc o ms) s = .next (t.setWave c.g c.w
        (({ c with wave := { c.wave with spec := spec } } : Issue).advance (.fence sc o ms) t core))) := by
  have e : exec (.fence sc o ms) s = .next _ := issueWord_go h _
  have hms : (c.any && ms && s.matomPending c.g c.w) = true ↔
      c.any = true ∧ ms = true ∧ ∃ m ∈ s.matoms, m.gang = c.g ∧ m.wave = c.w := by
    simp [State.matomPending, and_assoc]
  have hsys : c.wave.sysReleaseWaits (o != .acq) sc c.active = true ↔
      o ≠ .acq ∧ sc = .sys ∧ ∃ p ∈ c.wave.stores, p.port ≠ none ∧ c.on p.lane = true := by
    rw [Wave.sysReleaseWaits_iff, show ((o != .acq) = true ↔ o ≠ .acq) by cases o <;> decide]
    rfl
  intro waits
  refine ⟨fun hw => ?_, fun hw => ?_⟩
  · rw [e]
    rcases hw with hw | hw
    · rw [if_pos (hms.2 hw)]
    · rw [if_pos (hsys.2 hw), ite_self]
  · rw [if_neg fun h1 => hw (.inl (hms.1 h1)), if_neg fun h2 => hw (.inr (hsys.1 h2))] at e
    refine ⟨c.fenceCore s sc o ms, if c.wave.spec.isSome then s.fences else s.fences ++ c.ownFences s sc o ms,
      c.wave.spec.map (fun sp => { sp with fences := sp.fences ++ c.ownFences s sc o ms }), c.fenced_same ..,
      fun hs => by rw [hs, Option.map_none], fun hs => if_pos (Option.isSome_iff_ne_none.2 hs), e.trans ?_⟩
    have hstate : ∀ (p : Prop) [Decidable p] fs, ({ s with fences := if p then s.fences else fs } : State) =
        if p then s else { s with fences := fs } := fun p _ fs => by split <;> rfl
    dsimp only
    rw [hstate]
    rfl

/-! ### Monitors -/

/-- The lanes whose monitor address is not aligned. -/
def Issue.misaligned (c : Issue) (a : Reg) (size : Nat) : BitVec 32 :=
  maskOf ((bitsOf c.active).filter (fun n => ((c.wave.core.lane n).src64 a).toNat % size != 0))

theorem Issue.has_misaligned (c : Issue) (a : Reg) (size n : Nat) : has (c.misaligned a size) n =
    (c.on n && decide (((c.wave.core.lane n).src64 a).toNat % size ≠ 0)) := by
  rw [Issue.misaligned, has_maskOf _ fun m hm => bitsOf_lt (List.mem_filter.1 hm).1, List.contains_eq_mem]
  simp only [List.mem_filter, mem_bitsOf, bne_iff_ne, Bool.decide_and, Issue.on, Bool.decide_eq_true]

theorem marksNone_mon (k : MonCmp) (z : Bool) (a b : Reg) : MarksNone (.mon k z a b) := marksNone_of_empty rfl rfl rfl

/-- The monitor that MON arms in a lane. -/
def Lane.armed (l : Lane) (k : MonCmp) (z : Bool) (a b : Reg) : Lane :=
  { l with monitor := some ⟨l.src64 a, z, k, if z then l.src64 b else (l.src32 b).setWidth 64⟩ }

/-- What MON does where no address is marked. -/
theorem mon_arms {k : MonCmp} {z : Bool} {a b : Reg} {s : State} {c : Issue} (h : Executes (.mon k z a b) s c)
    (hclean : ∀ n, c.on n = true → (c.wave.core.lane n).marked a 2 = false) :
    exec (.mon k z a b) s = .next (c.finish (.mon k z a b) s s (c.wave.core.mapLanes (fun n l =>
      if c.on n && !has (c.misaligned a (if z then 8 else 4)) n then l.armed k z a b else l))
        (c.misaligned a (if z then 8 else 4)) (fun _ => causeIllegalLane) c.entry.pc) := by
  have e : exec (.mon k z a b) s = .next _ := issueWord_go h _
  have hnone : (bitsOf c.active).filter (fun n => (c.wave.core.lane n).marked a 2) = [] :=
    List.filter_eq_nil_iff.2 fun n hn => by rw [hclean n ((mem_bitsOf _ _).1 hn)]; exact Bool.false_ne_true
  rw [e]
  dsimp only
  rw [hnone]
  rfl

theorem mon_faults {k : MonCmp} {z : Bool} {a b : Reg} {s : State} {c : Issue} (h : Executes (.mon k z a b) s c)
    (hmark : ∃ n, c.on n = true ∧ (c.wave.core.lane n).marked a 2 = true) :
    ∃ va, exec (.mon k z a b) s = .next (c.fault s reasonPoison va 0 c.active) := by
  have e : exec (.mon k z a b) s = .next _ := issueWord_go h _
  obtain ⟨n, hn, hm⟩ := hmark
  obtain ⟨x, xs, hx⟩ := List.exists_cons_of_ne_nil (List.ne_nil_of_mem (a := n)
    (l := (bitsOf c.active).filter (fun n => (c.wave.core.lane n).marked a 2)) (List.mem_filter.2 ⟨(mem_bitsOf _ _).2 hn, hm⟩))
  dsimp only at e
  rw [hx] at e
  exact ⟨_, e⟩

/-! ### The words -/

/-- Settles O27. -/
theorem fencesMonitorsAndPrefetch : Obligations.FencesMonitorsAndPrefetch := by
  intro a b d sp nt ms z sc o k s c lane size
  refine ⟨fun h => ?_, fence_law, fun h => ⟨mon_faults h, fun hok => ?_, fun hclean hmis => ?_⟩, fun h hany hm => ?_⟩
  · exact issueWord_go h _
  · have hzero : c.misaligned a size = 0 := mask_eq_zero _ fun n => by
      rw [c.has_misaligned]
      cases hn : c.on n
      · rfl
      · rw [(hok n hn).2]; rfl
    have e := mon_arms h fun n hn => (hok n hn).1
    rw [show c.misaligned a (if z then 8 else 4) = 0 from hzero, Issue.finish_none] at e
    refine ⟨_, e, mapIdx_laneWise _ _ _ fun n l _ => ?_⟩
    have hno : has (0 : BitVec 32) n = false := by simp [has]
    rw [hno, Bool.not_false, Bool.and_true]
    rfl
  · have e := mon_arms h hclean
    obtain ⟨n, hn, hmis⟩ := hmis
    have hne : c.misaligned a (if z then 8 else 4) ≠ 0 := mask_ne_zero n (by rw [c.has_misaligned, hn]; simpa using hmis)
    refine ⟨trapRefused_of e hne rfl, fun hs hh => ?_⟩
    rw [c.finish_traps (marksNone_mon k z a b) s s (c.wave.core.mapLanes _) hne _ _ hs hh] at e
    refine ⟨_, _, fun m => c.has_misaligned a _ m, e, ?_⟩
    show LaneWise _ ((c.wave.core.lanes.mapIdx _).mapIdx _) _
    rw [List.mapIdx_mapIdx]
    refine mapIdx_laneWise _ _ _ fun m l _ => ?_
    dsimp only [Function.comp]
    by_cases hm : has (c.misaligned a (if z then 8 else 4)) m = true
    · rw [if_pos hm, if_neg (by simp [hm]), if_pos (show has (c.misaligned a size) m = true from hm)]
    · rw [if_neg hm, if_neg (show ¬ has (c.misaligned a size) m = true from hm), Bool.eq_false_iff.2 hm, Bool.not_false,
        Bool.and_true]
      rfl
  · intro t
    have e : exec (.mwait d a) s = .next _ := issueWord_go h _
    dsimp only at e
    rw [hany, if_neg (by simp), if_neg (by rw [hm]; exact Bool.false_ne_true)] at e
    exact ⟨_, e, mapIdx_laneWise _ _ _ fun n l _ => rfl⟩

end Sys2Proof.Machine
end

section
/-! SUPPORT. The sets of a barrier, and what arriving, flipping and waking leave of the waves. -/
namespace Sys2Proof.Machine

/-! ### A barrier's sets (R200, R201) -/

theorem mem_insertOnce (xs : List Nat) (x y : Nat) : y ∈ insertOnce xs x ↔ y ∈ xs ∨ y = x := by
  unfold insertOnce
  split
  next h => exact ⟨.inl, fun hy => hy.elim id fun hy => hy ▸ List.contains_iff_mem.1 h⟩
  · rw [List.mem_append, List.mem_singleton]

theorem Barrier.due_iff (b : Barrier) : b.due = true ↔ b.arrived ≠ [] ∧ ∀ x ∈ b.expected, x ∈ b.arrived := by
  simp [Barrier.due]

theorem Barrier.mem_flip (b : Barrier) (p : Nat) : p ∈ b.flip.expected ↔
    (p ∈ b.expected ∧ p ∉ b.drops) ∨ (p ∈ b.joins ∧ (p ∈ b.drops ∨ p ∉ b.expected)) := by
  simp [Barrier.flip]

theorem Barrier.mem_arrive (b : Barrier) (v : Seen) (p q : Nat) : q ∈ (b.arrive v p).arrived ↔ q ∈ b.arrived ∨ q = p := by
  unfold Barrier.arrive
  split
  next h => exact ⟨.inl, fun hq => hq.elim id fun hq => hq ▸ List.contains_iff_mem.1 h⟩
  · rw [List.mem_append, List.mem_singleton]

theorem Barrier.mem_join (b : Barrier) (p q : Nat) :
    q ∈ (b.join p).joins ↔ q ∈ b.joins ∨ (q = p ∧ p ∉ b.expected) := by
  unfold Barrier.join
  by_cases h : p ∈ b.expected
  · rw [if_pos (List.contains_iff_mem.2 h)]
    exact ⟨.inl, fun hq => hq.elim id fun hq => absurd h hq.2⟩
  · rw [if_neg (fun hc => h (List.contains_iff_mem.1 hc)), mem_insertOnce]
    simp [h]

theorem Barrier.mem_leave (b : Barrier) (p q : Nat) : q ∈ (b.leave p).expected ↔ q ∈ b.expected ∧ q ≠ p := by
  simp [Barrier.leave]

/-! ### What the waves keep -/

/-- The lanes of a wave but for what they know, its uniform registers, its rejoin masks and its speculation are the same. -/
def Wave.Rests (v v' : Wave) : Prop :=
  LaneWise v.core.lanes v'.core.lanes (fun _ l l' => l' = { l with know := l'.know }) ∧ v'.core.s = v.core.s ∧
    v'.core.j = v.core.j ∧ v'.spec = v.spec

theorem LaneWise.know_refl (lanes : List Lane) : LaneWise lanes lanes (fun _ l l' => l' = { l with know := l'.know }) :=
  ⟨rfl, fun n l l' hl hl' => by rw [hl] at hl'; cases hl'; rfl⟩

theorem LaneWise.know_trans {u v w : List Lane} (h : LaneWise u v (fun _ l l' => l' = { l with know := l'.know }))
    (h' : LaneWise v w (fun _ l l' => l' = { l with know := l'.know })) :
    LaneWise u w (fun _ l l' => l' = { l with know := l'.know }) := by
  obtain ⟨hlen, hlanes⟩ := h
  obtain ⟨hlen', hlanes'⟩ := h'
  refine ⟨hlen'.trans hlen, fun n l l' hl hl' => ?_⟩
  obtain ⟨hlt, -⟩ := List.getElem?_eq_some_iff.1 hl
  have hm := List.getElem?_eq_getElem (hlen.symm ▸ hlt : n < v.length)
  rw [hlanes' n _ l' hm hl', hlanes n l _ hl hm]

theorem Wave.Rests.refl (v : Wave) : v.Rests v := ⟨.know_refl _, rfl, rfl, rfl⟩

theorem Wave.Rests.trans {u v w : Wave} (h : u.Rests v) (h' : v.Rests w) : u.Rests w :=
  ⟨h.1.know_trans h'.1, h'.2.1.trans h.2.1, h'.2.2.1.trans h.2.2.1, h'.2.2.2.trans h.2.2.2⟩

/-- Memory, contexts and commands are the same, and every wave stands in this relation to what it was. -/
structure State.Keeping (R : Wave → Wave → Prop) (s t : State) : Prop where
  mem : t.mem = s.mem
  poison : t.poison = s.poison
  contexts : t.contexts = s.contexts
  commands : t.commands = s.commands
  waves : ∀ g w, (s.wave g w = none ∧ t.wave g w = none) ∨
    ∃ v v', s.wave g w = some v ∧ t.wave g w = some v' ∧ R v v'

section Keeping
variable {R : Wave → Wave → Prop} {s t u : State}

theorem State.Keeping.of_waves (hmem : t.mem = s.mem) (hpoison : t.poison = s.poison)
    (hcontexts : t.contexts = s.contexts) (hcommands : t.commands = s.commands)
    (h : ∀ g w, ∃ f : Wave → Wave, (∀ v, R v (f v)) ∧ t.wave g w = (s.wave g w).map f) : State.Keeping R s t := by
  refine ⟨hmem, hpoison, hcontexts, hcommands, fun g w => ?_⟩
  obtain ⟨f, hf, hw⟩ := h g w
  rw [hw]
  cases s.wave g w with
  | none => exact .inl ⟨rfl, rfl⟩
  | some v => exact .inr ⟨v, f v, rfl, rfl, hf v⟩

theorem State.Keeping.of_gangs (hR : ∀ v, R v v) (hmem : t.mem = s.mem) (hpoison : t.poison = s.poison)
    (hcontexts : t.contexts = s.contexts) (hcommands : t.commands = s.commands) (h : t.gangs = s.gangs) :
    State.Keeping R s t :=
  .of_waves hmem hpoison hcontexts hcommands fun g w => ⟨id, hR, by rw [State.wave, h, Option.map_id]; rfl⟩

theorem State.Keeping.refl (hR : ∀ v, R v v) (s : State) : State.Keeping R s s := .of_gangs hR rfl rfl rfl rfl rfl

theorem State.Keeping.trans (hR : ∀ {u v w}, R u v → R v w → R u w) (h : State.Keeping R s t) (h' : State.Keeping R t u) :
    State.Keeping R s u := by
  refine ⟨h'.mem.trans h.mem, h'.poison.trans h.poison, h'.contexts.trans h.contexts, h'.commands.trans h.commands, fun g w => ?_⟩
  rcases h.waves g w with ⟨hs, ht⟩ | ⟨v, v', hs, ht, hr⟩
  · rcases h'.waves g w with ⟨ht', hu⟩ | ⟨v, v', ht', hu, hr⟩
    · exact .inl ⟨hs, hu⟩
    · rw [ht] at ht'; cases ht'
  · rcases h'.waves g w with ⟨ht', hu⟩ | ⟨x, v'', ht', hu, hr'⟩
    · rw [ht] at ht'; cases ht'
    · rw [ht] at ht'
      cases ht'
      exact .inr ⟨v, v'', hs, hu, hR hr hr'⟩

theorem State.Keeping.mono {R' : Wave → Wave → Prop} (hR : ∀ {v w}, R v w → R' v w) (h : State.Keeping R s t) :
    State.Keeping R' s t := by
  refine ⟨h.mem, h.poison, h.contexts, h.commands, fun g w => ?_⟩
  rcases h.waves g w with hnone | ⟨v, v', hs, ht, hr⟩
  · exact .inl hnone
  · exact .inr ⟨v, v', hs, ht, hR hr⟩

theorem State.modWave_keeping (hR : ∀ v, R v v) (s : State) (g w : Nat) {f : Wave → Wave} (hf : ∀ v, R v (f v)) :
    State.Keeping R s (s.modWave g w f) := by
  refine .of_waves rfl rfl rfl rfl fun h k => ⟨if h = g ∧ k = w then f else id, ?_, ?_⟩
  · split
    · exact hf
    · exact hR
  · rw [State.modWave_wave]
    split
    · rfl
    · rw [Option.map_id]; rfl

/-- A change of a gang that leaves its waves. -/
theorem State.modGang_keeping (hR : ∀ v, R v v) (s : State) (g : Nat) {f : Gang → Gang} (hf : ∀ x, (f x).waves = x.waves) :
    State.Keeping R s (s.modGang g f) := by
  refine .of_waves rfl rfl rfl rfl fun h k => ⟨id, hR, ?_⟩
  rw [State.wave, State.modGang_gangs, aget_amod, Option.map_id, State.wave]
  split
  · cases aget s.gangs h <;> simp [hf]
  · rfl

/-- A wave that is replaced by one that stands in the relation to it. -/
theorem State.setWave_keeping (hR : ∀ v, R v v) {g w : Nat} {v v' : Wave} (hv : s.wave g w = some v) (hr : R v v') :
    State.Keeping R s (s.setWave g w v') := by
  refine ⟨rfl, rfl, rfl, rfl, fun h k => ?_⟩
  rw [State.setWave, State.modWave_wave]
  by_cases hgw : h = g ∧ k = w
  · obtain ⟨rfl, rfl⟩ := hgw
    rw [if_pos ⟨rfl, rfl⟩, hv]
    exact .inr ⟨v, v', rfl, rfl, hr⟩
  · rw [if_neg hgw]
    exact (State.Keeping.refl hR s).waves h k

end Keeping

/-- Memory, contexts and commands are the same, and every wave is as it was. -/
abbrev State.Rests (s t : State) : Prop := State.Keeping Wave.Rests s t

theorem State.Rests.of_gangs {s t : State} (hmem : t.mem = s.mem) (hpoison : t.poison = s.poison)
    (hcontexts : t.contexts = s.contexts) (hcommands : t.commands = s.commands) (h : t.gangs = s.gangs) : s.Rests t :=
  State.Keeping.of_gangs Wave.Rests.refl hmem hpoison hcontexts hcommands h

theorem State.Rests.refl (s : State) : s.Rests s := State.Keeping.refl Wave.Rests.refl s

theorem State.Rests.trans {s t u : State} (h : s.Rests t) (h' : t.Rests u) : s.Rests u :=
  State.Keeping.trans Wave.Rests.trans h h'

theorem State.modWave_rests (s : State) (g w : Nat) {f : Wave → Wave} (hf : ∀ v : Wave, v.Rests (f v)) :
    s.Rests (s.modWave g w f) := State.modWave_keeping Wave.Rests.refl s g w hf

theorem State.modGang_rests (s : State) (g : Nat) {f : Gang → Gang} (hf : ∀ x, (f x).waves = x.waves) :
    s.Rests (s.modGang g f) := State.modGang_keeping Wave.Rests.refl s g hf

theorem WaveCore.learnIn_know (c : WaveCore) (lanes : BitVec 32) (v : Seen) :
    LaneWise c.lanes (c.learnIn lanes v).lanes (fun _ l l' => l' = { l with know := l'.know }) := by
  unfold WaveCore.learnIn
  split
  · exact .know_refl _
  · exact mapIdx_laneWise _ _ _ fun n l _ => by dsimp only; split <;> rfl

theorem WaveCore.learnIn_keeps (c : WaveCore) (lanes : BitVec 32) (v : Seen) :
    (c.learnIn lanes v).s = c.s ∧ (c.learnIn lanes v).j = c.j := by
  unfold WaveCore.learnIn
  split <;> exact ⟨rfl, rfl⟩

theorem Wave.wakeBar_rests (w : Wave) (name : BarScope × Nat) (phase : W32) (v : Seen) : w.Rests (w.wakeBar name phase v) :=
  ⟨WaveCore.learnIn_know .., (WaveCore.learnIn_keeps ..).1, (WaveCore.learnIn_keeps ..).2, rfl⟩

theorem aget_mapVal {α : Type} (f : Nat → α → α) (m : List (Nat × α)) (k : Nat) :
    aget (m.map (fun p => (p.1, f p.1 p.2))) k = (aget m k).map (f k) := by
  induction m with
  | nil => rfl
  | cons p m ih =>
    rw [List.map_cons, aget, aget, ih]
    by_cases hk : p.1 = k
    · subst hk; simp
    · simp [hk]

/-- What a flip makes of one wave: it wakes where its gang and its number are the barrier's. -/
def Inst.wakes (i : Inst) (phase : W32) (v : Seen) (g : Nat) (x : Gang) (w : Nat) (wave : Wave) : Wave :=
  if i.covers g x && (match i with | .wave _ u _ => u == w | _ => true) then wave.wakeBar i.name phase v else wave

theorem State.wakeAll_wave (s : State) (i : Inst) (phase : W32) (v : Seen) (g w : Nat) :
    (s.wakeAll i phase v).wave g w =
      (aget s.gangs g).bind (fun x => (x.waves[w]?).map (i.wakes phase v g x w)) := by
  obtain ⟨F, hgangs, hwaves⟩ : ∃ F : Nat → Gang → Gang, (s.wakeAll i phase v).gangs =
      s.gangs.map (fun p => (p.1, F p.1 p.2)) ∧ ∀ g x, (F g x).waves = x.waves.mapIdx (i.wakes phase v g x) := by
    refine ⟨fun g x => if i.covers g x then { x with
        waves := x.waves.mapIdx (i.wakes phase v g x)
        arrivals := match (match i with | .stack _ _ n => some n | .pkg _ n => some (16 + n) | _ => none) with
          | some k => adel x.arrivals k | none => x.arrivals } else x, List.map_congr_left fun p _ => ?_, fun g x => ?_⟩
    · unfold Inst.wakes
      by_cases hc : i.covers p.1 p.2 = true
      · simp only [hc, if_true, Bool.true_and] <;> rfl
      · simp only [hc, Bool.false_eq_true, if_false]
    · dsimp only
      split
      · rfl
      next hc =>
        refine (List.ext_getElem? fun w => ?_)
        have hid : i.wakes phase v g x w = id := funext fun wave => by
          unfold Inst.wakes
          rw [Bool.eq_false_iff.2 hc, Bool.false_and, if_neg (by simp)]
          rfl
        rw [List.getElem?_mapIdx, hid, Option.map_id]
        rfl
  rw [State.wave, hgangs, aget_mapVal]
  cases aget s.gangs g with
  | none => rfl
  | some x => rw [Option.map_some, Option.bind_some, Option.bind_some, hwaves, List.getElem?_mapIdx]

theorem State.wakeAll_rests (s : State) (i : Inst) (phase : W32) (v : Seen) : s.Rests (s.wakeAll i phase v) := by
  refine .of_waves rfl rfl rfl rfl fun g w => ?_
  rw [State.wakeAll_wave, State.wave]
  cases aget s.gangs g with
  | none => exact ⟨id, .refl, rfl⟩
  | some x =>
    refine ⟨i.wakes phase v g x w, fun wave => ?_, rfl⟩
    exact iteInduction (motive := fun u => wave.Rests u) (fun _ => Wave.wakeBar_rests ..) fun _ => .refl _

theorem State.setBar_rests (s : State) (i : Inst) (b : Barrier) : s.Rests (s.setBar i b) := by
  cases i with
  | wave g w n => exact s.modWave_rests g w fun v => ⟨.know_refl _, rfl, rfl, rfl⟩
  | gang g n => exact s.modGang_rests g fun _ => rfl
  | stack l st n => exact .of_gangs rfl rfl rfl rfl rfl
  | pkg l n => exact .of_gangs rfl rfl rfl rfl rfl

/-- No wave of a gang speculates. -/
def State.GangAlone (s : State) (g : Nat) : Prop := ∀ w v, s.wave g w = some v → v.spec = none

theorem State.Rests.alone {s t : State} {g : Nat} (h : s.Rests t) (ha : s.GangAlone g) : t.GangAlone g := by
  intro w v hv
  rcases h.waves g w with ⟨-, ht⟩ | ⟨u, u', hs, ht, -, -, -, hspec⟩
  · rw [ht] at hv; cases hv
  · rw [ht] at hv
    cases hv
    exact hspec.trans (ha w u hs)

/-- A barrier of a gang that does not speculate commits nothing. -/
theorem State.commit_rests {s : State} {g : Nat} (ha : s.GangAlone g) (n : Nat) (v : Seen) : s.Rests (s.commit g n v) := by
  unfold State.commit
  split
  · exact .refl s
  next gang hg =>
    dsimp only
    generalize hspecs : List.filterMap _ (gang.waves.mapIdx (fun w x => (w, x))) = specs
    obtain rfl : specs = [] := by
      rw [← hspecs, List.filterMap_eq_nil_iff]
      intro q hq
      obtain ⟨k, hk, rfl⟩ := List.mem_mapIdx.1 hq
      rw [ha k gang.waves[k] (by rw [State.wave, hg]; exact List.getElem?_eq_getElem hk)]
    exact .of_gangs rfl rfl rfl rfl rfl

theorem State.settle_rests {s : State} {i : Inst} (ha : ∀ g n, i = .gang g n → s.GangAlone g) : s.Rests (s.settle i) := by
  unfold State.settle
  dsimp only
  split
  · have h := (s.setBar_rests i (s.getBar i).flip).trans (State.wakeAll_rests _ i (s.getBar i).flip.phase (s.getBar i).flip.passed)
    cases i with
    | gang g n => exact h.trans (State.commit_rests (h.alone (ha g n rfl)) ..)
    | wave g w n => exact h
    | stack l st n => exact h
    | pkg l n => exact h
  · exact .refl s

theorem State.modBar_rests {s : State} {i : Inst} (ha : ∀ g n, i = .gang g n → s.GangAlone g) (f : Barrier → Barrier) :
    s.Rests (s.modBar i f) :=
  (s.setBar_rests i _).trans (State.settle_rests fun g n h => (s.setBar_rests i _).alone (ha g n h))

theorem State.gangArrival_rests (s : State) (g : Nat) (pkg : Bool) (n : Nat) : s.Rests (s.gangArrival g pkg n) := by
  unfold State.gangArrival
  split
  · exact .refl s
  next x _ =>
    have hinst : ∀ h m, x.groupInst pkg n ≠ .gang h m := fun h m e => by cases pkg <;> cases e
    have h := State.modBar_rests (s := s) (fun h m e => absurd e (hinst h m)) (fun b => b.arrive [] g)
    cases pkg <;> exact iteInduction (motive := fun t => s.Rests t) (fun _ => h) fun _ => .refl s

theorem Issue.arrive_rests {c : Issue} {s : State} (ha : s.GangAlone c.g) (sc : BarScope) (n : Nat) :
    s.Rests (c.arrive s sc n) := by
  have hgroup : ∀ (p : Prop) [Decidable p] i b (f : Gang → Gang) pkg, (∀ x, (f x).waves = x.waves) →
      s.Rests (((if p then s else s.setBar i b).modGang c.g f).gangArrival c.g pkg n) := fun p _ i b f pkg hf =>
    have hset : s.Rests (if p then s else s.setBar i b) := by
      split
      · exact .refl s
      · exact s.setBar_rests ..
    (hset.trans (State.modGang_rests _ c.g hf)).trans (State.gangArrival_rests ..)
  unfold Issue.arrive
  cases sc with
  | wave => exact State.modBar_rests (fun h m e => by cases e) _
  | gang => exact State.modBar_rests (fun h m e => by cases e; exact ha) _
  | stack => exact hgroup _ _ _ _ _ fun _ => rfl
  | pkg => exact hgroup _ _ _ _ _ fun _ => rfl

theorem markStalls_keeps (i : Instr) (core : WaveCore) (m : BitVec 32) :
    (markStalls i core m).lanes = core.lanes ∧ (markStalls i core m).s = core.s ∧ (markStalls i core m).j = core.j := by
  unfold markStalls
  split <;> exact ⟨rfl, rfl, rfl⟩

/-- A wave whose issuing entry goes on or blocks. -/
theorem Wave.Rests.stall (v : Wave) {w : Wave} {i : Instr} {f : List Entry} {m : BitVec 32}
    (hcore : ∃ last, w.core = { markStalls i { v.core with frontier := f } m with last := last, tokenWait := none })
    (hspec : w.spec = v.spec) : v.Rests w := by
  obtain ⟨last, hcore⟩ := hcore
  obtain ⟨hlanes, hs, hj⟩ := markStalls_keeps i { v.core with frontier := f } m
  refine ⟨?_, ?_, ?_, hspec⟩
  · rw [hcore]
    show LaneWise _ (markStalls _ _ _).lanes _
    rw [hlanes]
    exact .know_refl _
  · rw [hcore]; exact hs
  · rw [hcore]; exact hj

theorem Issue.advanceIn_rests (c : Issue) (i : Instr) (s : State) : s.Rests (c.advanceIn i s) :=
  s.modWave_rests c.g c.w fun v => .stall v ⟨_, rfl⟩ rfl

theorem Issue.blockIn_rests (c : Issue) (i : Instr) (s : State) (x : Wait) : s.Rests (c.blockIn i s x) :=
  s.modWave_rests c.g c.w fun v => .stall v ⟨_, rfl⟩ rfl

theorem Issue.acquires_rests (c : Issue) (s : State) (v : Seen) : s.Rests (c.acquires s v) :=
  s.modWave_rests c.g c.w fun _ => ⟨WaveCore.learnIn_know .., (WaveCore.learnIn_keeps ..).1, (WaveCore.learnIn_keeps ..).2, rfl⟩

/-! ### The issuing wave -/

theorem State.issuing_wave {s : State} {c : Issue} (h : s.issuing = some c) : s.wave c.g c.w = some c.wave := by
  unfold State.issuing at h
  split at h
  · cases h
  · split at h
    · cases h
    next gang hg =>
      split at h
      · cases h
      next wave hw =>
        split at h
        · cases h
        · split at h
          · cases h
            rw [State.wave, hg]
            exact hw
          · cases h

/-- A word that executes finds its wave, with its latches and what it has learned apart. -/
theorem Executes.wave {i : Instr} {s : State} {c : Issue} (h : Executes i s c) :
    ∃ v, s.wave c.g c.w = some v ∧ v.Rests c.wave := by
  obtain ⟨c0, hc, -, -, -, -, -, -, rfl⟩ := executes_iff.1 h
  refine ⟨c0.wave, State.issuing_wave hc, ?_⟩
  have hissue : (atIssue i c0.wave.core c0.entry).lanes = c0.wave.core.lanes ∧
      (atIssue i c0.wave.core c0.entry).s = c0.wave.core.s ∧ (atIssue i c0.wave.core c0.entry).j = c0.wave.core.j := by
    rw [atIssue_eq]
    exact ⟨rfl, rfl, rfl⟩
  obtain ⟨hlanes, hs, hj⟩ := hissue
  refine ⟨?_, ?_, ?_, rfl⟩
  · rw [← hlanes]
    exact WaveCore.learnIn_know ..
  · rw [← hs]
    exact (WaveCore.learnIn_keeps ..).1
  · rw [← hj]
    exact (WaveCore.learnIn_keeps ..).2

theorem Executes.rests {i : Instr} {s : State} {c : Issue} (h : Executes i s c) : s.Rests (s.setWave c.g c.w c.wave) := by
  obtain ⟨v, hv, hr⟩ := h.wave
  exact State.setWave_keeping Wave.Rests.refl hv hr

theorem Executes.alone_gang {i : Instr} {s : State} {c : Issue} (h : Executes i s c)
    (ha : ∀ w ∈ c.gang.waves, w.spec = none) : s.GangAlone c.g := fun w v hv => by
  rw [State.wave, h.gang] at hv
  exact ha v (List.mem_of_getElem? hv)

/-! ### BAR -/

/-- A BAR traps for its scope (R200): its barrier is of a launch that is not all resident, or its wave is diverted. -/
def Issue.barred (c : Issue) (s : State) (sc : BarScope) : Prop := (sc = .stack ∨ sc = .pkg) ∧
  ((∀ l, s.launchOf c.gang = some l → l.desc.allResident = false) ∨ c.wave.diverted = true)

/-- What BAR does in a wave with active lanes whose scope is in order. -/
def Issue.barGoes (c : Issue) (s : State) (n : BitVec 4) (k : BarKind) (sc : BarScope) (x : Bool) : State :=
  let i := Instr.bar n k sc x
  let inst := c.inst sc n.toNat
  let b := s.getBar inst
  let s1 := s.setWave c.g c.w c.wave
  let s2 := c.arrive s1 sc n.toNat
  match k with
  | .arv => c.advanceIn i s2
  | .drop => c.advanceIn i (c.arrive (s1.setBar inst ((c.participants sc).foldl Barrier.drop b)) sc n.toNat)
  | .join => c.advanceIn i (s1.setBar inst ((c.participants sc).foldl Barrier.join b))
  | .wait =>
    if (c.participants sc).any (fun p => b.arrived.contains p) then c.blockIn i s1 (.bar sc n.toNat b.phase)
    else c.advanceIn i (c.acquires s1 b.passed)
  | .sync =>
    if b.phase.toNat < (s2.getBar inst).phase.toNat then c.advanceIn i (c.acquires s2 (s2.getBar inst).passed)
    else if x && sc == .gang && c.maySpeculate s then c.speculate i s2 n.toNat b.phase
    else c.blockIn i s2 (.bar sc n.toNat b.phase)

theorem bar_cases {n : BitVec 4} {k : BarKind} {sc : BarScope} {x : Bool} {s : State} {c : Issue}
    (h : Executes (.bar n k sc x) s c) :
    (c.any = false → Completes (.bar n k sc x) s c c.wave.core) ∧
    (c.any = true → c.barred s sc → TrapsActive (.bar n k sc x) s c) ∧
    (c.any = true → ¬ c.barred s sc → exec (.bar n k sc x) s = .next (c.barGoes s n k sc x)) := by
  have e : exec (.bar n k sc x) s = .next _ := issueWord_go h _
  have hbarred : ((sc == .stack || sc == .pkg) &&
      (!((s.launchOf c.gang).map (fun l => l.desc.allResident)).getD false || c.wave.diverted)) = true ↔ c.barred s sc := by
    have hall : ((!((s.launchOf c.gang).map (fun l => l.desc.allResident)).getD false) = true) ↔
        ∀ l, s.launchOf c.gang = some l → l.desc.allResident = false := by
      cases s.launchOf c.gang <;> simp
    rw [Bool.and_eq_true, Bool.or_eq_true, Bool.or_eq_true, hall, beq_iff_eq, beq_iff_eq]
    rfl
  dsimp only at e
  refine ⟨fun ha => ?_, fun ha hb => ?_, fun ha hb => ?_⟩
  · rw [ha, if_pos (by simp)] at e
    exact e
  · rw [ha, if_neg (by simp), if_pos (hbarred.2 hb)] at e
    exact trapsActive_of (marksNone_of_empty rfl rfl rfl) ha e
  · rw [ha, if_neg (by simp), if_neg (fun hc => hb (hbarred.1 hc))] at e
    exact e

/-- What no BAR of a gang without speculation changes. -/
def State.BarKeeps (s t : State) : Prop := t.mem = s.mem ∧ t.poison = s.poison ∧ t.contexts = s.contexts ∧
  t.commands = s.commands ∧ ∀ g w v v', s.wave g w = some v → t.wave g w = some v' →
    LaneWise v.core.lanes v'.core.lanes (fun _ l l' => l' = { l with know := l'.know }) ∧ v'.core.s = v.core.s ∧
      v'.core.j = v.core.j

theorem State.Rests.barKeeps {s t : State} (h : s.Rests t) : s.BarKeeps t := by
  refine ⟨h.mem, h.poison, h.contexts, h.commands, fun g w v v' hv hv' => ?_⟩
  rcases h.waves g w with ⟨hs, -⟩ | ⟨u, u', hs, ht, hlanes, huni, hj, -⟩
  · rw [hs] at hv; cases hv
  · cases hs.symm.trans hv
    cases ht.symm.trans hv'
    exact ⟨hlanes, huni, hj⟩

/-- A wave that goes on speculatively keeps its lanes and uniform registers too. -/
theorem Issue.speculate_barKeeps {c : Issue} {s t : State} (h : s.Rests t) (i : Instr) (n : Nat) (mine : W32) :
    s.BarKeeps (c.speculate i t n mine) := by
  obtain ⟨hmem, hpoison, hcontexts, hcommands, hwaves⟩ := h.barKeeps
  refine ⟨hmem, hpoison, hcontexts, hcommands, fun g w v v' hv hv' => ?_⟩
  rw [Issue.speculate, State.modWave_wave] at hv'
  split at hv'
  · obtain ⟨u, hu, rfl⟩ := Option.map_eq_some_iff.1 hv'
    obtain ⟨hlanes, hs, hj⟩ := hwaves g w v u hv hu
    obtain ⟨hlanes', hs', hj'⟩ := markStalls_keeps i { u.core with frontier := putEntry u.core.frontier c.k c.entry.next } c.active
    refine ⟨?_, hs'.trans hs, hj'.trans hj⟩
    show LaneWise _ (markStalls _ _ _).lanes _
    rw [hlanes']
    exact hlanes
  · exact hwaves g w v v' hv hv'

theorem Issue.barGoes_keeps {c : Issue} {s : State} {i : Instr} (h : Executes i s c) (ha : ∀ w ∈ c.gang.waves, w.spec = none)
    (n : BitVec 4) (k : BarKind) (sc : BarScope) (x : Bool) : s.BarKeeps (c.barGoes s n k sc x) := by
  have h1 := h.rests
  have ha1 := h1.alone (h.alone_gang ha)
  have h2 := h1.trans (c.arrive_rests ha1 sc n.toNat)
  unfold Issue.barGoes
  cases k with
  | arv => exact (h2.trans (Issue.advanceIn_rests ..)).barKeeps
  | drop =>
    have hset := State.setBar_rests (s.setWave c.g c.w c.wave) (c.inst sc n.toNat)
      ((c.participants sc).foldl Barrier.drop (s.getBar (c.inst sc n.toNat)))
    exact (((h1.trans hset).trans (c.arrive_rests (hset.alone ha1) sc n.toNat)).trans (Issue.advanceIn_rests ..)).barKeeps
  | join => exact ((h1.trans (State.setBar_rests ..)).trans (Issue.advanceIn_rests ..)).barKeeps
  | wait =>
    dsimp only
    split
    · exact (h1.trans (Issue.blockIn_rests ..)).barKeeps
    · exact ((h1.trans (Issue.acquires_rests ..)).trans (Issue.advanceIn_rests ..)).barKeeps
  | sync =>
    dsimp only
    split
    · exact ((h2.trans (Issue.acquires_rests ..)).trans (Issue.advanceIn_rests ..)).barKeeps
    · split
      · exact Issue.speculate_barKeeps h2 ..
      · exact (h2.trans (Issue.blockIn_rests ..)).barKeeps

/-- Settles O40. -/
theorem barriers : Obligations.Barriers := by
  refine ⟨fun b v p q => ⟨b.due_iff, rfl, rfl, rfl, rfl, rfl, b.mem_flip p, b.mem_arrive v p q, mem_insertOnce .., b.mem_join p q,
    b.mem_leave p q⟩, fun s c h => issueWord_go h _, ?_⟩
  intro n k sc x s c h i inst b s1 s2 barred
  obtain ⟨hidle, htraps, hgoes⟩ := bar_cases h
  refine ⟨hidle, htraps, fun hany hb => ?_⟩
  have e := hgoes hany hb
  refine ⟨?_, ?_, ?_, ?_, ?_, ?_, ?_, ?_⟩
  · rintro rfl; exact e
  · rintro rfl; exact e
  · rintro rfl; exact e
  · rintro rfl hsome
    rw [e, Issue.barGoes, if_pos (by simpa using hsome)]
  · rintro rfl hnone
    rw [e, Issue.barGoes, if_neg (by simpa using hnone)]
  · rintro rfl hflip
    rw [e, Issue.barGoes, if_pos hflip]
  · rintro rfl hflip
    rw [e, Issue.barGoes, if_neg (Nat.not_lt.2 hflip)]
    simp only [Bool.and_eq_true, beq_iff_eq, and_assoc]
    rfl
  · intro hspec t ht
    cases e.symm.trans ht
    exact Issue.barGoes_keeps h hspec n k sc x

end Sys2Proof.Machine
end

section
/-! SUPPORT. The queues, and what the words that use them leave of memory and of the registers. -/
namespace Sys2Proof.Machine

/-! ### What the queue words leave -/

/-- The registers of every lane, with their marks, are the same. -/
def Wave.RegsKept (v v' : Wave) : Prop :=
  ∀ n, (v'.core.lane n).regs = (v.core.lane n).regs ∧ (v'.core.lane n).marks = (v.core.lane n).marks

theorem Wave.RegsKept.refl (v : Wave) : v.RegsKept v := fun _ => ⟨rfl, rfl⟩

theorem Wave.RegsKept.trans {u v w : Wave} (h : u.RegsKept v) (h' : v.RegsKept w) : u.RegsKept w := fun n =>
  ⟨(h' n).1.trans (h n).1, (h' n).2.trans (h n).2⟩

theorem Wave.RegsKept.of_lanes {v v' : Wave} (h : v'.core.lanes = v.core.lanes) : v.RegsKept v' := fun n => by
  rw [WaveCore.lane, WaveCore.lane, h]
  exact ⟨rfl, rfl⟩

/-- Lanes that each keep their registers. -/
theorem Wave.RegsKept.of_laneWise {v v' : Wave}
    (h : LaneWise v.core.lanes v'.core.lanes (fun _ l l' => l'.regs = l.regs ∧ l'.marks = l.marks)) : v.RegsKept v' := by
  obtain ⟨hlen, hlanes⟩ := h
  intro n
  rw [WaveCore.lane, WaveCore.lane, List.getD_eq_getElem?_getD, List.getD_eq_getElem?_getD]
  cases hn : v.core.lanes[n]? with
  | none => rw [List.getElem?_eq_none (hlen ▸ List.getElem?_eq_none_iff.1 hn)]; exact ⟨rfl, rfl⟩
  | some l =>
    have hn' := List.getElem?_eq_getElem (hlen.symm ▸ (List.getElem?_eq_some_iff.1 hn).1 : n < v'.core.lanes.length)
    rw [hn']
    exact hlanes n l _ hn hn'

theorem Wave.Rests.regsKept {v v' : Wave} (h : v.Rests v') : v.RegsKept v' :=
  .of_laneWise ⟨h.1.1, fun n l l' hl hl' => by rw [h.1.2 n l l' hl hl']; exact ⟨rfl, rfl⟩⟩

/-- Memory, contexts and commands are the same, and every lane keeps its registers. -/
abbrev State.RegsKept (s t : State) : Prop := State.Keeping Wave.RegsKept s t

theorem State.RegsKept.refl (s : State) : s.RegsKept s := State.Keeping.refl Wave.RegsKept.refl s

theorem State.RegsKept.trans {s t u : State} (h : s.RegsKept t) (h' : t.RegsKept u) : s.RegsKept u :=
  State.Keeping.trans Wave.RegsKept.trans h h'

theorem State.Rests.regsKept {s t : State} (h : s.Rests t) : s.RegsKept t := h.mono Wave.Rests.regsKept

theorem State.modWave_regsKept (s : State) (g w : Nat) {f : Wave → Wave} (hf : ∀ v : Wave, v.RegsKept (f v)) :
    s.RegsKept (s.modWave g w f) := State.modWave_keeping Wave.RegsKept.refl s g w hf

theorem State.RegsKept.reads {s t : State} (h : s.RegsKept t) : t.mem = s.mem ∧ t.poison = s.poison ∧
    t.contexts = s.contexts ∧ t.commands = s.commands ∧ ∀ g w v v', s.wave g w = some v → t.wave g w = some v' → ∀ n,
      (v'.core.lane n).regs = (v.core.lane n).regs ∧ (v'.core.lane n).marks = (v.core.lane n).marks := by
  refine ⟨h.mem, h.poison, h.contexts, h.commands, fun g w v v' hv hv' => ?_⟩
  rcases h.waves g w with ⟨hs, -⟩ | ⟨u, u', hs, ht, hr⟩
  · cases hs.symm.trans hv
  · cases hs.symm.trans hv
    cases ht.symm.trans hv'
    exact hr

/-- The issuing wave is replaced by one that keeps its registers. -/
theorem Executes.setWave_regsKept {i : Instr} {s : State} {c : Issue} (h : Executes i s c) {w : Wave}
    (hw : c.wave.RegsKept w) : s.RegsKept (s.setWave c.g c.w w) := by
  obtain ⟨v, hv, hr⟩ := h.wave
  exact State.setWave_keeping Wave.RegsKept.refl hv (hr.regsKept.trans hw)

theorem Issue.advance_regsKept (c : Issue) (i : Instr) (s : State) {core : WaveCore}
    (hc : LaneWise c.wave.core.lanes core.lanes (fun _ l l' => l'.regs = l.regs ∧ l'.marks = l.marks)) :
    c.wave.RegsKept (c.advance i s core) := by
  obtain ⟨hlanes, -⟩ := markStalls_keeps i { core with frontier := putEntry core.frontier c.k c.entry.next } c.active
  refine .of_laneWise ?_
  show LaneWise _ (markStalls _ _ _).lanes _
  rw [hlanes]
  exact hc

theorem LaneWise.regs_refl (lanes : List Lane) :
    LaneWise lanes lanes (fun _ l l' => l'.regs = l.regs ∧ l'.marks = l.marks) :=
  ⟨rfl, fun n l l' hl hl' => by rw [hl] at hl'; cases hl'; exact ⟨rfl, rfl⟩⟩

theorem Executes.completes_regsKept {i : Instr} {s t : State} {c : Issue} {core : WaveCore} (h : Executes i s c)
    (hlanes : core.lanes = c.wave.core.lanes) (e : Completes i s c core) (ht : exec i s = .next t) : s.RegsKept t := by
  cases e.symm.trans ht
  refine h.setWave_regsKept (c.advance_regsKept i s ?_)
  rw [hlanes]
  exact .regs_refl _

theorem Issue.specStall_regsKept (c : Issue) (s : State) (n : Nat) : s.RegsKept (c.specStall s n) := by
  unfold Issue.specStall
  split
  · exact .refl s
  · split
    · exact .refl s
    · have hcount : s.RegsKept (s.modStack c.gang.stack fun t => t.count n 1) :=
        State.Keeping.of_gangs Wave.RegsKept.refl rfl rfl rfl rfl rfl
      exact hcount.trans (State.modWave_regsKept _ c.g c.w fun v => .of_lanes rfl)

/-- A trap outside handler mode writes no register. -/
theorem TrapsActive.regsKept {i : Instr} {s t : State} {c : Issue} (h : Executes i s c) (e : TrapsActive i s c)
    (hh : c.wave.core.handler = false) (ht : exec i s = .next t) : s.RegsKept t := by
  obtain ⟨⟨hspec, -⟩, htraps⟩ := e
  cases hs : c.wave.spec with
  | some sp =>
    cases (hspec (by rw [hs]; rfl)).symm.trans ht
    exact c.specStall_regsKept s _
  | none =>
    obtain ⟨lanes, htr, hlen, hlanes⟩ := htraps hs hh
    cases htr.symm.trans ht
    refine h.setWave_regsKept (.of_laneWise ⟨hlen, fun n l l' hl hl' => ?_⟩)
    rw [hlanes n l l' hl hl']
    split <;> exact ⟨rfl, rfl⟩

/-! ### Queues -/

theorem WaveCore.learnIn_same (core : WaveCore) (lanes : BitVec 32) (v : Seen) : SameButKnowledge core (core.learnIn lanes v) := by
  refine ⟨?_, WaveCore.learnIn_know ..⟩
  unfold WaveCore.learnIn
  split <;> rfl

theorem Wave.takeWord_regsKept (v : Wave) (lanes : BitVec 32) (d : Reg) (x : QWord) :
    v.RegsKept (v.modCore (fun k => k.takeWord lanes d x)) :=
  Wave.Rests.regsKept (v := { v with core := v.core.putUni d.toNat x.val x.mark })
    ⟨WaveCore.learnIn_know .., (WaveCore.learnIn_keeps ..).1, (WaveCore.learnIn_keeps ..).2, rfl⟩

/-- What the settling of queues leaves of a wave: its entries go on, its queues move, and it takes words. -/
structure QueueRel (R : Wave → Wave → Prop) : Prop where
  refl : ∀ v, R v v
  trans : ∀ {u v w}, R u v → R v w → R u w
  goes : ∀ (v : Wave) f, R v { v with core := { v.core with frontier := f } }
  pushes : ∀ (v : Wave) q, R v { v with push := q }
  pops : ∀ (v : Wave) q, R v { v with pop := q }
  takes : ∀ (v : Wave) lanes d x, R v (v.modCore (fun k => k.takeWord lanes d x))

section QueueRel
variable {R : Wave → Wave → Prop} (hR : QueueRel R)
include hR

theorem QueueRel.push (s : State) (g w q : Nat) (v : QWord) : State.Keeping R s (s.pushWord g w q v) := by
  unfold State.pushWord
  split
  · exact s.modWave_keeping hR.refl g w fun u => hR.pushes u _
  · exact s.modGang_keeping hR.refl g fun _ => rfl

theorem QueueRel.pop (s : State) (g w q : Nat) : State.Keeping R s (s.popWord g w q) := by
  unfold State.popWord
  split
  · exact s.modWave_keeping hR.refl g w fun u => hR.pops u _
  · exact s.modGang_keeping hR.refl g fun _ => rfl

theorem QueueRel.step {s t : State} {g w k : Nat} (h : s.queueStep g w k = some t) : State.Keeping R s t := by
  have hready : ∀ (u : State) (e : Entry), State.Keeping R s u → State.Keeping R s (u.modWave g w (fun v =>
      v.modCore (fun c => { c with frontier := c.frontier.set k { e.next with state := .ready } }))) := fun u e hu =>
    hu.trans hR.trans (u.modWave_keeping hR.refl g w fun v => hR.goes v _)
  unfold State.queueStep at h
  split at h
  · cases h
  · split at h
    · cases h
    · split at h
      · cases h
      next e he =>
        dsimp only at h
        split at h
        next d q hs =>
          split at h
          · cases h
          next word rest hw =>
            cases h
            exact hready _ e ((hR.pop s g w q.toNat).trans hR.trans
              (State.modWave_keeping hR.refl _ g w fun v => hR.takes v _ _ _))
        next q a hs =>
          split at h
          · cases h
          · cases h
            exact hready _ e (hR.push s g w q.toNat _)
        · cases h

theorem QueueRel.settles (n : Nat) : ∀ (s : State) (g : Nat), State.Keeping R s (s.settleQueues g n) := by
  induction n with
  | zero => exact fun s g => .refl hR.refl s
  | succ n ih =>
    intro s g
    rw [State.settleQueues]
    split
    · exact .refl hR.refl s
    · dsimp only
      split
      · exact .refl hR.refl s
      next p hp =>
        cases hstep : s.queueStep g p.1 p.2 with
        | none => exact ih s g
        | some t => exact (hR.step hstep).trans hR.trans (ih t g)

theorem QueueRel.settlesGang (s : State) (g : Nat) : State.Keeping R s (s.settleGangQueues g) := by
  unfold State.settleGangQueues
  split
  · exact .refl hR.refl s
  · exact hR.settles _ s g

end QueueRel

theorem queueRel_regsKept : QueueRel Wave.RegsKept where
  refl := .refl
  trans := .trans
  goes _ _ := .of_lanes rfl
  pushes _ _ := .of_lanes rfl
  pops _ _ := .of_lanes rfl
  takes v lanes d x := v.takeWord_regsKept lanes d x

theorem State.settleGangQueues_regsKept (s : State) (g : Nat) : s.RegsKept (s.settleGangQueues g) :=
  queueRel_regsKept.settlesGang s g

/-- A popped word goes to its uniform register, the core changes no register, and the queues settle. -/
theorem Executes.takes_regsKept {i : Instr} {s : State} {c : Issue} (h : Executes i s c) (q : Nat) (d : Reg) (x : QWord)
    {f : WaveCore → WaveCore} (hf : ∀ v : Wave, v.RegsKept (v.modCore f)) :
    s.RegsKept ((c.advanceIn i (((s.setWave c.g c.w c.wave).popWord c.g c.w q).modWave c.g c.w
      (fun u => u.modCore (fun k => f (k.takeWord c.active d x))))).settleGangQueues c.g) :=
  (((h.rests.regsKept.trans (queueRel_regsKept.pop ..)).trans (State.modWave_regsKept _ c.g c.w
    fun v => (v.takeWord_regsKept c.active d x).trans (hf (v.modCore fun k => k.takeWord c.active d x)))).trans
      (c.advanceIn_rests i _).regsKept).trans (State.settleGangQueues_regsKept ..)

/-- A flag in the predicate of the active lanes. -/
theorem Wave.putPred_regsKept (v : Wave) (on : Nat → Bool) (p : BitVec 4) (x : Bool) (stall : WaveCore → BitVec 16) :
    v.RegsKept (v.modCore (fun k =>
      { k.mapLanes (fun n l => if on n then l.putPred p x false else l) with stallP := stall k })) := by
  refine .of_laneWise (mapIdx_laneWise _ _ _ fun n l _ => ?_)
  unfold Lane.putPred
  repeat' split
  all_goals exact ⟨rfl, rfl⟩

theorem marksNone_qw (q : BitVec 7) (a : Reg) : MarksNone (.qw q a) := marksNone_of_empty rfl rfl rfl

theorem qw_cases {q : BitVec 7} {a : Reg} {s : State} {c : Issue} (h : Executes (.qw q a) s c) :
    (c.any = false → Completes (.qw q a) s c c.wave.core) ∧ (c.any = true →
      (s.pushFree c.gang c.wave q.toNat = 0 → q.toNat < 5 → TrapsActive (.qw q a) s c) ∧
      (s.pushFree c.gang c.wave q.toNat = 0 → 5 ≤ q.toNat →
        exec (.qw q a) s = .next (c.blockIn (.qw q a) (s.setWave c.g c.w c.wave) (.qw q a))) ∧
      (0 < s.pushFree c.gang c.wave q.toNat → exec (.qw q a) s = .next ((c.advanceIn (.qw q a)
        ((s.setWave c.g c.w c.wave).pushWord c.g c.w q.toNat
          ⟨c.wave.core.uni a, c.wave.core.uniMark a, c.released s⟩)).settleGangQueues c.g))) := by
  have e : exec (.qw q a) s = .next _ := issueWord_go h _
  dsimp only at e
  refine ⟨fun ha => ?_, fun ha => ⟨fun hf hq => ?_, fun hf hq => ?_, fun hf => ?_⟩⟩
  · rw [ha, if_pos (by simp)] at e
    exact e
  · rw [ha, if_neg (by simp), if_pos hf, if_pos hq] at e
    exact trapsActive_of (marksNone_qw q a) ha e
  · rw [ha, if_neg (by simp), if_pos hf, if_neg (Nat.not_lt.2 hq)] at e
    exact e
  · rw [ha, if_neg (by simp), if_neg (Nat.ne_of_gt hf)] at e
    exact e

theorem qw_regsKept {q : BitVec 7} {a : Reg} {s t : State} {c : Issue} (h : Executes (.qw q a) s c)
    (hh : c.wave.core.handler = false) (ht : exec (.qw q a) s = .next t) : s.RegsKept t := by
  obtain ⟨hidle, hgoes⟩ := qw_cases h
  cases ha : c.any with
  | false => exact h.completes_regsKept rfl (hidle ha) ht
  | true =>
    obtain ⟨htrap, hblock, hpush⟩ := hgoes ha
    by_cases hf : s.pushFree c.gang c.wave q.toNat = 0
    · by_cases hq : q.toNat < 5
      · exact (htrap hf hq).regsKept h hh ht
      · cases (hblock hf (Nat.le_of_not_lt hq)).symm.trans ht
        exact (h.rests.trans (c.blockIn_rests ..)).regsKept
    · cases (hpush (Nat.pos_of_ne_zero hf)).symm.trans ht
      exact ((h.rests.regsKept.trans (queueRel_regsKept.push ..)).trans (c.advanceIn_rests ..).regsKept).trans
        (State.settleGangQueues_regsKept ..)

theorem qr_cases {q : BitVec 7} {d : Reg} {s : State} {c : Issue} (h : Executes (.qr d q) s c) :
    (c.any = false → Completes (.qr d q) s c c.wave.core) ∧ (c.any = true →
      (popSide c.gang c.wave q.toNat = [] →
        exec (.qr d q) s = .next (c.blockIn (.qr d q) (s.setWave c.g c.w c.wave) (.qr d q))) ∧
      (∀ x xs, popSide c.gang c.wave q.toNat = x :: xs → exec (.qr d q) s = .next ((c.advanceIn (.qr d q)
        (((s.setWave c.g c.w c.wave).popWord c.g c.w q.toNat).modWave c.g c.w
          (fun u => u.modCore (fun k => k.takeWord c.active d x)))).settleGangQueues c.g))) := by
  have e : exec (.qr d q) s = .next _ := issueWord_go h _
  dsimp only at e
  refine ⟨fun ha => ?_, fun ha => ⟨fun hq => ?_, fun x xs hq => ?_⟩⟩
  · rw [ha, if_pos (by simp)] at e
    exact e
  · rw [ha, if_neg (by simp), hq] at e
    exact e
  · rw [ha, if_neg (by simp), hq] at e
    exact e

theorem qr_regsKept {q : BitVec 7} {d : Reg} {s t : State} {c : Issue} (h : Executes (.qr d q) s c)
    (ht : exec (.qr d q) s = .next t) : s.RegsKept t := by
  obtain ⟨hidle, hgoes⟩ := qr_cases h
  cases ha : c.any with
  | false => exact h.completes_regsKept rfl (hidle ha) ht
  | true =>
    obtain ⟨hempty, htakes⟩ := hgoes ha
    cases hq : popSide c.gang c.wave q.toNat with
    | nil =>
      cases (hempty hq).symm.trans ht
      exact (h.rests.trans (c.blockIn_rests ..)).regsKept
    | cons x xs =>
      cases (htakes x xs hq).symm.trans ht
      exact h.takes_regsKept q.toNat d x (f := id) fun v => .refl v

/-- The predicate that QRT writes in the active lanes. -/
def Issue.flag (c : Issue) (p : BitVec 4) (v : Bool) (k : WaveCore) : WaveCore :=
  k.mapLanes (fun n l => if c.on n then l.putPred p v false else l)

/-- What a QRT that finds no word makes of its wave. -/
def Issue.failed (c : Issue) (p : BitVec 4) (k : WaveCore) : WaveCore :=
  if p = 0 then c.flag p false k else { c.flag p false k with stallP := setBit k.stallP p.toNat true }

theorem Issue.flag_regsKept (c : Issue) (p : BitVec 4) (x : Bool) (v : Wave) : v.RegsKept (v.modCore (c.flag p x)) :=
  v.putPred_regsKept c.on p x WaveCore.stallP

theorem Issue.failed_regsKept (c : Issue) (p : BitVec 4) (v : Wave) : v.RegsKept (v.modCore (c.failed p)) := by
  by_cases hp : p = 0
  · rw [show c.failed p = c.flag p false from funext fun k => if_pos hp]
    exact c.flag_regsKept p false v
  · rw [show c.failed p = fun k => { c.flag p false k with stallP := setBit k.stallP p.toNat true } from
      funext fun k => if_neg hp]
    exact v.putPred_regsKept c.on p false fun k => setBit k.stallP p.toNat true

theorem qrt_cases {q : BitVec 7} {d : Reg} {p : BitVec 4} {s : State} {c : Issue} (h : Executes (.qrt d q p) s c) :
    (c.any = false → Completes (.qrt d q p) s c c.wave.core) ∧ (c.any = true →
      (popSide c.gang c.wave q.toNat = [] → exec (.qrt d q p) s = .next (c.advanceIn .nop
        ((s.setWave c.g c.w c.wave).modWave c.g c.w (fun u => u.modCore (c.failed p))))) ∧
      (∀ x xs, popSide c.gang c.wave q.toNat = x :: xs → exec (.qrt d q p) s = .next ((c.advanceIn (.qrt d q p)
        (((s.setWave c.g c.w c.wave).popWord c.g c.w q.toNat).modWave c.g c.w
          (fun u => u.modCore (fun k => c.flag p true (k.takeWord c.active d x))))).settleGangQueues c.g))) := by
  have e : exec (.qrt d q p) s = .next _ := issueWord_go h _
  dsimp only at e
  refine ⟨fun ha => ?_, fun ha => ⟨fun hq => ?_, fun x xs hq => ?_⟩⟩
  · rw [ha, if_pos (by simp)] at e
    exact e
  · rw [ha, if_neg (by simp), hq] at e
    rw [e]
    unfold Issue.failed
    simp only [beq_iff_eq]
    rfl
  · rw [ha, if_neg (by simp), hq] at e
    exact e

theorem qrt_regsKept {q : BitVec 7} {d : Reg} {p : BitVec 4} {s t : State} {c : Issue} (h : Executes (.qrt d q p) s c)
    (ht : exec (.qrt d q p) s = .next t) : s.RegsKept t := by
  obtain ⟨hidle, hgoes⟩ := qrt_cases h
  cases ha : c.any with
  | false => exact h.completes_regsKept rfl (hidle ha) ht
  | true =>
    obtain ⟨hempty, htakes⟩ := hgoes ha
    cases hq : popSide c.gang c.wave q.toNat with
    | nil =>
      cases (hempty hq).symm.trans ht
      exact (h.rests.regsKept.trans (State.modWave_regsKept _ c.g c.w (c.failed_regsKept p))).trans
        (c.advanceIn_rests ..).regsKept
    | cons x xs =>
      cases (htakes x xs hq).symm.trans ht
      exact h.takes_regsKept q.toNat d x (c.flag_regsKept p true)

theorem qst_cases {q : BitVec 7} {d : Reg} {s : State} {c : Issue} (h : Executes (.qst d q) s c) :
    (c.any = false → Completes (.qst d q) s c c.wave.core) ∧ (c.any = true → exec (.qst d q) s = .next (s.setWave c.g c.w
      (({ c with wave := { c.wave with lost := c.wave.lost.set q.toNat false } } : Issue).advance (.qst d q) s
        (c.wave.core.putUni d.toNat (s.queueStatus c.gang c.wave q.toNat) false)))) := by
  have e : exec (.qst d q) s = .next _ := issueWord_go h _
  dsimp only at e
  refine ⟨fun ha => ?_, fun ha => ?_⟩
  · rw [ha, if_pos (by simp)] at e
    exact e
  · rw [ha, if_neg (by simp)] at e
    exact e

theorem Issue.clearLost_regsKept (c : Issue) (n : Nat) (i : Instr) (s : State) {core : WaveCore}
    (hc : core.lanes = c.wave.core.lanes) : c.wave.RegsKept
      (({ c with wave := { c.wave with lost := c.wave.lost.set n false } } : Issue).advance i s core) := by
  have hlost : c.wave.RegsKept { c.wave with lost := c.wave.lost.set n false } := .of_lanes rfl
  refine hlost.trans (Issue.advance_regsKept { c with wave := { c.wave with lost := c.wave.lost.set n false } } i s ?_)
  rw [hc]
  exact .regs_refl _

theorem WaveCore.putUni_lanes (k : WaveCore) (r : Nat) (v : W64) (m : Bool) : (k.putUni r v m).lanes = k.lanes := rfl

theorem qst_regsKept {q : BitVec 7} {d : Reg} {s t : State} {c : Issue} (h : Executes (.qst d q) s c)
    (ht : exec (.qst d q) s = .next t) : s.RegsKept t := by
  obtain ⟨hidle, hgoes⟩ := qst_cases h
  cases ha : c.any with
  | false => exact h.completes_regsKept rfl (hidle ha) ht
  | true =>
    obtain rfl := Host.Outcome.next.inj ((hgoes ha).symm.trans ht)
    exact h.setWave_regsKept (c.clearLost_regsKept q.toNat _ s (WaveCore.putUni_lanes ..))

/-! ### TKW -/

theorem tkw_cases {i : Instr} {vis : Bool} {a : Reg} {s : State} {c : Issue} (h : Executes i s c) (hi : MarksNone i)
    (he : exec i s = tokenWait i vis a s) :
    (c.any = false ∨ c.wave.tokenReady vis a = true → Completes i s c c.wave.core) ∧
    (c.any = true → c.wave.tokenReady vis a = false → exec i s = .next (s.setWave c.g c.w
      (c.note s { c.wave with core := { c.wave.core with
        frontier := c.wave.core.frontier.set c.k { c.entry with state := .blocked (.tkw vis a) } } }))) := by
  have e : exec i s = .next _ := he.trans (issueWord_go h _)
  refine ⟨fun ha => ?_, fun ha hr => ?_⟩
  · rw [if_pos (by simpa using ha)] at e
    exact e
  · rw [ha, hr, if_neg (by simp), Issue.block, hi] at e
    exact e

theorem tokenReady_iff {w : Wave} {vis : Bool} {a : Reg} : w.tokenReady vis a = true ↔
    a.toNat ∉ w.pending ∨ has (w.core.uni a) (if vis then 1 else 0) = true := by
  simp [Wave.tokenReady]

theorem tkw_regsKept {i : Instr} {vis : Bool} {a : Reg} {s t : State} {c : Issue} (h : Executes i s c) (hi : MarksNone i)
    (he : exec i s = tokenWait i vis a s) (ht : exec i s = .next t) : s.RegsKept t := by
  obtain ⟨hdone, hblock⟩ := tkw_cases h hi he
  by_cases hgo : c.any = false ∨ c.wave.tokenReady vis a = true
  · exact h.completes_regsKept rfl (hdone hgo) ht
  · obtain ⟨ha, hr⟩ : c.any = true ∧ c.wave.tokenReady vis a = false := by simpa using hgo
    cases (hblock ha hr).symm.trans ht
    exact h.setWave_regsKept (.of_lanes rfl)

/-! ### FIFOs -/

theorem State.pushWord_fifo {s : State} {g n : Nat} {x : Gang} (hx : aget s.gangs g = some x) (h8 : 8 ≤ n)
    (hn : n - 8 < x.fifos.length) (w : Nat) (y : Wave) (v : QWord) :
    ∃ z, aget (s.pushWord g w n v).gangs g = some z ∧ popSide z y n = popSide x y n ++ [v] := by
  have hlt : ¬ n < 8 := Nat.not_lt.2 h8
  refine ⟨{ x with fifos := x.fifos.modify (n - 8) (fun l => l ++ [v]) }, ?_, ?_⟩
  · rw [State.pushWord, if_neg hlt, State.modGang_gangs, aget_amod, if_pos rfl, hx]
    rfl
  · rw [popSide, popSide, if_neg hlt, if_neg hlt]
    simp [List.getD, hn]

theorem State.popWord_fifo {s : State} {g n : Nat} {x : Gang} (hx : aget s.gangs g = some x) (h8 : 8 ≤ n) (w : Nat)
    (y : Wave) : ∃ z, aget (s.popWord g w n).gangs g = some z ∧ popSide z y n = (popSide x y n).tail := by
  have hlt : ¬ n < 8 := Nat.not_lt.2 h8
  refine ⟨{ x with fifos := x.fifos.modify (n - 8) List.tail }, ?_, ?_⟩
  · rw [State.popWord, if_neg hlt, State.modGang_gangs, aget_amod, if_pos rfl, hx]
    rfl
  · rw [popSide, popSide, if_neg hlt, if_neg hlt]
    cases hn : x.fifos[n - 8]? <;> simp [List.getD, hn]

/-! ### The words -/

/-- Settles O41. -/
theorem queueWords : Obligations.QueueWords := by
  intro q d a p s c s1 took flag failed
  have hsrc : MarksNone (.tkwSrc a) := marksNone_of_empty rfl rfl rfl
  have hvis : MarksNone (.tkwVis a) := marksNone_of_empty rfl rfl rfl
  refine ⟨fun k lanes x => WaveCore.learnIn_same (k.putUni d.toNat x.val x.mark) lanes x.view, ?_,
    fun h ha => (qw_cases h).2 ha, fun h ha => (qr_cases h).2 ha, fun h ha => (qrt_cases h).2 ha, fun h ha => ?_, ?_,
    fun g w x y n v hx h8 hn => State.pushWord_fifo hx h8 hn w y v, fun g w x y n hx h8 => State.popWord_fifo hx h8 w y, ?_⟩
  · intro i hi h ha
    simp only [List.mem_cons, List.not_mem_nil, or_false] at hi
    rcases hi with rfl | rfl | rfl | rfl | rfl | rfl
    · exact (qw_cases h).1 ha
    · exact (qr_cases h).1 ha
    · exact (qrt_cases h).1 ha
    · exact (qst_cases h).1 ha
    · exact (tkw_cases h hsrc rfl).1 (.inl ha)
    · exact (tkw_cases h hvis rfl).1 (.inl ha)
  · rw [(qst_cases h).2 ha, State.queueStatus]
    simp only [Bool.and_eq_true, decide_eq_true_eq]
  · intro e he h ha
    simp only [List.mem_cons, List.not_mem_nil, or_false] at he
    rcases he with rfl | rfl
    · dsimp only at h ⊢
      obtain ⟨hdone, hblock⟩ := tkw_cases h hsrc rfl
      exact ⟨fun hr => hdone (.inr (tokenReady_iff.2 hr)), fun hp hz => hblock ha
        (Bool.eq_false_iff.2 fun hr => (tokenReady_iff.1 hr).elim (· hp) fun ho => Bool.false_ne_true (hz.symm.trans ho))⟩
    · dsimp only at h ⊢
      obtain ⟨hdone, hblock⟩ := tkw_cases h hvis rfl
      exact ⟨fun hr => hdone (.inr (tokenReady_iff.2 hr)), fun hp hz => hblock ha
        (Bool.eq_false_iff.2 fun hr => (tokenReady_iff.1 hr).elim (· hp) fun ho => Bool.false_ne_true (hz.symm.trans ho))⟩
  · intro i hi h hh t ht
    simp only [List.mem_cons, List.not_mem_nil, or_false] at hi
    rcases hi with rfl | rfl | rfl | rfl | rfl | rfl
    · exact (qw_regsKept h hh ht).reads
    · exact (qr_regsKept h ht).reads
    · exact (qrt_regsKept h ht).reads
    · exact (qst_regsKept h ht).reads
    · exact (tkw_regsKept h hsrc rfl ht).reads
    · exact (tkw_regsKept h hvis rfl ht).reads

end Sys2Proof.Machine
end

section
/-! SUPPORT. Submits: what reaches the engine, and what a command that ends at once leaves. -/
namespace Sys2Proof.Machine

/-! ### Instructions that trap in every active lane -/

/-- An instruction of a Stall class that does nothing but trap in every active lane: nowhere is a register marked. -/
theorem trapsActive_at {i : Instr} {s : State} {c : Issue} (ha : c.any = true)
    (e : exec i s = .next (c.trapActive i s)) : TrapsActive i s c := by
  refine ⟨trapRefused_of e (Issue.any_ne ha) rfl, fun hs hh => ?_⟩
  unfold Issue.trapActive Issue.finish Issue.finishAt at e
  dsimp only [Entry.next] at e
  rw [if_neg (Issue.any_ne ha), if_neg (by simp [hs]), if_neg (by simp [hh]), BitVec.and_not_self, markStalls_nowhere] at e
  exact ⟨_, e, mapIdx_laneWise _ _ _ fun _ _ _ => rfl⟩

/-! ### The issuing entry -/

/-- A word that executes finds its entry in the frontier of its wave. -/
theorem Executes.entry {i : Instr} {s : State} {c : Issue} (h : Executes i s c) :
    c.wave.core.frontier[c.k]? = some c.entry := by
  obtain ⟨c0, hc, -, -, -, -, -, -, rfl⟩ := executes_iff.1 h
  have hfrontier : (c0.issues i).wave.core.frontier = c0.wave.core.frontier := by
    have hlearn := (WaveCore.learn_same (atIssue i c0.wave.core c0.entry) (c0.wave.observed i)).1
    show (WaveCore.learn _ _).frontier = _
    rw [hlearn, atIssue_eq]
  rw [hfrontier]
  unfold State.issuing at hc
  split at hc
  · cases hc
  · split at hc
    · cases hc
    · split at hc
      · cases hc
      · split at hc
        · cases hc
        next he =>
          split at hc
          · cases hc
            exact he
          · cases hc

/-- The entry of a word with active lanes is not empty. -/
theorem Executes.lanes_ne {i : Instr} {s : State} {c : Issue} (h : Executes i s c) (ha : c.any = true) :
    c.entry.lanes ≠ 0 := fun h0 => Issue.any_ne ha <| by
  rw [h.active, Entry.active, h0]
  split
  · rfl
  · exact BitVec.zero_and

theorem markStalls_frontier (i : Instr) (core : WaveCore) (m : BitVec 32) : (markStalls i core m).frontier = core.frontier := by
  unfold markStalls
  split <;> rfl

/-- The entry that goes on stands where it stood. -/
theorem Executes.next_entry {i : Instr} {s : State} {c : Issue} (h : Executes i s c) (ha : c.any = true) {core : WaveCore}
    (hf : core.frontier = c.wave.core.frontier) (t : State) (c' : Issue) (hk : c'.k = c.k) (he : c'.entry = c.entry) :
    (c'.advance i t core).core.frontier[c.k]? = some c.entry.next := by
  obtain ⟨hlt, -⟩ := List.getElem?_eq_some_iff.1 h.entry
  show (markStalls _ _ _).frontier[c.k]? = _
  rw [markStalls_frontier, hf, hk, he]
  show (if c.entry.lanes = 0 then _ else _)[c.k]? = _
  rw [if_neg (h.lanes_ne ha), List.getElem?_set_self hlt]

/-! ### Tokens -/

/-- The registers of every lane and the pending tokens are the same. -/
def Wave.PendingKept (v v' : Wave) : Prop := v.RegsKept v' ∧ v'.pending = v.pending

theorem Wave.PendingKept.refl (v : Wave) : v.PendingKept v := ⟨.refl v, rfl⟩

theorem Wave.PendingKept.trans {u v w : Wave} (h : u.PendingKept v) (h' : v.PendingKept w) : u.PendingKept w :=
  ⟨h.1.trans h'.1, h'.2.trans h.2⟩

theorem queueRel_pendingKept : QueueRel Wave.PendingKept where
  refl := .refl
  trans := .trans
  goes _ _ := ⟨.of_lanes rfl, rfl⟩
  pushes _ _ := ⟨.of_lanes rfl, rfl⟩
  pops _ _ := ⟨.of_lanes rfl, rfl⟩
  takes v lanes d x := ⟨v.takeWord_regsKept lanes d x, rfl⟩

theorem State.report_keeping (s : State) (g w q : Nat) (x : QWord) :
    State.Keeping Wave.PendingKept s (s.report g w q x) := by
  refine s.modWave_keeping .refl g w fun v => ?_
  split <;> exact ⟨.of_lanes rfl, rfl⟩

theorem Wave.wakeTokens_kept (v : Wave) : v.PendingKept v.wakeTokens := by
  refine ⟨fun n => ?_, rfl⟩
  obtain ⟨-, hlen, hlanes⟩ := WaveCore.learn_same v.core (v.core.frontier.foldl (fun u e =>
    match e.state with
    | .blocked (.tkw true a) => if v.tokenEnds e then Seen.join u ((aget v.tokens a.toNat).getD []) else u
    | _ => u) [])
  exact Wave.RegsKept.of_laneWise (v := v) (v' := v.wakeTokens)
    ⟨hlen, fun m l l' hl hl' => by rw [hlanes m l l' hl hl']; exact ⟨rfl, rfl⟩⟩ n

/-- An operation that ends leaves its token no longer pending. -/
theorem Wave.setToken_ends (v : Wave) (n : Nat) (seen : Seen) :
    v.RegsKept (v.setToken n 0 true true seen) ∧ n ∉ (v.setToken n 0 true true seen).pending := by
  have hset : ∀ (core : WaveCore) (x : W64), Sparse.get 0 (core.putUni n x false).s n = x := fun core x =>
    Sparse.get_set_same ..
  unfold Wave.setToken
  constructor
  · refine Wave.RegsKept.trans ?_ (Wave.wakeTokens_kept _).1
    exact .of_lanes rfl
  · rw [(Wave.wakeTokens_kept _).2]
    simp only [hset, Bool.true_or, if_true]
    rw [if_pos (by decide)]
    simp

/-! ### Commands that end at once -/

/-- A command of a wave that ends at once: its token is no longer pending, and no register changes. -/
theorem State.commandEnd_ends {s : State} {g w : Nat} {wave : Wave} (hw : s.wave g w = some wave) {x : Command}
    (hx : x.owner = .wave g w) (seen : Seen) : s.RegsKept (s.commandEnd x 0 0 seen) ∧
    ∃ v, (s.commandEnd x 0 0 seen).wave g w = some v ∧ wave.RegsKept v ∧ ∀ r, x.token = some r → r ∉ v.pending := by
  obtain ⟨hs1, v1, hv1, hregs1, hpending1⟩ : s.RegsKept (s.setToken g w x.token 0 true true seen) ∧
      ∃ v, (s.setToken g w x.token 0 true true seen).wave g w = some v ∧ wave.RegsKept v ∧
        ∀ r, x.token = some r → r ∉ v.pending := by
    unfold State.setToken
    cases x.token with
    | none => exact ⟨.refl s, wave, hw, .refl wave, fun r hr => by cases hr⟩
    | some n =>
      refine ⟨s.modWave_regsKept g w fun v => (v.setToken_ends n seen).1, wave.setToken n 0 true true seen, ?_,
        (wave.setToken_ends n seen).1, fun r hr => by cases hr; exact (wave.setToken_ends n seen).2⟩
      dsimp only
      rw [State.modWave_wave, if_pos ⟨rfl, rfl⟩, hw]
      rfl
  have hrest : State.Keeping Wave.PendingKept (s.setToken g w x.token 0 true true seen) (s.commandEnd x 0 0 seen) := by
    unfold State.commandEnd
    rw [hx]
    dsimp only
    split
    · exact (State.report_keeping ..).trans .trans (queueRel_pendingKept.settlesGang ..)
    · exact queueRel_pendingKept.settlesGang ..
  refine ⟨hs1.trans (hrest.mono And.left), ?_⟩
  rcases hrest.waves g w with ⟨hnone, -⟩ | ⟨u, v, hu, hv, hregs, hpending⟩
  · cases hv1.symm.trans hnone
  · cases hv1.symm.trans hu
    exact ⟨v, hv, hregs1.trans hregs, fun r hr => by rw [hpending]; exact hpending1 r hr⟩

/-! ### Submits -/

theorem eraseDups_of_equal {xs : List Nat} (h : ∀ x ∈ xs, ∀ y ∈ xs, x = y) : xs.eraseDups.length ≠ 2 := by
  cases xs with
  | nil => simp
  | cons x xs =>
    have hnone : xs.filter (fun y => !y == x) = [] := List.filter_eq_nil_iff.2 fun y hy => by
      simp [h y (List.mem_cons_of_mem x hy) x List.mem_cons_self]
    rw [List.eraseDups_cons, hnone]
    simp

theorem eraseDups_of_differing {x y : Nat} (h : x ≠ y) : [x, y].eraseDups.length = 2 := by
  rw [List.eraseDups_cons]
  have : [y].filter (fun z => !z == x) = [y] := by simp [Ne.symm h]
  rw [this]
  rfl

/-- The formats of the entries that a command captured. -/
abbrev formatsOf (es : List (Option Tensor)) : List Nat := es.filterMap (fun e => e.map (fun t => t.format))

theorem mem_formatsOf {es : List (Option Tensor)} {n : Nat} : n ∈ formatsOf es ↔ ∃ t, some t ∈ es ∧ t.format = n := by
  simp only [formatsOf, List.mem_filterMap, Option.map_eq_some_iff]
  exact ⟨fun ⟨_, he, t, ht, hn⟩ => ⟨t, ht ▸ he, hn⟩, fun ⟨t, ht, hn⟩ => ⟨_, ht, t, rfl, hn⟩⟩

theorem Wave.newToken_keeps (w : Wave) (t : Option Nat) : (w.newToken t).push = w.push ∧
    (w.newToken t).core.lanes = w.core.lanes ∧ (w.newToken t).core.frontier = w.core.frontier := by
  cases t <;> exact ⟨rfl, rfl, rfl⟩

theorem mem_newToken (w : Wave) (r : Nat) : r ∈ (w.newToken (some r)).pending ∧
    Sparse.get 0 (w.newToken (some r)).core.s r = 0 :=
  ⟨(mem_insertOnce _ _ _).2 (.inr rfl), Sparse.get_set_same (0 : W64) 0 w.core.s r⟩

theorem Wave.newToken_other (w : Wave) {t : Option Nat} {r : Nat} (h : t ≠ some r) :
    Sparse.get 0 (w.newToken t).core.s r = Sparse.get 0 w.core.s r := by
  cases t with
  | none => rfl
  | some n => exact Sparse.get_set_other (0 : W64) 0 w.core.s n r fun hr => h (congrArg some hr.symm)

section submit
variable {i : Instr} {k : EngineKind} {nw held : Bool} {d a : Reg} {s : State} {c : Issue}

/-- The parameter words of a submit. -/
abbrev submitParams (hw : QWord) (rest : List QWord) : List W64 := (rest.take (field hw.val 59 56)).map QWord.val

/-- What a submit captures. -/
def Issue.submitEntries (c : Issue) (s : State) (k : EngineKind) (hw : QWord) (rest : List QWord) :
    Option (List (Option Tensor)) :=
  s.capture (c.waveAgent s .pkg) (s.ctxOf c.gang) (commandHandles k (hdrMode hw.val) (submitParams hw rest))

/-- Header, parameters, counter and held commands are in order. -/
def Issue.SubmitOk (c : Issue) (s : State) (k : EngineKind) (held : Bool) (a : Reg) (hw : QWord) (rest : List QWord) : Prop :=
  field hw.val 59 56 ≤ rest.length ∧ headerOk k held hw.val = true ∧
    paramsOk k (hdrMode hw.val) (hdrLength hw.val) (s.partitionStacks (s.ctxOf c.gang)) (submitParams hw rest) = true ∧
    (c.wave.core.uni a).toNat % 8 = 0 ∧ (held = true → s.heldCount c.g < 64)

/-- The issue whose wave has submitted. -/
def Issue.submitted (c : Issue) (k : EngineKind) (token : Option Nat) (hw : QWord) (rest : List QWord) : Issue :=
  { c with wave := { c.wave with push := c.wave.push.set k.queue (rest.drop (field hw.val 59 56)) }.newToken token }

/-- The command of a submit. -/
def Issue.submitCommand (c : Issue) (s : State) (k : EngineKind) (held : Bool) (a : Reg) (token : Option Nat) (hw : QWord)
    (rest : List QWord) (es : List (Option Tensor)) : Command :=
  Command.new k (.wave c.g c.w) (s.ctxOf c.gang) c.gang.stack (clusterOf c.wave.coreId) hw.val (submitParams hw rest) es
    token (c.wave.core.uni a) held (c.forkView s)

/-- The state in which the wave has submitted and goes on. -/
def Issue.submitDone (c : Issue) (i : Instr) (s : State) (k : EngineKind) (token : Option Nat) (hw : QWord)
    (rest : List QWord) : State :=
  (c.submitted k token hw rest).done i s (c.submitted k token hw rest).wave.core

theorem submit_law (h : Executes i s c) (he : exec i s = submit i k nw d a held s) :
    (c.any = false → Completes i s c c.wave.core) ∧
    (c.any = true → c.wave.core.uniMark a = true → FaultsAt i s c reasonPoison 0) ∧
    (c.any = true → c.wave.core.uniMark a = false → c.wave.push.getD k.queue [] = [] → TrapsActive i s c) ∧
    (∀ hw rest, c.any = true → c.wave.core.uniMark a = false → c.wave.push.getD k.queue [] = hw :: rest →
      ((hw.mark = true ∨ ∃ x ∈ rest.take (field hw.val 59 56), x.mark = true) → FaultsAt i s c reasonPoison 0) ∧
      (hw.mark = false → (∀ x ∈ rest.take (field hw.val 59 56), x.mark = false) →
        (¬ c.SubmitOk s k held a hw rest → TrapsActive i s c) ∧
        (c.SubmitOk s k held a hw rest → c.submitEntries s k hw rest = none → TrapsActive i s c) ∧
        (∀ es, c.SubmitOk s k held a hw rest → c.submitEntries s k hw rest = some es →
          (k = .cpy → (formatsOf es).eraseDups.length = 2 → TrapsActive i s c) ∧
          ((k = .cpy → (formatsOf es).eraseDups.length ≠ 2) →
            ((held = true ∨ k = .bin ∨ hdrLength hw.val ≠ 0) → exec i s =
              .next ((c.submitDone i s k (tokenField nw d) hw rest).addCommand
                (c.submitCommand s k held a (tokenField nw d) hw rest es))) ∧
            (held = false → k ≠ .bin → hdrLength hw.val = 0 → exec i s =
              .next ((c.submitDone i s k (tokenField nw d) hw rest).commandEnd
                (c.submitCommand s k held a (tokenField nw d) hw rest es) 0 0 [])))))) := by
  have e : exec i s = .next _ := he.trans (issueWord_go h _)
  refine ⟨fun ha => ?_, fun ha hm => ?_, fun ha hm hq => ?_, fun hw rest ha hm hq => ?_⟩
  · rw [ha, if_pos (by simp)] at e
    exact e
  · rw [ha, if_neg (by simp), if_pos hm] at e
    exact e
  · rw [ha, if_neg (by simp), hm, if_neg (by simp), hq] at e
    exact trapsActive_at ha e
  rw [ha, if_neg (by simp), hm, if_neg (by simp), hq] at e
  dsimp only at e
  refine ⟨fun hmark => ?_, fun hclean hcleans => ?_⟩
  · rw [if_pos (by simpa using hmark)] at e
    exact e
  rw [if_neg (by simpa [hclean] using hcleans)] at e
  have hok : (rest.length < field hw.val 59 56 || !headerOk k held hw.val ||
      !paramsOk k (hdrMode hw.val) (hdrLength hw.val) (s.partitionStacks (s.ctxOf c.gang)) (submitParams hw rest) ||
      (c.wave.core.uni a).toNat % 8 != 0 || (held && decide (64 ≤ s.heldCount c.g))) = true ↔
        ¬ c.SubmitOk s k held a hw rest := by
    unfold Issue.SubmitOk
    rw [not_and_iff, not_and_iff, not_and_iff, not_and_iff, Nat.not_le, Classical.not_imp, Nat.not_lt]
    simp [or_assoc]
  refine ⟨fun hbad => ?_, fun hgood hnone => ?_, fun es hgood hes => ?_⟩
  · rw [if_pos (hok.2 hbad)] at e
    exact trapsActive_at ha e
  · rw [if_neg fun hc => hok.1 hc hgood] at e
    unfold Issue.submitEntries at hnone
    rw [hnone] at e
    exact trapsActive_at ha e
  · rw [if_neg fun hc => hok.1 hc hgood] at e
    unfold Issue.submitEntries at hes
    rw [hes] at e
    dsimp only at e
    refine ⟨fun hk hf => ?_, fun hf => ?_⟩
    · rw [if_pos (by simpa [hk] using hf)] at e
      exact trapsActive_at ha e
    · rw [if_neg (by simpa using hf)] at e
      refine ⟨fun hlong => ?_, fun hh hk hl => ?_⟩
      · rw [if_neg (by rcases hlong with h | h | h <;> simp [h])] at e
        exact e
      · rw [if_pos (by simp [hh, hk, hl])] at e
        exact e

theorem Executes.wave_some (h : Executes i s c) (t : State) (ht : t.gangs = s.gangs) (v : Wave) :
    (t.setWave c.g c.w v).wave c.g c.w = some v := by
  obtain ⟨u, hu, -⟩ := h.wave
  rw [State.setWave, State.modWave_wave, if_pos ⟨rfl, rfl⟩, State.wave, ht]
  exact congrArg (Option.map fun _ => v) hu

theorem Issue.submitted_keeps (c : Issue) (k : EngineKind) (token : Option Nat) (hw : QWord) (rest : List QWord) :
    (c.submitted k token hw rest).wave.push = c.wave.push.set k.queue (rest.drop (field hw.val 59 56)) ∧
    (c.submitted k token hw rest).wave.core.lanes = c.wave.core.lanes ∧
    (c.submitted k token hw rest).wave.core.frontier = c.wave.core.frontier := Wave.newToken_keeps _ token

/-- The wave that has submitted goes on. -/
def Issue.submitWave (c : Issue) (i : Instr) (s : State) (k : EngineKind) (token : Option Nat) (hw : QWord)
    (rest : List QWord) : Wave :=
  (c.submitted k token hw rest).advance i s (c.submitted k token hw rest).wave.core

theorem Issue.submitWave_law (h : Executes i s c) (ha : c.any = true) (token : Option Nat) {hw : QWord} {rest : List QWord}
    (hq : c.wave.push.getD k.queue [] = hw :: rest) :
    let v := c.submitWave i s k token hw rest
    v.push.getD k.queue [] = rest.drop (field hw.val 59 56) ∧ v.core.frontier[c.k]? = some c.entry.next ∧
    v.core.lanes = c.wave.core.lanes ∧ (∀ r, token = some r → r ∈ v.pending ∧ Sparse.get 0 v.core.s r = 0) ∧
    (∀ r, token ≠ some r → Sparse.get 0 v.core.s r = Sparse.get 0 c.wave.core.s r) := by
  obtain ⟨hpush, hlanes, hfrontier⟩ := c.submitted_keeps k token hw rest
  have hstall := markStalls_keeps i { (c.submitted k token hw rest).wave.core with
    frontier := putEntry (c.submitted k token hw rest).wave.core.frontier c.k c.entry.next } c.active
  have hs : (c.submitWave i s k token hw rest).core.s = (c.submitted k token hw rest).wave.core.s := hstall.2.1
  have hlt : k.queue < c.wave.push.length := by
    refine Nat.lt_of_not_le fun hge => ?_
    rw [List.getD, List.getElem?_eq_none hge] at hq
    cases hq
  refine ⟨?_, h.next_entry ha hfrontier s (c.submitted k token hw rest) rfl rfl, hstall.1.trans hlanes, ?_, ?_⟩
  · show (c.submitted k token hw rest).wave.push.getD k.queue [] = _
    rw [hpush, List.getD, List.getElem?_set_self hlt]
    rfl
  · rintro r rfl
    rw [hs]
    exact mem_newToken { c.wave with push := c.wave.push.set k.queue (rest.drop (field hw.val 59 56)) } r
  · intro r hr
    rw [hs]
    exact Wave.newToken_other { c.wave with push := c.wave.push.set k.queue (rest.drop (field hw.val 59 56)) } hr

end submit

/-- Settles O42. -/
theorem engineSubmits : Obligations.EngineSubmits := by
  intro nw d a held s c e he i k isHeld ctx token h
  have hexec : exec i s = submit i k nw d a isHeld s := by
    simp only [List.mem_cons, List.not_mem_nil, or_false] at he
    rcases he with rfl | rfl | rfl | rfl | rfl <;> rfl
  obtain ⟨hidle, hmarked, hempty, hgoes⟩ := submit_law h hexec
  refine ⟨hidle, hmarked, hempty, fun hw rest ha hm hq => ?_⟩
  obtain ⟨hpoison, hclean⟩ := hgoes hw rest ha hm hq
  intro n ps entries ok
  refine ⟨hpoison, fun hmark hmarks => ?_⟩
  obtain ⟨hbad, hnone, hok⟩ := hclean hmark hmarks
  have hone : ∀ es, (k = .cpy → ∀ x y, some x ∈ es → some y ∈ es → x.format = y.format) → k = .cpy →
      (formatsOf es).eraseDups.length ≠ 2 := fun es hf hk => eraseDups_of_equal fun x hx y hy => by
    obtain ⟨t, ht, rfl⟩ := mem_formatsOf.1 hx
    obtain ⟨u, hu, rfl⟩ := mem_formatsOf.1 hy
    exact hf hk t u ht hu
  obtain ⟨hpush, hentry, hlanes, htoken, hother⟩ := Issue.submitWave_law h ha token hq
  have hwave := h.wave_some s rfl (c.submitWave i s k token hw rest)
  refine ⟨hbad, hnone, fun x y hgood hk hes hformat => ?_, fun es hgood hes hformat hlong => ?_,
    fun es hgood hes hformat hh hk hl => ?_⟩
  · exact (hok _ hgood hes).1 hk (eraseDups_of_differing hformat)
  · exact ⟨_, _, _, ((hok es hgood hes).2 (hone es hformat)).1 hlong, rfl, rfl, rfl, rfl, rfl, rfl, rfl, rfl, rfl, rfl, rfl,
      rfl, rfl, rfl, hwave, hpush, hentry, hlanes, htoken, hother, rfl, rfl, rfl⟩
  · obtain ⟨hkept, v, hv, hregs, hended⟩ := State.commandEnd_ends hwave
      (x := c.submitCommand s k isHeld a token hw rest es) rfl []
    refine ⟨_, v, ((hok es hgood hes).2 (hone es hformat)).2 hh hk hl, hkept.commands, hkept.mem, hkept.poison, hv, hended,
      fun n => ?_⟩
    rw [(hregs n).1, WaveCore.lane, hlanes]
    rfl

end Sys2Proof.Machine
end

section
/-! SUPPORT. SHAPE and its grants, the parameter block, and what the matrix words queue. -/
namespace Sys2Proof.Machine

/-! ### Grants -/

theorem State.mem_groupsFree {s : State} {st g mode : Nat} {u : List Nat} (h : u ∈ s.groupsFree st g mode) :
    u ∈ modeGroups mode ∧ ∀ k ∈ u, has (s.stack st).fenced k = false ∧ k ∉ s.subsTaken st g := by
  obtain ⟨hmode, hall⟩ := List.mem_filter.1 h
  refine ⟨hmode, fun k hk => ?_⟩
  simpa using List.all_eq_true.1 hall k hk

/-- Units that are new hold nothing, on sub-arrays that are free. -/
theorem State.fresh_units {s : State} {st g mode n : Nat} :
    ∀ u ∈ ((s.groupsFree st g mode).take n).map (MxUnit.fresh mode), u.acc = [] ∧ u.lost = false ∧ u.cur = Plane.empty ∧
      u.next = Plane.empty ∧ u.subs ∈ modeGroups mode ∧
      ∀ k ∈ u.subs, has (s.stack st).fenced k = false ∧ k ∉ s.subsTaken st g := by
  intro u hu
  obtain ⟨subs, hsubs, rfl⟩ := List.mem_map.1 hu
  obtain ⟨hmode, hfree⟩ := State.mem_groupsFree (List.mem_of_mem_take hsubs)
  exact ⟨rfl, rfl, rfl, rfl, hmode, hfree⟩

theorem State.formGrant_law {s : State} {st g mode wanted : Nat} {fb : Bool} {r : Grant}
    (h : s.formGrant st g mode wanted fb = some r) :
    (r.mode = mode ∨ (fb = true ∧ r.mode = 0)) ∧ r.units ≠ [] ∧ ∀ u ∈ r.units, u.acc = [] ∧ u.lost = false ∧
      u.cur = Plane.empty ∧ u.next = Plane.empty ∧ u.subs ∈ modeGroups r.mode ∧
      ∀ k ∈ u.subs, has (s.stack st).fenced k = false ∧ k ∉ s.subsTaken st g := by
  unfold State.formGrant at h
  dsimp only at h
  generalize (if mode = 1 then 2 * wanted else 4) = n at h
  split at h
  next hus =>
    cases h
    exact ⟨.inl rfl, by simpa using hus, State.fresh_units⟩
  · split at h
    next hzs =>
      cases h
      simp only [Bool.and_eq_true, Bool.not_eq_true', List.isEmpty_eq_false_iff] at hzs
      exact ⟨.inr ⟨hzs.1.1, rfl⟩, by simpa using hzs.2, State.fresh_units⟩
    · cases h

theorem shape_law {d a : Reg} {s : State} {c : Issue} (h : Executes (.shape d a) s c) :
    let v := c.wave.core.uni a
    let mode := v.toNat % 8
    (c.any = false → Completes (.shape d a) s c c.wave.core) ∧
    (c.any = true → c.wave.core.uniMark a = true → FaultsAt (.shape d a) s c reasonPoison 0) ∧
    (c.any = true → c.wave.core.uniMark a = false → shapeOk v = false → TrapsActive (.shape d a) s c) ∧
    (c.any = true → c.wave.core.uniMark a = false → shapeOk v = true → s.gangOps c.g ≠ [] →
      exec (.shape d a) s = .next s) ∧
    (c.any = true → c.wave.core.uniMark a = false → shapeOk v = true → s.gangOps c.g = [] →
      ∃ r, (mode = 4 → r = c.gang.grant) ∧ (mode = 3 → r = none) ∧
        (mode < 3 → r = s.formGrant c.gang.stack c.g mode (v.toNat / 16 % 8) (has v 3)) ∧
        exec (.shape d a) s = .next ((s.modGang c.g (fun x => { x with grant := r })).setWave c.g c.w
          (c.advance (.shape d a) s (c.wave.core.putUni d.toNat (grantWord (s.stack c.gang.stack).fenced r) false)))) := by
  intro v mode
  have e : exec (.shape d a) s = .next _ := issueWord_go h _
  refine ⟨fun ha => ?_, fun ha hm => ?_, fun ha hm hv => ?_, fun ha hm hv hops => ?_, fun ha hm hv hops => ?_⟩
  · rw [ha, if_pos (by simp)] at e
    exact e
  all_goals rw [ha, if_neg (by simp)] at e
  · rw [if_pos hm] at e
    exact e
  all_goals rw [if_neg (by simp [hm])] at e
  · rw [if_pos (by rw [hv]; rfl)] at e
    exact trapsActive_at ha e
  all_goals rw [if_neg (by rw [hv]; simp)] at e
  · rw [if_pos (by simpa using hops)] at e
    exact e
  · rw [if_neg (by simp [hops])] at e
    have hmode : field (c.wave.core.uni a) 2 0 = mode := by simp only [field, Nat.pow_zero, Nat.div_one]; rfl
    rw [hmode] at e
    refine ⟨_, fun h4 => if_pos h4, fun h3 => ?_, fun hlt => ?_, e⟩
    · rw [if_neg (by omega), if_pos h3]
    · rw [if_neg (by omega), if_neg (by omega)]
      rfl

/-! ### The queues of the units -/

/-- The operations that an enqueue adds, each under the next key. -/
theorem State.addOps (xs : List MxOp) (t : State) :
    xs.foldl (fun t x => { t.fresh.2 with mxops := t.mxops ++ [(t.fresh.1, x)] }) t =
      { t with nextId := t.nextId + xs.length, mxops := t.mxops ++ xs.mapIdx (fun n x => (t.nextId + n, x)) } := by
  induction xs generalizing t with
  | nil => simp
  | cons x xs ih =>
    have hlen : t.nextId + 1 + xs.length = t.nextId + (xs.length + 1) := by omega
    have hkeys : (fun n (x : MxOp) => (t.nextId + 1 + n, x)) = fun n x => (t.nextId + (n + 1), x) :=
      funext fun n => funext fun x => by rw [Nat.add_assoc, Nat.add_comm 1 n]
    rw [List.foldl_cons, ih]
    simp only [State.fresh, List.length_cons, List.mapIdx_cons, List.append_assoc, List.cons_append, List.nil_append,
      Nat.add_zero, hlen, hkeys]

theorem Issue.enqueue_full {c : Issue} {i : Instr} {s : State} {token : Option Nat} {xs : List MxOp}
    (h : ∃ x ∈ xs, unitQueue ≤ (s.unitOps c.g x.unit).length) : c.enqueue i s token xs = s :=
  if_pos (by simpa using h)

theorem Issue.enqueue_adds {c : Issue} {i : Instr} {s : State} {token : Option Nat} {xs : List MxOp}
    (h : ∀ x ∈ xs, (s.unitOps c.g x.unit).length < unitQueue) : c.enqueue i s token xs =
      { c.doneWith i s token with
        nextId := s.nextId + xs.length, mxops := s.mxops ++ xs.mapIdx (fun n x => (s.nextId + n, x)) } := by
  rw [Issue.enqueue, if_neg (by simpa using h)]
  exact State.addOps xs _

theorem enqueues_of {i : Instr} {s : State} {c : Issue} {token : Option Nat} {x : MxOp}
    (e : exec i s = .next (c.enqueue i s token [x])) : Enqueues i s c token x := by
  refine ⟨fun hfull => ?_, fun hroom => ?_⟩
  · rw [e, Issue.enqueue_full ⟨x, List.mem_singleton_self x, hfull⟩]
  · rw [e, Issue.enqueue_adds fun y hy => by rw [List.mem_singleton.1 hy]; exact hroom]
    rfl

/-! ### The parameter block -/

section block
variable {i : Instr} {a : Reg} {effect : Issue → Nat → List Byte → MxUnit → State} {s : State} {c : Issue}

theorem matrixBlock_checks (h : Executes i s c) (he : exec i s = matrixBlock i a effect s) :
    let off := (c.wave.core.uni a).toNat
    (c.any = false → Completes i s c c.wave.core) ∧
    (c.any = true → c.wave.core.uniMark a = true → FaultsAt i s c reasonPoison off) ∧
    (c.any = true → c.wave.core.uniMark a = false → (c.gang.grant = none ∨ off % 128 ≠ 0) → TrapsActive i s c) ∧
    (∀ r, c.any = true → c.wave.core.uniMark a = false → c.gang.grant = some r → off % 128 = 0 →
      (s.spadSize c.gang < off + 128 → FaultsAt i s c reasonProtection off) ∧
      (off + 128 ≤ s.spadSize c.gang → (blockReserved (c.blockBytes s off) = false ∨
        ∀ u, r.units[blockUnit (c.blockBytes s off)]? = some u → u.lost = true) → TrapsActive i s c)) := by
  intro off
  have e : exec i s = .next _ := he.trans (issueWord_go h _)
  refine ⟨fun ha => ?_, fun ha hm => ?_, fun ha hm hbad => ?_, fun r ha hm hr ho => ⟨fun hs => ?_, fun hs hbad => ?_⟩⟩
  · rw [ha, if_pos (by simp)] at e
    exact e
  all_goals rw [ha, if_neg (by simp)] at e
  · rw [if_pos hm] at e
    exact e
  all_goals rw [if_neg (by simp [hm])] at e
  · cases hg : c.gang.grant with
    | none =>
      rw [hg] at e
      exact trapsActive_at ha e
    | some r =>
      rw [hg] at e
      dsimp only at e
      rw [if_pos (by simpa [hg] using hbad)] at e
      exact trapsActive_at ha e
  all_goals
    rw [hr] at e
    dsimp only at e
    rw [if_neg (by simpa using ho)] at e
  · rw [if_pos hs] at e
    exact e
  · rw [if_neg (Nat.not_lt.2 hs)] at e
    cases hu : r.units[blockUnit (c.blockBytes s off)]? with
    | none =>
      rw [hu] at e
      exact trapsActive_at ha e
    | some u =>
      rw [hu] at e
      dsimp only at e
      have hor : (u.lost || !blockReserved (c.blockBytes s off)) = true := by
        rcases hbad with hres | hlost
        · simp [hres]
        · simp [hlost u hu]
      rw [if_pos hor] at e
      exact trapsActive_at ha e

theorem matrixBlock_acts {b : List Byte} {u : MxUnit} (hb : ReadsBlock s c a b u) (h : Executes i s c)
    (he : exec i s = matrixBlock i a effect s) : exec i s = .next (effect c (c.wave.core.uni a).toNat b u) := by
  have e : exec i s = .next _ := he.trans (issueWord_go h _)
  obtain ⟨ha, hm, ⟨halign, hsize⟩, rfl, hres, ⟨r, hr, hu⟩, hkept⟩ := hb
  rw [e]
  dsimp only
  rw [ha, if_neg (by simp), if_neg (by simp [hm]), hr]
  dsimp only
  rw [if_neg (by simpa using halign), if_neg (Nat.not_lt.2 hsize), hu]
  dsimp only
  rw [if_neg (by simp [hkept, hres])]

end block

theorem oneTo_iff {n v : Nat} : oneTo n v = true ↔ 1 ≤ v ∧ v ≤ n := by simp [oneTo]

/-! ### MXRD -/

/-- Four registers of a lane, written one after another. -/
theorem Lane.put_four (l : Lane) (d : Nat) (v : Nat → W32) :
    let l' := (List.range 4).foldl (fun x k => x.put32 (d + k) (v k) false) l
    l' = { l with regs := l'.regs, marks := l'.marks } ∧
    (∀ k, k < 4 → Sparse.get 0 l'.regs (l.arch (d + k)) = v k ∧ Sparse.get false l'.marks (l.arch (d + k)) = false) ∧
    (∀ r, (r < l.arch d ∨ l.arch d + 4 ≤ r) → Sparse.get 0 l'.regs r = Sparse.get 0 l.regs r) := by
  have harch : ∀ k, l.arch (d + k) = l.arch d + k := fun k => (Nat.add_assoc ..).symm
  refine ⟨rfl, fun k hk => ?_, fun r hr => ?_⟩
  · obtain rfl | rfl | rfl | rfl : k = 0 ∨ k = 1 ∨ k = 2 ∨ k = 3 := by omega
    all_goals simp [List.range_succ, Lane.put32, Lane.arch, Sparse.get_set]
  · have hne : ∀ k, k < 4 → r ≠ l.arch (d + k) := fun k hk => by rw [harch]; omega
    have h0 := hne 0 (by omega)
    have h1 := hne 1 (by omega)
    have h2 := hne 2 (by omega)
    have h3 := hne 3 (by omega)
    simp only [Lane.arch, Nat.add_zero] at h0 h1 h2 h3
    simp [List.range_succ, Lane.put32, Lane.arch, Sparse.get_set, h0, h1, h2, h3]

/-- What MXRD does with a block that is in order. -/
def mxrdEffect (d a : Reg) (s : State) (c : Issue) (_ : Nat) (b : List Byte) (u : MxUnit) : State :=
  if 256 ≤ blockRow0 b || blockCol0 b % 4 != 0 then c.trapActive (.mxrd d a) s
  else if !(c.earlierOps s (blockUnit b)).isEmpty then c.readStall s
  else c.done (.mxrd d a) s (c.wave.core.mapLanes (fun n l =>
    if c.on n then
      (List.range 4).foldl (fun x k => x.put32 (d.toNat + k) (u.acc32 (blockRow0 b + n) (blockCol0 b + k)) false) l
    else l))

theorem mxrd_law {d a : Reg} {s : State} {c : Issue} {b : List Byte} {u : MxUnit} (hb : ReadsBlock s c a b u)
    (h : Executes (.mxrd d a) s c) :
    ((256 ≤ blockRow0 b ∨ blockCol0 b % 4 ≠ 0) → TrapsActive (.mxrd d a) s c) ∧
    (blockRow0 b < 256 → blockCol0 b % 4 = 0 → c.earlierOps s (blockUnit b) ≠ [] →
      exec (.mxrd d a) s = .next (c.readStall s)) ∧
    (blockRow0 b < 256 → blockCol0 b % 4 = 0 → c.earlierOps s (blockUnit b) = [] →
      ∃ lanes, Completes (.mxrd d a) s c { c.wave.core with lanes := lanes } ∧
        LaneWise c.wave.core.lanes lanes (fun n l l' =>
          l' = { l with regs := l'.regs, marks := l'.marks } ∧ (c.on n = false → l' = l) ∧
          (c.on n = true → (∀ k, k < 4 → Sparse.get 0 l'.regs (l.arch (d.toNat + k)) =
              (if blockRow0 b + n < 256 ∧ blockCol0 b + k < u.nMax then
                Sparse.get 0 u.acc ((blockRow0 b + n) * u.nMax + (blockCol0 b + k)) else 0) ∧
              Sparse.get false l'.marks (l.arch (d.toNat + k)) = false) ∧
            (∀ r, (r < l.arch d.toNat ∨ l.arch d.toNat + 4 ≤ r) →
              Sparse.get 0 l'.regs r = Sparse.get 0 l.regs r)))) := by
  have e := matrixBlock_acts (effect := mxrdEffect d a s) hb h rfl
  unfold mxrdEffect at e
  refine ⟨fun hbad => ?_, fun hrow hcol hops => ?_, fun hrow hcol hops => ?_⟩
  · rw [if_pos (by simpa using hbad)] at e
    exact trapsActive_at hb.acts e
  all_goals rw [if_neg (by simp [hrow, hcol])] at e
  · rw [if_pos (by simpa using hops)] at e
    exact e
  · rw [if_neg (by simp [hops])] at e
    refine ⟨_, e, mapIdx_laneWise _ _ _ fun n l _ => ?_⟩
    have hacc : ∀ k, u.acc32 (blockRow0 b + n) (blockCol0 b + k) =
        if blockRow0 b + n < 256 ∧ blockCol0 b + k < u.nMax then
          Sparse.get 0 u.acc ((blockRow0 b + n) * u.nMax + (blockCol0 b + k)) else 0 := fun k => by
      by_cases hin : blockRow0 b + n < 256 ∧ blockCol0 b + k < u.nMax
      · rw [if_pos hin, MxUnit.acc32, if_neg (by omega)]
      · rw [if_neg hin, MxUnit.acc32, if_pos (by omega)]
    cases hn : c.on n with
    | false => exact ⟨rfl, fun _ => rfl, fun hc => by cases hc⟩
    | true =>
      obtain ⟨hsame, hput, hother⟩ := l.put_four d.toNat fun k => u.acc32 (blockRow0 b + n) (blockCol0 b + k)
      rw [if_pos rfl]
      exact ⟨hsame, fun hc => by (cases hc), fun _ => ⟨fun k hk => (hacc k) ▸ hput k hk, hother⟩⟩

/-! ### MXSW -/

theorem mapIdx_of_map {α β γ : Type} (f : Nat → β → γ) (g : α → β) (xs : List α) :
    (xs.map g).mapIdx f = xs.mapIdx (fun n x => f n (g x)) :=
  List.ext_getElem? fun n => by simp [Option.map_map, Function.comp_def]

theorem mxsw_law {s : State} {c : Issue} (h : Executes .mxsw s c) :
    (c.any = false → Completes .mxsw s c c.wave.core) ∧
    (c.any = true → c.gang.grant = none → TrapsActive .mxsw s c) ∧
    (∀ r, c.any = true → c.gang.grant = some r →
      let us := (List.range r.units.length).filter (fun k => !((r.units[k]?).map MxUnit.lost).getD true)
      ((∃ k ∈ us, unitQueue ≤ (s.unitOps c.g k).length) → exec .mxsw s = .next s) ∧
      ((∀ k ∈ us, (s.unitOps c.g k).length < unitQueue) → exec .mxsw s = .next { c.doneWith .mxsw s none with
        nextId := s.nextId + us.length
        mxops := s.mxops ++ us.mapIdx (fun n k => (s.nextId + n, c.op s .mxsw k 0 [] none none none none)) })) := by
  have e : exec .mxsw s = .next _ := issueWord_go h _
  dsimp only at e
  refine ⟨fun ha => ?_, fun ha hg => ?_, fun r ha hg => ⟨fun hfull => ?_, fun hroom => ?_⟩⟩
  · rw [ha, if_pos (by simp)] at e
    exact e
  all_goals rw [ha, if_neg (by simp), hg] at e
  · exact trapsActive_at ha e
  · obtain ⟨k, hk, hle⟩ := hfull
    dsimp only at e
    rw [e, Issue.enqueue_full ⟨_, List.mem_map_of_mem hk, hle⟩]
  · dsimp only at e
    rw [e, Issue.enqueue_adds fun x hx => by
      obtain ⟨k, hk, rfl⟩ := List.mem_map.1 hx
      exact hroom k hk, List.length_map, mapIdx_of_map]

/-! ### The words -/

theorem mxls_law {nw : Bool} {d a : Reg} {s : State} {c : Issue} {b : List Byte} {u : MxUnit} (hb : ReadsBlock s c a b u)
    (h : Executes (.mxls nw d a) s c) :
    (∀ e, c.handleEntry s (blockB b) = some e → 1 ≤ blockK b → blockK b ≤ u.kMax → 1 ≤ blockN b → blockN b ≤ u.nMax →
      Enqueues (.mxls nw d a) s c (tokenField nw d)
        (c.op s .mxls (blockUnit b) (c.wave.core.uni a).toNat b none (some e) none (tokenField nw d))) ∧
    ((c.handleEntry s (blockB b) = none ∨ blockK b = 0 ∨ u.kMax < blockK b ∨ blockN b = 0 ∨ u.nMax < blockN b) →
      TrapsActive (.mxls nw d a) s c) := by
  have e := matrixBlock_acts hb h (show exec (.mxls nw d a) s = execMxls nw d a s from rfl)
  dsimp only at e
  refine ⟨fun x hx hk hk' hn hn' => ?_, fun hbad => ?_⟩
  · rw [if_neg (by simp [hx, oneTo, hk, hk', hn, hn']), hx] at e
    exact enqueues_of e
  · have hcond : ((c.handleEntry s (blockB b)).isNone || !oneTo u.kMax (blockK b) || !oneTo u.nMax (blockN b)) = true := by
      simp only [Bool.or_eq_true, Bool.not_eq_true', Option.isNone_iff_eq_none, ← Bool.not_eq_true, oneTo_iff]
      rcases hbad with hx | hbad
      · exact .inl (.inl hx)
      · have hor : ¬ (1 ≤ blockK b ∧ blockK b ≤ u.kMax) ∨ ¬ (1 ≤ blockN b ∧ blockN b ≤ u.nMax) := by omega
        exact hor.elim (fun hk => .inl (.inr hk)) .inr
    rw [if_pos hcond] at e
    exact trapsActive_at hb.acts e

theorem mxgo_law {nw : Bool} {d a : Reg} {s : State} {c : Issue} {b : List Byte} {u : MxUnit} (hb : ReadsBlock s c a b u)
    (h : Executes (.mxgo nw d a) s c) :
    let ea := if blockStream b then none else c.handleEntry s (blockA b)
    let ec := if blockLoadC b then c.handleEntry s (blockC b) else none
    let ok := (blockStream b = true ∨ ea ≠ none) ∧ (blockLoadC b = true → ec ≠ none) ∧ 1 ≤ blockM b ∧
      blockM b ≤ 256 ∧ blockCounter b % 8 = 0
    (ok → Enqueues (.mxgo nw d a) s c (tokenField nw d)
      (c.op s .mxgo (blockUnit b) (c.wave.core.uni a).toNat b ea none ec (tokenField nw d))) ∧
    (¬ ok → TrapsActive (.mxgo nw d a) s c) := by
  intro ea ec ok
  have e := matrixBlock_acts hb h (show exec (.mxgo nw d a) s = execMxgo nw d a s from rfl)
  dsimp only at e
  have hcond : ((!blockStream b && ea.isNone) || (blockLoadC b && ec.isNone) || !oneTo 256 (blockM b) ||
      blockCounter b % 8 != 0) = true ↔ ¬ ok := by
    simp only [ok, Bool.or_eq_true, Bool.and_eq_true, Bool.not_eq_true', Option.isNone_iff_eq_none, ← Bool.not_eq_true,
      oneTo_iff, bne_iff_ne, not_and_iff, Classical.not_imp, ne_eq, Classical.not_not, or_assoc, not_or]
  refine ⟨fun hok => ?_, fun hbad => ?_⟩
  · rw [if_neg fun hc => hcond.1 hc hok] at e
    exact enqueues_of e
  · rw [if_pos (hcond.2 hbad)] at e
    exact trapsActive_at hb.acts e

theorem mxst_law {nw : Bool} {d a : Reg} {s : State} {c : Issue} {b : List Byte} {u : MxUnit} (hb : ReadsBlock s c a b u)
    (h : Executes (.mxst nw d a) s c) :
    let ok := (∃ e, c.handleEntry s (blockC b) = some e ∧ e.format = blockFormat b ∧ e.sparsity = 0) ∧
      1 ≤ blockFormat b ∧ blockFormat b ≤ 5 ∧ 1 ≤ blockM b ∧ blockM b ≤ 256 ∧ 1 ≤ blockN b ∧ blockN b ≤ u.nMax ∧
      blockCounter b % 8 = 0
    (ok → Enqueues (.mxst nw d a) s c (tokenField nw d) (c.op s .mxst (blockUnit b) (c.wave.core.uni a).toNat b none none
      (c.handleEntry s (blockC b)) (tokenField nw d))) ∧ (¬ ok → TrapsActive (.mxst nw d a) s c) := by
  intro ok
  have e := matrixBlock_acts hb h (show exec (.mxst nw d a) s = execMxst nw d a s from rfl)
  dsimp only at e
  cases hx : c.handleEntry s (blockC b) with
  | none =>
    rw [hx] at e
    rw [if_pos (by rfl)] at e
    refine ⟨fun hok => ?_, fun _ => trapsActive_at hb.acts e⟩
    obtain ⟨⟨x, hsome, -⟩, -⟩ := hok
    rw [hx] at hsome
    cases hsome
  | some x =>
    rw [hx] at e
    have hcond : (!(x.format == blockFormat b && x.sparsity == 0) || !oneTo 5 (blockFormat b) || !oneTo 256 (blockM b) ||
        !oneTo u.nMax (blockN b) || blockCounter b % 8 != 0) = true ↔ ¬ ok := by
      have hex : (∃ e, c.handleEntry s (blockC b) = some e ∧ e.format = blockFormat b ∧ e.sparsity = 0) ↔
          x.format = blockFormat b ∧ x.sparsity = 0 := by simp [hx]
      simp only [ok, hex, Bool.or_eq_true, Bool.not_eq_true', ← Bool.not_eq_true, oneTo_iff, bne_iff_ne, Bool.and_eq_true,
        beq_iff_eq, not_and_iff, ne_eq, or_assoc]
    refine ⟨fun hok => ?_, fun hbad => ?_⟩
    · rw [if_neg fun hc => hcond.1 hc hok] at e
      exact enqueues_of e
    · rw [if_pos (hcond.2 hbad)] at e
      exact trapsActive_at hb.acts e

/-- What MXZ does with a block that is in order. -/
def mxzEffect (a : Reg) (s : State) (c : Issue) (off : Nat) (b : List Byte) (_ : MxUnit) : State :=
  c.enqueue (.mxz a) s none [c.op s .mxz (blockUnit b) off b none none none none]

/-- Settles O43. -/
theorem matrixWords : Obligations.MatrixWords := by
  refine ⟨fun d a s c h => shape_law h, fun s st g mode wanted fb r h => State.formGrant_law h,
    fun nw d a s c b u hb => ⟨fun h => mxls_law hb h, fun h => mxgo_law hb h,
      fun h => enqueues_of (matrixBlock_acts (effect := mxzEffect a s) hb h rfl), fun h => mxst_law hb h,
      fun h => mxrd_law hb h⟩, ?_, fun s c h => mxsw_law h⟩
  intro nw d a s c off i hi h
  simp only [List.mem_cons, List.not_mem_nil, or_false] at hi
  rcases hi with rfl | rfl | rfl | rfl | rfl
  · exact matrixBlock_checks h (show exec _ s = execMxls nw d a s from rfl)
  · exact matrixBlock_checks h (show exec _ s = execMxgo nw d a s from rfl)
  · exact matrixBlock_checks (effect := mxzEffect a s) h rfl
  · exact matrixBlock_checks h (show exec _ s = execMxst nw d a s from rfl)
  · exact matrixBlock_checks (effect := mxrdEffect d a s) h rfl

end Sys2Proof.Machine
end

section
/-! SUPPORT. TIDW and TIDR: the entry that is written, the image that is stored, and the speculation that they end. -/
namespace Sys2Proof.Machine

/-! ### Rollbacks -/

/-- Some speculating waves have rolled back: no wave without speculation changes, and nothing that waves share. -/
structure State.RolledBack (s t : State) : Prop where
  mem : t.mem = s.mem
  poison : t.poison = s.poison
  contexts : t.contexts = s.contexts
  spads : ∀ g, (aget t.gangs g).map Gang.spad = (aget s.gangs g).map Gang.spad
  waves : ∀ g w v, s.wave g w = some v → v.spec = none → t.wave g w = some v

theorem State.RolledBack.refl (s : State) : s.RolledBack s := ⟨rfl, rfl, rfl, fun _ => rfl, fun _ _ _ h _ => h⟩

theorem State.RolledBack.trans {s t u : State} (h : s.RolledBack t) (h' : t.RolledBack u) : s.RolledBack u :=
  ⟨h'.mem.trans h.mem, h'.poison.trans h.poison, h'.contexts.trans h.contexts,
    fun g => (h'.spads g).trans (h.spads g), fun g w v hv hs => h'.waves g w v (h.waves g w v hv hs) hs⟩

theorem State.modWave_gang_spad (s : State) (g w : Nat) (f : Wave → Wave) (h : Nat) :
    (aget (s.modWave g w f).gangs h).map Gang.spad = (aget s.gangs h).map Gang.spad := by
  rw [State.modWave, State.modGang_gangs, aget_amod]
  split
  · rw [Option.map_map]
    rfl
  · rfl

theorem State.rollbackWave_rolledBack (s : State) (g w counter : Nat) : s.RolledBack (s.rollbackWave g w counter) := by
  unfold State.rollbackWave
  split
  next gang wave hg hw =>
    split
    next hspec =>
      refine ⟨rfl, rfl, rfl, fun h => ?_, fun h k v hv hs => ?_⟩
      · exact State.modWave_gang_spad ..
      · rw [State.modWave_wave, if_neg ?_]
        · exact hv
        · rintro ⟨rfl, rfl⟩
          cases hw.symm.trans hv
          rw [hs] at hspec
          cases hspec
    · exact .refl s
  · exact .refl s

theorem State.RolledBack.ite {s t u : State} {p : Prop} [Decidable p] (ht : s.RolledBack t) (hu : s.RolledBack u) :
    s.RolledBack (if p then t else u) := by
  split
  · exact ht
  · exact hu

theorem State.RolledBack.foldl {α : Type} {f : State → α → State} (hf : ∀ (u : State) x, u.RolledBack (f u x)) (xs : List α)
    (s : State) : s.RolledBack (xs.foldl f s) :=
  List.foldlRecOn (motive := fun t => s.RolledBack t) _ _ (.refl s) fun t ht x _ => ht.trans (hf t x)

theorem State.conflicts_rolledBack (s : State) (own : Option (Nat × Nat)) (spadOf : Option Nat) (secs : List Nat) :
    s.RolledBack (s.conflicts own spadOf secs) := by
  exact .foldl (fun u p => u.rollbackWave_rolledBack ..) _ s

/-! ### The entry of an identifier -/

/-- The table of a context takes an entry, and waves that used it speculatively roll back. -/
theorem State.writeEntry_law {s : State} {ctx : Nat} {x : Context} (hx : aget s.contexts ctx = some x) (au : Author)
    (id : Nat) (e : Option Tensor) :
    let t := s.writeEntry au ctx id e
    aget t.contexts ctx = some { x with tensors := Sparse.set none x.tensors id e } ∧
    (∀ n, n ≠ ctx → aget t.contexts n = aget s.contexts n) ∧ t.entry ctx id = e ∧
    (∀ n, n ≠ id → t.entry ctx n = s.entry ctx n) ∧ t.mem = s.mem ∧ t.poison = s.poison ∧
    ∀ g w v, s.wave g w = some v → v.spec = none → t.wave g w = some v := by
  intro t
  obtain ⟨r, hrolled, hcontexts, hmem, hpoison, hgangs⟩ : ∃ r : State, r.RolledBack t ∧ r.contexts =
      amod s.contexts ctx (fun x => { x with tensors := Sparse.set none x.tensors id e }) ∧ r.mem = s.mem ∧
      r.poison = s.poison ∧ r.gangs = s.gangs := by
    refine ⟨_, State.RolledBack.foldl (fun u p => ?_) s.gangs _, ?_, ?_, ?_, ?_⟩
    · refine .ite (.foldl (fun u q => ?_) _ u) (.refl u)
      exact .ite (u.rollbackWave_rolledBack ..) (.refl u)
    all_goals rfl
  have hsame : aget t.contexts ctx = some { x with tensors := Sparse.set none x.tensors id e } := by
    rw [hrolled.contexts, hcontexts, aget_amod, if_pos rfl, hx]
    rfl
  refine ⟨hsame, fun n hn => ?_, ?_, fun n hn => ?_, hrolled.mem.trans hmem, hrolled.poison.trans hpoison,
    fun g w v hv => hrolled.waves g w v (by rw [State.wave, hgangs]; exact hv)⟩
  · rw [hrolled.contexts, hcontexts, aget_amod, if_neg hn]
  · rw [State.entry, hsame]
    exact Sparse.get_set_same ..
  · rw [State.entry, hsame, State.entry, hx]
    exact Sparse.get_set_other _ _ _ _ _ hn

/-! ### Images -/

theorem Tensor.image_length (t : Tensor) : t.image.length = 128 := by
  simp only [Tensor.image, List.length_append, natLe_length, List.length_flatMap, List.length_replicate] <;> rfl

theorem invalidImage_length : invalidImage.length = 128 := by simp [invalidImage, natLe_length]

/-- What TIDR stores. -/
def Issue.seenImage (c : Issue) (s : State) (id : Nat) : List Byte :=
  match s.seeEntry (c.waveAgent s .pkg) [18] (s.ctxOf c.gang) id with
  | some e => e.image
  | none => invalidImage

theorem Issue.seenImage_length (c : Issue) (s : State) (id : Nat) : (c.seenImage s id).length = 128 := by
  unfold Issue.seenImage
  split
  · exact Tensor.image_length _
  · exact invalidImage_length

theorem State.writeSpad_wave (s : State) (au : Author) (g off : Nat) (bs : List Byte) (mark : Bool) (h w : Nat) :
    (s.writeSpad au g off bs mark).wave h w = s.wave h w := by
  rw [State.wave, State.writeSpad, aget_amod, State.wave]
  split
  · cases aget s.gangs h <;> rfl
  · rfl

/-- The scratchpad of a gang after a write, whatever speculation it ends. -/
theorem State.putSpad_law {s : State} {g : Nat} {x : Gang} (hx : aget s.gangs g = some x) (au : Author) (off : Nat)
    (bs : List Byte) (mark : Bool) :
    ∃ y, aget (s.putSpad au g off bs mark).gangs g = some y ∧ y.spad = writeBytes x.spad off bs := by
  have hspad := (State.conflicts_rolledBack (s.writeSpad au g off bs mark) au.own (some g) (sectors off bs.length)).spads g
  have hwrite : aget (s.writeSpad au g off bs mark).gangs g = some { x with
      spad := writeBytes x.spad off bs, spadPoison := storePoison x.spadPoison off bs.length mark } := by
    rw [State.writeSpad, aget_amod, if_pos rfl, hx]
    rfl
  rw [hwrite] at hspad
  exact Option.map_eq_some_iff.1 hspad

/-! ### The words -/

section access
variable {i : Instr} {a b : Reg} {effect : Issue → Nat → Nat → State} {s : State} {c : Issue}

theorem idTooHigh (v : W64) : (v.extractLsb' 10 54 != 0) = true ↔ 1024 ≤ v.toNat := by
  have := v.isLt
  have hzero : (0 : BitVec 54).toNat = 0 := rfl
  rw [bne_iff_ne, ne_eq, ← BitVec.toNat_inj, BitVec.extractLsb'_toNat, Nat.shiftRight_eq_div_pow]
  omega

theorem tensorAccess_checks (h : Executes i s c) (he : exec i s = tensorAccess i a b effect s) :
    let id := (c.wave.core.uni a).toNat
    let off := (c.wave.core.uni b).toNat
    (c.any = false → Completes i s c c.wave.core) ∧
    (c.any = true → c.wave.core.uniMark b = true → FaultsAt i s c reasonPoison off) ∧
    (c.any = true → c.wave.core.uniMark b = false → (off % 128 ≠ 0 ∨ 1024 ≤ id) → TrapsActive i s c) ∧
    (c.any = true → c.wave.core.uniMark b = false → off % 128 = 0 → id < 1024 → s.spadSize c.gang < off + 128 →
      FaultsAt i s c reasonProtection off) ∧
    (c.any = true → c.wave.core.uniMark b = false → off % 128 = 0 → id < 1024 → off + 128 ≤ s.spadSize c.gang →
      exec i s = .next (effect c id off)) := by
  intro id off
  have e : exec i s = .next _ := he.trans (issueWord_go h _)
  have hbad : (off % 128 != 0 || (c.wave.core.uni a).extractLsb' 10 54 != 0) = true ↔ (off % 128 ≠ 0 ∨ 1024 ≤ id) := by
    rw [Bool.or_eq_true, idTooHigh, bne_iff_ne]
  dsimp only at e
  refine ⟨fun ha => ?_, fun ha hm => ?_, fun ha hm ho => ?_, fun ha hm ho hid hs => ?_, fun ha hm ho hid hs => ?_⟩
  · rw [ha, if_pos (by simp)] at e
    exact e
  all_goals rw [ha, if_neg (by simp)] at e
  · rw [if_pos hm] at e
    exact e
  all_goals rw [if_neg (by simp [hm])] at e
  · rw [if_pos (hbad.2 ho)] at e
    exact trapsActive_at ha e
  all_goals rw [if_neg fun hc => (hbad.1 hc).elim (· ho) (Nat.not_le.2 hid)] at e
  · rw [if_pos hs] at e
    exact e
  · rw [if_neg (Nat.not_lt.2 hs)] at e
    exact e

end access

section words
variable {a b : Reg} {s : State} {c : Issue}

/-- What TIDW does with an identifier and an offset that are in order. -/
def tidwEffect (a b : Reg) (s : State) (c : Issue) (id off : Nat) : State :=
  let got := c.readImage s off
  let bytes := got.flatMap (fun x => x.bytes)
  let au := (c.waveAgent s .pkg).author false s.history.length 2
  if got.any (fun x => x.mark) then c.fault s reasonPoison off 0 0
  else if imageField bytes 0 1 = 0xFF then
    c.advanceIn (.tidw a b) ((s.setWave c.g c.w c.wave).writeEntry au (s.ctxOf c.gang) id none)
  else if !imageOk bytes then c.trapActive (.tidw a b) s
  else c.advanceIn (.tidw a b) ((s.setWave c.g c.w c.wave).writeEntry au (s.ctxOf c.gang) id (some (tensorOf bytes)))

/-- What TIDR does with them. -/
def tidrEffect (a b : Reg) (s : State) (c : Issue) (id off : Nat) : State :=
  c.done (.tidr a b) (s.putSpad ({ c.waveAgent s .pkg with scope := .none }.author false s.history.length 0) c.g off
    (c.seenImage s id) false) c.wave.core

/-- A TIDW whose entry is written. -/
theorem Issue.writesEntry (h : Executes (.tidw a b) s c) (ha : c.any = true) {x : Context} {ctx : Nat}
    (hx : aget s.contexts ctx = some x) (au : Author) (id : Nat) (e : Option Tensor) :
    ∃ tab v, let t := c.advanceIn (.tidw a b) ((s.setWave c.g c.w c.wave).writeEntry au ctx id e)
      aget t.contexts ctx = some { x with tensors := tab } ∧ (∀ n, n ≠ ctx → aget t.contexts n = aget s.contexts n) ∧
      t.entry ctx id = e ∧ (∀ n, n ≠ id → t.entry ctx n = s.entry ctx n) ∧ t.mem = s.mem ∧ t.poison = s.poison ∧
      t.wave c.g c.w = some v ∧ v.core.lanes = c.wave.core.lanes ∧ v.core.frontier[c.k]? = some c.entry.next := by
  obtain ⟨hctx, hother, hentry, hentries, hmem, hpoison, hwaves⟩ :=
    State.writeEntry_law (s := s.setWave c.g c.w c.wave) hx au id e
  have hwave := hwaves c.g c.w c.wave (h.wave_some s rfl c.wave) (h.alone rfl)
  refine ⟨_, c.advance (.tidw a b) ((s.setWave c.g c.w c.wave).writeEntry au ctx id e) c.wave.core, hctx, hother, hentry,
    hentries, hmem, hpoison, ?_, (markStalls_keeps _ _ _).1, h.next_entry ha rfl _ c rfl rfl⟩
  rw [Issue.advanceIn, State.modWave_wave, if_pos ⟨rfl, rfl⟩, hwave]
  rfl

theorem tidr_stores (h : Executes (.tidr a b) s c) {id off : Nat} (e : exec (.tidr a b) s = .next (tidrEffect a b s c id off)) :
    ∃ t v y, exec (.tidr a b) s = .next t ∧ aget t.gangs c.g = some y ∧ readBytes y.spad off 128 = c.seenImage s id ∧
      (∀ o, (o < off ∨ off + 128 ≤ o) → Sparse.get 0 y.spad o = Sparse.get 0 c.gang.spad o) ∧
      t.mem = s.mem ∧ t.contexts = s.contexts ∧ t.wave c.g c.w = some v ∧ v.core.lanes = c.wave.core.lanes := by
  obtain ⟨y0, hy0, hspad⟩ := State.putSpad_law h.gang
    ({ c.waveAgent s .pkg with scope := .none }.author false s.history.length 0) off (c.seenImage s id) false
  have hrolled := State.conflicts_rolledBack (s.writeSpad ({ c.waveAgent s .pkg with scope := .none }.author false
    s.history.length 0) c.g off (c.seenImage s id) false) (c.waveAgent s .pkg).own (some c.g)
      (sectors off (c.seenImage s id).length)
  obtain ⟨y, hy, hys⟩ : ∃ y, aget (tidrEffect a b s c id off).gangs c.g = some y ∧ y.spad = y0.spad := by
    refine Option.map_eq_some_iff.1 ((State.modWave_gang_spad _ c.g c.w _ c.g).trans ?_)
    rw [hy0]
    rfl
  rw [hspad] at hys
  obtain ⟨u, hu, -, -, -, hspec⟩ := h.wave
  have hwave := hrolled.waves c.g c.w u (by rw [State.writeSpad_wave, hu]) (hspec.symm.trans (h.alone rfl))
  have hdone : (tidrEffect a b s c id off).wave c.g c.w = some (c.advance (.tidr a b) _ c.wave.core) :=
    (State.modWave_wave ..).trans ((if_pos ⟨rfl, rfl⟩).trans (congrArg _ hwave))
  refine ⟨_, _, y, e, hy, ?_, fun o ho => ?_, hrolled.mem, hrolled.contexts, hdone,
    (markStalls_keeps _ _ _).1⟩
  · rw [hys, ← c.seenImage_length s id]
    exact readBytes_writeBytes_same ..
  · rw [hys, get_writeBytes_other _ _ _ _ (by rw [Issue.seenImage_length]; exact ho)]

end words

/-- Settles O44. -/
theorem tensorIdentifiers : Obligations.TensorIdentifiers := by
  intro a b s c x id off ctx got bytes
  refine ⟨fun i hi h => ?_, fun ha hm ho hid hs hx => ⟨fun h => ?_, fun h => ?_⟩⟩
  · simp only [List.mem_cons, List.not_mem_nil, or_false] at hi
    rcases hi with rfl | rfl
    · obtain ⟨hidle, hmark, htrap, hprotect, -⟩ := tensorAccess_checks (effect := tidwEffect a b s) h rfl
      exact ⟨hidle, hmark, htrap, hprotect⟩
    · obtain ⟨hidle, hmark, htrap, hprotect, -⟩ := tensorAccess_checks (effect := tidrEffect a b s) h rfl
      exact ⟨hidle, hmark, htrap, hprotect⟩
  · obtain ⟨-, -, -, -, hgoes⟩ := tensorAccess_checks (effect := tidwEffect a b s) h rfl
    have e := hgoes ha hm ho hid hs
    unfold tidwEffect at e
    refine ⟨fun hp => ?_, fun hclean => ⟨fun hf hok => ?_, fun hok => ?_⟩⟩
    · rw [if_pos (by simpa using hp)] at e
      exact e
    all_goals rw [if_neg (by simpa using hclean)] at e
    · rw [if_neg hf, if_pos (by rw [hok]; rfl)] at e
      exact trapsActive_at ha e
    · by_cases hf : imageField bytes 0 1 = 0xFF
      · rw [if_pos hf] at e
        obtain ⟨tab, v, hlaw⟩ := Issue.writesEntry h ha hx ((c.waveAgent s .pkg).author false s.history.length 2) id none
        rw [if_pos hf]
        exact ⟨tab, _, v, e, hlaw⟩
      · rw [if_neg hf, if_neg (by rw [hok.resolve_left hf]; simp)] at e
        obtain ⟨tab, v, hlaw⟩ := Issue.writesEntry h ha hx ((c.waveAgent s .pkg).author false s.history.length 2) id
          (some (tensorOf bytes))
        rw [if_neg hf]
        exact ⟨tab, _, v, e, hlaw⟩
  · obtain ⟨-, -, -, -, hgoes⟩ := tensorAccess_checks (effect := tidrEffect a b s) h rfl
    exact tidr_stores h (hgoes ha hm ho hid hs)

end Sys2Proof.Machine
end

section
/-! SUPPORT. What happens to a wave between its instructions: joins, holds, the shelf, the watchdog, retirement and fetch
faults. -/
namespace Sys2Proof.Machine

theorem State.atWave_of {s : State} {g w : Nat} {gang : Gang} {wave : Wave} (hg : aget s.gangs g = some gang)
    (hw : gang.waves[w]? = some wave) (f : Gang → Wave → State) : s.atWave g w f = f gang wave := by
  simp only [State.atWave, hg, hw]

section
variable {s : State} {g w : Nat} {gang : Gang} {wave : Wave} (hg : aget s.gangs g = some gang)
  (hw : gang.waves[w]? = some wave)
include hg hw

/-- An event that changes a wave, at the wave that it names. -/
theorem exec_atWave {i : Instr} {f : Gang → Wave → State} (he : exec i s = .next (s.atWave g w f)) :
    exec i s = .next (f gang wave) := by
  rw [he, State.atWave_of hg hw]

/-! ### Joins and the selection of waves -/

theorem joinRelease_law {k : Nat} {x : Entry} {j : BitVec 3} {arrived : BitVec 32} (hx : wave.core.frontier[k]? = some x)
    (hj : x.state = .joining j arrived) (ha : x.aside = false) (hlive : s.waveAlive g w gang wave = true)
    (hall : ∀ n, has (Sparse.get 0 wave.core.j j.toNat) n = true → wave.core.satisfies arrived x.pc x.prio n = true) :
    ∃ masks, exec (.joinRelease g w k) s = .next (s.setWave g w { wave with core := { wave.core with
        j := masks, frontier := wave.core.frontier.set k { x.next with state := .ready } } }) ∧
      ∀ r, Sparse.get 0 masks r =
        if r = j.toNat then Sparse.get 0 wave.core.j r &&& ~~~arrived else Sparse.get 0 wave.core.j r := by
  have hready : wave.core.joinReady x = true := by
    simp only [WaveCore.joinReady, hj, ha, Bool.not_false, Bool.true_and, List.all_eq_true]
    exact fun n hn => hall n ((mem_bitsOf _ _).1 hn)
  have hrelease : wave.core.releaseJoin k x = { wave.core with
      j := Sparse.set 0 wave.core.j j.toNat (Sparse.get 0 wave.core.j j.toNat &&& ~~~arrived)
      frontier := wave.core.frontier.set k { x.next with state := .ready } } := by
    simp only [WaveCore.releaseJoin, hj]
  have e := exec_atWave hg hw (show exec (.joinRelease g w k) s = execJoinRelease g w k s from rfl)
  rw [hx] at e
  dsimp only at e
  rw [hlive, hready, if_pos (by simp), hrelease] at e
  refine ⟨_, e, fun r => ?_⟩
  rw [Sparse.get_set]
  split
  next hr => rw [hr]
  · rfl

theorem yieldHoldExpiry_law (hlive : s.waveAlive g w gang wave = true)
    (hpast : wave.progress + 71 ≤ (s.stack gang.stack).now) :
    exec (.yieldHoldExpiry g w) s = .next (s.setWave g w { wave with yieldHold := false }) := by
  have e := exec_atWave hg hw (show exec (.yieldHoldExpiry g w) s = execYieldHoldExpiry g w s from rfl)
  rw [e, hlive, if_pos]
  exact (Bool.true_and _).trans (decide_eq_true hpast)

theorem issueAgePromotion_law (hmay : s.waveMayIssue g w gang wave = true) (hgoes : s.waveStalled g w gang wave = false) :
    exec (.issueAgePromotion g w) s = .next (s.setWave g w { wave with aged := true }) := by
  have e := exec_atWave hg hw (show exec (.issueAgePromotion g w) s = execIssueAgePromotion g w s from rfl)
  rw [e, hmay, hgoes, if_pos (by simp)]

/-! ### The shelf -/

theorem parkWave_law (hruns : s.waveRuns g w gang wave = true) (hparks : s.parksHere g w gang wave = true)
    (hfull : 16 ≤ s.windowsHeld gang.stack wave.coreId)
    (hwaits : ∃ q ∈ s.coreMates gang wave, q.2.2.2.parked = true ∧ q.2.2.2.rank ≠ 0)
    (hlowest : ∀ q ∈ s.coreMates gang wave, q.2.2.2.parked = false → s.parksHere q.1 q.2.1 q.2.2.1 q.2.2.2 = true →
      wave.rank ≤ q.2.2.2.rank) :
    exec (.parkWave g w) s = .next ((s.modStack gang.stack (fun t => t.count 0x0D0 1)).setWave g w { wave with
      parked := true, core := { wave.core with latchCount := 0 } }) := by
  have e := exec_atWave hg hw (show exec (.parkWave g w) s = execParkWave g w s from rfl)
  have hready : (s.coreMates gang wave).any (fun q => q.2.2.2.parked && q.2.2.2.rank != 0) = true := by
    simpa using hwaits
  have hleast : (s.coreMates gang wave).all (fun q =>
      q.2.2.2.parked || !s.parksHere q.1 q.2.1 q.2.2.1 q.2.2.2 || decide (wave.rank ≤ q.2.2.2.rank)) = true := by
    refine List.all_eq_true.2 fun q hq => ?_
    cases hp : q.2.2.2.parked with
    | true => rfl
    | false =>
      cases hh : s.parksHere q.1 q.2.1 q.2.2.1 q.2.2.2 with
      | false => rfl
      | true => simpa using hlowest q hq hp hh
  have hnone : s.windowFree gang wave = false := by simpa [State.windowFree] using hfull
  rw [e]
  dsimp only
  rw [hruns, hparks, hready, hleast, hnone, if_pos (by simp)]

theorem recallWave_law (hlive : s.waveAlive g w gang wave = true) (hparked : wave.parked = true) (hrank : wave.rank ≠ 0)
    (hfree : s.windowsHeld gang.stack wave.coreId < 16)
    (hfirst : ∀ q ∈ s.coreMates gang wave, (q.1 ≠ g ∨ q.2.1 ≠ w) → q.2.2.2.parked = true → q.2.2.2.rank ≠ 0 →
      q.2.2.2.ahead wave = false) :
    exec (.recallWave g w) s = .next (s.setWave g w { wave with
      parked := false, progress := (s.stack gang.stack).now }) := by
  have e := exec_atWave hg hw (show exec (.recallWave g w) s = execRecallWave g w s from rfl)
  have hahead : (s.coreMates gang wave).all (fun q =>
      (q.1 == g && q.2.1 == w) || !q.2.2.2.parked || q.2.2.2.rank == 0 || !q.2.2.2.ahead wave) = true := by
    refine List.all_eq_true.2 fun q hq => ?_
    simp only [Bool.or_eq_true, Bool.and_eq_true, beq_iff_eq, Bool.not_eq_true', or_assoc]
    by_cases hself : q.1 = g ∧ q.2.1 = w
    · exact .inl hself
    · by_cases hp : q.2.2.2.parked = true
      · by_cases hr : q.2.2.2.rank = 0
        · exact .inr (.inr (.inl hr))
        · exact .inr (.inr (.inr (hfirst q hq (Classical.not_and_iff_not_or_not.1 hself) hp hr)))
      · exact .inr (.inl (Bool.eq_false_iff.2 hp))
  have hsome : s.windowFree gang wave = true := by simpa [State.windowFree] using hfree
  rw [e]
  dsimp only
  rw [hlive, hparked, hahead, hsome, if_pos (by simpa using hrank)]

/-! ### The watchdog -/

theorem watchdogExpiry_law {c : Context} (hc : aget s.contexts (s.ctxOf gang) = some c) :
    exec (.watchdogExpiry g w) s = .next (if s.waveAlive g w gang wave && wave.watched && c.watchdog != 0 &&
      decide (wave.progress + 1000 * c.watchdog < (s.stack gang.stack).now) then
        s.raiseHalt (waveHalt s g w gang wave reasonWatchdog wave.lastPc 0) else s) := by
  have e := exec_atWave hg hw (show exec (.watchdogExpiry g w) s = execWatchdogExpiry g w s from rfl)
  rw [e, hc]

/-! ### Retirement -/

theorem waveRetire_law (hmay : s.mayRetire g w gang wave = true) :
    ∃ q5, (s.streams g w = true → q5 = wave.push.getD 5 []) ∧ (s.streams g w = false → q5 = []) ∧
      exec (.waveRetire g w) s = .next (((s.setWave g w { wave with
          retired := true, push := (List.replicate 8 []).set 5 q5, pop := List.replicate 8 [] }).modLaunch gang.launch
        (fun l =>
          let done := Seen.join (s.lanesView g w wave.core 0xFFFFFFFF) wave.matoms
          { l with finish := Seen.join l.finish done })).retireFromBarriers g w) := by
  have e := exec_atWave hg hw (show exec (.waveRetire g w) s = execWaveRetire g w s from rfl)
  dsimp only at e
  rw [hmay, if_pos rfl] at e
  exact ⟨_, fun h => if_pos h, fun h => if_neg (by simp [h]), e⟩

/-! ### The fetch -/

omit hg hw in
theorem amod_amod {α : Type} (m : List (Nat × α)) (k : Nat) (f f' : α → α) : amod (amod m k f) k f' = amod m k (f' ∘ f) := by
  rw [amod, amod, List.map_map, amod]
  refine List.map_congr_left fun p _ => ?_
  by_cases hp : p.1 = k <;> simp [hp]

omit hg hw in
theorem State.setWave_setWave (s : State) (g w : Nat) (v v' : Wave) : (s.setWave g w v).setWave g w v' = s.setWave g w v' := by
  have hgangs : ((s.setWave g w v).setWave g w v').gangs = (s.setWave g w v').gangs := by
    rw [State.setWave, State.setWave, State.setWave, State.modWave, State.modWave, State.modWave, State.modGang_gangs,
      State.modGang_gangs, State.modGang_gangs, amod_amod]
    refine congrArg _ (funext fun x => ?_)
    rw [Function.comp, List.modify_modify_eq]
    rfl
  exact congrArg (fun gangs => ({ s with gangs := gangs } : State)) hgangs

theorem fetchFault_law {k : Nat} {e : Entry} (hmay : s.waveMayIssue g w gang wave = true)
    (hk : selectEntry wave.core.boundary.frontier = some k) (he : wave.core.boundary.frontier[k]? = some e) :
    (∀ page, s.fetch gang wave e.pc = .hold page → exec (.fetchFault g w) s = .next
      ((s.setWave g w { wave with
        core := { wave.core.boundary with
          frontier := wave.core.boundary.frontier.set k { e with state := .blocked (.fetch e.pc) } } }).pageRequest
        (s.ctxOf gang) gang.stack page .fetch)) ∧
    (∀ reason, s.fetch gang wave e.pc = .fault reason → wave.spec = none → exec (.fetchFault g w) s =
      .next ((s.setWave g w { wave with core := wave.core.boundary }).raiseHalt
        (waveHalt s g w gang wave reason e.pc e.pc))) ∧
    (∀ lines, s.fetch gang wave e.pc = .wait lines → exec (.fetchFault g w) s = .next (s.backInvalidate lines)) ∧
    (∀ v, s.fetch gang wave e.pc = .word v → exec (.fetchFault g w) s = .next s) := by
  have x := exec_atWave hg hw (show exec (.fetchFault g w) s = execFetchFault g w s from rfl)
  dsimp only at x
  rw [hmay, if_neg (by simp), hk] at x
  dsimp only at x
  rw [he] at x
  dsimp only at x
  refine ⟨fun page hf => ?_, fun reason hf hs => ?_, fun lines hf => ?_, fun v hf => ?_⟩
  · rw [x, hf, State.setWave_setWave]
  · rw [x, hf, hs]
  · rw [x, hf]
  · rw [x, hf]

end

theorem State.gangMayRetire_of {s : State} {g : Nat} {x : Gang} (hstate : x.state = .resident)
    (hhalt : (s.stack x.stack).haltArrived = false) (hwaves : ∀ v ∈ x.waves, v.retired = true) (hops : s.gangOps g = [])
    (hpast : s.pastDeadline x = false) : s.gangMayRetire g x = true := by
  have hall : x.waves.all (fun w => w.retired) = true := List.all_eq_true.2 hwaves
  simp [State.gangMayRetire, hstate, hhalt, hall, hops, hpast]

/-- Settles O45. -/
theorem waveEvents : Obligations.WaveEvents := by
  intro s g w gang wave hg hw
  refine ⟨fun k x j arrived hx hj ha hlive hall => joinRelease_law hg hw hx hj ha hlive hall, yieldHoldExpiry_law hg hw,
    issueAgePromotion_law hg hw, parkWave_law hg hw, recallWave_law hg hw, fun c hc hlive hwatched hon hpast => ?_,
    fun c hc hnot => ?_, fun hstate hret hhalt hlanes hpend hloads hstores hheld hleft hmatoms => ?_,
    fun hstate hhalt hwaves hops hpast => ?_, fun hstate hquiet hhalt => ?_, fun k e hmay hk he => fetchFault_law hg hw hmay hk he⟩
  · rw [watchdogExpiry_law hg hw hc, hlive, hwatched, if_pos (by simp [hon, hpast])]
  · rw [watchdogExpiry_law hg hw hc, if_neg ?_]
    rcases hnot with h0 | hle
    · simp [h0]
    · simp [Nat.not_lt.2 hle]
  · exact waveRetire_law hg hw (by
      simp [State.mayRetire, hstate, hret, hhalt, hlanes, hpend, hloads, hstores, hheld, hleft, hmatoms])
  · show execGangRetire g s = _
    unfold execGangRetire
    rw [hg]
    dsimp only
    rw [if_pos (State.gangMayRetire_of hstate hhalt hwaves hops hpast)]
    rfl
  · show execGangRetire g s = _
    unfold execGangRetire
    rw [hg]
    dsimp only
    rw [if_neg (by simp [State.gangMayRetire, hstate]), if_pos (by simp [hstate, hquiet, hhalt])]

end Sys2Proof.Machine
end

section
/-! SUPPORT. Load data that lands, acknowledgements, and the passes of MWAIT. -/
namespace Sys2Proof.Machine

/-! ### Load data -/

/-- A register of load data lands in a lane. -/
def Lane.takes (n : Nat) (l : Lane) (w : RegWrite) : Lane :=
  if w.lane = n then { l with regs := Sparse.set 0 l.regs w.reg w.val, marks := Sparse.set false l.marks w.reg w.mark }
  else l

theorem Lane.takes_other (n : Nat) (l : Lane) {w : RegWrite} {r : Nat} (h : w.lane = n → w.reg ≠ r) :
    Sparse.get 0 (l.takes n w).regs r = Sparse.get 0 l.regs r ∧
    Sparse.get false (l.takes n w).marks r = Sparse.get false l.marks r := by
  unfold Lane.takes
  split
  next hl => exact ⟨Sparse.get_set_other _ _ _ _ _ (h hl).symm, Sparse.get_set_other _ _ _ _ _ (h hl).symm⟩
  · exact ⟨rfl, rfl⟩

theorem Lane.takes_same (l : Lane) (w : RegWrite) :
    Sparse.get 0 (l.takes w.lane w).regs w.reg = w.val ∧ Sparse.get false (l.takes w.lane w).marks w.reg = w.mark := by
  unfold Lane.takes
  rw [if_pos rfl]
  exact ⟨Sparse.get_set_same .., Sparse.get_set_same ..⟩

theorem Lane.takes_keeps (n : Nat) (l : Lane) (w : RegWrite) :
    l.takes n w = { l with regs := (l.takes n w).regs, marks := (l.takes n w).marks } := by
  unfold Lane.takes
  split <;> rfl

/-- Writes of different registers, or in different lanes, land each at its own. -/
theorem Lane.takes_all (n : Nat) {ws : List RegWrite} (hd : ws.Pairwise (fun x y => x.lane ≠ y.lane ∨ x.reg ≠ y.reg))
    (l : Lane) :
    let l' := ws.foldl (Lane.takes n) l
    l' = { l with regs := l'.regs, marks := l'.marks } ∧
    (∀ x ∈ ws, x.lane = n → Sparse.get 0 l'.regs x.reg = x.val ∧ Sparse.get false l'.marks x.reg = x.mark) ∧
    (∀ r, (∀ x ∈ ws, x.lane = n → x.reg ≠ r) → Sparse.get 0 l'.regs r = Sparse.get 0 l.regs r ∧
      Sparse.get false l'.marks r = Sparse.get false l.marks r) := by
  induction ws generalizing l with
  | nil => exact ⟨rfl, fun x hx => (List.not_mem_nil hx).elim, fun r _ => ⟨rfl, rfl⟩⟩
  | cons w ws ih =>
    obtain ⟨hne, hd⟩ := List.pairwise_cons.1 hd
    obtain ⟨hkeep, hput, hother⟩ := ih hd (l.takes n w)
    refine ⟨?_, fun x hx hn => ?_, fun r hr => ?_⟩
    · rw [List.foldl_cons, hkeep]
      rw [l.takes_keeps n w]
    · rcases List.mem_cons.1 hx with rfl | hx
      · subst hn
        obtain ⟨hregs, hmarks⟩ := hother x.reg fun y hy hl => by
          rcases hne y hy with h | h
          · exact absurd hl.symm h
          · exact h.symm
        obtain ⟨hval, hmark⟩ := l.takes_same x
        exact ⟨hregs.trans hval, hmarks.trans hmark⟩
      · exact hput x hx hn
    · obtain ⟨hregs, hmarks⟩ := hother r fun x hx => hr x (List.mem_cons_of_mem w hx)
      obtain ⟨hregs', hmarks'⟩ := l.takes_other n (hr w List.mem_cons_self)
      exact ⟨hregs.trans hregs', hmarks.trans hmarks'⟩

section
variable {s : State} {g w : Nat} {gang : Gang} {wave : Wave} (hg : aget s.gangs g = some gang)
  (hw : gang.waves[w]? = some wave)
include hg hw

theorem loadReply_stays {k : Nat} {p : PendingLoad} (hp : wave.loads[k]? = some p)
    (hno : s.portUp p.port = false ∨ p.returned = true) : exec (.loadReply g w k) s = .next s := by
  have e := exec_atWave hg hw (show exec (.loadReply g w k) s = execLoadReply g w k s from rfl)
  rw [e, hp]
  dsimp only
  rw [if_neg]
  rcases hno with h | h <;> simp [h]

theorem loadReply_lands {k : Nat} {p : PendingLoad} (hp : wave.loads[k]? = some p) (hup : s.portUp p.port = true)
    (hret : p.returned = false) (hd : p.writes.Pairwise (fun x y => x.lane ≠ y.lane ∨ x.reg ≠ y.reg)) :
    ∃ lanes spec, exec (.loadReply g w k) s = .next ((s.setWave g w { wave with
        core := { wave.core with lanes := lanes }, loads := wave.loads.eraseIdx k, spec := spec }).install p.lines) ∧
      (wave.spec = none → spec = none) ∧ (p.spec = true → spec = wave.spec) ∧
      LaneWise wave.core.lanes lanes (fun n l l' => l' = { l with regs := l'.regs, marks := l'.marks } ∧
        (∀ x ∈ p.writes, x.lane = n → Sparse.get 0 l'.regs x.reg = x.val ∧ Sparse.get false l'.marks x.reg = x.mark) ∧
        (∀ r, (∀ x ∈ p.writes, x.lane = n → x.reg ≠ r) → Sparse.get 0 l'.regs r = Sparse.get 0 l.regs r ∧
          Sparse.get false l'.marks r = Sparse.get false l.marks r)) := by
  have e := exec_atWave hg hw (show exec (.loadReply g w k) s = execLoadReply g w k s from rfl)
  rw [hp] at e
  dsimp only at e
  rw [hup, hret, if_pos (by simp)] at e
  refine ⟨_, if p.spec then wave.spec else wave.spec.map (fun sp => { sp with checkpoint := sp.checkpoint.land p.writes }),
    e, fun hs => ?_, fun hs => if_pos hs, mapIdx_laneWise _ _ _ fun n l _ => Lane.takes_all n hd l⟩
  rw [hs, Option.map_none, ite_self]

/-! ### Acknowledgements -/

theorem storeAck_takes (hup : ∀ p ∈ wave.stores, s.portUp p.port = true ∧ p.returned = false) (hne : wave.stores ≠ []) :
    ∃ k, k < wave.stores.length ∧
      exec (.storeAck g w) s = .next (s.setWave g w { wave with stores := wave.stores.eraseIdx k }) := by
  have e := exec_atWave hg hw (show exec (.storeAck g w) s = execStoreAck g w s from rfl)
  have hlt : s.choose 20 wave.stores.length < wave.stores.length := s.chooseAt_lt [20] (List.length_pos_iff.2 hne)
  have hget := List.getElem?_eq_getElem hlt
  obtain ⟨hport, hret⟩ := hup _ (List.getElem_mem hlt)
  dsimp only at e
  rw [hget] at e
  dsimp only at e
  rw [hport, hret, if_pos (by simp)] at e
  exact ⟨_, hlt, e⟩

theorem storeAck_stays (hdown : ∀ p ∈ wave.stores, s.portUp p.port = false ∨ p.returned = true) :
    exec (.storeAck g w) s = .next s := by
  have e := exec_atWave hg hw (show exec (.storeAck g w) s = execStoreAck g w s from rfl)
  rw [e]
  dsimp only
  cases hk : wave.stores[s.choose 20 wave.stores.length]? with
  | none => rfl
  | some p =>
    dsimp only
    rw [if_neg]
    rcases hdown p (List.mem_of_getElem? hk) with h | h <;> simp [h]

/-! ### MWAIT -/

theorem mwaitLoop_law {k : Nat} {e : Entry} {d : Reg} {expiry : Option Nat} (hk : wave.core.frontier[k]? = some e)
    (he : e.state = .blocked (.mwait d expiry)) (hlive : s.waveAlive g w gang wave = true) (needExpiry : Bool) :
    s.mwaitLoop g w k needExpiry =
      if needExpiry = true ∧ ¬ ∃ x, expiry = some x ∧ x ≤ (s.stack gang.stack).now then s
      else match s.mwaitPass g w gang wave e with
        | .read t core => t.mwaitEnd g w k gang wave core e d expiry
        | .wait t => t
        | .fault t => t := by
  rw [State.mwaitLoop, State.atWave_of hg hw, hk]
  dsimp only
  rw [he]
  dsimp only
  rw [hlive]
  refine ite_of_iff ?_ rfl rfl
  cases expiry <;> simp

end

theorem State.mwaitEnd_law (t : State) (g w k : Nat) (gang : Gang) (wave : Wave) (core : WaveCore) (e : Entry) (d : Reg)
    (expiry : Option Nat) :
    let due' := ∃ x, expiry = some x ∧ x ≤ (t.stack gang.stack).now
    let left := fun (c : WaveCore) => t.modWave g w (fun v => { v with
      core := c.leaveMwait k e d, progress := (t.stack gang.stack).now })
    (core.waitingLanes e = [] → t.mwaitEnd g w k gang wave core e d expiry = left core) ∧
    (core.waitingLanes e ≠ [] → t.flagFell gang wave = true →
      t.mwaitEnd g w k gang wave core e d expiry = left (core.giveStatus e 2)) ∧
    (core.waitingLanes e ≠ [] → t.flagFell gang wave = false → due' →
      t.mwaitEnd g w k gang wave core e d expiry = left (core.giveStatus e 1)) ∧
    (core.waitingLanes e ≠ [] → t.flagFell gang wave = false → ¬ due' →
      t.mwaitEnd g w k gang wave core e d expiry = t.modWave g w (fun v => { v with core := core })) := by
  intro due' left
  have hnot : core.waitingLanes e ≠ [] → ¬ (core.waitingLanes e).isEmpty = true := fun hne => by simpa using hne
  unfold State.mwaitEnd
  dsimp only
  refine ⟨fun hnil => ?_, fun hne hf => ?_, fun hne hf hdue => ?_, fun hne hf hdue => ?_⟩
  · rw [if_pos (by simpa using hnil)]
    rfl
  all_goals rw [if_neg (hnot hne), hf]
  · rw [if_pos rfl]
    rfl
  · obtain ⟨x, rfl, hx⟩ := hdue
    rw [if_neg (by simp), if_pos (by simpa using hx)]
    rfl
  · rw [if_neg (by simp), if_neg ?_]
    · rfl
    · cases expiry with
      | none => simp
      | some x => exact fun hx => hdue ⟨x, rfl, of_decide_eq_true hx⟩

theorem WaveCore.leaveMwait_lanes (core : WaveCore) (k : Nat) (e : Entry) (d : Reg) :
    LaneWise core.lanes (core.leaveMwait k e d).lanes (fun n l l' =>
      (has e.active n = false → l' = l) ∧
      (has e.active n = true → l' = { l.put32 d.toNat (l.mwait.getD 1) (l.mwait == some 4) with mwait := none })) := by
  refine mapIdx_laneWise _ _ _ fun n l _ => ⟨fun hn => if_neg (by rw [hn]; simp), fun hn => (if_pos hn).trans ?_⟩
  have hmark : (l.mwait.getD 1 == 4) = (l.mwait == some 4) := by
    cases l.mwait with
    | none => rfl
    | some v => rfl
  dsimp only
  rw [hmark]

/-- What the reads of a monitor's location tell its lane (R196). -/
def Monitor.verdict (m : Monitor) (xs : List Got) : Option W32 :=
  if xs.any (fun x => x.mark) then some 4 else if m.holds (leNat (xs.flatMap (fun x => x.bytes))) then some 0 else none

/-- The lane that they tell it to. -/
def Agent.judges (a : Agent) (m : Monitor) (xs : List Got) (l : Lane) : Lane :=
  { l with mwait := m.verdict xs, know := a.learn (m.verdict xs == some 0) (xs.flatMap (fun x => x.tops)) }

/-- One lane's reads, judged. -/
theorem State.readMonitors_one {t u : State} {g w n : Nat} {gang : Gang} {wave : Wave} {core : WaveCore} {m : Monitor}
    {ps : List (Target × Nat)} {xs : List Got}
    (h : State.readThrough ((t.laneAgent g w n (core.lane n) .sys).look [2, n]) gang.stack
      wave.coreId wave.slot (t.launchOf gang) ps t = some (xs, u)) :
    ∃ lanes, State.readMonitors g w gang wave [(n, m, ps)] t core = some (u, { core with lanes := lanes }) ∧
      LaneWise core.lanes lanes (fun j l l' => (j ≠ n → l' = l) ∧
        (j = n → l' = { l with know := l'.know, mwait := l'.mwait } ∧
          ((∃ x ∈ xs, x.mark = true) → l'.mwait = some 4) ∧
          ((∀ x ∈ xs, x.mark = false) → m.holds (leNat (xs.flatMap (fun x => x.bytes))) = true →
            l'.mwait = some 0) ∧
          ((∀ x ∈ xs, x.mark = false) → m.holds (leNat (xs.flatMap (fun x => x.bytes))) = false →
            l'.mwait = none))) := by
  have hread : State.readMonitors g w gang wave [(n, m, ps)] t core = some (u, core.mapLanes (fun j l =>
      if j = n then (t.laneAgent g w n (core.lane n) .sys).judges m xs l else l)) := by
    rw [State.readMonitors]
    dsimp only
    rw [h]
    rfl
  refine ⟨_, hread, mapIdx_laneWise _ _ _ fun j l _ => ⟨fun hj => if_neg hj, fun hj => ?_⟩⟩
  rw [if_pos hj]
  refine ⟨rfl, fun hmark => if_pos (by simpa using hmark), fun hclean hholds => ?_, fun hclean hholds => ?_⟩
  · exact (if_neg (by simpa using hclean)).trans (if_pos hholds)
  · exact (if_neg (by simpa using hclean)).trans (if_neg (Bool.eq_false_iff.1 hholds))

/-- Settles O46. -/
theorem memoryEvents : Obligations.MemoryEvents := by
  intro s g w gang wave hg hw
  refine ⟨fun k p hp hno => loadReply_stays hg hw hp hno, fun k p hp hup hret hd => loadReply_lands hg hw hp hup hret hd,
    storeAck_takes hg hw, storeAck_stays hg hw, fun k e d expiry hk he hlive => ?_⟩
  have hloop := mwaitLoop_law hg hw hk he hlive
  refine ⟨?_, fun hdue => ?_, fun hdue => ?_, fun t core => ?_⟩
  · exact congrArg _ ((hloop false).trans (if_neg (by simp)))
  · exact congrArg _ ((hloop true).trans (if_neg fun h => h.2 hdue))
  · exact congrArg _ ((hloop true).trans (if_pos ⟨rfl, hdue⟩))
  · obtain ⟨hall, hfell, hpast, hwait⟩ := t.mwaitEnd_law g w k gang wave core e d expiry
    exact ⟨hall, hfell, hpast, hwait, rfl, core.leaveMwait_lanes k e d, fun n m ps xs u h => State.readMonitors_one h⟩

end Sys2Proof.Machine
end

section
/-! SUPPORT. The event rings' registers, dispatch mode, the load of a complex and castling. -/
namespace Sys2Proof.Machine

/-! ### EVRING -/

theorem State.modStack_activeStack (s : State) (st : Nat) (f : Stack → Stack) (h : ∀ t, (f t).cpRole = t.cpRole) :
    (s.modStack st f).activeStack = s.activeStack := by
  have hrole : ((s.modStack st f).stack 6).cpRole = (s.stack 6).cpRole := State.modStack_stack_of h s st 6
  simp only [State.activeStack, hrole]

theorem Stack.answers_iff (t : Stack) : t.answers = true ↔ t.bootState = 4 := by
  simp only [Stack.answers, beq_iff_eq]

theorem evringWrite_stays (s : State) {st n : Nat} (v : Nat)
    (h : (st ≠ 0 ∧ st ≠ 6) ∨ 12 ≤ n ∨ (s.stack st).bootState ≠ 4) : exec (.evringWrite st n v) s = .next s := by
  show execEvringWrite st n v s = _
  unfold execEvringWrite
  refine if_pos ?_
  rcases h with ⟨h0, h6⟩ | h | h <;> simp [Stack.answers, *]

/-- The write sets the register; what else it does is as the active complex finds the ring. -/
theorem evringWrite_sets (s : State) {st n : Nat} (v : Nat) (hst : st = 0 ∨ st = 6) (hn : n < 12)
    (hb : (s.stack st).bootState = 4) :
    let block := v / 64 % 2 ^ 46 * 64
    let t := s.modStack st (fun k => { k with evring := k.evring.set n (BitVec.ofNat 64 (block + v % 2)) })
    exec (.evringWrite st n v) s =
      if st ≠ s.activeStack then .next t
      else if v % 2 ≠ 1 then .next (t.modPartition n (fun p => { p with evValid := false }))
      else if (t.ringBlock block).ok = false then
        .next (t.modPartition n (fun p => { p with evValid := false, evBlock := block }))
      else if t.snoopLines block 64 true ≠ [] then .next (t.backInvalidate (t.snoopLines block 64 true))
      else
        let u := t.modPartition n (fun p => { p with evValid := true, evBlock := block, evDropped := 0 })
        if (t.partition n).evDropped = 0 then .next u
        else .next (u.putDevice (block + 40) (natLe 8 (u.readNat (block + 40) 8 + (t.partition n).evDropped))) := by
  intro block t
  show execEvringWrite st n v s = _
  unfold execEvringWrite
  rw [if_neg (by rcases hst with rfl | rfl <;> simp [Stack.answers, hb, hn])]
  have ha : t.activeStack = s.activeStack := State.modStack_activeStack _ _ _ fun _ => rfl
  show (if st ≠ t.activeStack then _ else _) = _
  simp only [ha, Bool.not_eq_true', beq_eq_false_iff_ne, List.isEmpty_eq_false_iff]
  rfl

/-! ### Dispatch mode -/

theorem sdmodeWrite_law (s : State) (st v : Nat) : exec (.sdmodeWrite st v) s =
    if s.complexRuns = true ∧ (s.stack st).bootState = 4 then
      .next (s.modStack st (fun k => { k with sdMode := v % 2 == 1 }))
    else .next s := by
  show execSdmodeWrite st v s = _
  simp only [execSdmodeWrite, Bool.and_eq_true, Stack.answers_iff]

/-! ### The load of a complex -/

theorem cpLoad_stays (s : State) {cp : Nat} {done : Bool} (h : (cp ≠ 0 ∧ cp ≠ 6) ∨ (s.stack cp).bootState ≠ 4 ∨
    (s.stack cp).cpRole = true ∨ s.castling.isSome = true ∨ (done = false ∧ (s.stack cp).cpState = 1)) :
    exec (.cpLoad cp done) s = .next s := by
  show execCpLoad cp s done = _
  unfold execCpLoad
  rcases h with ⟨h0, h6⟩ | h | h | h | ⟨rfl, h⟩
  · exact if_pos (by simp [h0, h6])
  · exact if_pos (by simp [Stack.answers, h])
  · exact if_pos (by simp [h])
  · exact if_pos (by simp [h])
  · simp [h]

/-- A complex that may be loaded: it is on a stack that is ready, it is not the active one, and no castling runs. -/
def State.Loadable (s : State) (cp : Nat) : Prop :=
  (cp = 0 ∨ cp = 6) ∧ (s.stack cp).bootState = 4 ∧ (s.stack cp).cpRole = false ∧ s.castling = none

theorem State.Loadable.starts {s : State} {cp : Nat} (h : s.Loadable cp)
    (hc : (s.stack cp).cpState = 0 ∨ (s.stack cp).cpState = 2 ∨ (s.stack cp).cpState = 5) :
    exec (.cpLoad cp false) s = .next (s.modStack cp (fun x => { x with cpState := 1 })) := by
  obtain ⟨hcp, hb, hr, hn⟩ := h
  show execCpLoad cp s false = _
  unfold execCpLoad
  rw [if_neg (by rcases hcp with rfl | rfl <;> simp [Stack.answers, hb, hr, hn]), if_neg (by simp)]
  exact if_pos (by rcases hc with hc | hc | hc <;> simp [hc])

theorem State.Loadable.ends {s : State} {cp : Nat} (h : s.Loadable cp) (hc : (s.stack cp).cpState = 1) :
    exec (.cpLoad cp true) s = .next (s.loaded cp) := by
  obtain ⟨hcp, hb, hr, hn⟩ := h
  show execCpLoad cp s true = _
  unfold execCpLoad
  rw [if_neg (by rcases hcp with rfl | rfl <;> simp [Stack.answers, hb, hr, hn]), if_pos rfl, if_pos (by simp [hc])]

theorem State.loaded_image (s : State) (cp : Nat) {image : List Byte}
    (hi : s.readImage cp 1 (s.stack cp).cpArg.toNat = .ok image) : s.loaded cp =
    if pkt image 8 4 < (s.stack cp).minFirmware then s.modStack cp (fun x => { x with cpState := 5, bootError := 7 })
    else s.booted cp image := by
  simp only [State.loaded, hi]

theorem State.loaded_error (s : State) (cp : Nat) {code : Nat}
    (hi : s.readImage cp 1 (s.stack cp).cpArg.toNat = .error code) :
    s.loaded cp = s.modStack cp (fun x => { x with cpState := 5, bootError := code }) := by
  simp only [State.loaded, hi]

theorem State.loaded_wait (s : State) (cp : Nat) {lines : List Nat}
    (hi : s.readImage cp 1 (s.stack cp).cpArg.toNat = .wait lines) : s.loaded cp = s.backInvalidate lines := by
  simp only [State.loaded, hi]

/-! ### Castling -/

theorem cpCastle_law (s : State) : exec .cpCastle s =
    if s.complexRuns = true ∧ (s.stack s.standbyStack).cpState = 2 then
      .next { s with castling := some ⟨s.activeNow, none⟩ }
    else .next s := by
  show execCpCastle s = _
  simp only [execCpCastle, Bool.and_eq_true, beq_iff_eq]

/-- While castling runs, an import writes the table, takes it or aborts; past its time it aborts. -/
theorem castlingImport_law (s : State) (errors : Nat) {c : Castling} (hc : s.castling = some c) :
    exec (.castlingImport errors) s =
      if 50000 < s.activeNow - c.start then .next (s.castlingAborts 1)
      else match c.table with
      | none =>
        if s.packetBoundary = true then
          .next { s.modStack s.standbyStack (fun t => { t with cpState := 3 }) with
            castling := some { c with table := some s.stateTable } }
        else .next s
      | some table =>
        let v := (s.stack s.standbyStack).cpVersion
        let read := flipBytes table errors
        if tableOk (Config.tableImports v) (Config.tableKnows v) read = true then .next (s.castled read)
        else .next (s.castlingAborts 2) := by
  show execCastlingImport errors s = _
  simp only [execCastlingImport, State.castlingTime, hc, Option.map_some, Option.getD_some] <;> rfl

theorem castlingTimeout_law (s : State) {c : Castling} (hc : s.castling = some c) :
    exec .castlingTimeout s =
      if 50000 ≤ s.activeNow - c.start then .next (s.castlingAborts 1) else .next s := by
  show execCastlingTimeout s = _
  simp only [execCastlingTimeout, State.castlingTime, hc, Option.map_some, Option.getD_some, Option.isSome_some,
    Bool.true_and, decide_eq_true_eq]

/-- Settles O54. -/
theorem complexEvents : Obligations.ComplexEvents := by
  intro s
  refine ⟨fun st n v h => evringWrite_stays s v h, ?rings, ?mode, ?effect, ?load, fun cp done h => cpLoad_stays s h,
    fun hr hs => (cpCastle_law s).trans (if_pos ⟨hr, hs⟩), fun h => (cpCastle_law s).trans (if_neg ?_), ?castling,
    fun hc => ⟨fun errors => ?_, ?_⟩, fun hr hb => ?off⟩
  case rings =>
    intro st n v hst hn hb block t
    have hlaw := evringWrite_sets s v hst hn hb
    refine ⟨fun ha => hlaw.trans (if_pos ha), fun ha h0 => ?_, fun ha h1 hok => ?_, fun ha h1 hok hl => ?_,
      fun ha h1 hok hl hd => ?_⟩ <;> refine hlaw.trans ((if_neg (not_not_intro ha)).trans ?_)
    · exact if_pos (by omega)
    · exact (if_neg (not_not_intro h1)).trans (if_pos hok)
    · exact (if_neg (not_not_intro h1)).trans ((if_neg (ne_false_of_eq_true hok)).trans (if_pos hl))
    · exact (if_neg (not_not_intro h1)).trans ((if_neg (ne_false_of_eq_true hok)).trans
        ((if_neg (not_not_intro hl)).trans (if_pos hd)))
  case mode =>
    intro st v
    exact ⟨fun hr hb => (sdmodeWrite_law s st v).trans (if_pos ⟨hr, hb⟩),
      fun h => (sdmodeWrite_law s st v).trans (if_neg (by rcases h with h | h <;> simp [h]))⟩
  case effect =>
    intro st
    refine ⟨fun hb hr => if_pos ?_, fun hb => if_neg (by simp [hb])⟩
    simpa [hb] using hr
  case load =>
    intro cp hcp hb hr hn
    have hl : s.Loadable cp := ⟨hcp, hb, hr, hn⟩
    refine ⟨hl.starts, fun h1 => ⟨fun lines hi => ?_, fun code hi => ?_, fun image hi => ⟨fun hv => ?_, fun hv => ?_⟩⟩⟩ <;>
      refine (hl.ends h1).trans (congrArg _ ?_)
    · exact s.loaded_wait cp hi
    · exact s.loaded_error cp hi
    · exact (s.loaded_image cp hi).trans (if_pos hv)
    · exact (s.loaded_image cp hi).trans (if_neg (Nat.not_lt.2 hv))
  case castling =>
    intro c hc new v
    have hlaw := fun errors => castlingImport_law s errors hc
    have htime := castlingTimeout_law s hc
    refine ⟨fun hle hn hb errors => ?_, fun hle hn hb errors => ?_,
      fun table errors hle ht => ⟨fun hok => ?_, fun hok => ?_⟩, fun hlt errors => ?_, fun h => htime.trans (if_pos h),
      fun h => htime.trans (if_neg (Nat.not_le.2 h))⟩
    · rw [hlaw, if_neg (Nat.not_lt.2 hle)]
      simp only [hn, hb, if_true]
      rfl
    · rw [hlaw, if_neg (Nat.not_lt.2 hle)]
      simp [hn, hb]
    · rw [hlaw, if_neg (Nat.not_lt.2 hle)]
      simp only [ht]
      exact if_pos hok
    · rw [hlaw, if_neg (Nat.not_lt.2 hle)]
      simp only [ht]
      exact if_neg (ne_true_of_eq_false hok)
    · rw [hlaw, if_pos hlt]
  case off =>
    show execCpPowerOff s = _
    unfold execCpPowerOff
    exact if_neg (by simp [Stack.answers, hr, hb])
  · rcases h with h | h <;> simp [h]
  · show execCastlingImport errors s = _
    simp only [execCastlingImport, hc]
  · exact if_neg (by simp [hc])

end Sys2Proof.Machine
end

section
/-! SUPPORT. Kicks, the fetching of packets, their completion and the status block. -/
namespace Sys2Proof.Machine

/-! ### Kicks -/

theorem kick_raises (s : State) {port k : Nat} (v : Nat) {x : Queue} (hx : aget s.queues k = some x)
    (hen : (s.stack port).enable = true) (hp : (s.stack port).partNum = s.queuePartition x) :
    exec (.kick port k 8 v) s =
      .next { s with queues := amod s.queues k (fun y => { y with kicked := max y.kicked (v % 2 ^ 64) }) } := by
  show execKick port k 8 v s = _
  simp only [execKick, hx]
  exact if_pos ⟨trivial, hen, hp⟩

theorem kick_drops (s : State) (port k n v : Nat) (h : aget s.queues k = none ∨ n ≠ 8 ∨ (s.stack port).enable = false ∨
    ∀ x, aget s.queues k = some x → (s.stack port).partNum ≠ s.queuePartition x) :
    exec (.kick port k n v) s =
      .next (s.modStack port (fun x => { x with droppedKicks := x.droppedKicks + 1 })) := by
  show execKick port k n v s = _
  cases hx : aget s.queues k with
  | none => simp only [execKick, hx]
  | some x =>
    simp only [execKick, hx]
    refine if_neg fun ⟨hn, hen, hp⟩ => ?_
    rcases h with h | h | h | h
    · exact absurd (hx.symm.trans h) (by simp)
    · exact h hn
    · exact ne_true_of_eq_false h hen
    · exact h x hx hp

/-! ### What works on a queue -/

theorem Worked.onQueue {s : State} {k : Nat} {q : Queue} (h : Worked s k q) (f : Queue → State) :
    s.onQueue k f = f q := by
  obtain ⟨hk, hr, hd⟩ := h
  simp only [State.onQueue, hk, hd, Bool.false_and, Bool.false_eq_true, if_false, hr, if_true]

theorem State.onQueue_stopped {s : State} {k : Nat} {q : Queue} (hk : aget s.queues k = some q) (hs : q.stopped = true)
    (hd : q.statusDue = false) (f : Queue → State) : s.onQueue k f = s := by
  simp [State.onQueue, hk, hd, State.queueRuns, hs]

theorem State.readDependence_none {s : State} {l : Nat} (h : aget s.launches l = none) : s.readDependence l = s := by
  unfold State.readDependence
  rw [h]

/-! ### The start of a packet -/

/-- A packet of its kind that may start does so, and ends as its start says. -/
theorem Worked.packet_begins {s : State} {k kind : Nat} {q : Queue} (h : Worked s k q) (hm : q.mayStart = true)
    (hc : s.castling = none) (hk : pktKind q.packet = kind) (start : Queue → Nat → List Byte → Begun) :
    s.packet k kind start = (start q (q.consumed - 1) q.packet).ends k (q.consumed - 1) s := by
  refine (h.onQueue _).trans ?_
  dsimp only
  rw [if_neg (by simp [hm, hc, hk])]
  generalize start q (q.consumed - 1) q.packet = b
  cases b <;> rfl

theorem Worked.packet_stays {s : State} {k kind : Nat} {q : Queue} (h : Worked s k q)
    (hn : q.mayStart = false ∨ pktKind q.packet ≠ kind) (start : Queue → Nat → List Byte → Begun) :
    s.packet k kind start = s := by
  refine (h.onQueue _).trans (if_pos ?_)
  rcases hn with hn | hn <;> simp [hn]

/-! ### Fetching -/

/-- The three events that fetch, each in its phase, go on to read the mark and the body. -/
theorem Worked.fetches {s : State} {k : Nat} {q : Queue} (h : Worked s k q) :
    (s.castling = none ∧ q.phase = .idle ∧ q.consumed < q.kicked →
      exec (.packetFetch k) s = .next (s.fetchPacket k q)) ∧
    (s.castling = none ∧ q.phase = .marking → exec (.markReread k) s = .next (s.fetchPacket k q)) ∧
    ((∃ n, q.phase = .checking n) → exec (.bodyCheckRetry k) s = .next (s.fetchPacket k q)) := by
  refine ⟨fun ⟨hc, hp, hlt⟩ => ?_, fun ⟨hc, hp⟩ => ?_, fun ⟨n, hp⟩ => ?_⟩
  · show execPacketFetch k s = _
    refine congrArg _ ((h.onQueue _).trans (if_neg ?_))
    simp [hc, hp, hlt]
  · show execMarkReread k s = _
    refine congrArg _ ((h.onQueue _).trans (if_pos ?_))
    simp [hc, hp]
  · show execBodyCheckRetry k s = _
    refine congrArg _ ((h.onQueue _).trans ?_)
    rw [hp]

theorem Worked.fetch_stays {s : State} {k : Nat} {q : Queue} (h : Worked s k q)
    (hn : s.castling.isSome = true ∨ q.phase ≠ .idle ∨ q.kicked ≤ q.consumed) : exec (.packetFetch k) s = .next s := by
  show execPacketFetch k s = _
  refine congrArg _ ((h.onQueue _).trans (if_pos ?_))
  rcases hn with hn | hn | hn <;> simp [hn]

/-- The reader of a mark: the active complex, which knows nothing yet. -/
def State.markReader (s : State) : Agent := { s.cpAgent with know := Know.start [] }

/-- The mark of a queue's next slot, as it is read. -/
def State.readMark (s : State) (q : Queue) : CpRead := s.cpReadAs s.markReader q (q.slot q.consumed) 4

/-- The body of a queue's next slot, as it is read after its mark. -/
def State.readBody (s : State) (q : Queue) (known : Know) : CpRead :=
  s.cpReadAs { s.markReader with know := known } q (q.slot q.consumed) 64

theorem State.fetchPacket_overrun (s : State) (k : Nat) (q : Queue) (h : q.consumed + 2 ^ q.size < q.kicked) :
    s.fetchPacket k q = s.stopQueue k 2 0 q.consumed := by
  unfold State.fetchPacket
  exact if_pos (by simp [Queue.overrun, h])

/-- Where the mark cannot be read, the queue waits or stops. -/
theorem State.fetchPacket_unread (s : State) (k : Nat) (q : Queue) (h : q.kicked ≤ q.consumed + 2 ^ q.size) :
    (∀ page, s.readMark q = .hold page → s.fetchPacket k q = s.cpHold k q page) ∧
    (∀ lines, s.readMark q = .recall lines → s.fetchPacket k q = s.backInvalidate lines) ∧
    (s.readMark q = .refused → s.fetchPacket k q = s.stopQueue k 8 0 q.consumed) := by
  have hno : ¬ q.overrun = true := by simpa [Queue.overrun] using h
  unfold State.readMark State.markReader State.fetchPacket
  simp only [if_neg hno]
  exact ⟨fun page hm => by rw [hm], fun lines hm => by rw [hm], fun hm => by rw [hm]⟩

theorem State.fetchPacket_wrongMark (s : State) (k : Nat) (q : Queue) (h : q.kicked ≤ q.consumed + 2 ^ q.size)
    {bs : List Byte} {known : Know} (hm : s.readMark q = .ok bs known) (hw : leNat bs ≠ (q.consumed + 1) % 2 ^ 32) :
    s.fetchPacket k q = s.modQueue k (fun x => { x with phase := .marking }) := by
  have hno : ¬ q.overrun = true := by simpa [Queue.overrun] using h
  unfold State.readMark State.markReader at hm
  unfold State.fetchPacket
  simp only [if_neg hno, hm]
  exact if_pos hw

/-- With the mark right, the body decides. -/
theorem State.fetchPacket_body (s : State) (k : Nat) (q : Queue) (h : q.kicked ≤ q.consumed + 2 ^ q.size)
    {bs : List Byte} {known : Know} (hm : s.readMark q = .ok bs known) (hr : leNat bs = (q.consumed + 1) % 2 ^ 32) :
    (∀ page, s.readBody q known = .hold page → s.fetchPacket k q = s.cpHold k q page) ∧
    (∀ lines, s.readBody q known = .recall lines → s.fetchPacket k q = s.backInvalidate lines) ∧
    (s.readBody q known = .refused → s.fetchPacket k q = s.stopQueue k 8 0 q.consumed) ∧
    (∀ cs learnt, s.readBody q known = .ok cs learnt →
      (q.checked (bs ++ cs.drop 4) = true → s.fetchPacket k q =
        (({ s with cpKnow := { s.cpKnow with view := Seen.join s.cpKnow.view known.view } } : State).modQueue k
          (fun x => { x with view := known.view })).takePacket k { q with view := known.view } (bs ++ cs.drop 4)) ∧
      (∀ n, q.checked (bs ++ cs.drop 4) = false → q.phase = .checking n → s.fetchPacket k q =
        if 7 ≤ n then s.stopQueue k 3 0 q.consumed
        else s.modQueue k (fun x => { x with phase := .checking (n + 1) })) ∧
      (q.checked (bs ++ cs.drop 4) = false → (∀ n, q.phase ≠ .checking n) →
        s.fetchPacket k q = s.modQueue k (fun x => { x with phase := .checking 0 }))) := by
  have hno : ¬ q.overrun = true := by simpa [Queue.overrun] using h
  unfold State.readMark State.markReader at hm
  unfold State.readBody State.markReader State.fetchPacket
  simp only [if_neg hno, hm, if_neg (not_not_intro hr)]
  refine ⟨fun page hb => by rw [hb], fun lines hb => by rw [hb], fun hb => by rw [hb], fun cs learnt hb => ?_⟩
  simp only [hb]
  refine ⟨fun hok => if_pos hok, fun n hok hp => (if_neg (ne_true_of_eq_false hok)).trans (by rw [hp]),
    fun hok hp => (if_neg (ne_true_of_eq_false hok)).trans ?_⟩
  cases hph : q.phase with
  | checking n => exact absurd hph (hp n)
  | _ => rfl

/-! ### A packet is taken -/

theorem State.logPacket_unlogged {s : State} (k : Nat) (q : Queue) (bs : List Byte)
    (h : ∀ p ∈ s.launches, p.2.desc.capture = false) : s.logPacket k q bs = some s := by
  unfold State.logPacket
  generalize s.launches = ls at h
  induction ls with
  | nil => rfl
  | cons p ls ih =>
    have hp : p.2.desc.capture = false := h p List.mem_cons_self
    simp only [List.foldl_cons, hp, Bool.and_false, Bool.false_eq_true, if_false]
    exact ih fun x hx => h x (List.mem_cons_of_mem _ hx)

/-- Outside a captured launch the packet is consumed, and its own bytes say whether the queue stops. -/
theorem State.takePacket_law (s : State) (k : Nat) (q : Queue) (bs : List Byte)
    (h : ∀ p ∈ s.launches, p.2.desc.capture = false) :
    let t := (s.modQueue k (fun x => { x with consumed := q.consumed + 1, packet := bs, phase := .fetched })).writeStatus k
    s.takePacket k q bs = if t.packetError q bs = 0 then t
      else (t.modQueue k (fun x => { x with phase := .idle })).stopQueue k (t.packetError q bs) 0 q.consumed := by
  simp only [State.takePacket, State.logPacket_unlogged k q bs h]

/-! ### Completion -/

theorem advanceOver_law (ahead : List Nat) (fuel c : Nat) :
    c ≤ advanceOver c ahead fuel ∧ (∀ j, c ≤ j → j < advanceOver c ahead fuel → j ∈ ahead) ∧
    (advanceOver c ahead fuel ∉ ahead ∨ advanceOver c ahead fuel = c + fuel) := by
  induction fuel generalizing c with
  | zero => exact ⟨Nat.le_refl _, fun j hj hlt => absurd hlt (Nat.not_lt.2 hj), Or.inr rfl⟩
  | succ fuel ih =>
    unfold advanceOver
    split
    next hc =>
      obtain ⟨hle, hall, hend⟩ := ih (c + 1)
      refine ⟨by omega, fun j hj hlt => ?_, hend.imp id (by omega)⟩
      rcases Nat.eq_or_lt_of_le hj with rfl | hj
      · exact List.contains_iff_mem.1 hc
      · exact hall j hj hlt
    next hc =>
      exact ⟨Nat.le_refl _, fun j hj hlt => absurd hlt (Nat.not_lt.2 hj),
        Or.inl fun hm => hc (List.contains_iff_mem.2 hm)⟩

/-- As many steps as there are numbers lead past all of them. -/
theorem advanceOver_ends (ahead : List Nat) (c : Nat) : advanceOver c ahead ahead.length ∉ ahead := by
  obtain ⟨_, hall, hend⟩ := advanceOver_law ahead ahead.length c
  rcases hend with h | h
  · exact h
  · intro hm
    have hsub : List.range' c (ahead.length + 1) ⊆ ahead := by
      intro j hj
      obtain ⟨hle, hlt⟩ := List.mem_range'_1.1 hj
      rcases Nat.lt_or_ge j (c + ahead.length) with hj | hj
      · exact hall j hle (by omega)
      · exact (show j = advanceOver c ahead ahead.length by omega) ▸ hm
    have hlen := List.Nodup.length_le_of_subset List.nodup_range' hsub
    rw [List.length_range'] at hlen
    omega

/-! ### The status block -/

theorem leNat_field (k n : Nat) (tail : List Byte) : leNat ((natLe k n ++ tail).take k) = n % 256 ^ k := by
  rw [List.take_append_of_le_length (Nat.le_of_eq (natLe_length k n).symm),
    List.take_of_length_le (Nat.le_of_eq (natLe_length k n)), leNat_natLe]

theorem drop_field (k j n : Nat) (tail : List Byte) : (natLe k n ++ tail).drop (k + j) = tail.drop j := by
  rw [List.drop_append, natLe_length, List.drop_of_length_le (by rw [natLe_length]; omega), List.nil_append,
    Nat.add_sub_cancel_left]

theorem Queue.statusBytes_fields (q : Queue) :
    q.statusBytes.length = 32 ∧ leNat (q.statusBytes.take 8) = q.consumed % 2 ^ 64 ∧
    leNat ((q.statusBytes.drop 8).take 8) = q.completed % 2 ^ 64 ∧
    leNat ((q.statusBytes.drop 16).take 4) = q.error % 2 ^ 32 ∧
    leNat ((q.statusBytes.drop 20).take 4) = q.detail % 2 ^ 32 ∧
    leNat ((q.statusBytes.drop 24).take 8) = q.index % 2 ^ 64 := by
  have h : q.statusBytes = natLe 8 q.consumed ++ (natLe 8 q.completed ++ (natLe 4 q.error ++ (natLe 4 q.detail ++
      (natLe 8 q.index ++ [])))) := by
    simp only [Queue.statusBytes, List.append_assoc, List.append_nil]
  have h8 := drop_field 8 0 q.consumed (natLe 8 q.completed ++ (natLe 4 q.error ++ (natLe 4 q.detail ++
    (natLe 8 q.index ++ []))))
  have h16 := drop_field 8 8 q.consumed (natLe 8 q.completed ++ (natLe 4 q.error ++ (natLe 4 q.detail ++
    (natLe 8 q.index ++ []))))
  have h20 := drop_field 8 12 q.consumed (natLe 8 q.completed ++ (natLe 4 q.error ++ (natLe 4 q.detail ++
    (natLe 8 q.index ++ []))))
  have h24 := drop_field 8 16 q.consumed (natLe 8 q.completed ++ (natLe 4 q.error ++ (natLe 4 q.detail ++
    (natLe 8 q.index ++ []))))
  rw [drop_field 8 0] at h16
  rw [drop_field 8 4, drop_field 4 0] at h20
  rw [drop_field 8 8, drop_field 4 4, drop_field 4 0] at h24
  rw [h]
  refine ⟨by simp [natLe_length], leNat_field .., ?_, ?_, ?_, ?_⟩
  · exact (congrArg (fun bs => leNat (List.take 8 bs)) h8).trans (leNat_field ..)
  · exact (congrArg (fun bs => leNat (List.take 4 bs)) h16).trans (leNat_field ..)
  · exact (congrArg (fun bs => leNat (List.take 4 bs)) h20).trans (leNat_field ..)
  · exact (congrArg (fun bs => leNat (List.take 8 bs)) h24).trans (leNat_field ..)

/-- Settles O52. -/
theorem queueEvents : Obligations.QueueEvents := by
  refine ⟨fun s port k v x hx hen hp => kick_raises s v hx hen hp, kick_drops, ?works, ?stopped, ?completes,
    Queue.statusBytes_fields⟩
  case works =>
    intro s k q hw
    refine ⟨fun e he hdue => ?_, hw.fetch_stays, fun bs hc => ?_⟩
    · have hex : exec e.1 s = .next (s.fetchPacket k q) := by
        obtain ⟨hfetch, hmark, hcheck⟩ := hw.fetches
        simp only [List.mem_cons, List.not_mem_nil, or_false] at he
        rcases he with rfl | rfl | rfl
        · exact hfetch hdue
        · exact hmark hdue
        · exact hcheck hdue
      rw [hex]
      refine ⟨fun h => congrArg _ (s.fetchPacket_overrun k q h), fun h => ?_⟩
      obtain ⟨hhold, hrecall, hrefused⟩ := s.fetchPacket_unread k q h
      refine ⟨fun page hm => congrArg _ (hhold page hm), fun lines hm => congrArg _ (hrecall lines hm),
        fun hm => congrArg _ (hrefused hm),
        fun bs known hm hr => congrArg _ (s.fetchPacket_wrongMark k q h hm hr), fun bs known hm hr => ?_⟩
      obtain ⟨bhold, brecall, brefused, bok⟩ := s.fetchPacket_body k q h hm hr
      refine ⟨fun page hb => congrArg _ (bhold page hb), fun lines hb => congrArg _ (brecall lines hb),
        fun hb => congrArg _ (brefused hb), fun cs learnt hb => ?_⟩
      obtain ⟨hgood, hagain, hfirst⟩ := bok cs learnt hb
      exact ⟨fun hok => congrArg _ (hgood hok), fun n hok hp => congrArg _ (hagain n hok hp),
        fun hok hp => congrArg _ (hfirst hok hp)⟩
    · exact ⟨fun h0 => (s.takePacket_law k q bs hc).trans (if_pos h0),
        fun h0 => (s.takePacket_law k q bs hc).trans (if_neg h0)⟩
  case stopped =>
    intro s k q hk hs hd hl e he
    have hq := State.onQueue_stopped hk hs hd
    simp only [List.mem_cons, List.not_mem_nil, or_false] at he
    rcases he with rfl | rfl | rfl | rfl | rfl | rfl
    · exact congrArg _ (hq _)
    · exact congrArg _ (hq _)
    · exact congrArg _ (hq _)
    · exact congrArg _ ((congrArg (fun t => State.readDependence t s.nextId) (hq _)).trans
        (State.readDependence_none hl))
    · exact congrArg _ (hq _)
    · exact congrArg _ (hq _)
  case completes =>
    intro q i
    obtain ⟨hle, hall, _⟩ := advanceOver_law (i :: q.doneAhead) (i :: q.doneAhead).length q.completed
    exact ⟨rfl, hle, advanceOver_ends _ _, hall⟩

end Sys2Proof.Machine
end

section
/-! SUPPORT. Writes and reads of control-space registers, bank modes, PARTCFG, the scrub and ring transfers. -/
namespace Sys2Proof.Machine

/-! ### Register writes -/

theorem registerWrite_misaligned (s : State) (st : Nat) {off : Nat} (v : Nat) (h : off % 8 ≠ 0) :
    exec (.registerWrite st off v) s = .next s := if_pos h

/-- A route is written by the active complex, in a stack that answers. -/
theorem registerWrite_route (s : State) (st : Nat) {off : Nat} (v : Nat) (ha : off % 8 = 0) (hr : 0x1000 ≤ off ∧ off < 0x1200) :
    exec (.registerWrite st off v) s = .next (if s.complexRuns = true ∧ (s.stack st).bootState = 4 then
      s.modStack st (fun t => { t with routes := writePair t.routes ((off - 0x1000) / 8) true v }) else s) := by
  show execRegisterWrite st off v s = _
  unfold execRegisterWrite
  rw [if_neg (not_not_intro ha), if_pos hr]
  simp only [Bool.and_eq_true, Stack.answers_iff]
  split <;> rfl

/-- Any other register takes the write of the boot registers, and that of the others in a stack that answers. -/
theorem registerWrite_ready (s : State) {st off : Nat} (v : Nat) (ha : off % 8 = 0) (hr : ¬ (0x1000 ≤ off ∧ off < 0x1200))
    (hb : (s.stack st).bootState = 4) : exec (.registerWrite st off v) s =
      .next (s.modStack st (fun t => (t.writeBoot off v).writeReady (st == 0 || st == 6) off v)) := by
  show execRegisterWrite st off v s = _
  unfold execRegisterWrite
  rw [if_neg (not_not_intro ha), if_neg hr]
  simp only [Stack.answers_iff, hb, if_true, State.modStack_modStack]

theorem registerWrite_unready (s : State) {st off : Nat} (v : Nat) (ha : off % 8 = 0) (hr : ¬ (0x1000 ≤ off ∧ off < 0x1200))
    (hb : (s.stack st).bootState ≠ 4) : exec (.registerWrite st off v) s =
      .next (s.modStack st (fun t => t.writeBoot off v)) := by
  show execRegisterWrite st off v s = _
  unfold execRegisterWrite
  rw [if_neg (not_not_intro ha), if_neg hr]
  simp only [Stack.answers_iff, hb, if_false]

/-- A write that sets the same fields of every stack, ready or not. -/
theorem registerWrite_sets (s : State) (st : Nat) {off : Nat} (v : Nat) (ha : off % 8 = 0) (hr : ¬ (0x1000 ≤ off ∧ off < 0x1200))
    {f : Stack → Stack} (hf : ∀ t : Stack, t.writeBoot off v = f t)
    (hg : ∀ (t : Stack) complex, t.writeReady complex off v = t) :
    exec (.registerWrite st off v) s = .next (s.modStack st f) := by
  obtain hf : (fun t : Stack => t.writeBoot off v) = f := funext hf
  by_cases hb : (s.stack st).bootState = 4
  · rw [registerWrite_ready s v ha hr hb]
    simp only [hg, hf]
  · rw [registerWrite_unready s v ha hr hb, hf]

/-- A write that sets fields of a stack that answers. -/
theorem registerWrite_readySets (s : State) {st off : Nat} (v : Nat) (hb : (s.stack st).bootState = 4)
    (ha : off % 8 = 0) (hr : ¬ (0x1000 ≤ off ∧ off < 0x1200)) {f : Stack → Stack} (hf : ∀ t : Stack, t.writeBoot off v = t)
    (hg : ∀ t : Stack, t.writeReady (st == 0 || st == 6) off v = f t) :
    exec (.registerWrite st off v) s = .next (s.modStack st f) := by
  rw [registerWrite_ready s v ha hr hb]
  simp only [hf, hg]

theorem Stack.writeBoot_other (t : Stack) {off : Nat} (v : Nat) (h : ¬ (0x510 ≤ off ∧ off < 0x540)) :
    t.writeBoot off v = t := by
  unfold Stack.writeBoot
  rw [if_neg (by omega), if_neg (by omega), if_neg (by omega)]

theorem registerWrite_bootOnly (s : State) {st off : Nat} (v : Nat) (hb : (s.stack st).bootState ≠ 4)
    (h : ¬ (0x510 ≤ off ∧ off < 0x540)) : exec (.registerWrite st off v) s = .next s := by
  by_cases ha : off % 8 = 0
  · by_cases hr : 0x1000 ≤ off ∧ off < 0x1200
    · exact (registerWrite_route s st v ha hr).trans (congrArg _ (if_neg fun hc => hb hc.2))
    · rw [registerWrite_unready s v ha hr hb]
      exact congrArg _ (State.modStack_self (Stack.writeBoot_other _ v h))
  · exact registerWrite_misaligned s st v ha

theorem writePair_even (xs : List (W64 × W64)) {k e : Nat} (routes : Bool) (v : Nat) (hk : k = 2 * e) :
    writePair xs k routes v = xs.modify e (fun p => (windowBase routes v, p.2)) := by
  subst hk
  simp [writePair]

theorem writePair_odd (xs : List (W64 × W64)) {k e : Nat} (routes : Bool) (v : Nat) (hk : k = 2 * e + 1) :
    writePair xs k routes v = xs.modify e (fun p => (p.1, windowEnd routes v)) := by
  subst hk
  simp [writePair, show (2 * e + 1) / 2 = e by omega]

theorem windowBase_window (v : Nat) : windowBase false v = BitVec.ofNat 64 (bitsFrom v 51 30 * 2 ^ 30 + v % 2) := by
  simp only [windowBase, Bool.false_eq_true, if_false, Nat.add_zero]

theorem windowEnd_window (v : Nat) : windowEnd false v = BitVec.ofNat 64 (bitsFrom v 51 30 * 2 ^ 30) := by
  simp only [windowEnd, Bool.false_eq_true, if_false, Nat.add_zero]

theorem Stack.writeReady_argument (t : Stack) (complex : Bool) (v : Nat) : t.writeReady complex 0x210 v =
    if complex = true then { t with cpArg := BitVec.ofNat 64 v } else t := by
  unfold Stack.writeReady
  exact if_pos rfl

theorem Stack.writeReady_window (t : Stack) (complex : Bool) {off : Nat} (v : Nat) (h : 0x400 ≤ off ∧ off < 0x480) :
    t.writeReady complex off v = { t with windows := writePair t.windows ((off - 0x400) / 8) false v } := by
  unfold Stack.writeReady
  rw [if_neg (by omega), if_neg (by omega), if_pos h]

theorem Stack.writeBoot_nonce (t : Stack) {k : Nat} (v : Nat) (hk : k < 4) :
    t.writeBoot (0x520 + 8 * k) v = { t with attNonce := writeWord t.attNonce 32 k v } := by
  unfold Stack.writeBoot
  rw [if_neg (by omega), if_neg (by omega), if_pos (by omega), show (0x520 + 8 * k - 0x520) / 8 = k by omega]

theorem Stack.writeReady_nonce (t : Stack) (complex : Bool) {k : Nat} (v : Nat) (hk : k < 4) :
    t.writeReady complex (0x520 + 8 * k) v = t := by
  unfold Stack.writeReady
  rw [if_neg (by omega), if_neg (by omega), if_neg (by omega), if_neg (by omega), if_neg (by omega), if_neg (by omega),
    if_neg (by omega)]

/-! ### Bank modes -/

theorem Bank.writeMode_law (b : Bank) (v : Nat) : b.writeMode v =
    if v % 4 = 0 then { b with mode := 0, state := if b.state = 1 then 0 else b.state }
    else if v % 4 = 1 then { b with mode := 1 } else b := by
  unfold Bank.writeMode
  by_cases h0 : v % 4 = 0
  · simp [h0]
  · by_cases h1 : v % 4 = 1
    · simp [h1]
    · rw [if_pos (by omega), if_neg h0, if_neg h1]

theorem bankModeWrite_law (s : State) (st cl bank v : Nat) : exec (.bankModeWrite st cl bank v) s =
    if (s.stack st).bootState = 4 ∧ cl < 4 ∧ bank < 64 then
      let t := s.modStack st (fun t => { t with banks := t.banks.modify (64 * cl + bank) (fun b => b.writeMode v) })
      .next (if ((s.stack st).banks[64 * cl + bank]?).any (fun b => b.state == 1 && v % 4 == 0) = true
        then t.slotsReport st else t)
    else .next s := by
  show execBankModeWrite st cl bank v s = _
  simp only [execBankModeWrite, Bool.and_eq_true, Stack.answers_iff, decide_eq_true_eq]

theorem bankModeChangeComplete_law (s : State) {st cl bank : Nat} {b : Bank} (hcl : cl < 4) (hbank : bank < 64)
    (hb : (s.stack st).banks[64 * cl + bank]? = some b) : exec (.bankModeChangeComplete st cl bank) s =
    if b.state = 0 ∧ b.mode = 1 then .next ((s.modStack st (fun t => { t with
      banks := t.banks.set (64 * cl + bank) { b with state := 1 } })).slotsReport st)
    else .next s := by
  show execBankModeChangeComplete st cl bank s = _
  simp only [execBankModeChangeComplete, hb, hcl, hbank, and_self, decide_true, Bool.true_and, Bool.and_eq_true,
    beq_iff_eq]

/-! ### PARTCFG and the scrub -/

theorem partitionEnable_unready (s : State) {st : Nat} (v : Nat) (hb : (s.stack st).bootState ≠ 4) :
    exec (.partitionEnable st v) s = .next s := if_pos (by simp [Stack.answers, hb])

/-- The stack joins a partition or leaves one when what it serves, or the partition that it serves, changes. -/
theorem partitionEnable_law (s : State) {st : Nat} (v : Nat) (hb : (s.stack st).bootState = 4) :
    let k := s.stack st
    let part := min 11 (v / 2 ^ 8 % 2 ^ (11 + 1 - 8))
    let serves := k.enable || (k.scrubbing && k.joins)
    exec (.partitionEnable st v) s = .next (s.modStack st (fun t =>
      let t := { t with partNum := part, partMask := BitVec.ofNat 12 (v / 2 ^ 12 % 2 ^ (23 + 1 - 12)) }
      if serves ≠ v.testBit 0 ∨ (v.testBit 0 = true ∧ k.partNum ≠ part) then
        { t with enable := false, scrubbing := true, joins := v.testBit 0 } else t)) := by
  intro k part serves
  show execPartitionEnable st v s = _
  unfold execPartitionEnable
  rw [if_neg (by simp [Stack.answers, hb])]
  simp only [Bool.or_eq_true, bne_iff_ne, Bool.and_eq_true]
  rfl

theorem Sparse.get_filter_keys {α : Type} (dflt : α) (m : Sparse α) (keep : Nat → Bool) (k : Nat) :
    Sparse.get dflt (m.filter (fun p => keep p.1)) k = if keep k then Sparse.get dflt m k else dflt := by
  induction m with
  | nil => simp [Sparse.get]
  | cons p m ih =>
    rw [List.filter_cons]
    by_cases hp : keep p.1 = true
    · rw [if_pos hp]
      simp only [Sparse.get, ih]
      by_cases hk : p.1 = k
      · simp [hk, hk ▸ hp]
      · simp [hk]
    · rw [if_neg hp, ih]
      by_cases hk : p.1 = k
      · simp [hk ▸ hp]
      · simp [Sparse.get, hk]

theorem State.zeroStack_mem (s : State) (st pa : Nat) : Sparse.get 0 (s.zeroStack st).mem pa =
    if isLocal pa = true ∧ homeStack pa = st then 0 else Sparse.get 0 s.mem pa := by
  refine (Sparse.get_filter_keys 0 s.mem (fun a => !(isLocal a && homeStack a == st)) pa).trans ?_
  by_cases h : isLocal pa = true ∧ homeStack pa = st
  · simp [h]
  · have hkeep : (!(isLocal pa && homeStack pa == st)) = true := by
      cases hl : isLocal pa with
      | false => rfl
      | true => simpa [hl] using h
    rw [if_neg h, if_pos hkeep]

theorem scrubComplete_law (s : State) {st : Nat} (aq desc : Nat) (h : (s.stack st).scrubbing = true) :
    let k := s.stack st
    let begun := if k.joins = true ∧ (s.members k.partNum).isEmpty = true then
      s.modPartition k.partNum (fun p => { p with keys := s.tick + 1, round := 0, roundDue := false }) else s
    let clean := (begun.zeroStack st).modStack st (fun x => { x with scrubbing := false, enable := x.joins, joins := false })
    let t := (if (clean.members k.partNum).isEmpty = true then clean.modPartition k.partNum (fun p => { p with keys := 0 })
      else clean).event 0x0109 st 0xFFFF (natLe 1 st)
    exec (.scrubComplete st aq desc) s =
      .next (if k.joins then (t.registerAdmin k.partNum aq desc).slotsReport st else t) := by
  intro k begun clean t
  have hbegun : (if k.joins = true then s.startPartition k.partNum else s) = begun := by
    show _ = if _ then _ else _
    by_cases hj : k.joins = true
    · rw [if_pos hj]
      simp only [hj, true_and]
      rfl
    · rw [if_neg hj, if_neg fun hc => hj hc.1]
  show execScrubComplete st aq desc s = _
  unfold execScrubComplete
  rw [if_neg (by simp [h])]
  dsimp only
  rw [hbegun]
  rfl

/-! ### Ring transfers -/

theorem ringTransfer_law (s : State) (st dst : Nat) : exec (.ringTransfer st dst) s =
    if (st < 12 ∧ dst < 12) ∧ ¬ (st = dst ∨
      ((s.maskAgrees st = true ∧ s.maskAgrees dst = true) ∧ (s.stack st).partNum = (s.stack dst).partNum)) then
      .next (s.modStack dst (fun t => { t with droppedTransfers := t.droppedTransfers + 1 }))
    else .next s := by
  show execRingTransfer st dst s = _
  refine ite_of_iff ?_ rfl rfl
  rw [Bool.and_eq_true, Bool.and_eq_true, decide_eq_true_eq, decide_eq_true_eq, Bool.not_eq_true', State.ringOpen,
    Bool.eq_false_iff, ne_eq, Bool.or_eq_true, Bool.and_eq_true, Bool.and_eq_true, beq_iff_eq, beq_iff_eq]

/-! ### Reads -/

theorem readRegister_boot (s : State) (st : Nat) {off v : Nat} (ha : off % 8 = 0)
    (hv : (s.stack st).readBoot off = some v) : s.readRegister st off = some (BitVec.ofNat 64 v) := by
  unfold State.readRegister
  simp [ha, hv]

theorem readRegister_unready (s : State) {st off : Nat} (ha : off % 8 = 0) (hb : (s.stack st).bootState ≠ 4)
    (hv : (s.stack st).readBoot off = none) : s.readRegister st off = none := by
  unfold State.readRegister
  simp [ha, hv, Stack.answers, hb]

theorem readRegister_unit (s : State) {st off v : Nat} (ha : off % 8 = 0) (hb : (s.stack st).bootState = 4)
    (hn : (s.stack st).readBoot off = none) (hc : s.readControl st off = none)
    (hv : (s.stack st).readUnits st off = some v) : s.readRegister st off = some (BitVec.ofNat 64 v) := by
  unfold State.readRegister
  simp [ha, hn, hc, hv, Stack.answers, hb]

theorem readRegister_misaligned (s : State) (st : Nat) {off : Nat} (h : off % 4 ≠ 0) : s.readRegister st off = none := by
  unfold State.readRegister
  simp only
  rw [if_neg (by omega), if_pos (by omega)]
  rfl

theorem bitVec_ofNat_toNat (x : W64) : BitVec.ofNat 64 x.toNat = x := BitVec.ofNat_toNat 64 x ▸ BitVec.setWidth_eq x

/-- Settles O57. -/
theorem registersAndPartitions : Obligations.RegistersAndPartitions := by
  intro s st ready field
  refine ⟨fun off v h => registerWrite_misaligned s st v h, ?routes, ?closed, ?boot,
    fun off v hb h => registerWrite_bootOnly s v hb h, ?windows, ?singles,
    fun v hb => if_neg (by simpa [Stack.answers] using hb), ?modes, ?noModes, ?changes, ?enables,
    fun v hb => partitionEnable_unready s v hb, fun aq desc h => if_pos (by simp [h]),
    fun aq desc h => ⟨State.zeroStack_mem s st, scrubComplete_law s aq desc h⟩, ?transfers, ?noTransfers, ?reads⟩
  case routes =>
    intro e v he hb hr
    refine ⟨(registerWrite_route s st v (by omega) ⟨by omega, by omega⟩).trans ?_,
      (registerWrite_route s st v (by omega) ⟨by omega, by omega⟩).trans ?_⟩ <;>
      refine congrArg _ ((if_pos ⟨hr, hb⟩).trans (State.modStack_congr ?_))
    · rw [writePair_even (e := e) _ _ _ (by omega)]
      rfl
    · rw [writePair_odd (e := e) _ _ _ (by omega)]
      rfl
  case closed =>
    intro off v hlo hhi h
    by_cases ha : off % 8 = 0
    · refine (registerWrite_route s st v ha ⟨hlo, hhi⟩).trans (congrArg _ (if_neg fun ⟨hr, hb⟩ => ?_))
      exact h.elim (ne_false_of_eq_true hr) (fun hn => hn hb)
    · exact registerWrite_misaligned s st v ha
  case boot =>
    intro v
    refine ⟨registerWrite_sets s st v rfl (by omega) (fun _ => rfl) fun _ _ => rfl,
      registerWrite_sets s st v rfl (by omega) (fun _ => rfl) fun _ _ => rfl, fun k hk => ?_⟩
    exact registerWrite_sets s st v (by omega) (by omega)
      (fun t => t.writeBoot_nonce v hk) fun t complex => t.writeReady_nonce complex v hk
  case windows =>
    intro v w hb hw
    refine ⟨registerWrite_readySets s v hb (by omega) (by omega)
        (fun t => t.writeBoot_other v (by omega)) fun t => (t.writeReady_window _ v (by omega)).trans ?_,
      registerWrite_readySets s v hb (by omega) (by omega)
        (fun t => t.writeBoot_other v (by omega)) fun t => (t.writeReady_window _ v (by omega)).trans ?_⟩
    · rw [writePair_even (e := w) _ _ _ (by omega), windowBase_window]
      rfl
    · rw [writePair_odd (e := w) _ _ _ (by omega), windowEnd_window]
      rfl
  case singles =>
    intro v hb
    have hset : ∀ {off : Nat} {f : Stack → Stack}, off % 8 = 0 → ¬ (0x1000 ≤ off ∧ off < 0x1200) →
        ¬ (0x510 ≤ off ∧ off < 0x540) →
        (∀ t : Stack, t.writeReady (st == 0 || st == 6) off v = f t) →
        exec (.registerWrite st off v) s = .next (s.modStack st f) := fun ha hr hn hf =>
      registerWrite_readySets s v hb ha hr (fun t => t.writeBoot_other v hn) hf
    refine ⟨hset rfl (by omega) (by simp) fun _ => rfl, hset rfl (by omega) (by simp) fun _ => rfl,
      hset rfl (by omega) (by simp) fun t => ?_, hset rfl (by omega) (by simp) fun _ => rfl,
      hset rfl (by omega) (by simp) fun _ => rfl, ?_, if_pos ((Stack.answers_iff _).2 hb)⟩
    · show t.writeCapCtl v = _
      unfold Stack.writeCapCtl
      have hmode : (if 2 ≤ v % 4 then 0 else v % 4) = if v % 4 < 2 then v % 4 else 0 := by
        by_cases h : v % 4 < 2
        · rw [if_pos h, if_neg (by omega)]
        · rw [if_neg h, if_pos (by omega)]
      rw [hmode]
      rfl
    · by_cases hc : st = 0 ∨ st = 6
      · rw [if_pos hc]
        exact hset rfl (by omega) (by simp) fun t => (t.writeReady_argument _ v).trans (if_pos (by simpa using hc))
      · rw [if_neg hc]
        exact (hset rfl (by omega) (by simp) fun t => (t.writeReady_argument _ v).trans
          (if_neg (by simpa using hc))).trans (congrArg _ (State.modStack_self (f := fun t => t) rfl))
  case modes =>
    intro cl bank v hb hcl hbank t taken
    refine (bankModeWrite_law s st cl bank v).trans ((if_pos ⟨hb, hcl, hbank⟩).trans ?_)
    simp only [Bank.writeMode_law]
    rfl
  case noModes =>
    intro cl bank v h
    refine (bankModeWrite_law s st cl bank v).trans (if_neg fun ⟨hb, hcl, hbank⟩ => ?_)
    rcases h with h | h | h
    · exact h hb
    · omega
    · omega
  case changes =>
    intro cl bank b hcl hbank hb
    have hlaw := bankModeChangeComplete_law s hcl hbank hb
    exact ⟨fun h0 h1 => hlaw.trans (if_pos ⟨h0, h1⟩),
      fun h => hlaw.trans (if_neg fun ⟨h0, h1⟩ => h.elim (fun hn => hn h0) fun hn => hn h1)⟩
  case enables =>
    intro v hb k part serves
    have hlaw := partitionEnable_law s v hb
    refine ⟨fun ⟨hs, hp⟩ => hlaw.trans (congrArg _ (State.modStack_congr (if_neg ?_))),
      fun h => hlaw.trans (congrArg _ (State.modStack_congr (if_pos h)))⟩
    rintro (hn | ⟨hon, hn⟩)
    · exact hn hs
    · exact hn (hp hon)
  case transfers =>
    intro dst hst hdst mine
    have hlaw := ringTransfer_law s st dst
    refine ⟨fun h => hlaw.trans (if_neg fun ⟨_, hn⟩ => hn ?_), fun hne h => hlaw.trans (if_pos ⟨⟨hst, hdst⟩, ?_⟩)⟩
    · exact h.imp id fun ⟨ha, hb, hp⟩ => ⟨⟨ha, hb⟩, hp⟩
    · rintro (heq | ⟨⟨ha, hb⟩, hp⟩)
      · exact hne heq
      · rcases h with h | h | h
        · exact h ha
        · exact h hb
        · exact h hp
  case noTransfers =>
    intro dst h
    exact (ringTransfer_law s st dst).trans (if_neg fun ⟨⟨hst, hdst⟩, _⟩ => by omega)
  case reads =>
    refine ⟨(readRegister_boot s st rfl rfl).trans (congrArg _ (bitVec_ofNat_toNat _)), readRegister_boot s st rfl rfl,
      fun hb => ⟨readRegister_unit s rfl hb rfl rfl rfl, readRegister_unit s rfl hb rfl rfl rfl⟩,
      fun hb => ⟨readRegister_unready s rfl hb rfl, readRegister_unready s rfl hb rfl⟩,
      fun off h => readRegister_misaligned s st h⟩

end Sys2Proof.Machine
end

section
/-! SUPPORT. Where a block lies, parity groups, repair packets and steps, and the governor. -/
namespace Sys2Proof.Machine

/-! ### Where a block lies -/

theorem upperDigits_lt (b : Nat) : upperDigits b < 2 ^ 5 := by
  have h : ∀ n, n % 32 < 2 ^ 5 := fun n => Nat.mod_lt _ (by decide)
  exact Nat.xor_lt_two_pow (Nat.xor_lt_two_pow (Nat.xor_lt_two_pow (h _) (h _)) (h _)) (h _)

/-- The lowest digit of a block index is not among the upper ones. -/
theorem upperDigits_low (n x : Nat) (hx : x < 32) : upperDigits (32 * n + x) = upperDigits (32 * n) := by
  have h : ∀ k, (32 * n + x) / (32 * k) = 32 * n / (32 * k) := fun k => by
    rw [← Nat.div_div_eq_div_mul, ← Nat.div_div_eq_div_mul, Nat.mul_add_div (by decide), Nat.div_eq_of_lt hx,
      Nat.mul_div_cancel_left _ (by decide), Nat.add_zero]
  have h5 := h 1
  have h10 := h 32
  have h15 := h 1024
  have h20 := h 32768
  simp only [Nat.reduceMul] at h5 h10 h15 h20
  simp only [upperDigits, Nat.reducePow, h5, h10, h15, h20]

theorem blockAt_digit_lt {c : Nat} (loc : Nat) (hc : c < 32) : c ^^^ upperDigits (32 * loc) < 32 :=
  Nat.xor_lt_two_pow (n := 5) hc (upperDigits_lt _)

theorem blockLoc_blockAt {c : Nat} (loc : Nat) (hc : c < 32) : blockLoc (blockAt c loc) = loc := by
  have h := blockAt_digit_lt loc hc
  unfold blockLoc blockAt
  omega

theorem blockChannel_blockAt {c : Nat} (loc : Nat) (hc : c < 32) : blockChannel (blockAt c loc) = c := by
  have h := blockAt_digit_lt loc hc
  unfold blockChannel blockAt
  rw [upperDigits_low _ _ h, Nat.mul_add_mod, Nat.mod_eq_of_lt h, Nat.xor_assoc, Nat.xor_self, Nat.xor_zero]

/-! ### Parity groups -/

theorem Block.xor_right_comm (x y z : Block) : (x.xor y).xor z = (x.xor z).xor y := by
  have hdata : ∀ as bs cs : List Byte, List.zipWith (· ^^^ ·) (List.zipWith (· ^^^ ·) as bs) cs =
      List.zipWith (· ^^^ ·) (List.zipWith (· ^^^ ·) as cs) bs := by
    intro as
    induction as with
    | nil => intro bs cs; rfl
    | cons a as ih =>
      intro bs cs
      cases bs with
      | nil => cases cs <;> rfl
      | cons b bs =>
        cases cs with
        | nil => rfl
        | cons c cs =>
          simp only [List.zipWith_cons_cons, ih, List.cons.injEq, and_true]
          ac_rfl
  have hmask : x.mask ^^^ y.mask ^^^ z.mask = x.mask ^^^ z.mask ^^^ y.mask := by ac_rfl
  simp only [Block.xor, hdata, hmask]

/-- Over blocks of one length, what is added twice is gone. -/
theorem Block.xor_cancel (x y : Block) (h : x.data.length = y.data.length) : (x.xor y).xor x = y := by
  have hdata : ∀ as bs : List Byte, as.length = bs.length →
      List.zipWith (· ^^^ ·) (List.zipWith (· ^^^ ·) as bs) as = bs := by
    intro as
    induction as with
    | nil => intro bs hl; exact (List.length_eq_zero_iff.1 hl.symm).symm
    | cons a as ih =>
      intro bs hl
      cases bs with
      | nil => exact absurd hl (by simp)
      | cons b bs =>
        have hb : a ^^^ b ^^^ a = b := by rw [BitVec.xor_comm a b, BitVec.xor_assoc, BitVec.xor_self, BitVec.xor_zero]
        simp only [List.zipWith_cons_cons, ih bs (by simpa using hl), hb]
  have hmask : x.mask ^^^ y.mask ^^^ x.mask = y.mask := by
    rw [BitVec.xor_comm x.mask, BitVec.xor_assoc, BitVec.xor_self, BitVec.xor_zero]
  simp only [Block.xor, hdata _ _ h, hmask]

theorem State.block_length (s : State) (st b : Nat) : (s.block st b).data.length = 512 := readBytes_length ..

theorem State.xorOf_length (s : State) (st : Nat) (ps : List (Nat × Nat)) : (s.xorOf st ps).data.length = 512 := by
  have h : ∀ (ps : List (Nat × Nat)) (x : Block), x.data.length = 512 →
      (ps.foldl (fun x p => x.xor (s.block st (blockAt p.1 p.2))) x).data.length = 512 := by
    intro ps
    induction ps with
    | nil => exact fun x hx => hx
    | cons p ps ih =>
      refine fun x hx => ih _ ?_
      simp only [Block.xor, List.length_zipWith, hx, State.block_length, Nat.min_self]
  exact h ps _ (List.length_replicate ..)

/-- The block of one place can be taken out of a sum. -/
theorem State.xorOf_filter (s : State) (st : Nat) {ps : List (Nat × Nat)} {p : Nat × Nat} (hp : p ∈ ps)
    (hd : ps.Nodup) :
    s.xorOf st ps = (s.xorOf st (ps.filter (fun q => q != p))).xor (s.block st (blockAt p.1 p.2)) := by
  have hperm : ps.Perm (ps.filter (fun q => q != p) ++ [p]) := by
    have herase := hd.erase_eq_filter p
    exact (List.perm_cons_erase hp).trans (herase ▸ (List.perm_append_singleton _ _).symm)
  refine (hperm.foldl_eq' (fun _ _ _ _ _ => Block.xor_right_comm _ _ _) _).trans ?_
  rw [List.foldl_append]
  rfl

theorem groupMembers_nodup (g j : Nat) (hj : j < 2 ^ 17) : (groupMembers g j).Nodup := by
  unfold groupMembers
  refine List.pairwise_map.2 (List.nodup_range.imp fun hne h => hne ?_)
  have h2 : _ * 2 ^ 17 + j = _ * 2 ^ 17 + j := congrArg Prod.snd h
  omega

theorem mem_groupMembers {c loc : Nat} (hc : c < 32) (hk : locK loc < 31) :
    (c, loc) ∈ groupMembers (parityGroup c loc) (locJ loc) := by
  refine List.mem_map.2 ⟨locK loc, List.mem_range.2 hk, ?_⟩
  unfold parityGroup locJ
  unfold locK at hk ⊢
  refine Prod.ext ?_ ?_ <;> dsimp only <;> omega

/-- A group gives any of its blocks back. -/
theorem State.rebuilt_block (s : State) (st : Nat) {c loc : Nat} (hc : c < 32) (hk : locK loc < 31) :
    s.rebuilt st c loc = s.block st (blockAt c loc) := by
  have hsum := s.xorOf_filter st (mem_groupMembers hc hk)
    (groupMembers_nodup (parityGroup c loc) (locJ loc) (Nat.mod_lt _ (by decide)))
  unfold State.rebuilt State.parityBlock
  dsimp only
  rw [hsum]
  exact Block.xor_cancel _ _ ((s.xorOf_length st _).trans (s.block_length st _).symm)

/-! ### Patrol scrub -/

theorem patrolScrub_stays (s : State) {st blk : Nat} (errors : List (Nat × Nat))
    (h : (s.stack st).bootState ≠ 4 ∨ 2 ^ 27 ≤ blk) : exec (.patrolScrub st blk errors) s = .next s := by
  refine if_pos (Bool.or_eq_true _ _ ▸ ?_)
  exact h.imp (fun h => by simp [Stack.answers, h]) decide_eq_true

theorem patrolScrub_law (s : State) {st blk : Nat} (errors : List (Nat × Nat)) (hb : (s.stack st).bootState = 4)
    (hblk : blk < 2 ^ 27) :
    let t := s.stack st
    let c := blockChannel blk
    let loc := blockLoc blk
    let patrol := blk = t.patrolAt ∧ s.choose 72 2 = 1
    let u := if patrol then s.modStack st (fun k => if k.patrolAt + 1 < 2 ^ 27 then { k with patrolAt := k.patrolAt + 1 }
      else { k.count 0x018 1 with patrolAt := 0 }) else s
    let fails := fun use => u.undecoded errors st c loc (if patrol then 1 else 0) use
    exec (.patrolScrub st blk errors) s =
      match t.placeUse c loc with
      | none => .next u
      | some use =>
        if t.leaving c loc = true then .next (if u.groupDecodes errors st c loc then u else fails use)
        else if u.placeDecodes errors st c loc = true then
          .next (if errorsAt errors c loc = [] then u else u.modStack st (fun k => k.count 0x000 1))
        else .next (fails use) := by
  intro t c loc patrol u fails
  show execPatrolScrub st blk errors s = _
  unfold execPatrolScrub
  dsimp only
  rw [(Stack.answers_iff _).2 hb, decide_eq_false (Nat.not_le.2 hblk), if_neg (by decide)]
  simp only [Bool.and_eq_true, beq_iff_eq, List.isEmpty_iff]
  rfl

/-! ### Repair packets -/

/-- A repair of another op waits; one that its stack, mode or index does not allow is an error; any other starts. -/
theorem Worked.repair_law {s : State} {k : Nat} {q : Queue} (h : Worked s k q) (hm : q.mayStart = true)
    (hc : s.castling = none) (hk : pktKind q.packet = 42) (op mode indices : Nat) (start : Nat → Nat → Nat → Begun) :
    let bs := q.packet
    let st := pkt bs 8 1
    let n := pkt bs 10 1
    s.repair k op mode indices start = Begun.ends k (q.consumed - 1) s (if pkt bs 9 1 ≠ op then .blocked s
      else if (s.members (s.queuePartition q)).contains st = false ∨ (s.stack st).repMode ≠ mode ∨ indices ≤ n ∨
        pkt bs 11 1 ≠ 0 then .error 5 0
      else start (q.consumed - 1) st n) := by
  refine (h.packet_begins hm hc hk _).trans (congrArg _ ?_)
  dsimp only
  simp only [Bool.or_eq_true, Bool.not_eq_true', bne_iff_ne, decide_eq_true_eq, or_assoc]

/-! ### The governor -/

theorem heatTarget_best {cap need : Nat} (hc : cap ∈ [100, 90, 75, 50, 25]) (hn : need ∈ [1, 2, 4]) :
    ∃ x, heatStates[heatTarget cap need]? = some x ∧ x.1 ≤ cap ∧ need ≤ x.2 ∧
      ∀ y ∈ heatStates, y.1 ≤ cap → need ≤ y.2 → y.1 < x.1 ∨ (y.1 = x.1 ∧ x.2 ≤ y.2) := by
  have h : ∀ cap ∈ [100, 90, 75, 50, 25], ∀ need ∈ [1, 2, 4], (heatStates[heatTarget cap need]?).any (fun x =>
      decide (x.1 ≤ cap ∧ need ≤ x.2 ∧
        ∀ y ∈ heatStates, y.1 ≤ cap → need ≤ y.2 → y.1 < x.1 ∨ (y.1 = x.1 ∧ x.2 ≤ y.2))) = true := by decide
  obtain ⟨x, hx, hbest⟩ := (Option.any_eq_true _ _).1 (h cap hc need hn)
  exact ⟨x, hx, of_decide_eq_true hbest⟩

/-- The state that the governor goes to: at once up, one down after 100 ticks. -/
def Stack.nextHeat (k : Stack) (target : Nat) : Nat :=
  if k.heat < target then target else if target < k.heat ∧ 100 ≤ k.coolRuns + 1 then k.heat - 1 else k.heat

/-- The cool ticks that count on. -/
def Stack.nextRuns (k : Stack) (target : Nat) : Nat :=
  if target < k.heat ∧ k.coolRuns + 1 < 100 then k.coolRuns + 1 else 0

theorem Stack.govern_law (k : Stack) (td tl : Int) :
    let target := heatTarget (heatCap k.policy td tl) (heatNeed td)
    k.govern td tl = { k with td := td, tl := tl, heat := k.nextHeat target, coolRuns := k.nextRuns target } := by
  intro target
  show (if k.heat < target then _ else if target < k.heat then (if k.coolRuns + 1 < 100 then _ else _) else _) = _
  unfold Stack.nextHeat Stack.nextRuns
  by_cases h : k.heat < target
  · rw [if_pos h, if_pos h, if_neg (by omega)]
  · rw [if_neg h, if_neg h]
    by_cases hc : target < k.heat
    · by_cases hr : k.coolRuns + 1 < 100
      · rw [if_pos hc, if_pos hr, if_neg (by omega), if_pos ⟨hc, hr⟩]
      · rw [if_pos hc, if_neg hr, if_pos ⟨hc, by omega⟩, if_neg (by omega)]
    · rw [if_neg hc, if_neg (by omega), if_neg (by omega)]

theorem Stack.count_govern (k : Stack) (offset n : Nat) (td tl : Int) :
    let target := heatTarget (heatCap k.policy td tl) (heatNeed td)
    (k.count offset n).govern td tl =
      { k.count offset n with td := td, tl := tl, heat := k.nextHeat target, coolRuns := k.nextRuns target } :=
  (k.count offset n).govern_law td tl

theorem governorTick_law (s : State) {st : Nat} (td tl : Nat) (hst : st < s.stackTab.length)
    (ht : (s.stack st).governorAt + 100000 ≤ (s.stack st).now) :
    let k := s.stack st
    let target := heatTarget (heatCap k.policy (sInt 16 td) (sInt 16 tl)) (heatNeed (sInt 16 td))
    let new := k.nextHeat target
    let t := s.modStack st (fun x => { x.count (0x020 + 8 * k.heat) 100 with
      td := sInt 16 td, tl := sInt 16 tl, heat := new, coolRuns := k.nextRuns target, governorAt := k.governorAt + 100000 })
    let detail := natLe 1 k.heat ++ natLe 1 new ++ natLe 2 td ++ natLe 2 tl
    exec (.governorTick st td tl) s = .next (if new = k.heat then t
      else if new = 7 then (t.event 0x0209 st 0xFFFF detail).event 0x020A st 0xFFFF detail
      else t.event 0x0209 st 0xFFFF detail) := by
  intro k target new t detail
  have hmod : s.modStack st (fun x => { (x.count (0x020 + 8 * x.heat) 100).govern (sInt 16 td) (sInt 16 tl) with
      governorAt := k.governorAt + 100000 }) = t := by
    refine State.modStack_congr ?_
    dsimp only
    rw [Stack.count_govern]
  have hnew : (t.stack st).heat = new := by
    rw [State.modStack_stack s st st _ hst, if_pos rfl]
  show execGovernorTick st td tl s = _
  unfold execGovernorTick
  dsimp only
  rw [if_neg (Nat.not_lt.2 ht), hmod, hnew]
  split
  · rfl
  · split <;> rfl

/-- Settles O59. -/
theorem repairAndHeat : Obligations.RepairAndHeat := by
  refine ⟨?scrub, ?undecoded, fun s st c loc hc hk =>
    ⟨blockChannel_blockAt loc hc, blockLoc_blockAt loc hc, s.rebuilt_block st hc hk⟩, ?packets, ?rebuild, ?copy,
    fun cap hc need hn => heatTarget_best hc hn, ?governor⟩
  case scrub =>
    intro s st blk errors t c loc patrol u scrub fails
    refine ⟨fun h => patrolScrub_stays s errors h, fun hb hblk => ?_⟩
    have hlaw : scrub = _ := patrolScrub_law s errors hb hblk
    refine ⟨fun hu => hlaw.trans ?_, fun use hu => ⟨fun hl => hlaw.trans ?_, fun hl hd => hlaw.trans ?_,
      fun hl hd => hlaw.trans ?_⟩⟩ <;> simp only [show (s.stack st).placeUse (blockChannel blk) (blockLoc blk) = _ from hu]
    · rfl
    · exact if_pos hl
    · exact (if_neg (ne_true_of_eq_false hl)).trans (if_pos hd)
    · exact (if_neg (ne_true_of_eq_false hl)).trans (if_neg (ne_true_of_eq_false hd))
  case undecoded =>
    intro s errors st c loc cause b
    exact ⟨fun h => if_pos h, fun h => if_neg h⟩
  case packets =>
    intro s k q hw hm hc hk i bs st n lo out
    have hlaw := hw.repair_law hm hc hk
    have hallows : ∀ mode indices, (s.members (s.queuePartition q)).contains st = true → pkt bs 11 1 = 0 →
        (s.stack st).repMode = mode → n < indices → ¬ ((s.members (s.queuePartition q)).contains st = false ∨
          (s.stack st).repMode ≠ mode ∨ indices ≤ n ∨ pkt bs 11 1 ≠ 0) := by
      rintro mode indices hin h11 hmode hn (h | h | h | h)
      · exact ne_false_of_eq_true hin h
      · exact h hmode
      · exact Nat.not_le.2 hn h
      · exact h h11
    refine ⟨fun e he => ?_, fun hin h11 => ⟨fun hop hmode hn => ?_, fun hop hmode hn => ?_, fun hop hmode hn hq => ?_,
      fun hop hmode hn hq => ?_⟩⟩
    · simp only [List.mem_cons, List.not_mem_nil, or_false] at he
      rcases he with rfl | rfl | rfl <;>
        refine ⟨fun hop => congrArg _ ((hlaw _ _ _ _).trans (congrArg _ (if_pos hop))),
          fun hop hbad => congrArg _ ((hlaw _ _ _ _).trans (congrArg _ ((if_neg (not_not_intro hop)).trans
            (if_pos hbad))))⟩
    all_goals
      refine congrArg _ ((hlaw _ _ _ _).trans (congrArg _ ((if_neg (not_not_intro hop)).trans ((if_neg ?_).trans ?_))))
    · exact hallows 0 32 hin h11 hmode hn
    · rfl
    · exact hallows 0 16 hin h11 hmode hn
    · rw [show lo + 0x7FFFFFFF = st * stackSpan + 0xF7FFFFFFF from Nat.add_assoc ..]
      rfl
    · exact hallows 3 1 hin h11 hmode (by omega)
    · refine (if_neg (by simp [st, bs, hq])).trans ?_
      rfl
    · exact hallows 3 1 hin h11 hmode (by omega)
    · exact if_pos (Option.isSome_iff_ne_none.2 hq)
  case rebuild =>
    intro s st errors t lost moved ended
    refine ⟨fun h => if_pos h, fun h hlt => ?_, fun h hle => ?_⟩
    · exact (if_neg (not_not_intro h)).trans (if_pos hlt)
    · exact (if_neg (not_not_intro h)).trans (if_neg (Nat.not_lt.2 hle))
  case copy =>
    intro s st errors t b u copied
    refine ⟨fun h => if_pos h, fun hm hq => (if_neg fun h => h.elim (fun h => h hm) hq).trans ?_⟩
    show (if t.mapCopied + 1 < 2 ^ 23 then _ else _) = _
    split <;> rfl
  case governor =>
    intro s st td tl hst k target new runs
    exact ⟨fun h => if_pos h, fun h => governorTick_law s td tl hst h⟩

end Sys2Proof.Machine
end

section
/-! SUPPORT. Links, timeouts, routes that freeze, clocks, and what the host does to the package's memory. -/
namespace Sys2Proof.Machine

/-! ### Links and timeouts -/

theorem State.wave_some {s : State} {g w : Nat} {v : Wave} (h : s.wave g w = some v) :
    ∃ gang, aget s.gangs g = some gang ∧ gang.waves[w]? = some v := Option.bind_eq_some_iff.1 h

section
variable {s : State} {g w n : Nat} {v : Wave} (hv : s.wave g w = some v)
include hv

theorem completionTimeout_load {p : PendingLoad} (hp : v.loads[n]? = some p) :
    exec (.completionTimeout (.load g w n)) s =
      .next (if p.port ≠ none ∧ p.returned = false then s.setWave g w (v.landLoad n p.failed) else s) := by
  obtain ⟨gang, hg, hw⟩ := State.wave_some hv
  show Host.Outcome.next (s.atWave g w _) = _
  rw [State.atWave_of hg hw]
  simp only [hp, Bool.and_eq_true, Option.isSome_iff_ne_none, Bool.not_eq_true']

theorem completionTimeout_store {p : PendingStore} (hp : v.stores[n]? = some p) :
    (∀ port, p.port = some port → p.returned = false → exec (.completionTimeout (.store g w n)) s = .next
      ((s.setWave g w { v with stores := v.stores.eraseIdx n }).failBytes port p.pa p.size)) ∧
    ((p.port = none ∨ p.returned = true) → exec (.completionTimeout (.store g w n)) s = .next s) := by
  obtain ⟨gang, hg, hw⟩ := State.wave_some hv
  have hex : exec (.completionTimeout (.store g w n)) s = .next (match p.port with
      | some port => if p.returned = true then s
        else (s.setWave g w { v with stores := v.stores.eraseIdx n }).failBytes port p.pa p.size
      | none => s) := by
    show Host.Outcome.next (s.atWave g w _) = _
    rw [State.atWave_of hg hw]
    simp only [hp] <;> rfl
  rw [hex]
  refine ⟨fun port hport hr => ?_, fun h => ?_⟩
  · simp [hport, hr]
  · cases hport : p.port with
    | none => rfl
    | some port => exact congrArg _ (if_pos (h.resolve_left (by simp [hport])))

end

/-- The bytes of a failed access are the only ones that change before its event. -/
theorem State.failBytes_law (s : State) (port pa size : Nat) : ∃ u : State,
    s.failBytes port pa size = u.event 0x0222 port 0xFFFF (natLe 8 pa ++ natLe 1 port) ∧
    ∀ a, (a < pa ∨ pa + size ≤ a) → Sparse.get 0 u.mem a = Sparse.get 0 s.mem a := by
  refine ⟨s.put (s.hostAgent.author false s.history.length 4) pa
    ((List.range size).map (fun k => Config.freeByte s.tick (pa + k))) false, rfl, fun a ha => ?_⟩
  rw [State.put_mem]
  exact get_writeBytes_other _ _ _ _ (by simpa using ha)

theorem completionTimeout_line (s : State) (n : Nat) : exec (.completionTimeout (.line n)) s =
    match s.devLines.find? (fun l => l.line == n && l.dirty) with
    | some l => .next (s.loseLine ((s.lineEgress l).getD 0) l)
    | none => .next s := rfl

theorem completionTimeout_snoop (s : State) (st line : Nat) : exec (.completionTimeout (.snoop st line)) s =
    match (s.stack st).snoops.find? (fun y => y.line == line && y.waiting) with
    | some y => .next (s.loseCopy st y)
    | none => .next s := rfl

/-! ### Routes -/

theorem routeFreeze_law (s : State) (st : Nat) : exec (.routeFreeze st) s =
    if s.complexRuns = true ∧ (s.stack st).bootState = 4 then
      .next ((if (s.stack st).freeze then s else s.returnRequests st).modStack st (fun t =>
        { t with freeze := true, frozen := true }))
    else .next s := by
  show execRouteFreeze st s = _
  simp only [execRouteFreeze, Bool.and_eq_true, Stack.answers_iff]

theorem routeUnfreeze_law (s : State) (st old : Nat) : exec (.routeUnfreeze st old) s =
    if (s.complexRuns = true ∧ (s.stack st).bootState = 4) ∧ (s.stack st).freeze = true then
      let t := (s.modStack st (fun t => { t with freeze := false, frozen := false })).resendRequests st
      if ∃ x ∈ t.stackTab, x.freeze = true then .next t
      else .next (t.event 0x0005 s.activeStack 0xFFFF (natLe 1 old))
    else .next s := by
  show execRouteUnfreeze st old s = _
  simp only [execRouteUnfreeze, Bool.and_eq_true, Stack.answers_iff, List.any_eq_true]

/-! ### Clocks -/

/-- What an exchange with this offset makes of a clock. -/
theorem Stack.judgeOffset_law (t : Stack) (near : Bool) (offset : Int) (h0 : t.timeState ≠ 0) :
    let good := decide (offset.natAbs ≤ 50)
    let goods := if good then t.goodRun + 1 else 0
    let bads := if good then 0 else t.badRun + 1
    let old := t.timeState
    let new := if (old = 1 ∨ old = 3) ∧ 8 ≤ goods ∧ near = true then 2 else if old = 2 ∧ 4 ≤ bads then 3 else old
    t.judgeOffset near offset = { t with
      timeOffset := saturated offset, lastExchange := t.now, timeState := new
      goodRun := if new = old then goods else 0, badRun := if new = old then bads else 0 } := by
  intro good goods bads old new
  have hnew : ∀ x, t.timeState = x → new = if (x = 1 ∨ x = 3) ∧ 8 ≤ goods ∧ near = true then 2
      else if x = 2 ∧ 4 ≤ bads then 3 else x := fun x hx => by rw [← hx]
  unfold Stack.judgeOffset
  dsimp only
  rw [show (if decide (offset.natAbs ≤ goodOffset) = true then t.goodRun + 1 else 0) = goods from rfl,
    show (if decide (offset.natAbs ≤ goodOffset) = true then 0 else t.badRun + 1) = bads from rfl]
  split
  next h1 =>
    rw [hnew 1 h1]
    by_cases hg : 8 ≤ goods ∧ near = true
    · simp [old, h1, hg]
    · simp [old, h1, hg, -not_and]
  next h2 =>
    rw [hnew 2 h2]
    by_cases hb : 4 ≤ bads
    · simp [old, h2, hb]
    · simp [old, h2, hb]
  next h3 =>
    rw [hnew 3 h3]
    by_cases hg : 8 ≤ goods ∧ near = true
    · simp [old, h3, hg]
    · simp [old, h3, hg, -not_and]
  next h1 h2 h3 =>
    have hkeep : new = old := by
      rw [hnew old rfl, if_neg fun h => h.1.elim h1 h3, if_neg fun h => h2 h.1]
    rw [hkeep, if_pos rfl, if_pos rfl]

theorem ptmExchange_law (s : State) {st : Nat} (master : Nat) (he : (s.stack st).exchanges = true) :
    let k := s.stack st
    let m := max s.master master
    let offset : Int := (m : Int) - (k.now : Int)
    let good := decide (offset.natAbs ≤ 50)
    let goods := if good then k.goodRun + 1 else 0
    let bads := if good then 0 else k.badRun + 1
    let first := k.timeState = 0
    let now := if first then max k.now m else k.now
    let old := if first then 1 else k.timeState
    let new := if (old = 1 ∨ old = 3) ∧ 8 ≤ goods ∧ s.nearLocked now = true then 2
      else if old = 2 ∧ 4 ≤ bads then 3 else old
    let t := ({ s with master := m } : State).modStack st (fun x => { x with
      now := now, timeOffset := saturated offset, lastExchange := now, timeState := new
      goodRun := if new = old then goods else 0, badRun := if new = old then bads else 0 })
    exec (.ptmExchange st master) s = .next (t.timeEvent st k.timeState) := by
  intro k m offset good goods bads first now old new t
  show execPtmExchange st master s = _
  unfold execPtmExchange
  dsimp only
  rw [if_neg (by simp [he])]
  refine congrArg (fun u => Host.Outcome.next (State.timeEvent u st k.timeState)) (State.modStack_congr ?_)
  have hk : ({ s with master := m } : State).stack st = k := rfl
  rw [hk]
  by_cases h0 : k.timeState = 0
  · have hlaw := Stack.judgeOffset_law { k with now := max k.now m, timeState := 1 } (s.nearLocked (max k.now m)) offset
      (by simp)
    have hnow : now = max k.now m := if_pos h0
    have hold : old = 1 := if_pos h0
    simp only [h0, beq_self_eq_true, if_true]
    refine hlaw.trans ?_
    simp only [new, hnow, hold]
    rfl
  · have hlaw := Stack.judgeOffset_law k (s.nearLocked k.now) offset h0
    have hnow : now = k.now := if_neg h0
    have hold : old = k.timeState := if_neg h0
    simp only [beq_eq_false_iff_ne.2 h0, Bool.false_eq_true, if_false]
    refine hlaw.trans ?_
    simp only [new, hnow, hold]
    rfl

theorem State.clocksAgree_iff (s : State) : s.clocksAgree = true ↔ ∀ a ∈ s.stackTab, a.timeState = 2 →
    ∀ b ∈ s.stackTab, b.timeState = 2 → a.now ≤ b.now + 100 := by
  simp only [State.clocksAgree, List.all_eq_true, List.forall_mem_map, List.mem_filter, beq_iff_eq, decide_eq_true_eq,
    and_imp]

theorem Stack.advanceClock_timeState (t : Stack) (e own : Nat) (d : Int) :
    (t.advanceClock e own d).timeState = t.timeState := by
  unfold Stack.advanceClock
  split <;> rfl

theorem Stack.advanceClock_locked (t : Stack) (e own : Nat) (h : t.timeState = 2) :
    (t.advanceClock e own 0).now = t.now + e := by
  unfold Stack.advanceClock
  rw [if_pos (by simp [Stack.steered, h])]
  show ((t.now + e : Nat) + (0 : Int)).toNat = t.now + e
  rw [Int.add_zero, Int.toNat_natCast]

/-- Clocks that count at one rate stay as near as they were. -/
theorem State.tickClocks_agree (s : State) (h : s.clocksAgree = true) : s.tickClocks.clocksAgree = true := by
  unfold State.tickClocks
  dsimp only
  split
  next hagree => exact hagree
  · rw [State.clocksAgree_iff] at h ⊢
    intro a ha ha2 b hb hb2
    obtain ⟨i, hi, rfl⟩ := List.mem_mapIdx.1 ha
    obtain ⟨j, hj, rfl⟩ := List.mem_mapIdx.1 hb
    rw [Stack.advanceClock_timeState] at ha2 hb2
    have hle := h _ (List.getElem_mem hi) ha2 _ (List.getElem_mem hj) hb2
    rw [Stack.advanceClock_locked _ _ _ ha2, Stack.advanceClock_locked _ _ _ hb2]
    omega

/-! ### The host -/

/-- The host asks within a line, over a link that is up. -/
theorem hostMemRequest_law (s : State) {st : Nat} (wr own : Bool) {addr size : Nat} (data : Nat) (poison : Bool)
    (hup : (s.stack st).linkUp = true) (hst : st < 12) (hs : 0 < size) (hl : addr % 128 + size ≤ 128) :
    let keeps := wr = false ∨ own = true
    exec (.hostMemRequest st wr own addr size data poison) s =
      if s.hostMay st addr size = false then
        .next (s.event 0x0220 st 0xFFFF (natLe 8 addr ++ natLe 1 (if wr then 1 else 0)))
      else if keeps ∧ s.filterFull st (addr / 128) = true then
        .next (s.backInvalidate (((s.stack st).snoops.take 1).map (fun x => x.line)))
      else .next ((if wr then s.hostWrite addr (natLe size data) poison 2 else s.hostRead addr size).modStack st
        (fun t => { t with snoops := t.snoops.filter (fun x => x.line != addr / 128) ++
          (if keeps then [⟨addr / 128, own && !wr, false⟩] else []) })) := by
  intro keeps
  have hkeeps : (!wr || own) = true ↔ keeps := by simp [keeps]
  show execHostMemRequest st wr own addr size data s poison = _
  unfold execHostMemRequest
  rw [if_neg (by simp [hup]; omega)]
  simp only [Bool.not_eq_true', Bool.and_eq_true, hkeeps]
  have hentry : (if keeps then some (⟨addr / 128, own && !wr, false⟩ : SnoopLine) else none).toList =
      if keeps then [⟨addr / 128, own && !wr, false⟩] else [] := by split <;> rfl
  simp only [Stack.filterLine, hentry]
  rfl

theorem backInvalidationResponse_law (s : State) (st line : Nat) (dirty : Bool) (data : Nat) (poison : Bool) :
    let t := s.modStack st (fun x => { x with snoops := x.snoops.filter (fun y => y.line != line) })
    exec (.backInvalidationResponse st line dirty data poison) s =
      if (s.stack st).linkUp = true ∧ ∃ x ∈ (s.stack st).snoops, x.line = line ∧ x.waiting = true then
        .next (if dirty then t.hostWrite (128 * line) (natLe 128 data) poison 2 else t)
      else .next s := by
  show execBackInvalidationResponse st line dirty data s poison = _
  simp only [execBackInvalidationResponse, Bool.and_eq_true, List.any_eq_true, beq_iff_eq, Stack.filterLine,
    Option.toList_none, List.append_nil]

theorem hostSnoop_down (s : State) {st : Nat} (line : Nat) (inv : Bool) (off size data : Nat) (poison : Bool)
    (h : (s.stack st).linkUp = false) : exec (.hostSnoop st line inv off size data poison) s = .next s :=
  if_pos (by simp [h])

theorem State.snoopDown_invalidates (s : State) (st line : Nat) : s.snoopDown st line true = { s with
    devLines := s.devLines.filter (fun l => !(l.line == line && s.lineEgress l == some st)) } := by
  have h : (fun l : DevLine => if (l.line == line && s.lineEgress l == some st) = true then
      (if true = true then none else some { l with copies := l.copies.map (fun c => (c.1, Moesi.s)) }) else some l) =
      Option.guard (fun l => !(l.line == line && s.lineEgress l == some st)) := by
    funext l
    by_cases hl : (l.line == line && s.lineEgress l == some st) = true <;> simp [Option.guard, hl]
  unfold State.snoopDown
  rw [h, List.filterMap_eq_filter]

theorem State.snoopDown_downgrades (s : State) (st line : Nat) : s.snoopDown st line false = { s with
    devLines := s.devLines.map (fun l => if l.line == line && s.lineEgress l == some st then
      { l with copies := l.copies.map (fun c => (c.1, Moesi.s)) } else l) } := by
  have h : (fun l : DevLine => if (l.line == line && s.lineEgress l == some st) = true then
      (if false = true then none else some { l with copies := l.copies.map (fun c => (c.1, Moesi.s)) }) else some l) =
      some ∘ fun l => if l.line == line && s.lineEgress l == some st then
        { l with copies := l.copies.map (fun c => (c.1, Moesi.s)) } else l := by
    funext l
    dsimp only [Function.comp]
    split <;> rfl
  unfold State.snoopDown
  rw [h, List.filterMap_eq_map]

theorem hostSnoop_up (s : State) {st : Nat} (line : Nat) (inv : Bool) (off size data : Nat) (poison : Bool)
    (h : (s.stack st).linkUp = true) : exec (.hostSnoop st line inv off size data poison) s =
    .next (let t := s.snoopDown st line inv
      if inv = true ∧ 0 < size ∧ off + size ≤ 128 ∧ isLocal (128 * line) = false ∧ 128 * line < 2 ^ 52 ∧
        ∀ l ∈ t.devLines, l.line ≠ line then t.hostWrite (128 * line + off) (natLe size data) poison 4
      else t) := by
  have hwrites : ∀ t : State, (inv && size != 0 && decide (off + size ≤ 128) && !isLocal (128 * line) &&
      decide (128 * line < 2 ^ 52) && !t.devLines.any (fun l => l.line == line)) = true ↔
      inv = true ∧ 0 < size ∧ off + size ≤ 128 ∧ isLocal (128 * line) = false ∧ 128 * line < 2 ^ 52 ∧
        ∀ l ∈ t.devLines, l.line ≠ line := fun t => by
    rw [Bool.and_eq_true, Bool.and_eq_true, Bool.and_eq_true, Bool.and_eq_true, Bool.and_eq_true, bne_iff_ne,
      decide_eq_true_eq, decide_eq_true_eq, Bool.not_eq_true', Bool.not_eq_true', List.any_eq_false, ← Nat.pos_iff_ne_zero,
      and_assoc, and_assoc, and_assoc, and_assoc]
    simp only [beq_iff_eq, ne_eq]
  show execHostSnoop st line inv s off size data poison = _
  unfold execHostSnoop
  rw [if_neg (by simp [h])]
  dsimp only
  rw [ite_of_iff (hwrites _) rfl rfl]
  split <;> rfl

/-- Settles O60. -/
theorem linksRoutesAndTime : Obligations.LinksRoutesAndTime := by
  intro s st k
  refine ⟨?links, fun v which => rfl, rfl, fun g w v n p hv hp => ?_, fun g w v n p hv hp => completionTimeout_store hv hp,
    s.failBytes_law, fun n x hx => rfl, fun n => ?_, fun line => ?_, fun hr hb => ?_, fun h => ?_, fun master he => ?_,
    fun master he => ptmExchange_law s master he, ?_, s.tickClocks_agree, ?host, fun line dirty data poison hup hx => ?_,
    fun line dirty data poison h => ?_, fun line inv off size data poison h => hostSnoop_down s line inv off size data poison h,
    ?snoop⟩
  case links =>
    intro e he
    simp only [List.mem_cons, List.not_mem_nil, or_false] at he
    rcases he with rfl | rfl <;>
      refine ⟨fun hup hst => if_pos (Bool.and_eq_true _ _ ▸ ⟨hup, decide_eq_true hst⟩),
        fun h => if_neg fun hn => ?_⟩ <;>
      · rw [Bool.and_eq_true, decide_eq_true_eq] at hn
        exact h.elim (fun hd => ne_true_of_eq_false hd hn.1) (Nat.not_le.2 hn.2)
  case host =>
    intro wr own addr size data poison event
    refine ⟨fun h => if_pos ?_, fun hup hst hs hl => ?_⟩
    · rw [Bool.or_eq_true, decide_eq_true_eq, Bool.or_eq_true, decide_eq_true_eq, Bool.or_eq_true, decide_eq_true_eq,
        Bool.not_eq_true', or_assoc, or_assoc]
      exact h
    · intro keeps
      have hlaw := hostMemRequest_law s wr own data poison hup hst hs hl
      refine ⟨fun hm => hlaw.trans (if_pos hm), fun hm hk hf => hlaw.trans ((if_neg (ne_false_of_eq_true hm)).trans
        (if_pos ⟨hk, hf⟩)), fun hm hk => hlaw.trans ((if_neg (ne_false_of_eq_true hm)).trans (if_neg hk))⟩
  case snoop =>
    intro line off size data poison hup gone writes
    have hinv := (hostSnoop_up s line true off size data poison hup).trans (by rw [State.snoopDown_invalidates])
    have hdown := (hostSnoop_up s line false off size data poison hup).trans (by rw [State.snoopDown_downgrades])
    refine ⟨fun h => hinv.trans (congrArg _ (if_pos ⟨rfl, h⟩)), fun h => hinv.trans (congrArg _ (if_neg fun hw => h hw.2)),
      hdown.trans (congrArg _ (if_neg fun hw => Bool.false_ne_true hw.1))⟩
  · exact ⟨fun h => (completionTimeout_load hv hp).trans (congrArg _ (if_pos h)), fun h =>
      (completionTimeout_load hv hp).trans (congrArg _ (if_neg fun hn => h.elim hn.1 fun hr => by simp [hr] at hn))⟩
  · exact ⟨fun l hl => by rw [completionTimeout_line, hl]; rfl, fun hl => by rw [completionTimeout_line, hl]⟩
  · exact ⟨fun y hy => by rw [completionTimeout_snoop, hy], fun hy => by rw [completionTimeout_snoop, hy]⟩
  · refine ⟨(routeFreeze_law s st).trans (if_pos ⟨hr, hb⟩), fun hf old => ?_, fun hf old => ?_⟩
    · have hlaw := (routeUnfreeze_law s st old).trans (if_pos ⟨⟨hr, hb⟩, hf⟩)
      exact ⟨fun h => hlaw.trans (if_pos h), fun h => hlaw.trans (if_neg fun ⟨x, hx, hxf⟩ =>
        ne_true_of_eq_false (h x hx) hxf)⟩
    · exact (routeUnfreeze_law s st old).trans (if_neg fun hn => ne_true_of_eq_false hf hn.2)
  · have hno : ¬ (s.complexRuns = true ∧ (s.stack st).bootState = 4) := fun hn =>
      h.elim (fun hr => ne_true_of_eq_false hr hn.1) fun hb => hb hn.2
    exact ⟨(routeFreeze_law s st).trans (if_neg hno), fun old => (routeUnfreeze_law s st old).trans
      (if_neg fun hn => hno hn.1)⟩
  · exact if_pos (by simpa using he)
  · show execPtmHoldoverTimeout st s = _
    unfold execPtmHoldoverTimeout
    dsimp only
    split <;> rfl
  · exact (backInvalidationResponse_law s st line dirty data poison).trans (if_pos ⟨hup, hx⟩)
  · refine (backInvalidationResponse_law s st line dirty data poison).trans (if_neg fun ⟨hup, x, hx, hw⟩ => ?_)
    exact h.elim (fun hd => ne_true_of_eq_false hd hup) fun hn => hn x hx hw

end Sys2Proof.Machine
end

section
/-! SUPPORT. Power-up, boot, identity and quotes. -/
namespace Sys2Proof.Machine

/-! ### Power-up -/

/-- What a power-up leaves before it looks whether the partition has lost its last stack. -/
def State.poweredUp (s : State) (st : Nat) : State :=
  let t := ((s.dropComplex st).dropStack st).zeroStack st
  { t with stackTab := t.stackTab.set st Stack.reset, cur := none }

theorem powerUp_law (s : State) (st : Nat) : exec (.powerUp st) s =
    .next (if ((s.stack st).enable && ((s.poweredUp st).members (s.stack st).partNum).isEmpty) = true then
      (s.poweredUp st).dropPartition (s.stack st).partNum else s.poweredUp st) := rfl

/-- Nothing of what a stack holds is left after its reset. -/
structure State.Emptied (t : State) (st : Nat) : Prop where
  commands : ∀ p ∈ t.commands, p.2.stack ≠ st
  reservations : ∀ r ∈ t.reservations, r.2.stack ≠ st
  devLines : ∀ l ∈ t.devLines, ∀ c ∈ l.copies, c.1 ≠ st
  queues : ∀ q ∈ t.queues, q.2.home ≠ st
  mem : ∀ pa, isLocal pa = true → homeStack pa = st → Sparse.get 0 t.mem pa = 0

theorem State.poweredUp_emptied (s : State) (st : Nat) : (s.poweredUp st).Emptied st where
  commands p hp := by
    have h := of_filter_mem hp
    rw [Bool.and_eq_true, bne_iff_ne] at h
    exact h.1
  reservations r hr := by
    have h := of_filter_mem hr
    exact bne_iff_ne.1 h
  devLines l hl c hc := by
    obtain ⟨l, _, rfl⟩ := List.mem_map.1 hl
    have h := of_filter_mem hc
    exact bne_iff_ne.1 h
  queues q hq := by
    have h := of_filter_mem hq
    exact bne_iff_ne.1 h
  mem pa hl hh := (((s.dropComplex st).dropStack st).zeroStack_mem st pa).trans (if_pos ⟨hl, hh⟩)

/-- The end of a partition leaves no more than there was. -/
theorem State.Emptied.dropPartition {t : State} {st : Nat} (h : t.Emptied st) (p : Nat) :
    (t.dropPartition p).Emptied st where
  commands c hc := h.commands c (mem_of_filter_mem hc)
  reservations r hr := h.reservations r (mem_of_filter_mem hr)
  devLines := h.devLines
  queues q hq := h.queues q (mem_of_filter_mem hq)
  mem := h.mem

theorem State.Emptied.ite {t u : State} {st : Nat} {c : Bool} (ht : t.Emptied st) (hu : u.Emptied st) :
    (if c = true then t else u).Emptied st := by
  split
  · exact ht
  · exact hu

theorem State.dropComplex_idle {s : State} {st : Nat} (hst : st ≠ s.activeStack) (hc : s.castling = none) :
    s.dropComplex st = s := by
  unfold State.dropComplex
  rw [if_pos hst, if_neg (by simp [hc])]

/-- Of a stack that holds no active complex, a power-up leaves the others as they were. -/
theorem State.poweredUp_idle {s : State} {st : Nat} (hst : st ≠ s.activeStack) (hc : s.castling = none) :
    (s.poweredUp st).stackTab = s.stackTab.set st Stack.reset ∧ (s.poweredUp st).mem = (s.zeroStack st).mem ∧
    (s.poweredUp st).poison = (s.zeroStack st).poison ∧ (s.poweredUp st).partitions = s.partitions ∧
    (s.poweredUp st).contexts = s.contexts ∧ (s.poweredUp st).launches = s.launches := by
  unfold State.poweredUp
  rw [State.dropComplex_idle hst hc]
  exact ⟨rfl, rfl, rfl, rfl, rfl, rfl⟩

/-! ### Boot -/

theorem bootLoadConfig_law (s : State) {st : Nat} (done : Bool) (hst : st < 12) :
    exec (.bootLoadConfig st done) s =
      if done = false then
        .next (if (s.stack st).bootState = 0 ∨ (s.stack st).bootState = 6 then
          s.modStack st (fun t => { t with bootState := 1 }) else s)
      else if (s.stack st).bootState = 1 then .next (s.verified st)
      else if (s.stack st).bootState = 3 then
        .next (s.modStack st (fun t => { t with bootState := 4, sdMode := true, sdState := true }))
      else .next s := by
  show execBootLoadConfig st s done = _
  unfold execBootLoadConfig
  dsimp only
  rw [if_neg (Nat.not_le.2 hst)]
  simp only [Bool.not_eq_true', Bool.or_eq_true, beq_iff_eq]

theorem State.verified_wait (s : State) (st : Nat) {lines : List Nat}
    (h : s.readImage st 2 (s.stack st).bootArg.toNat = .wait lines) : s.verified st = s.backInvalidate lines := by
  simp only [State.verified, h]

theorem State.verified_error (s : State) (st : Nat) {code : Nat}
    (h : s.readImage st 2 (s.stack st).bootArg.toNat = .error code) :
    s.verified st = s.modStack st (fun t => t.bootFails code) := by
  simp only [State.verified, h]

theorem State.verified_ok (s : State) (st : Nat) {image : List Byte}
    (h : s.readImage st 2 (s.stack st).bootArg.toNat = .ok image) :
    s.verified st = s.modStack st (fun t => t.takeIdentity st image) := by
  simp only [State.verified, h]

theorem Stack.takeIdentity_none (t : Stack) (st : Nat) (image : List Byte)
    (h : Config.seed st (if enrols st image then padded 2048 (Config.helper st) else (section_ st image).take 2048) = none) :
    t.takeIdentity st image = t.bootFails 6 := by
  simp only [Stack.takeIdentity, h]

theorem Stack.takeIdentity_some (t : Stack) (st : Nat) (image : List Byte) {seed : BitVec 256}
    (h : Config.seed st (if enrols st image then padded 2048 (Config.helper st) else (section_ st image).take 2048) =
      some seed) :
    t.takeIdentity st image =
      let u := { t.takeConfig st image with
        secret := privateKey seed, idpub := publicKey (privateKey seed), bootSince := t.now }
      if enrols st image then { u with helper := padded 2048 (Config.helper st), bootState := 5 }
      else { u with bootState := 2 } := by
  simp only [Stack.takeIdentity, h]

/-- With no host copy or frozen route in the way, the first check that fails gives the code. -/
theorem State.readImage_law (s : State) (st type pa : Nat) (hf : s.frozenFor st pa = false)
    (hl : s.snoopLines pa (imageBytes type (readBytes s.mem pa 192)) false = []) :
    let h := readBytes s.mem pa 192
    let size := imageBytes type h
    let image := readBytes s.mem pa size
    s.readImage st type pa =
      if ¬ (s.imageReadable st pa 192 = true ∧ s.imageReadable st pa size = true) then .error 1
      else if ¬ (imageShapeOk type h = true ∧ imageReservedOk type h = true ∧
        (type = 2 → sectionOk (section_ st image) = true)) then .error 2
      else if sha256 ((h.drop 64).take 64) ≠ Config.rootDigest then .error 3
      else if ecdsaVerifies ((image.drop 64).take 64) ((image.drop 128).take 64)
        (image.take 128 ++ image.drop 192) = true then .ok image
      else .error 4 := by
  intro h size image
  have hthere : (!s.imageReadable st pa headerBytes || !s.imageReadable st pa size) = true ↔
      ¬ (s.imageReadable st pa 192 = true ∧ s.imageReadable st pa size = true) := by
    simp only [headerBytes, Bool.or_eq_true, Bool.not_eq_true', not_and_iff, Bool.not_eq_true]
  have hshape : (!imageShapeOk type h || !imageReservedOk type h || (type == 2 && !sectionOk (section_ st image))) = true ↔
      ¬ (imageShapeOk type h = true ∧ imageReservedOk type h = true ∧
        (type = 2 → sectionOk (section_ st image) = true)) := by
    simp only [Bool.or_eq_true, Bool.not_eq_true', Bool.and_eq_true, beq_iff_eq, not_and_iff, Bool.not_eq_true,
      Classical.not_imp, or_assoc]
  have hclear : ¬ (s.frozenFor st pa || !(s.snoopLines pa size false).isEmpty) = true := by
    rw [hf, show s.snoopLines pa size false = [] from hl]
    decide
  refine (if_neg hclear).trans (ite_of_iff hthere rfl (ite_of_iff hshape rfl (ite_of_iff Iff.rfl rfl ?_)))
  show (if (!ecdsaVerifies ((image.drop 64).take 64) ((image.drop 128).take 64) (signedMessage image)) = true
    then _ else _) = _
  rw [signedMessage]
  cases ecdsaVerifies ((image.drop 64).take 64) ((image.drop 128).take 64) (image.take 128 ++ image.drop 192) <;> rfl

/-! ### Identity -/

theorem idpubReceived_law (s : State) {st : Nat} {keys : List Byte} (h2 : (s.stack st).bootState = 2)
    (hk : s.allKeys = some keys) : exec (.idpubReceived st) s = .next (s.modStack st (fun t =>
      if sha256 keys = t.configDigest then { t.applyMap with bootState := 3 } else t.bootFails 5)) := by
  show execIdpubReceived st s = _
  simp only [execIdpubReceived, h2, hk]

theorem idpubReceived_stays (s : State) {st : Nat} (h : (s.stack st).bootState ≠ 2 ∨ s.allKeys = none) :
    exec (.idpubReceived st) s = .next s := by
  show execIdpubReceived st s = _
  unfold execIdpubReceived
  split
  next keys h2 hk => exact h.elim (fun hn => absurd h2 hn) fun hn => absurd (hk.symm.trans hn) (by simp)
  · rfl

theorem idpubTimeout_law (s : State) (st : Nat) : exec (.idpubTimeout st) s =
    if (s.stack st).bootState = 2 ∧ s.allKeys = none ∧ (s.stack st).bootSince + 100000000 ≤ (s.stack st).now then
      .next (s.modStack st (fun t => t.bootFails 5)) else .next s := rfl

/-! ### Quotes -/

theorem bootProduceQuote_law (s : State) (st : Nat) : exec (.bootProduceQuote st) s =
    if ((s.stack st).bootState = 4 ∨ (s.stack st).bootState = 5) ∧ (s.stack st).bootQuote = false then
      let t := s.modStack st (fun t => { t with bootQuote := true, quote := [] })
      .next (if s.castling = none then t.sampleQuote st else t)
    else .next s := by
  have hobeys : (!((s.stack st).bootState == 4 || (s.stack st).bootState == 5) || (s.stack st).bootQuote) = true ↔
      ¬ (((s.stack st).bootState = 4 ∨ (s.stack st).bootState = 5) ∧ (s.stack st).bootQuote = false) := by
    rw [Bool.or_eq_true, Bool.not_eq_true', Bool.eq_false_iff, ne_eq, Bool.or_eq_true, beq_iff_eq, beq_iff_eq,
      not_and_iff, Bool.not_eq_false]
  show execBootProduceQuote st s = _
  unfold execBootProduceQuote
  dsimp only
  rw [ite_of_iff hobeys rfl rfl, ite_not]
  refine ite_of_iff Iff.rfl (congrArg _ ?_) rfl
  cases hc : s.castling <;> simp

theorem quoteWriteComplete_law (s : State) {st : Nat} (ok : Bool) (hq : (s.stack st).bootQuote = true) :
    let k := s.stack st
    let done := s.modStack st (fun t => { t with bootQuote := false, quote := [] })
    let pa := k.attArg.toNat
    exec (.quoteWriteComplete st ok) s =
      if k.quote = [] then .next (if s.castling = none then s.sampleQuote st else s)
      else if s.frozenFor st pa = true then .next s
      else if ok = true ∧ k.linkUp = true ∧ isLocal pa = false ∧ pa + 384 ≤ 2 ^ 52 then
        .next (done.putDevice pa k.quote)
      else .next done := by
  intro k done pa
  have hgoes : (ok && k.linkUp && !isLocal pa && decide (pa + 384 ≤ 2 ^ 52)) = true ↔
      (ok = true ∧ k.linkUp = true ∧ isLocal pa = false ∧ pa + 384 ≤ 2 ^ 52) := by
    rw [Bool.and_eq_true, Bool.and_eq_true, Bool.and_eq_true, Bool.not_eq_true', decide_eq_true_eq, and_assoc, and_assoc]
  refine (if_neg (by simp [hq])).trans (ite_of_iff List.isEmpty_iff (congrArg _ ?_) (ite_of_iff Iff.rfl rfl
    (ite_of_iff hgoes rfl rfl)))
  cases hc : s.castling <;> simp

/-- Settles O58. -/
theorem bootAndIdentity : Obligations.BootAndIdentity := by
  intro s st k state
  refine ⟨?power, fun hst => ?boot, fun done hst => if_pos hst, ?image, fun keys h2 hk => idpubReceived_law s h2 hk,
    fun h => idpubReceived_stays s h, fun h2 hk => ?_, fun h => ?_, ?quote, fun ok hq hne => ?written⟩
  case power =>
    have hall := s.poweredUp_emptied st
    obtain ⟨hcom, hres, hdev, hque, hmem⟩ :=
      (hall.dropPartition (s.stack st).partNum).ite (c := k.enable && ((s.poweredUp st).members k.partNum).isEmpty) hall
    refine ⟨_, powerUp_law s st, hcom, hres, hdev, hque, hmem, fun hst hc => ?_⟩
    obtain ⟨htab, hmem, hpoi, hpar, hctx, hlau⟩ := State.poweredUp_idle hst hc
    split
    next hlast => exact ⟨htab, hmem, hpoi, fun he => absurd hlast (by simp [show (s.stack st).enable = false from he])⟩
    · exact ⟨htab, hmem, hpoi, fun _ => ⟨hpar, hctx, hlau⟩⟩
  case boot =>
    have hlaw := fun done => bootLoadConfig_law s done hst
    have hends : state = 1 → exec (.bootLoadConfig st true) s = .next (s.verified st) := fun h1 =>
      (hlaw true).trans ((if_neg (by decide)).trans (if_pos h1))
    refine ⟨fun h => ?_, fun h0 h6 => ?_, fun h1 => ⟨fun lines hi => ?_, fun code hi => ?_, fun image hi => ?_⟩, fun h3 => ?_,
      fun h1 h3 => ?_⟩
    · exact (hlaw false).trans ((if_pos rfl).trans (congrArg _ (if_pos h)))
    · exact (hlaw false).trans ((if_pos rfl).trans (congrArg _ (if_neg fun h => h.elim h0 h6)))
    · exact (hends h1).trans (congrArg _ (s.verified_wait st hi))
    · exact (hends h1).trans (congrArg _ (s.verified_error st hi))
    · refine ⟨fun hs => ?_, fun seed hs => ?_⟩ <;>
        refine (hends h1).trans (congrArg _ ((s.verified_ok st hi).trans (State.modStack_congr ?_)))
      · exact Stack.takeIdentity_none _ st image hs
      · exact Stack.takeIdentity_some _ st image hs
    · exact (hlaw true).trans ((if_neg (by decide)).trans ((if_neg fun h1 => absurd (h1.symm.trans h3) (by decide)).trans
      (if_pos h3)))
    · exact (hlaw true).trans ((if_neg (by decide)).trans ((if_neg h1).trans (if_neg h3)))
  case image =>
    intro type pa hf hl h size image shape there
    have hlaw := s.readImage_law st type pa hf hl
    refine ⟨fun hn => hlaw.trans (if_pos hn), fun ht hs => ?_, fun ht hs hd => ?_, fun ht hs hd => ?_⟩ <;>
      refine hlaw.trans ((if_neg (not_not_intro ht)).trans ?_)
    · exact if_pos hs
    · exact (if_neg (not_not_intro hs)).trans (if_pos hd)
    · exact (if_neg (not_not_intro hs)).trans (if_neg (not_not_intro hd))
  case quote =>
    intro pending sampled
    have hlaw := bootProduceQuote_law s st
    refine ⟨fun h4 hq => ⟨fun hc => ?_, fun hc => ?_⟩, fun h => ?_, fun ok hq => if_pos (Bool.not_eq_true' _ ▸ hq),
      fun ok hq he => ?_⟩
    · exact hlaw.trans ((if_pos ⟨h4, hq⟩).trans (congrArg _ (if_pos hc)))
    · exact hlaw.trans ((if_pos ⟨h4, hq⟩).trans (congrArg _ (if_neg hc)))
    · refine hlaw.trans (if_neg fun ⟨h4, hq⟩ => ?_)
      exact h.elim (fun hn => h4.elim hn.1 hn.2) (ne_true_of_eq_false hq)
    · exact (quoteWriteComplete_law s ok hq).trans (if_pos he)
  case written =>
    intro done pa written
    have hlaw := (quoteWriteComplete_law s ok hq).trans (if_neg hne)
    exact ⟨fun hf => hlaw.trans (if_pos hf), fun hf hw => hlaw.trans ((if_neg (ne_true_of_eq_false hf)).trans (if_pos hw)),
      fun hf hw => hlaw.trans ((if_neg (ne_true_of_eq_false hf)).trans (if_neg hw))⟩
  · refine (idpubTimeout_law s st).trans ?_
    by_cases ht : k.bootSince + 100000000 ≤ k.now
    · rw [if_pos ht]
      exact if_pos ⟨h2, hk, ht⟩
    · rw [if_neg ht]
      exact if_neg fun h => ht h.2.2
  · exact (idpubTimeout_law s st).trans (if_neg fun hn => h.elim (fun h2 => h2 hn.1) fun hk => hk hn.2.1)

end Sys2Proof.Machine
end

section
/-! SUPPORT. The packets of an administrative queue, the end of a context, and the move of a page. -/
namespace Sys2Proof.Machine

/-! ### The end of a context -/

theorem aget_adel {α : Type} (m : List (Nat × α)) (k n : Nat) : aget (adel m k) n = if n = k then none else aget m n := by
  induction m with
  | nil => simp [adel, aget]
  | cons p m ih =>
    have hcons : adel (p :: m) k = if p.1 ≠ k then p :: adel m k else adel m k := by
      simp only [adel, List.filter_cons, decide_eq_true_eq]
    rw [hcons]
    by_cases hp : p.1 = k
    · rw [if_neg (not_not_intro hp), ih]
      by_cases hn : n = k
      · rw [if_pos hn, if_pos hn]
      · rw [if_neg hn, if_neg hn, aget, if_neg (hp ▸ Ne.symm hn)]
    · rw [if_pos hp, aget, aget, ih]
      by_cases hn : n = k
      · rw [if_neg (hn ▸ hp), if_pos hn, if_pos hn]
      · rw [if_neg hn, if_neg hn]

/-- A context without invalidations goes without a write. -/
theorem State.endInvalidations_none {s : State} {ctx : Nat} (h : ∀ x ∈ s.invalidations, x.ctx ≠ ctx) :
    (s.endInvalidations ctx).mem = s.mem ∧ (s.endInvalidations ctx).contexts = s.contexts := by
  have hnone : s.invalidations.filter (fun x => x.ctx == ctx) = [] :=
    List.filter_eq_nil_iff.2 fun x hx => by simpa using h x hx
  unfold State.endInvalidations
  rw [hnone]
  exact ⟨rfl, rfl⟩

theorem State.removeContext_law (s : State) (ctx : Nat) : aget (s.removeContext ctx).contexts ctx = none ∧
    (∀ p ∈ (s.removeContext ctx).queues, p.2.ctx = ctx → p.2.admin.isSome = true) ∧
    ((∀ x ∈ s.invalidations, x.ctx ≠ ctx) → (s.removeContext ctx).mem = s.mem ∧
      ∀ n, n ≠ ctx → aget (s.removeContext ctx).contexts n = aget s.contexts n) := by
  refine ⟨(aget_adel _ _ _).trans (if_pos rfl), fun p hp hc => ?_, fun hi => ?_⟩
  · have h := of_filter_mem hp
    rw [Bool.or_eq_true, bne_iff_ne] at h
    exact h.resolve_left (not_not_intro hc)
  · obtain ⟨hmem, hctx⟩ := State.endInvalidations_none hi
    refine ⟨hmem, fun n hn => (aget_adel _ _ _).trans ((if_neg hn).trans ?_)⟩
    rw [hctx]

/-! ### The move of a page -/

theorem State.writePlacement_none {s : State} {ctx : Nat} {c : Context} (hc : aget s.contexts ctx = some c)
    (hp : c.placeCount = 0) (va : Nat) (f : BitVec 16 → BitVec 16) : s.writePlacement ctx va f = s := by
  have hnone : s.placement ctx va = none := by
    unfold State.placement
    rw [hc]
    exact if_pos (Or.inr (by rw [hp]; exact Nat.zero_le _))
  unfold State.writePlacement
  rw [hnone]

theorem State.rollbackWaves_none {s : State} (h : s.gangs = []) (which : Nat → Gang → Spec → Bool) :
    s.rollbackWaves which = s := by
  unfold State.rollbackWaves
  rw [h]
  rfl

theorem State.releaseHeld_bare {s : State} (h : s.gangs = []) (ctx st lo hi : Nat) :
    (s.releaseHeld ctx st lo hi).mem = s.mem ∧ (s.releaseHeld ctx st lo hi).gangs = [] := by
  unfold State.releaseHeld
  rw [h]
  exact ⟨rfl, rfl⟩

theorem State.releaseAll_bare (xs : List Nat) (ctx lo hi : Nat) {s : State} (h : s.gangs = []) :
    (xs.foldl (fun (u : State) k => u.releaseHeld ctx k lo hi) s).mem = s.mem := by
  induction xs generalizing s with
  | nil => rfl
  | cons x xs ih =>
    obtain ⟨hmem, hgangs⟩ := State.releaseHeld_bare h ctx x lo hi
    exact (ih hgangs).trans hmem

theorem State.copyPage_frame (s : State) (src dst : Nat) :
    (s.copyPage src dst).mem = writeBytes s.mem dst (readBytes s.mem src 65536) ∧
    (s.copyPage src dst).gangs = s.gangs ∧ (s.copyPage src dst).contexts = s.contexts := by
  unfold State.copyPage
  exact ⟨by with_reducible rfl, by with_reducible rfl, by with_reducible rfl⟩

/-- The steps of a move after the copy: the leaf, the translations, the placement entry and the held accesses. -/
def State.afterCopy (u : State) (members : List Nat) (ctx va dst st place : Nat) (leaf : W64) : State :=
  let moved : W64 := (leaf &&& ~~~(BitVec.ofNat 64 (2 ^ 52 - 256))) ||| BitVec.ofNat 64 dst
  let t := u.putDevice place (natLe 8 moved.toNat)
  let t : State := { t with stackTab := t.stackTab.map (fun k => k.dropRange ctx va (va + 65536)) }
  let t := t.writePlacement ctx va (fun e => (e &&& 0xB0F0#16) ||| BitVec.ofNat 16 st)
  members.foldl (fun (u : State) k => u.releaseHeld ctx k va (va + 65536)) t

theorem State.afterCopy_mem {u : State} {ctx : Nat} {c : Context} (hc : aget u.contexts ctx = some c)
    (hp : c.placeCount = 0) (hg : u.gangs = []) (members : List Nat) (va dst st place : Nat) (leaf : W64) :
    (u.afterCopy members ctx va dst st place leaf).mem =
      writeBytes u.mem place (natLe 8 ((leaf &&& ~~~(BitVec.ofNat 64 (2 ^ 52 - 256))) ||| BitVec.ofNat 64 dst).toNat) := by
  have hput : ∀ bs, u.putDevice place bs = u.writeMem u.deviceAuthor place bs false := fun bs =>
    State.put_alone (fun p hp => absurd (hg ▸ hp) List.not_mem_nil) _ _ _ _
  have hplace : ∀ (t : State) f, t.contexts = u.contexts → t.writePlacement ctx va f = t := fun t f ht =>
    State.writePlacement_none (ht ▸ hc) hp va f
  unfold State.afterCopy
  dsimp only
  rw [hput, hplace]
  · exact State.releaseAll_bare members ctx va (va + 65536) (s := { u.writeMem u.deviceAuthor place _ false with
      stackTab := (u.writeMem u.deviceAuthor place _ false).stackTab.map _ }) hg
  · rfl

/-- With nothing resident and nothing pending, a page moves by its bytes and its leaf alone. -/
theorem State.migrate_mem {s : State} {ctx : Nat} {c : Context} (hc : aget s.contexts ctx = some c)
    (hp : c.placeCount = 0) (hm : s.matoms = []) (hg : s.gangs = []) (part va src dst st place : Nat) (leaf : W64) :
    (s.migrate ctx part va src dst st place leaf).mem =
      writeBytes (writeBytes s.mem dst (readBytes s.mem src 65536)) place
        (natLe 8 ((leaf &&& ~~~(BitVec.ofNat 64 (2 ^ 52 - 256))) ||| BitVec.ofNat 64 dst).toNat) := by
  have hsteps : s.migrate ctx part va src dst st place leaf =
      (s.copyPage src dst).afterCopy (s.members part) ctx va dst st place leaf := by
    have hfirst : s.writePlacement ctx va (fun e => (e &&& 0xB0FF#16) ||| 0x4000#16 ||| BitVec.ofNat 16 (st % 16 * 256)) = s :=
      State.writePlacement_none hc hp va _
    have hback := State.rollbackWaves_none hg (fun _ _ sp => sp.reads.any (fun r => !r.1 && r.2 / 4096 == src / 65536) ||
      sp.stores.any (fun b => !b.spad && b.addr / 65536 == src / 65536))
    have hperform : s.performPage src s.matoms.length = s := by rw [hm]; rfl
    show State.afterCopy (State.copyPage (State.performPage (State.rollbackWaves (State.writePlacement s ctx va _) _) src
      (State.rollbackWaves (State.writePlacement s ctx va _) _).matoms.length) src dst) (s.members part) ctx va dst st place
      leaf = _
    rw [hfirst, hback, hperform]
  obtain ⟨hcmem, hcgangs, hcctx⟩ := s.copyPage_frame src dst
  rw [hsteps]
  generalize s.copyPage src dst = u at hcmem hcgangs hcctx ⊢
  rw [State.afterCopy_mem (hcctx ▸ hc) hp (hcgangs.trans hg), hcmem]

/-- The page is at its new place, its leaf names it, and every other byte is as it was. -/
theorem State.migrate_moves {s : State} {ctx : Nat} {c : Context} (hc : aget s.contexts ctx = some c)
    (hp : c.placeCount = 0) (hm : s.matoms = []) (hg : s.gangs = []) (part va src dst st place : Nat) (leaf : W64)
    (hd : place + 8 ≤ dst ∨ dst + 65536 ≤ place) :
    let t := s.migrate ctx part va src dst st place leaf
    readBytes t.mem dst 65536 = readBytes s.mem src 65536 ∧
    t.readNat place 8 = ((leaf &&& ~~~(BitVec.ofNat 64 (2 ^ 52 - 256))) ||| BitVec.ofNat 64 dst).toNat ∧
    ∀ a, (a < dst ∨ dst + 65536 ≤ a) → (a < place ∨ place + 8 ≤ a) → Sparse.get 0 t.mem a = Sparse.get 0 s.mem a := by
  intro t
  have hmem := State.migrate_mem hc hp hm hg part va src dst st place leaf
  generalize ((leaf &&& ~~~(BitVec.ofNat 64 (2 ^ 52 - 256))) ||| BitVec.ofNat 64 dst) = moved at hmem ⊢
  have hlen : (readBytes s.mem src 65536).length = 65536 := readBytes_length ..
  generalize readBytes s.mem src 65536 = page at hmem hlen ⊢
  generalize 65536 = n at hd hlen ⊢
  have hleaf : (natLe 8 moved.toNat).length = 8 := natLe_length ..
  refine ⟨?_, ?_, fun a ha hb => ?_⟩
  · rw [hmem, readBytes_writeBytes_other _ _ _ _ _ (by rw [hleaf]; exact hd.symm), ← hlen]
    exact readBytes_writeBytes_same ..
  · have hread := readBytes_writeBytes_same (writeBytes s.mem dst page) place (natLe 8 moved.toNat)
    rw [hleaf] at hread
    rw [State.readNat, hmem, hread, leNat_natLe]
    exact Nat.mod_eq_of_lt moved.isLt
  · rw [hmem, get_writeBytes_other _ _ _ _ (by rw [hleaf]; exact hb),
      get_writeBytes_other _ _ _ _ (by rw [hlen]; exact ha)]

/-! ### Packets -/

theorem isEmpty_not_iff {α : Type} {xs : List α} : (!xs.isEmpty) = true ↔ xs ≠ [] := by
  rw [Bool.not_eq_true', List.isEmpty_eq_false_iff]

section
variable {s : State} {k kind : Nat} {q : Queue} (hw : Worked s k q) (hm : q.mayStart = true) (hc : s.castling = none)
  (hk : pktKind q.packet = kind)
include hw

/-- An event that is the start of a packet of its kind. -/
theorem Worked.stays {e : Instr} {start : Queue → Nat → List Byte → Begun}
    (he : exec e s = .next (s.packet k kind start)) (hn : q.mayStart = false ∨ pktKind q.packet ≠ kind) :
    exec e s = .next s := he.trans (congrArg _ (hw.packet_stays hn start))

include hm hc hk

theorem Worked.begins {e : Instr} {start : Queue → Nat → List Byte → Begun} {b : Begun}
    (he : exec e s = .next (s.packet k kind start)) (hb : start q (q.consumed - 1) q.packet = b) :
    PacketBegins e s k (q.consumed - 1) b :=
  he.trans (congrArg _ ((hw.packet_begins hm hc hk start).trans (congrArg _ hb)))

end

/-- What a descriptor's packet makes of the read of its descriptor. -/
theorem Worked.createContext_begins {s : State} {k : Nat} {q : Queue} (hw : Worked s k q) (hm : q.mayStart = true)
    (hc : s.castling = none) (hk : pktKind q.packet = 32) :
    let begins := PacketBegins (.createContext k) s k (q.consumed - 1)
    (∀ b known, s.cpRead q (pkt q.packet 8 8) 128 = .ok b known → begins (
      if s.contextOk (q.admin.getD 12) q.home b then
        .done { s with contexts := s.contexts ++ [(pkt b 28 2, contextOf b (q.admin.getD 12))] }
      else .error 5 0)) ∧
    (∀ page, s.cpRead q (pkt q.packet 8 8) 128 = .hold page → begins (.blocked (s.cpHold k q page))) ∧
    (∀ lines, s.cpRead q (pkt q.packet 8 8) 128 = .recall lines → begins (.blocked (s.backInvalidate lines))) ∧
    (s.cpRead q (pkt q.packet 8 8) 128 = .refused → begins (.error 8 0)) := by
  intro begins
  exact ⟨fun b known hr => hw.begins hm hc hk rfl (by dsimp only; rw [hr]),
    fun page hr => hw.begins hm hc hk rfl (by dsimp only; rw [hr]),
    fun lines hr => hw.begins hm hc hk rfl (by dsimp only; rw [hr]),
    fun hr => hw.begins hm hc hk rfl (by dsimp only; rw [hr])⟩

theorem Worked.registerQueue_begins {s : State} {k : Nat} {q : Queue} (hw : Worked s k q) (hm : q.mayStart = true)
    (hc : s.castling = none) (hk : pktKind q.packet = 34) :
    let begins := PacketBegins (.registerQueue k) s k (q.consumed - 1)
    let n := pkt q.packet 16 4
    (∀ b known, s.cpRead q (pkt q.packet 8 8) 64 = .ok b known → begins (
      if s.queueOk (q.admin.getD 12) b = true ∧ aget s.queues n = none then
        .done { s with queues := s.queues ++ [(n, queueOf b)] }
      else .error 5 0)) ∧
    (∀ page, s.cpRead q (pkt q.packet 8 8) 64 = .hold page → begins (.blocked (s.cpHold k q page))) ∧
    (∀ lines, s.cpRead q (pkt q.packet 8 8) 64 = .recall lines → begins (.blocked (s.backInvalidate lines))) ∧
    (s.cpRead q (pkt q.packet 8 8) 64 = .refused → begins (.error 8 0)) := by
  intro begins n
  refine ⟨fun b known hr => hw.begins hm hc hk rfl ?_,
    fun page hr => hw.begins hm hc hk rfl (by dsimp only; rw [hr]),
    fun lines hr => hw.begins hm hc hk rfl (by dsimp only; rw [hr]),
    fun hr => hw.begins hm hc hk rfl (by dsimp only; rw [hr])⟩
  dsimp only
  rw [hr]
  simp only [Bool.and_eq_true, Option.isNone_iff_eq_none]
  rfl

theorem Worked.destroyContext_law {s : State} {k : Nat} {q : Queue} (hw : Worked s k q) (hm : q.mayStart = true)
    (hc : s.castling = none) (hk : pktKind q.packet = 33) (ctx : Nat) (hctx : pkt q.packet 8 2 = ctx) :
    exec (.destroyContext k) s = .next (State.finishDestroy (Begun.ends k (q.consumed - 1) s
      (if (s.ownContext q ctx).isNone then .error 5 0
      else if s.resetLines ctx = [] then .running (s.resetContext ctx true)
      else .blocked (s.backInvalidate (s.resetLines ctx)))) k) := by
  subst hctx
  refine congrArg (fun t => Host.Outcome.next (State.finishDestroy t k))
    ((hw.packet_begins hm hc hk _).trans (congrArg _ ?_))
  dsimp only
  cases s.ownContext q (pkt q.packet 8 2) with
  | none => rfl
  | some c => exact (ite_of_iff List.isEmpty_iff rfl rfl).trans (if_neg (by simp)).symm

/-- A pre-empt packet: what its start makes of the ladder, and the ladder settles. -/
def State.preemptStart (s : State) (k i ctx : Nat) (q : Queue) (bs : List Byte) : Begun :=
  match s.ownContext q ctx with
  | none => .error 5 0
  | some c =>
    if c.rung != .none then .blocked s
    else
      let t := s.modContext ctx (fun y => { y with
        fetchStopped := true, rung := .drain k i (pkt bs 16 4) (s.activeNow + 1000 * pkt bs 12 4) })
      if pkt bs 12 4 = 0 && !(s.gangsOn ctx).isEmpty then .running (t.startEvict ctx k i (pkt bs 16 4)) else .running t

theorem Worked.preempt_law {s : State} {k : Nat} {q : Queue} (hw : Worked s k q) (hm : q.mayStart = true)
    (hc : s.castling = none) (hk : pktKind q.packet = 36) :
    let i := q.consumed - 1
    let ctx := pkt q.packet 8 2
    exec (.preempt k) s = .next (((s.preemptStart k i ctx q q.packet).ends k i s).settleLadder ctx) := by
  intro i ctx
  have hctx : ((aget s.queues k).map (fun x => pkt x.packet 8 2)).getD 4096 = ctx := by rw [hw.here]; rfl
  show execPreempt k s = _
  unfold execPreempt
  rw [hctx]
  exact congrArg (fun t => Host.Outcome.next (State.settleLadder t ctx)) (hw.packet_begins hm hc hk _)

theorem State.preemptStart_foreign {s : State} {ctx : Nat} {q : Queue} (ho : s.ownContext q ctx = none) (k i : Nat)
    (bs : List Byte) : s.preemptStart k i ctx q bs = .error 5 0 := by
  unfold State.preemptStart
  rw [ho]

theorem State.preemptStart_waits {s : State} {ctx : Nat} {q : Queue} {c : Context} (ho : s.ownContext q ctx = some c)
    (hr : c.rung ≠ .none) (k i : Nat) (bs : List Byte) : s.preemptStart k i ctx q bs = .blocked s := by
  unfold State.preemptStart
  rw [ho]
  exact if_pos (bne_iff_ne.2 hr)

theorem State.preemptStart_begins {s : State} {ctx : Nat} {q : Queue} {c : Context} (ho : s.ownContext q ctx = some c)
    (hr : c.rung = .none) (k i : Nat) (bs : List Byte) :
    let t := s.modContext ctx (fun y => { y with
      fetchStopped := true, rung := .drain k i (pkt bs 16 4) (s.activeNow + 1000 * pkt bs 12 4) })
    s.preemptStart k i ctx q bs = .running (if pkt bs 12 4 = 0 ∧ s.gangsOn ctx ≠ [] then
      t.startEvict ctx k i (pkt bs 16 4) else t) := by
  intro t
  have hnow : (decide (pkt bs 12 4 = 0) && !(s.gangsOn ctx).isEmpty) = true ↔
      pkt bs 12 4 = 0 ∧ s.gangsOn ctx ≠ [] := by
    rw [Bool.and_eq_true, decide_eq_true_eq, Bool.not_eq_true', List.isEmpty_eq_false_iff]
  unfold State.preemptStart
  rw [ho]
  refine (if_neg (by simp [hr])).trans ?_
  dsimp only
  rw [ite_of_iff hnow rfl rfl]
  split <;> rfl

/-- A page moves from a local page of its size to one in reach on the stack that the packet names. -/
theorem State.cannotMigrate_iff (s : State) {c : Context} {home dst st src size : Nat} :
    (decide (size ≠ 65536) || !isLocal src || !isLocal dst || dst % 65536 != 0 || homeStack dst != st ||
      !s.reachable c.partition home dst || !s.reachable c.partition home (dst + 65535)) = true ↔
    ¬ ((isLocal dst = true ∧ dst % 65536 = 0 ∧ homeStack dst = st ∧ s.reachable c.partition home dst = true ∧
      s.reachable c.partition home (dst + 65535) = true) ∧ size = 65536 ∧ isLocal src = true) := by
  constructor
  · rintro h ⟨⟨hd, ha, hh, hlo, hhi⟩, hs, hsrc⟩
    simp [hd, ha, hh, hlo, hhi, hs, hsrc] at h
  · intro h
    refine Classical.byContradiction fun hn => ?_
    simp only [Bool.or_eq_true, not_or, decide_eq_true_eq, Bool.not_eq_true', Bool.not_eq_false, bne_iff_ne,
      Classical.not_not] at hn
    obtain ⟨⟨⟨⟨⟨⟨hs, hsrc⟩, hd⟩, ha⟩, hh⟩, hlo⟩, hhi⟩ := hn
    exact h ⟨⟨hd, ha, hh, hlo, hhi⟩, hs, hsrc⟩

/-- Settles O55. -/
theorem administrativePackets : Obligations.AdministrativePackets := by
  refine ⟨?packets, fun s k q hw e he hn => ?stays, State.removeContext_law, ?moves⟩
  case moves =>
    intro s ctx part va src dst st place leaf c hc hp hm hg hd
    exact State.migrate_moves hc hp hm hg part va src dst st place leaf hd
  case stays =>
    simp only [List.mem_cons, List.not_mem_nil, or_false] at he
    rcases he with rfl | rfl | rfl | rfl | rfl | rfl | rfl | rfl <;> exact hw.stays rfl hn
  case packets =>
    intro s k q hw i bs ctx kind hm hc
    refine ⟨?descriptors, fun hk => ?destroy, fun hk => ?reset, fun hk ho => ?foreign,
      fun c hk ho hr => ?starts, fun c hk ho hr => ?onLadder, fun c hk ho hr => ?resumes,
      fun c hk ho hr => ?resumeWaits, fun c hk ho => ?invalidates, fun c hk ho => ?resolves, fun c hk ho => ?refuses,
      fun c hk ho => ?migrates, ?errors⟩
    case descriptors =>
      intro e he hk
      simp only [List.mem_cons, List.not_mem_nil, or_false] at he
      rcases he with rfl | rfl
      · exact hw.createContext_begins hm hc hk
      · exact hw.registerQueue_begins hm hc hk
    case errors =>
      intro e he hk ho
      simp only [List.mem_cons, List.not_mem_nil, or_false] at he
      rcases he with rfl | rfl | rfl | rfl | rfl <;> exact hw.begins hm hc hk rfl (by dsimp only; rw [ho])
    case destroy => exact hw.destroyContext_law hm hc hk ctx rfl
    case reset => exact hw.begins hm hc hk rfl rfl
    case foreign =>
      refine (hw.preempt_law hm hc hk).trans ?_
      rw [State.preemptStart_foreign ho]
    case starts =>
      refine (hw.preempt_law hm hc hk).trans ?_
      rw [State.preemptStart_begins ho hr]
      rfl
    case onLadder =>
      refine (hw.preempt_law hm hc hk).trans ?_
      rw [State.preemptStart_waits ho hr]
      rfl
    case resumeWaits =>
      refine hw.begins hm hc hk rfl ?_
      dsimp only
      rw [ho]
      exact if_pos (bne_iff_ne.2 hr)
    case resumes =>
      have hstart : ¬ (c.rung != .none) = true := by simp [hr]
      have hintact : ∀ {b : Bool}, b = true → ¬ (!b) = true := fun hb => by rw [hb]; decide
      refine ⟨fun hl => ?_, fun hl hi hs => ?_, fun hl hi hs => ?_, fun hl hi => ?_⟩ <;>
        refine hw.begins hm hc hk rfl ?_ <;> dsimp only <;> rw [ho] <;> refine (if_neg hstart).trans ?_
      · exact if_pos (isEmpty_not_iff.2 hl)
      all_goals refine (if_neg ((not_congr isEmpty_not_iff).2 (not_not_intro hl))).trans ?_
      · exact (if_neg (hintact hi)).trans (if_pos (List.isEmpty_iff.2 hs))
      · exact (if_neg (hintact hi)).trans (if_neg ((not_congr List.isEmpty_iff).2 hs))
      · exact if_pos (Bool.not_eq_true' _ ▸ hi)
    case invalidates =>
      refine hw.begins hm hc hk rfl ?_
      dsimp only
      rw [ho]
    case resolves =>
      refine hw.begins hm hc hk rfl ?_
      dsimp only
      rw [ho]
    case refuses =>
      refine hw.begins hm hc hk rfl ?_
      dsimp only
      rw [ho]
    case migrates =>
      intro found dst local_
      refine ⟨fun hf => ?_, fun place leaf size hf => ⟨fun hn => ?_, fun hl hs hsrc => ?_⟩⟩ <;>
        refine hw.begins hm hc hk rfl ?_ <;> dsimp only <;> rw [ho] <;> dsimp only <;> 
        rw [show s.leafPlace c.partition q.home (requestPage q.packet) c.root walkLevels = _ from hf]
      · exact if_pos (s.cannotMigrate_iff.2 hn)
      · refine (if_neg ((not_congr s.cannotMigrate_iff).2 (not_not_intro ⟨hl, hs, hsrc⟩))).trans ?_
        simp only [isEmpty_not_iff, ite_not]
        rfl

end Sys2Proof.Machine
end

section
/-! SUPPORT. The halt line reaches a stack, and is cleared. -/
namespace Sys2Proof.Machine

section
variable {s : State} {st : Nat} (hen : (s.stack st).enable = true)
  (hline : (s.partition (s.stack st).partNum).halted = true)
include hen hline

theorem haltLineArrival_law (hst : st < 12) : exec (.haltLineArrival st) s =
    let p := (s.stack st).partNum
    let lines := s.stopLines [st] ++ (if (s.stack st).haltArrived then [] else s.poolLines st)
    if lines ≠ [] then .next (s.backInvalidate lines)
    else if (s.stack st).haltArrived = true then
      let t := (s.writeFaults p st).decideFlight (s.partition p).ending st
      .next (if s.recordsWritten p = false ∧ t.recordsWritten p = true then t.faultEvent p else t)
    else
      let r := (s.writeFaults p st).writeBystanders p st
      let t := ((r.poolsAt st).foldl (fun (u : State) x => u.poolProgress x.1 x.2.1 x.2.2) r).decideFlight
        (s.partition p).ending st
      let u := ((t.gangsAt st).foldl (fun (u : State) g => u.rollbackGang g) t).modStack st (fun x =>
        { x with haltArrived := true })
      .next (if u.recordsWritten p then u.faultEvent p else u) := by
  show execHaltLineArrival st s = _
  unfold execHaltLineArrival
  dsimp only
  rw [if_neg (by simp [hen, hline, hst])]
  refine ite_of_iff isEmpty_not_iff rfl ?_
  simp only [Bool.and_eq_true, Bool.not_eq_true']

theorem haltClear_law (ha : (s.stack st).answers = true) (hr : s.recordsWritten (s.stack st).partNum = true) :
    exec (.haltClear st) s =
      let p := (s.stack st).partNum
      let ending := (s.partition p).ending.filter (fun c => (aget s.contexts c).isSome)
      let lines := ending.flatMap s.resetLines
      if lines ≠ [] then .next (s.backInvalidate lines)
      else .next (((ending.foldl (fun (u : State) c => u.resetContext c false) s).event
        0x0108 st 0xFFFF (natLe 1 ending.length)).lowerLine p) := by
  show execHaltClear st s = _
  unfold execHaltClear
  dsimp only
  rw [if_neg (by simp [ha, hen, hline, hr])]
  exact ite_of_iff isEmpty_not_iff rfl rfl

end

theorem haltLineArrival_stays {s : State} {st : Nat}
    (h : (s.stack st).enable = false ∨ (s.partition (s.stack st).partNum).halted = false) :
    exec (.haltLineArrival st) s = .next s := by
  refine if_pos ?_
  rcases h with h | h <;> simp [h]

theorem haltClear_stays {s : State} {st : Nat} (h : s.recordsWritten (s.stack st).partNum = false ∨
    (s.partition (s.stack st).partNum).halted = false) : exec (.haltClear st) s = .next s := by
  refine if_pos ?_
  rcases h with h | h <;> simp [h]

theorem State.lowerLine_partition {s : State} {p : Nat} (hp : p < s.partitions.length) :
    (s.lowerLine p).partition p = { s.partition p with faults := [], halted := false } := by
  simp only [State.lowerLine, State.partition, State.modPartition, List.getD_eq_getElem?_getD, List.getElem?_modify_eq,
    List.getElem?_eq_getElem hp, Option.map_eq_map, Option.map_some, Option.getD_some]

theorem State.lowerLine_member {s : State} {p st : Nat} (h : st ∈ s.members p) :
    ((s.lowerLine p).stack st).haltArrived = false := by
  simp only [State.lowerLine, State.stack, State.modPartition, List.getD_eq_getElem?_getD, List.getElem?_mapIdx]
  cases s.stackTab[st]? with
  | none => rfl
  | some x =>
    rw [Option.map_some, Option.getD_some, if_pos (List.contains_iff_mem.2 h)]

/-- Settles O48. -/
theorem haltLine : Obligations.HaltLine := by
  intro s st k p
  refine ⟨fun hen hline hst ha hl => ?_, fun hen hline hst ha hl hp => ?_, fun hen hline hst hl => ?_,
    fun h => haltLineArrival_stays h, fun hans hen hline hr => ?_, fun h => haltClear_stays h,
    fun hlen hp => ?_, fun h => State.lowerLine_member h⟩
  · refine (haltLineArrival_law hen hline hst).trans ?_
    dsimp only
    rw [show (s.stack st).haltArrived = true from ha, hl]
    rfl
  · refine (haltLineArrival_law hen hline hst).trans ?_
    dsimp only
    rw [show (s.stack st).haltArrived = false from ha, hl, hp]
    rfl
  · exact ⟨_, (haltLineArrival_law hen hline hst).trans (if_pos fun h => hl (List.append_eq_nil_iff.1 h).1)⟩
  · have hlaw := haltClear_law hen hline hans hr
    exact ⟨fun hl => hlaw.trans (if_pos hl), fun hl => hlaw.trans (if_neg (not_not_intro hl))⟩
  · rw [State.lowerLine_partition (by omega)]
    exact ⟨rfl, rfl⟩

end Sys2Proof.Machine
end

section
/-! SUPPORT. Rounds of a partition's dispatcher, the stack dispatchers, reservations and pools. -/
namespace Sys2Proof.Machine

/-! ### What a plan may fill -/

/-- What a stack of a plan may hold at most. -/
def Plan.bound (p : Plan) (all : Bool) (st : Nat) : Nat :=
  let f := (aget p.free st).getD 0
  if all then f else min 64 f

/-- No stack of the plan is beyond its bound. -/
def Plan.Within (p : Plan) (all : Bool) : Prop := ∀ st, p.filled st ≤ p.bound all st

/-- A fold that keeps its choice or takes the next one ends with one of them. -/
theorem foldl_choice_mem {f : Option Nat → Nat → Option Nat} (hf : ∀ b x, f b x = b ∨ f b x = some x) (xs : List Nat)
    (b : Option Nat) {k : Nat} (h : xs.foldl f b = some k) : b = some k ∨ k ∈ xs := by
  induction xs generalizing b with
  | nil => exact Or.inl h
  | cons x xs ih =>
    rcases ih (f b x) h with hx | hm
    · rcases hf b x with hb | hb
      · exact Or.inl (hb ▸ hx)
      · exact Or.inr (List.mem_cons.2 (Or.inl (Option.some.inj (hb.symm.trans hx)).symm))
    · exact Or.inr (List.mem_cons_of_mem _ hm)

theorem Plan.best_mem {p : Plan} {counts : List Nat} {places : List Nat} {st : Nat}
    (h : p.best counts places = some st) : st ∈ places := by
  refine (foldl_choice_mem (fun b x => ?_) places none h).resolve_left (by simp)
  cases b with
  | none => exact Or.inr rfl
  | some c =>
    dsimp only
    split
    · exact Or.inr rfl
    · exact Or.inl rfl

/-- A gang goes to a stack that has room for it. -/
theorem State.planGang_room {s : State} {l : Launch} {p : Plan} {n st : Nat} {home : Option Nat}
    (h : s.planGang l p n home = some st) : p.hasRoom l.desc.allResident st = true := by
  unfold State.planGang at h
  dsimp only at h
  split at h
  · exact absurd h (by simp)
  · split at h
    next hr => exact Option.some.inj h ▸ hr
    · split at h
      · exact of_filter_mem (Plan.best_mem h)
      · exact absurd h (by simp)

theorem Plan.place_within {p : Plan} {all : Bool} {st : Nat} (hw : p.Within all) (hr : p.hasRoom all st = true) (n : Nat) :
    ({ p with placed := p.placed ++ [(n, st)] } : Plan).Within all := by
  intro k
  have hroom : p.filled st < p.bound all st := of_decide_eq_true hr
  have hk := hw k
  show (List.filter (fun q => q.2 == k) (p.placed ++ [(n, st)])).length ≤ p.bound all k
  rw [List.filter_append, List.length_append]
  by_cases hst : st = k
  · subst hst
    have hone : (List.filter (fun q : Nat × Nat => q.2 == st) [(n, st)]).length = 1 := by simp
    rw [hone]
    exact hroom
  · have hnone : (List.filter (fun q : Nat × Nat => q.2 == k) [(n, st)]).length = 0 := by simp [hst]
    rw [hnone]
    exact hk

theorem State.planGangs_within {s : State} {l : Launch} {home : Option Nat} (ns : List Nat) {p : Plan}
    (hw : p.Within l.desc.allResident) :
    (s.planGangs l home ns p).Within l.desc.allResident ∧ (s.planGangs l home ns p).free = p.free := by
  induction ns generalizing p with
  | nil => exact ⟨hw, rfl⟩
  | cons n ns ih =>
    unfold State.planGangs
    split
    · exact ⟨hw, rfl⟩
    next st hst => exact ih (Plan.place_within hw (State.planGang_room hst) n)

/-- No plan fills a stack beyond its free slots or, unless all-resident, 64 gangs. -/
theorem State.plan_filled (s : State) (l : Nat) (x : Launch) (st : Nat) :
    (s.plan l x).filled st ≤ s.freeSlots st x.desc ∧ (x.desc.allResident = false → (s.plan l x).filled st ≤ 64) := by
  let places := (s.partitionStacks x.ctx).filter s.maskAgrees
  let p : Plan := { free := places.map (fun st => (st, s.freeSlots st x.desc)), placed := [] }
  have hp : p.Within x.desc.allResident := fun _ => Nat.zero_le _
  have hplan : (s.plan l x).Within x.desc.allResident ∧ (s.plan l x).free = p.free := by
    unfold State.plan
    dsimp only
    split
    · exact State.planGangs_within _ hp
    · exact State.planGangs_within _ hp
  obtain ⟨hw, hfree⟩ := hplan
  have hfilled := hw st
  have hslots : (aget (s.plan l x).free st).getD 0 ≤ s.freeSlots st x.desc := by
    rw [hfree, aget_map_pair]
    split
    · exact Nat.le_refl _
    · exact Nat.zero_le _
  unfold Plan.bound at hfilled
  dsimp only at hfilled
  refine ⟨?_, fun hall => ?_⟩
  · split at hfilled <;> omega
  · rw [hall, if_neg (by decide)] at hfilled
    omega

/-! ### Rounds -/

theorem dispatchRound_stays {s : State} {p : Nat}
    (h : s.complexRuns = false ∨ (s.partition p).roundDue = false ∨ s.roundOrder p = []) :
    exec (.dispatchRound p) s = .next s := by
  refine if_pos ?_
  rcases h with h | h | h <;> simp [h]

theorem dispatchRound_law {s : State} {p : Nat} (hr : s.complexRuns = true) (hd : (s.partition p).roundDue = true)
    (ho : s.roundOrder p ≠ []) : exec (.dispatchRound p) s =
      match (s.roundOrder p).find? (fun q => s.planGoes q.1 q.2 (s.plan q.1 q.2)) with
      | none => .next (s.nextRound p)
      | some (l, x) => .next (((s.nextRound p).dispatchPlan l x (s.plan l x)).roundsDue p) :=
  if_neg (by simp [hr, hd, ho])

/-! ### A gang starts -/

theorem Room.pick_fits {r : Room} {d : Desc} {k : Nat} (h : r.pick d = some k) : k < 16 ∧ r.fits d k = true := by
  have hm : k ∈ (groupStarts d.cores).filter (r.fits d) := by
    refine (foldl_choice_mem (fun b x => ?_) _ none h).resolve_left (by simp)
    cases b with
    | none => exact Or.inr rfl
    | some c =>
      dsimp only
      split
      · exact Or.inr rfl
      · exact Or.inl rfl
  obtain ⟨hstart, hfits⟩ := List.mem_filter.1 hm
  exact ⟨List.mem_range.1 (mem_of_filter_mem hstart), hfits⟩

/-- Outside a captured launch a gang's place is not taken from a log. -/
theorem State.logPlace_unlogged {s : State} {l : Launch} (hcap : l.desc.capture = false) (st k : Nat) (x : Gang)
    (hk : k < 256) : s.logPlace st k x l = some (k, s) := by
  have hbyte : ∀ n tail, leNat (((natLe 8 n ++ natLe 1 st ++ natLe 1 k ++ tail).drop 9).take 1) = k := fun n tail => by
    rw [List.append_assoc, List.append_assoc, drop_field 8 1, drop_field 1 0, List.drop_zero, leNat_field]
    exact Nat.mod_eq_of_lt hk
  unfold State.logPlace State.logged
  dsimp only
  rw [hcap, if_pos (show (!false) = true from rfl)]
  simp only [hbyte]

/-- A stack dispatcher whose first gang still dispatches. -/
structure State.Dispatching (s : State) (st g : Nat) (x : Gang) (l : Launch) : Prop where
  mode : (s.stack st).sdState = false
  runs : (s.stack st).haltArrived = false
  mask : s.maskAgrees st = true
  first : s.firstBatched st = some g
  gang : aget s.gangs g = some x
  launch : s.launchOf x = some l

theorem State.Dispatching.law {s : State} {st g : Nat} {x : Gang} {l : Launch} (h : s.Dispatching st g x l) :
    exec (.stackDispatchGang st) s =
      if s.pastFlagFall l st = true then .next ((s.neverStarts g).unbatch st g)
      else match (s.room st).pick l.desc with
      | none => .next s
      | some k => .next (s.placeGang st g k x l) := by
  obtain ⟨hmode, hruns, hmask, hfirst, hgang, hlaunch⟩ := h
  show execStackDispatchGang st s = _
  unfold execStackDispatchGang
  rw [if_neg (by simp [hmode, hruns, hmask])]
  simp only [hfirst, hgang, hlaunch] <;> rfl

theorem stackDispatchGang_stays {s : State} {st : Nat} (h : (s.stack st).sdState = true ∨
    (s.stack st).haltArrived = true ∨ s.firstBatched st = none) : exec (.stackDispatchGang st) s = .next s := by
  show execStackDispatchGang st s = _
  unfold execStackDispatchGang
  rcases h with h | h | h
  · exact if_pos (by simp [h])
  · exact if_pos (by simp [h])
  · rw [h]
    exact ite_self _

/-- A grid's gang outside a captured launch starts on the group that fits it. -/
theorem State.placeGang_grid {s : State} {st g k : Nat} {x : Gang} {l : Launch} (hpool : l.pool = none)
    (hcap : l.desc.capture = false) (hk : k < 256) (hfits : (s.room st).fits l.desc k = true) :
    s.placeGang st g k x l = (s.unbatch st g).startGang g st k l.desc (startCore l.desc x) := by
  unfold State.placeGang
  dsimp only
  rw [hpool]
  dsimp only [Option.bind]
  rw [State.logPlace_unlogged hcap st k x hk]
  exact if_pos hfits

/-- The gang that has started: where it stands, what it holds, and its waves. -/
structure Gang.Started (y : Gang) (st k : Nat) (d : Desc) (core : Nat → WaveCore) : Prop where
  state : y.state = .resident
  stack : y.stack = st
  core0 : y.core0 = k
  spad : y.spad = []
  spadPoison : y.spadPoison = []
  grant : y.grant = none
  count : y.waves.length = d.waves
  waves : ∀ w v, y.waves[w]? = some v → v.core = core w ∧ v.coreId = k + w % d.cores ∧ v.pending = [] ∧
    v.retired = false ∧ v.diverted = false

theorem State.startGang_law {s : State} {g st k : Nat} {x : Gang} {l : Launch} (hg : aget s.gangs g = some x)
    (hl : s.launchOf x = some l) (d : Desc) (core : Nat → WaveCore) :
    (s.startGang g st k d core).mem = s.mem ∧ ∃ y, aget (s.startGang g st k d core).gangs g = some y ∧
      y.Started st k d (fun w => (core w).from l.start) := by
  have hslots : (s.giveSlots st k d).length = d.waves := by simp [State.giveSlots]
  have hstart : (((aget s.gangs g).bind s.launchOf).map Launch.start).getD [] = l.start := by
    rw [hg, Option.bind_some, hl]
    rfl
  unfold State.startGang
  dsimp only
  rw [hstart]
  generalize s.giveSlots st k d = slots at hslots ⊢
  generalize s.pickSome 300 d.banks ((s.stack st).freeBanks (k / 4)) = banks
  have hwaves : ∀ ws : List Wave, aget ((s.modStack st (fun t => t.giveBanks g d banks)).modGang g
      (fun x => x.start d st k banks ws)).gangs g = some (x.start d st k banks ws) := fun ws => by
    rw [State.modGang_gangs, aget_amod, if_pos rfl]
    show (aget s.gangs g).map _ = _
    rw [hg]
    rfl
  rw [hwaves]
  refine ⟨rfl, _, hwaves _, rfl, rfl, rfl, rfl, rfl, rfl, ?_, fun w v hv => ?_⟩
  · simp [Gang.start, State.shelve, hslots]
  · simp only [Gang.start, State.shelve, List.getElem?_mapIdx, Option.map_map, Option.map_eq_some_iff] at hv
    obtain ⟨slot, _, rfl⟩ := hv
    exact ⟨rfl, rfl, rfl, rfl, rfl⟩

/-! ### Reservations -/

/-- A gang that an agent may try to start: it waits in the batch of a stack in reservation mode. -/
structure State.Reserving (s : State) (r : Nat) (x : Gang) (l : Launch) : Prop where
  gang : aget s.gangs r = some x
  launch : s.launchOf x = some l
  batched : x.state = .batched
  listed : r ∈ (s.stack x.stack).batch
  mode : (s.stack x.stack).sdState = true
  runs : (s.stack x.stack).haltArrived = false
  mask : s.maskAgrees x.stack = true
  ready : (s.reservation r x.stack x l).waiting = false
  dispatches : s.dispatches l.ctx = true

theorem State.Reserving.law {s : State} {r : Nat} {x : Gang} {l : Launch} (h : s.Reserving r x l)
    (hp : s.pastFlagFall l x.stack = false) :
    let v := s.reservation r x.stack x l
    exec (.reservationAttempt r) s =
      if (s.room x.stack).fits l.desc v.core0 = true then
        .next (({ s with reservations := adel s.reservations r } : State).placeGang x.stack r v.core0 x l)
      else .next { s with reservations := aput s.reservations r { v with
        x := xorshift v.x, attempt := v.attempt + 1, waiting := true
        due := (s.stack x.stack).now + (1 + (xorshift v.x).toNat % 2 ^ min (v.attempt + 1) 8) * 32 } } := by
  obtain ⟨hg, hl, hb, hin, hmode, hruns, hmask, hready, hdisp⟩ := h
  show execReservationAttempt r s = _
  unfold execReservationAttempt
  simp only [hg, hl]
  rw [if_neg (by simp [hb, hin, hmode, hruns, hmask, hready, hdisp]), if_neg (ne_true_of_eq_false hp)]

theorem reservationBackoffExpiry_law {s : State} {r : Nat} {x : Gang} {v : Reservation} (hg : aget s.gangs r = some x)
    (hv : aget s.reservations r = some v) (hw : v.waiting = true) (hd : v.due ≤ (s.stack v.stack).now) :
    exec (.reservationBackoffExpiry r) s =
      if v.attempt < 64 then .next { s with reservations := aput s.reservations r { v with waiting := false } }
      else .next (({ s with reservations := adel s.reservations r } : State).event 0x0004 v.stack (s.ctxOf x)
        (natLe 8 (s.launchid x).toNat ++ natLe 8 (((s.launchOf x).map (fun l => gangIndex l x)).getD 0))) := by
  show execReservationBackoffExpiry r s = _
  unfold execReservationBackoffExpiry
  simp only [hv, hg]
  rw [if_neg (by simp [hw, hd])]

/-! ### Pools -/

section
variable {s : State} {k : Nat} {p : Pool} {x : Launch} (hp : aget s.pools k = some p)
  (hx : aget s.launches p.launch = some x) (hr : s.poolRuns p x = true)
include hp hx

theorem State.formWave_law (records : List PoolRecord) (hpart : s.partitionOf x.ctx < s.partitions.length) :
    ∃ y v, (s.formWave k records).gangs = s.gangs ++ [(s.nextId, y)] ∧ y.launch = p.launch ∧ y.state = .batched ∧
      y.waves = [v] ∧ v.core = formedCore records x.desc.args ∧
      ((s.formWave k records).partition (s.partitionOf x.ctx)).roundDue = true := by
  unfold State.formWave
  simp only [hp, hx]
  refine ⟨_, _, rfl, rfl, rfl, rfl, rfl, ?_⟩
  simp only [State.roundsDue, State.partition, State.modPartition, State.fresh, List.getD_eq_getElem?_getD,
    List.getElem?_modify_eq, List.getElem?_eq_getElem hpart, Option.map_eq_map, Option.map_some, Option.getD_some]

include hr

theorem State.onPool_runs (f : Pool → Launch → State) : s.onPool k f = f p x := by
  simp only [State.onPool, hp, hx, hr, if_true]

theorem poolRecordTake_waits {t : State} (h : s.poolRead k p x p.block.toNat 28 = .wait t) :
    exec (.poolRecordTake k) s = .next t := by
  refine congrArg _ ((State.onPool_runs hp hx hr _).trans ?_)
  rw [h]

theorem poolRecordTake_reads {bs : List (Byte × Bool)} {t : State} (h : s.poolRead k p x p.block.toNat 28 = .go bs t) :
    let b := bs.map Prod.fst
    let slot := p.taken % max 1 (pkt b 24 4)
    let generation := p.taken / max 1 (pkt b 24 4) + 1
    let here := t.readRecord k ((aget t.pools k).getD p) x (pkt b 16 8 + 64 * slot)
    (∀ u, here = .wait u → exec (.poolRecordTake k) s = .next u) ∧
    (∀ rs u, here = .go rs u → exec (.poolRecordTake k) s = .next
      (if pkt (rs.map Prod.fst) 40 8 = generation then u.takeRecord k ((aget u.pools k).getD p) x (pkt b 0 8) rs
       else s)) := by
  intro b slot generation here
  refine ⟨fun u hu => congrArg _ ((State.onPool_runs hp hx hr _).trans ?_),
    fun rs u hu => congrArg _ ((State.onPool_runs hp hx hr _).trans ?_)⟩ <;> rw [h] <;> dsimp only
  · rw [show t.readRecord k ((aget t.pools k).getD p) x _ = _ from hu]
  · rw [show t.readRecord k ((aget t.pools k).getD p) x _ = _ from hu]

theorem poolDrainFlush_waits {t : State} (h : s.poolRead k p x p.block.toNat 8 = .wait t) :
    exec (.poolDrainFlush k) s = .next t := by
  refine congrArg _ ((State.onPool_runs hp hx hr _).trans ?_)
  rw [h]

theorem poolDrainFlush_reads {bs : List (Byte × Bool)} {t : State} (h : s.poolRead k p x p.block.toNat 8 = .go bs t) :
    let claim := pkt (bs.map Prod.fst) 0 8
    exec (.poolDrainFlush k) s = .next (if p.taken < claim ∨ claim ≠ p.lastClaim ∨ s.producersIdle p = false then s
      else if p.bins = [] then t.modPool k (fun q => { q with stopped := true })
      else (List.range p.bins.length).foldl (fun u _ => u.flushBin k 0) t) := by
  intro claim
  refine congrArg _ ((State.onPool_runs hp hx hr _).trans ?_)
  rw [h]
  dsimp only
  refine ite_of_iff ?_ rfl (ite_of_iff List.isEmpty_iff rfl rfl)
  rw [Bool.not_eq_true']

end

theorem State.takeRecord_good {s : State} {k : Nat} {p : Pool} {x : Launch} {bs b : List (Byte × Bool)} {u : State}
    (claim : Nat) (hok : recordOk x (bs.map Prod.fst) = true) (hw : s.poolWrite k p x 8 (p.taken + 1) = .go b u) :
    s.takeRecord k p x claim bs =
      (u.modPool k (fun q => { q with taken := q.taken + 1, lastClaim := claim })).binRecord k (recordOf bs) := by
  unfold State.takeRecord
  dsimp only
  rw [show recordOk x (bs.map (fun y => y.1)) = true from hok]
  simp only [if_true, hw]

theorem State.takeRecord_bad {s : State} {k : Nat} {p : Pool} {x : Launch} {bs b c : List (Byte × Bool)} {t u : State}
    (claim : Nat) (hok : recordOk x (bs.map Prod.fst) = false) (hd : s.poolWrite k p x 40 (p.dropped + 1) = .go b t)
    (hw : t.poolWrite k p x 8 (p.taken + 1) = .go c u) : s.takeRecord k p x claim bs =
      u.modPool k (fun q => { q with taken := q.taken + 1, lastClaim := claim, dropped := q.dropped + 1 }) := by
  unfold State.takeRecord
  dsimp only
  rw [show recordOk x (bs.map (fun y => y.1)) = false from hok]
  simp only [Bool.false_eq_true, if_false, hd, hw]

/-- Settles O49. -/
theorem dispatchEvents : Obligations.DispatchEvents := by
  refine ⟨by decide, State.plan_filled, fun s p h => dispatchRound_stays h, fun s p hr hd ho => ?round,
    fun s st g x l hmode hruns hmask hfirst hg hl => ?starts, fun s st h => stackDispatchGang_stays h,
    fun s r x l hg hl hb hin hmode hruns hmask hready hdisp hp => ?attempts, fun s r x v hg hv hw hd => ?backsOff,
    fun s k p x hp hx hr => ?pools, fun s k p x claim bs b u hok hw => State.takeRecord_good claim hok hw,
    fun s k p x claim bs b c t u hok hd hw => State.takeRecord_bad claim hok hd hw,
    fun s k p x records hp hx hpart => State.formWave_law hp hx records hpart⟩
  case round =>
    intro next
    have hlaw := dispatchRound_law hr hd ho
    refine ⟨fun hnone => ?_, fun l x before after horder hbefore hgoes => ?_⟩
    · rw [hlaw, List.find?_eq_none.2 fun q hq => ne_true_of_eq_false (hnone q hq)]
      rfl
    · have hfind : (s.roundOrder p).find? (fun q => s.planGoes q.1 q.2 (s.plan q.1 q.2)) = some (l, x) := by
        rw [horder, List.find?_append, List.find?_eq_none.2 fun q hq => ne_true_of_eq_false (hbefore q hq),
          Option.none_or,
          List.find?_cons, hgoes]
      rw [hlaw, hfind]
      rfl
  case starts =>
    have hlaw := (State.Dispatching.mk hmode hruns hmask hfirst hg hl).law
    refine ⟨fun hp => hlaw.trans (if_pos hp), fun hp hpick => ?_, fun k hp hpick hpool hcap hwaves => ?_⟩
    · rw [hlaw, if_neg (ne_true_of_eq_false hp), hpick]
    · obtain ⟨hk, hfits⟩ := Room.pick_fits hpick
      rw [hlaw, if_neg (ne_true_of_eq_false hp), hpick]
      dsimp only
      rw [State.placeGang_grid hpool hcap (by omega) hfits]
      obtain ⟨hmem, y, hy, hstate, hstack, hcore, hspad, hpoison, hgrant, hcount, hws⟩ :=
        State.startGang_law (s := s.unbatch st g) (st := st) (k := k) hg hl l.desc (startCore l.desc x)
      refine ⟨_, y, rfl, hy, hstate, hstack, hcore, hspad, hpoison, hgrant, hcount, hmem, fun w v hv => ?_⟩
      obtain ⟨hc, hrest⟩ := hws w v hv
      refine ⟨hc.trans ?_, hrest⟩
      simp only [startCore, hwaves, List.getElem?_nil]
      rfl
  case attempts =>
    intro v
    have hlaw := (State.Reserving.mk hg hl hb hin hmode hruns hmask hready hdisp).law hp
    exact ⟨fun hf => hlaw.trans (if_pos hf), fun hf => hlaw.trans (if_neg (ne_true_of_eq_false hf))⟩
  case backsOff =>
    have hlaw := reservationBackoffExpiry_law hg hv hw hd
    exact ⟨fun ha => hlaw.trans (if_pos ha), fun ha => hlaw.trans (if_neg (Nat.not_lt.2 ha))⟩
  case pools =>
    refine ⟨fun t h => poolRecordTake_waits hp hx hr h, fun bs t h => poolRecordTake_reads hp hx hr h,
      fun t h => poolDrainFlush_waits hp hx hr h, fun bs t h => ?_⟩
    have hlaw := poolDrainFlush_reads hp hx hr h
    refine ⟨fun hn => hlaw.trans (congrArg _ (if_pos hn)), fun hc hl hi hb => ?_, fun hc hl hi hb => ?_⟩ <;>
      refine hlaw.trans (congrArg _ ((if_neg ?_).trans ?_))
    · rintro (h | h | h)
      · exact Nat.not_lt.2 hc h
      · exact h hl
      · exact ne_false_of_eq_true hi h
    · exact if_pos hb
    · rintro (h | h | h)
      · exact Nat.not_lt.2 hc h
      · exact h hl
      · exact ne_false_of_eq_true hi h
    · exact if_neg hb

end Sys2Proof.Machine
end

section
/-! SUPPORT. What the device's own writes, events and tokens leave as it is: the fences of the stacks, each gang's
launch, state and grant, and what a launch has counted. -/
namespace Sys2Proof.Machine

/-- What only dispatch, the ladder and the matrix unit change of a gang. -/
def Gang.standing (x : Gang) : Nat × GangState × Option Grant := (x.launch, x.state, x.grant)

/-- What a launch has counted. -/
def Launch.tally (x : Launch) : Nat × Nat × Nat := (x.killed, x.unstarted, x.next)

/-- The fences, the standing of every gang and the tally of every launch are as they were. -/
structure State.Calm (s t : State) : Prop where
  fenced : ∀ st, (t.stack st).fenced = (s.stack st).fenced
  gangs : ∀ g, (aget t.gangs g).map Gang.standing = (aget s.gangs g).map Gang.standing
  launches : ∀ l, (aget t.launches l).map Launch.tally = (aget s.launches l).map Launch.tally

theorem State.Calm.refl (s : State) : s.Calm s := ⟨fun _ => rfl, fun _ => rfl, fun _ => rfl⟩

theorem State.Calm.trans {s t u : State} (h : s.Calm t) (h' : t.Calm u) : s.Calm u :=
  ⟨fun st => (h'.fenced st).trans (h.fenced st), fun g => (h'.gangs g).trans (h.gangs g),
    fun l => (h'.launches l).trans (h.launches l)⟩

theorem State.Calm.ite {s t u : State} {p : Prop} [Decidable p] (ht : s.Calm t) (hu : s.Calm u) :
    s.Calm (if p then t else u) := by
  split
  · exact ht
  · exact hu

theorem State.Calm.foldl {α : Type} {f : State → α → State} (hf : ∀ (u : State) x, u.Calm (f u x)) (xs : List α)
    (s : State) : s.Calm (xs.foldl f s) :=
  List.foldlRecOn (motive := fun t => s.Calm t) _ _ (.refl s) fun t ht x _ => ht.trans (hf t x)

/-- A change of other fields than stacks, gangs and launches. -/
theorem State.Calm.of_same {s t : State} (hstacks : t.stackTab = s.stackTab) (hgangs : t.gangs = s.gangs)
    (hlaunches : t.launches = s.launches) : s.Calm t :=
  ⟨fun st => by rw [State.stack, hstacks, State.stack], fun g => by rw [hgangs], fun l => by rw [hlaunches]⟩

theorem State.Calm.gang {s t : State} (h : s.Calm t) {g : Nat} {x : Gang} (hx : aget s.gangs g = some x) :
    ∃ y, aget t.gangs g = some y ∧ y.standing = x.standing := by
  have hg := h.gangs g
  rw [hx, Option.map_some, Option.map_eq_some_iff] at hg
  exact hg

theorem State.Calm.launch {s t : State} (h : s.Calm t) {l : Nat} {x : Launch} (hx : aget s.launches l = some x) :
    ∃ y, aget t.launches l = some y ∧ y.tally = x.tally := by
  have hl := h.launches l
  rw [hx, Option.map_some, Option.map_eq_some_iff] at hl
  exact hl

/-! ### Changes of one gang, launch or stack -/

theorem map_aget_amod {α β : Type} {f : α → α} {p : α → β} (hf : ∀ x, p (f x) = p x) (m : List (Nat × α)) (k j : Nat) :
    (aget (amod m k f) j).map p = (aget m j).map p := by
  rw [aget_amod]
  split
  · rw [Option.map_map]
    exact congrArg (fun q => Option.map q (aget m j)) (funext hf)
  · rfl

theorem State.modGang_calm (s : State) (g : Nat) {f : Gang → Gang} (hf : ∀ x, (f x).standing = x.standing) :
    s.Calm (s.modGang g f) :=
  ⟨fun _ => rfl, fun k => map_aget_amod hf s.gangs g k, fun _ => rfl⟩

theorem State.modWave_calm (s : State) (g w : Nat) (f : Wave → Wave) : s.Calm (s.modWave g w f) :=
  s.modGang_calm g fun _ => rfl

theorem State.modLaunch_calm (s : State) (l : Nat) {f : Launch → Launch} (hf : ∀ x, (f x).tally = x.tally) :
    s.Calm (s.modLaunch l f) :=
  ⟨fun _ => rfl, fun _ => rfl, fun k => map_aget_amod hf s.launches l k⟩

theorem State.modStack_calm (s : State) (st : Nat) {f : Stack → Stack} (hf : ∀ x, (f x).fenced = x.fenced) :
    s.Calm (s.modStack st f) :=
  ⟨fun k => s.modStack_stack_of (p := Stack.fenced) hf st k, fun _ => rfl, fun _ => rfl⟩

/-! ### Memory and speculation -/

theorem State.rollbackWave_calm (s : State) (g w counter : Nat) : s.Calm (s.rollbackWave g w counter) := by
  unfold State.rollbackWave
  split
  · split
    · refine .trans ?_ (State.modWave_calm ..)
      exact s.modStack_calm _ fun _ => rfl
    · exact .refl s
  · exact .refl s

theorem State.conflicts_calm (s : State) (own : Option (Nat × Nat)) (spadOf : Option Nat) (secs : List Nat) :
    s.Calm (s.conflicts own spadOf secs) :=
  .foldl (fun u p => u.rollbackWave_calm ..) _ s

theorem State.put_calm (s : State) (au : Author) (pa : Nat) (bs : List Byte) (mark : Bool) :
    s.Calm (s.put au pa bs mark) :=
  .trans (t := s.writeMem au pa bs mark) (.of_same rfl rfl rfl) (State.conflicts_calm ..)

theorem State.putSpad_calm (s : State) (au : Author) (g off : Nat) (bs : List Byte) (mark : Bool) :
    s.Calm (s.putSpad au g off bs mark) := by
  refine .trans (t := s.writeSpad au g off bs mark) ?_ (State.conflicts_calm ..)
  obtain ⟨hfenced, hgangs, hlaunches⟩ := s.modGang_calm g (f := fun x => { x with
    spad := writeBytes x.spad off bs, spadPoison := storePoison x.spadPoison off bs.length mark }) fun _ => rfl
  exact ⟨hfenced, hgangs, hlaunches⟩

theorem State.writeSpadElement_calm (s : State) (au : Author) (g off : Nat) (bs : List Byte) (mark : Option Bool) :
    s.Calm (s.writeSpadElement au g off bs mark) := by
  obtain ⟨hfenced, hgangs, hlaunches⟩ := s.modGang_calm g (f := fun x => { x with
    spad := writeBytes x.spad off bs, spadPoison := setPoison x.spadPoison off mark }) fun _ => rfl
  exact ⟨hfenced, hgangs, hlaunches⟩

theorem State.touch_calm (s : State) (st pa : Nat) (write : Bool) : s.Calm (s.touch st pa write) := by
  unfold State.touch
  dsimp only
  split <;> exact .of_same rfl rfl rfl

theorem State.backInvalidate_calm (s : State) (lines : List Nat) : s.Calm (s.backInvalidate lines) := by
  unfold State.backInvalidate
  refine .trans ?_ (State.conflicts_calm ..)
  refine ⟨fun st => ?_, fun _ => rfl, fun _ => rfl⟩
  simp only [State.stack, List.getD_eq_getElem?_getD, List.getElem?_map]
  cases s.stackTab[st]? <;> rfl

theorem State.fillFrom_calm (s : State) (ctx st : Nat) (core : Option Nat) (ps : List (Target × Nat)) :
    s.Calm (s.fillFrom ctx st core ps) := by
  refine .foldl (fun u p => ?_) _ s
  split
  · exact .refl u
  · exact u.modStack_calm _ fun _ => rfl

/-! ### Events -/

theorem State.ringAdd_calm (s : State) (pa : Nat) (b : RingBlock) : s.Calm (s.ringAdd pa b) := by
  unfold State.ringAdd
  dsimp only
  split <;> exact .of_same rfl rfl rfl

theorem State.number_calm (s : State) (e : Event) : s.Calm (s.number e) := by
  unfold State.number
  dsimp only
  have hnext : s.Calm s.nextSeq := .of_same rfl rfl rfl
  split
  · exact hnext.trans (.of_same rfl rfl rfl)
  · split
    · exact hnext.trans (State.put_calm ..)
    · exact hnext.trans ((((State.put_calm ..).trans (State.put_calm ..)).trans (State.put_calm ..)).trans
        (State.ringAdd_calm ..))

theorem State.numberWaiting_calm (n : Nat) (s : State) : s.Calm (State.numberWaiting n s) := by
  induction n generalizing s with
  | zero => exact .refl s
  | succ n ih =>
    rw [State.numberWaiting]
    split
    · exact .refl s
    next e rest _ =>
      split
      · exact .trans (t := { s with waitingEvents := rest }) (.of_same rfl rfl rfl) ((State.number_calm _ e).trans (ih _))
      · exact .ite (.refl s) (s.backInvalidate_calm _)

theorem State.send_calm (s : State) (e : Event) : s.Calm (s.send e) :=
  .trans (t := { s with waitingEvents := s.waitingEvents ++ [e] }) (.of_same rfl rfl rfl) (State.numberWaiting_calm ..)

theorem State.event_calm (s : State) (code st ctx : Nat) (detail : List Byte) : s.Calm (s.event code st ctx detail) :=
  s.send_calm _

theorem State.pageRequest_calm (s : State) (ctx st page : Nat) (a : Access) : s.Calm (s.pageRequest ctx st page a) := by
  unfold State.pageRequest
  split
  · exact .refl s
  · exact .ite (.refl s) (.trans (t := s.modContext ctx _) (.of_same rfl rfl rfl) (State.event_calm ..))

theorem State.castlingAborts_calm (s : State) (reason : Nat) : s.Calm (s.castlingAborts reason) := by
  unfold State.castlingAborts
  dsimp only
  have hstates := (s.modStack_calm s.standbyStack (f := fun t => { t with cpState := 2 }) fun _ => rfl).trans
    (State.modStack_calm _ s.activeStack (f := fun t => { t with cpAbort := reason }) fun _ => rfl)
  refine .trans ?_ (State.event_calm ..)
  refine hstates.trans ?_
  exact .of_same rfl rfl rfl

theorem State.raiseHalt_calm (s : State) (h : Halt) : s.Calm (s.raiseHalt h) := by
  unfold State.raiseHalt
  extract_lets rises
  refine .trans (t := if rises then s.castlingAborts 3 else s) (.ite (s.castlingAborts_calm 3) (.refl s)) ?_
  exact .of_same rfl rfl rfl

theorem State.failedWrite_calm (s : State) (au : Author) (st pa n : Nat) (mark : Bool) :
    s.Calm (s.failedWrite au st pa n mark) := by
  unfold State.failedWrite
  dsimp only
  refine .trans (.trans ?_ (State.put_calm ..)) (State.event_calm ..)
  exact .ite (.refl s) (s.modStack_calm _ fun _ => rfl)

/-! ### Stores and atomics -/

theorem State.storePiece_calm (s : State) (a : Agent) (au : Author) (st : Nat) (dir : Bool) (bs : List Byte) (mark : Bool)
    (t : Target) : s.Calm (s.storePiece a au st dir bs mark t) := by
  unfold State.storePiece
  split
  · exact State.putSpad_calm ..
  · split
    · exact State.failedWrite_calm ..
    · exact .trans (.ite (s.touch_calm ..) (.refl s)) (State.put_calm ..)

theorem State.storePieces_calm (a : Agent) (release : Bool) (st core : Nat) (mark : Bool) (ps : List (Target × Nat)) :
    ∀ (s : State) (bs : List Byte), s.Calm (s.storePieces a release st core bs mark ps) := by
  induction ps with
  | nil => exact fun s _ => .refl s
  | cons p ps ih =>
    intro s bs
    unfold State.storePieces
    refine .trans ?_ (ih _ _)
    exact .ite (.refl s) (State.storePiece_calm ..)

theorem State.storeElement_calm (s : State) (a : Agent) (st : Nat) (bs : List Byte) (mark : Bool) (t : Target) :
    s.Calm (s.storeElement a st bs mark t) := by
  unfold State.storeElement
  dsimp only
  split
  · exact (State.writeSpadElement_calm ..).trans (State.conflicts_calm ..)
  · split
    · exact State.failedWrite_calm ..
    · exact ((State.Calm.ite (s.touch_calm ..) (.refl s)).trans (.of_same (t := State.writeElement _ _ _ _ _) rfl rfl rfl)).trans
        (State.conflicts_calm ..)

theorem State.cleanSectors_calm (s : State) (a : Agent) : s.Calm (s.cleanSectors a) := by
  unfold State.cleanSectors
  dsimp only
  refine .trans (.foldl (fun u n => ?_) _ s) (.foldl (fun u n => u.writeSpadElement_calm ..) _ _)
  exact .of_same rfl rfl rfl

theorem State.atomicAt_calm (s : State) (a : Agent) (heads : List Head) (st point : Nat) (returns : Bool) (t : Target)
    (n : Nat) (mark : Bool) (f : W64 → Option W64) : s.Calm (s.atomicAt a heads st point returns t n mark f).state := by
  unfold State.atomicAt
  extract_lets q down
  generalize down = down
  cases down with
  | true =>
    cases returns with
    | true => exact .refl s
    | false => exact State.storePiece_calm ..
  | false =>
    simp only [Bool.false_and, Bool.false_eq_true, if_false]
    split
    · cases t with
      | spd off => exact .refl s
      | mem pa leaf va => exact .ite (s.touch_calm ..) (.refl s)
    · exact .ite (.refl s) (State.storePiece_calm ..)

theorem State.riseAt_calm (s : State) (a : Agent) (st amount : Nat) (ps : List (Target × Nat)) :
    s.Calm (s.riseAt a st amount ps) := by
  cases ps with
  | nil => exact .refl s
  | cons p ps => exact State.atomicAt_calm ..

theorem State.Calm.whenClear {s next : State} (h : s.Calm next) (st : Nat) (write : Bool) (ps : List (Target × Nat)) :
    s.Calm (s.whenClear st write ps next) :=
  .ite (.refl s) (.ite h (s.backInvalidate_calm _))

/-! ### Queues and tokens of a gang -/

theorem State.popWord_calm (s : State) (g w q : Nat) : s.Calm (s.popWord g w q) :=
  .ite (s.modWave_calm ..) (s.modGang_calm g fun _ => rfl)

theorem State.pushWord_calm (s : State) (g w q : Nat) (v : QWord) : s.Calm (s.pushWord g w q v) :=
  .ite (s.modWave_calm ..) (s.modGang_calm g fun _ => rfl)

theorem State.queueStep_calm {s t : State} {g w k : Nat} (h : s.queueStep g w k = some t) : s.Calm t := by
  unfold State.queueStep at h
  split at h
  · cases h
  split at h
  · cases h
  split at h
  · cases h
  dsimp only at h
  split at h
  · split at h
    · cases h
    · cases h
      exact ((s.popWord_calm ..).trans (State.modWave_calm ..)).trans (State.modWave_calm ..)
  · split at h
    · cases h
    · cases h
      exact (s.pushWord_calm ..).trans (State.modWave_calm ..)
  · cases h

theorem State.settleQueues_calm (n : Nat) : ∀ (s : State) (g : Nat), s.Calm (s.settleQueues g n) := by
  induction n with
  | zero => exact fun s _ => .refl s
  | succ n ih =>
    intro s g
    rw [State.settleQueues]
    split
    · exact .refl s
    · dsimp only
      split
      · exact .refl s
      next p _ =>
        refine .trans ?_ (ih _ g)
        cases hstep : s.queueStep g p.1 p.2 with
        | none => exact .refl s
        | some t => exact State.queueStep_calm hstep

theorem State.settleGangQueues_calm (s : State) (g : Nat) : s.Calm (s.settleGangQueues g) := by
  unfold State.settleGangQueues
  split
  · exact .refl s
  · exact State.settleQueues_calm ..

theorem State.setToken_calm (s : State) (g w : Nat) (t : Option Nat) (status : Nat) (vis src : Bool) (v : Seen) :
    s.Calm (s.setToken g w t status vis src v) := by
  cases t with
  | none => exact .refl s
  | some n => exact s.modWave_calm ..

theorem State.gangDid_calm (s : State) (g : Nat) (v : Seen) : s.Calm (s.gangDid g v) := by
  unfold State.gangDid
  split
  · exact .refl s
  · exact s.modLaunch_calm _ fun _ => rfl

end Sys2Proof.Machine
end

section
/-! SUPPORT. The operations of the matrix units, their accumulators and their self-tests. -/
namespace Sys2Proof.Machine

/-! ### The steps of an operation -/

/-- An operation whose gang is on the device, with its unit. -/
structure State.OpRuns (s : State) (m : Nat) (x : MxOp) (ctx st : Nat) (u : MxUnit) : Prop where
  op : aget s.mxops m = some x
  place : s.opPlace x = some (ctx, st)
  unit : s.unitOf x = some u

section Ops
variable {s : State} {m ctx st : Nat} {x : MxOp} {u : MxUnit}

theorem State.OpRuns.start_law (h : s.OpRuns m x ctx st u) : exec (.matrixOpStart m) s =
    if x.started || x.heldPage.isSome || !s.opFirst m x then .next s
    else match s.flushBefore x.gang x.wave m s.matoms.length x.view with
    | none => .next (s.backInvalidate (s.matomLines x.gang x.wave))
    | some (t, v) => .next ((t.modOp m (fun y => { y with view := v })).startOp m { x with view := v } u ctx st) := by
  change execMatrixOpStart m s = _
  unfold execMatrixOpStart
  simp only [h.op, h.place, h.unit] <;> rfl

/-- An operation stays where it is when it has started, a page holds it or an earlier one holds it back. -/
theorem State.stays_iff : (x.started || x.heldPage.isSome || !s.opFirst m x) = true ↔
    x.started = true ∨ x.heldPage ≠ none ∨ s.opFirst m x = false := by
  rw [Bool.or_eq_true, Bool.or_eq_true, Option.isSome_iff_ne_none, Bool.not_eq_true', or_assoc]

theorem State.OpRuns.start_of_free (h : s.OpRuns m x ctx st u) (hs : x.started = false) (hp : x.heldPage = none)
    (hf : s.opFirst m x = true) : exec (.matrixOpStart m) s =
    match s.flushBefore x.gang x.wave m s.matoms.length x.view with
    | none => .next (s.backInvalidate (s.matomLines x.gang x.wave))
    | some (t, v) => .next ((t.modOp m (fun y => { y with view := v })).startOp m { x with view := v } u ctx st) :=
  h.start_law.trans (if_neg (by simp [hs, hp, hf]))

theorem State.OpRuns.complete_law (h : s.OpRuns m x ctx st u) (test : SelfTest) : exec (.matrixOpComplete m test) s =
    if !x.started || x.heldPage.isSome then .next s
    else if x.vis then .next (s.finishOp m ctx st)
    else if x.lost.isSome then .next (s.loseOp m ctx st)
    else if x.read.isSome then .next (s.applyOp m test ctx st)
    else if s.handlesDue x = 0 then .next (s.runOp m x u test ctx st)
    else if min (s.handlesDue x) (s.handlesPushed x).length = 0 then .next s
    else .next (s.popHandles m x (1 + s.chooseAt [27, m] (min (s.handlesDue x) (s.handlesPushed x).length))) := by
  change execMatrixOpComplete m test s = _
  unfold execMatrixOpComplete
  simp only [h.op, h.place, h.unit] <;> rfl

theorem State.OpRuns.complete_of_started (h : s.OpRuns m x ctx st u) (hs : x.started = true) (hp : x.heldPage = none)
    (test : SelfTest) : exec (.matrixOpComplete m test) s =
    if x.vis then .next (s.finishOp m ctx st)
    else if x.lost.isSome then .next (s.loseOp m ctx st)
    else if x.read.isSome then .next (s.applyOp m test ctx st)
    else if s.handlesDue x = 0 then .next (s.runOp m x u test ctx st)
    else if min (s.handlesDue x) (s.handlesPushed x).length = 0 then .next s
    else .next (s.popHandles m x (1 + s.chooseAt [27, m] (min (s.handlesDue x) (s.handlesPushed x).length))) := by
  rw [h.complete_law, hs, hp]
  exact if_neg (by simp)

/-- An operation that has not read its sources, of a unit that is not lost. -/
theorem State.OpRuns.complete_of_unread (h : s.OpRuns m x ctx st u) (hs : x.started = true) (hp : x.heldPage = none)
    (hv : x.vis = false) (hl : x.lost = none) (hr : x.read = none) (test : SelfTest) :
    exec (.matrixOpComplete m test) s =
    if s.handlesDue x = 0 then .next (s.runOp m x u test ctx st)
    else if min (s.handlesDue x) (s.handlesPushed x).length = 0 then .next s
    else .next (s.popHandles m x (1 + s.chooseAt [27, m] (min (s.handlesDue x) (s.handlesPushed x).length))) := by
  rw [h.complete_of_started hs hp, hv, hl, hr]
  rfl

theorem State.OpRuns.pops (h : s.OpRuns m x ctx st u) (hs : x.started = true) (hp : x.heldPage = none)
    (hv : x.vis = false) (hl : x.lost = none) (hr : x.read = none) (test : SelfTest) (hd : s.handlesDue x ≠ 0)
    (hthere : s.handlesPushed x ≠ []) : ∃ n, 1 ≤ n ∧ n ≤ s.handlesDue x ∧ n ≤ (s.handlesPushed x).length ∧
      exec (.matrixOpComplete m test) s = .next (s.popHandles m x n) := by
  have hpos : 0 < min (s.handlesDue x) (s.handlesPushed x).length :=
    Nat.lt_min.2 ⟨Nat.pos_of_ne_zero hd, List.length_pos_iff.2 hthere⟩
  have hlt := s.chooseAt_lt [27, m] hpos
  refine ⟨1 + s.chooseAt [27, m] (min (s.handlesDue x) (s.handlesPushed x).length), Nat.le_add_right 1 _, by omega,
    by omega, ?_⟩
  rw [h.complete_of_unread hs hp hv hl hr, if_neg hd, if_neg (Nat.pos_iff_ne_zero.1 hpos)]

/-- The ranges that an operation reads for its sources (R307). -/
def State.opSources (s : State) (m : Nat) (x : MxOp) (u : MxUnit) (ctx st : Nat) : List (Nat × Nat) :=
  match x.fn with
  | .mxls => x.bRanges
  | .mxgo => x.aRanges (s.rowGroups (s.mxAgent m x st) ctx x) u.cur.k
  | _ => []

theorem State.OpRuns.miss_law (h : s.OpRuns m x ctx st u) (hs : x.started = true) (hp : x.heldPage = none)
    (hr : x.read = none) (hv : x.vis = false) {page : Nat}
    (hreach : s.reach ctx st (s.ownerSpad (.wave x.gang 0)) .matrix false
      ((s.opSources m x u ctx st).flatMap (fun r => sectorPieces r.1 r.2)) = .hold page) :
    exec (.matrixFetchPageMiss m) s = .next (((s.modUnit x.gang x.unit (fun v =>
      if x.fn == .mxgo then { v with acc := x.shadow } else v)).modOp m (fun y =>
        { y with heldPage := some page })).pageRequest ctx st page .matrix) := by
  change execMatrixFetchPageMiss m s = _
  unfold execMatrixFetchPageMiss
  simp only [h.op, h.place, h.unit, hs, hp, hr, hv, Option.isNone_none, Bool.not_false, Bool.and_self]
  split
  next q _ hq =>
    cases (show Reach.hold page = .hold q from hreach.symm.trans hq)
    rfl
  next hq => exact absurd hreach (hq page rfl)

/-! ### The end of an operation -/

/-- What a change of gangs leaves, the settling of a gang's queues leaves. -/
theorem State.settleQueues_of {α : Type} {p : State → α} (hp : ∀ (u : State) g f, p (u.modGang g f) = p u) (n : Nat) :
    ∀ (s : State) (g : Nat), p (s.settleQueues g n) = p s := by
  have hstep : ∀ {s t : State} {g w k : Nat}, s.queueStep g w k = some t → p t = p s := by
    intro s t g w k h
    have hpop : ∀ q, p (s.popWord g w q) = p s := fun q => by
      unfold State.popWord
      split <;> exact hp ..
    have hpush : ∀ q v, p (s.pushWord g w q v) = p s := fun q v => by
      unfold State.pushWord
      split <;> exact hp ..
    unfold State.queueStep at h
    split at h
    · cases h
    split at h
    · cases h
    split at h
    · cases h
    dsimp only at h
    split at h
    · split at h
      · cases h
      · cases h
        exact (hp _ _ _).trans ((hp _ _ _).trans (hpop _))
    · split at h
      · cases h
      · cases h
        exact (hp _ _ _).trans (hpush _ _)
    · cases h
  induction n with
  | zero => exact fun s _ => rfl
  | succ n ih =>
    intro s g
    rw [State.settleQueues]
    split
    · rfl
    · dsimp only
      split
      · rfl
      next q _ =>
        rw [ih]
        cases hq : s.queueStep g q.1 q.2 with
        | none => rfl
        | some t => exact hstep hq

theorem State.settleGangQueues_of {α : Type} {p : State → α} (hp : ∀ (u : State) g f, p (u.modGang g f) = p u) (s : State)
    (g : Nat) : p (s.settleGangQueues g) = p s := by
  unfold State.settleGangQueues
  split
  · rfl
  · exact State.settleQueues_of hp ..

theorem State.gangDid_same (s : State) (g : Nat) (v : Seen) : (s.gangDid g v).mxops = s.mxops ∧ (s.gangDid g v).mem = s.mem := by
  unfold State.gangDid
  split <;> exact ⟨rfl, rfl⟩

/-- An operation that leaves its unit is gone, and memory is as it was. -/
theorem State.opReported_same (s : State) (m : Nat) (x : MxOp) (u : MxUnit) :
    (s.opReported m x u).mxops = adel s.mxops m ∧ (s.opReported m x u).mem = s.mem := by
  obtain ⟨hops, hmem⟩ := (s.delOp m).gangDid_same x.gang (Seen.join x.view [(opThread m, s.history.length)])
  unfold State.opReported
  dsimp only
  rw [State.settleGangQueues_of (p := State.mxops) fun _ _ _ => rfl, State.settleGangQueues_of (p := State.mem) fun _ _ _ => rfl]
  split
  · exact ⟨hops, hmem⟩
  · exact ⟨hops, hmem⟩

theorem State.finishOp_law (hx : aget s.mxops m = some x) (hu : s.unitOf x = some u) : s.finishOp m ctx st =
    if !x.fn.counts || blockCounter x.block = 0 || x.units u = 0 then s.opReported m x u
    else s.opReach m x ctx st .atomic true (sectorPieces (blockCounter x.block) 8) (fun ps =>
      ((s.fillFrom ctx st none ps).riseAt (s.mxAgent m x st) st (x.units u) ps).opReported m x u) := by
  unfold State.finishOp
  simp only [hx, hu] <;> rfl

theorem State.finishOp_uncounted (hx : aget s.mxops m = some x) (hu : s.unitOf x = some u)
    (h : x.fn.counts = false ∨ blockCounter x.block = 0 ∨ x.units u = 0) : s.finishOp m ctx st = s.opReported m x u :=
  (State.finishOp_law hx hu).trans (if_pos (by simpa [or_assoc] using h))

theorem State.finishOp_rises (hx : aget s.mxops m = some x) (hu : s.unitOf x = some u) (hc : x.fn.counts = true)
    (hb : blockCounter x.block ≠ 0) (hn : x.units u ≠ 0) {ps : List (Target × Nat)}
    (hreach : s.reach ctx st (s.ownerSpad (.wave x.gang 0)) .atomic true (sectorPieces (blockCounter x.block) 8) = .ok ps)
    (hf : s.frozenPieces st ps = false) (hl : s.recallLines true ps = []) : s.finishOp m ctx st =
      ((s.fillFrom ctx st none ps).riseAt (s.mxAgent m x st) st (x.units u) ps).opReported m x u := by
  rw [State.finishOp_law hx hu, if_neg (by simp [hc, hb, hn])]
  unfold State.opReach State.whenClear
  simp only [hreach, hf, hl, List.isEmpty_nil, if_true, Bool.false_eq_true, if_false]

theorem State.opVisible_op (hx : aget s.mxops m = some x) (status : Nat) : ∃ v,
    aget (s.opVisible m x status).mxops m = some { x with vis := true, status := status, view := v } := by
  have hops : (s.opVisible m x status).mxops = amod s.mxops m (fun y => { y with
      vis := true, status := status, view := Seen.join x.view [(opThread m, s.history.length)] }) := by
    unfold State.opVisible State.setToken
    dsimp only
    split <;> rfl
  rw [hops, aget_amod, if_pos rfl, hx]
  exact ⟨_, rfl⟩

/-! ### The effect of an operation -/

theorem State.applyOp_law (hx : aget s.mxops m = some x) (hu : s.unitOf x = some u) {r : MxRead} (hr : x.read = some r)
    (test : SelfTest) : s.applyOp m test ctx st = match x.fn with
      | .mxls => (s.modUnit x.gang x.unit (fun v => if s.usesCurrent m x then { v with cur := r.plane }
          else { v with next := r.plane })).opDone m x (if r.poison then 2 else 0) ctx st
      | .mxgo => s.testedOp m x u r test ctx st
      | .mxst => (s.orFlags m x st r.exc).opDone m x 0 ctx st
      | .mxsw => s
      | .mxz => s := by
  unfold State.applyOp
  simp only [hx, hu, hr] <;> rfl

theorem State.tested_le (s : State) (x : MxOp) (u : MxUnit) : s.tested x u ≤ u.subs.length := by
  unfold State.tested
  dsimp only
  split
  · exact Nat.le_of_lt_succ (s.chooseAt_lt [31] (Nat.succ_pos _))
  · exact Nat.min_le_left ..

/-- The sub-array that a test falls on is one of the unit's. -/
theorem State.chosen_sub (s : State) {u : MxUnit} (h : u.subs ≠ []) : (u.subs[s.choose 30 u.subs.length]?).getD 0 ∈ u.subs := by
  have hlt := s.chooseAt_lt [30] (List.length_pos_iff.2 h)
  rw [show s.choose 30 u.subs.length = s.chooseAt [30] u.subs.length from rfl, List.getElem?_eq_getElem hlt]
  exact List.getElem_mem hlt

/-- The plane that an MXLS loads. -/
theorem State.modUnit_plane (s : State) (g k : Nat) (current : Bool) (p : Plane) :
    s.modUnit g k (fun v => if current then { v with cur := p } else { v with next := p }) =
      s.modUnit g k (fun v => { v with cur := if current then p else v.cur, next := if current then v.next else p }) := by
  cases current <;> rfl

end Ops

/-! ### The accumulators -/

theorem State.mixed_get (s : State) (n : Nat) (x : MxOp) (acc : Sparse W32) (e : Nat) :
    Sparse.get 0 (s.mixed n x acc) e = Sparse.get 0 x.shadow e ∨ Sparse.get 0 (s.mixed n x acc) e = Sparse.get 0 acc e := by
  unfold State.mixed
  refine List.foldlRecOn (motive := fun (t : Sparse W32) =>
    Sparse.get 0 t e = Sparse.get 0 x.shadow e ∨ Sparse.get 0 t e = Sparse.get 0 acc e) _ _ (.inl rfl) fun t ht q _ => ?_
  dsimp only
  split
  · rw [Sparse.get_set]
    split
    next he => exact .inr (by rw [he])
    · exact ht
  · exact ht

theorem State.setAcc_unstored {s : State} {g k : Nat} {u : MxUnit} {acc : Sparse W32}
    (h : ∀ p ∈ s.mxops, ¬ (p.2.fn = .mxst ∧ p.2.started = true ∧ p.2.gang = g ∧ p.2.unit = k)) :
    s.setAcc g k u acc = s.modUnit g k (fun v => { v with acc := acc }) := by
  have hops : s.mxops.map (fun (p : Nat × MxOp) => if p.2.fn == .mxst && p.2.started && p.2.gang == g && p.2.unit == k then
      (p.1, { p.2 with shadow := s.mixed u.nMax p.2 acc }) else p) = s.mxops := by
    refine (List.map_congr_left fun p hp => if_neg ?_).trans (List.map_id _)
    simpa [and_assoc] using h p hp
  unfold State.setAcc
  rw [hops]
  rfl

theorem State.setAcc_shadow {s : State} {g k : Nat} {u : MxUnit} {acc : Sparse W32} {p : Nat × MxOp}
    (hp : p ∈ (s.setAcc g k u acc).mxops) : ∃ y, (p.1, y) ∈ s.mxops ∧ p.2 = { y with shadow := p.2.shadow } ∧
      ∀ e, Sparse.get 0 p.2.shadow e = Sparse.get 0 y.shadow e ∨ Sparse.get 0 p.2.shadow e = Sparse.get 0 acc e := by
  obtain ⟨q, hq, rfl⟩ := List.mem_map.1 hp
  split
  · exact ⟨q.2, hq, rfl, s.mixed_get u.nMax q.2 acc⟩
  · exact ⟨q.2, hq, rfl, fun e => .inl rfl⟩

theorem State.modUnit_unit {s : State} {g : Nat} {x : Gang} {r : Grant} {k : Nat} {u : MxUnit} (f : MxUnit → MxUnit)
    (hx : aget s.gangs g = some x) (hr : x.grant = some r) (hu : r.units[k]? = some u) :
    ∃ y q, aget (s.modUnit g k f).gangs g = some y ∧ y.grant = some q ∧ q.units[k]? = some (f u) ∧
      ∀ j, j ≠ k → q.units[j]? = r.units[j]? := by
  refine ⟨{ x with grant := some { r with units := r.units.modify k f } }, { r with units := r.units.modify k f }, ?_, rfl,
    ?_, fun j hj => ?_⟩
  · rw [State.modUnit, State.modGang_gangs, aget_amod, if_pos rfl, hx, Option.map_some, hr]
    rfl
  · simp [List.getElem?_modify, hu]
  · simp [List.getElem?_modify, Ne.symm hj]

end Sys2Proof.Machine
end

section
/-! SUPPORT. What a failed self-test makes of a unit, and what the matrix units do. -/
namespace Sys2Proof.Machine

theorem Gang.standing_grant {x y : Gang} (h : y.standing = x.standing) : y.grant = x.grant :=
  congrArg (fun q => q.2.2) h

/-! ### Operations of a lost unit -/

theorem State.modOp_calm (s : State) (m : Nat) (f : MxOp → MxOp) : s.Calm (s.modOp m f) := .of_same rfl rfl rfl

theorem State.report_calm (s : State) (g w q : Nat) (v : QWord) : s.Calm (s.report g w q v) := s.modWave_calm ..

theorem State.opReported_calm (s : State) (m : Nat) (x : MxOp) (u : MxUnit) : s.Calm (s.opReported m x u) := by
  unfold State.opReported
  dsimp only
  refine .trans ?_ (State.settleGangQueues_calm ..)
  have hgone : s.Calm ((s.delOp m).gangDid x.gang (Seen.join x.view [(opThread m, s.history.length)])) :=
    .trans (t := s.delOp m) (.of_same rfl rfl rfl) (State.gangDid_calm ..)
  split
  · exact hgone.trans (State.report_calm ..)
  · exact hgone

theorem State.opReach_calm {s : State} {m : Nat} {x : MxOp} {ctx st : Nat} {a : Access} {write : Bool}
    {ps : List (Nat × Nat)} {next : List (Target × Nat) → State} (hnext : ∀ qs, s.Calm (next qs)) :
    s.Calm (s.opReach m x ctx st a write ps next) := by
  unfold State.opReach
  split
  · exact (s.modOp_calm ..).trans (State.pageRequest_calm ..)
  · exact .trans (t := s.delOp m) (.of_same rfl rfl rfl) (State.raiseHalt_calm ..)
  · exact s.backInvalidate_calm _
  · exact (hnext _).whenClear ..

theorem State.finishOp_calm (s : State) (m ctx st : Nat) : s.Calm (s.finishOp m ctx st) := by
  unfold State.finishOp
  split
  · exact .refl s
  split
  · exact .refl s
  dsimp only
  split
  · exact s.opReported_calm ..
  · exact State.opReach_calm fun qs => ((s.fillFrom_calm ..).trans (State.riseAt_calm ..)).trans (State.opReported_calm ..)

theorem State.opDone_calm (s : State) (m : Nat) (x : MxOp) (status ctx st : Nat) : s.Calm (s.opDone m x status ctx st) :=
  ((s.modOp_calm ..).trans (State.setToken_calm ..)).trans (State.finishOp_calm ..)

theorem State.orFlags_calm (s : State) (m : Nat) (x : MxOp) (st : Nat) (exc : Exc) : s.Calm (s.orFlags m x st exc) := by
  unfold State.orFlags
  split
  · exact .refl s
  · exact .ite (.refl s) (s.putSpad_calm ..)

theorem State.opWrite_calm {s : State} {m : Nat} {x : MxOp} {ctx st : Nat} {els : List (Nat × List Byte × Bool)}
    {next : State → State} (hnext : ∀ t : State, t.Calm (next t)) : s.Calm (s.opWrite m x ctx st els next) := by
  refine State.opReach_calm fun ps => ?_
  refine (((s.fillFrom_calm ctx st none ps).trans ?_).trans (State.cleanSectors_calm ..)).trans (hnext _)
  exact .foldl (fun t e => t.storeElement_calm ..) _ _

theorem State.loseOp_calm (s : State) (m ctx st : Nat) : s.Calm (s.loseOp m ctx st) := by
  unfold State.loseOp
  split
  · exact .refl s
  next x _ =>
    extract_lets done
    have hdone : ∀ t : State, t.Calm (done t) := fun t => by
      refine .trans (t := if x.fn == .mxsw then t else t.orFlags m x st excInvalid) ?_ (State.opDone_calm ..)
      exact .ite (.refl t) (t.orFlags_calm ..)
    split
    · exact .refl s
    · split
      · exact State.opWrite_calm hdone
      · exact hdone s

/-! ### Fencing, moving and losing -/

section Failed
variable {s : State} {st sub g k : Nat} {u : MxUnit} {x : Gang} {r : Grant}

theorem State.fence_fenced (hlen : s.stackTab.length = 12) (hst : st < 12) (hsub : sub < 4) :
    has ((s.fence st sub).stack st).fenced sub = true := by
  unfold State.fence
  rw [(State.event_calm ..).fenced, State.modStack_stack _ _ _ _ (hlen ▸ hst), if_pos rfl]
  dsimp only
  rw [has_setBit _ _ _ _ hsub, if_pos rfl]

/-- A fence leaves every gang's standing. -/
theorem State.fence_gang (st sub : Nat) (hx : aget s.gangs g = some x) :
    ∃ y, aget (s.fence st sub).gangs g = some y ∧ y.standing = x.standing := by
  unfold State.fence
  exact (State.event_calm ..).gang (s := s.modStack st _) hx

/-- A unit that is lost is marked so, and the fences of the stacks stand. -/
theorem State.loseUnit_lost (st sub : Nat) (u : MxUnit) (hx : aget s.gangs g = some x) (hr : x.grant = some r)
    {v : MxUnit} (hv : r.units[k]? = some v) :
    (((s.loseUnit st sub g k u).stack st).fenced = (s.stack st).fenced) ∧
    ∃ y q w, aget (s.loseUnit st sub g k u).gangs g = some y ∧ y.grant = some q ∧ q.units[k]? = some w ∧ w.lost = true := by
  unfold State.loseUnit
  simp only [hx]
  generalize hmarks : List.foldl _ s (countUnits u.cur.n u.next.n (s.unitOps g k)) = t
  have hmarked : s.Calm t := hmarks ▸ .foldl (fun t p => t.modOp_calm ..) _ s
  obtain ⟨x', hx', hstand⟩ := hmarked.gang hx
  obtain ⟨y, q, hy, hq, hw, -⟩ := State.modUnit_unit (fun v => { v with
    lost := true, subs := [], acc := [], cur := Plane.empty, next := Plane.empty }) hx' ((Gang.standing_grant hstand).trans hr) hv
  have hrest := (State.event_calm (t.modUnit g k (fun v => { v with
    lost := true, subs := [], acc := [], cur := Plane.empty, next := Plane.empty })) 0x0212 st (s.ctxOf x)
    (natLe 1 sub ++ List.replicate 7 0 ++ natLe 8 (s.launchid x).toNat)).trans
    (.foldl (f := fun t p => t.loseOp p.1 (s.ctxOf x) st) (fun t p => t.loseOp_calm ..) (s.unitOps g k) _)
  obtain ⟨z, hz, hstand'⟩ := hrest.gang hy
  exact ⟨(hrest.fenced st).trans (hmarked.fenced st), z, q, _, hz, (Gang.standing_grant hstand').trans hq, hw, rfl⟩

/-- What is left of a unit whose self-test found no way to repair its sub-array: it moved, or it is lost. -/
def MxUnit.Retired (u v : MxUnit) (mode sub : Nat) : Prop :=
  v.lost = true ∨ (v = { u with subs := v.subs } ∧ v.subs ∈ modeGroups mode ∧ sub ∉ v.subs)

/-- A unit whose sub-array is fenced moves to the first free group of its shape that is not taken, or is lost (R315). -/
def State.retireUnit (s : State) (st sub g k : Nat) (u : MxUnit) (mode : Nat) (taken : List Nat) : State :=
  match (modeGroups mode).filter (fun grp => grp.all (fun k => !has (s.stack st).fenced k && !taken.contains k)) with
  | grp :: _ => s.modUnit g k (fun v => { v with subs := grp })
  | [] => s.loseUnit st sub g k u

theorem State.retireUnit_retires (taken : List Nat) (hfenced : has (s.stack st).fenced sub = true)
    (hx : aget s.gangs g = some x) (hr : x.grant = some r) {mode : Nat} (hu : r.units[k]? = some u) :
    has ((s.retireUnit st sub g k u mode taken).stack st).fenced sub = true ∧
    ∃ y q v, aget (s.retireUnit st sub g k u mode taken).gangs g = some y ∧ y.grant = some q ∧ q.units[k]? = some v ∧
      u.Retired v mode sub := by
  unfold State.retireUnit
  split
  next grp _ hfree =>
    obtain ⟨hmem, hall⟩ := List.mem_filter.1 (hfree ▸ List.mem_cons_self : grp ∈ _)
    obtain ⟨y, q, hy, hq, hv, -⟩ := State.modUnit_unit (fun v => { v with subs := grp }) hx hr hu
    refine ⟨hfenced, y, q, _, hy, hq, hv, .inr ⟨rfl, hmem, fun hin => ?_⟩⟩
    have hopen := List.all_eq_true.1 hall sub hin
    rw [hfenced] at hopen
    exact absurd hopen (by simp)
  · obtain ⟨hkept, y, q, w, hy, hq, hw, hlost⟩ := State.loseUnit_lost st sub u hx hr hu
    exact ⟨hkept ▸ hfenced, y, q, w, hy, hq, hw, .inl hlost⟩

theorem State.failedTest_law (hx : aget s.gangs g = some x) (hr : x.grant = some r) {test : SelfTest}
    (htest : test = .array ∨ ((s.stack st).spareLeft sub = none ∧ test ≠ .pass)) :
    ∃ taken, s.failedTest st sub g k u test = (s.fence st sub).retireUnit st sub g k u r.mode taken := by
  refine ⟨(s.fence st sub).subsTaken st g ++ (r.units.flatMap (fun v => v.subs)).filter
    (fun k => !(u.subs.filter (fun k => k != sub)).contains k), ?_⟩
  unfold State.failedTest State.retireUnit
  simp only [hx, hr, Option.bind_some]
  rcases htest with rfl | ⟨hspare, hne⟩
  · rfl
  · cases test with
    | pass => exact absurd rfl hne
    | row n => simp only [hspare] <;> rfl
    | array => rfl

theorem State.failedTest_retires (hlen : s.stackTab.length = 12) (hst : st < 12) (hsub : sub < 4)
    (hx : aget s.gangs g = some x) (hr : x.grant = some r) (hu : r.units[k]? = some u) {test : SelfTest}
    (htest : test = .array ∨ ((s.stack st).spareLeft sub = none ∧ test ≠ .pass)) :
    has ((s.failedTest st sub g k u test).stack st).fenced sub = true ∧
    ∃ y q v, aget (s.failedTest st sub g k u test).gangs g = some y ∧ y.grant = some q ∧ q.units[k]? = some v ∧
      u.Retired v r.mode sub := by
  obtain ⟨taken, hlaw⟩ := State.failedTest_law (k := k) (u := u) hx hr htest
  obtain ⟨x', hx', hstand⟩ := State.fence_gang st sub hx
  rw [hlaw]
  exact State.retireUnit_retires taken (State.fence_fenced hlen hst hsub) hx' ((Gang.standing_grant hstand).trans hr) hu

theorem State.failedTest_remaps (row : Nat) {n : Nat} (h : (s.stack st).spareLeft sub = some n) :
    s.failedTest st sub g k u (.row row) = s.remapRow st sub row n := by
  unfold State.failedTest
  simp only [h]

end Failed

theorem State.selfTestPeriodic_law {s : State} {st sub : Nat} (hst : st < 12) (hsub : sub < 4)
    (hf : has (s.stack st).fenced sub = false) (hh : (s.stack st).haltArrived = false) (test : SelfTest) :
    exec (.selfTestPeriodic st sub test) s = match s.unitAt st sub with
      | some (g, k, u) => .next ((s.testRan st 1).failedTest st sub g k u test)
      | none => match test with
        | .pass => .next (s.testRan st 1)
        | .row r => (match ((s.testRan st 1).stack st).spareLeft sub with
            | some k => .next ((s.testRan st 1).remapRow st sub r k)
            | none => .next ((s.testRan st 1).fence st sub))
        | .array => .next ((s.testRan st 1).fence st sub) := by
  change execSelfTestPeriodic st sub test s = _
  unfold execSelfTestPeriodic
  exact if_neg (by simp [hf, hh]; omega)

/-- Settles O51. -/
theorem matrixEvents : Obligations.MatrixEvents := by
  refine ⟨fun s m x ctx st u hx hp hu => ?ops, fun s g k u acc => ⟨State.setAcc_unstored, fun p => State.setAcc_shadow⟩,
    fun s g x r k u f => State.modUnit_unit f, fun s st sub hst hsub hf hh => ?periodic,
    fun s st sub test hidle => if_pos hidle, fun s st sub g k u x r hlen hst hsub hx hr hu => ?failed⟩
  case periodic =>
    have hlaw := State.selfTestPeriodic_law hst hsub hf hh
    intro ran
    refine ⟨fun hnone => ⟨?_, ?_, fun row hs => ?_, fun row k hs => ?_⟩, fun g k u test hat => ?_⟩
    · rw [hlaw, hnone] <;> rfl
    · rw [hlaw, hnone] <;> rfl
    · rw [hlaw, hnone]
      dsimp only
      rw [show ((s.testRan st 1).stack st).spareLeft sub = none from hs] <;> rfl
    · rw [hlaw, hnone]
      dsimp only
      rw [show ((s.testRan st 1).stack st).spareLeft sub = some k from hs] <;> rfl
    · rw [hlaw, hat] <;> rfl
  case failed =>
    exact ⟨rfl, fun row n hs => State.failedTest_remaps row hs, fun test htest =>
      State.failedTest_retires hlen hst hsub hx hr hu htest⟩
  have h : s.OpRuns m x ctx st u := ⟨hx, hp, hu⟩
  refine ⟨fun t v hs hpage hfirst hflush => ?_, fun hs hpage hfirst hflush => ?_, fun hwait => ?_, fun hfn => ?_, fun hfn => ?_,
    fun hfn => ?_, fun hfn => ?_, ?miss, fun test hwait => ?_, fun test hs hpage => ?complete, fun r test hr => ?apply,
    fun status => ⟨rfl, State.opVisible_op hx status⟩, fun hno => ?_, fun ps hc hb hn =>
      State.finishOp_rises hx hu hc hb hn⟩
  case miss =>
    intro needs page hs hpage hr hv hreach
    exact h.miss_law hs hpage hr hv hreach
  case complete =>
    have hlaw := h.complete_of_started hs hpage test
    refine ⟨fun hv => ?_, fun hv hl => ?_, fun hv hl hr => ?_, fun hv hl hr hd => ⟨fun hfn => ?_, fun hfn => ?_, fun hfn => ?_⟩,
      fun hv hl hr hd hthere => h.pops hs hpage hv hl hr test hd hthere, fun hv hl hr hd hthere => ?_⟩
    · rw [hlaw, if_pos hv]
    · rw [hlaw, hv, if_neg Bool.false_ne_true, if_pos (Option.isSome_iff_ne_none.2 hl)]
    · rw [hlaw, hv, if_neg Bool.false_ne_true, hl, if_neg (by simp), if_pos (Option.isSome_iff_ne_none.2 hr)]
    · rw [h.complete_of_unread hs hpage hv hl hr, if_pos hd]
      unfold State.runOp
      simp only [hfn]
    · rw [h.complete_of_unread hs hpage hv hl hr, if_pos hd]
      unfold State.runOp
      simp only [hfn]
    · rw [h.complete_of_unread hs hpage hv hl hr, if_pos hd]
    · rw [h.complete_of_unread hs hpage hv hl hr, if_neg hd, if_pos (by simp [hthere])]
  case apply =>
    have hlaw := State.applyOp_law (ctx := ctx) (st := st) hx hu hr test
    refine ⟨fun hfn => ?_, fun hfn => ?_, fun hfn => ?_⟩
    · rw [hlaw, hfn]
      exact congrArg (fun t => State.opDone t m x _ ctx st) (s.modUnit_plane ..)
    · rw [hlaw, hfn]
    · refine ⟨s.tested x u, _, s.tested_le x u, (s.testRan st (s.tested x u)).chosen_sub, fun hpass => ?_, fun hfail => ?_⟩
      · rw [hlaw, hfn]
        exact if_pos hpass
      · rw [hlaw, hfn]
        exact if_neg hfail
  · rw [h.start_of_free hs hpage hfirst, hflush]
  · rw [h.start_of_free hs hpage hfirst, hflush]
  · rw [h.start_law, if_pos (State.stays_iff.2 hwait)]
  · unfold State.startOp
    rcases hfn with hfn | hfn <;> simp only [hfn]
  · unfold State.startOp
    simp only [hfn]
  · unfold State.startOp
    simp only [hfn]
  · unfold State.startOp
    simp only [hfn]
  · rw [h.complete_law, if_pos (by simpa [Option.isSome_iff_ne_none] using hwait)]
  · rw [State.finishOp_uncounted hx hu hno]
    exact s.opReported_same m x u

end Sys2Proof.Machine
end

section
/-! SUPPORT. Flag fall, the deadline and the completion record. -/
namespace Sys2Proof.Machine

/-! ### Packets, images and barriers leave gangs and tallies -/

theorem State.stopSilently_calm (s : State) (k error detail index : Nat) : s.Calm (s.stopSilently k error detail index) := by
  unfold State.stopSilently
  split
  · exact .refl s
  · refine .ite (.refl s) ?_
    refine .trans (t := s.modQueue k _) (.of_same rfl rfl rfl) (State.send_calm ..)

theorem State.cpWrite_calm {s t : State} {q : Queue} {va : Nat} {bs : List Byte} (h : s.cpWrite q va bs = .ok t) :
    s.Calm t := by
  unfold State.cpWrite at h
  split at h
  · cases h
  · cases h
  · cases h
  · dsimp only at h
    split at h
    · cases h
    · cases h
      exact State.storePieces_calm ..

theorem State.modQueue_calm (s : State) (k : Nat) (f : Queue → Queue) : s.Calm (s.modQueue k f) := .of_same rfl rfl rfl

theorem State.writeStatus_calm (s : State) (k : Nat) : s.Calm (s.writeStatus k) := by
  unfold State.writeStatus
  split
  · exact .refl s
  · split
    next t ht => exact (State.cpWrite_calm ht).trans (t.modQueue_calm ..)
    · exact ((s.modQueue_calm ..).trans (State.modQueue_calm ..)).trans (State.pageRequest_calm ..)
    · exact (s.modQueue_calm ..).trans (State.backInvalidate_calm ..)
    · exact (s.modQueue_calm ..).trans (State.stopSilently_calm ..)

theorem State.notePacket_calm (s : State) (k i : Nat) : s.Calm (s.notePacket k i) :=
  (s.modQueue_calm ..).trans (State.writeStatus_calm ..)

theorem State.settleReset_calm (s : State) (k : Nat) : s.Calm (s.settleReset k) := by
  unfold State.settleReset
  split
  · exact .refl s
  split
  · exact .refl s
  dsimp only
  refine .ite (.refl s) ?_
  have hclear := (s.modQueue_calm k Queue.cleared).trans (State.writeStatus_calm _ k)
  split
  · exact hclear
  · exact hclear.trans (State.notePacket_calm ..)

theorem State.completePacket_calm (s : State) (k i : Nat) : s.Calm (s.completePacket k i) :=
  (s.notePacket_calm k i).trans (State.settleReset_calm ..)

theorem State.writeCounts_calm (s : State) (c : Context) (used images : Nat) : s.Calm (s.writeCounts c used images) :=
  State.put_calm ..

theorem State.settleResume_calm (s : State) (ctx : Nat) : s.Calm (s.settleResume ctx) := by
  unfold State.settleResume
  split
  · exact .refl s
  next c _ =>
    refine .ite (.refl s) ?_
    have hclosed : s.Calm (s.modContext ctx (fun x => { x with resuming := [] })) := .of_same rfl rfl rfl
    exact (hclosed.trans (State.writeCounts_calm _ c 0 0)).trans (.foldl (fun t p => t.completePacket_calm ..) _ _)

theorem State.dropImage_calm (s : State) (ctx : Nat) : s.Calm (s.dropImage ctx) := by
  unfold State.dropImage
  split
  · exact .refl s
  · exact (s.writeCounts_calm ..).trans (State.settleResume_calm ..)

theorem State.setBar_calm (s : State) (i : Inst) (b : Barrier) : s.Calm (s.setBar i b) := by
  cases i with
  | wave g w n => exact s.modWave_calm ..
  | gang g n => exact s.modGang_calm g fun _ => rfl
  | stack l st n => exact s.modLaunch_calm l fun _ => rfl
  | pkg l n => exact s.modLaunch_calm l fun _ => rfl

theorem State.wakeAll_calm (s : State) (i : Inst) (phase : W32) (v : Seen) : s.Calm (s.wakeAll i phase v) := by
  refine ⟨fun _ => rfl, fun g => ?_, fun _ => rfl⟩
  unfold State.wakeAll
  induction s.gangs with
  | nil => rfl
  | cons p m ih =>
    simp only [List.map_cons]
    split
    · rw [aget, aget]
      split
      · rfl
      · exact ih
    · rw [aget, aget]
      split
      · rfl
      · exact ih

theorem State.settle_calm {s : State} {i : Inst} (hi : ∀ g n, i ≠ .gang g n) : s.Calm (s.settle i) := by
  unfold State.settle
  dsimp only
  split
  · have hwake := (s.setBar_calm i (s.getBar i).flip).trans
      (State.wakeAll_calm _ i (s.getBar i).flip.phase (s.getBar i).flip.passed)
    cases i with
    | gang g n => exact absurd rfl (hi g n)
    | wave g w n => exact hwake
    | stack l st n => exact hwake
    | pkg l n => exact hwake
  · exact .refl s

/-- A gang that leaves the barriers of its launch. -/
theorem State.gangLeaves_calm (s : State) (g : Nat) : s.Calm (s.gangLeaves g) := by
  unfold State.gangLeaves
  split
  · exact .refl s
  next x _ =>
    have hbar : ∀ (u : State) pkg n f, u.Calm (u.modBar (x.groupInst pkg n) f) := fun u pkg n f =>
      (u.setBar_calm (x.groupInst pkg n) _).trans (State.settle_calm fun g m h => by cases pkg <;> cases h)
    exact .foldl (fun u n => (hbar ..).trans (hbar ..)) _ s

/-! ### Never started -/

/-- Of the tallies only the count of gangs never started may have grown. -/
def State.Unstarts (s t : State) : Prop := ∀ l x, aget s.launches l = some x →
  ∃ y, aget t.launches l = some y ∧ y.next = x.next ∧ x.unstarted ≤ y.unstarted

theorem State.neverStarts_unstarts (s : State) (g : Nat) : s.Unstarts (s.neverStarts g) := by
  intro l x hx
  unfold State.neverStarts
  split
  · exact ⟨x, hx, rfl, Nat.le_refl _⟩
  next p _ =>
    obtain ⟨y, hy, hnext, hle⟩ : ∃ y, aget (s.modLaunch p.launch (fun l => { l with unstarted := l.unstarted + 1 })).launches l =
        some y ∧ y.next = x.next ∧ x.unstarted ≤ y.unstarted := by
      rw [State.modLaunch_launches, aget_amod]
      split
      · exact ⟨{ x with unstarted := x.unstarted + 1 }, by rw [hx]; rfl, rfl, Nat.le_succ _⟩
      · exact ⟨x, hx, rfl, Nat.le_refl _⟩
    obtain ⟨z, hz, htally⟩ := (State.gangLeaves_calm _ g).launch hy
    have hz2 : z.unstarted = y.unstarted := congrArg (fun q => q.2.1) htally
    have hz3 : z.next = y.next := congrArg (fun q => q.2.2) htally
    exact ⟨z, hz, hz3.trans hnext, hz2 ▸ hle⟩

theorem State.neverStart_all (gs : List Nat) : ∀ s : State, s.Unstarts (gs.foldl (fun t g => t.neverStarts g) s) := by
  induction gs with
  | nil => exact fun s l x hx => ⟨x, hx, rfl, Nat.le_refl _⟩
  | cons g gs ih =>
    intro s l x hx
    obtain ⟨y, hy, hnext, hle⟩ := s.neverStarts_unstarts g l x hx
    obtain ⟨z, hz, hnext', hle'⟩ := ih (s.neverStarts g) l y hy
    exact ⟨z, hz, hnext'.trans hnext, Nat.le_trans hle hle'⟩

/-! ### A gang that is killed -/

/-- A wave that does not speculate goes on not to, and nothing that holds it changes. -/
def Wave.Parked (v v' : Wave) : Prop :=
  (v.spec = none → v'.spec = none) ∧ v'.held = v.held ∧ v'.left = v.left ∧ v'.entering = v.entering

theorem Wave.Parked.refl (v : Wave) : v.Parked v := ⟨id, rfl, rfl, rfl⟩

theorem Wave.Parked.trans {u v w : Wave} (h : u.Parked v) (h' : v.Parked w) : u.Parked w :=
  ⟨fun hu => h'.1 (h.1 hu), h'.2.1.trans h.2.1, h'.2.2.1.trans h.2.2.1, h'.2.2.2.trans h.2.2.2⟩

theorem queueRel_parked : QueueRel Wave.Parked where
  refl := .refl
  trans := .trans
  goes _ _ := ⟨id, rfl, rfl, rfl⟩
  pushes _ _ := ⟨id, rfl, rfl, rfl⟩
  pops _ _ := ⟨id, rfl, rfl, rfl⟩
  takes _ _ _ _ := ⟨id, rfl, rfl, rfl⟩

theorem State.report_parked (s : State) (g w q : Nat) (x : QWord) : State.Keeping Wave.Parked s (s.report g w q x) := by
  refine s.modWave_keeping .refl g w fun v => ?_
  split <;> exact ⟨id, rfl, rfl, rfl⟩

theorem State.setToken_parked (s : State) (g w : Nat) (t : Option Nat) (status : Nat) (vis src : Bool) (v : Seen) :
    State.Keeping Wave.Parked s (s.setToken g w t status vis src v) := by
  cases t with
  | none => exact .refl .refl s
  | some n => exact s.modWave_keeping .refl g w fun x => ⟨fun hx => by
      unfold Wave.setToken Wave.wakeTokens
      simp only [Wave.modCore, hx, Option.map_none], rfl, rfl, rfl⟩

/-- The gang stands, and none of its waves speculates. -/
structure State.Stilled (s : State) (g : Nat) : Prop where
  gang : ∃ x, aget s.gangs g = some x
  alone : s.GangAlone g

section Killed
variable {s t : State} {g : Nat}

theorem State.Stilled.keeps (h : s.Stilled g) (hcalm : s.Calm t) (hwaves : State.Keeping Wave.Parked s t) :
    t.Stilled g := by
  obtain ⟨x, hx⟩ := h.gang
  obtain ⟨y, hy, -⟩ := hcalm.gang hx
  refine ⟨⟨y, hy⟩, fun w v hv => ?_⟩
  rcases hwaves.waves g w with ⟨-, hnone⟩ | ⟨u, u', hu, hu', hkept⟩
  · exact absurd (hv.symm.trans hnone) (by simp)
  · obtain rfl : u' = v := Option.some.inj (hu'.symm.trans hv)
    exact hkept.1 (h.alone w u hu)

/-- Commands and operations of the device are no part of the gang. -/
theorem State.Stilled.of_gangs (h : s.Stilled g) (ht : t.gangs = s.gangs) : t.Stilled g :=
  ⟨ht ▸ h.gang, fun w v hv => h.alone w v (by rw [State.wave, ← ht]; exact hv)⟩

theorem State.Stilled.modUnit (h : s.Stilled g) (k u : Nat) (f : MxUnit → MxUnit) : (s.modUnit k u f).Stilled g := by
  refine ⟨?_, fun w v hv => ?_⟩
  · obtain ⟨x, hx⟩ := h.gang
    rw [State.modUnit, State.modGang_gangs, aget_amod, hx]
    split <;> exact ⟨_, rfl⟩
  · rcases (s.modGang_keeping (R := Eq) (fun _ => rfl) k (f := fun x => { x with
      grant := x.grant.map (fun r => { r with units := r.units.modify u f }) }) fun _ => rfl).waves g w with
      ⟨-, hnone⟩ | ⟨y, y', hy, hy', rfl⟩
    · exact absurd (hv.symm.trans hnone) (by simp)
    · obtain rfl : y = v := Option.some.inj (hy'.symm.trans hv)
      exact h.alone w y hy

theorem State.Stilled.foldl {α : Type} {f : State → α → State} (hf : ∀ (u : State) x, u.Stilled g → (f u x).Stilled g)
    (h : s.Stilled g) (xs : List α) : (xs.foldl f s).Stilled g :=
  List.foldlRecOn (motive := fun t => State.Stilled t g) _ _ h fun t ht x _ => hf t x ht

theorem State.Stilled.settled (h : s.Stilled g) (k : Nat) : (s.settleGangQueues k).Stilled g :=
  h.keeps (s.settleGangQueues_calm k) (queueRel_parked.settlesGang s k)

theorem State.Stilled.setToken (h : s.Stilled g) (k w : Nat) (n : Option Nat) (status : Nat) (vis src : Bool) (v : Seen) :
    (s.setToken k w n status vis src v).Stilled g := h.keeps (State.setToken_calm ..) (State.setToken_parked ..)

theorem State.Stilled.report (h : s.Stilled g) (k w q : Nat) (x : QWord) : (s.report k w q x).Stilled g :=
  h.keeps (State.report_calm ..) (State.report_parked ..)

theorem State.Stilled.commandEnd (h : s.Stilled g) (x : Command) (status units : Nat) (v : Seen) :
    (s.commandEnd x status units v).Stilled g := by
  unfold State.commandEnd
  split
  · exact h
  · dsimp only
    split
    · exact ((h.setToken ..).report ..).settled _
    · exact (h.setToken ..).settled _

theorem State.Stilled.cancelCommands (h : s.Stilled g) (k : Nat) : (s.cancelCommands k).Stilled g :=
  h.foldl (fun u p hu => State.Stilled.commandEnd (s := u.delCommand p.1) (hu.of_gangs rfl) p.2 1 0 []) _

theorem State.Stilled.popHandles (h : s.Stilled g) (m : Nat) (x : MxOp) (n : Nat) : (s.popHandles m x n).Stilled g := by
  have hpopped : (s.modWave x.gang x.wave (fun w => { w with push := w.push.modify 5 (fun l => l.drop n) })).Stilled g :=
    h.keeps (State.modWave_calm ..) (s.modWave_keeping .refl _ _ fun v => ⟨id, rfl, rfl, rfl⟩)
  unfold State.popHandles
  refine State.Stilled.settled ?_ _
  exact hpopped.of_gangs rfl

theorem State.Stilled.cancelOp (h : s.Stilled g) (m : Nat) (x : MxOp) : (s.cancelOp m x).Stilled g := by
  unfold State.cancelOp
  extract_lets u v
  have hu : u.Stilled g := by
    show (if _ then _ else _ : State).Stilled g
    split
    · exact h.modUnit ..
    · exact h
  have hv : v.Stilled g := State.Stilled.setToken (s := u.delOp m) (hu.of_gangs rfl) ..
  split
  · exact hv.report ..
  · exact hv

theorem State.Stilled.cancelOps (h : s.Stilled g) (k : Nat) : (s.cancelOps k).Stilled g :=
  (h.foldl (fun u p hu => hu.popHandles ..) _).foldl (fun u p hu => hu.cancelOp ..) _

theorem Wave.rollback_spec (v : Wave) : v.rollback.spec = none := by
  unfold Wave.rollback
  split
  · assumption
  · rfl

theorem State.rollbackWave_wave (s : State) (g w counter k : Nat) :
    (s.rollbackWave g w counter).wave g k = if k = w then (s.wave g k).map Wave.rollback else s.wave g k := by
  unfold State.rollbackWave
  split
  next gang wave _ hw =>
    split
    · rw [State.modWave_wave]
      by_cases hk : k = w
      · rw [if_pos ⟨rfl, hk⟩, if_pos hk]
        rfl
      · rw [if_neg fun h => hk h.2, if_neg hk]
        rfl
    next hspec =>
      split
      next hk =>
        rw [hk, hw, Option.map_some, Wave.rollback, Option.not_isSome_iff_eq_none.1 hspec]
      · rfl
  next hnone =>
    split
    next hk =>
      cases hw : s.wave g k with
      | none => rfl
      | some v =>
        obtain ⟨x, hx, -⟩ := Option.bind_eq_some_iff.1 (show (aget s.gangs g).bind _ = _ from hw)
        exact absurd (hk ▸ hw) (hnone x v hx)
    · rfl

theorem State.rollbackWaves_alone (ws : List Nat) : ∀ s : State,
    (∀ w v, s.wave g w = some v → w ∉ ws → v.spec = none) →
    (ws.foldl (fun t w => t.rollbackWave g w 0x0B8) s).GangAlone g := by
  induction ws with
  | nil => exact fun s h w v hv => h w v hv List.not_mem_nil
  | cons k ws ih =>
    refine fun s h => ih _ fun w v hv hw => ?_
    rw [State.rollbackWave_wave] at hv
    split at hv
    · obtain ⟨u, -, rfl⟩ := Option.map_eq_some_iff.1 hv
      exact u.rollback_spec
    next hk => exact h w v hv fun hmem => (List.mem_cons.1 hmem).elim hk hw

theorem State.rollbackGang_stilled {x : Gang} (hx : aget s.gangs g = some x) : (s.rollbackGang g).Stilled g := by
  unfold State.rollbackGang
  simp only [hx]
  obtain ⟨y, hy, -⟩ := (State.Calm.foldl (fun (t : State) w => t.rollbackWave_calm g w 0x0B8)
    (List.range x.waves.length) s).gang hx
  refine ⟨⟨y, hy⟩, State.rollbackWaves_alone _ s fun w v hv hw => ?_⟩
  rw [State.wave, hx, Option.bind_some] at hv
  exact absurd (List.mem_range.2 (List.getElem?_eq_some_iff.1 hv).1) hw

theorem State.killGang_dies {x : Gang} (hx : aget s.gangs g = some x) :
    ∃ y, aget (s.killGang g).gangs g = some y ∧ y.state = .dying ∧
      ∀ v ∈ y.waves, v.held = none ∧ v.left = [] ∧ v.spec = none ∧ v.entering = false := by
  have hstill := ((State.rollbackGang_stilled hx).cancelCommands g).cancelOps g
  unfold State.killGang
  generalize (((s.rollbackGang g).cancelCommands g).cancelOps g) = t at hstill ⊢
  obtain ⟨z, hz⟩ := hstill.gang
  have hdying : aget (t.modGang g (fun x => { x with
      state := .dying, waves := x.waves.map (fun w => { w with held := none, left := [], entering := false }) })).gangs g =
      some { z with
        state := .dying, waves := z.waves.map (fun w => { w with held := none, left := [], entering := false }) } := by
    rw [State.modGang_gangs, aget_amod, if_pos rfl, hz]
    rfl
  obtain ⟨y, hy, hstand⟩ := (State.settleGangQueues_calm _ g).gang hdying
  refine ⟨y, hy, congrArg (fun q => q.2.1) hstand, fun v hv => ?_⟩
  obtain ⟨w, hw⟩ := List.getElem?_of_mem hv
  rcases (queueRel_parked.settlesGang _ g).waves g w with ⟨-, hnone⟩ | ⟨u, u', hu, hu', hkept⟩
  · rw [State.wave, hy, Option.bind_some, hw] at hnone
    cases hnone
  · rw [State.wave, hy, Option.bind_some, hw] at hu'
    cases hu'
    rw [State.wave, hdying, Option.bind_some, List.getElem?_map] at hu
    obtain ⟨a, ha, rfl⟩ := Option.map_eq_some_iff.1 hu
    obtain ⟨hspec, hheld, hleft, hentering⟩ := hkept
    exact ⟨hheld, hleft, hspec (hstill.alone w a (by rw [State.wave, hz]; exact ha)), hentering⟩

end Killed

end Sys2Proof.Machine
end

section
/-! SUPPORT. Flag fall, the diverted wave and the record of a launch. -/
namespace Sys2Proof.Machine

/-! ### The diverted wave -/

/-- Leaving an MWAIT loop changes neither the uniform registers nor the rejoin masks. -/
theorem WaveCore.dropMwaits_keeps (core : WaveCore) : core.dropMwaits.s = core.s ∧ core.dropMwaits.j = core.j := by
  unfold WaveCore.dropMwaits
  refine List.foldlRecOn (motive := fun (c : WaveCore) => c.s = core.s ∧ c.j = core.j) _ _ ⟨rfl, rfl⟩ fun c hc k _ => ?_
  split
  · exact hc
  · split
    · exact hc
    · exact hc

theorem WaveCore.divert_lanes (core : WaveCore) (cause : Nat) (spec : Bool) (pc : W64) (prio : BitVec 6) :
    LaneWise core.dropMwaits.lanes (core.divert cause spec pc prio).lanes (fun n l l' =>
      (l.exited = true → l' = l) ∧
      (l.exited = false → l'.regs = l.regs ∧ l'.preds = l.preds ∧ l'.trap = none ∧ l'.stack = [] ∧ l'.mwait = none ∧
        l'.ffpc.toNat = (core.dropMwaits.place n).1.toNat % 2 ^ 56 ∧
        l'.ffwhy = ffwhyOf cause (core.place n).2.1 spec (core.dropMwaits.place n).2.2 core.handler)) := by
  refine ⟨List.length_mapIdx, fun n l l' hl hl' => ?_⟩
  obtain ⟨l0, hl0, rfl⟩ := Option.map_eq_some_iff.1 (List.getElem?_mapIdx.symm.trans hl')
  obtain rfl : l0 = l := Option.some.inj (hl0.symm.trans hl)
  refine ⟨fun hex => if_pos hex, fun hex => ?_⟩
  rw [if_neg (ne_true_of_eq_false hex)]
  refine ⟨rfl, rfl, rfl, rfl, rfl, ?_, rfl⟩
  simp only [BitVec.toNat_setWidth]
  omega

/-! ### Flag fall -/

section FlagFall
variable {s : State} {l st : Nat} {x : Launch}

theorem State.logged_uncaptured (h : x.desc.capture = false) (type core slot keyLen : Nat) (payload : List Byte) :
    s.logged st x type core slot keyLen payload = .go payload s := by
  unfold State.logged
  dsimp only
  rw [h]
  rfl

theorem State.flagFallDue_of (hx : aget s.launches l = some x) (hrec : x.recorded = false) (hd : x.desc.deadline ≠ 0)
    (hst : st ∉ x.ffStacks) (hh : (s.stack st).haltArrived = false) (hholds : s.stackHolds l st = true)
    (hdue : x.desc.deadline - x.desc.budget ≤ (s.stack st).now) (hcap : x.desc.capture = false) :
    s.flagFallDue l st = true := by
  have hwaits : s.flagWaits st x = false := by
    unfold State.flagWaits
    rw [State.logged_uncaptured hcap, Bool.and_false]
  have hfall : decide (x.desc.flagFall ≤ (s.stack st).now) = true := decide_eq_true hdue
  unfold State.flagFallDue
  simp only [hx, hrec, hh, hholds, hwaits, hfall]
  simp [hd, hst]

theorem flagFall_law (hx : aget s.launches l = some x) (hdue : s.flagFallDue l st = true)
    (hcap : x.desc.capture = false) : exec (.flagFall l st) s =
      let t := (s.residents l st).foldl (fun u g => u.divertGang g 1) (s.dropBatched l st)
      .next ((({ t with pools := t.pools.map (fun (p : Nat × Pool) =>
        if p.2.launch == l && p.2.home == st then (p.1, { p.2 with stopped := true }) else p) } : State).modLaunch l
          (fun y => { y.falls with ffStacks := st :: y.ffStacks })).event 0x0003 st x.ctx
        (natLe 8 x.desc.launchid.toNat ++ natLe 8 x.desc.flagFall)) := by
  change execFlagFall l st s = _
  unfold execFlagFall
  simp only [hx, hdue, Bool.not_true, Bool.false_eq_true, if_false]
  rw [State.logged_uncaptured hcap]
  rfl

theorem deadlineKill_law (hx : aget s.launches l = some x) : exec (.deadlineKill l st) s =
    if x.desc.deadline ≠ 0 ∧ x.desc.deadline ≤ (s.stack st).now ∧ (s.stack st).haltArrived = false ∧
      s.residents l st ≠ [] then .next ((s.residents l st).foldl (fun t g => t.killGang g) s) else .next s := by
  have hdue : s.deadlineDue l st = true ↔ x.desc.deadline ≠ 0 ∧ x.desc.deadline ≤ (s.stack st).now ∧
      (s.stack st).haltArrived = false ∧ s.residents l st ≠ [] := by
    unfold State.deadlineDue
    simp only [hx]
    simp [and_assoc]
  exact ite_of_iff hdue rfl rfl

/-! ### A saved gang and gangs that are not dispatched -/

theorem State.killSaved_law {g : Nat} {y : Gang} (hy : aget s.gangs g = some y) (hx : aget s.launches y.launch = some x) :
    ∃ x' y', aget (s.killSaved g).launches y.launch = some x' ∧ x'.killed = x.killed + 1 ∧
      aget (s.killSaved g).gangs g = some y' ∧ y'.state = .done := by
  unfold State.killSaved
  simp only [hy]
  have hkilled : aget (s.modLaunch y.launch (fun l => { l with killed := l.killed + 1 })).launches y.launch =
      some { x with killed := x.killed + 1 } := by
    rw [State.modLaunch_launches, aget_amod, if_pos rfl, hx]
    rfl
  have hleaves := State.gangLeaves_calm (s.modLaunch y.launch (fun l => { l with killed := l.killed + 1 })) g
  obtain ⟨x1, hx1, htally⟩ := hleaves.launch hkilled
  obtain ⟨y1, hy1, -⟩ := hleaves.gang (show aget (s.modLaunch y.launch _).gangs g = some y from hy)
  generalize (s.modLaunch y.launch (fun l => { l with killed := l.killed + 1 })).gangLeaves g = t at hx1 hy1 ⊢
  have hdone : aget (t.modGang g (fun y => { y with state := .done })).gangs g = some { y1 with state := .done } := by
    rw [State.modGang_gangs, aget_amod, if_pos rfl, hy1]
    rfl
  have hdrop := (t.modGang g (fun y => { y with state := .done })).dropImage_calm (s.ctxOf y)
  obtain ⟨x2, hx2, htally'⟩ := hdrop.launch (show aget (t.modGang g _).launches y.launch = some x1 from hx1)
  obtain ⟨y2, hy2, hstand⟩ := hdrop.gang hdone
  exact ⟨x2, y2, hx2, congrArg (fun q => q.1) (htally'.trans htally), hy2, congrArg (fun q => q.2.1) hstand⟩

theorem savedGangDeadline_kills {g : Nat} {y : Gang} (hy : aget s.gangs g = some y) (hx : s.launchOf y = some x)
    (hsaved : y.state = .saved) (hd : x.desc.deadline ≠ 0) (hdue : x.desc.deadline ≤ s.activeNow) :
    exec (.savedGangDeadline g) s = .next (s.killSaved g) := by
  change execSavedGangDeadline g s = _
  unfold execSavedGangDeadline
  simp only [hy, hx, hsaved]
  rw [if_pos (by simp [hd, hdue])]

/-- A launch at whose flag fall the dispatcher counts its last n gangs as never started. -/
def Launch.dispatchEnds (y : Launch) (n : Nat) : Launch :=
  { y.falls with dispatchFf := true, unstarted := y.unstarted + n, next := y.next + n }

theorem dispatcherFlagFall_law (hx : aget s.launches l = some x) (hpool : x.pool = none) (hrec : x.recorded = false)
    (hd : x.desc.deadline ≠ 0) (hdue : x.desc.deadline - x.desc.budget ≤ s.activeNow) (hruns : s.complexRuns = true)
    (hmore : x.next < x.desc.nx * x.desc.ny * x.desc.nz) :
    ∃ t y, exec (.dispatcherFlagFall l) s = .next t ∧ aget t.launches l = some y ∧ y.ff = true ∧
      y.dispatchFf = true ∧ y.next = x.desc.nx * x.desc.ny * x.desc.nz ∧
      x.unstarted + (x.desc.nx * x.desc.ny * x.desc.nz - x.next) ≤ y.unstarted := by
  have htotal : ∀ u : State, u.gangTotal x = x.desc.nx * x.desc.ny * x.desc.nz := fun u => by
    unfold State.gangTotal
    rw [hpool]
  have hfall : decide (x.desc.flagFall ≤ s.activeNow) = true := decide_eq_true hdue
  have hcomes : s.dispatcherDue l = true := by
    unfold State.dispatcherDue State.undispatched
    simp only [hx, hpool, hrec, hfall, hruns, htotal]
    simp [hd, Nat.sub_pos_of_lt hmore]
  obtain ⟨y, hy, hnext, hle⟩ := State.neverStart_all (s.undispatchedFormed l) s l x hx
  refine ⟨((s.undispatchedFormed l).foldl (fun t g => t.neverStarts g) s).modLaunch l
    (fun y => y.dispatchEnds (x.desc.nx * x.desc.ny * x.desc.nz - x.next)),
    y.dispatchEnds (x.desc.nx * x.desc.ny * x.desc.nz - x.next), ?_, ?_, rfl, rfl, ?_, ?_⟩
  · change execDispatcherFlagFall l s = _
    unfold execDispatcherFlagFall
    simp only [hx, hcomes, hpool, Bool.not_true, Bool.false_eq_true, if_false, Option.isNone_none, if_true, htotal] <;> rfl
  · rw [State.modLaunch_launches, aget_amod, if_pos rfl, hy]
    rfl
  · simp only [Launch.dispatchEnds]
    omega
  · simp only [Launch.dispatchEnds]
    omega

end FlagFall

/-! ### The completion record -/

theorem Launch.status_eq (x : Launch) : x.status = if x.wasReset then 2 else if x.ff ∧ x.ffEarly then 3
    else if x.killed ≠ 0 then 2 else if x.ff then 1 else 0 := by
  unfold Launch.status
  simp

theorem completionRecordWrite_law {s : State} {l : Nat} {x : Launch} (hx : aget s.launches l = some x)
    (hruns : s.complexRuns = true) (hpage : x.heldPage = none) (hrec : x.recorded = false) (hacc : s.accounted l x = true) :
    exec (.completionRecordWrite l) s = .next (s.writeRecord l x x.status) := by
  change execCompletionRecordWrite l s = _
  unfold execCompletionRecordWrite
  simp only [hx, hruns, hpage, hrec, hacc]
  rfl

/-- Settles O47. -/
theorem deadlineEvents : Obligations.DeadlineEvents := by
  refine ⟨fun s l st x hx hrec hd hst hh hholds hdue hcap => ?falls, fun s l st h => ?_, fun v cause spec pc prio =>
      ⟨rfl, rfl, rfl, rfl, rfl, rfl, rfl, rfl, v.core.dropMwaits_keeps.1, v.core.dropMwaits_keeps.2, rfl, rfl, rfl,
        v.core.divert_lanes cause spec pc prio⟩,
    fun s l st x hx hd hdue hh hr => (deadlineKill_law hx).trans (if_pos ⟨hd, hdue, hh, hr⟩), fun s g x => State.killGang_dies,
    fun s l st x hx hno => (deadlineKill_law hx).trans (if_neg fun h => ?_), fun s g x l hx hl hsaved hd hdue => ?saved,
    fun s l x => dispatcherFlagFall_law, fun s l x hx hruns hpage hrec hacc => ?_, fun s l x q t hq hw => ?_⟩
  case falls =>
    intro gs t
    rw [flagFall_law hx (State.flagFallDue_of hx hrec hd hst hh hholds hdue hcap) hcap]
    have hpools : t.pools.map (fun (p : Nat × Pool) =>
        if p.2.launch == l && p.2.home == st then (p.1, { p.2 with stopped := true }) else p) = t.pools.map (fun p =>
        if p.2.launch = l ∧ p.2.home = st then (p.1, { p.2 with stopped := true }) else p) :=
      List.map_congr_left fun p _ => ite_of_iff (by simp) rfl rfl
    exact congrArg (fun ps => Host.Outcome.next ((({ t with pools := ps } : State).modLaunch l
      (fun y => { y.falls with ffStacks := st :: y.ffStacks })).event 0x0003 st x.ctx
        (natLe 8 x.desc.launchid.toNat ++ natLe 8 x.desc.flagFall))) hpools
  case saved =>
    obtain ⟨l', y, hl', hkilled, hy, hdone⟩ := State.killSaved_law hx hl
    exact ⟨_, l', y, savedGangDeadline_kills hx hl hsaved hd hdue, hl', hkilled, hy, hdone⟩
  · change execFlagFall l st s = _
    unfold execFlagFall
    rw [h]
    split <;> rfl
  · obtain ⟨hd, hdue, -, -⟩ := h
    rcases hno with hno | hno
    · exact hd hno
    · omega
  · rw [completionRecordWrite_law hx hruns hpage hrec hacc, x.status_eq]
  · unfold State.writeRecord
    simp only [hq]
    rw [show (s.joinLaunch x).cpWrite q x.desc.record.toNat (x.record x.status s.activeNow) = .ok t from hw]

end Sys2Proof.Machine
end
